-- ==== Sys2Proof/Word.lean ====
section
/-!
DEFINITION. The word types of the machine and the sparse tables that its state is made of.
-/

namespace Sys2Proof

/-- One byte (R3: every multi-byte value is little-endian). -/
abbrev Byte := BitVec 8

/-- The 64-bit contents of a scalar, predicate or system register (R56, R57). -/
abbrev Word := BitVec 64

/-- The 64 bytes of a vector register (R75). -/
abbrev Vec := BitVec 512

/-- A sparse table: keys with their values, in rising order of key. -/
abbrev Tab (α : Type) := List (Nat × α)

/-- Register indices as the operand fields name them (R10, R22). -/
abbrev SReg := BitVec 5
abbrev VReg := BitVec 4
abbrev PReg := BitVec 3
abbrev AReg := BitVec 3
abbrev DReg := BitVec 3
abbrev QReg := BitVec 3

end Sys2Proof
end

