-- ==== Sys2Proof/Syntax.lean ====
section
/-!
DEFINITION. The instructions and events of the VX2 as data: one constructor of Instr for each row of the
opcode table. An instruction word's constructor carries its header and its operands as R22 to R28 lay them
out; an event's constructor carries what the event names.
-/

namespace Sys2Proof

/-- Element types 0 to 14 (R24); code 15 is no type. -/
inductive ETy where
  | i8 | i16 | i32 | i64 | n8 | n16 | n32 | n64 | e2m1 | e4m3 | e5m2 | bf16 | f16 | f32 | f64
  deriving DecidableEq, Repr

/-- Rounding modes (R43). -/
inductive RMode where
  | rn | rz | rd | ru
  deriving DecidableEq, Repr

/-- Phase classes (R20); code 11 is no class. -/
inductive PClass where
  | any | compute | exchange
  deriving DecidableEq, Repr

/-- Scopes of ordering forms (R26, R140, R146). -/
inductive Scope where
  | ctx | core | clu | die | pkg | sys
  deriving DecidableEq, Repr

/-- Memory paths (R154). -/
inductive Path where
  | ls | mx | cp | ga | co | sw
  deriving DecidableEq, Repr

/-- Guard and scheduling hints, bits 83:72 of every word (R15, R18, R20). -/
structure Hdr where
  neg   : Bool
  guard : PReg
  stall : BitVec 4
  yield : Bool
  phase : PClass
  reuse : Bool
  deriving DecidableEq, Repr

/-- An s register or a signed 21-bit immediate (R22). -/
inductive SrcSI where
  | s (r : SReg)
  | imm (v : BitVec 21)
  deriving DecidableEq, Repr

/-- A v register, an s register or an immediate. -/
inductive SrcVSI where
  | v (r : VReg)
  | s (r : SReg)
  | imm (v : BitVec 21)
  deriving DecidableEq, Repr

/-- An s or a v register. -/
inductive SrcSV where
  | s (r : SReg)
  | v (r : VReg)
  deriving DecidableEq, Repr

/-- A d or an s register. -/
inductive SrcDS where
  | d (r : DReg)
  | s (r : SReg)
  deriving DecidableEq, Repr

/-- A tag source: an s register or an immediate 0 to 255 (R115). -/
inductive SrcTag where
  | s (r : SReg)
  | imm (v : BitVec 8)
  deriving DecidableEq, Repr

/-- Source and destination of a special function, both scalar or both vector (R89). -/
inductive SfnRegs where
  | s (a b : SReg)
  | v (a b : VReg)
  deriving DecidableEq, Repr

/-- Second source of a sweep (R27). -/
inductive SwSrc where
  | s (r : SReg)
  | v (r : VReg)
  | imm (v : BitVec 5)
  deriving DecidableEq, Repr

/-- Base, step and displacement of a sweep operand (R27). -/
structure SwAddr where
  base : SReg
  step : BitVec 8
  disp : BitVec 11
  deriving DecidableEq, Repr

/-- Two-source integer operation (R59). -/
structure OpRRI where
  ty  : ETy
  sat : Bool
  a   : SReg
  b   : SReg
  c   : SrcSI
  deriving DecidableEq, Repr

/-- Selection by a predicate (R62). -/
structure OpSel where
  ty  : ETy
  a   : SReg
  neg : Bool
  p   : PReg
  b   : SReg
  c   : SrcSI
  deriving DecidableEq, Repr

/-- A 24-bit immediate (R62). -/
structure OpImm where
  ty  : ETy
  a   : SReg
  imm : BitVec 24
  deriving DecidableEq, Repr

/-- Register move (R62). -/
structure OpMov where
  ty : ETy
  a  : SReg
  b  : SrcSI
  deriving DecidableEq, Repr

/-- Scalar integer compare (R63). -/
structure OpCmp where
  ty : ETy
  p  : PReg
  b  : SReg
  c  : SrcSI
  deriving DecidableEq, Repr

/-- Pointer operation with a second source (R64). -/
structure OpPtr where
  a : SReg
  b : SReg
  c : SrcSI
  deriving DecidableEq, Repr

/-- An untyped destination and an untyped source. -/
structure OpRR where
  a : SReg
  b : SReg
  deriving DecidableEq, Repr

/-- Scalar float operation with two sources (R65, R66). -/
structure OpFA where
  ty   : ETy
  rnd  : RMode
  sat  : Bool
  a    : SReg
  b    : SReg
  bneg : Bool
  c    : SReg
  cneg : Bool
  deriving DecidableEq, Repr

/-- Scalar float operation with one source (R65). -/
structure OpFU where
  ty   : ETy
  rnd  : RMode
  sat  : Bool
  a    : SReg
  b    : SReg
  bneg : Bool
  deriving DecidableEq, Repr

/-- Scalar conversion (R68). -/
structure OpCvt where
  dty : ETy
  sty : ETy
  rnd : RMode
  sat : Bool
  a   : SReg
  b   : SReg
  deriving DecidableEq, Repr

/-- Scalar float compare (R67). -/
structure OpFCmp where
  ty : ETy
  p  : PReg
  b  : SReg
  c  : SReg
  deriving DecidableEq, Repr

/-- A register and a word offset (R28). -/
structure OpROff where
  a   : SReg
  off : BitVec 24
  deriving DecidableEq, Repr

/-- Lanewise operation (R76). -/
structure OpVA where
  ty   : ETy
  rnd  : RMode
  sat  : Bool
  a    : VReg
  b    : VReg
  bneg : Bool
  c    : SrcVSI
  cneg : Bool
  deriving DecidableEq, Repr

/-- Lanewise selection (R77). -/
structure OpVSel where
  ty  : ETy
  a   : VReg
  neg : Bool
  p   : PReg
  b   : VReg
  c   : VReg
  deriving DecidableEq, Repr

/-- Lane shuffle (R77). -/
structure OpVShuf where
  ty : ETy
  a  : VReg
  b  : VReg
  c  : VReg
  deriving DecidableEq, Repr

/-- Lane conversion (R80). -/
structure OpVCvt where
  dty : ETy
  sty : ETy
  rnd : RMode
  sat : Bool
  a   : VReg
  b   : VReg
  deriving DecidableEq, Repr

/-- Lane reduction (R78). -/
structure OpVRed where
  ty  : ETy
  rnd : RMode
  sat : Bool
  a   : SReg
  b   : VReg
  deriving DecidableEq, Repr

/-- Broadcast (R77). -/
structure OpVBc where
  ty : ETy
  a  : VReg
  b  : SrcSI
  deriving DecidableEq, Repr

/-- Lanewise compare (R79). -/
structure OpVCmp where
  ty : ETy
  p  : PReg
  b  : VReg
  c  : SrcVSI
  deriving DecidableEq, Repr

/-- Vector load or store (R81). -/
structure OpVMem where
  ty   : ETy
  v    : VReg
  base : SReg
  disp : BitVec 12
  deriving DecidableEq, Repr

/-- Sweep with a second source (R82, R84). -/
structure OpSw where
  ty  : ETy
  dst : SwAddr
  src : SwAddr
  n   : BitVec 12
  c   : SwSrc
  rnd : RMode
  sat : Bool
  deriving DecidableEq, Repr

/-- Converting sweep (R85). -/
structure OpSwCvt where
  dty : ETy
  sty : ETy
  dst : SwAddr
  src : SwAddr
  n   : BitVec 12
  rnd : RMode
  sat : Bool
  deriving DecidableEq, Repr

/-- Clamping sweep (R84). -/
structure OpSwV where
  ty  : ETy
  dst : SwAddr
  src : SwAddr
  n   : BitVec 12
  c   : VReg
  deriving DecidableEq, Repr

/-- Reducing sweep (R86). -/
structure OpSwRed where
  ty  : ETy
  src : SwAddr
  n   : BitVec 12
  c   : VReg
  rnd : RMode
  sat : Bool
  deriving DecidableEq, Repr

/-- Copying sweep (R84). -/
structure OpSwCopy where
  ty  : ETy
  dst : SwAddr
  src : SwAddr
  n   : BitVec 12
  deriving DecidableEq, Repr

/-- Special function (R89). -/
structure OpSfn where
  ty   : ETy
  rnd  : RMode
  sat  : Bool
  r    : SfnRegs
  bneg : Bool
  deriving DecidableEq, Repr

/-- Panel load (R93). -/
structure OpMld where
  base : SReg
  disp : BitVec 12
  sh   : SReg
  deriving DecidableEq, Repr

/-- Dense K-steps (R97). -/
structure OpMmac where
  ty : ETy
  a  : AReg
  deriving DecidableEq, Repr

/-- Structured-sparse K-steps (R99). -/
structure OpMmacSp where
  ty : ETy
  a  : AReg
  m  : SReg
  deriving DecidableEq, Repr

/-- Scaled accumulation (R100). -/
structure OpMscale where
  a : AReg
  b : AReg
  c : VReg
  deriving DecidableEq, Repr

/-- Epilogue store (R101). -/
structure OpMepi where
  ty   : ETy
  rnd  : RMode
  sat  : Bool
  a    : AReg
  base : SReg
  disp : BitVec 12
  deriving DecidableEq, Repr

/-- Tile status (R105). -/
structure OpMstat where
  a : SReg
  b : AReg
  deriving DecidableEq, Repr

/-- A region pointer and a swizzle code (R106, R191). -/
structure OpSCode where
  b    : SReg
  code : BitVec 3
  deriving DecidableEq, Repr

/-- Distribution image load or store (R117). -/
structure OpDMem where
  d    : DReg
  base : SReg
  disp : BitVec 12
  deriving DecidableEq, Repr

/-- Point mass (R121). -/
structure OpDpt where
  a : DReg
  b : SrcSV
  deriving DecidableEq, Repr

/-- Elementwise distribution operation (R120). -/
structure OpD3 where
  a : DReg
  b : DReg
  c : DReg
  deriving DecidableEq, Repr

/-- Mixture (R121). -/
structure OpDmix where
  a : DReg
  b : DReg
  c : SReg
  deriving DecidableEq, Repr

/-- Tag write (R121). -/
structure OpDtag where
  a : DReg
  b : SrcTag
  deriving DecidableEq, Repr

/-- Moments (R123). -/
structure OpDmom where
  a : VReg
  b : DReg
  deriving DecidableEq, Repr

/-- Quantile (R124). -/
structure OpDqnt where
  a : VReg
  b : DReg
  c : SReg
  deriving DecidableEq, Repr

/-- Relaxed load or store (R176). -/
structure OpLd where
  ty   : ETy
  r    : SReg
  base : SReg
  disp : BitVec 12
  deriving DecidableEq, Repr

/-- Acquire load or release store (R176). -/
structure OpLdO where
  ty   : ETy
  r    : SReg
  sc   : Scope
  base : SReg
  disp : BitVec 12
  deriving DecidableEq, Repr

/-- Prefetch (R182). -/
structure OpPref where
  ty   : ETy
  base : SReg
  disp : BitVec 12
  deriving DecidableEq, Repr

/-- Bank atomic (R183). -/
structure OpAtm where
  ty   : ETy
  rnd  : RMode
  a    : SReg
  sc   : Option Scope
  base : SReg
  disp : BitVec 12
  c    : SReg
  deriving DecidableEq, Repr

/-- Path pair (R155). -/
structure OpFencep where
  src : Path
  dst : Path
  deriving DecidableEq, Repr

/-- A slot and a register (R190). -/
structure OpSlotC where
  slot : BitVec 5
  c    : SReg
  deriving DecidableEq, Repr

/-- A destination and a slot (R190). -/
structure OpASlot where
  a    : SReg
  slot : BitVec 5
  deriving DecidableEq, Repr

/-- Engine start (R192). -/
structure OpQGo where
  q  : QReg
  b  : SReg
  ch : BitVec 8
  id : BitVec 16
  deriving DecidableEq, Repr

/-- Queue append (R202). -/
structure OpQPush where
  q : QReg
  b : SrcSV
  deriving DecidableEq, Repr

/-- Queue removal (R202). -/
structure OpQPop where
  a : SrcSV
  q : QReg
  deriving DecidableEq, Repr

/-- Helper start (R246). -/
structure OpHStart where
  a   : SReg
  b   : SReg
  off : BitVec 24
  deriving DecidableEq, Repr

/-- Exchange send (R253). -/
structure OpXsend where
  a   : SReg
  b   : VReg
  cyc : BitVec 16
  deriving DecidableEq, Repr

/-- Exchange receive (R254). -/
structure OpXrecv where
  a   : VReg
  cyc : BitVec 16
  deriving DecidableEq, Repr

/-- Ring removal (R255). -/
structure OpRPop where
  p : PReg
  b : SrcSV
  deriving DecidableEq, Repr

/-- System register access (R286). -/
structure OpSys where
  num : BitVec 12
  b   : SReg
  deriving DecidableEq, Repr

/-- Two untyped sources. -/
structure OpBC where
  b : SReg
  c : SReg
  deriving DecidableEq, Repr

/-- What the host writes with a posted write (R152, R276). -/
inductive HostWrite where
  /-- bytes at a device address -/
  | device (addr : Nat) (bytes : List Byte)
  /-- bytes of a queue window's Staging area, through the function of a virtual device -/
  | staging (vdev queue off : Nat) (bytes : List Byte)
  deriving DecidableEq, Repr

/-- Where a read of the host begins (R152, R275, R276, R281): in device memory, BAR0 of a virtual device's function, or BAR2. -/
inductive HostPlace where
  | device (addr : Nat)
  | bar0 (vdev off : Nat)
  | bar2 (off : Nat)
  /-- a register of the host queue controls, with the selections of sr.sel (R221, R222, R224) -/
  | control (num part cluster queue : Nat)
  /-- the error log of BAR2 (R275, R283) -/
  | errorLog
  deriving DecidableEq, Repr

/-- Where a check of R283 meets an error: the operand queue of a core, a word of a bank, a line of HBM or of an expander, or
a flit, on the mesh or at a bridge, of an access, a message or a piece of engine or matrix work; fixed says that the check repairs it. -/
inductive ErrorPlace where
  | queue (core : Nat)
  | bank (pkg word : Nat) (fixed : Bool)
  | line (line : Nat) (fixed : Bool)
  | flit (id : Nat) (fixed : Bool)
  /-- the bridge of a die and the hub no longer reach each other (R205) -/
  | bridge (die : Nat)
  deriving DecidableEq, Repr

/-- How the host's completer answers a space-3 request (R151, R181). -/
inductive HostAnswer where
  | success (value : Nat)
  | refused
  | poisoned
  deriving DecidableEq, Repr

/-- What an atomic does at its home (R183). -/
inductive AtmOp where
  | add | and | or | xor | min | max | fadd | swap | cas | incb
  deriving DecidableEq, Repr

/-- What a peer's flit asks or answers: the request of this device that it answers, a store, a load or an atomic of this device's memory,
or nothing of these. -/
inductive FlitUse where
  | none
  | answer (id : Nat)
  | store (addr size : Nat)
  | load (addr size : Nat)
  | atomic (addr : Nat) (op : AtmOp) (ty : ETy) (c c2 : Nat)
  deriving DecidableEq, Repr

/-- A Silkenor flit as it was sent: header, payload, CRC and parity (R279); errs are the bytes, by place, that arrive otherwise than
they were sent. -/
structure Flit where
  hdr     : BitVec 32
  payload : List Byte
  crc     : BitVec 32
  parity  : List Byte
  errs    : List (Nat × Byte)
  use     : FlitUse
  deriving DecidableEq, Repr

/-- A host or hypervisor write to a register that has no row of its own (R221, R222, R224, R286, R336),
and the other actions of the host at L2 that R261 and R264 name. -/
inductive RegWrite where
  /-- a system register at L2, with the selections of sr.sel -/
  | sys (num : Nat) (part cluster queue : Nat) (value : Word)
  /-- BAR2 DBIDX (R336) -/
  | dbidx (value : Nat)
  /-- a device context started at L2 (R264) -/
  | startContext (core ctx : Nat) (pc xlat : Word)
  /-- assign or release a cluster as `pmap` does (R261, R302) -/
  | cluster (rank part : Nat) (release : Bool)
  /-- an inbound read's expander extent, as firmware programs it at boot (R277) -/
  | expander (port gib : Nat)
  /-- the Cap of an island's sr.vfctl, which L3 writes (R284) -/
  | cap (island point : Nat)
  deriving DecidableEq, Repr

/-- What a boot finds outside the device: check results, measured values, the virtual-die map that firmware
writes and the capacity of each CXL expander (R273, R277, R280). -/
structure BootInput where
  sigOk    : Bool
  fuseOk   : Bool
  trainOk  : Bool
  measures : List (List Byte)
  vdiemap  : BitVec 8
  gib      : List Nat
  deriving DecidableEq, Repr

/-- One constructor for each row of the opcode table (R29; events: spec/95). -/
inductive Instr where
  | add (h : Hdr) (x : OpRRI)
  | sub (h : Hdr) (x : OpRRI)
  | mul (h : Hdr) (x : OpRRI)
  | mulh (h : Hdr) (x : OpRRI)
  | div (h : Hdr) (x : OpRRI)
  | rem (h : Hdr) (x : OpRRI)
  | and (h : Hdr) (x : OpRRI)
  | or (h : Hdr) (x : OpRRI)
  | xor (h : Hdr) (x : OpRRI)
  | shl (h : Hdr) (x : OpRRI)
  | shr (h : Hdr) (x : OpRRI)
  | sar (h : Hdr) (x : OpRRI)
  | min (h : Hdr) (x : OpRRI)
  | max (h : Hdr) (x : OpRRI)
  | sel (h : Hdr) (x : OpSel)
  | li (h : Hdr) (x : OpImm)
  | lui (h : Hdr) (x : OpImm)
  | mov (h : Hdr) (x : OpMov)
  | cmpEq (h : Hdr) (x : OpCmp)
  | cmpNe (h : Hdr) (x : OpCmp)
  | cmpLt (h : Hdr) (x : OpCmp)
  | cmpLe (h : Hdr) (x : OpCmp)
  | cmpGt (h : Hdr) (x : OpCmp)
  | cmpGe (h : Hdr) (x : OpCmp)
  | ptag (h : Hdr) (x : OpPtr)
  | pspace (h : Hdr) (x : OpRR)
  | powner (h : Hdr) (x : OpRR)
  | poff (h : Hdr) (x : OpRR)
  | padd (h : Hdr) (x : OpPtr)
  | fadd (h : Hdr) (x : OpFA)
  | fsub (h : Hdr) (x : OpFA)
  | fmul (h : Hdr) (x : OpFA)
  | ffma (h : Hdr) (x : OpFA)
  | fdiv (h : Hdr) (x : OpFA)
  | fsqrt (h : Hdr) (x : OpFU)
  | fmin (h : Hdr) (x : OpFA)
  | fmax (h : Hdr) (x : OpFA)
  | fcvt (h : Hdr) (x : OpCvt)
  | fcmpEq (h : Hdr) (x : OpFCmp)
  | fcmpNe (h : Hdr) (x : OpFCmp)
  | fcmpLt (h : Hdr) (x : OpFCmp)
  | fcmpLe (h : Hdr) (x : OpFCmp)
  | fcmpGt (h : Hdr) (x : OpFCmp)
  | fcmpGe (h : Hdr) (x : OpFCmp)
  | fcmpUn (h : Hdr) (x : OpFCmp)
  | nop (h : Hdr)
  | br (h : Hdr) (off : BitVec 24)
  | bcZ (h : Hdr) (x : OpROff)
  | bcNz (h : Hdr) (x : OpROff)
  | call (h : Hdr) (x : OpROff)
  | ret (h : Hdr) (b : SReg)
  | jmp (h : Hdr) (b : SReg)
  | loop (h : Hdr) (x : OpROff)
  | uend (h : Hdr)
  | trapi (h : Hdr) (code : BitVec 24)
  | vadd (h : Hdr) (x : OpVA)
  | vsub (h : Hdr) (x : OpVA)
  | vmul (h : Hdr) (x : OpVA)
  | vfma (h : Hdr) (x : OpVA)
  | vmin (h : Hdr) (x : OpVA)
  | vmax (h : Hdr) (x : OpVA)
  | vand (h : Hdr) (x : OpVA)
  | vor (h : Hdr) (x : OpVA)
  | vxor (h : Hdr) (x : OpVA)
  | vsel (h : Hdr) (x : OpVSel)
  | vcvt (h : Hdr) (x : OpVCvt)
  | vred (h : Hdr) (x : OpVRed)
  | vbcast (h : Hdr) (x : OpVBc)
  | vshuf (h : Hdr) (x : OpVShuf)
  | vcmpEq (h : Hdr) (x : OpVCmp)
  | vcmpNe (h : Hdr) (x : OpVCmp)
  | vcmpLt (h : Hdr) (x : OpVCmp)
  | vcmpLe (h : Hdr) (x : OpVCmp)
  | vcmpGt (h : Hdr) (x : OpVCmp)
  | vcmpGe (h : Hdr) (x : OpVCmp)
  | vcmpUn (h : Hdr) (x : OpVCmp)
  | vld (h : Hdr) (x : OpVMem)
  | vst (h : Hdr) (x : OpVMem)
  | wadd (h : Hdr) (x : OpSw)
  | wsub (h : Hdr) (x : OpSw)
  | wmul (h : Hdr) (x : OpSw)
  | wfma (h : Hdr) (x : OpSw)
  | wmin (h : Hdr) (x : OpSw)
  | wmax (h : Hdr) (x : OpSw)
  | wcvt (h : Hdr) (x : OpSwCvt)
  | wclamp (h : Hdr) (x : OpSwV)
  | wred (h : Hdr) (x : OpSwRed)
  | wcopy (h : Hdr) (x : OpSwCopy)
  | exp2 (h : Hdr) (x : OpSfn)
  | log2 (h : Hdr) (x : OpSfn)
  | exp (h : Hdr) (x : OpSfn)
  | log (h : Hdr) (x : OpSfn)
  | rcp (h : Hdr) (x : OpSfn)
  | rsqrt (h : Hdr) (x : OpSfn)
  | tanh (h : Hdr) (x : OpSfn)
  | sigm (h : Hdr) (x : OpSfn)
  | mldA (h : Hdr) (x : OpMld)
  | mldB (h : Hdr) (x : OpMld)
  | mzero (h : Hdr) (a : AReg)
  | mmac (h : Hdr) (x : OpMmac)
  | mmacSp (h : Hdr) (x : OpMmacSp)
  | mscale (h : Hdr) (x : OpMscale)
  | mepi (h : Hdr) (x : OpMepi)
  | mdrain (h : Hdr) (a : AReg)
  | mstat (h : Hdr) (x : OpMstat)
  | mrepl (h : Hdr) (b : SReg)
  | mswz (h : Hdr) (x : OpSCode)
  | dld (h : Hdr) (x : OpDMem)
  | dstr (h : Hdr) (x : OpDMem)
  | dpt (h : Hdr) (x : OpDpt)
  | dadd (h : Hdr) (x : OpD3)
  | dsub (h : Hdr) (x : OpD3)
  | dmul (h : Hdr) (x : OpD3)
  | dmax (h : Hdr) (x : OpD3)
  | dmin (h : Hdr) (x : OpD3)
  | dmix (h : Hdr) (x : OpDmix)
  | dtag (h : Hdr) (x : OpDtag)
  | dmom (h : Hdr) (x : OpDmom)
  | dqnt (h : Hdr) (x : OpDqnt)
  | ld (h : Hdr) (x : OpLd)
  | ldAcq (h : Hdr) (x : OpLdO)
  | st (h : Hdr) (x : OpLd)
  | stRel (h : Hdr) (x : OpLdO)
  | ldg (h : Hdr) (x : OpLd)
  | ldgAcq (h : Hdr) (x : OpLdO)
  | stg (h : Hdr) (x : OpLd)
  | stgRel (h : Hdr) (x : OpLdO)
  | ldh (h : Hdr) (x : OpLd)
  | ldhAcq (h : Hdr) (x : OpLdO)
  | sth (h : Hdr) (x : OpLd)
  | sthRel (h : Hdr) (x : OpLdO)
  | pref (h : Hdr) (x : OpPref)
  | atmAdd (h : Hdr) (x : OpAtm)
  | atmAnd (h : Hdr) (x : OpAtm)
  | atmOr (h : Hdr) (x : OpAtm)
  | atmXor (h : Hdr) (x : OpAtm)
  | atmMin (h : Hdr) (x : OpAtm)
  | atmMax (h : Hdr) (x : OpAtm)
  | atmFadd (h : Hdr) (x : OpAtm)
  | atmSwap (h : Hdr) (x : OpAtm)
  | atmCas (h : Hdr) (x : OpAtm)
  | atmIncb (h : Hdr) (x : OpAtm)
  | fenceCtx (h : Hdr)
  | fenceCore (h : Hdr)
  | fenceClu (h : Hdr)
  | fenceDie (h : Hdr)
  | fenceSys (h : Hdr)
  | fencePkg (h : Hdr)
  | fencep (h : Hdr) (x : OpFencep)
  | fiss (h : Hdr) (a : SReg)
  | fwait (h : Hdr) (b : SReg)
  | txdeclR (h : Hdr) (b : SReg)
  | txdeclW (h : Hdr) (b : SReg)
  | txsub (h : Hdr) (a : SReg)
  | txwait (h : Hdr) (b : SReg)
  | txend (h : Hdr) (b : SReg)
  | bhand (h : Hdr) (x : OpSlotC)
  | bwait (h : Hdr) (slot : BitVec 5)
  | bstat (h : Hdr) (x : OpASlot)
  | bswz (h : Hdr) (x : OpSCode)
  | battach (h : Hdr) (x : OpSlotC)
  | brevoke (h : Hdr) (b : SReg)
  | cpgo (h : Hdr) (x : OpQGo)
  | cpwait (h : Hdr) (id : BitVec 16)
  | swgo (h : Hdr) (x : OpQGo)
  | gath (h : Hdr) (x : OpQGo)
  | coll (h : Hdr) (x : OpQGo)
  | qpush (h : Hdr) (x : OpQPush)
  | qpop (h : Hdr) (x : OpQPop)
  | uiret (h : Hdr)
  | hstart (h : Hdr) (x : OpHStart)
  | hend (h : Hdr)
  | hwait (h : Hdr) (b : SReg)
  | launch (h : Hdr) (x : OpRR)
  | lwait (h : Hdr) (b : SReg)
  | cancelLaunch (h : Hdr) (b : SReg)
  | cancelGraph (h : Hdr) (b : SReg)
  | cancelSession (h : Hdr) (b : SReg)
  | cancelJob (h : Hdr) (b : SReg)
  | bar (h : Hdr)
  | xsend (h : Hdr) (x : OpXsend)
  | xrecv (h : Hdr) (x : OpXrecv)
  | rpush (h : Hdr) (b : SrcSV)
  | rpop (h : Hdr) (x : OpRPop)
  | reos (h : Hdr)
  | prog (h : Hdr) (b : SrcDS)
  | yield (h : Hdr)
  | sysr (h : Hdr) (x : OpSys)
  | sysw (h : Hdr) (x : OpSys)
  | ovtld (h : Hdr) (b : SReg)
  | ctxsave (h : Hdr) (x : OpBC)
  | ctxload (h : Hdr) (x : OpBC)
  | tlbinv (h : Hdr) (x : OpBC)
  | tlbsync (h : Hdr)
  | hcall (h : Hdr) (code : BitVec 24)
  | trapret (h : Hdr)
  | evpost (h : Hdr) (x : OpRR)
  | wipe (h : Hdr) (x : OpBC)
  | pmap (h : Hdr) (x : OpBC)
  | matrixCommandExecute (core : Nat)
  | epilogueRowFault (core : Nat) (phys : Nat)
  | panelRefetch (core : Nat)
  | drainMarkerReply (core : Nat) (ctx : Nat) (die : Nat)
  | submissionAccepted (core : Nat) (ctx : Nat)
  | batchClose (die : Nat)
  | batchApply (die : Nat)
  | sequencerApplyResume (die : Nat)
  | sliceGrant (idx : Nat)
  | sliceRelease (idx : Nat)
  | txHold (core : Nat) (ctx : Nat)
  | handoverPoint (pkg : Nat)
  | bankReturn (pkg : Nat)
  | bankWipeDone (pkg : Nat)
  | channelArbitration (ch : Nat)
  | strandRun (ch : Nat)
  | userInterrupt (core : Nat) (ctx : Nat)
  | gatherFinish (idx : Nat)
  | collectiveFinish (queue : Nat) (seq : Nat) (id : Nat)
  | barrierComplete (queue : Nat) (seq : Nat)
  | exchangeDelivery (id : Nat)
  | governorEvaluation (die : Nat)
  | accessArrival (id : Nat)
  | storeAcknowledged (id : Nat)
  | remoteRefused (id : Nat)
  | pageWalkFill (idx : Nat)
  | trapEntry (core : Nat) (ctx : Nat)
  | fatalTrap (core : Nat) (ctx : Nat)
  | recordRead (queue : Nat)
  | launchArbitration (part : Nat)
  | dependenceReread (queue : Nat)
  | launchStart (queue : Nat)
  | preloadRun (queue : Nat) (seq : Nat)
  | launchComplete (queue : Nat) (seq : Nat)
  | cancellation (idx : Nat)
  | hostTimeout (id : Nat)
  | evictionDecision (idx : Nat)
  | lastSafeMoment (part : Nat)
  | deadlineChainStart (part : Nat) (queue : Nat)
  | laneGrant (ch : Nat)
  | swapOutStrand (ch : Nat)
  | swapInStrand (ch : Nat)
  | dieResetComplete (die : Nat)
  | branchResolution (core : Nat) (ctx : Nat)
  | loadValueReturn (id : Nat)
  | pointChangeDone (island : Nat)
  | ringcfgWrite (cluster : Nat) (ring : Nat) (value : Word)
  | wqchainWrite (queue : Nat) (value : Word)
  | vdiemapWrite (value : Word)
  | trapqWrite (part : Nat) (k : Nat)
  | fatalClear (part : Nat) (value : Word)
  | registerWrite (w : RegWrite)
  | stopImageRestore (addr : Nat)
  | deviceReset (b : BootInput)
  | measurementExtend (reg : Nat) (value : List Byte)
  | lifeCycleAdvance (signed : Bool)
  | dieReset (die : Nat)
  | partitionTeardown (part : Nat) (pages : List Nat)
  | vfctlWrite (island : Nat) (value : Word)
  | partitionCreation (part : Nat) (vdev : Nat)
  | firmwareUpdate (reg : Nat) (value : List Byte)
  | doorbell (vdev : Nat) (queue : Nat) (value : BitVec 32)
  | queueStatusClear (vdev : Nat) (queue : Nat) (value : BitVec 32)
  | inboundPostedWrite (w : HostWrite)
  | inboundRead (addr : HostPlace) (size : Nat)
  | hostCompletion (id : Nat) (answer : HostAnswer)
  | flitReceive (link : Nat) (f : Flit)
  | linkDown (link : Nat)
  | linkRetrain (link : Nat)
  | spliceMarkerReceive (link : Nat) (job : BitVec 32)
  | resumeRequest (base : Nat) (core : Nat)
  | bar2Evpost (req : List Byte)
  | operandQueueParityError (place : ErrorPlace)
  | stallExpiry (core : Nat) (ctx : Nat)
  | preemptRequest (core : Nat) (base : Nat)
  | thermalStep (island : Nat) (temp : BitVec 8)
  | migrationStop (addr : Nat)
  | jobCut (job : BitVec 32)
  | illegalWord
  | dbword
  | getMeasurements
  | allowanceRefill
  deriving DecidableEq, Repr

end Sys2Proof
end

