-- ==== Sys2Proof/WellFormed.lean ====
section
/-!
DEFINITION. Which instructions a word may hold: the field rules of R22 to R28 that the types of the operands
do not already say, and the restrictions that the reference chapters call encoding checks.
-/

namespace Sys2Proof

/-- Whether the place of an error exists (R11). -/
def ErrorPlace.ok : ErrorPlace → Bool
  | .queue core => decide (core < 1536)
  | .bank pkg word _ => decide (pkg < 12288) && decide (word < 8192)
  | _ => true

/-- Element type sizes in bytes (R24). -/
def ETy.size : ETy → Nat
  | .i8 | .n8 | .e2m1 | .e4m3 | .e5m2 => 1
  | .i16 | .n16 | .bf16 | .f16 => 2
  | .i32 | .n32 | .f32 => 4
  | .i64 | .n64 | .f64 => 8

/-- Types 0 to 7 (R24, R59). -/
def ETy.isInt : ETy → Bool
  | .i8 | .i16 | .i32 | .i64 | .n8 | .n16 | .n32 | .n64 => true
  | _ => false

/-- The signed integer types (R38). -/
def ETy.isSigned : ETy → Bool
  | .i8 | .i16 | .i32 | .i64 => true
  | _ => false

/-- Types 9 to 14: float formats of their own width (R39). -/
def ETy.isFloat : ETy → Bool
  | .e4m3 | .e5m2 | .bf16 | .f16 | .f32 | .f64 => true
  | _ => false

/-- Types 3 and 7 (R62). -/
def ETy.is64 : ETy → Bool
  | .i64 | .n64 => true
  | _ => false

/-- f32 and f64 (R65). -/
def ETy.isF32F64 : ETy → Bool
  | .f32 | .f64 => true
  | _ => false

/-- Types 0 to 7 and 9 to 13 (R75). -/
def ETy.isVec (t : ETy) : Bool := t.isInt || (t.isFloat && t != .f64)

/-- Float types of vectors (R79). -/
def ETy.isVecFloat (t : ETy) : Bool := t.isFloat && t != .f64

/-- Types 0 to 7 and 9 to 14 (R177). -/
def ETy.isMem (t : ETy) : Bool := t != .e2m1

/-- Operand formats of the matrix unit (R97). -/
def ETy.isMat : ETy → Bool
  | .i8 | .e2m1 | .e4m3 | .e5m2 | .bf16 | .f16 => true
  | _ => false

/-- Store types of an epilogue, both lists of R101 together. -/
def ETy.isStoreTy : ETy → Bool
  | .i8 | .i16 | .i32 | .n8 | .n16 | .n32 | .e4m3 | .e5m2 | .bf16 | .f16 | .f32 => true
  | _ => false

/-- Types of the integer atomics (R183). -/
def ETy.isAtm : ETy → Bool
  | .i32 | .n32 | .i64 | .n64 => true
  | _ => false

/-- Types of atm.fadd (R183). -/
def ETy.isAtmF : ETy → Bool
  | .f32 | .bf16 => true
  | _ => false

/-- The rounding field names a mode other than rn only where a float type is involved (R75, R68). -/
def roundOk (float : Bool) (m : RMode) : Bool := float || m == .rn

/-- Channels of cpgo (R192). -/
def isCpChan (ch : BitVec 8) : Bool := ch.toNat < 4 || (0x80 ≤ ch.toNat && ch.toNat ≤ 0x9F)

/-- Channels of swgo (R192). -/
def isSwChan (ch : BitVec 8) : Bool := ch.toNat < 8

/-- Channel of gath and coll (R192). -/
def isZeroChan (ch : BitVec 8) : Bool := ch == 0

/-- A blk32 pairing of vcvt: one side e2m1, the other a float of at most 32 bits, with an even register on an
f32 side (R80); or no e2m1 at all (R68). -/
def vcvtOk (x : OpVCvt) : Bool :=
  if x.dty == .e2m1 then x.sty.isVecFloat && (x.sty != .f32 || x.b.toNat % 2 == 0)
  else if x.sty == .e2m1 then x.dty.isVecFloat && (x.dty != .f32 || x.a.toNat % 2 == 0)
  else x.dty.isVec && x.sty.isVec

/-- Negation stands only on float types (R75). -/
def negOk (float neg : Bool) : Bool := float || !neg

/-- An immediate carries no negate bit (R22). -/
def cnegOk (c : SrcVSI) (neg : Bool) : Bool :=
  match c with
  | .imm _ => !neg
  | _ => true

/-- Types of the special functions by operand kind (R54). -/
def sfnTyOk (t : ETy) : SfnRegs → Bool
  | .s _ _ => t == .f32 || t == .f64
  | .v _ _ => t == .f32 || t == .bf16 || t == .f16

/-- Whether a word of the instruction passes the field rules; an event has no word and passes when the core,
context, die or queue it names exists (R10, R11). -/
def Instr.wf : Instr → Bool
  | .add _ x => x.ty.isInt
  | .sub _ x => x.ty.isInt
  | .mul _ x => x.ty.isInt
  | .mulh _ x => x.ty.isInt && !x.sat
  | .div _ x => x.ty.isInt
  | .rem _ x => x.ty.isInt && !x.sat
  | .and _ x => x.ty.isInt && !x.sat
  | .or _ x => x.ty.isInt && !x.sat
  | .xor _ x => x.ty.isInt && !x.sat
  | .shl _ x => x.ty.isInt && !x.sat
  | .shr _ x => x.ty.isInt && !x.sat
  | .sar _ x => x.ty.isInt && !x.sat
  | .min _ x => x.ty.isInt && !x.sat
  | .max _ x => x.ty.isInt && !x.sat
  | .sel _ x => x.ty.isInt
  | .li _ x => x.ty.is64
  | .lui _ x => x.ty.is64
  | .mov _ x => x.ty.is64
  | .cmpEq _ x => x.ty.isInt
  | .cmpNe _ x => x.ty.isInt
  | .cmpLt _ x => x.ty.isInt
  | .cmpLe _ x => x.ty.isInt
  | .cmpGt _ x => x.ty.isInt
  | .cmpGe _ x => x.ty.isInt
  | .ptag _ _ => true
  | .pspace _ _ => true
  | .powner _ _ => true
  | .poff _ _ => true
  | .padd _ _ => true
  | .fadd _ x => x.ty.isF32F64
  | .fsub _ x => x.ty.isF32F64
  | .fmul _ x => x.ty.isF32F64
  | .ffma _ x => x.ty.isF32F64
  | .fdiv _ x => x.ty.isF32F64
  | .fsqrt _ x => x.ty.isF32F64
  | .fmin _ x => x.ty.isF32F64 && x.rnd == .rn && !x.sat
  | .fmax _ x => x.ty.isF32F64 && x.rnd == .rn && !x.sat
  | .fcvt _ x => x.dty.isMem && x.sty.isMem && roundOk (x.dty.isFloat || x.sty.isFloat) x.rnd
  | .fcmpEq _ x => x.ty.isF32F64
  | .fcmpNe _ x => x.ty.isF32F64
  | .fcmpLt _ x => x.ty.isF32F64
  | .fcmpLe _ x => x.ty.isF32F64
  | .fcmpGt _ x => x.ty.isF32F64
  | .fcmpGe _ x => x.ty.isF32F64
  | .fcmpUn _ x => x.ty.isF32F64
  | .nop _ => true
  | .br _ _ => true
  | .bcZ _ _ => true
  | .bcNz _ _ => true
  | .call _ _ => true
  | .ret _ _ => true
  | .jmp _ _ => true
  | .loop _ _ => true
  | .uend _ => true
  | .trapi _ _ => true
  | .vadd _ x => x.ty.isVec && cnegOk x.c x.cneg && roundOk x.ty.isFloat x.rnd && negOk x.ty.isFloat x.bneg && negOk x.ty.isFloat x.cneg
  | .vsub _ x => x.ty.isVec && cnegOk x.c x.cneg && roundOk x.ty.isFloat x.rnd && negOk x.ty.isFloat x.bneg && negOk x.ty.isFloat x.cneg
  | .vmul _ x => x.ty.isVec && cnegOk x.c x.cneg && roundOk x.ty.isFloat x.rnd && negOk x.ty.isFloat x.bneg && negOk x.ty.isFloat x.cneg
  | .vfma _ x => x.ty.isVec && cnegOk x.c x.cneg && roundOk x.ty.isFloat x.rnd && negOk x.ty.isFloat x.bneg && negOk x.ty.isFloat x.cneg
  | .vmin _ x => x.ty.isVec && cnegOk x.c x.cneg && x.rnd == .rn && !x.sat && !x.bneg && !x.cneg
  | .vmax _ x => x.ty.isVec && cnegOk x.c x.cneg && x.rnd == .rn && !x.sat && !x.bneg && !x.cneg
  | .vand _ x => x.ty.isInt && cnegOk x.c x.cneg && x.rnd == .rn && !x.sat && !x.bneg && !x.cneg
  | .vor _ x => x.ty.isInt && cnegOk x.c x.cneg && x.rnd == .rn && !x.sat && !x.bneg && !x.cneg
  | .vxor _ x => x.ty.isInt && cnegOk x.c x.cneg && x.rnd == .rn && !x.sat && !x.bneg && !x.cneg
  | .vsel _ x => x.ty.isVec
  | .vcvt _ x => vcvtOk x && roundOk (!x.dty.isInt || !x.sty.isInt) x.rnd
  | .vred _ x => x.ty.isVec && roundOk x.ty.isFloat x.rnd
  | .vbcast _ x => x.ty.isVec
  | .vshuf _ x => x.ty.isInt
  | .vcmpEq _ x => x.ty.isVec
  | .vcmpNe _ x => x.ty.isVec
  | .vcmpLt _ x => x.ty.isVec
  | .vcmpLe _ x => x.ty.isVec
  | .vcmpGt _ x => x.ty.isVec
  | .vcmpGe _ x => x.ty.isVec
  | .vcmpUn _ x => x.ty.isVecFloat
  | .vld _ x => x.ty.isVec
  | .vst _ x => x.ty.isVec
  | .wadd _ x => x.ty.isVec && x.n != 0 && roundOk x.ty.isFloat x.rnd
  | .wsub _ x => x.ty.isVec && x.n != 0 && roundOk x.ty.isFloat x.rnd
  | .wmul _ x => x.ty.isVec && x.n != 0 && roundOk x.ty.isFloat x.rnd
  | .wfma _ x => x.ty.isVec && x.n != 0 && roundOk x.ty.isFloat x.rnd
  | .wmin _ x => x.ty.isVec && x.n != 0 && x.rnd == .rn && !x.sat
  | .wmax _ x => x.ty.isVec && x.n != 0 && x.rnd == .rn && !x.sat
  | .wcvt _ x => x.dty.isVec && x.sty.isVec && x.n != 0 && x.sty.size ≤ 4 * x.dty.size && roundOk (x.dty.isFloat || x.sty.isFloat) x.rnd
  | .wclamp _ x => x.ty.isVec && x.n != 0
  | .wred _ x => x.ty.isVec && x.n != 0 && roundOk x.ty.isFloat x.rnd
  | .wcopy _ x => x.ty.isVec && x.n != 0
  | .exp2 _ x => sfnTyOk x.ty x.r
  | .log2 _ x => sfnTyOk x.ty x.r
  | .exp _ x => sfnTyOk x.ty x.r
  | .log _ x => sfnTyOk x.ty x.r
  | .rcp _ x => sfnTyOk x.ty x.r
  | .rsqrt _ x => sfnTyOk x.ty x.r
  | .tanh _ x => sfnTyOk x.ty x.r
  | .sigm _ x => sfnTyOk x.ty x.r
  | .mldA _ _ => true
  | .mldB _ _ => true
  | .mzero _ _ => true
  | .mmac _ x => x.ty.isMat
  | .mmacSp _ x => x.ty.isMat
  | .mscale _ x => x.c.toNat % 2 == 0
  | .mepi _ x => x.ty.isStoreTy
  | .mdrain _ _ => true
  | .mstat _ _ => true
  | .mrepl _ _ => true
  | .mswz _ _ => true
  | .dld _ _ => true
  | .dstr _ _ => true
  | .dpt _ _ => true
  | .dadd _ _ => true
  | .dsub _ _ => true
  | .dmul _ _ => true
  | .dmax _ _ => true
  | .dmin _ _ => true
  | .dmix _ _ => true
  | .dtag _ _ => true
  | .dmom _ x => x.a.toNat % 2 == 0
  | .dqnt _ _ => true
  | .ld _ x => x.ty.isMem
  | .ldAcq _ x => x.ty.isMem
  | .st _ x => x.ty.isMem
  | .stRel _ x => x.ty.isMem
  | .ldg _ x => x.ty.isMem
  | .ldgAcq _ x => x.ty.isMem
  | .stg _ x => x.ty.isMem
  | .stgRel _ x => x.ty.isMem
  | .ldh _ x => x.ty.isMem
  | .ldhAcq _ x => x.ty.isMem
  | .sth _ x => x.ty.isMem
  | .sthRel _ x => x.ty.isMem
  | .pref _ x => x.ty.isMem
  | .atmAdd _ x => x.ty.isAtm && x.rnd == .rn
  | .atmAnd _ x => x.ty.isAtm && x.rnd == .rn
  | .atmOr _ x => x.ty.isAtm && x.rnd == .rn
  | .atmXor _ x => x.ty.isAtm && x.rnd == .rn
  | .atmMin _ x => x.ty.isAtm && x.rnd == .rn
  | .atmMax _ x => x.ty.isAtm && x.rnd == .rn
  | .atmFadd _ x => x.ty.isAtmF
  | .atmSwap _ x => x.ty.isAtm && x.rnd == .rn
  | .atmCas _ x => x.ty.isAtm && x.rnd == .rn && x.c.toNat % 2 == 0
  | .atmIncb _ x => x.ty.isAtm && x.rnd == .rn
  | .fenceCtx _ => true
  | .fenceCore _ => true
  | .fenceClu _ => true
  | .fenceDie _ => true
  | .fenceSys _ => true
  | .fencePkg _ => true
  | .fencep _ x => x.src != x.dst
  | .fiss _ _ => true
  | .fwait _ _ => true
  | .txdeclR _ _ => true
  | .txdeclW _ _ => true
  | .txsub _ _ => true
  | .txwait _ _ => true
  | .txend _ _ => true
  | .bhand _ _ => true
  | .bwait _ _ => true
  | .bstat _ _ => true
  | .bswz _ _ => true
  | .battach _ _ => true
  | .brevoke _ _ => true
  | .cpgo _ x => isCpChan x.ch
  | .cpwait _ _ => true
  | .swgo _ x => isSwChan x.ch
  | .gath _ x => isZeroChan x.ch
  | .coll _ x => isZeroChan x.ch
  | .qpush _ _ => true
  | .qpop _ _ => true
  | .uiret _ => true
  | .hstart _ _ => true
  | .hend _ => true
  | .hwait _ _ => true
  | .launch _ _ => true
  | .lwait _ _ => true
  | .cancelLaunch _ _ => true
  | .cancelGraph _ _ => true
  | .cancelSession _ _ => true
  | .cancelJob _ _ => true
  | .bar _ => true
  | .xsend _ _ => true
  | .xrecv _ _ => true
  | .rpush _ _ => true
  | .rpop _ _ => true
  | .reos _ => true
  | .prog _ _ => true
  | .yield _ => true
  | .sysr _ _ => true
  | .sysw _ _ => true
  | .ovtld _ _ => true
  | .ctxsave _ _ => true
  | .ctxload _ _ => true
  | .tlbinv _ _ => true
  | .tlbsync _ => true
  | .hcall _ _ => true
  | .trapret _ => true
  | .evpost _ _ => true
  | .wipe _ _ => true
  | .pmap _ _ => true
  | .matrixCommandExecute core => decide (core < 1536)
  | .epilogueRowFault core phys => decide (core < 1536) && decide (phys < 24)
  | .panelRefetch core => decide (core < 1536)
  | .drainMarkerReply core ctx die => decide (core < 1536) && decide (ctx < 16) && decide (die < 4)
  | .submissionAccepted core ctx => decide (core < 1536) && decide (ctx < 16)
  | .batchClose die => decide (die < 4)
  | .batchApply die => decide (die < 4)
  | .sequencerApplyResume die => decide (die < 4)
  | .sliceGrant _ => true
  | .sliceRelease _ => true
  | .txHold core ctx => decide (core < 1536) && decide (ctx < 16)
  | .handoverPoint pkg => decide (pkg < 12288)
  | .bankReturn pkg => decide (pkg < 12288)
  | .bankWipeDone pkg => decide (pkg < 12288)
  | .channelArbitration _ => true
  | .strandRun _ => true
  | .userInterrupt core ctx => decide (core < 1536) && decide (ctx < 16)
  | .gatherFinish _ => true
  | .collectiveFinish queue _ _ => decide (queue < 8192)
  | .barrierComplete queue _ => decide (queue < 8192)
  | .exchangeDelivery _ => true
  | .governorEvaluation die => decide (die < 4)
  | .accessArrival _ => true
  | .storeAcknowledged _ => true
  | .remoteRefused _ => true
  | .pageWalkFill _ => true
  | .trapEntry core ctx => decide (core < 1536) && decide (ctx < 16)
  | .fatalTrap core ctx => decide (core < 1536) && decide (ctx < 16)
  | .recordRead queue => decide (queue < 8192)
  | .launchArbitration part => decide (part < 256)
  | .dependenceReread queue => decide (queue < 8192)
  | .launchStart queue => decide (queue < 8192)
  | .preloadRun queue _ => decide (queue < 8192)
  | .launchComplete queue _ => decide (queue < 8192)
  | .cancellation _ => true
  | .hostTimeout _ => true
  | .evictionDecision _ => true
  | .lastSafeMoment part => decide (part < 256)
  | .deadlineChainStart part queue => decide (part < 256) && decide (queue < 8192)
  | .laneGrant _ => true
  | .swapOutStrand _ => true
  | .swapInStrand _ => true
  | .dieResetComplete die => decide (die < 4)
  | .branchResolution core ctx => decide (core < 1536) && decide (ctx < 16)
  | .loadValueReturn _ => true
  | .pointChangeDone island => decide (island < 44)
  | .ringcfgWrite cluster ring _ => decide (cluster < 192) && decide (ring < 32)
  | .wqchainWrite queue _ => decide (queue < 8192)
  | .vdiemapWrite _ => true
  | .trapqWrite part _ => decide (part < 256)
  | .fatalClear part _ => decide (part < 256)
  | .registerWrite _ => true
  | .stopImageRestore _ => true
  | .deviceReset _ => true
  | .measurementExtend _ _ => true
  | .lifeCycleAdvance _ => true
  | .dieReset die => decide (die < 4)
  | .partitionTeardown part _ => decide (part < 256)
  | .vfctlWrite island _ => decide (island < 44)
  | .partitionCreation part vdev => decide (part < 256) && decide (vdev < 64)
  | .firmwareUpdate _ _ => true
  | .doorbell vdev queue _ => decide (vdev < 64) && decide (queue < 8192)
  | .queueStatusClear vdev queue _ => decide (vdev < 64) && decide (queue < 8192)
  | .inboundPostedWrite _ => true
  | .inboundRead _ _ => true
  | .hostCompletion _ _ => true
  | .flitReceive link _ => decide (link < 8)
  | .linkDown link => decide (link < 8)
  | .linkRetrain link => decide (link < 8)
  | .spliceMarkerReceive link _ => decide (link < 8)
  | .resumeRequest _ core => decide (core < 1536)
  | .bar2Evpost _ => true
  | .operandQueueParityError place => place.ok
  | .stallExpiry core ctx => decide (core < 1536) && decide (ctx < 16)
  | .preemptRequest core _ => decide (core < 1536)
  | .thermalStep island _ => decide (island < 44)
  | .migrationStop _ => true
  | .jobCut _ => true
  | .illegalWord => true
  | .dbword => true
  | .getMeasurements => true
  | .allowanceRefill => true

/-- Whether the row is an event of the machine or its surroundings, which no instruction word names. -/
def Instr.isEvent : Instr → Bool
  | .matrixCommandExecute _ => true
  | .epilogueRowFault _ _ => true
  | .panelRefetch _ => true
  | .drainMarkerReply _ _ _ => true
  | .submissionAccepted _ _ => true
  | .batchClose _ => true
  | .batchApply _ => true
  | .sequencerApplyResume _ => true
  | .sliceGrant _ => true
  | .sliceRelease _ => true
  | .txHold _ _ => true
  | .handoverPoint _ => true
  | .bankReturn _ => true
  | .bankWipeDone _ => true
  | .channelArbitration _ => true
  | .strandRun _ => true
  | .userInterrupt _ _ => true
  | .gatherFinish _ => true
  | .collectiveFinish _ _ _ => true
  | .barrierComplete _ _ => true
  | .exchangeDelivery _ => true
  | .governorEvaluation _ => true
  | .accessArrival _ => true
  | .storeAcknowledged _ => true
  | .remoteRefused _ => true
  | .pageWalkFill _ => true
  | .trapEntry _ _ => true
  | .fatalTrap _ _ => true
  | .recordRead _ => true
  | .launchArbitration _ => true
  | .dependenceReread _ => true
  | .launchStart _ => true
  | .preloadRun _ _ => true
  | .launchComplete _ _ => true
  | .cancellation _ => true
  | .hostTimeout _ => true
  | .evictionDecision _ => true
  | .lastSafeMoment _ => true
  | .deadlineChainStart _ _ => true
  | .laneGrant _ => true
  | .swapOutStrand _ => true
  | .swapInStrand _ => true
  | .dieResetComplete _ => true
  | .branchResolution _ _ => true
  | .loadValueReturn _ => true
  | .pointChangeDone _ => true
  | .ringcfgWrite _ _ _ => true
  | .wqchainWrite _ _ => true
  | .vdiemapWrite _ => true
  | .trapqWrite _ _ => true
  | .fatalClear _ _ => true
  | .registerWrite _ => true
  | .stopImageRestore _ => true
  | .deviceReset _ => true
  | .measurementExtend _ _ => true
  | .lifeCycleAdvance _ => true
  | .dieReset _ => true
  | .partitionTeardown _ _ => true
  | .vfctlWrite _ _ => true
  | .partitionCreation _ _ => true
  | .firmwareUpdate _ _ => true
  | .doorbell _ _ _ => true
  | .queueStatusClear _ _ _ => true
  | .inboundPostedWrite _ => true
  | .inboundRead _ _ => true
  | .hostCompletion _ _ => true
  | .flitReceive _ _ => true
  | .linkDown _ => true
  | .linkRetrain _ => true
  | .spliceMarkerReceive _ _ => true
  | .resumeRequest _ _ => true
  | .bar2Evpost _ => true
  | .operandQueueParityError _ => true
  | .stallExpiry _ _ => true
  | .preemptRequest _ _ => true
  | .thermalStep _ _ => true
  | .migrationStop _ => true
  | .jobCut _ => true
  | .illegalWord => true
  | .dbword => true
  | .getMeasurements => true
  | .allowanceRefill => true
  | .add _ _ => false
  | .sub _ _ => false
  | .mul _ _ => false
  | .mulh _ _ => false
  | .div _ _ => false
  | .rem _ _ => false
  | .and _ _ => false
  | .or _ _ => false
  | .xor _ _ => false
  | .shl _ _ => false
  | .shr _ _ => false
  | .sar _ _ => false
  | .min _ _ => false
  | .max _ _ => false
  | .sel _ _ => false
  | .li _ _ => false
  | .lui _ _ => false
  | .mov _ _ => false
  | .cmpEq _ _ => false
  | .cmpNe _ _ => false
  | .cmpLt _ _ => false
  | .cmpLe _ _ => false
  | .cmpGt _ _ => false
  | .cmpGe _ _ => false
  | .ptag _ _ => false
  | .pspace _ _ => false
  | .powner _ _ => false
  | .poff _ _ => false
  | .padd _ _ => false
  | .fadd _ _ => false
  | .fsub _ _ => false
  | .fmul _ _ => false
  | .ffma _ _ => false
  | .fdiv _ _ => false
  | .fsqrt _ _ => false
  | .fmin _ _ => false
  | .fmax _ _ => false
  | .fcvt _ _ => false
  | .fcmpEq _ _ => false
  | .fcmpNe _ _ => false
  | .fcmpLt _ _ => false
  | .fcmpLe _ _ => false
  | .fcmpGt _ _ => false
  | .fcmpGe _ _ => false
  | .fcmpUn _ _ => false
  | .nop _ => false
  | .br _ _ => false
  | .bcZ _ _ => false
  | .bcNz _ _ => false
  | .call _ _ => false
  | .ret _ _ => false
  | .jmp _ _ => false
  | .loop _ _ => false
  | .uend _ => false
  | .trapi _ _ => false
  | .vadd _ _ => false
  | .vsub _ _ => false
  | .vmul _ _ => false
  | .vfma _ _ => false
  | .vmin _ _ => false
  | .vmax _ _ => false
  | .vand _ _ => false
  | .vor _ _ => false
  | .vxor _ _ => false
  | .vsel _ _ => false
  | .vcvt _ _ => false
  | .vred _ _ => false
  | .vbcast _ _ => false
  | .vshuf _ _ => false
  | .vcmpEq _ _ => false
  | .vcmpNe _ _ => false
  | .vcmpLt _ _ => false
  | .vcmpLe _ _ => false
  | .vcmpGt _ _ => false
  | .vcmpGe _ _ => false
  | .vcmpUn _ _ => false
  | .vld _ _ => false
  | .vst _ _ => false
  | .wadd _ _ => false
  | .wsub _ _ => false
  | .wmul _ _ => false
  | .wfma _ _ => false
  | .wmin _ _ => false
  | .wmax _ _ => false
  | .wcvt _ _ => false
  | .wclamp _ _ => false
  | .wred _ _ => false
  | .wcopy _ _ => false
  | .exp2 _ _ => false
  | .log2 _ _ => false
  | .exp _ _ => false
  | .log _ _ => false
  | .rcp _ _ => false
  | .rsqrt _ _ => false
  | .tanh _ _ => false
  | .sigm _ _ => false
  | .mldA _ _ => false
  | .mldB _ _ => false
  | .mzero _ _ => false
  | .mmac _ _ => false
  | .mmacSp _ _ => false
  | .mscale _ _ => false
  | .mepi _ _ => false
  | .mdrain _ _ => false
  | .mstat _ _ => false
  | .mrepl _ _ => false
  | .mswz _ _ => false
  | .dld _ _ => false
  | .dstr _ _ => false
  | .dpt _ _ => false
  | .dadd _ _ => false
  | .dsub _ _ => false
  | .dmul _ _ => false
  | .dmax _ _ => false
  | .dmin _ _ => false
  | .dmix _ _ => false
  | .dtag _ _ => false
  | .dmom _ _ => false
  | .dqnt _ _ => false
  | .ld _ _ => false
  | .ldAcq _ _ => false
  | .st _ _ => false
  | .stRel _ _ => false
  | .ldg _ _ => false
  | .ldgAcq _ _ => false
  | .stg _ _ => false
  | .stgRel _ _ => false
  | .ldh _ _ => false
  | .ldhAcq _ _ => false
  | .sth _ _ => false
  | .sthRel _ _ => false
  | .pref _ _ => false
  | .atmAdd _ _ => false
  | .atmAnd _ _ => false
  | .atmOr _ _ => false
  | .atmXor _ _ => false
  | .atmMin _ _ => false
  | .atmMax _ _ => false
  | .atmFadd _ _ => false
  | .atmSwap _ _ => false
  | .atmCas _ _ => false
  | .atmIncb _ _ => false
  | .fenceCtx _ => false
  | .fenceCore _ => false
  | .fenceClu _ => false
  | .fenceDie _ => false
  | .fenceSys _ => false
  | .fencePkg _ => false
  | .fencep _ _ => false
  | .fiss _ _ => false
  | .fwait _ _ => false
  | .txdeclR _ _ => false
  | .txdeclW _ _ => false
  | .txsub _ _ => false
  | .txwait _ _ => false
  | .txend _ _ => false
  | .bhand _ _ => false
  | .bwait _ _ => false
  | .bstat _ _ => false
  | .bswz _ _ => false
  | .battach _ _ => false
  | .brevoke _ _ => false
  | .cpgo _ _ => false
  | .cpwait _ _ => false
  | .swgo _ _ => false
  | .gath _ _ => false
  | .coll _ _ => false
  | .qpush _ _ => false
  | .qpop _ _ => false
  | .uiret _ => false
  | .hstart _ _ => false
  | .hend _ => false
  | .hwait _ _ => false
  | .launch _ _ => false
  | .lwait _ _ => false
  | .cancelLaunch _ _ => false
  | .cancelGraph _ _ => false
  | .cancelSession _ _ => false
  | .cancelJob _ _ => false
  | .bar _ => false
  | .xsend _ _ => false
  | .xrecv _ _ => false
  | .rpush _ _ => false
  | .rpop _ _ => false
  | .reos _ => false
  | .prog _ _ => false
  | .yield _ => false
  | .sysr _ _ => false
  | .sysw _ _ => false
  | .ovtld _ _ => false
  | .ctxsave _ _ => false
  | .ctxload _ _ => false
  | .tlbinv _ _ => false
  | .tlbsync _ => false
  | .hcall _ _ => false
  | .trapret _ => false
  | .evpost _ _ => false
  | .wipe _ _ => false
  | .pmap _ _ => false

end Sys2Proof
end

