-- ==== Sys2Proof/Decode.lean ====
section
/-!
DEFINITION. Decoding: 96-bit words, and the twelve bytes they stand in, to instructions, refusing every word that
R30 sends to ILLEGAL; then the encoder, written from the same formats (R18 to R29).
-/

namespace Sys2Proof

/-! ### Codes of types, modes, scopes and paths -/

/-- Element type codes (R24). -/
def ETy.code : ETy → BitVec 4
  | .i8 => 0 | .i16 => 1 | .i32 => 2 | .i64 => 3 | .n8 => 4 | .n16 => 5 | .n32 => 6 | .n64 => 7
  | .e2m1 => 8 | .e4m3 => 9 | .e5m2 => 10 | .bf16 => 11 | .f16 => 12 | .f32 => 13 | .f64 => 14

/-- The type of a code; code 15 is reserved (R24). -/
def ETy.ofIdx : Nat → Option ETy
  | 0 => some .i8 | 1 => some .i16 | 2 => some .i32 | 3 => some .i64
  | 4 => some .n8 | 5 => some .n16 | 6 => some .n32 | 7 => some .n64
  | 8 => some .e2m1 | 9 => some .e4m3 | 10 => some .e5m2 | 11 => some .bf16
  | 12 => some .f16 | 13 => some .f32 | 14 => some .f64
  | _ => none

def ETy.ofCode (c : BitVec 4) : Option ETy := ETy.ofIdx c.toNat

/-- Rounding codes (R22, R43). -/
def RMode.code : RMode → BitVec 2
  | .rn => 0 | .rz => 1 | .rd => 2 | .ru => 3

def RMode.ofCode (c : BitVec 2) : RMode :=
  match c.toNat with
  | 0 => .rn
  | 1 => .rz
  | 2 => .rd
  | _ => .ru

/-- Phase class codes (R20). -/
def PClass.code : PClass → BitVec 2
  | .any => 0 | .compute => 1 | .exchange => 2

def PClass.ofCode (c : BitVec 2) : Option PClass :=
  match c.toNat with
  | 0 => some .any
  | 1 => some .compute
  | 2 => some .exchange
  | _ => none

/-- Scope codes (R26); 0 is no scope. -/
def Scope.code : Scope → BitVec 3
  | .ctx => 1 | .core => 2 | .clu => 3 | .die => 4 | .pkg => 5 | .sys => 6

def Scope.ofCode (c : BitVec 3) : Option Scope :=
  match c.toNat with
  | 1 => some .ctx
  | 2 => some .core
  | 3 => some .clu
  | 4 => some .die
  | 5 => some .pkg
  | 6 => some .sys
  | _ => none

/-- Path codes (R32, R154). -/
def Path.code : Path → BitVec 3
  | .ls => 0 | .mx => 1 | .cp => 2 | .ga => 3 | .co => 4 | .sw => 5

def Path.ofCode (c : BitVec 3) : Option Path :=
  match c.toNat with
  | 0 => some .ls
  | 1 => some .mx
  | 2 => some .cp
  | 3 => some .ga
  | 4 => some .co
  | 5 => some .sw
  | _ => none

/-- One bit as a Bool. -/
def bitB (b : BitVec 1) : Bool := b == 1#1

/-- A Bool as one bit. -/
def boolBit (b : Bool) : BitVec 1 := if b then 1#1 else 0#1

/-! ### Operand fields -/

/-- The parts of a field in the register format (R22). -/
structure RegField where
  kind : BitVec 3
  idx  : BitVec 5
  ty   : BitVec 4
  rnd  : BitVec 2
  sat  : Bool
  neg  : Bool
  low  : BitVec 8
  deriving DecidableEq, Repr

def splitReg (f : BitVec 24) : RegField :=
  { kind := f.extractLsb' 21 3, idx := f.extractLsb' 16 5, ty := f.extractLsb' 12 4, rnd := f.extractLsb' 10 2,
    sat := bitB (f.extractLsb' 9 1), neg := bitB (f.extractLsb' 8 1), low := f.extractLsb' 0 8 }

def joinReg (r : RegField) : BitVec 24 :=
  r.kind ++ r.idx ++ r.ty ++ r.rnd ++ boolBit r.sat ++ boolBit r.neg ++ r.low

/-- A register field of kind k with type, rounding, saturate, negate and low bits. -/
def regField (k : BitVec 3) (i : BitVec 5) (t : BitVec 4) (m : RMode) (sat neg : Bool) (low : BitVec 8) : BitVec 24 :=
  joinReg { kind := k, idx := i, ty := t, rnd := m.code, sat := sat, neg := neg, low := low }

/-- What a written operand gives: register, type, rounding and saturation (R22). -/
structure DstF where
  idx : BitVec 5
  ty  : ETy
  rnd : RMode
  sat : Bool
  low : BitVec 8

/-- A field that names a register of kind k to be written; its negate bit must be clear (R23). -/
def getDst (k : BitVec 3) (f : BitVec 24) : Option DstF :=
  let r := splitReg f
  if r.kind = k ∧ r.neg = false then
    match ETy.ofCode r.ty with
    | some t => some { idx := r.idx, ty := t, rnd := RMode.ofCode r.rnd, sat := r.sat, low := r.low }
    | none => none
  else none

/-- What a source operand gives. -/
structure SrcF where
  idx : BitVec 5
  ty  : ETy
  neg : Bool

/-- A field that names a register of kind k to be read: no rounding, no saturation, no low bits (R23). -/
def getSrc (k : BitVec 3) (f : BitVec 24) : Option SrcF :=
  let r := splitReg f
  if r.kind = k ∧ r.rnd = 0 ∧ r.sat = false ∧ r.low = 0 then
    match ETy.ofCode r.ty with
    | some t => some { idx := r.idx, ty := t, neg := r.neg }
    | none => none
  else none

/-- A plain destination: no rounding, no saturation, no low bits. -/
def getDst0 (k : BitVec 3) (f : BitVec 24) : Option SrcF :=
  match getDst k f with
  | some d => if d.rnd = .rn ∧ d.sat = false ∧ d.low = 0 then some { idx := d.idx, ty := d.ty, neg := false } else none
  | none => none

def dst0Field (k : BitVec 3) (i : BitVec 5) (t : ETy) : BitVec 24 := regField k i t.code .rn false false 0
def srcField (k : BitVec 3) (i : BitVec 5) (t : ETy) (neg : Bool) : BitVec 24 := regField k i t.code .rn false neg 0
def dstField (k : BitVec 3) (i : BitVec 5) (t : ETy) (m : RMode) (sat : Bool) (low : BitVec 8) : BitVec 24 :=
  regField k i t.code m sat false low

/-- A source register of kind k, without negation, of the given type. -/
def getSrcT (k : BitVec 3) (t : ETy) (f : BitVec 24) : Option (BitVec 5) :=
  match getSrc k f with
  | some r => if r.ty = t ∧ r.neg = false then some r.idx else none
  | none => none

/-- A destination register of kind k, without rounding or saturation, of the given type. -/
def getDstT (k : BitVec 3) (t : ETy) (f : BitVec 24) : Option (BitVec 5) :=
  match getDst0 k f with
  | some r => if r.ty = t then some r.idx else none
  | none => none

/-- An immediate field (R22). -/
def getImm (f : BitVec 24) : Option (BitVec 21) := if f.extractLsb' 21 3 = 7#3 then some (f.extractLsb' 0 21) else none
def immField (v : BitVec 21) : BitVec 24 := 7#3 ++ v

/-- An immediate field whose value lies in 0 to 2^n - 1 (R106, R115, R190, R244). -/
def getSmall (n : Nat) (f : BitVec 24) : Option (BitVec n) :=
  match getImm f with
  | some v => if v.toNat < 2 ^ n then some (BitVec.ofNat n v.toNat) else none
  | none => none
def smallField {n : Nat} (v : BitVec n) : BitVec 24 := immField (BitVec.ofNat 21 v.toNat)

/-- Indices of v, p, a, d and q registers: those beyond the kind's registers are refused (R23). -/
def idx4 (i : BitVec 5) : Option (BitVec 4) := if i.toNat < 16 then some (i.extractLsb' 0 4) else none
def idx3 (i : BitVec 5) : Option (BitVec 3) := if i.toNat < 8 then some (i.extractLsb' 0 3) else none
def wide4 (i : BitVec 4) : BitVec 5 := 0#1 ++ i
def wide3 (i : BitVec 3) : BitVec 5 := 0#2 ++ i

/-- An unused field is all zero (R23). -/
def unused (f : BitVec 24) : Option Unit := if f = 0 then some () else none

/-- Kinds (R22). -/
abbrev kS : BitVec 3 := 1
abbrev kV : BitVec 3 := 2
abbrev kP : BitVec 3 := 3
abbrev kA : BitVec 3 := 4
abbrev kD : BitVec 3 := 5
abbrev kQ : BitVec 3 := 6

/-- An s register or an immediate as a source of a given type (R22, R23). -/
def getSI (t : ETy) (f : BitVec 24) : Option SrcSI :=
  match getImm f with
  | some v => some (.imm v)
  | none => (getSrcT kS t f).map .s
def siField (t : ETy) : SrcSI → BitVec 24
  | .s r => srcField kS r t false
  | .imm v => immField v

/-- A v or s register or an immediate as a source, with its negate bit. -/
def getVSI (t : ETy) (f : BitVec 24) : Option (SrcVSI × Bool) :=
  match getImm f with
  | some v => some (.imm v, false)
  | none =>
    match getSrc kV f with
    | some r => if r.ty = t then (idx4 r.idx).map fun i => (.v i, r.neg) else none
    | none =>
      match getSrc kS f with
      | some r => if r.ty = t then some (.s r.idx, r.neg) else none
      | none => none
def vsiField (t : ETy) (c : SrcVSI) (neg : Bool) : BitVec 24 :=
  match c with
  | .v r => srcField kV (wide4 r) t neg
  | .s r => srcField kS r t neg
  | .imm v => immField v

/-- An untyped s or v register as a source. -/
def getSV (f : BitVec 24) : Option SrcSV :=
  match getSrcT kS .i8 f with
  | some r => some (.s r)
  | none => ((getSrcT kV .i8 f).bind idx4).map .v
def svField : SrcSV → BitVec 24
  | .s r => srcField kS r .i8 false
  | .v r => srcField kV (wide4 r) .i8 false

/-- A memory operand (R26): scope, base, type, displacement. -/
structure MemF where
  sc   : BitVec 3
  base : SReg
  ty   : ETy
  disp : BitVec 12

def getMem (f : BitVec 24) : Option MemF :=
  match ETy.ofCode (f.extractLsb' 12 4) with
  | some t =>
    if f.extractLsb' 21 3 = 7#3 then none
    else some { sc := f.extractLsb' 21 3, base := f.extractLsb' 16 5, ty := t, disp := f.extractLsb' 0 12 }
  | none => none
def memField (sc : BitVec 3) (base : SReg) (t : ETy) (disp : BitVec 12) : BitVec 24 := sc ++ base ++ t.code ++ disp

/-- A memory operand without scope, of a given type. -/
def getMem0 (t : ETy) (f : BitVec 24) : Option (SReg × BitVec 12) :=
  match getMem f with
  | some m => if m.sc = 0 ∧ m.ty = t then some (m.base, m.disp) else none
  | none => none

/-- A sweep operand (R27). -/
def getSw (f : BitVec 24) : SwAddr := { base := f.extractLsb' 19 5, step := f.extractLsb' 11 8, disp := f.extractLsb' 0 11 }
def swField (a : SwAddr) : BitVec 24 := a.base ++ a.step ++ a.disp

/-- The parts of a sweep's field C (R27). -/
structure SwC where
  n    : BitVec 12
  kind : BitVec 3
  mid  : BitVec 5
  rnd  : RMode
  sat  : Bool

def getSwC (f : BitVec 24) : Option SwC :=
  if f.extractLsb' 0 1 = 0#1 then
    some { n := f.extractLsb' 12 12, kind := f.extractLsb' 9 3, mid := f.extractLsb' 4 5,
           rnd := RMode.ofCode (f.extractLsb' 2 2), sat := bitB (f.extractLsb' 1 1) }
  else none
def swCField (n : BitVec 12) (kind : BitVec 3) (mid : BitVec 5) (m : RMode) (sat : Bool) : BitVec 24 :=
  n ++ kind ++ mid ++ m.code ++ boolBit sat ++ 0#1

/-- The second source of wadd to wmax (R27). -/
def getSwSrc (c : SwC) : Option SwSrc :=
  match c.kind.toNat with
  | 1 => some (.s c.mid)
  | 2 => (idx4 c.mid).map .v
  | 7 => some (.imm c.mid)
  | _ => none
def swSrcKind : SwSrc → BitVec 3
  | .s _ => 1
  | .v _ => 2
  | .imm _ => 7
def swSrcMid : SwSrc → BitVec 5
  | .s r => r
  | .v r => wide4 r
  | .imm v => v

/-! ### Operand shapes: parsing and building the three fields -/

/-- The three operand fields of a word. -/
structure Fields where
  a : BitVec 24
  b : BitVec 24
  c : BitVec 24
  deriving DecidableEq, Repr

def parseRRI (f : Fields) : Option OpRRI :=
  do let d ← getDst kS f.a
     let b ← getSrcT kS d.ty f.b
     let c ← getSI d.ty f.c
     if d.rnd = .rn ∧ d.low = 0 then some ⟨d.ty, d.sat, d.idx, b, c⟩ else none
def buildRRI (x : OpRRI) : Fields :=
  ⟨dstField kS x.a x.ty .rn x.sat 0, srcField kS x.b x.ty false, siField x.ty x.c⟩

def parseSel (f : Fields) : Option OpSel :=
  do let d ← getDst kS f.a
     let b ← getSrcT kS d.ty f.b
     let c ← getSI d.ty f.c
     if d.rnd = .rn ∧ d.sat = false ∧ d.low.extractLsb' 4 4 = 0#4 then
       some ⟨d.ty, d.idx, bitB (d.low.extractLsb' 3 1), d.low.extractLsb' 0 3, b, c⟩
     else none
def buildSel (x : OpSel) : Fields :=
  ⟨dstField kS x.a x.ty .rn false (0#4 ++ boolBit x.neg ++ x.p), srcField kS x.b x.ty false, siField x.ty x.c⟩

def parseImm24 (f : Fields) : Option OpImm :=
  do let d ← getDst0 kS f.a; unused f.b; some ⟨d.ty, d.idx, f.c⟩
def buildImm24 (x : OpImm) : Fields :=
  ⟨dst0Field kS x.a x.ty, 0, x.imm⟩

def parseMov (f : Fields) : Option OpMov :=
  do let d ← getDst0 kS f.a; let b ← getSI d.ty f.b; unused f.c; some ⟨d.ty, d.idx, b⟩
def buildMov (x : OpMov) : Fields :=
  ⟨dst0Field kS x.a x.ty, siField x.ty x.b, 0⟩

def parseCmp (f : Fields) : Option OpCmp :=
  do let d ← getDst0 kP f.a; let p ← idx3 d.idx; let b ← getSrcT kS d.ty f.b; let c ← getSI d.ty f.c; some ⟨d.ty, p, b, c⟩
def buildCmp (x : OpCmp) : Fields :=
  ⟨dst0Field kP (wide3 x.p) x.ty, srcField kS x.b x.ty false, siField x.ty x.c⟩

def parsePtr (f : Fields) : Option OpPtr :=
  do let a ← getDstT kS .i8 f.a; let b ← getSrcT kS .i8 f.b; let c ← getSI .i8 f.c; some ⟨a, b, c⟩
def buildPtr (x : OpPtr) : Fields :=
  ⟨dst0Field kS x.a .i8, srcField kS x.b .i8 false, siField .i8 x.c⟩

def parseRR (f : Fields) : Option OpRR :=
  do let a ← getDstT kS .i8 f.a; let b ← getSrcT kS .i8 f.b; unused f.c; some ⟨a, b⟩
def buildRR (x : OpRR) : Fields :=
  ⟨dst0Field kS x.a .i8, srcField kS x.b .i8 false, 0⟩

def parseFA (f : Fields) : Option OpFA :=
  do let d ← getDst kS f.a
     let b ← getSrc kS f.b
     let c ← getSrc kS f.c
     if d.low = 0 ∧ b.ty = d.ty ∧ c.ty = d.ty then some ⟨d.ty, d.rnd, d.sat, d.idx, b.idx, b.neg, c.idx, c.neg⟩ else none
def buildFA (x : OpFA) : Fields :=
  ⟨dstField kS x.a x.ty x.rnd x.sat 0, srcField kS x.b x.ty x.bneg, srcField kS x.c x.ty x.cneg⟩

def parseFU (f : Fields) : Option OpFU :=
  do let d ← getDst kS f.a
     let b ← getSrc kS f.b
     unused f.c
     if d.low = 0 ∧ b.ty = d.ty then some ⟨d.ty, d.rnd, d.sat, d.idx, b.idx, b.neg⟩ else none
def buildFU (x : OpFU) : Fields :=
  ⟨dstField kS x.a x.ty x.rnd x.sat 0, srcField kS x.b x.ty x.bneg, 0⟩

def parseCvt (f : Fields) : Option OpCvt :=
  do let d ← getDst kS f.a
     let b ← getSrc kS f.b
     unused f.c
     if d.low = 0 ∧ b.neg = false then some ⟨d.ty, b.ty, d.rnd, d.sat, d.idx, b.idx⟩ else none
def buildCvt (x : OpCvt) : Fields :=
  ⟨dstField kS x.a x.dty x.rnd x.sat 0, srcField kS x.b x.sty false, 0⟩

def parseFCmp (f : Fields) : Option OpFCmp :=
  do let d ← getDst0 kP f.a; let p ← idx3 d.idx; let b ← getSrcT kS d.ty f.b; let c ← getSrcT kS d.ty f.c; some ⟨d.ty, p, b, c⟩
def buildFCmp (x : OpFCmp) : Fields :=
  ⟨dst0Field kP (wide3 x.p) x.ty, srcField kS x.b x.ty false, srcField kS x.c x.ty false⟩

def parseROff (f : Fields) : Option OpROff :=
  do let a ← getDstT kS .i8 f.a; unused f.b; some ⟨a, f.c⟩
def buildROff (x : OpROff) : Fields :=
  ⟨dst0Field kS x.a .i8, 0, x.off⟩

def parseVA (f : Fields) : Option OpVA :=
  do let d ← getDst kV f.a
     let a ← idx4 d.idx
     let b ← getSrc kV f.b
     let bi ← idx4 b.idx
     let (c, cn) ← getVSI d.ty f.c
     if d.low = 0 ∧ b.ty = d.ty then some ⟨d.ty, d.rnd, d.sat, a, bi, b.neg, c, cn⟩ else none
def buildVA (x : OpVA) : Fields :=
  ⟨dstField kV (wide4 x.a) x.ty x.rnd x.sat 0, srcField kV (wide4 x.b) x.ty x.bneg, vsiField x.ty x.c x.cneg⟩

def parseVSel (f : Fields) : Option OpVSel :=
  do let d ← getDst kV f.a
     let a ← idx4 d.idx
     let b ← (getSrcT kV d.ty f.b).bind idx4
     let c ← (getSrcT kV d.ty f.c).bind idx4
     if d.rnd = .rn ∧ d.sat = false ∧ d.low.extractLsb' 4 4 = 0#4 then
       some ⟨d.ty, a, bitB (d.low.extractLsb' 3 1), d.low.extractLsb' 0 3, b, c⟩
     else none
def buildVSel (x : OpVSel) : Fields :=
  ⟨dstField kV (wide4 x.a) x.ty .rn false (0#4 ++ boolBit x.neg ++ x.p), srcField kV (wide4 x.b) x.ty false, srcField kV (wide4 x.c) x.ty false⟩

def parseVShuf (f : Fields) : Option OpVShuf :=
  do let d ← getDst0 kV f.a; let a ← idx4 d.idx; let b ← (getSrcT kV d.ty f.b).bind idx4; let c ← (getSrcT kV d.ty f.c).bind idx4; some ⟨d.ty, a, b, c⟩
def buildVShuf (x : OpVShuf) : Fields :=
  ⟨dst0Field kV (wide4 x.a) x.ty, srcField kV (wide4 x.b) x.ty false, srcField kV (wide4 x.c) x.ty false⟩

def parseVCvt (f : Fields) : Option OpVCvt :=
  do let d ← getDst kV f.a
     let a ← idx4 d.idx
     let b ← getSrc kV f.b
     let bi ← idx4 b.idx
     unused f.c
     if d.low = 0 ∧ b.neg = false then some ⟨d.ty, b.ty, d.rnd, d.sat, a, bi⟩ else none
def buildVCvt (x : OpVCvt) : Fields :=
  ⟨dstField kV (wide4 x.a) x.dty x.rnd x.sat 0, srcField kV (wide4 x.b) x.sty false, 0⟩

def parseVRed (f : Fields) : Option OpVRed :=
  do let d ← getDst kS f.a
     let b ← (getSrcT kV d.ty f.b).bind idx4
     unused f.c
     if d.low = 0 then some ⟨d.ty, d.rnd, d.sat, d.idx, b⟩ else none
def buildVRed (x : OpVRed) : Fields :=
  ⟨dstField kS x.a x.ty x.rnd x.sat 0, srcField kV (wide4 x.b) x.ty false, 0⟩

def parseVBc (f : Fields) : Option OpVBc :=
  do let d ← getDst0 kV f.a; let a ← idx4 d.idx; let b ← getSI d.ty f.b; unused f.c; some ⟨d.ty, a, b⟩
def buildVBc (x : OpVBc) : Fields :=
  ⟨dst0Field kV (wide4 x.a) x.ty, siField x.ty x.b, 0⟩

def parseVCmp (f : Fields) : Option OpVCmp :=
  do let d ← getDst0 kP f.a
     let p ← idx3 d.idx
     let b ← (getSrcT kV d.ty f.b).bind idx4
     let (c, cn) ← getVSI d.ty f.c
     if cn = false then some ⟨d.ty, p, b, c⟩ else none
def buildVCmp (x : OpVCmp) : Fields :=
  ⟨dst0Field kP (wide3 x.p) x.ty, srcField kV (wide4 x.b) x.ty false, vsiField x.ty x.c false⟩

def parseVLd (f : Fields) : Option OpVMem :=
  do let d ← getDst0 kV f.a; let v ← idx4 d.idx; let m ← getMem0 d.ty f.b; unused f.c; some ⟨d.ty, v, m.1, m.2⟩
def buildVLd (x : OpVMem) : Fields :=
  ⟨dst0Field kV (wide4 x.v) x.ty, memField 0 x.base x.ty x.disp, 0⟩

def parseVSt (f : Fields) : Option OpVMem :=
  do let s ← getSrc kV f.b; let v ← idx4 s.idx; let m ← getMem0 s.ty f.a; unused f.c; if s.neg = false then some ⟨s.ty, v, m.1, m.2⟩ else none
def buildVSt (x : OpVMem) : Fields :=
  ⟨memField 0 x.base x.ty x.disp, srcField kV (wide4 x.v) x.ty false, 0⟩

def parseSfn (f : Fields) : Option OpSfn :=
  match getDst kS f.a, getSrc kS f.b, unused f.c with
  | some d, some b, some _ =>
    if d.low = 0 ∧ b.ty = d.ty then some ⟨d.ty, d.rnd, d.sat, .s d.idx b.idx, b.neg⟩ else none
  | _, _, _ =>
    do let d ← getDst kV f.a
       let a ← idx4 d.idx
       let b ← getSrc kV f.b
       let bi ← idx4 b.idx
       unused f.c
       if d.low = 0 ∧ b.ty = d.ty then some ⟨d.ty, d.rnd, d.sat, .v a bi, b.neg⟩ else none
def buildSfn (x : OpSfn) : Fields :=
  match x.r with
  | .s a b => ⟨dstField kS a x.ty x.rnd x.sat 0, srcField kS b x.ty x.bneg, 0⟩
  | .v a b => ⟨dstField kV (wide4 a) x.ty x.rnd x.sat 0, srcField kV (wide4 b) x.ty x.bneg, 0⟩

def parseMld (f : Fields) : Option OpMld :=
  do let m ← getMem0 .i8 f.a; let s ← getSrcT kS .i8 f.b; unused f.c; some ⟨m.1, m.2, s⟩
def buildMld (x : OpMld) : Fields :=
  ⟨memField 0 x.base .i8 x.disp, srcField kS x.sh .i8 false, 0⟩

def parseMmac (f : Fields) : Option OpMmac :=
  do let d ← getDst0 kA f.a; let a ← idx3 d.idx; unused f.b; unused f.c; some ⟨d.ty, a⟩
def buildMmac (x : OpMmac) : Fields :=
  ⟨dst0Field kA (wide3 x.a) x.ty, 0, 0⟩

def parseMmacSp (f : Fields) : Option OpMmacSp :=
  do let d ← getDst0 kA f.a; let a ← idx3 d.idx; let m ← getSrcT kS .i8 f.b; unused f.c; some ⟨d.ty, a, m⟩
def buildMmacSp (x : OpMmacSp) : Fields :=
  ⟨dst0Field kA (wide3 x.a) x.ty, srcField kS x.m .i8 false, 0⟩

def parseMscale (f : Fields) : Option OpMscale :=
  do let a ← (getDstT kA .i8 f.a).bind idx3; let b ← (getSrcT kA .i8 f.b).bind idx3; let c ← (getSrcT kV .i8 f.c).bind idx4; some ⟨a, b, c⟩
def buildMscale (x : OpMscale) : Fields :=
  ⟨dst0Field kA (wide3 x.a) .i8, srcField kA (wide3 x.b) .i8 false, srcField kV (wide4 x.c) .i8 false⟩

def parseMepi (f : Fields) : Option OpMepi :=
  do let d ← getDst kA f.a
     let a ← idx3 d.idx
     let m ← getMem0 d.ty f.b
     unused f.c
     if d.low = 0 then some ⟨d.ty, d.rnd, d.sat, a, m.1, m.2⟩ else none
def buildMepi (x : OpMepi) : Fields :=
  ⟨dstField kA (wide3 x.a) x.ty x.rnd x.sat 0, memField 0 x.base x.ty x.disp, 0⟩

def parseMstat (f : Fields) : Option OpMstat :=
  do let a ← getDstT kS .i8 f.a; let b ← (getSrcT kA .i8 f.b).bind idx3; unused f.c; some ⟨a, b⟩
def buildMstat (x : OpMstat) : Fields :=
  ⟨dst0Field kS x.a .i8, srcField kA (wide3 x.b) .i8 false, 0⟩

def parseSCode (f : Fields) : Option OpSCode :=
  do unused f.a; let b ← getSrcT kS .i8 f.b; let c ← getSmall 3 f.c; some ⟨b, c⟩
def buildSCode (x : OpSCode) : Fields :=
  ⟨0, srcField kS x.b .i8 false, smallField x.code⟩

def parseDLd (f : Fields) : Option OpDMem :=
  do let d ← (getDstT kD .i8 f.a).bind idx3; let m ← getMem0 .i8 f.b; unused f.c; some ⟨d, m.1, m.2⟩
def buildDLd (x : OpDMem) : Fields :=
  ⟨dst0Field kD (wide3 x.d) .i8, memField 0 x.base .i8 x.disp, 0⟩

def parseDSt (f : Fields) : Option OpDMem :=
  do let d ← (getSrcT kD .i8 f.b).bind idx3; let m ← getMem0 .i8 f.a; unused f.c; some ⟨d, m.1, m.2⟩
def buildDSt (x : OpDMem) : Fields :=
  ⟨memField 0 x.base .i8 x.disp, srcField kD (wide3 x.d) .i8 false, 0⟩

def parseDpt (f : Fields) : Option OpDpt :=
  do let d ← (getDstT kD .i8 f.a).bind idx3; let b ← getSV f.b; unused f.c; some ⟨d, b⟩
def buildDpt (x : OpDpt) : Fields :=
  ⟨dst0Field kD (wide3 x.a) .i8, svField x.b, 0⟩

def parseD3 (f : Fields) : Option OpD3 :=
  do let a ← (getDstT kD .i8 f.a).bind idx3; let b ← (getSrcT kD .i8 f.b).bind idx3; let c ← (getSrcT kD .i8 f.c).bind idx3; some ⟨a, b, c⟩
def buildD3 (x : OpD3) : Fields :=
  ⟨dst0Field kD (wide3 x.a) .i8, srcField kD (wide3 x.b) .i8 false, srcField kD (wide3 x.c) .i8 false⟩

def parseDmix (f : Fields) : Option OpDmix :=
  do let a ← (getDstT kD .i8 f.a).bind idx3; let b ← (getSrcT kD .i8 f.b).bind idx3; let c ← getSrcT kS .i8 f.c; some ⟨a, b, c⟩
def buildDmix (x : OpDmix) : Fields :=
  ⟨dst0Field kD (wide3 x.a) .i8, srcField kD (wide3 x.b) .i8 false, srcField kS x.c .i8 false⟩

def parseDtag (f : Fields) : Option OpDtag :=
  do let a ← (getDstT kD .i8 f.a).bind idx3
     unused f.c
     match getSmall 8 f.b with
     | some v => some ⟨a, .imm v⟩
     | none => (getSrcT kS .i8 f.b).map fun r => ⟨a, .s r⟩
def buildDtag (x : OpDtag) : Fields :=
  ⟨dst0Field kD (wide3 x.a) .i8, (match x.b with | .s r => srcField kS r .i8 false | .imm v => smallField v), 0⟩

def parseDmom (f : Fields) : Option OpDmom :=
  do let a ← (getDstT kV .i8 f.a).bind idx4; let b ← (getSrcT kD .i8 f.b).bind idx3; unused f.c; some ⟨a, b⟩
def buildDmom (x : OpDmom) : Fields :=
  ⟨dst0Field kV (wide4 x.a) .i8, srcField kD (wide3 x.b) .i8 false, 0⟩

def parseDqnt (f : Fields) : Option OpDqnt :=
  do let a ← (getDstT kV .i8 f.a).bind idx4; let b ← (getSrcT kD .i8 f.b).bind idx3; let c ← getSrcT kS .i8 f.c; some ⟨a, b, c⟩
def buildDqnt (x : OpDqnt) : Fields :=
  ⟨dst0Field kV (wide4 x.a) .i8, srcField kD (wide3 x.b) .i8 false, srcField kS x.c .i8 false⟩

def parseLd (f : Fields) : Option OpLd :=
  do let d ← getDst0 kS f.a; let m ← getMem0 d.ty f.b; unused f.c; some ⟨d.ty, d.idx, m.1, m.2⟩
def buildLd (x : OpLd) : Fields :=
  ⟨dst0Field kS x.r x.ty, memField 0 x.base x.ty x.disp, 0⟩

def parseSt (f : Fields) : Option OpLd :=
  do let s ← getSrc kS f.b; let m ← getMem0 s.ty f.a; unused f.c; if s.neg = false then some ⟨s.ty, s.idx, m.1, m.2⟩ else none
def buildSt (x : OpLd) : Fields :=
  ⟨memField 0 x.base x.ty x.disp, srcField kS x.r x.ty false, 0⟩

def parseLdO (f : Fields) : Option OpLdO :=
  do let d ← getDst0 kS f.a; let m ← getMem f.b; let sc ← Scope.ofCode m.sc; unused f.c; if m.ty = d.ty then some ⟨d.ty, d.idx, sc, m.base, m.disp⟩ else none
def buildLdO (x : OpLdO) : Fields :=
  ⟨dst0Field kS x.r x.ty, memField x.sc.code x.base x.ty x.disp, 0⟩

def parseStO (f : Fields) : Option OpLdO :=
  do let s ← getSrc kS f.b; let m ← getMem f.a; let sc ← Scope.ofCode m.sc; unused f.c; if m.ty = s.ty ∧ s.neg = false then some ⟨s.ty, s.idx, sc, m.base, m.disp⟩ else none
def buildStO (x : OpLdO) : Fields :=
  ⟨memField x.sc.code x.base x.ty x.disp, srcField kS x.r x.ty false, 0⟩

def parsePref (f : Fields) : Option OpPref :=
  do unused f.a; let m ← getMem f.b; unused f.c; if m.sc = 0 then some ⟨m.ty, m.base, m.disp⟩ else none
def buildPref (x : OpPref) : Fields :=
  ⟨0, memField 0 x.base x.ty x.disp, 0⟩

def parseAtm (f : Fields) : Option OpAtm :=
  do let d ← getDst kS f.a
     let m ← getMem f.b
     let c ← getSrcT kS d.ty f.c
     if d.low = 0 ∧ d.sat = false ∧ m.ty = d.ty then some ⟨d.ty, d.rnd, d.idx, Scope.ofCode m.sc, m.base, m.disp, c⟩ else none
def buildAtm (x : OpAtm) : Fields :=
  ⟨dstField kS x.a x.ty x.rnd false 0, memField (match x.sc with | none => 0#3 | some sc => sc.code) x.base x.ty x.disp, srcField kS x.c x.ty false⟩

def parseFencep (f : Fields) : Option OpFencep :=
  do unused f.a
     unused f.b
     let s ← Path.ofCode (f.c.extractLsb' 3 3)
     let d ← Path.ofCode (f.c.extractLsb' 0 3)
     if f.c.extractLsb' 6 18 = 0#18 then some ⟨s, d⟩ else none
def buildFencep (x : OpFencep) : Fields :=
  ⟨0, 0, 0#18 ++ x.src.code ++ x.dst.code⟩

def parseSlotC (f : Fields) : Option OpSlotC :=
  do unused f.a; let s ← getSmall 5 f.b; let c ← getSrcT kS .i8 f.c; some ⟨s, c⟩
def buildSlotC (x : OpSlotC) : Fields :=
  ⟨0, smallField x.slot, srcField kS x.c .i8 false⟩

def parseASlot (f : Fields) : Option OpASlot :=
  do let a ← getDstT kS .i8 f.a; let s ← getSmall 5 f.b; unused f.c; some ⟨a, s⟩
def buildASlot (x : OpASlot) : Fields :=
  ⟨dst0Field kS x.a .i8, smallField x.slot, 0⟩

def parseQGo (f : Fields) : Option OpQGo :=
  do let q ← (getDstT kQ .i8 f.a).bind idx3; let b ← getSrcT kS .i8 f.b; some ⟨q, b, f.c.extractLsb' 16 8, f.c.extractLsb' 0 16⟩
def buildQGo (x : OpQGo) : Fields :=
  ⟨dst0Field kQ (wide3 x.q) .i8, srcField kS x.b .i8 false, x.ch ++ x.id⟩

def parseQPush (f : Fields) : Option OpQPush :=
  do let q ← (getDstT kQ .i8 f.a).bind idx3; let b ← getSV f.b; unused f.c; some ⟨q, b⟩
def buildQPush (x : OpQPush) : Fields :=
  ⟨dst0Field kQ (wide3 x.q) .i8, svField x.b, 0⟩

def parseQPop (f : Fields) : Option OpQPop :=
  do let a ← getSV f.a; let q ← (getSrcT kQ .i8 f.b).bind idx3; unused f.c; some ⟨a, q⟩
def buildQPop (x : OpQPop) : Fields :=
  ⟨svField x.a, srcField kQ (wide3 x.q) .i8 false, 0⟩

def parseHStart (f : Fields) : Option OpHStart :=
  do let a ← getDstT kS .i8 f.a; let b ← getSrcT kS .i8 f.b; some ⟨a, b, f.c⟩
def buildHStart (x : OpHStart) : Fields :=
  ⟨dst0Field kS x.a .i8, srcField kS x.b .i8 false, x.off⟩

def parseXsend (f : Fields) : Option OpXsend :=
  do let a ← getSrcT kS .i8 f.a; let b ← (getSrcT kV .i8 f.b).bind idx4; let c ← getSmall 16 f.c; some ⟨a, b, c⟩
def buildXsend (x : OpXsend) : Fields :=
  ⟨srcField kS x.a .i8 false, srcField kV (wide4 x.b) .i8 false, smallField x.cyc⟩

def parseXrecv (f : Fields) : Option OpXrecv :=
  do let a ← (getDstT kV .i8 f.a).bind idx4; unused f.b; let c ← getSmall 16 f.c; some ⟨a, c⟩
def buildXrecv (x : OpXrecv) : Fields :=
  ⟨dst0Field kV (wide4 x.a) .i8, 0, smallField x.cyc⟩

def parseRPop (f : Fields) : Option OpRPop :=
  do let p ← (getDstT kP .i8 f.a).bind idx3; let b ← getSV f.b; unused f.c; some ⟨p, b⟩
def buildRPop (x : OpRPop) : Fields :=
  ⟨dst0Field kP (wide3 x.p) .i8, svField x.b, 0⟩

def parseSys (f : Fields) : Option OpSys :=
  do let b ← getSrcT kS .i8 f.b; unused f.c; if f.a.extractLsb' 0 12 = 0#12 then some ⟨f.a.extractLsb' 12 12, b⟩ else none
def buildSys (x : OpSys) : Fields :=
  ⟨x.num ++ 0#12, srcField kS x.b .i8 false, 0⟩

def parseBC (f : Fields) : Option OpBC :=
  do unused f.a; let b ← getSrcT kS .i8 f.b; let c ← getSrcT kS .i8 f.c; some ⟨b, c⟩
def buildBC (x : OpBC) : Fields :=
  ⟨0, srcField kS x.b .i8 false, srcField kS x.c .i8 false⟩

def parseU (f : Fields) : Option Unit :=
  do unused f.a; unused f.b; unused f.c
def buildU : Fields :=
  (⟨0, 0, 0⟩ : Fields)

def parseOff (f : Fields) : Option (BitVec 24) :=
  do unused f.a; unused f.b; some f.c
def buildOff (x : BitVec 24) : Fields :=
  ⟨0, 0, x⟩

def parseCode (f : Fields) : Option (BitVec 24) :=
  do unused f.a; unused f.b; some f.c
def buildCode (x : BitVec 24) : Fields :=
  ⟨0, 0, x⟩

def parseB (f : Fields) : Option SReg :=
  do unused f.a; let b ← getSrcT kS .i8 f.b; unused f.c; some b
def buildB (x : SReg) : Fields :=
  ⟨0, srcField kS x .i8 false, 0⟩

def parseA (f : Fields) : Option SReg :=
  do let a ← getDstT kS .i8 f.a; unused f.b; unused f.c; some a
def buildA (x : SReg) : Fields :=
  ⟨dst0Field kS x .i8, 0, 0⟩

def parseTA (f : Fields) : Option AReg :=
  do let a ← (getDstT kA .i8 f.a).bind idx3; unused f.b; unused f.c; some a
def buildTA (x : AReg) : Fields :=
  ⟨dst0Field kA (wide3 x) .i8, 0, 0⟩

def parseSlot (f : Fields) : Option (BitVec 5) :=
  do unused f.a; let s ← getSmall 5 f.b; unused f.c; some s
def buildSlot (x : BitVec 5) : Fields :=
  ⟨0, smallField x, 0⟩

def parseId (f : Fields) : Option (BitVec 16) :=
  do unused f.a; unused f.b; if f.c.extractLsb' 16 8 = 0#8 then some (f.c.extractLsb' 0 16) else none
def buildId (x : BitVec 16) : Fields :=
  ⟨0, 0, 0#8 ++ x⟩

def parseRPush (f : Fields) : Option SrcSV :=
  do unused f.a; let b ← getSV f.b; unused f.c; some b
def buildRPush (x : SrcSV) : Fields :=
  ⟨0, svField x, 0⟩

def parseProg (f : Fields) : Option SrcDS :=
  do unused f.a
     unused f.c
     match getSrcT kS .i8 f.b with
     | some r => some (.s r)
     | none => ((getSrcT kD .i8 f.b).bind idx3).map .d
def buildProg (x : SrcDS) : Fields :=
  ⟨0, (match x with | .s r => srcField kS r .i8 false | .d r => srcField kD (wide3 r) .i8 false), 0⟩

def parseSw (t : ETy) (f : Fields) : Option OpSw :=
  do let c ← getSwC f.c
     let s ← getSwSrc c
     some ⟨t, getSw f.a, getSw f.b, c.n, s, c.rnd, c.sat⟩
def buildSw (x : OpSw) : Fields :=
  ⟨swField x.dst, swField x.src, swCField x.n (swSrcKind x.c) (swSrcMid x.c) x.rnd x.sat⟩

def parseSwCvt (t : ETy) (f : Fields) : Option OpSwCvt :=
  do let c ← getSwC f.c
     let st ← ETy.ofCode (c.mid.extractLsb' 0 4)
     if c.kind = 0 ∧ c.mid.extractLsb' 4 1 = 0#1 then some ⟨t, st, getSw f.a, getSw f.b, c.n, c.rnd, c.sat⟩ else none
def buildSwCvt (x : OpSwCvt) : Fields :=
  ⟨swField x.dst, swField x.src, swCField x.n 0 (0#1 ++ x.sty.code) x.rnd x.sat⟩

def parseSwV (t : ETy) (f : Fields) : Option OpSwV :=
  do let c ← getSwC f.c
     let v ← idx4 c.mid
     if c.kind = 2 ∧ c.rnd = .rn ∧ c.sat = false then some ⟨t, getSw f.a, getSw f.b, c.n, v⟩ else none
def buildSwV (x : OpSwV) : Fields :=
  ⟨swField x.dst, swField x.src, swCField x.n 2 (wide4 x.c) .rn false⟩

def parseSwRed (t : ETy) (f : Fields) : Option OpSwRed :=
  do unused f.a
     let c ← getSwC f.c
     let v ← idx4 c.mid
     if c.kind = 2 then some ⟨t, getSw f.b, c.n, v, c.rnd, c.sat⟩ else none
def buildSwRed (x : OpSwRed) : Fields :=
  ⟨0, swField x.src, swCField x.n 2 (wide4 x.c) x.rnd x.sat⟩

def parseSwCopy (t : ETy) (f : Fields) : Option OpSwCopy :=
  do let c ← getSwC f.c
     if c.kind = 0 ∧ c.mid = 0 ∧ c.rnd = .rn ∧ c.sat = false then some ⟨t, getSw f.a, getSw f.b, c.n⟩ else none
def buildSwCopy (x : OpSwCopy) : Fields :=
  ⟨swField x.dst, swField x.src, swCField x.n 0 0 .rn false⟩

/-! ### The opcode map (R29) -/

/-- Class 0x0 (R29). -/
def instrOf0 (op : Nat) (h : Hdr) (f : Fields) : Option Instr :=
  match op with
  | 0x00 => (parseRRI f).map (Instr.add h)
  | 0x01 => (parseRRI f).map (Instr.sub h)
  | 0x02 => (parseRRI f).map (Instr.mul h)
  | 0x03 => (parseRRI f).map (Instr.mulh h)
  | 0x04 => (parseRRI f).map (Instr.div h)
  | 0x05 => (parseRRI f).map (Instr.rem h)
  | 0x06 => (parseRRI f).map (Instr.and h)
  | 0x07 => (parseRRI f).map (Instr.or h)
  | 0x08 => (parseRRI f).map (Instr.xor h)
  | 0x09 => (parseRRI f).map (Instr.shl h)
  | 0x0A => (parseRRI f).map (Instr.shr h)
  | 0x0B => (parseRRI f).map (Instr.sar h)
  | 0x0C => (parseRRI f).map (Instr.min h)
  | 0x0D => (parseRRI f).map (Instr.max h)
  | 0x0E => (parseSel f).map (Instr.sel h)
  | 0x0F => (parseImm24 f).map (Instr.li h)
  | 0x10 => (parseImm24 f).map (Instr.lui h)
  | 0x11 => (parseMov f).map (Instr.mov h)
  | 0x12 => (parseCmp f).map (Instr.cmpEq h)
  | 0x13 => (parseCmp f).map (Instr.cmpNe h)
  | 0x14 => (parseCmp f).map (Instr.cmpLt h)
  | 0x15 => (parseCmp f).map (Instr.cmpLe h)
  | 0x16 => (parseCmp f).map (Instr.cmpGt h)
  | 0x17 => (parseCmp f).map (Instr.cmpGe h)
  | 0x18 => (parsePtr f).map (Instr.ptag h)
  | 0x19 => (parseRR f).map (Instr.pspace h)
  | 0x1A => (parseRR f).map (Instr.powner h)
  | 0x1B => (parseRR f).map (Instr.poff h)
  | 0x1C => (parsePtr f).map (Instr.padd h)
  | _ => none

/-- Class 0x1 (R29). -/
def instrOf1 (op : Nat) (h : Hdr) (f : Fields) : Option Instr :=
  match op with
  | 0x00 => (parseFA f).map (Instr.fadd h)
  | 0x01 => (parseFA f).map (Instr.fsub h)
  | 0x02 => (parseFA f).map (Instr.fmul h)
  | 0x03 => (parseFA f).map (Instr.ffma h)
  | 0x04 => (parseFA f).map (Instr.fdiv h)
  | 0x05 => (parseFU f).map (Instr.fsqrt h)
  | 0x06 => (parseFA f).map (Instr.fmin h)
  | 0x07 => (parseFA f).map (Instr.fmax h)
  | 0x08 => (parseCvt f).map (Instr.fcvt h)
  | 0x10 => (parseFCmp f).map (Instr.fcmpEq h)
  | 0x11 => (parseFCmp f).map (Instr.fcmpNe h)
  | 0x12 => (parseFCmp f).map (Instr.fcmpLt h)
  | 0x13 => (parseFCmp f).map (Instr.fcmpLe h)
  | 0x14 => (parseFCmp f).map (Instr.fcmpGt h)
  | 0x15 => (parseFCmp f).map (Instr.fcmpGe h)
  | 0x16 => (parseFCmp f).map (Instr.fcmpUn h)
  | _ => none

/-- Class 0x2 (R29). -/
def instrOf2 (op : Nat) (h : Hdr) (f : Fields) : Option Instr :=
  match op with
  | 0x00 => (parseU f).map fun _ => Instr.nop h
  | 0x01 => (parseOff f).map (Instr.br h)
  | 0x02 => (parseROff f).map (Instr.bcZ h)
  | 0x03 => (parseROff f).map (Instr.bcNz h)
  | 0x04 => (parseROff f).map (Instr.call h)
  | 0x05 => (parseB f).map (Instr.ret h)
  | 0x06 => (parseB f).map (Instr.jmp h)
  | 0x07 => (parseROff f).map (Instr.loop h)
  | 0x08 => (parseU f).map fun _ => Instr.uend h
  | 0x09 => (parseCode f).map (Instr.trapi h)
  | _ => none

/-- Class 0x3 (R29). -/
def instrOf3 (op : Nat) (h : Hdr) (f : Fields) : Option Instr :=
  match op with
  | 0x00 => (parseVA f).map (Instr.vadd h)
  | 0x01 => (parseVA f).map (Instr.vsub h)
  | 0x02 => (parseVA f).map (Instr.vmul h)
  | 0x03 => (parseVA f).map (Instr.vfma h)
  | 0x04 => (parseVA f).map (Instr.vmin h)
  | 0x05 => (parseVA f).map (Instr.vmax h)
  | 0x06 => (parseVA f).map (Instr.vand h)
  | 0x07 => (parseVA f).map (Instr.vor h)
  | 0x08 => (parseVA f).map (Instr.vxor h)
  | 0x09 => (parseVSel f).map (Instr.vsel h)
  | 0x0A => (parseVCvt f).map (Instr.vcvt h)
  | 0x0B => (parseVRed f).map (Instr.vred h)
  | 0x0C => (parseVBc f).map (Instr.vbcast h)
  | 0x0D => (parseVShuf f).map (Instr.vshuf h)
  | 0x10 => (parseVCmp f).map (Instr.vcmpEq h)
  | 0x11 => (parseVCmp f).map (Instr.vcmpNe h)
  | 0x12 => (parseVCmp f).map (Instr.vcmpLt h)
  | 0x13 => (parseVCmp f).map (Instr.vcmpLe h)
  | 0x14 => (parseVCmp f).map (Instr.vcmpGt h)
  | 0x15 => (parseVCmp f).map (Instr.vcmpGe h)
  | 0x16 => (parseVCmp f).map (Instr.vcmpUn h)
  | 0x18 => (parseVLd f).map (Instr.vld h)
  | 0x19 => (parseVSt f).map (Instr.vst h)
  | _ => none

/-- Class 0x4: the sweep operation in bits 91:88 and the element type in bits 87:84 (R29). -/
def instrOf4 (op : Nat) (h : Hdr) (f : Fields) : Option Instr :=
  match ETy.ofIdx (op % 16) with
  | none => none
  | some t =>
    match op / 16 with
    | 0 => (parseSw t f).map (Instr.wadd h)
    | 1 => (parseSw t f).map (Instr.wsub h)
    | 2 => (parseSw t f).map (Instr.wmul h)
    | 3 => (parseSw t f).map (Instr.wfma h)
    | 4 => (parseSw t f).map (Instr.wmin h)
    | 5 => (parseSw t f).map (Instr.wmax h)
    | 6 => (parseSwCvt t f).map (Instr.wcvt h)
    | 7 => (parseSwV t f).map (Instr.wclamp h)
    | 8 => (parseSwRed t f).map (Instr.wred h)
    | 9 => (parseSwCopy t f).map (Instr.wcopy h)
    | _ => none

/-- Class 0x5 (R29). -/
def instrOf5 (op : Nat) (h : Hdr) (f : Fields) : Option Instr :=
  match op with
  | 0x00 => (parseSfn f).map (Instr.exp2 h)
  | 0x01 => (parseSfn f).map (Instr.log2 h)
  | 0x02 => (parseSfn f).map (Instr.exp h)
  | 0x03 => (parseSfn f).map (Instr.log h)
  | 0x04 => (parseSfn f).map (Instr.rcp h)
  | 0x05 => (parseSfn f).map (Instr.rsqrt h)
  | 0x06 => (parseSfn f).map (Instr.tanh h)
  | 0x07 => (parseSfn f).map (Instr.sigm h)
  | _ => none

/-- Class 0x6 (R29). -/
def instrOf6 (op : Nat) (h : Hdr) (f : Fields) : Option Instr :=
  match op with
  | 0x00 => (parseMld f).map (Instr.mldA h)
  | 0x01 => (parseMld f).map (Instr.mldB h)
  | 0x02 => (parseTA f).map (Instr.mzero h)
  | 0x03 => (parseMmac f).map (Instr.mmac h)
  | 0x04 => (parseMmacSp f).map (Instr.mmacSp h)
  | 0x05 => (parseMscale f).map (Instr.mscale h)
  | 0x06 => (parseMepi f).map (Instr.mepi h)
  | 0x07 => (parseTA f).map (Instr.mdrain h)
  | 0x08 => (parseMstat f).map (Instr.mstat h)
  | 0x09 => (parseB f).map (Instr.mrepl h)
  | 0x0A => (parseSCode f).map (Instr.mswz h)
  | _ => none

/-- Class 0x7 (R29). -/
def instrOf7 (op : Nat) (h : Hdr) (f : Fields) : Option Instr :=
  match op with
  | 0x00 => (parseDLd f).map (Instr.dld h)
  | 0x01 => (parseDSt f).map (Instr.dstr h)
  | 0x02 => (parseDpt f).map (Instr.dpt h)
  | 0x03 => (parseD3 f).map (Instr.dadd h)
  | 0x04 => (parseD3 f).map (Instr.dsub h)
  | 0x05 => (parseD3 f).map (Instr.dmul h)
  | 0x06 => (parseD3 f).map (Instr.dmax h)
  | 0x07 => (parseD3 f).map (Instr.dmin h)
  | 0x08 => (parseDmix f).map (Instr.dmix h)
  | 0x09 => (parseDtag f).map (Instr.dtag h)
  | 0x0A => (parseDmom f).map (Instr.dmom h)
  | 0x0B => (parseDqnt f).map (Instr.dqnt h)
  | _ => none

/-- Class 0x8 (R29). -/
def instrOf8 (op : Nat) (h : Hdr) (f : Fields) : Option Instr :=
  match op with
  | 0x00 => (parseLd f).map (Instr.ld h)
  | 0x01 => (parseLdO f).map (Instr.ldAcq h)
  | 0x02 => (parseSt f).map (Instr.st h)
  | 0x03 => (parseStO f).map (Instr.stRel h)
  | 0x04 => (parseLd f).map (Instr.ldg h)
  | 0x05 => (parseLdO f).map (Instr.ldgAcq h)
  | 0x06 => (parseSt f).map (Instr.stg h)
  | 0x07 => (parseStO f).map (Instr.stgRel h)
  | 0x08 => (parseLd f).map (Instr.ldh h)
  | 0x09 => (parseLdO f).map (Instr.ldhAcq h)
  | 0x0A => (parseSt f).map (Instr.sth h)
  | 0x0B => (parseStO f).map (Instr.sthRel h)
  | 0x0C => (parsePref f).map (Instr.pref h)
  | _ => none

/-- Class 0x9 (R29). -/
def instrOf9 (op : Nat) (h : Hdr) (f : Fields) : Option Instr :=
  match op with
  | 0x00 => (parseAtm f).map (Instr.atmAdd h)
  | 0x01 => (parseAtm f).map (Instr.atmAnd h)
  | 0x02 => (parseAtm f).map (Instr.atmOr h)
  | 0x03 => (parseAtm f).map (Instr.atmXor h)
  | 0x04 => (parseAtm f).map (Instr.atmMin h)
  | 0x05 => (parseAtm f).map (Instr.atmMax h)
  | 0x06 => (parseAtm f).map (Instr.atmFadd h)
  | 0x07 => (parseAtm f).map (Instr.atmSwap h)
  | 0x08 => (parseAtm f).map (Instr.atmCas h)
  | 0x09 => (parseAtm f).map (Instr.atmIncb h)
  | _ => none

/-- Class 0xA (R29). -/
def instrOf10 (op : Nat) (h : Hdr) (f : Fields) : Option Instr :=
  match op with
  | 0x00 => (parseU f).map fun _ => Instr.fenceCtx h
  | 0x01 => (parseU f).map fun _ => Instr.fenceCore h
  | 0x02 => (parseU f).map fun _ => Instr.fenceClu h
  | 0x03 => (parseU f).map fun _ => Instr.fenceDie h
  | 0x04 => (parseU f).map fun _ => Instr.fenceSys h
  | 0x05 => (parseU f).map fun _ => Instr.fencePkg h
  | 0x08 => (parseFencep f).map (Instr.fencep h)
  | 0x09 => (parseA f).map (Instr.fiss h)
  | 0x0A => (parseB f).map (Instr.fwait h)
  | 0x10 => (parseB f).map (Instr.txdeclR h)
  | 0x11 => (parseB f).map (Instr.txdeclW h)
  | 0x12 => (parseA f).map (Instr.txsub h)
  | 0x13 => (parseB f).map (Instr.txwait h)
  | 0x14 => (parseB f).map (Instr.txend h)
  | _ => none

/-- Class 0xB (R29). -/
def instrOf11 (op : Nat) (h : Hdr) (f : Fields) : Option Instr :=
  match op with
  | 0x00 => (parseSlotC f).map (Instr.bhand h)
  | 0x01 => (parseSlot f).map (Instr.bwait h)
  | 0x02 => (parseASlot f).map (Instr.bstat h)
  | 0x03 => (parseSCode f).map (Instr.bswz h)
  | 0x04 => (parseSlotC f).map (Instr.battach h)
  | 0x05 => (parseB f).map (Instr.brevoke h)
  | _ => none

/-- Class 0xC (R29). -/
def instrOf12 (op : Nat) (h : Hdr) (f : Fields) : Option Instr :=
  match op with
  | 0x00 => (parseQGo f).map (Instr.cpgo h)
  | 0x01 => (parseId f).map (Instr.cpwait h)
  | 0x02 => (parseQGo f).map (Instr.swgo h)
  | 0x03 => (parseQGo f).map (Instr.gath h)
  | 0x04 => (parseQGo f).map (Instr.coll h)
  | 0x05 => (parseQPush f).map (Instr.qpush h)
  | 0x06 => (parseQPop f).map (Instr.qpop h)
  | 0x07 => (parseU f).map fun _ => Instr.uiret h
  | _ => none

/-- Class 0xD (R29). -/
def instrOf13 (op : Nat) (h : Hdr) (f : Fields) : Option Instr :=
  match op with
  | 0x00 => (parseHStart f).map (Instr.hstart h)
  | 0x01 => (parseU f).map fun _ => Instr.hend h
  | 0x02 => (parseB f).map (Instr.hwait h)
  | 0x03 => (parseRR f).map (Instr.launch h)
  | 0x04 => (parseB f).map (Instr.lwait h)
  | 0x05 => (parseB f).map (Instr.cancelLaunch h)
  | 0x06 => (parseB f).map (Instr.cancelGraph h)
  | 0x07 => (parseB f).map (Instr.cancelSession h)
  | 0x08 => (parseB f).map (Instr.cancelJob h)
  | 0x09 => (parseU f).map fun _ => Instr.bar h
  | 0x0A => (parseXsend f).map (Instr.xsend h)
  | 0x0B => (parseXrecv f).map (Instr.xrecv h)
  | 0x0C => (parseRPush f).map (Instr.rpush h)
  | 0x0D => (parseRPop f).map (Instr.rpop h)
  | 0x0E => (parseU f).map fun _ => Instr.reos h
  | 0x0F => (parseProg f).map (Instr.prog h)
  | 0x10 => (parseU f).map fun _ => Instr.yield h
  | _ => none

/-- Class 0xE (R29). -/
def instrOf14 (op : Nat) (h : Hdr) (f : Fields) : Option Instr :=
  match op with
  | 0x00 => (parseSys f).map (Instr.sysr h)
  | 0x01 => (parseSys f).map (Instr.sysw h)
  | 0x02 => (parseB f).map (Instr.ovtld h)
  | 0x03 => (parseBC f).map (Instr.ctxsave h)
  | 0x04 => (parseBC f).map (Instr.ctxload h)
  | 0x05 => (parseBC f).map (Instr.tlbinv h)
  | 0x06 => (parseU f).map fun _ => Instr.tlbsync h
  | 0x07 => (parseCode f).map (Instr.hcall h)
  | 0x08 => (parseU f).map fun _ => Instr.trapret h
  | 0x09 => (parseRR f).map (Instr.evpost h)
  | 0x0A => (parseBC f).map (Instr.wipe h)
  | 0x0B => (parseBC f).map (Instr.pmap h)
  | _ => none

/-- The instruction of a class, an operation and fields, before the field rules of Instr.wf. -/
def instrOf (cls op : Nat) (h : Hdr) (f : Fields) : Option Instr :=
  match cls with
  | 0 => instrOf0 op h f
  | 1 => instrOf1 op h f
  | 2 => instrOf2 op h f
  | 3 => instrOf3 op h f
  | 4 => instrOf4 op h f
  | 5 => instrOf5 op h f
  | 6 => instrOf6 op h f
  | 7 => instrOf7 op h f
  | 8 => instrOf8 op h f
  | 9 => instrOf9 op h f
  | 10 => instrOf10 op h f
  | 11 => instrOf11 op h f
  | 12 => instrOf12 op h f
  | 13 => instrOf13 op h f
  | 14 => instrOf14 op h f
  | _ => none

/-- The header of a word; phase class 11 is refused (R20). -/
def hdrOf (b : BitVec 12) : Option Hdr :=
  (PClass.ofCode (b.extractLsb' 1 2)).map fun ph =>
    { neg := bitB (b.extractLsb' 11 1), guard := b.extractLsb' 8 3, stall := b.extractLsb' 4 4,
      yield := bitB (b.extractLsb' 3 1), phase := ph, reuse := bitB (b.extractLsb' 0 1) }

def hdrBits (h : Hdr) : BitVec 12 :=
  boolBit h.neg ++ h.guard ++ h.stall ++ boolBit h.yield ++ h.phase.code ++ boolBit h.reuse

/-- Decode one word (R18, R22 to R30): none is a word that takes ILLEGAL. -/
def decode (w : BitVec 96) : Option Instr :=
  match hdrOf (w.extractLsb' 72 12) with
  | none => none
  | some h =>
    match instrOf (w.extractLsb' 92 4).toNat (w.extractLsb' 84 8).toNat h
        ⟨w.extractLsb' 48 24, w.extractLsb' 24 24, w.extractLsb' 0 24⟩ with
    | some i => if i.wf then some i else none
    | none => none

/-- Little-endian bytes as one number (R3). -/
def leNat : List Byte → Nat
  | [] => 0
  | b :: bs => b.toNat + 256 * leNat bs

/-- Twelve bytes at rising addresses as a word: three little-endian 32-bit words, the low one first (R18). -/
def wordOfBytes (bs : List Byte) : BitVec 96 := BitVec.ofNat 96 (leNat bs)

/-- The n little-endian bytes of a number (R3). -/
def leBytes : Nat → Nat → List Byte
  | 0, _ => []
  | n + 1, v => BitVec.ofNat 8 v :: leBytes n (v / 256)

/-- Decode the instruction that stands in twelve bytes. -/
def decodeBytes (bs : List Byte) : Option Instr := decode (wordOfBytes bs)

/-- The instruction of a table word: bits numbered from the first word's bit 0, those above nbits zero (R18). -/
def decodeTableWord (nbits w : Nat) : Option Instr := decodeBytes (leBytes 12 (w % 2 ^ nbits))

/-! ### The encoder -/

/-- A word from its class, operation, header and fields (R18). -/
def assemble (cls : BitVec 4) (op : BitVec 8) (h : Hdr) (f : Fields) : BitVec 96 :=
  cls ++ op ++ hdrBits h ++ f.a ++ f.b ++ f.c

/-- The word of an instruction; events have none. -/
def encode : Instr → Option (BitVec 96)
  | .add h x => some (assemble 0x0 0x00 h (buildRRI x))
  | .sub h x => some (assemble 0x0 0x01 h (buildRRI x))
  | .mul h x => some (assemble 0x0 0x02 h (buildRRI x))
  | .mulh h x => some (assemble 0x0 0x03 h (buildRRI x))
  | .div h x => some (assemble 0x0 0x04 h (buildRRI x))
  | .rem h x => some (assemble 0x0 0x05 h (buildRRI x))
  | .and h x => some (assemble 0x0 0x06 h (buildRRI x))
  | .or h x => some (assemble 0x0 0x07 h (buildRRI x))
  | .xor h x => some (assemble 0x0 0x08 h (buildRRI x))
  | .shl h x => some (assemble 0x0 0x09 h (buildRRI x))
  | .shr h x => some (assemble 0x0 0x0A h (buildRRI x))
  | .sar h x => some (assemble 0x0 0x0B h (buildRRI x))
  | .min h x => some (assemble 0x0 0x0C h (buildRRI x))
  | .max h x => some (assemble 0x0 0x0D h (buildRRI x))
  | .sel h x => some (assemble 0x0 0x0E h (buildSel x))
  | .li h x => some (assemble 0x0 0x0F h (buildImm24 x))
  | .lui h x => some (assemble 0x0 0x10 h (buildImm24 x))
  | .mov h x => some (assemble 0x0 0x11 h (buildMov x))
  | .cmpEq h x => some (assemble 0x0 0x12 h (buildCmp x))
  | .cmpNe h x => some (assemble 0x0 0x13 h (buildCmp x))
  | .cmpLt h x => some (assemble 0x0 0x14 h (buildCmp x))
  | .cmpLe h x => some (assemble 0x0 0x15 h (buildCmp x))
  | .cmpGt h x => some (assemble 0x0 0x16 h (buildCmp x))
  | .cmpGe h x => some (assemble 0x0 0x17 h (buildCmp x))
  | .ptag h x => some (assemble 0x0 0x18 h (buildPtr x))
  | .pspace h x => some (assemble 0x0 0x19 h (buildRR x))
  | .powner h x => some (assemble 0x0 0x1A h (buildRR x))
  | .poff h x => some (assemble 0x0 0x1B h (buildRR x))
  | .padd h x => some (assemble 0x0 0x1C h (buildPtr x))
  | .fadd h x => some (assemble 0x1 0x00 h (buildFA x))
  | .fsub h x => some (assemble 0x1 0x01 h (buildFA x))
  | .fmul h x => some (assemble 0x1 0x02 h (buildFA x))
  | .ffma h x => some (assemble 0x1 0x03 h (buildFA x))
  | .fdiv h x => some (assemble 0x1 0x04 h (buildFA x))
  | .fsqrt h x => some (assemble 0x1 0x05 h (buildFU x))
  | .fmin h x => some (assemble 0x1 0x06 h (buildFA x))
  | .fmax h x => some (assemble 0x1 0x07 h (buildFA x))
  | .fcvt h x => some (assemble 0x1 0x08 h (buildCvt x))
  | .fcmpEq h x => some (assemble 0x1 0x10 h (buildFCmp x))
  | .fcmpNe h x => some (assemble 0x1 0x11 h (buildFCmp x))
  | .fcmpLt h x => some (assemble 0x1 0x12 h (buildFCmp x))
  | .fcmpLe h x => some (assemble 0x1 0x13 h (buildFCmp x))
  | .fcmpGt h x => some (assemble 0x1 0x14 h (buildFCmp x))
  | .fcmpGe h x => some (assemble 0x1 0x15 h (buildFCmp x))
  | .fcmpUn h x => some (assemble 0x1 0x16 h (buildFCmp x))
  | .nop h => some (assemble 0x2 0x00 h buildU)
  | .br h x => some (assemble 0x2 0x01 h (buildOff x))
  | .bcZ h x => some (assemble 0x2 0x02 h (buildROff x))
  | .bcNz h x => some (assemble 0x2 0x03 h (buildROff x))
  | .call h x => some (assemble 0x2 0x04 h (buildROff x))
  | .ret h x => some (assemble 0x2 0x05 h (buildB x))
  | .jmp h x => some (assemble 0x2 0x06 h (buildB x))
  | .loop h x => some (assemble 0x2 0x07 h (buildROff x))
  | .uend h => some (assemble 0x2 0x08 h buildU)
  | .trapi h x => some (assemble 0x2 0x09 h (buildCode x))
  | .vadd h x => some (assemble 0x3 0x00 h (buildVA x))
  | .vsub h x => some (assemble 0x3 0x01 h (buildVA x))
  | .vmul h x => some (assemble 0x3 0x02 h (buildVA x))
  | .vfma h x => some (assemble 0x3 0x03 h (buildVA x))
  | .vmin h x => some (assemble 0x3 0x04 h (buildVA x))
  | .vmax h x => some (assemble 0x3 0x05 h (buildVA x))
  | .vand h x => some (assemble 0x3 0x06 h (buildVA x))
  | .vor h x => some (assemble 0x3 0x07 h (buildVA x))
  | .vxor h x => some (assemble 0x3 0x08 h (buildVA x))
  | .vsel h x => some (assemble 0x3 0x09 h (buildVSel x))
  | .vcvt h x => some (assemble 0x3 0x0A h (buildVCvt x))
  | .vred h x => some (assemble 0x3 0x0B h (buildVRed x))
  | .vbcast h x => some (assemble 0x3 0x0C h (buildVBc x))
  | .vshuf h x => some (assemble 0x3 0x0D h (buildVShuf x))
  | .vcmpEq h x => some (assemble 0x3 0x10 h (buildVCmp x))
  | .vcmpNe h x => some (assemble 0x3 0x11 h (buildVCmp x))
  | .vcmpLt h x => some (assemble 0x3 0x12 h (buildVCmp x))
  | .vcmpLe h x => some (assemble 0x3 0x13 h (buildVCmp x))
  | .vcmpGt h x => some (assemble 0x3 0x14 h (buildVCmp x))
  | .vcmpGe h x => some (assemble 0x3 0x15 h (buildVCmp x))
  | .vcmpUn h x => some (assemble 0x3 0x16 h (buildVCmp x))
  | .vld h x => some (assemble 0x3 0x18 h (buildVLd x))
  | .vst h x => some (assemble 0x3 0x19 h (buildVSt x))
  | .wadd h x => some (assemble 0x4 (0x0#4 ++ x.ty.code) h (buildSw x))
  | .wsub h x => some (assemble 0x4 (0x1#4 ++ x.ty.code) h (buildSw x))
  | .wmul h x => some (assemble 0x4 (0x2#4 ++ x.ty.code) h (buildSw x))
  | .wfma h x => some (assemble 0x4 (0x3#4 ++ x.ty.code) h (buildSw x))
  | .wmin h x => some (assemble 0x4 (0x4#4 ++ x.ty.code) h (buildSw x))
  | .wmax h x => some (assemble 0x4 (0x5#4 ++ x.ty.code) h (buildSw x))
  | .wcvt h x => some (assemble 0x4 (0x6#4 ++ x.dty.code) h (buildSwCvt x))
  | .wclamp h x => some (assemble 0x4 (0x7#4 ++ x.ty.code) h (buildSwV x))
  | .wred h x => some (assemble 0x4 (0x8#4 ++ x.ty.code) h (buildSwRed x))
  | .wcopy h x => some (assemble 0x4 (0x9#4 ++ x.ty.code) h (buildSwCopy x))
  | .exp2 h x => some (assemble 0x5 0x00 h (buildSfn x))
  | .log2 h x => some (assemble 0x5 0x01 h (buildSfn x))
  | .exp h x => some (assemble 0x5 0x02 h (buildSfn x))
  | .log h x => some (assemble 0x5 0x03 h (buildSfn x))
  | .rcp h x => some (assemble 0x5 0x04 h (buildSfn x))
  | .rsqrt h x => some (assemble 0x5 0x05 h (buildSfn x))
  | .tanh h x => some (assemble 0x5 0x06 h (buildSfn x))
  | .sigm h x => some (assemble 0x5 0x07 h (buildSfn x))
  | .mldA h x => some (assemble 0x6 0x00 h (buildMld x))
  | .mldB h x => some (assemble 0x6 0x01 h (buildMld x))
  | .mzero h x => some (assemble 0x6 0x02 h (buildTA x))
  | .mmac h x => some (assemble 0x6 0x03 h (buildMmac x))
  | .mmacSp h x => some (assemble 0x6 0x04 h (buildMmacSp x))
  | .mscale h x => some (assemble 0x6 0x05 h (buildMscale x))
  | .mepi h x => some (assemble 0x6 0x06 h (buildMepi x))
  | .mdrain h x => some (assemble 0x6 0x07 h (buildTA x))
  | .mstat h x => some (assemble 0x6 0x08 h (buildMstat x))
  | .mrepl h x => some (assemble 0x6 0x09 h (buildB x))
  | .mswz h x => some (assemble 0x6 0x0A h (buildSCode x))
  | .dld h x => some (assemble 0x7 0x00 h (buildDLd x))
  | .dstr h x => some (assemble 0x7 0x01 h (buildDSt x))
  | .dpt h x => some (assemble 0x7 0x02 h (buildDpt x))
  | .dadd h x => some (assemble 0x7 0x03 h (buildD3 x))
  | .dsub h x => some (assemble 0x7 0x04 h (buildD3 x))
  | .dmul h x => some (assemble 0x7 0x05 h (buildD3 x))
  | .dmax h x => some (assemble 0x7 0x06 h (buildD3 x))
  | .dmin h x => some (assemble 0x7 0x07 h (buildD3 x))
  | .dmix h x => some (assemble 0x7 0x08 h (buildDmix x))
  | .dtag h x => some (assemble 0x7 0x09 h (buildDtag x))
  | .dmom h x => some (assemble 0x7 0x0A h (buildDmom x))
  | .dqnt h x => some (assemble 0x7 0x0B h (buildDqnt x))
  | .ld h x => some (assemble 0x8 0x00 h (buildLd x))
  | .ldAcq h x => some (assemble 0x8 0x01 h (buildLdO x))
  | .st h x => some (assemble 0x8 0x02 h (buildSt x))
  | .stRel h x => some (assemble 0x8 0x03 h (buildStO x))
  | .ldg h x => some (assemble 0x8 0x04 h (buildLd x))
  | .ldgAcq h x => some (assemble 0x8 0x05 h (buildLdO x))
  | .stg h x => some (assemble 0x8 0x06 h (buildSt x))
  | .stgRel h x => some (assemble 0x8 0x07 h (buildStO x))
  | .ldh h x => some (assemble 0x8 0x08 h (buildLd x))
  | .ldhAcq h x => some (assemble 0x8 0x09 h (buildLdO x))
  | .sth h x => some (assemble 0x8 0x0A h (buildSt x))
  | .sthRel h x => some (assemble 0x8 0x0B h (buildStO x))
  | .pref h x => some (assemble 0x8 0x0C h (buildPref x))
  | .atmAdd h x => some (assemble 0x9 0x00 h (buildAtm x))
  | .atmAnd h x => some (assemble 0x9 0x01 h (buildAtm x))
  | .atmOr h x => some (assemble 0x9 0x02 h (buildAtm x))
  | .atmXor h x => some (assemble 0x9 0x03 h (buildAtm x))
  | .atmMin h x => some (assemble 0x9 0x04 h (buildAtm x))
  | .atmMax h x => some (assemble 0x9 0x05 h (buildAtm x))
  | .atmFadd h x => some (assemble 0x9 0x06 h (buildAtm x))
  | .atmSwap h x => some (assemble 0x9 0x07 h (buildAtm x))
  | .atmCas h x => some (assemble 0x9 0x08 h (buildAtm x))
  | .atmIncb h x => some (assemble 0x9 0x09 h (buildAtm x))
  | .fenceCtx h => some (assemble 0xA 0x00 h buildU)
  | .fenceCore h => some (assemble 0xA 0x01 h buildU)
  | .fenceClu h => some (assemble 0xA 0x02 h buildU)
  | .fenceDie h => some (assemble 0xA 0x03 h buildU)
  | .fenceSys h => some (assemble 0xA 0x04 h buildU)
  | .fencePkg h => some (assemble 0xA 0x05 h buildU)
  | .fencep h x => some (assemble 0xA 0x08 h (buildFencep x))
  | .fiss h x => some (assemble 0xA 0x09 h (buildA x))
  | .fwait h x => some (assemble 0xA 0x0A h (buildB x))
  | .txdeclR h x => some (assemble 0xA 0x10 h (buildB x))
  | .txdeclW h x => some (assemble 0xA 0x11 h (buildB x))
  | .txsub h x => some (assemble 0xA 0x12 h (buildA x))
  | .txwait h x => some (assemble 0xA 0x13 h (buildB x))
  | .txend h x => some (assemble 0xA 0x14 h (buildB x))
  | .bhand h x => some (assemble 0xB 0x00 h (buildSlotC x))
  | .bwait h x => some (assemble 0xB 0x01 h (buildSlot x))
  | .bstat h x => some (assemble 0xB 0x02 h (buildASlot x))
  | .bswz h x => some (assemble 0xB 0x03 h (buildSCode x))
  | .battach h x => some (assemble 0xB 0x04 h (buildSlotC x))
  | .brevoke h x => some (assemble 0xB 0x05 h (buildB x))
  | .cpgo h x => some (assemble 0xC 0x00 h (buildQGo x))
  | .cpwait h x => some (assemble 0xC 0x01 h (buildId x))
  | .swgo h x => some (assemble 0xC 0x02 h (buildQGo x))
  | .gath h x => some (assemble 0xC 0x03 h (buildQGo x))
  | .coll h x => some (assemble 0xC 0x04 h (buildQGo x))
  | .qpush h x => some (assemble 0xC 0x05 h (buildQPush x))
  | .qpop h x => some (assemble 0xC 0x06 h (buildQPop x))
  | .uiret h => some (assemble 0xC 0x07 h buildU)
  | .hstart h x => some (assemble 0xD 0x00 h (buildHStart x))
  | .hend h => some (assemble 0xD 0x01 h buildU)
  | .hwait h x => some (assemble 0xD 0x02 h (buildB x))
  | .launch h x => some (assemble 0xD 0x03 h (buildRR x))
  | .lwait h x => some (assemble 0xD 0x04 h (buildB x))
  | .cancelLaunch h x => some (assemble 0xD 0x05 h (buildB x))
  | .cancelGraph h x => some (assemble 0xD 0x06 h (buildB x))
  | .cancelSession h x => some (assemble 0xD 0x07 h (buildB x))
  | .cancelJob h x => some (assemble 0xD 0x08 h (buildB x))
  | .bar h => some (assemble 0xD 0x09 h buildU)
  | .xsend h x => some (assemble 0xD 0x0A h (buildXsend x))
  | .xrecv h x => some (assemble 0xD 0x0B h (buildXrecv x))
  | .rpush h x => some (assemble 0xD 0x0C h (buildRPush x))
  | .rpop h x => some (assemble 0xD 0x0D h (buildRPop x))
  | .reos h => some (assemble 0xD 0x0E h buildU)
  | .prog h x => some (assemble 0xD 0x0F h (buildProg x))
  | .yield h => some (assemble 0xD 0x10 h buildU)
  | .sysr h x => some (assemble 0xE 0x00 h (buildSys x))
  | .sysw h x => some (assemble 0xE 0x01 h (buildSys x))
  | .ovtld h x => some (assemble 0xE 0x02 h (buildB x))
  | .ctxsave h x => some (assemble 0xE 0x03 h (buildBC x))
  | .ctxload h x => some (assemble 0xE 0x04 h (buildBC x))
  | .tlbinv h x => some (assemble 0xE 0x05 h (buildBC x))
  | .tlbsync h => some (assemble 0xE 0x06 h buildU)
  | .hcall h x => some (assemble 0xE 0x07 h (buildCode x))
  | .trapret h => some (assemble 0xE 0x08 h buildU)
  | .evpost h x => some (assemble 0xE 0x09 h (buildRR x))
  | .wipe h x => some (assemble 0xE 0x0A h (buildBC x))
  | .pmap h x => some (assemble 0xE 0x0B h (buildBC x))
  | .matrixCommandExecute _ => none
  | .epilogueRowFault _ _ => none
  | .panelRefetch _ => none
  | .drainMarkerReply _ _ _ => none
  | .submissionAccepted _ _ => none
  | .batchClose _ => none
  | .batchApply _ => none
  | .sequencerApplyResume _ => none
  | .sliceGrant _ => none
  | .sliceRelease _ => none
  | .txHold _ _ => none
  | .handoverPoint _ => none
  | .bankReturn _ => none
  | .bankWipeDone _ => none
  | .channelArbitration _ => none
  | .strandRun _ => none
  | .userInterrupt _ _ => none
  | .gatherFinish _ => none
  | .collectiveFinish _ _ _ => none
  | .barrierComplete _ _ => none
  | .exchangeDelivery _ => none
  | .governorEvaluation _ => none
  | .accessArrival _ => none
  | .storeAcknowledged _ => none
  | .remoteRefused _ => none
  | .pageWalkFill _ => none
  | .trapEntry _ _ => none
  | .fatalTrap _ _ => none
  | .recordRead _ => none
  | .launchArbitration _ => none
  | .dependenceReread _ => none
  | .launchStart _ => none
  | .preloadRun _ _ => none
  | .launchComplete _ _ => none
  | .cancellation _ => none
  | .hostTimeout _ => none
  | .evictionDecision _ => none
  | .lastSafeMoment _ => none
  | .deadlineChainStart _ _ => none
  | .laneGrant _ => none
  | .swapOutStrand _ => none
  | .swapInStrand _ => none
  | .dieResetComplete _ => none
  | .branchResolution _ _ => none
  | .loadValueReturn _ => none
  | .pointChangeDone _ => none
  | .ringcfgWrite _ _ _ => none
  | .wqchainWrite _ _ => none
  | .vdiemapWrite _ => none
  | .trapqWrite _ _ => none
  | .fatalClear _ _ => none
  | .registerWrite _ => none
  | .stopImageRestore _ => none
  | .deviceReset _ => none
  | .measurementExtend _ _ => none
  | .lifeCycleAdvance _ => none
  | .dieReset _ => none
  | .partitionTeardown _ _ => none
  | .vfctlWrite _ _ => none
  | .partitionCreation _ _ => none
  | .firmwareUpdate _ _ => none
  | .doorbell _ _ _ => none
  | .queueStatusClear _ _ _ => none
  | .inboundPostedWrite _ => none
  | .inboundRead _ _ => none
  | .hostCompletion _ _ => none
  | .flitReceive _ _ => none
  | .linkDown _ => none
  | .linkRetrain _ => none
  | .spliceMarkerReceive _ _ => none
  | .resumeRequest _ _ => none
  | .bar2Evpost _ => none
  | .operandQueueParityError _ => none
  | .stallExpiry _ _ => none
  | .preemptRequest _ _ => none
  | .thermalStep _ _ => none
  | .migrationStop _ => none
  | .jobCut _ => none
  | .illegalWord => none
  | .dbword => none
  | .getMeasurements => none
  | .allowanceRefill => none

end Sys2Proof
end

