-- ==== Sys2Proof/Machine/Num.lean ====
section
/-!
DEFINITION. Number formats and rounding (R38 to R55, R61): codes as exact values, one rounding per result, the
overflow table, NaN choice, integer and float operations on element codes, blk32 blocks.
-/

namespace Sys2Proof

/-- Element width in bits (R24). -/
def ETy.w (t : ETy) : Nat := 8 * t.size

/-- Mantissa bits (R39). -/
def ETy.man : ETy → Nat
  | .e2m1 => 1 | .e4m3 => 3 | .e5m2 => 2 | .bf16 => 7 | .f16 => 10 | .f32 => 23 | .f64 => 52
  | _ => 0

/-- Exponent bits (R39). -/
def ETy.exb : ETy → Nat
  | .e2m1 => 2 | .e4m3 => 4 | .e5m2 => 5 | .bf16 => 8 | .f16 => 5 | .f32 => 8 | .f64 => 11
  | _ => 0

/-- Exponent bias (R39). -/
def ETy.bias (t : ETy) : Nat := 2 ^ (t.exb - 1) - 1

end Sys2Proof

namespace Sys2Proof.Machine

/-- What a float code stands for: a NaN, an infinity or ±m·2^e (R39). -/
inductive Val where
  | nan
  | inf (neg : Bool)
  | num (neg : Bool) (m : Nat) (e : Int)
  deriving DecidableEq, Repr

/-- The sign bit of a code. -/
def signOf (t : ETy) (c : Nat) : Bool := bit c (t.exb + t.man)

/-- The value of a code (R39). -/
def decodeF (t : ETy) (c : Nat) : Val :=
  let neg := signOf t c
  let e := bits c (t.exb + t.man - 1) t.man
  let m := bits c (t.man - 1) 0
  let top : Nat := 2 ^ t.exb - 1
  if t = .e4m3 && e == top && m == 7 then .nan
  else if t != .e4m3 && t != .e2m1 && e == top then (if m = 0 then .inf neg else .nan)
  else if e = 0 then .num neg m (1 - (t.bias : Int) - t.man)
  else .num neg (2 ^ t.man + m) ((e : Int) - t.bias - t.man)

/-- Whether a code is a NaN. -/
def isNaN (t : ETy) (c : Nat) : Bool := t.isFloat && decodeF t c == .nan

/-- A code from its fields. -/
def packF (t : ETy) (neg : Bool) (e m : Nat) : Nat := (b2n neg * 2 ^ t.exb + e) * 2 ^ t.man + m

/-- The largest finite code (R39). -/
def largestF (t : ETy) (neg : Bool) : Nat :=
  match t with
  | .e4m3 => packF t neg 15 6
  | .e2m1 => packF t neg 3 1
  | _ => packF t neg (2 ^ t.exb - 2) (2 ^ t.man - 1)

/-- The code of an infinity. -/
def infF (t : ETy) (neg : Bool) : Nat := packF t neg (2 ^ t.exb - 1) 0

/-- The default NaN with a sign (R45, R49). -/
def nanF (t : ETy) (neg : Bool) : Nat :=
  match t with
  | .e4m3 => packF t neg 15 7
  | _ => packF t neg (2 ^ t.exb - 1) (2 ^ (t.man - 1))

/-- A NaN with the quiet bit set (R40). -/
def quietF (t : ETy) (c : Nat) : Nat :=
  if bit c (t.man - 1) then c % 2 ^ ETy.w t else c % 2 ^ ETy.w t + 2 ^ (t.man - 1)

/-- The several-NaN rule (R49): operands in operand order. -/
def chooseNaN (t : ETy) (ops : List Nat) : Option Nat :=
  match ops.filter (isNaN t) with
  | [] => none
  | c :: cs =>
    some (quietF t (if t = .f32 then cs.foldl (fun b x => if x % 2 ^ 22 < b % 2 ^ 22 then x else b) c else c))

/-- floor(log2(n/d)). -/
def flog (n d : Nat) : Int :=
  let l : Int := (n.log2 : Int) - d.log2
  if d * 2 ^ l.toNat ≤ n * 2 ^ (-l).toNat then l else l - 1

/-- n/d·2^k rounded to a whole number in a mode (R43). -/
def roundWhole (md : RMode) (neg : Bool) (n d : Nat) (k : Int) : Nat :=
  let num := n * 2 ^ k.toNat
  let den := d * 2 ^ (-k).toNat
  let q := num / den
  let r := num % den
  let up := match md with
    | .rn => decide (den < 2 * r) || (2 * r == den && q % 2 == 1)
    | .rz => false
    | .rd => neg && r != 0
    | .ru => !neg && r != 0
  q + b2n up

/-- RoundTo for a positive n/d·2^e, unbounded above (R43): (m, q) with value m·2^q. -/
def roundMag (t : ETy) (md : RMode) (neg : Bool) (n d : Nat) (e : Int) : Nat × Int :=
  let x := max (flog n d + e) (1 - (t.bias : Int))
  let q := x - t.man
  (roundWhole md neg n d (e - q), q)

/-- Whether m·2^q exceeds the largest finite value of a format (R44). -/
def overF (t : ETy) (m : Nat) (q : Int) : Bool :=
  match decodeF t (largestF t false) with
  | .num _ lm le => decide (lm * 2 ^ (le - min q le).toNat < m * 2 ^ (q - min q le).toNat)
  | _ => false

/-- The code of ±m·2^q, where m has at most one bit more than the mantissa. -/
def codeF (t : ETy) (neg : Bool) (m : Nat) (q : Int) : Nat :=
  if m = 2 ^ (t.man + 1) then packF t neg (q + 1 + t.man + t.bias).toNat 0
  else if m < 2 ^ t.man then packF t neg 0 m
  else packF t neg (q + t.man + t.bias).toNat (m - 2 ^ t.man)

/-- The row of the overflow table for a format (R47); f64 has none and keeps infinities (R68). -/
def ovRow (t : ETy) (ovt : Nat) : Nat :=
  match t with
  | .e2m1 => bits ovt 1 0 | .e4m3 => bits ovt 3 2 | .e5m2 => bits ovt 5 4
  | .bf16 => bits ovt 7 6 | .f16 => bits ovt 9 8 | .f32 => bits ovt 11 10
  | _ => 1

/-- How results round: mode, saturation, the overflow table, and whether the result is a conversion's (R44). -/
structure Rnd where
  mode : RMode
  sat  : Bool
  ovt  : Nat
  conv : Bool
  deriving DecidableEq, Repr

/-- Whether a result is table-governed (R44). -/
def Rnd.table (r : Rnd) (t : ETy) : Bool := r.conv || t == .e4m3 || t == .e5m2 || t == .e2m1

/-- The table's result (R45). -/
def tableRes (t : ETy) (ovt : Nat) (neg : Bool) : Nat :=
  match ovRow t ovt with
  | 0 => largestF t neg
  | 1 => infF t neg
  | _ => nanF t neg

/-- Finite overflow (R45). -/
def overRes (t : ETy) (r : Rnd) (neg : Bool) : Nat :=
  if r.sat then largestF t neg
  else if r.table t then tableRes t r.ovt neg
  else match r.mode with
    | .rn => infF t neg
    | .rz => largestF t neg
    | .rd => if neg then infF t neg else largestF t neg
    | .ru => if neg then largestF t neg else infF t neg

/-- Infinite result (R45). -/
def infRes (t : ETy) (r : Rnd) (neg : Bool) : Nat :=
  if r.sat then largestF t neg else if r.table t then tableRes t r.ovt neg else infF t neg

/-- The code of a rounded ±n/d·2^e (R43 to R45). -/
def roundF (t : ETy) (r : Rnd) (neg : Bool) (n d : Nat) (e : Int) : Nat :=
  if n = 0 then packF t neg 0 0
  else
    let mq := roundMag t r.mode neg n d e
    if overF t mq.1 mq.2 then overRes t r neg else codeF t neg mq.1 mq.2

/-- An exact sum in progress: n·2^e, infinities seen, and whether every term was −0 or every one +0 (R43). -/
structure Acc where
  n : Int
  e : Int
  pinf : Bool
  ninf : Bool
  allNeg : Bool
  allPos : Bool
  deriving DecidableEq, Repr

/-- The empty sum. -/
def Acc.zero : Acc := { n := 0, e := 0, pinf := false, ninf := false, allNeg := true, allPos := true }

/-- A signed value n·2^e added exactly. -/
def addScaled (n : Int) (e : Int) (m : Int) (f : Int) : Int × Int :=
  if m = 0 then (n, e)
  else if n = 0 then (m, f)
  else
    let g := min e f
    (n * 2 ^ (e - g).toNat + m * 2 ^ (f - g).toNat, g)

/-- One more term. -/
def Acc.add (a : Acc) : Val → Acc
  | .nan => a
  | .inf neg => { a with pinf := a.pinf || !neg, ninf := a.ninf || neg, allNeg := false, allPos := false }
  | .num neg m e =>
    let r := addScaled a.n a.e (if neg then -(m : Int) else m) e
    { a with n := r.1, e := r.2, allNeg := a.allNeg && m == 0 && neg, allPos := a.allPos && m == 0 && !neg }

/-- The rounded code of an exact sum without NaN terms (R43, R45). -/
def Acc.round (t : ETy) (r : Rnd) (a : Acc) : Nat :=
  if a.pinf && a.ninf then nanF t false
  else if a.pinf then infRes t r false
  else if a.ninf then infRes t r true
  else if a.n = 0 then packF t (if a.allNeg then true else if a.allPos then false else r.mode == .rd) 0 0
  else roundF t r (decide (a.n < 0)) a.n.natAbs 1 a.e

/-- The product of two values; none where it is 0 × ∞. -/
def mulV : Val → Val → Option Val
  | .num a m e, .num b n f => some (.num (a != b) (m * n) (e + f))
  | .inf a, .inf b => some (.inf (a != b))
  | .inf a, .num b n _ => if n = 0 then none else some (.inf (a != b))
  | .num a m _, .inf b => if m = 0 then none else some (.inf (a != b))
  | _, _ => none

/-- The negation of a value. -/
def negV : Val → Val
  | .nan => .nan
  | .inf s => .inf (!s)
  | .num s m e => .num (!s) m e

/-- A code with its sign flipped (R65). -/
def negF (t : ETy) (c : Nat) : Nat :=
  if signOf t c then c - 2 ^ (t.exb + t.man) else c + 2 ^ (t.exb + t.man)

/-- Sum of float codes (R76). -/
def addF (t : ETy) (r : Rnd) (a b : Nat) : Nat :=
  (chooseNaN t [a, b]).getD (((Acc.zero.add (decodeF t a)).add (decodeF t b)).round t r)

/-- Difference of float codes. -/
def subF (t : ETy) (r : Rnd) (a b : Nat) : Nat :=
  (chooseNaN t [a, b]).getD (((Acc.zero.add (decodeF t a)).add (negV (decodeF t b))).round t r)

/-- A value as a rounded result. -/
def valF (t : ETy) (r : Rnd) : Val → Nat
  | .nan => nanF t false
  | .inf neg => infRes t r neg
  | .num neg m e => roundF t r neg m 1 e

/-- Product of float codes. -/
def mulF (t : ETy) (r : Rnd) (a b : Nat) : Nat :=
  (chooseNaN t [a, b]).getD
    (match mulV (decodeF t a) (decodeF t b) with
     | some v => valF t r v
     | none => nanF t false)

/-- Fused multiply-add: b × c + a, one rounding (R65). -/
def fmaF (t : ETy) (r : Rnd) (b c a : Nat) : Nat :=
  (chooseNaN t [b, c, a]).getD
    (match mulV (decodeF t b) (decodeF t c) with
     | some v => ((Acc.zero.add v).add (decodeF t a)).round t r
     | none => nanF t false)

/-- Quotient (R65). -/
def divF (t : ETy) (r : Rnd) (a b : Nat) : Nat :=
  (chooseNaN t [a, b]).getD
    (match decodeF t a, decodeF t b with
     | .inf s, .num u _ _ => infRes t r (s != u)
     | .num s _ _, .inf u => packF t (s != u) 0 0
     | .num s m e, .num u n f =>
       if n = 0 then (if m = 0 then nanF t false else infRes t r (s != u))
       else roundF t r (s != u) m n (e - f)
     | _, _ => nanF t false)

/-- The integer square root, found bit by bit from 2^k down. -/
def isqrtFrom (n : Nat) : Nat → Nat → Nat
  | 0, x => x
  | k + 1, x => isqrtFrom n k (if (x + 2 ^ k) * (x + 2 ^ k) ≤ n then x + 2 ^ k else x)

/-- floor(sqrt n). -/
def isqrt (n : Nat) : Nat := isqrtFrom n (n.log2 / 2 + 1) 0

/-- Square root (R65): the root with a sticky bit below it rounds as the exact root does. -/
def sqrtF (t : ETy) (r : Rnd) (a : Nat) : Nat :=
  (chooseNaN t [a]).getD
    (match decodeF t a with
     | .inf false => infRes t r false
     | .num s m e =>
       if m = 0 then packF t s 0 0
       else if s then nanF t false
       else
         let k := 2 * (t.man + 4) + ((e % 2).toNat)
         let n := m * 2 ^ k
         let x := isqrt n
         roundF t r false (2 * x + b2n (x * x != n)) 1 ((e - k) / 2 - 1)
     | _ => nanF t false)

/-- Order of two values without NaN: the exact difference's sign, −0 equal to +0. -/
def cmpV (a b : Val) : Int :=
  match a, b with
  | .inf s, .inf u => if s = u then 0 else if s then -1 else 1
  | .inf s, _ => if s then -1 else 1
  | _, .inf u => if u then 1 else -1
  | .num s m e, .num u n f =>
    (addScaled (if s then -(m : Int) else m) e (if u then (n : Int) else -(n : Int)) f).1
  | _, _ => 0

/-- −0 below +0 (R66). -/
def ltF (t : ETy) (a b : Nat) : Bool :=
  let c := cmpV (decodeF t a) (decodeF t b)
  decide (c < 0) || (c == 0 && signOf t a && !signOf t b)

/-- Minimum of float codes (R66); an infinite source of e5m2 comes out as it is (assumption 90). -/
def minF (t : ETy) (a b : Nat) : Nat := (chooseNaN t [a, b]).getD (if ltF t b a then b else a)

/-- Maximum of float codes (R66; assumption 90). -/
def maxF (t : ETy) (a b : Nat) : Nat := (chooseNaN t [a, b]).getD (if ltF t a b then b else a)

/-! ### Integers -/

/-- The integer a code stands for in an integer type (R38, R56). -/
def intOf (t : ETy) (c : Nat) : Int := if t.isSigned then sgn (ETy.w t) c else (c % 2 ^ ETy.w t : Nat)

/-- The range of an integer type (R38). -/
def intMin (t : ETy) : Int := if t.isSigned then -(2 ^ (ETy.w t - 1) : Nat) else 0

/-- The top of the range of an integer type (R38). -/
def intMax (t : ETy) : Int := if t.isSigned then (2 ^ (ETy.w t - 1) : Nat) - 1 else (2 ^ ETy.w t : Nat) - 1

/-- Wrap or saturate (R38). -/
def fitI (t : ETy) (sat : Bool) (x : Int) : Nat :=
  wrapN (ETy.w t) (if sat then max (intMin t) (min (intMax t) x) else x)

/-- Quotient of R60. -/
def divI (t : ETy) (sat : Bool) (b c : Nat) : Nat :=
  let x := intOf t b
  let y := intOf t c
  if y = 0 then wrapN (ETy.w t) (-1) else fitI t sat (Int.tdiv x y)

/-- Remainder of R60. -/
def remI (t : ETy) (b c : Nat) : Nat :=
  let x := intOf t b
  let y := intOf t c
  if y = 0 then b % 2 ^ ETy.w t else fitI t false (x - y * Int.tdiv x y)

/-- Shift left (R61). -/
def shlI (t : ETy) (b c : Nat) : Nat :=
  let n := c % 2 ^ ETy.w t
  if ETy.w t ≤ n then 0 else b * 2 ^ n % 2 ^ ETy.w t

/-- Logical shift right (R61). -/
def shrI (t : ETy) (b c : Nat) : Nat :=
  let n := c % 2 ^ ETy.w t
  if ETy.w t ≤ n then 0 else b % 2 ^ ETy.w t / 2 ^ n

/-- Arithmetic shift right (R61). -/
def sarI (t : ETy) (b c : Nat) : Nat :=
  let n := min (c % 2 ^ ETy.w t) (ETy.w t)
  wrapN (ETy.w t) (sgn (ETy.w t) b / (2 ^ n : Nat))

/-- High half of the product (R59). -/
def mulhI (t : ETy) (b c : Nat) : Nat := wrapN (ETy.w t) (intOf t b * intOf t c / (2 ^ ETy.w t : Nat))

/-! ### Operations on codes of either kind -/

/-- Sum (R59, R76). -/
def addE (t : ETy) (r : Rnd) (a b : Nat) : Nat :=
  if t.isInt then fitI t r.sat (intOf t a + intOf t b) else addF t r a b

/-- Difference. -/
def subE (t : ETy) (r : Rnd) (a b : Nat) : Nat :=
  if t.isInt then fitI t r.sat (intOf t a - intOf t b) else subF t r a b

/-- Product. -/
def mulE (t : ETy) (r : Rnd) (a b : Nat) : Nat :=
  if t.isInt then fitI t r.sat (intOf t a * intOf t b) else mulF t r a b

/-- b × c + a (R76). -/
def fmaE (t : ETy) (r : Rnd) (b c a : Nat) : Nat :=
  if t.isInt then fitI t r.sat (intOf t b * intOf t c + intOf t a) else fmaF t r b c a

/-- Minimum (R63, R66). -/
def minE (t : ETy) (a b : Nat) : Nat := if t.isInt then (if intOf t b < intOf t a then b else a) else minF t a b

/-- Maximum (R63, R66). -/
def maxE (t : ETy) (a b : Nat) : Nat := if t.isInt then (if intOf t a < intOf t b then b else a) else maxF t a b

/-! ### Conversions (R46, R68) -/

/-- A NaN carried to another format (R49). -/
def convNaN (s d : ETy) (c : Nat) : Nat :=
  let pay := bits c (s.man - 2) 0
  if d = .e4m3 then nanF d (signOf s c)
  else nanF d (signOf s c) + (if s.man < d.man then pay * 2 ^ (d.man - s.man) else pay / 2 ^ (s.man - d.man))

/-- A value rounded to an integer and clamped (R46). -/
def toIntF (d : ETy) (md : RMode) : Val → Nat
  | .nan => 0
  | .inf neg => wrapN (ETy.w d) (if neg then intMin d else intMax d)
  | .num neg m e =>
    let x : Int := roundWhole md neg m 1 e
    fitI d true (if neg then -x else x)

/-- Conversion of a code between types other than e2m1 (R68). -/
def convE (d s : ETy) (r : Rnd) (c : Nat) : Nat :=
  let r := { r with conv := true }
  if s.isInt then
    let x := intOf s c
    if d.isInt then fitI d r.sat x else roundF d r (decide (x < 0)) x.natAbs 1 0
  else if d.isInt then toIntF d r.mode (decodeF s c)
  else if isNaN s c then convNaN s d c
  else valF d r (decodeF s c)

/-! ### blk32 (R41, R42, R50) -/

/-- Unscaled value of an element code (R42); none where the special is a NaN. -/
def e2m1Val (special code : Nat) : Option Val :=
  if code % 16 = 8 then (match decodeF .e4m3 special with | .nan => none | v => some v)
  else some (decodeF .e2m1 (code % 16))

/-- Scaled value of an element of a block with a header (R41, R42). -/
def blkVal (hdr code : Nat) : Option Val :=
  if hdr / 256 % 256 = 255 then none
  else match e2m1Val (hdr % 256) code with
    | some (.num s m e) => some (.num s m (e + (hdr / 256 % 256 : Nat) - 127))
    | v => v

/-- |x| ≤ y for finite magnitudes. -/
def leMag (m : Nat) (e : Int) (n : Nat) (f : Int) : Bool :=
  let g := min e f
  decide (m * 2 ^ (e - g).toNat ≤ n * 2 ^ (f - g).toNat)

/-- The smallest E with m·2^e ≤ 6·2^E. -/
def blkExp (m : Nat) (e : Int) : Int :=
  let k : Int := flog m 6 + e
  if leMag m e 6 k then k else k + 1

/-- One blk32 block from 32 values (R50): the codes as a number of 16 bytes and the header. -/
def toBlk (xs : List Val) (md : RMode) (sat : Bool) (row : Nat) : Nat × Nat :=
  let amax : Nat × Int := xs.foldl
    (fun a v => match v with | .num _ m e => (if leMag m e a.1 a.2 then a else (m, e)) | _ => a) (0, 0)
  let e0 : Int := if amax.1 = 0 then 0 else blkExp amax.1 amax.2
  let ex : Int := max (-127) (min 127 e0)
  let y (v : Val) : Val := match v with | .num s m e => .num s m (e - ex) | w => w
  let g (v : Val) : Nat × Int := match y v with
    | .num s m e => if m = 0 then (0, 0) else roundMag .e2m1 md s m 1 e
    | _ => (0, 0)
  let ovf (v : Val) : Bool := match v with
    | .inf _ => true
    | .num _ _ _ => overF .e2m1 (g v).1 (g v).2
    | .nan => false
  let nanblk := xs.any (fun v => v == .nan || (ovf v && !sat && row == 2))
  let m? : Option Nat :=
    if !nanblk && amax.1 != 0 && leMag amax.1 amax.2 6 ex then
      xs.findIdx? (fun v => match v with
        | .num _ m e => leMag m e amax.1 amax.2 && leMag amax.1 amax.2 m e
        | _ => false)
    else none
  let neg (v : Val) : Bool := match v with | .inf s => s | .num s _ _ => s | .nan => false
  let code (i : Nat) (v : Val) : Nat :=
    if m? = some i then 8
    else if v == .nan then 8
    else if ovf v then (if sat || row == 0 then largestF .e2m1 (neg v) else 8)
    else
      let c := codeF .e2m1 (neg v) (g v).1 (g v).2
      if (g v).1 = 0 then 0 else c
  let special : Nat :=
    if nanblk then 0x7F
    else match m? with
      | some i => (match (xs[i]?).map y with
        | some (.num s m e) => roundF .e4m3 { mode := md, sat := true, ovt := 0, conv := true } s m 1 e
        | _ => 0)
      | none => 0
  let codes := (xs.zipIdx.map (fun p => code p.2 p.1)).foldr (fun c a => c + 16 * a) 0
  (codes, (ex + 127).toNat * 256 + special)

end Sys2Proof.Machine
end

