-- ==== Sys2Proof/Config.lean ====
section
/-!
DEFINITION. What the spec leaves open and each implementation or run decides: every constant here is opaque, so
nothing can be proved of its value (assumption 12).
-/

namespace Sys2Proof.Config

/-- Which of several enabled actions comes next (R361; assumption 3). -/
opaque pick : Nat → Nat

/-- Ticks of TIME that pass with a step (R2; assumption 4). -/
opaque elapsed : Nat → Nat

/-- Whether a branch is predicted and, where it is, whether rightly (R71; assumption 5). -/
opaque predict : Nat → Option Bool

/-- Whether a fetch gets the old bytes of a word that was rewritten since its context last met `fence.core` and a taken
branch (R19; assumption 79). -/
opaque oldCode : Nat → Bool

/-- From which input on the upper of the two neighbours of an inexact special-function result is given (R54; assumption
7), as a place in the order of the inputs: the arguments are the function, the type, the mode and the bits of the neighbour
nearer to zero. -/
opaque sfnTurn : Nat → Nat → Nat → Nat → Int

/-- The key that a slot takes at its n-th turnover (R278; assumption 8). -/
opaque key : Nat → Nat → Nat

/-- Whether the host's completer supports an AtomicOp of this size (R151; assumption 9). -/
opaque hostAtomic : Nat → Nat → Bool

/-- Life-cycle state in the fuses (R281, reset value "Fused"; assumption 10). -/
opaque fusedLife : BitVec 2

/-- What of a launch a stop image does not hold, and a device that never ran it must take from nowhere: its record and
its phase (R337, R338; assumption 11). -/
opaque imageLost : Nat → Nat

/-- The address of the `mld` whose panel a resumed core refetches: R109 has the trap of a failed refetch name it, and the
save area of R321 does not hold it (assumption 21). -/
opaque mldAddress : Nat → Nat

/-- The team size that a helper started outside a launch finds in s3 (R14, R16): no rule gives one (assumption 39). -/
opaque helperTeam : Nat → BitVec 64

/-- The address recorded for an access whose pointer leaves 0 to 2^48 − 1 before it is formed (R26, R305;
assumption 81). -/
opaque strayPointer : Nat → BitVec 64

/-- Whether the host refuses the write of a completion word (R220; assumption 97), by the step. -/
opaque hostRefuses : Nat → Bool

/-- A byte of a BAR at which the spec places nothing that it describes, by the read and the offset (R275; assumption 98). -/
opaque barByte : Nat → Nat → BitVec 8

/-- A byte that a panel, a strand or a walk reads from another device's memory, by the read and the address; `ld`
gets its value with the peer's flit (R153; assumption 14). -/
opaque peerByte : Nat → Nat → Byte

/-- A byte that a strand reads from the host's memory, by the read and the address (R150; assumption 14). -/
opaque hostByte : Nat → Nat → Byte

end Sys2Proof.Config
end

