-- ==== Sys2Proof/Machine/State.lean ====
section
/-!
DEFINITION. The state of the package: cores and their contexts, clusters, partitions, queues and launches, engines,
the network, the hub and what the host sees. Plain data throughout; INVENTORY.md lists every field with its rule.
-/

namespace Sys2Proof.Machine

/-- Why the machine stops. -/
inductive Fault where
  /-- an access to a device address outside HBM and every CXL window, or to a stack that does not exist, raised by
  the memory operations; safe: the spec gives such an address no meaning (R266, R277) -/
  | noSuchMemory (addr : Nat)
  deriving DecidableEq, Repr

/-- Why an instruction is refused. -/
inductive Refusal where
  /-- an instruction without a meaning, raised by Dispatch only; safe -/
  | notModelled (mnemonic : String)
  deriving DecidableEq, Repr

/-- An item of a queue register: 8 or 64 bytes (R202). -/
structure QItem where
  wide : Bool
  val  : Vec
  deriving DecidableEq, Repr

/-- What a trap reports (R304, R305). -/
structure Trap where
  cause  : Nat
  detail : Nat
  resume : Nat
  fpc    : Nat
  va     : Nat
  ipa    : Nat
  jrn    : Option Nat
  async  : Bool
  /-- replayable whatever its cause: a fault of a refetch (R109) -/
  again  : Bool := false
  deriving DecidableEq, Repr

/-- A pending user interrupt (R198). -/
structure UIrq where
  xfer    : Nat
  handler : Nat
  deriving DecidableEq, Repr

/-- What a context waits for with its instruction issued or begun. -/
inductive Wait where
  | none
  /-- the instruction did not issue (R233); set in the outcome of exec only -/
  | held
  | access (id : Nat)
  | walk
  | matrix (id : Nat)
  /-- `txsub`: the register that takes the ticket (R204) -/
  | submit (reg : Nat)
  /-- `fence.pkg`: when its markers were sent, and the bridges that have not replied (R148) -/
  | marker (since : Nat) (dies : List Nat)
  | evict (idx : Nat)
  /-- `bar`: arrived, before the barrier completes (R252) -/
  | bar
  | branch
  /-- `launch` in the commit buffer or waiting for the hub (R245, R249) -/
  | commit
  /-- stopped until a rollback or a resume (R314) -/
  | stopped
  deriving DecidableEq, Repr

/-- An instruction that performs its accesses one after another and is under way (R83, R87, R129): itself, as its context's turn
puts it in, the number of accesses done, when it began (R163), and what its reads have given. -/
structure Midway where
  cmd   : Option Instr
  done  : Nat
  stamp : Nat
  got   : Nat
  deriving DecidableEq, Repr

/-- One of the sixteen contexts of a core (R10, R14, R287). A claim or grant is a slice as 2^48 × home agent + device
address; lostDies are the reset dies that home slices of the claim, plus 4 once DIE_ABSENT has reported one (R213). stopReq
asks it to stop at its next boundary for a save (R294). inUnit says that it belongs to its core's unit (R362). code is the
memory that its fetches may still see (R19), fenced that a `fence.core` has issued since. -/
structure Ctx where
  live     : Bool
  born     : Nat
  pc       : Nat
  level    : Nat
  grant    : Bool
  uiHold   : Bool
  s        : Vector Word 32
  v        : Vector Vec 16
  p        : Vector Word 8
  q        : Vector (List QItem) 4
  ovt      : BitVec 12
  tagCtr   : Nat
  fseq     : Nat
  tokens   : List (Nat × List Nat)
  claims   : List (Nat × Bool)
  ticket   : Option Nat
  grants   : List Nat
  lastGrant : Nat
  txOpen   : Bool
  lostDies : List Nat
  xlat     : Word
  sel      : Word
  uirqpc   : Word
  uirqxfer : Word
  trapcause : Word
  trappc   : Word
  trapdetail : Word
  trapjrn  : Word
  irqs     : List UIrq
  stall    : Nat
  yieldNow : Bool
  wait     : Wait
  traps    : List Trap
  unresolved : Option Bool
  invs     : List Nat
  trapSlot : Option Nat
  rbTrap   : Bool
  finish   : Option Nat
  stopReq  : Bool
  inUnit   : Bool
  code     : Memory
  fenced   : Bool
  mid      : Option Midway
  deriving DecidableEq, Repr

/-- A register file entry that an outstanding producer will write. -/
inductive Reg where
  | s (i : Nat)
  | v (i : Nat)
  | p (i : Nat)
  | d (i : Nat)
  deriving DecidableEq, Repr

/-- A load whose register is not yet written: the value once known, the cc from which it may be written, and
whether readers see the old value meanwhile (R58, R131). -/
structure Load where
  id      : Nat
  ctx     : Nat
  reg     : Reg
  ty      : ETy
  val     : Option Nat
  due     : Nat
  exposed : Bool
  /-- an uncorrectable error met in its stead, at this address: who reads the register takes it (R304) -/
  poison  : Option Nat := none
  deriving DecidableEq, Repr

/-- One lane of a distribution register: eight points of an f32 value and a weight (R112). -/
structure Dist where
  pts : List (Nat × Nat)
  tag : Nat
  deriving DecidableEq, Repr

/-- A panel in a buffer (R91 to R93): bytes of each line and headers of its blocks. -/
structure Panel where
  fmt   : ETy
  k     : Nat
  lines : List Nat
  hdrs  : List Nat
  ptr   : Nat
  shape : Nat
  deriving DecidableEq, Repr

/-- An architectural tile (R95); type 0 unset, 1 f32, 2 i32. -/
structure Tile where
  valid : Bool
  dirty : Bool
  phys  : Nat
  ty    : Nat
  deriving DecidableEq, Repr

/-- A physical tile (R95): its 1,024 elements, and the K-steps applied since the `mzero` that gave it (R53). -/
structure PTile where
  elems : List Nat
  kidx  : Nat
  deriving DecidableEq, Repr

/-- An epilogue store, running or faulted, of a physical tile (R101, R102). -/
structure Epi where
  ctx   : Nat
  born  : Nat
  dst   : Nat
  row   : Nat
  ty    : ETy
  tileTy : Nat
  mode  : RMode
  sat   : Bool
  ovt   : Nat
  pc    : Nat
  xlat  : Nat
  level : Nat
  faulted : Bool
  trapped : Option Trap
  /-- the accesses of its row that are on their way to another die or device (R102, R145) -/
  sent    : Option Nat := none
  deriving DecidableEq, Repr

/-- What a queued matrix command does. -/
inductive MOp where
  /-- a panel load into a buffer: panel and shape pointers, the shape record, translation and level -/
  | mld (isA : Bool) (buf ptr shape bytes xlat level : Nat)
  /-- a renaming, done at issue (R96): the name, and what it was before -/
  | mzero (a : Nat) (prev : Tile) (phys : Nat)
  /-- K-steps from a step on; a sparse command carries the metadata value of each line and group -/
  | mmac (phys : Nat) (fmt : ETy) (bufA bufB : Nat) (sparse : Option (List (List Nat))) (start : Nat)
  | mscale (dst src : Nat) (rows cols : List Nat)
  | mepi (phys : Nat) (e : Epi)
  /-- a status read: its register, and the name as the commands before it leave it (R90, R105) -/
  | mstat (reg : Nat) (tile : Tile)
  | mswz (pkg region code : Nat)
  | mrepl (phys : Nat) (discard : Bool)
  deriving DecidableEq, Repr

/-- A command of the matrix unit's queue (R90): the context that issued it and its address. -/
structure MCmd where
  id   : Nat
  ctx  : Nat
  born : Nat
  pc   : Nat
  word : Nat
  ops  : Nat
  op   : MOp
  /-- it has begun, and goes on in steps: rows of an epilogue (R101, R103) -/
  begun : Bool := false
  deriving DecidableEq, Repr

/-- A translation held by a TLB (R268); rights1 are the Read, Write and Execute bits of its stage-1 entry, in bits 0 to 2. -/
structure Tlb where
  asid  : Nat
  vdev  : Nat
  va    : Nat
  size  : Nat
  base  : Nat
  ipa   : Nat
  kind  : Nat
  die   : Nat
  peer  : Nat
  user  : Bool
  r     : Bool
  w     : Bool
  x     : Bool
  rights1 : Nat
  leaves : List Nat
  dirty : Bool
  deriving DecidableEq, Repr

/-- An engine command, launch or cancellation held in the commit buffer (R136, R245); firm once the branch that it was held under
has resolved (R238). -/
structure Held where
  ctx : Nat
  cmd : Instr
  sv  : Word
  pc  : Nat
  firm : Bool
  deriving DecidableEq, Repr

/-- A core's checkpoint frame (R312): contexts, distribution registers, tiles and q4. -/
structure Frame where
  ctxs  : Tab Ctx
  d     : List Dist
  tiles : List Tile
  held  : List Nat
  barDone : Bool
  deriving DecidableEq, Repr

/-- The last bank handed from a slot (R170). -/
structure Outb where
  status : Nat
  pkg    : Nat
  deriving DecidableEq, Repr

/-- A context switched out: its number, its birth, the trap-queue slot that it holds (R294, R306), the unit it belongs to,
its invalidations (R297) and the save area it stands in (0 where a program's `ctxsave` named it). What no area has a place for stays
with its core: its loads that met an uncorrectable error (R304), the numbers of the matrix commands saved with it, and the draining
banks that they still use (R163). -/
structure Away where
  ctx  : Nat
  born : Nat
  slot : Option Nat
  unit : Option (Nat × Nat)
  invs : List Nat
  base : Nat
  poison : List Load := []
  stamps : List Nat := []
  holds  : List Nat := []
  deriving DecidableEq, Repr

/-- One core (R10) with its matrix unit (R9). The ticket table of contexts switched out is kept by a context's birth:
its ticket (with what else of its transaction no save area holds above bit 63), the cc of its last grant, and its grants
(R212). -/
structure Core where
  ctxs    : Tab Ctx
  cc      : Nat
  last    : Nat
  unit    : Option (Nat × Nat)
  rank    : Nat
  team    : Nat
  ringIn  : Option Nat
  ringOut : Option Nat
  reos    : Bool
  released : Bool
  arrived : Bool
  barDone : Bool
  slots   : Tab Nat
  frozen  : List Nat
  outb    : Tab Outb
  journal : List Nat
  loads   : List Load
  mq      : List MCmd
  bufs    : Vector (Option Panel) 4
  curA    : Nat
  curB    : Nat
  parity  : Nat
  refetch : Bool
  /-- the last refetch failed, and none is tried before its handler returns (R109) -/
  refetchFailed : Bool
  tiles   : Vector Tile 8
  phys    : Tab PTile
  epis    : Tab Epi
  ckptTiles : List Nat
  d       : Vector Dist 8
  record  : List (Nat × Bool)
  l1      : List Tlb
  commit  : List Held
  frame   : Option Frame
  units   : List (Nat × Nat)
  t0cc    : Nat
  /-- a context has trapped fatally (R307); draining: its posted stores still drain, and its banks then freeze -/
  dead    : Bool
  draining : Bool
  /-- the launch whose next unit takes this core at its unit boundary (R241) -/
  heir    : Option (Nat × Nat)
  /-- the save base of a pre-emption under way (R318) -/
  preempt : Option Nat
  /-- contexts switched out (R247, R294) -/
  out     : List Away
  grantTable : Tab (List Nat)
  /-- a `ctxsave` of the core part waits: the matrix unit stops (R109, R294) -/
  unitStop : Bool
  deriving DecidableEq, Repr

/-- The state of a bank's hitch (R159). -/
inductive HState where
  | free | hitched | draining | transit | returning | frozen | wiping
  deriving DecidableEq, Repr

/-- An entry of the attach table (R159); order is the instant of its hand-over point or return (R165), owner and dest the launches
whose units hold it and wait for it at its holder and its target (R259, R319). -/
structure Hitch where
  st     : HState
  holder : Nat
  slot   : Nat
  target : Nat
  order  : Nat
  owner  : Option (Nat × Nat) := none
  dest   : Option (Nat × Nat) := none
  /-- a fatal trap struck the holder while the bank was draining: it freezes when the drain ends (R166) -/
  doomed : Bool
  deriving DecidableEq, Repr

/-- A ring (R239). -/
structure Ring where
  enable   : Bool
  wide     : Bool
  cap      : Nat
  high     : Nat
  low      : Nat
  minU     : Nat
  maxU     : Nat
  queue    : Nat
  items    : List Vec
  prods    : Nat
  ended    : Bool
  deriving DecidableEq, Repr

/-- An undo-log entry: line address, the old 64 bytes and the old tag (R313). -/
structure Undo where
  line : Nat
  old  : Nat
  tag  : Nat
  bad  : List Nat
  deriving DecidableEq, Repr

/-- One cluster (R261). -/
structure Cluster where
  part  : Option Nat
  perm  : Nat
  hitch : Tab Hitch
  rings : Tab Ring
  l2    : List Tlb
  undo  : List Undo
  deriving DecidableEq, Repr

/-- An allowance register (R271). -/
structure Allow where
  metered : Bool
  prio    : Nat
  refill  : Nat
  balance : Int
  deriving DecidableEq, Repr

/-- How a queue was chosen by the eviction chooser (R332). -/
inductive Choice where
  | discard | run | checkpoint
  deriving DecidableEq, Repr

/-- An accepted deadline being carried out (R334); a queue's stage is 0 waiting, 1 running its chain, 2 freed. -/
structure Deadline where
  deadline : Nat
  need     : Nat
  last     : Int
  worst    : Nat
  chans    : List Nat
  ports    : List Nat
  order    : Nat
  picks    : List (Nat × Choice × Nat)
  stopped  : Bool
  /-- chosen queues a launch of which has been cancelled or has trapped fatally: their chains run at once (R335) -/
  hurry    : List Nat := []
  deriving DecidableEq, Repr

/-- One partition (R261). -/
structure Part where
  vdev    : Nat
  asidBase : Nat
  asidCount : Nat
  chmask  : Nat
  allow   : Vector Allow 6
  trapvec : Nat
  tqOn    : Bool
  tqBase  : Nat
  tqHeld  : List Nat
  tqFatal : List Nat
  fatal   : Word
  evdl    : Nat
  evState : Nat
  freed   : Nat
  keyGen  : Nat
  keyNo   : Nat
  pageCtr : Nat
  residence : List (Nat × Bool)
  deadline : Option Deadline
  recSeq  : Nat
  halted  : Bool
  deriving DecidableEq, Repr

/-- A launch record accepted by a queue and not yet started (R276): its bytes, and what reading it found. -/
structure PRec where
  seq  : Nat
  n    : Nat
  bytes : Nat
  read : Bool
  dep  : Option Bool
  eligible : Option Nat
  arrival : List Nat
  chain : Nat
  deriving DecidableEq, Repr

/-- A work queue (R221, R222, R276, R330). -/
structure WQueue where
  enabled  : Bool
  discard  : Bool
  weight   : Nat
  prio     : Nat
  part     : Nat
  job      : Nat
  args     : Word
  xlat     : Word
  chainOn  : Bool
  chainHead : Nat
  pages    : List Nat
  /-- the CXL ports that hold the tier slots of these pages (R332) -/
  ports    : List Nat
  saveOn   : Bool
  saveBase : Nat
  staging  : Memory
  pending  : List PRec
  nextSeq  : Nat
  overflow : Bool
  progress : Option (Nat × List (Nat × Nat))
  durations : List Nat
  /-- by graph identifier: sequence numbers accepted and not complete, and that of the completed last record (R215) -/
  graphs   : Tab (List Nat × Option Nat)
  sessionCount : Nat
  deriving DecidableEq, Repr

/-- A unit of a launch that is switched out (R318): its rank, the core it was saved from and the save area, and what
its core held of it: its banks by slot, and the launch that is to take the core at its unit boundary (R241), among it. -/
structure Parked where
  rank     : Nat
  core     : Nat
  base     : Nat
  reos     : Bool
  released : Bool
  arrived  : Bool
  barDone  : Bool
  record   : List (Nat × Bool)
  banks    : Tab Nat
  heir     : Option (Nat × Nat)
  deriving DecidableEq, Repr

/-- A launch from its start to its completion (R215, R234); one that ends before it starts has no cores. -/
structure Launch where
  queue   : Nat
  seq     : Nat
  bytes   : Nat
  chain   : Nat
  cores   : List Nat
  team    : Nat
  ended   : List Nat
  begun   : Bool
  preload : Nat
  xlat    : Word
  /-- where its arguments were copied (R221) -/
  args    : Nat
  parked  : List Parked
  phase   : Nat
  t0      : Nat
  start   : Nat
  noRoll  : Bool
  replayed : Bool
  rbPending : Bool
  lastArr : Nat
  /-- the completion status that ends it, 0 while it runs (R220) -/
  status  : Nat
  deriving DecidableEq, Repr

/-- What an access does. -/
inductive AKind where
  | load
  | store
  | atomic (op : AtmOp) (ty : ETy) (mode : RMode) (c : Nat) (c2 : Nat)
  deriving DecidableEq, Repr

/-- Where an access goes (R128, R174): a core's slot, device memory as runs of bytes, a peer's memory, the host. -/
inductive Dest where
  | slot (core slot off : Nat)
  | dev (segs : List (Nat × Nat)) (homes : List Nat)
  | peer (dev addr link : Nat)
  | host (addr : Nat)
  deriving DecidableEq, Repr

/-- An access between its issue and its acknowledgement (R137, R144), or one aligned part of it (R129): parts of one access
share a group, each at its byte offset in it; got holds the bytes of parts that have answered. bridged is its place in its
die's bridge, or in the hub's link buffer (R145, R153). told says that REMOTE_REFUSED has named its group; stale that a younger store of its buffer that overlaps it has been acknowledged
(R145). ident is the identifier of the finished engine work that it is a write of, seenBy the contexts, by birth, that have
observed its completion (R155). -/
structure Access where
  id     : Nat
  core   : Nat
  ctx    : Nat
  born   : Nat
  path   : Path
  kind   : AKind
  dest   : Dest
  size   : Nat
  data   : Nat
  jrn    : Option Nat
  pc     : Nat
  va     : Nat
  crossDie : Bool
  performed : Bool
  value  : Nat
  refused : Option Nat
  release : Bool
  part   : Nat
  asid   : Nat
  since  : Nat
  group  : Nat
  at_    : Nat
  got    : Nat
  bridged : Option Nat
  told   : Bool
  stale  : Bool := false
  ident  : Option Nat := none
  seenBy : List Nat := []
  deriving DecidableEq, Repr

/-- An exchange message (R253): a bank line (slot and offset) or a queue message (none) for the control context of a unit;
va is its target pointer. stage is 0 in the network, 1 at its target's interface, 2 spilled into a save area (R270). -/
structure XMsg where
  id   : Nat
  src  : Nat
  ctx  : Nat
  jrn  : Nat
  target : Nat
  line : Option Nat
  unit : Option (Nat × Nat)
  val  : Vec
  pc   : Nat
  va   : Nat
  stage : Nat
  /-- the unit that sent it -/
  by_  : Option (Nat × Nat) := none
  /-- its place in the order in which messages reached its target's interface (R270) -/
  came : Nat := 0
  deriving DecidableEq, Repr

/-- A chain of strands handed to a channel (R195, R196). -/
structure Chain where
  id    : Nat
  chan  : Nat
  core  : Nat
  ctx   : Nat
  born  : Nat
  part  : Nat
  q     : Nat
  ident : Nat
  cur   : Nat
  prev  : Nat
  first : Bool
  begun : Bool
  lane  : Option Nat
  stamp : Nat
  cancelled : Bool
  xlat  : Nat
  level : Nat
  unit  : Option (Nat × Nat)
  /-- 0 by an instruction, 1 preload of a unit, 2 one strand of the chooser, 3 a chain of the chooser: its next strand -/
  mode  : Nat
  queue : Nat
  rank  : Nat
  again : Bool
  /-- copies of a multicast strand that have not been acknowledged (R158); strand is then its bytes, its parameter block and
  the number from which on they are its receivers' -/
  await : List Nat := []
  strand : Nat × Nat × Nat := (0, 0, 0)
  /-- the strand at cur has finished but for its completion, and Next is read after it (R195) -/
  done  : Bool := false
  deriving DecidableEq, Repr

/-- A message of a completion that its channel holds at Finish (R196), or, with atCore, that its target's interface holds (R270), or,
with spilled, that a save area holds: an item, or a user interrupt. ident is the identifier that leaving Finish marks finished
(R197, R363), came its place in the order in which messages reached that interface. -/
structure Post where
  id   : Nat
  core : Nat
  ctx  : Nat
  born : Nat
  q    : Nat
  item : Option Nat
  irq  : Option UIrq
  chan : Nat
  unit : Option (Nat × Nat)
  ident : Option Nat
  asid : Nat
  part : Nat
  atCore : Bool
  spilled : Bool := false
  came : Nat := 0
  deriving DecidableEq, Repr

/-- A gather or one unit's part in a collective (R200, R201). -/
structure Work where
  id    : Nat
  core  : Nat
  ctx   : Nat
  born  : Nat
  part  : Nat
  q     : Nat
  ident : Nat
  desc  : Nat
  bad   : Option Nat
  xlat  : Nat
  level : Nat
  unit  : Option (Nat × Nat)
  deriving DecidableEq, Repr

/-- A submission to a sequencer (R204, R205). -/
structure Subm where
  beat  : Nat
  die   : Nat
  core  : Nat
  ctx   : Nat
  born  : Nat
  ticket : Nat
  slices : List (Nat × Bool)
  deriving DecidableEq, Repr

/-- A slice queue entry at a home agent (R208), its address as 2^48 × home agent + device address. -/
structure Slice where
  addr  : Nat
  write : Bool
  core  : Nat
  ctx   : Nat
  born  : Nat
  ticket : Nat
  granted : Bool
  deriving DecidableEq, Repr

/-- A sequencer (R203 to R207): submissions not yet closed, beats closed, the entries left of the batch being
applied. -/
structure Sequencer where
  open_  : List Subm
  closed : Nat
  applied : Nat
  rest   : List Slice
  deriving DecidableEq, Repr

/-- A walk in progress or ended by a fault (R268, R269). -/
structure Walk where
  id   : Nat
  core : Nat
  ctx  : Nat
  born : Nat
  asid : Nat
  root : Nat
  va   : Nat
  part : Nat
  seq  : Nat
  fetch : Bool
  fault : Option (Nat × Nat × Nat)
  pref : Bool
  /-- one of the die's 64 walkers has taken it (R268) -/
  taken : Bool
  deriving DecidableEq, Repr

/-- A cancellation at the hub (R230, R251): its level and handle. -/
structure Cancel where
  level : Nat
  queue : Nat
  name  : Nat
  part  : Nat
  deriving DecidableEq, Repr

/-- A posted eviction request (R300). -/
structure EvReq where
  idx  : Nat
  bytes : Nat
  core : Option (Nat × Nat)
  addr : Nat
  reg  : Nat
  post : Nat
  deriving DecidableEq, Repr

/-- An invalidation and the die sequence number it made (R269, R296). -/
structure Inval where
  seq   : Nat
  scope : Nat
  core  : Nat
  kind  : Nat
  addr  : Nat
  vdev  : Nat
  asid  : Nat
  /-- accesses translated before it that have not been acknowledged -/
  waits : List Nat
  deriving DecidableEq, Repr

/-- A BAR2 error-log entry: what happened and the words that describe it (R220, R308, R309). -/
structure LogEntry where
  cause : Nat
  words : List Nat
  deriving DecidableEq, Repr

/-- What the host link carries out of the device: posted writes, requests, interrupts. -/
inductive Egress where
  | write (addr size data : Nat) (relaxed : Bool)
  | read (id addr size : Nat)
  | atomic (id addr : Nat) (op : AtmOp) (size c c2 : Nat)
  | interrupt (queue : Nat)
  | readData (addr : Nat) (bytes : List Byte)
  /-- what a read of a BAR returns: the virtual device, the BAR and the offset (R275) -/
  | barData (vdev bar off : Nat) (bytes : List Byte)
  /-- what a read of the host queue controls returns: the register, its selections and its value (R221, R222, R224) -/
  | control (num part cluster queue value : Nat)
  /-- what a read of the BAR2 error log returns: its entries, and the corrected errors by place (R275, R283) -/
  | errorLog (entries : List LogEntry) (corrected : List (Nat × Nat))
  /-- a write to a peer device's memory over a link (R153) -/
  | peerWrite (link addr size data : Nat)
  | peerRead (link id addr size : Nat)
  /-- what a peer's load or atomic returns, over its link (R153) -/
  | peerData (link addr : Nat) (bytes : List Byte)
  | peerAtomic (link id addr : Nat) (op : AtmOp) (size c c2 : Nat)
  /-- a splice marker (R339) -/
  | splice (link : Nat) (job : BitVec 32)
  /-- the 24 measurement registers (R280), and a word of migration bits (R336) -/
  | measurements (regs : List Nat)
  | dbword (value : Nat)
  deriving DecidableEq, Repr

/-- A Silkenor link (R279, R339). -/
structure Link where
  up    : Bool
  seq   : Nat
  replays : Nat
  /-- the job of the splice marker received last: what follows it is held (R339) -/
  cut   : Option Nat
  heldFlits : List Flit
  /-- the number of the next flit sent, and those sent that the peer has given no credit back for (R279) -/
  sendSeq : Nat
  replay  : List Nat
  deriving DecidableEq, Repr

/-- An island's sr.vfctl (R284), with the tick until which it changes point and the last thermal step. -/
structure Island where
  temp    : Nat
  cap     : Nat
  current : Nat
  request : Nat
  thermal : Nat
  thermAt : Nat
  busy    : Nat
  deriving DecidableEq, Repr

/-- The hub's boot and boundary state (R275 to R283, R336 to R339). -/
structure Hub where
  wwin     : Vector Nat 8
  vdiemap  : Nat
  failure  : Nat
  life     : Nat
  bootStep : Nat
  ready    : Bool
  measure  : Vector Nat 24
  gib      : Vector Nat 4
  islands  : Vector Island 44
  links    : Vector Link 8
  absent   : List Nat
  /-- dies whose bridge has failed (R205, R283) -/
  failed   : List Nat
  log      : List LogEntry
  corrected : Tab Nat
  /-- by die, the partition whose walk a walker took last (R268) -/
  walkTurn : Vector Nat 4
  egress   : List Egress
  dbidx    : Nat
  dbword   : Nat
  stopErr  : Bool
  restoreErr : Bool
  cutDone  : Bool
  cutJob   : Option Nat
  evResult : List (Nat × Nat)
  ckpt     : List Nat
  migr     : List Nat
  owner    : Tab Nat
  s2root   : Tab Word
  invSeq   : Nat
  govAt    : Vector Nat 4
  refillAt : Nat
  /-- a map write accepted, and the sequence number of its invalidation (R274) -/
  mapTo    : Option (Nat × Nat)
  /-- a stop under way or in force: its image address, and the job of a cut (R337, R339) -/
  stopping : Option (Nat × Option Nat)
  /-- the stop's image is written -/
  stopped : Bool
  /-- BAR2 0x0110 as last written, and the queues that were enabled when the stop came -/
  stopAddr : Nat
  stopOn : List Nat
  /-- banks that suspended contexts hold and, of each, the bank that was not Free where the new map places it (R274) -/
  displaced : List (Nat × Nat)
  deriving DecidableEq, Repr

/-- The whole package. -/
structure State where
  time     : Nat
  nonce    : Nat
  cur      : Nat
  curCtx   : Nat
  agenda   : List Instr
  mem      : Memory
  banks    : Memory
  tags     : Tab Nat
  badBank  : List Nat
  badMem   : List Nat
  cores    : Tab Core
  clusters : Tab Cluster
  parts    : Tab Part
  queues   : Tab WQueue
  launches : List Launch
  starting : Option (Nat × Nat)
  net      : List Access
  xnet     : List XMsg
  chains   : List Chain
  running  : Tab Nat
  posts    : List Post
  lanes    : List (Nat × Nat)
  gathers  : List Work
  colls    : List Work
  seqs     : Vector Sequencer 4
  slices   : List Slice
  submits  : List (Nat × Nat)
  releases : List Slice
  walks    : List Walk
  cancels  : List Cancel
  evicts   : List EvReq
  invals   : List Inval
  jobs     : Tab Nat
  /-- strands, gathers, collectives and matrix commands, by number, a flit of which has failed every retry (R283) -/
  torn     : List Nat
  hub      : Hub
  deriving DecidableEq, Repr

/-! ### The state after reset -/

/-- A context after reset or a wipe: every register zero (R282), overflow table 0x558 (R47). -/
def Ctx.reset : Ctx :=
  { live := false, born := 0, pc := 0, level := 0, grant := false, uiHold := false
    s := .replicate 32 0, v := .replicate 16 0, p := .replicate 8 0, q := .replicate 4 []
    ovt := 0x558#12, tagCtr := 0, fseq := 0, tokens := [], claims := [], ticket := none, grants := []
    lastGrant := 0, txOpen := false, lostDies := [], xlat := 0, sel := 0, uirqpc := 0, uirqxfer := 0
    trapcause := 0, trappc := 0, trapdetail := 0, trapjrn := 0, irqs := [], stall := 0
    yieldNow := false, wait := .none, traps := [], unresolved := none, invs := [], trapSlot := none
    rbTrap := false, finish := none, stopReq := false, inUnit := false
    code := [], fenced := false, mid := none }

/-- A distribution register after reset: every value +0, every weight 8,192, tag 0 (R114). -/
def Dist.reset : Dist := { pts := List.replicate 64 (0, 8192), tag := 0 }

/-- A tile name that maps nothing (R14, R95). -/
def Tile.reset : Tile := { valid := false, dirty := false, phys := 0, ty := 0 }

/-- A core after reset: no unit, 32 empty slots, empty buffers and queues (R91, R95, R282); last is 15 (R233). -/
def Core.reset : Core :=
  { ctxs := [], cc := 0, last := 15, unit := none, rank := 0, team := 0, ringIn := none, ringOut := none
    reos := false, released := false, arrived := false, barDone := false, slots := [], frozen := [], outb := []
    journal := [], loads := [], mq := [], bufs := .replicate 4 none, curA := 1, curB := 1, parity := 0
    refetch := false, refetchFailed := false, tiles := .replicate 8 Tile.reset, phys := [], epis := [], ckptTiles := []
    d := .replicate 8 Dist.reset, record := [], l1 := [], commit := [], frame := none, units := []
    t0cc := 0, dead := false, draining := false, heir := none, preempt := none, out := [], grantTable := [], unitStop := false }

/-- An attach-table entry after reset (R159). -/
def Hitch.reset : Hitch := { st := .free, holder := 0, slot := 0, target := 0, order := 0, doomed := false }

/-- A ring after reset (R239). -/
def Ring.reset : Ring :=
  { enable := false, wide := false, cap := 0, high := 0, low := 0, minU := 0, maxU := 0, queue := 0
    items := [], prods := 0, ended := false }

/-- A cluster after reset: in no partition, its permission table its own bit only (R261, R262). -/
def Cluster.reset (rank : Nat) : Cluster :=
  { part := none, perm := 2 ^ rank, hitch := [], rings := [], l2 := [], undo := [] }

/-- An allowance register after reset (R271). -/
def Allow.reset : Allow := { metered := false, prio := 0, refill := 0, balance := 0 }

/-- A partition's registers after reset (R265, R271, R272, R278, R293, R310, R311). -/
def Part.reset : Part :=
  { vdev := 0, asidBase := 0, asidCount := 0, chmask := 0, allow := .replicate 6 Allow.reset, trapvec := 0
    tqOn := false, tqBase := 0, tqHeld := [], tqFatal := [], fatal := 0, evdl := 0, evState := 0, freed := 0
    keyGen := 0, keyNo := 0, pageCtr := 0, residence := [], deadline := none, recSeq := 0, halted := false }

/-- A work queue after reset: weight 1, everything else zero (R221, R222, R330). -/
def WQueue.reset : WQueue :=
  { enabled := false, discard := false, weight := 1, prio := 0, part := 0, job := 0, args := 0, xlat := 0
    chainOn := false, chainHead := 0, pages := [], ports := [], saveOn := false, saveBase := 0, staging := [], pending := []
    nextSeq := 0, overflow := false, progress := none, durations := [], graphs := []
    sessionCount := 0 }

/-- A sequencer after reset (R213). -/
def Sequencer.reset : Sequencer := { open_ := [], closed := 0, applied := 0, rest := [] }

/-- An island after reset: point 0 in force, Requested and Cap 7 (R280, R284). -/
def Island.reset : Island :=
  { temp := 0, cap := 7, current := 0, request := 7, thermal := 7, thermAt := 0, busy := 0 }

/-- A link after reset: up, nothing sent (R279; assumption 13). -/
def Link.reset : Link := { up := true, seq := 0, replays := 0, cut := none, heldFlits := [], sendSeq := 0, replay := [] }

/-- The hub after reset (R224, R273, R280, R281). -/
def Hub.reset : Hub :=
  { wwin := #v[1000000, 500000, 100000, 50000, 20000, 10000, 5000, 2000], vdiemap := 0xE4, failure := 0
    life := Config.fusedLife.toNat, bootStep := 0, ready := false, measure := .replicate 24 0
    gib := .replicate 4 0, islands := .replicate 44 Island.reset, links := .replicate 8 Link.reset
    absent := [], failed := [], log := [], corrected := [], walkTurn := .replicate 4 0, egress := [], dbidx := 0, dbword := 0
    stopErr := false, restoreErr := false, cutDone := false, cutJob := none, evResult := [], ckpt := []
    migr := [], owner := [], s2root := [], invSeq := 0
    govAt := .replicate 4 0, refillAt := 0, mapTo := none, stopping := none, stopped := false, stopAddr := 0
    stopOn := [], displaced := [] }

/-- The machine right after reset: memory wiped, no cluster in a partition, no queue enabled, nothing in flight
(R280, R282). -/
def State.reset : State :=
  { time := 0, nonce := 0, cur := 0, curCtx := 0, agenda := [], mem := [], banks := [], tags := []
    badBank := [], badMem := [], cores := [], clusters := [], parts := [], queues := [], launches := []
    starting := none, net := [], xnet := [], chains := [], running := [], posts := [], lanes := []
    gathers := [], colls := [], seqs := .replicate 4 Sequencer.reset, slices := [], submits := []
    releases := [], walks := [], cancels := [], evicts := [], invals := [], jobs := [], torn := [], hub := Hub.reset }

end Sys2Proof.Machine
end

