-- ==== Sys2Proof/Machine/Ops.lean ====
section
/-!
DEFINITION. The shared operations: numbering (R11, R12), access to the parts of the state, register reads and writes
(R56, R57), bank and device memory writes with their tags and logs (R172, R313, R329), the issue checks (R31), and
the taking of a trap (R303 to R311) with the return from one beside it (R299).
-/

namespace Sys2Proof.Machine

/-! ### Numbering (R11, R12) -/

/-- Virtual die of a core. -/
def dieOf (c : Nat) : Nat := c / 384

/-- Row of a core in its die's grid. -/
def rowOf (c : Nat) : Nat := c % 384 / 32

/-- Column of a core in its die's grid. -/
def colOf (c : Nat) : Nat := c % 32

/-- Cluster rank of a core. -/
def clusterOf (c : Nat) : Nat := dieOf c * 48 + rowOf c / 2 * 8 + colOf c / 4

/-- Core within its cluster. -/
def inCluster (c : Nat) : Nat := rowOf c % 2 * 4 + colOf c % 4

/-- The core of a cluster with a place in it. -/
def coreIn (rank k : Nat) : Nat :=
  rank / 48 * 384 + (rank % 48 / 8 * 2 + k / 4) * 32 + rank % 8 * 4 + k % 4

/-- The cores of a cluster, ascending. -/
def coresOf (rank : Nat) : List Nat := (List.range 8).map (coreIn rank)

/-- Mesh distance between two clusters of one die (R160). -/
def clusterDist (a b : Nat) : Nat :=
  let d (x y : Nat) : Nat := (x - y) + (y - x)
  d (a % 48 / 8) (b % 48 / 8) + d (a % 8) (b % 8)

/-- Whether a bank may be hitched to a core (R160). -/
def reachable (pkg core : Nat) : Bool :=
  pkg / 64 / 48 == dieOf core && decide (clusterDist (pkg / 64) (clusterOf core) ≤ 2)

/-! ### Parts of the state -/

/-- A core. -/
def State.core (s : State) (c : Nat) : Core := Tab.getD s.cores c Core.reset

/-- The state with a core replaced. -/
def State.setCore (s : State) (c : Nat) (k : Core) : State := { s with cores := Tab.put s.cores c k }

/-- A context of a core. -/
def State.ctx (s : State) (c x : Nat) : Ctx := Tab.getD (s.core c).ctxs x Ctx.reset

/-- The state with a context replaced. -/
def State.setCtx (s : State) (c x : Nat) (k : Ctx) : State :=
  s.setCore c { s.core c with ctxs := Tab.put (s.core c).ctxs x k }

/-- The issuing core. -/
def State.mycore (s : State) : Core := s.core s.cur

/-- The issuing context. -/
def State.me (s : State) : Ctx := s.ctx s.cur s.curCtx

/-- The state with the issuing context replaced. -/
def State.setMe (s : State) (k : Ctx) : State := s.setCtx s.cur s.curCtx k

/-- The state with the issuing core replaced. -/
def State.setMycore (s : State) (k : Core) : State := s.setCore s.cur k

/-- A cluster. -/
def State.cluster (s : State) (r : Nat) : Cluster := Tab.getD s.clusters r (Cluster.reset r)

/-- The state with a cluster replaced. -/
def State.setCluster (s : State) (r : Nat) (k : Cluster) : State := { s with clusters := Tab.put s.clusters r k }

/-- A partition. -/
def State.part (s : State) (p : Nat) : Part := Tab.getD s.parts p Part.reset

/-- The state with a partition replaced. -/
def State.setPart (s : State) (p : Nat) (k : Part) : State := { s with parts := Tab.put s.parts p k }

/-- A work queue. -/
def State.queue (s : State) (q : Nat) : WQueue := Tab.getD s.queues q WQueue.reset

/-- The state with a work queue replaced. -/
def State.setQueue (s : State) (q : Nat) (k : WQueue) : State := { s with queues := Tab.put s.queues q k }

/-- The partition of a core's cluster (R261). -/
def State.partOf (s : State) (c : Nat) : Nat := (s.cluster (clusterOf c)).part.getD 0

/-- A context that becomes live on a core: its own cluster in sr.sel (R288), and the code that it may fetch (R19). -/
def State.freshCtx (s : State) (c : Nat) : Ctx :=
  { Ctx.reset with
    live := true, born := s.nonce, sel := BitVec.ofNat 64 (s.partOf c * 2 ^ 32 + clusterOf c * 2 ^ 16), code := s.mem }

/-- The attach-table entry of a bank (R159). -/
def State.hitch (s : State) (pkg : Nat) : Hitch := Tab.getD (s.cluster (pkg / 64)).hitch (pkg % 64) Hitch.reset

/-- The state with an attach-table entry replaced. -/
def State.setHitch (s : State) (pkg : Nat) (h : Hitch) : State :=
  let k := s.cluster (pkg / 64)
  s.setCluster (pkg / 64) { k with hitch := Tab.put k.hitch (pkg % 64) h }

/-- The bank in a slot of a core. -/
def State.slotBank (s : State) (c slot : Nat) : Option Nat := Tab.get? (s.core c).slots slot

/-- The running launch of a unit. -/
def State.launch? (s : State) (u : Nat × Nat) : Option Launch :=
  s.launches.find? (fun l => l.queue == u.1 && l.seq == u.2)

/-- The launch of the unit that a core runs. -/
def State.launchOf (s : State) (c : Nat) : Option Launch :=
  match (s.core c).unit with
  | some u => s.launch? u
  | none => none

/-- The state with a launch replaced. -/
def State.setLaunch (s : State) (l : Launch) : State :=
  { s with launches := s.launches.map (fun k => if k.queue == l.queue && k.seq == l.seq then l else k) }

/-- The next fresh number, and the state that has given it. -/
def State.fresh (s : State) : Nat × State := (s.nonce, { s with nonce := s.nonce + 1 })

/-- Apply a function for each element of a list in turn. -/
def State.each {α : Type} (s : State) (xs : List α) (f : State → α → State) : State := xs.foldl f s

/-! ### Registers (R56, R57) -/

/-- A scalar register; s0 reads zero. -/
def Ctx.rs (k : Ctx) (i : SReg) : Word := if i = 0 then 0 else k.s[i.toNat]

/-- A scalar register written; s0 keeps nothing (R23). -/
def Ctx.ws (k : Ctx) (i : SReg) (w : Word) : Ctx := if i = 0 then k else { k with s := k.s.set i.toNat w }

/-- A vector register. -/
def Ctx.rv (k : Ctx) (i : VReg) : Vec := k.v[i.toNat]

/-- A vector register written. -/
def Ctx.wv (k : Ctx) (i : VReg) (x : Vec) : Ctx := { k with v := k.v.set i.toNat x }

/-- A predicate register; p7 reads all ones (R57). -/
def Ctx.rp (k : Ctx) (i : PReg) : Word := if i = 7 then BitVec.allOnes 64 else k.p[i.toNat]

/-- A predicate register written; p7 ignores it (R23). -/
def Ctx.wp (k : Ctx) (i : PReg) (w : Word) : Ctx := if i = 7 then k else { k with p := k.p.set i.toNat w }

/-- A result of an element type as register contents (R56). -/
def widen (t : ETy) (v : Nat) : Word :=
  if t.isSigned then BitVec.ofInt 64 (sgn (ETy.w t) v) else BitVec.ofNat 64 (v % 2 ^ ETy.w t)

/-! ### Records -/

/-- Fields of so many bytes each, lowest first, as one number. -/
def packB : List (Nat × Nat) → Nat
  | [] => 0
  | (n, v) :: r => v % 256 ^ n + 256 ^ n * packB r

/-- Bytes o to o+n−1 of a record held as a number. -/
def fieldB (v o n : Nat) : Nat := v / 256 ^ o % 256 ^ n

/-- A sorted list with an element added once. -/
def insertSet (x : Nat) : List Nat → List Nat
  | [] => [x]
  | y :: ys => if x < y then x :: y :: ys else if x = y then y :: ys else y :: insertSet x ys

/-! ### Memory writes -/

/-- Whether an address is one of HBM: a device address, or one as a kind-1 page's stack holds it (R266; assumption 84). -/
def inHbm (a : Nat) : Bool := decide (a % 2 ^ 48 < 2 ^ 39) && decide (a / 2 ^ 48 < 5)

/-- The 64 KiB device page of an address (R329). -/
def pageNo (a : Nat) : Nat := a % 2 ^ 48 / 65536

/-- Whether a device address exists: HBM, or the populated extent of a CXL window (R277). -/
def State.devOk (s : State) (a : Nat) : Bool :=
  inHbm a ||
    (decide (0xC00000000000 ≤ a) && decide (a < 0xD00000000000) &&
      decide ((a - 0xC00000000000) % 0x40000000000 <
        (s.hub.gib.toList.getD ((a - 0xC00000000000) / 0x40000000000) 0) * 2 ^ 30))

/-- Mark every page of a write in both bit tables (R329). -/
def State.mark (s : State) (a n : Nat) : State :=
  if inHbm a && n != 0 then
    let ps := (List.range (pageNo (a + n - 1) + 1 - pageNo a)).map (· + pageNo a)
    { s with hub := { s.hub with ckpt := ps.foldl (fun l p => insertSet p l) s.hub.ckpt
                                 migr := ps.foldl (fun l p => insertSet p l) s.hub.migr } }
  else s

/-- A write of n bytes of device memory at its home (R129, R329); an overwritten line is sound again. -/
def State.devWrite (s : State) (a n v : Nat) : State :=
  { s.mark a n with
    mem := s.mem.write a n v
    badMem := s.badMem.filter (fun l => !(decide (a ≤ 64 * l) && decide (64 * l + 64 ≤ a + n))) }

/-- The tag of a bank region (R171). -/
def State.tag (s : State) (pkg region : Nat) : Nat := Tab.getD s.tags (pkg * 16 + region) 0

/-- The state with a tag set; an unlisted tag is 0. -/
def State.setTag (s : State) (pkg region t : Nat) : State :=
  { s with tags := if t = 0 then Tab.drop s.tags (pkg * 16 + region) else Tab.put s.tags (pkg * 16 + region) t }

/-- Make the step of a core's team non-rollbackable (R314). -/
def State.noRoll (s : State) (c : Nat) : State :=
  match s.launchOf c with
  | some l => s.setLaunch { l with noRoll := true }
  | none => s

/-- The register-copy units of registers (R312): s0 to s31 by eights, the predicates, each vector register, each
distribution register as eight. -/
def copyUnits (x : Nat) (rs : List Reg) : List (Nat × Nat) :=
  rs.flatMap (fun r => match r with
    | .s i => if i = 0 then [] else [(x, i / 8)]
    | .p _ => [(x, 4)]
    | .v i => [(x, 5 + i)]
    | .d i => (List.range 8).map (fun j => (16, 8 * i + j)))

/-- Registers written in a step: their first writes count in the core's frame, and the 87th unit makes the step
non-rollbackable (R312). -/
def State.countUnits (s : State) (c x : Nat) (rs : List Reg) : State :=
  let k := s.core c
  if k.frame.isNone then s
  else
    let us := (copyUnits x rs).foldl (fun l u => if l.contains u then l else l ++ [u]) k.units
    let s := s.setCore c { k with units := us }
    if 86 < us.length then s.noRoll c else s

/-- Every bank of the package that some cluster's table holds in a state other than Free. -/
def State.liveBanks (s : State) : List Nat :=
  s.clusters.flatMap (fun e => (e.2.hitch.filter (fun h => h.2.st != .free)).map (fun h => e.1 * 64 + h.1))

/-- The launch whose unit holds a bank, running or switched out (R318): a bank that is Free, wiping or in flight is no team's. -/
def State.teamOf (s : State) (pkg : Nat) : Option Launch :=
  let h := s.hitch pkg
  if h.st == .hitched || h.st == .frozen then h.owner.bind s.launch? else none

/-- A bank no longer stands where the map places another one (R274). -/
def State.unplace (s : State) (pkg : Nat) : State :=
  if s.hub.displaced.isEmpty then s else { s with hub := { s.hub with displaced := s.hub.displaced.filter (fun p => p.2 != pkg) } }

/-- A bank Free, and nothing of it left in its cluster's undo log (R162, R228): what follows is no write of that step's team. -/
def State.freeBank (s : State) (pkg : Nat) : State :=
  let s := (s.setHitch pkg Hitch.reset).unplace pkg
  let k := s.cluster (pkg / 64)
  s.setCluster (pkg / 64) { k with undo := k.undo.filter (fun u => u.line / 1024 != pkg) }

/-- Whether a core is one of a team's: its units that stand switched out are on none that another unit runs on (R314, R315). -/
def State.teamCore (s : State) (l : Launch) (c : Nat) : Bool :=
  l.cores.contains c && ((s.core c).unit.isNone || (s.core c).unit == some (l.queue, l.seq))

/-- A unit of a launch that stands switched out of a core. -/
def State.parkedOf (s : State) (u : Option (Nat × Nat)) (c : Nat) : Option (Launch × Parked) :=
  (u.bind s.launch?).bind (fun l => (l.parked.find? (·.core == c)).map (fun p => (l, p)))

/-- Whether a core's place is kept for a unit switched out of it, whatever it runs now (R259). -/
def State.awayFrom (s : State) (u : Option (Nat × Nat)) (c : Nat) : Bool := (s.parkedOf u c).isSome && (s.core c).unit != u

/-- Whether what a core's slots hold for a team is the team's own: a unit of it that is switched out keeps its banks there (R259,
R314). -/
def State.inTeam (s : State) (l : Launch) (c : Nat) : Bool :=
  s.teamCore l c || (s.parkedOf (some (l.queue, l.seq)) c).isSome

/-- Whether a bank is one of a team's. -/
def State.ofTeam (s : State) (l : Launch) (pkg : Nat) : Bool :=
  (s.teamOf pkg).any (fun k => k.queue == l.queue && k.seq == l.seq)

/-- The team in whose step a bank's writes are logged: its holder's, once it has a checkpoint (R313). -/
def State.loggedFor (s : State) (pkg : Nat) : Option Launch :=
  (s.teamOf pkg).bind (fun l => if l.cores.any (fun c => s.teamCore l c && (s.core c).frame.isSome) then some l else none)

/-- Log a line before its first write in the step (R313, R316). -/
def State.logLine (s : State) (pkg line : Nat) : State :=
  match s.loggedFor pkg with
  | none => s
  | some l =>
    let k := s.cluster (pkg / 64)
    let a := pkg * 1024 + line
    if k.undo.any (fun u => u.line == a) then s
    else if l.rbPending then s
    else if 2688 ≤ k.undo.length then
      s.each (s.launches.filter (fun l => s.liveBanks.any (fun b => b / 64 == pkg / 64 && s.ofTeam l b)))
        (fun s l => s.setLaunch { l with noRoll := true })
    else
      let u : Undo := { line := a, old := s.banks.read (a * 64) 64, tag := s.tag pkg (line / 64)
                        bad := s.badBank.filter (fun w => w / 8 == a) }
      s.setCluster (pkg / 64) { k with undo := k.undo ++ [u] }

/-- While a rollback is pending, a write also changes the line's entry (R316). -/
def State.repairLog (s : State) (pkg off n v : Nat) : State :=
  match s.loggedFor pkg with
  | none => s
  | some l =>
    if l.rbPending then
      let k := s.cluster (pkg / 64)
      let a := pkg * 65536 + off
      let fix (u : Undo) : Undo :=
        let lo := max a (64 * u.line)
        let hi := min (a + n) (64 * u.line + 64)
        if hi ≤ lo then u
        else
          { u with old := setBits u.old (8 * (hi - 64 * u.line) - 1) (8 * (lo - 64 * u.line)) (v / 256 ^ (lo - a) % 256 ^ (hi - lo))
                   bad := u.bad.filter (fun b => !(decide (a ≤ 8 * b) && decide (8 * b + 8 ≤ a + n))) }
      s.setCluster (pkg / 64) { k with undo := k.undo.map fix }
    else s

/-- Bytes of a bank written without any rule of tags. -/
def State.bankRaw (s : State) (pkg off n v : Nat) : State :=
  { s with
    banks := s.banks.write (pkg * 65536 + off) n v
    badBank := s.badBank.filter
      (fun w => !(decide (pkg * 65536 + off ≤ 8 * w) && decide (8 * w + 8 ≤ pkg * 65536 + off + n))) }

/-- An ordinary write to a bank: log, bytes, tag (R172, R313); n is at most 64. -/
def State.bankWrite (s : State) (pkg off n v : Nat) : State :=
  if n = 0 then s
  else
    let s := (s.logLine pkg (off / 64)).logLine pkg ((off + n - 1) / 64)
    let s := (s.repairLog pkg off n v).bankRaw pkg off n v
    let mix (s : State) (r : Nat) : State := if s.tag pkg r = 0 then s else s.setTag pkg r 15
    mix (mix s (off / 4096)) ((off + n - 1) / 4096)

/-- A bank wiped: 65,536 zero bytes, tags 0 (R168, R301). -/
def State.bankWipe (s : State) (pkg : Nat) : State :=
  { s with
    banks := s.banks.wipe (pkg * 65536) 65536
    badBank := s.badBank.filter (fun w => w / 8192 != pkg)
    tags := s.tags.filter (fun e => e.1 / 16 != pkg) }

/-- Whether a bank word under a range is uncorrectable (R283). -/
def State.bankBad (s : State) (pkg off n : Nat) : Bool :=
  s.badBank.any (fun w => decide (pkg * 65536 + off < 8 * w + 8) && decide (8 * w < pkg * 65536 + off + n))

/-- Whether a line of device memory under a range is uncorrectable. -/
def State.memBad (s : State) (a n : Nat) : Bool :=
  s.badMem.any (fun l => decide (a < 64 * l + 64) && decide (64 * l < a + n))

/-- A bank's bytes. -/
def State.bankRead (s : State) (pkg off n : Nat) : Nat := s.banks.read (pkg * 65536 + off) n

/-- A charge on an allowance register (R271). -/
def State.charge (s : State) (p i units : Nat) : State :=
  let k := s.part p
  let a := k.allow.toList.getD i Allow.reset
  s.setPart p { k with allow := k.allow.setIfInBounds i { a with balance := a.balance - units } }

/-- A flit sent on a link: its number is kept in the replay buffer until the peer gives a credit back for it (R279; assumption
101). -/
def Link.send (l : Link) : Link := { l with sendSeq := (l.sendSeq + 1) % 4096, replay := l.replay ++ [l.sendSeq] }

/-! ### Trap causes (R304) -/

/-- The causes by name. -/
inductive Cause where
  | illegal | priv | phase | misalign | illegalPointer | illegalTable | pageFault | perm | bankDetached
  | bankReach | bankFrozen | swizzleMismatch | txUndeclared | txHold | remoteRefused | epilogueFault
  | uncorrectable | hostAtomicUnsupported | dieAbsent | queueOverrun | fatalHalt | swTrap
  deriving DecidableEq, Repr

/-- Cause codes (R304). -/
def Cause.code : Cause → Nat
  | .illegal => 0x01 | .priv => 0x02 | .phase => 0x03 | .misalign => 0x04 | .illegalPointer => 0x05
  | .illegalTable => 0x06 | .pageFault => 0x07 | .perm => 0x08 | .bankDetached => 0x09 | .bankReach => 0x0A
  | .bankFrozen => 0x0B | .swizzleMismatch => 0x0C | .txUndeclared => 0x0D | .txHold => 0x0E
  | .remoteRefused => 0x0F | .epilogueFault => 0x10 | .uncorrectable => 0x11 | .hostAtomicUnsupported => 0x12
  | .dieAbsent => 0x13 | .queueOverrun => 0x14 | .fatalHalt => 0x15 | .swTrap => 0x16

/-- The replayable causes (R304). -/
def replayable (cause : Nat) : Bool :=
  [0x07, 0x08, 0x09, 0x0B, 0x0E, 0x0F, 0x10, 0x13, 0x14, 0x16].contains cause

/-- Whether a trap is of the replayable class: by its cause, or as a fault of a refetch (R109, R304). -/
def Trap.replays (t : Trap) : Bool := t.again || replayable t.cause

/-! ### Ends of units (R228, R230, R256) -/

/-- One producer less of a ring (R240, R256). -/
def State.endProducer (s : State) (r : Nat) : State :=
  let cl := s.cluster (r / 32)
  let g := Tab.getD cl.rings (r % 32) Ring.reset
  if !g.enable then s
  else
    let n := g.prods - 1
    s.setCluster (r / 32) { cl with rings := Tab.put cl.rings (r % 32) { g with prods := n, ended := g.ended || n == 0 } }

/-- Lower the producer count of a unit's output ring (R240, R256); a released unit's does not end its ring only
because other producers remain. -/
def State.reosOf (s : State) (c : Nat) : State :=
  let k := s.core c
  match k.ringOut with
  | none => s
  | some r => if k.reos then s else (s.setCore c { k with reos := true }).endProducer r

/-- The bank leaves its slot at its holder. -/
def State.emptySlot (s : State) (c slot : Nat) : State :=
  s.setCore c { s.core c with slots := Tab.drop (s.core c).slots slot
                              frozen := (s.core c).frozen.filter (· != slot) }

/-- A bank in flight goes back to its sender (R167). -/
def State.giveBack (s : State) (pkg : Nat) : State :=
  s.setHitch pkg { s.hitch pkg with st := .returning, order := s.nonce }

/-- What became of the last bank handed from a slot (R170). -/
def State.outbound (s : State) (c slot pkg status : Nat) : State :=
  s.setCore c { s.core c with outb := Tab.put (s.core c).outb slot { status := status, pkg := pkg } }

/-- The outbound status of a bank changed where the slot's last outbound bank is that one. -/
def State.reoutbound (s : State) (c slot pkg status : Nat) : State :=
  match Tab.get? (s.core c).outb slot with
  | some o => if o.pkg == pkg then s.outbound c slot pkg status else s
  | none => s

/-- Banks that units switched out of a core hold, by slot (R259, R318). -/
def State.setAside (s : State) (c : Nat) : List (Nat × Nat) :=
  s.launches.flatMap (fun l => (l.parked.filter (·.core == c)).flatMap (·.banks))

/-- Banks of units switched out of a core that runs no unit stand in its slots, and serve (R259; assumption 42). -/
def State.reslot (s : State) (c : Nat) : State :=
  s.each (s.setAside c) (fun s e =>
    if (s.hitch e.2).st == .hitched && (s.hitch e.2).holder == c && (s.slotBank c e.1).isNone then
      s.setCore c { s.core c with slots := Tab.put (s.core c).slots e.1 e.2 }
    else s)

/-- What a unit boundary does to the banks of a core (R167, R228); those of units switched out of it stay. -/
def State.boundary (s : State) (c : Nat) : State :=
  let kept := (s.setAside c).map (·.2)
  let s := s.each s.liveBanks (fun s pkg =>
    let h := s.hitch pkg
    if h.st == .hitched && h.holder == c && !kept.contains pkg then s.freeBank pkg
    else if h.st == .transit && h.target == c && !s.awayFrom h.dest c then s.giveBack pkg
    else if h.st == .returning && h.holder == c && !s.awayFrom h.owner c then (s.reoutbound c h.slot pkg 4).freeBank pkg
    else s)
  let k := s.core c
  let s := s.each k.slots (fun s e => if (s.hitch e.2).st == .frozen then s else s.emptySlot c e.1)
  State.reslot (c := c) <| s.setCore c { s.core c with
    unit := none, ringIn := none, ringOut := none, reos := false, released := false
    arrived := false, barDone := false, frame := none, units := [], rank := 0, team := 0, ckptTiles := [] }

/-- The slices a context claims become releases, and its ticket ends (R209); a release leaves once the context's posted
stores are acknowledged (R212, `mayRelease`). -/
def State.endTicket (s : State) (c x : Nat) : State :=
  let k := s.ctx c x
  if k.ticket.isNone then s.setCtx c x { k with claims := [], grants := [] }
  else
    let mine := s.slices.filter (fun e => e.born == k.born && some e.ticket == k.ticket)
    { s.setCtx c x { k with ticket := none, claims := [], grants := [], txOpen := false, lostDies := [] } with
      releases := s.releases ++ mine }

/-- The journal entries that the pending traps of a context name are free (R138). -/
def State.freeTraps (s : State) (c x : Nat) : State :=
  let es := (s.ctx c x).traps.filterMap (·.jrn)
  s.setCore c { s.core c with journal := (s.core c).journal.filter (fun e => !es.contains e) }

/-- Every context of a core stops; queued matrix commands are discarded; the unit's implicit reos (R230, R256). -/
def State.stopCore (s : State) (c : Nat) (fatal : Bool) : State :=
  let s := s.each (Tab.keys (s.core c).ctxs) (fun s x =>
    let s := (s.endTicket c x).freeTraps c x
    s.setCtx c x { s.ctx c x with live := false, wait := .none, traps := [], irqs := [], unresolved := none
                                  q := .replicate 4 [], stall := 0, stopReq := false, mid := none })
  let s := s.reosOf c
  let k := s.core c
  s.setCore c { k with mq := [], loads := [], commit := [], arrived := true, preempt := none, unitStop := false
                       epis := if fatal then k.epis.filter (fun e => e.2.faulted) else [] }

/-- The chains and collectives that a launch's units started are cancelled (R201, R230, R232), and the preload of a unit that has
not started ends (R231). -/
def State.cancelWork (s : State) (u : Nat × Nat) : State :=
  let pre := (s.chains.filter (fun h => h.mode == 1 && h.unit == some u)).map (·.id)
  { s with
    running := s.running.filter (fun r => !pre.contains r.2)
    chains := (s.chains.filter (fun h => !pre.contains h.id)).map (fun h => if h.unit == some u then { h with cancelled := true } else h)
    colls := s.colls.map (fun w => if w.unit == some u then { w with bad := some 7 } else w) }

/-- Some of the contexts that stand switched out of a core end: their slices become releases, and their tickets end
(R212); the messages that their areas hold end with them. -/
def State.endAway (s : State) (c : Nat) (p : Away → Bool) : State :=
  let k := s.core c
  let gone := (k.out.filter p).map (·.born)
  let mine := s.slices.filter (fun e => gone.contains e.born)
  { s.setCore c { k with out := k.out.filter (fun o => !p o)
                         grantTable := k.grantTable.filter (fun e => !gone.contains e.1) } with
    releases := s.releases ++ mine
    posts := s.posts.filter (fun q => !(q.spilled && q.core == c && gone.contains q.born)) }

/-- The contexts of a unit that stand switched out of a core end with it (R230). -/
def State.endOut (s : State) (c : Nat) (u : Nat × Nat) : State := s.endAway c (fun o => o.unit == some u)

/-- The implicit `reos` of a unit that ends while it is switched out (R256). -/
def State.dropParked (s : State) (u : Nat × Nat) (p : Parked) : State :=
  let bytes := ((s.launch? u).map (·.bytes)).getD 0
  let ring := if bit (fieldB bytes 31 1) 7 then some (fieldB bytes 29 1 * 32 + fieldB bytes 31 1 % 32) else none
  let s := match ring with
    | some r => if p.reos then s else s.endProducer r
    | none => s
  s.endOut p.core u

/-- The banks of a switched-out unit that has ended, as at its unit boundary (R228, R230). -/
def State.freeParked (s : State) (u : Nat × Nat) (p : Parked) : State :=
  let c := p.core
  let its (v : Option (Nat × Nat)) : Bool := v == some u || (s.core c).unit.isNone
  let s := s.each p.banks (fun s e =>
    let h := s.hitch e.2
    if h.st == .hitched && h.holder == c then
      State.freeBank (if s.slotBank c e.1 == some e.2 then s.emptySlot c e.1 else s) e.2
    else s)
  s.each s.liveBanks (fun s pkg =>
    let h := s.hitch pkg
    if h.st == .transit && h.target == c && its h.dest then s.giveBack pkg
    else if h.st == .returning && h.holder == c && its h.owner then (s.reoutbound c h.slot pkg 4).freeBank pkg
    else s)

/-- The chain of a queue that a deadline has chosen runs at once, where a launch of it is cancelled or traps fatally (R335). -/
def State.hurry (s : State) (q : Nat) : State :=
  let p := (s.queue q).part
  match (s.part p).deadline with
  | some d => if d.picks.any (·.1 == q) then s.setPart p { s.part p with deadline := some { d with hurry := insertSet q d.hurry } } else s
  | none => s

/-- A launch ends before its units do (R230, R232): every unit stops now; its banks are freed and its status is given by
LAUNCH_COMPLETE, once its stores and chains have ended. -/
def State.endLaunch (s : State) (u : Nat × Nat) (status : Nat) : State :=
  match s.launch? u with
  | none => s
  | some l =>
    if l.status != 0 then s
    else
      let s := s.setLaunch { l with status := status }
      let s := if status = 2 || status = 3 then s.hurry l.queue else s
      let s := s.cancelWork u
      let s := s.each l.parked (fun s p => s.dropParked u p)
      s.each l.cores (fun s c => if (s.core c).unit == some u then (s.stopCore c false).endOut c u else s)

/-! ### The trap queue (R305, R309) -/

/-- A trap record (R305). -/
def recordOf (s : State) (c x : Nat) (t : Trap) (level : Nat) (flags : Nat) (part seq : Nat) : Nat :=
  packB [(1, t.cause), (1, flags), (1, x + level * 16), (1, match t.jrn with | some e => 128 + e | none => 0),
    (2, c), (1, part), (1, 0), (8, t.resume), (8, t.fpc), (8, t.detail), (8, t.va), (8, t.ipa), (8, s.time),
    (4, seq), (4, 0)]

/-- The lowest of the slots lo to lo+n−1 that is free. -/
def freeSlot (held : List Nat) : Nat → Nat → Option Nat
  | _, 0 => none
  | lo, n + 1 => if held.contains lo then freeSlot held (lo + 1) n else some lo

/-- Whether a replayable trap finds every slot held (R309). -/
def State.trapStalls (s : State) (p : Nat) : Bool :=
  let k := s.part p
  k.tqOn && (freeSlot (k.tqHeld ++ k.tqFatal) 0 248).isNone

/-- Write a record of a replayable trap into the lowest free slot. -/
def State.postRecord (s : State) (p c x : Nat) (t : Trap) (level flags : Nat) : State × Option Nat :=
  let k := s.part p
  if !k.tqOn then (s, none)
  else match freeSlot (k.tqHeld ++ k.tqFatal) 0 248 with
    | none => (s, none)
    | some i =>
      let s := s.devWrite (k.tqBase + 64 * i) 64 (recordOf s c x t level flags p k.recSeq)
      (s.setPart p { k with tqHeld := k.tqHeld ++ [i], recSeq := (k.recSeq + 1) % 2 ^ 32 }, some i)

/-- One more BAR2 error-log entry. -/
def State.logErr (s : State) (cause : Nat) (words : List Nat) : State :=
  { s with hub := { s.hub with log := s.hub.log ++ [{ cause := cause, words := words }] } }

/-- The banks of a core that traps fatally (R166): hitched ones freeze in their slots, draining ones when their
drain ends, those in transit to it return. -/
def State.freezeBanks (s : State) (c : Nat) : State :=
  s.each s.liveBanks (fun s pkg =>
    let h := s.hitch pkg
    if h.st == .hitched && h.holder == c then
      let s := s.setHitch pkg { h with st := .frozen }
      if s.slotBank c h.slot == some pkg then s.setCore c { s.core c with frozen := insertSet h.slot (s.core c).frozen } else s
    else if h.st == .draining && h.holder == c then s.setHitch pkg { h with doomed := true }
    else if h.st == .transit && h.target == c then s.giveBack pkg
    else s)

/-- Whether the posted stores of a core have drained, so that its banks may freeze (R307). -/
def State.drainedOut (s : State) (c : Nat) : Bool := s.net.all (fun a => a.core != c) && s.xnet.all (fun m => m.src != c)

/-- A core whose stores have drained after a fatal trap freezes its banks (R307). -/
def State.freezeNow (s : State) (c : Nat) : State :=
  if (s.core c).draining && s.drainedOut c then (s.setCore c { s.core c with draining := false }).freezeBanks c else s

/-- What a fatal trap does to its core (R307): every context stops, and its banks freeze once its stores have drained. -/
def State.fatalCore (s : State) (c : Nat) : State :=
  let s := s.stopCore c true
  let s := match (s.core c).unit with
    | some u => s.endOut c u
    | none => s
  State.freezeNow (s.setCore c { s.core c with dead := true, draining := true, unit := none, frame := none }) c

/-- A partition halts (R309): every context of it stops as at a fatal trap, and its launches end. -/
def State.haltPart (s : State) (p c x : Nat) (t : Trap) : State :=
  let k := s.part p
  let f := 2 ^ 63 + t.cause * 2 ^ 48 + x * 2 ^ 44 + c * 2 ^ 33 + t.fpc % 2 ^ 32
  let s := s.setPart p { k with fatal := BitVec.ofNat 64 f, halted := true }
  let s := s.logErr 0x15 [p, c, x]
  let s := s.each (Tab.keys s.cores) (fun s d =>
    if s.partOf d == p && (s.cluster (clusterOf d)).part.isSome && (s.core d).ctxs.any (·.2.live) then s.fatalCore d else s)
  s.each (s.launches.filter (fun l => (s.queue l.queue).part == p)) (fun s l => s.endLaunch (l.queue, l.seq) 3)

/-- Report a fatal trap: the fatal reserve, a normal slot, or sr.fatal (R309); dropped once halted. -/
def State.postFatal (s : State) (p c x : Nat) (t : Trap) (level flags : Nat) : State :=
  let k := s.part p
  if k.halted then s
  else
    let held := k.tqHeld ++ k.tqFatal
    let slot := if k.tqOn then (match freeSlot held 248 8 with | some i => some i | none => freeSlot held 0 248) else none
    match slot with
    | none => s.haltPart p c x t
    | some i =>
      let s := s.devWrite (k.tqBase + 64 * i) 64 (recordOf s c x t level flags p k.recSeq)
      s.setPart p { k with tqFatal := k.tqFatal ++ [i], recSeq := (k.recSeq + 1) % 2 ^ 32 }

/-- A fatal trap (R307, R308). -/
def State.fatalTrap (s : State) (c x : Nat) (t : Trap) (nested : Bool) : State :=
  let k := s.ctx c x
  let p := s.partOf c
  let noRoll := ((s.launchOf c).map (·.noRoll)).getD false
  let s := s.postFatal p c x t k.level (b2n t.async * 2 + 4 + b2n nested * 8 + b2n noRoll * 32)
  let u := (s.core c).unit
  let s := s.fatalCore c
  match u with
  | some u => s.endLaunch u 3
  | none => s

/-- Where s24 to s31 are staged in bank 63 of the core's cluster (R312): the bank and the offset. -/
def stagingSlot (c x : Nat) : Nat × Nat := (clusterOf c * 64 + 63, 0x2000 + 0x400 * inCluster c + 0x40 * x)

/-- s24 to s31 as 64 bytes. -/
def Ctx.upper (k : Ctx) : Nat := packB ((List.range 8).map (fun i => (8, (k.s.toList.getD (24 + i) 0).toNat)))

/-- Enter the handler at L1 (R306), with its record in a slot or none written. -/
def State.enterHandler (s : State) (c x : Nat) (t : Trap) (slot : Option Nat) (rb : Bool) : State :=
  let k := s.ctx c x
  let st := stagingSlot c x
  let cause := 2 ^ 63 + k.level * 2 ^ 10 + b2n t.replays * 2 ^ 9 + b2n t.async * 2 ^ 8 + t.cause
  let s := s.bankRaw st.1 st.2 64 k.upper
  s.setCtx c x { k with
    trapcause := BitVec.ofNat 64 cause, trappc := BitVec.ofNat 64 t.resume
    trapdetail := BitVec.ofNat 64 t.detail
    trapjrn := (match t.jrn with | some e => BitVec.ofNat 64 (32 + e) | none => 0)
    level := 1, pc := (s.part (s.partOf c)).trapvec, trapSlot := slot, rbTrap := rb, wait := .none, stall := 0, mid := none }

/-- Every other context of a team stops at its boundary (R314). -/
def State.stopTeam (s : State) (l : Launch) (c x : Nat) : State :=
  s.each l.cores (fun s d => s.each (Tab.keys (s.core d).ctxs) (fun s y =>
    if (d == c && y == x) || !(s.ctx d y).live || (s.core d).unit != some (l.queue, l.seq) then s else s.setCtx d y { s.ctx d y with wait := .stopped }))

/-- Whether no register of a context still waits for an earlier instruction's value (R303); an `mstat` behind a refetch
that has failed is not waited for (R105, R109). -/
def State.settled (s : State) (c x : Nat) : Bool :=
  (s.core c).loads.all (fun l => l.ctx != x || l.poison.isSome || ((s.core c).refetch && (s.core c).mq.any (·.id == l.id)))

/-- Whether the earlier posted stores of a context are acknowledged or refused, for the record of its trap to be written as a
release (R309). -/
def State.storesDone (s : State) (c x : Nat) : Bool :=
  s.net.all (fun a => !(a.core == c && a.ctx == x && a.born == (s.ctx c x).born && a.jrn.isSome && a.refused.isNone))

/-- A context at L2 that a trap stops (R308): its transaction ends (R212), and no value comes to its registers any more. -/
def State.endHub (s : State) (c x : Nat) : State :=
  let s := (s.endTicket c x).freeTraps c x
  let s := s.setCtx c x { s.ctx c x with live := false, traps := [], irqs := [], q := .replicate 4 [], wait := .none, unresolved := none, mid := none }
  s.setCore c { s.core c with loads := (s.core c).loads.filter (·.ctx != x), commit := (s.core c).commit.filter (·.ctx != x) }

/-- Take a trap of a context (R303 to R309). None: the context stalls, since the trap queue is full, or since a value of an
earlier instruction has not reached its register, or a store its destination. -/
def State.takeTrap (s : State) (c x : Nat) (t : Trap) : Option State :=
  let k := s.ctx c x
  let p := s.partOf c
  if 2 ≤ k.level then
    some ((s.endHub c x).logErr t.cause [recordOf s c x t k.level (b2n t.async * 2) p (s.part p).recSeq])
  else if !s.storesDone c x then none
  else if k.level = 1 then some (s.fatalTrap c x t true)
  else
    let l? := s.launchOf c
    if t.replays then
      if s.trapStalls p || !s.settled c x then none
      else
        let r := s.postRecord p c x t 0 (1 + b2n t.async * 2)
        some (r.1.enterHandler c x t r.2 false)
    else match l? with
      | some l =>
        if l.noRoll || l.replayed || l.rbPending || (s.core c).frame.isNone then some (s.fatalTrap c x t false)
        else if s.trapStalls p || !s.settled c x then none
        else
          let r := s.postRecord p c x t 0 (b2n t.async * 2 + 16)
          let s := r.1.setLaunch { l with rbPending := true }
          some ((s.stopTeam l c x).enterHandler c x t r.2 true)
      | none => some (s.fatalTrap c x t false)

/-! ### Return from a trap (R299, R306, R315) -/

/-- A bank line, its tag and its check bits put back from the undo log (R315, R316). -/
def State.undoLine (s : State) (u : Undo) : State :=
  let pkg := u.line / 1024
  let s := s.bankRaw pkg (u.line % 1024 * 64) 64 u.old
  let s := s.setTag pkg (u.line % 1024 / 64) u.tag
  { s with badBank := u.bad.foldl (fun b w => insertSet w b) s.badBank }

/-- One core back at its checkpoint (R110, R260, R315): no trap of a refused store stays, and its journal entry is free. What a
sequencer and the home agents have done of a transaction meanwhile stays done (R213, R214; assumption 99). -/
def State.restoreFrame (s : State) (c : Nat) : State :=
  let k := s.core c
  match k.frame with
  | none => s
  | some f =>
    let gone := (Tab.keys k.ctxs).filter (fun x => (Tab.get? f.ctxs x).isNone)
    let back (e : Nat × Ctx) : Ctx :=
      let now := Tab.getD k.ctxs e.1 Ctx.reset
      let k : Ctx := if now.live && now.born == e.2.born then
          { e.2 with q := now.q.set 0 e.2.q[0], ticket := now.ticket, claims := now.claims, grants := now.grants
                     lastGrant := now.lastGrant, txOpen := now.txOpen, lostDies := now.lostDies }
        else e.2
      { k with irqs := now.irqs, wait := .none, stall := 0 }
    let refused := k.ctxs.flatMap (fun e => e.2.traps.filterMap (·.jrn))
    let ctxs := f.ctxs.map (fun e => (e.1, back e))
    let ctxs := gone.foldl (fun t x => Tab.put t x { Tab.getD k.ctxs x Ctx.reset with live := false }) ctxs
    let keep := f.tiles.filterMap (fun t => if t.valid then some t.phys else none)
    s.setCore c { k with
      ctxs := ctxs
      out := k.out.filter (fun o => !f.ctxs.any (fun e => e.1 == o.ctx && e.2.born == o.born))
      tiles := Vector.ofFn (fun (i : Fin 8) => f.tiles.getD i Tile.reset)
      d := Vector.ofFn (fun (i : Fin 8) => f.d.getD i Dist.reset)
      epis := k.epis.filter (fun e => f.held.contains (e.1 % 32))
      phys := k.phys.filter (fun e => keep.contains e.1 || f.held.contains e.1)
      mq := [], loads := [], commit := [], units := [], arrived := f.barDone, barDone := f.barDone, unitStop := false
      journal := k.journal.filter (fun e => !refused.contains e) }

/-- The queue messages that a team's cores have sent to its own control contexts in the step are gone, and their journal entries
free (R260, R315). -/
def State.dropItems (s : State) (l : Launch) : State :=
  let u := some (l.queue, l.seq)
  let own (m : XMsg) : Bool := m.by_ == u && m.line.isNone && m.unit == u
  let t : State := { s with xnet := s.xnet.filter (fun m => !own m) }
  t.each (s.xnet.filter own) (fun t m =>
    t.setCore m.src { t.core m.src with journal := (t.core m.src).journal.filter (· != m.jrn) })

/-- The team back at its checkpoint, to replay its step once (R315). -/
def State.rollBack (s : State) (l : Launch) : State :=
  let mine := s.ofTeam l
  let s := s.each s.clusters (fun s e =>
    let k := s.cluster e.1
    let s := s.each (k.undo.filter (fun u => mine (u.line / 1024))).reverse State.undoLine
    let k := s.cluster e.1
    s.setCluster e.1 { k with undo := k.undo.filter (fun u => !mine (u.line / 1024)) })
  let s := (s.dropItems l).each (l.cores.filter (s.teamCore l)) State.restoreFrame
  s.setLaunch { l with rbPending := false, replayed := true }

/-- Whether every access a team's cores issued has been performed or refused (R315); a queue message for a control context of the
team is none, since q4 goes back to what it held and the replay sends it again (R260). -/
def State.teamDrained (s : State) (l : Launch) : Bool :=
  s.net.all (fun a => !s.teamCore l a.core)
    && s.xnet.all (fun m => m.by_ != some (l.queue, l.seq) || (m.line.isNone && m.unit == some (l.queue, l.seq)))

/-- Resume the trapped work (R299); none while a rollback still drains, or a load of the handler has not reached its
register. -/
def State.trapReturn (s : State) (c x : Nat) : Option State :=
  let k := s.ctx c x
  let p := s.partOf c
  let pt := s.part p
  let free := match k.trapSlot with
    | some i => s.setPart p { pt with tqHeld := pt.tqHeld.filter (· != i) }
    | none => s
  if k.rbTrap then
    match s.launchOf c with
    | some l => if s.teamDrained l then some (free.rollBack l) else none
    | none => some free
  else if !s.settled c x then none
  else
    let st := stagingSlot c x
    let lvl := bits k.trapcause.toNat 11 10
    let old := s.bankRead st.1 st.2 64
    let regs := (List.range 8).foldl (fun r i => r.setIfInBounds (24 + i) (BitVec.ofNat 64 (fieldB old (8 * i) 8))) k.s
    let free := if x = 0 then free.setCore c { free.core c with refetchFailed := false } else free
    some (free.setCtx c x { k with
      level := lvl, pc := k.trappc.toNat % 2 ^ 48, trapcause := k.trapcause &&& 0x7FFFFFFFFFFFFFFF#64
      s := regs, trapSlot := none })

/-! ### Issue (R15, R20, R31) -/

/-- How an instruction's own effect ends. -/
inductive Res where
  /-- it completes; the context goes on at pc + 12 -/
  | done (s : State)
  /-- it completes; the context goes on elsewhere -/
  | goto (s : State) (pc : Nat)
  /-- a precise trap -/
  | trap (s : State) (t : Trap)
  /-- it does not issue now (R233) -/
  | hold
  /-- an access of it is done and others follow; nothing else of the context issues meanwhile -/
  | more (s : State)
  /-- it has begun, and the context stays on it; its yield hint acts now, its stall count when it ends (R20, R233) -/
  | wait (s : State)
  /-- an address that does not exist -/
  | stop (f : Fault)

abbrev Out := Host.Outcome State Fault Refusal

/-- What an instruction asks of its context (R31, R244, R362). -/
structure Need where
  level   : Nat := 0
  helper  : Bool := true
  control : Bool := true
  unit    : Bool := false
  /-- it belongs to the exchange step whatever its phase class (R253, R254) -/
  exchange : Bool := false

/-- A precise trap of the issuing context on its own instruction. -/
def State.raiseW (s : State) (c : Cause) (detail va ipa : Nat) : Res :=
  .trap s { cause := c.code, detail := detail, resume := s.me.pc, fpc := s.me.pc, va := va, ipa := ipa
            jrn := none, async := false }

/-- A precise trap with a detail word. -/
def State.raise (s : State) (c : Cause) (detail : Nat := 0) : Res := s.raiseW c detail 0 0

/-- A precise trap of an access, with its pointer (R175, R305; assumption 81). -/
def State.raiseAt (s : State) (p : Nat) (c : Cause) (detail : Nat := 0) : Res := s.raiseW c detail p 0

/-- A precise trap of an access whose pointer leaves its space, so that it has no address (R26, R175; assumption 81). -/
def State.raiseStray (s : State) : Res := s.raiseAt (Config.strayPointer s.nonce).toNat .illegalPointer

/-- Go on only where a condition holds; otherwise the cause is raised. -/
def State.need (s : State) (ok : Bool) (c : Cause) (k : Res) : Res := if ok then k else s.raise c

/-- The instruction under way of the issuing context, or one that begins now. -/
def State.midway (s : State) : Midway := s.me.mid.getD { cmd := none, done := 0, stamp := s.nonce, got := 0 }

/-- One more access done of the instruction under way; got is what its reads have given so far. -/
def State.stepMid (s : State) (m : Midway) (got : Nat) : Res :=
  .more (s.setMe { s.me with mid := some { m with done := m.done + 1, got := got } })

/-- What no branch may still undo: held while a branch of the context is unresolved (R132, R245). -/
def State.firm (s : State) (k : Res) : Res := if s.me.unresolved.isSome then .hold else k

/-- Leave the instruction unissued (R233). -/
def State.held (s : State) : State := s.setMe { s.me with wait := .held }

/-- The context goes on at an address modulo 2^48 (assumption 87), with the hints of its instruction (R20). -/
def State.advance (s : State) (h : Hdr) (pc : Nat) : State :=
  s.setMe { s.me with pc := pc % 2 ^ 48, yieldNow := h.yield
                      wait := if s.me.unresolved = some false then .branch else .none
                      stall := (s.core s.cur).cc + 1 + h.stall.toNat, mid := none }

/-- A taken branch, `jmp` or `ret`, wherever it leads: behind a `fence.core` the context sees new code from here on (R19;
assumption 79). -/
def State.land (s : State) : State :=
  s.setMe { s.me with code := if s.me.fenced then s.mem else s.me.code, fenced := false }

/-- Whether the guard of a word is true (R15). -/
def guardTrue (k : Ctx) (h : Hdr) : Bool := (k.rp h.guard).getLsbD 0 != h.neg

/-- The phase of the issuing context's team: 0 Free, 1 Exchange, 2 Compute (R234); a context of no launch is in no superstep
(R31, R362). -/
def State.phase (s : State) : Nat := if s.me.inUnit then ((s.launchOf s.cur).map (·.phase)).getD 0 else 0

/-- Whether a phase class may issue (R31, R234). -/
def phaseOk (s : State) : PClass → Bool
  | .any => true
  | .compute => s.phase != 1
  | .exchange => s.phase != 2

/-- Whether the issuing context may issue the instruction (R16, R244, R362). -/
def contextOk (s : State) (n : Need) : Bool :=
  (n.helper || s.curCtx == 0) && (n.control || s.curCtx != 0) && (!n.unit || (s.me.inUnit && s.mycore.unit.isSome))

/-- A trap of the issuing context as an outcome. -/
def State.trapOut (s : State) (t : Trap) : Out :=
  match s.takeTrap s.cur s.curCtx t with
  | some s' => .next s'
  | none => .next s.held

/-- The outcome of an instruction from the end of its effect. -/
def Res.out (h : Hdr) (s : State) : Res → Out
  | .done t => .next (t.advance h (t.me.pc + 12))
  | .goto t pc => .next (t.land.advance h pc)
  | .trap t r => t.trapOut r
  | .hold => .next s.held
  | .more t => .next t
  | .wait t => .next (t.setMe { t.me with finish := some h.stall.toNat, yieldNow := h.yield && t.me.wait != .walk })
  | .stop f => .fault f

/-- The issue of an instruction in the order of R31, with the phase that R253 and R254 ask for last. -/
def issue (h : Hdr) (n : State → Need) (body : State → Res) (s : State) : Out :=
  if !guardTrue s.me h then .next (s.advance h (s.me.pc + 12))
  else if s.me.level < (n s).level then (s.raise .priv).out h s
  else if !phaseOk s h.phase then (s.raise .phase).out h s
  else if !contextOk s (n s) then (s.raise .illegal).out h s
  else if (n s).exchange && s.phase != 1 then (s.raise .phase).out h s
  else (body s).out h s

/-- An instruction any context may issue at L0. -/
def plain : State → Need := fun _ => {}

/-- An event as an outcome: what does not apply has no effect. -/
def event (s : State) (enabled : Bool) (t : State) : Out := if enabled then .next t else .next s

end Sys2Proof.Machine
end

