-- ==== Sys2Proof/Machine/Operands.lean ====
section
/-!
DEFINITION. Operand forms: scalar, vector and immediate sources as element codes (R22, R56, R75), lanes of a vector
register, displacements (R26, R27), branch targets (R28), and how results round (R23, R43).
-/

namespace Sys2Proof.Machine

/-- The low bits of a scalar register as an element code (R56). -/
def codeS (k : Ctx) (t : ETy) (r : SReg) : Nat := (k.rs r).toNat % 2 ^ ETy.w t

/-- A signed immediate as a code of an integer type (R56). -/
def immInt {n : Nat} (t : ETy) (v : BitVec n) : Nat := wrapN (ETy.w t) v.toInt

/-- A register or immediate source of an integer instruction. -/
def srcSI (k : Ctx) (t : ETy) : SrcSI → Nat
  | .s r => codeS k t r
  | .imm v => immInt t v

/-- An untyped source: 64 bits (R64). -/
def src64 (k : Ctx) : SrcSI → Word
  | .s r => k.rs r
  | .imm v => v.signExtend 64

/-- Lanes of a type in a vector register (R75). -/
def laneCount (t : ETy) : Nat := 64 / t.size

/-- One lane of a vector (R75). -/
def lane (t : ETy) (v : Nat) (i : Nat) : Nat := v / 2 ^ (i * ETy.w t) % 2 ^ ETy.w t

/-- Every lane of a vector. -/
def lanesOf (t : ETy) (v : Nat) : List Nat := (List.range (laneCount t)).map (lane t v)

/-- A vector from its lanes, lane 0 lowest. -/
def ofLanes (t : ETy) (xs : List Nat) : Nat := xs.foldr (fun x a => x % 2 ^ ETy.w t + 2 ^ ETy.w t * a) 0

/-- How a typed instruction rounds: its mode and saturation, and the context's overflow table (R43, R47). -/
def rndOf (k : Ctx) (m : RMode) (sat : Bool) : Rnd := { mode := m, sat := sat, ovt := k.ovt.toNat, conv := false }

/-- An immediate as a code: the low bits, or the integer rounded into a float type as a conversion (R56). -/
def immCode {n : Nat} (t : ETy) (r : Rnd) (v : BitVec n) : Nat :=
  if t.isInt then immInt t v
  else roundF t { r with conv := true } (decide (v.toInt < 0)) v.toInt.natAbs 1 0

/-- A source of a vector operation as its lanes (R75). -/
def srcVSI (k : Ctx) (t : ETy) (r : Rnd) : SrcVSI → List Nat
  | .v x => lanesOf t (k.rv x).toNat
  | .s x => List.replicate (laneCount t) (codeS k t x)
  | .imm v => List.replicate (laneCount t) (immCode t r v)

/-- The second source of a sweep as its lanes (R27, R82). -/
def srcSw (k : Ctx) (t : ETy) (r : Rnd) : SwSrc → List Nat
  | .v x => lanesOf t (k.rv x).toNat
  | .s x => List.replicate (laneCount t) (codeS k t x)
  | .imm v => List.replicate (laneCount t) (immCode t r v)

/-- A source code with its negate bit applied (R65, R75). -/
def negIf (t : ETy) (n : Bool) (c : Nat) : Nat := if n then negF t c else c

/-- A memory operand's displacement in bytes (R26). -/
def dispBytes (t : ETy) (d : BitVec 12) : Int := d.toInt * t.size

/-- The target of a branch (R28), modulo 2^48 (assumption 87). -/
def branchTo (pc : Nat) (off : BitVec 24) : Nat := (((pc : Int) + 4 * off.toInt) % 2 ^ 48).toNat

/-- A scope field, by its place in R140. -/
def Scope.wide : Scope → Nat
  | .ctx => 0 | .core => 1 | .clu => 2 | .die => 3 | .pkg => 4 | .sys => 5

/-! ### Images of distribution registers (R113, R116) -/

/-- Whether one point's value comes strictly before another's in the order of R113. -/
def keyLt (a b : Nat) : Bool :=
  if isNaN .f32 a then false
  else if isNaN .f32 b then true
  else decide (cmpV (decodeF .f32 a) (decodeF .f32 b) < 0)

/-- The points of a lane. -/
def Dist.lane (d : Dist) (l : Nat) : List (Nat × Nat) := (d.pts.drop (8 * l)).take 8

/-- Whether every lane keeps the order of R113. -/
def Dist.sorted (d : Dist) : Bool :=
  (List.range 8).all (fun l =>
    let ps := d.lane l
    (ps.zip ps.tail).all (fun e => !keyLt e.2.1 e.1.1))

/-- The image of a register. -/
def Dist.image (d : Dist) : Nat :=
  packB (d.pts.map (fun p => (4, p.1)) ++ d.pts.map (fun p => (2, p.2)) ++ [(1, d.tag)])

/-- The register of an image. -/
def distOf (v : Nat) : Dist :=
  { pts := (List.range 64).map (fun i => (fieldB v (4 * i) 4, fieldB v (256 + 2 * i) 2)), tag := fieldB v 384 1 }

end Sys2Proof.Machine
end

