-- ==== Sys2Proof/Machine/Xlat.lean ====
section
/-!
DEFINITION. Two-stage translation (R265 to R269): the walk over both stages, what a TLB entry holds, look-up,
permission, and which homes serve the bytes of a page (R266).
-/

namespace Sys2Proof.Machine

/-- A fault of a walk: the stage (0 or 1), whether an entry is malformed, the intermediate address (R304), and the entries read. -/
structure WErr where
  stage : Nat
  bad   : Bool
  ipa   : Nat
  used  : List Nat
  deriving DecidableEq, Repr

/-- A leaf that a walk ends on: its page size and base, its bits, and the entries used. -/
structure Leaf where
  size : Nat
  base : Nat
  bits : Nat
  used : List Nat
  deriving DecidableEq, Repr

/-- The extent of memory that a kind-2 leaf names is populated (R277). -/
def State.tierOk (s : State) (base size : Nat) : Bool :=
  decide (0xC00000000000 ≤ base) && s.devOk base && s.devOk (base + size - 1)

/-- Whether an entry of a level breaks R266; stage-1 entries under stage 2 have no placement fields (R267). -/
def entryBad (s : State) (e : Nat) (level : Nat) (nested : Bool) : Bool :=
  let leaf := bit e 1
  let size := if level = 1 then 2 ^ 30 else if level = 2 then 2 ^ 21 else 2 ^ 16
  let kind := bits e 51 48
  let base := bits e 47 12 * 4096
  bits e 63 60 != 0 || bits e 11 8 != 0 || (leaf && level == 0) || (!leaf && level == 3)
    || (leaf && base % size != 0) || decide (4 ≤ kind) || (kind != 3 && bits e 59 54 != 0)
    || (kind != 1 && bits e 53 52 != 0) || (nested && bits e 59 48 != 0)
    || (leaf && !nested && kind == 2 && !s.tierOk base size)

/-- The physical compute stack of a virtual die (R273). -/
def State.physDie (s : State) (d : Nat) : Nat := bits s.hub.vdiemap (2 * d + 1) (2 * d)

/-- Where the bytes of a page base stand: a kind-1 page's on the stack that its die has now (R267, R274; assumption 84). -/
def State.placeBase (s : State) (b2 base : Nat) : Nat :=
  if bits b2 51 48 = 1 then 2 ^ 48 * (1 + s.physDie (bits b2 53 52)) + base else base

/-- Where the bytes of a leaf's page stand, a peer device's above 2^56 (R266). -/
def State.leafBase (s : State) (l : Leaf) : Nat :=
  if bits l.bits 51 48 = 3 then 2 ^ 56 + bits l.bits 59 54 * 2 ^ 48 + l.base else s.placeBase l.bits l.base

/-- A translation entry read where it stands; a peer device's is free (R153, R266; assumption 14). -/
def State.entryRead (s : State) (a : Nat) : Nat :=
  if 2 ^ 56 ≤ a then ofBytes ((List.range 8).map (fun i => Config.peerByte s.nonce (a - 2 ^ 56 + i))) else s.mem.read a 8

/-- Shift of the index of a level (R266). -/
def levelShift (level : Nat) : Nat := [39, 30, 21, 16].getD level 16

/-- A walk from a table at a level, n levels left; rd turns a table's address into a device address. -/
def walkFrom (s : State) (rd : Nat → Except WErr (Nat × List Nat)) (stage : Nat) (nested : Bool) (a : Nat) :
    Nat → Nat → Nat → List Nat → Except WErr Leaf
  | 0, _, _, used => .error { stage := stage, bad := true, ipa := if stage = 1 then a else 0, used := used }
  | n + 1, level, table, used => do
    let at_ ← (rd table).mapError (fun f => { f with used := f.used ++ used })
    let idx := a / 2 ^ levelShift level % (if level = 3 then 32 else 512)
    let ea := at_.1 + 8 * idx
    let e := s.entryRead ea
    let used := ea :: (at_.2 ++ used)
    if !bit e 0 then .error { stage := stage, bad := false, ipa := if stage = 1 then a else 0, used := used }
    else if entryBad s e level nested then .error { stage := stage, bad := true, ipa := if stage = 1 then a else 0, used := used }
    else
      if bit e 1 then .ok { size := 2 ^ levelShift level, base := bits e 47 12 * 4096, bits := e, used := used }
      else walkFrom s rd stage nested a n (level + 1) (bits e 47 12 * 4096) used

/-- A walk of stage 2, whose tables stand at device addresses. -/
def walk2 (s : State) (root a : Nat) : Except WErr Leaf :=
  walkFrom s (fun t => .ok (t, [])) 1 false a 4 0 root []

/-- Stage 2 of an intermediate address of a table: where it stands and the entries used. -/
def stage2 (s : State) (root a : Nat) : Except WErr (Nat × List Nat) := do
  let l ← walk2 s root a
  .ok (s.leafBase l + a % l.size, l.used)

/-- A whole translation of a virtual address (R265 to R267). -/
def walkBoth (s : State) (vdev asid root va : Nat) : Except WErr (Tlb × List Nat) :=
  let s2 := (Tab.getD s.hub.s2root vdev 0).toNat
  let mk (l1 : Leaf) (size ipa base b2 : Nat) (rights : Nat) (leaves used : List Nat) (dirty : Bool) : Tlb × List Nat :=
    ({ asid := asid, vdev := vdev, va := va / size * size, size := size, base := s.placeBase b2 base, ipa := ipa
       kind := bits b2 51 48, die := bits b2 53 52, peer := bits b2 59 54, user := bit l1.bits 5
       r := bit rights 2, w := bit rights 3, x := bit rights 4, rights1 := bits l1.bits 4 2
       leaves := leaves, dirty := dirty }, used)
  if bit s2 63 then do
    let r2 := bits s2 47 12 * 4096
    let l1 ← walkFrom s (stage2 s r2) 0 true va 4 0 root []
    let ipa := l1.base + va % l1.size
    let l2 ← (walk2 s r2 ipa).mapError (fun f => { f with used := f.used ++ l1.used })
    let size := min l1.size l2.size
    .ok (mk l1 size (ipa / size * size) ((l2.base + ipa % l2.size) / size * size) l2.bits (l1.bits &&& l2.bits)
      [l1.used.headD 0, l2.used.headD 0] (l1.used ++ l2.used) (bit l1.bits 7 && bit l2.bits 7))
  else do
    let l1 ← walkFrom s (fun t => .ok (t, [])) 0 false va 4 0 root []
    .ok (mk l1 l1.size l1.base l1.base l1.bits l1.bits [l1.used.headD 0] l1.used (bit l1.bits 7))

/-- Peer link of an address (R153). -/
def peerLink (a : Nat) : Nat := bits a 15 13 ^^^ bits a 18 16 ^^^ bits a 21 19

/-- The virtual die whose HBM an entry stands in (R266). -/
def State.entryDie (s : State) (a : Nat) : Option Nat :=
  if !inHbm a then none
  else if a < 2 ^ 48 then some (bits a 15 14)
  else (List.range 4).find? (fun d => 2 ^ 48 * (1 + s.physDie d) ≤ a && a < 2 ^ 48 * (2 + s.physDie d))

/-- The charge of one access to each of these entries (R271). -/
def State.chargeEntries (s : State) (p : Nat) (es : List Nat) : State :=
  s.each es (fun s a => match s.entryDie a with
    | some d => s.charge p (2 + d) 1
    | none => s)

/-- An atomic OR of a bit into entries at their homes (R267, R271); one on a peer device goes over its link. -/
def State.orEntries (s : State) (p : Nat) (es : List Nat) (m : Nat) : State :=
  (s.chargeEntries p es).each es (fun s a =>
    if 2 ^ 56 ≤ a then
      let l := peerLink (a % 2 ^ 48)
      let k := s.hub.links.toList.getD l Link.reset
      let t := s.fresh.2
      if !k.up then s
      else { t with hub := { t.hub with
        links := t.hub.links.setIfInBounds l k.send
        egress := t.hub.egress ++ [.peerAtomic l s.nonce (a - 2 ^ 56) .or 8 m 0] } }
    else s.devWrite a 8 (s.mem.read a 8 ||| m))

/-- ASID of a translation register (R265). -/
def xlatAsid (x : Nat) : Nat := bits x 63 50

/-- Stage-1 root of a translation register (R265). -/
def xlatRoot (x : Nat) : Nat := bits x 47 12 * 4096

/-- The virtual device of a core's partition. -/
def State.vdevOf (s : State) (c : Nat) : Nat := (s.part (s.partOf c)).vdev

/-- The entry of a TLB that serves an address. -/
def tlbHit (l : List Tlb) (asid va : Nat) : Option Tlb :=
  l.find? (fun e => e.asid == asid && decide (e.va ≤ va) && decide (va < e.va + e.size))

/-- The entry that serves an address on a core: its own TLB, else its cluster's (R268). -/
def State.lookup (s : State) (c asid va : Nat) : Option Tlb :=
  match tlbHit (s.core c).l1 asid va with
  | some e => some e
  | none => tlbHit (s.cluster (clusterOf c)).l2 asid va

/-- What an access asks of a page: 0 load, 1 store, 2 atomic, 3 fetch (R304); 4 the hub's read of a kernel
descriptor, which Read or Execute allows (R222). -/
def rightsOk (e : Tlb) (level acc : Nat) : Bool :=
  (e.user || level != 0) && (match acc with
    | 0 => e.r
    | 1 => e.w
    | 2 => e.r && e.w
    | 3 => e.x
    | _ => e.r || e.x)

/-- Whether an access that a page does not allow fails at its stage-1 entry (R267); else stage 2 forbids it. -/
def failsFirst (e : Tlb) (level acc : Nat) : Bool :=
  !rightsOk { e with r := bit e.rights1 0, w := bit e.rights1 1, x := bit e.rights1 2 } level acc

/-- Detail word of PAGE_FAULT and PERM (R304). -/
def pageDetail (stage : Nat) (bad : Bool) (acc : Nat) : Nat := stage + b2n bad * 2 + acc * 4

/-- The outcome of translating the bytes of an access. -/
inductive Xl where
  | ok (segs : List (Nat × Nat)) (es : List Tlb)
  | miss (va : Nat)
  | fault (c : Cause) (detail va ipa : Nat)

/-- The pages under n bytes at an address, as (address, length), at most k of them. -/
def pagesOf (va n : Nat) : Nat → List (Nat × Nat)
  | 0 => []
  | k + 1 =>
    let m := min n (65536 - va % 65536)
    if n = 0 then [] else (va, m) :: pagesOf (va + m) (n - m) k

/-- How a miss is met: by a walk that PAGE_WALK_FILL ends, or within the instruction. -/
def State.entryFor (s : State) (c vdev asid root va : Nat) (now : Bool) : Option (Except WErr Tlb) :=
  match s.lookup c asid va with
  | some e => some (.ok e)
  | none => if now then some ((walkBoth s vdev asid root va).map (·.1)) else none

/-- Translate n bytes of a virtual address for an access (R175, R178, R267). -/
def State.translate (s : State) (c vdev xlat level va n acc : Nat) (now : Bool) : Xl :=
  let go : List (Nat × Nat) → List (Nat × Nat) → List Tlb → Xl := fun ps =>
    ps.foldr (fun (p : Nat × Nat) (k : List (Nat × Nat) → List Tlb → Xl) => fun segs es =>
      match s.entryFor c vdev (xlatAsid xlat) (xlatRoot xlat) p.1 now with
      | none => .miss p.1
      | some (.error w) => .fault .pageFault (pageDetail w.stage w.bad acc) p.1 w.ipa
      | some (.ok e) =>
        if rightsOk e level acc then k (segs ++ [(e.base + (p.1 - e.va), p.2)]) (es ++ [e])
        else if failsFirst e level acc then .fault .perm (pageDetail 0 false acc) p.1 0
        else .fault .perm (pageDetail 1 false acc) p.1 (e.ipa + (p.1 - e.va))) (fun segs es => .ok segs es)
  go (pagesOf va n (n / 65536 + 2)) [] []

/-- The virtual stack and pseudo-channel that serve a byte (R266): 64 × stack + channel, or one for each CXL port. -/
def homeOf (e : Tlb) (a : Nat) : Nat :=
  match e.kind with
  | 0 => bits a 15 13 * 64 + bits a 21 16
  | 1 => (e.die * 2 + bits a 13 13) * 64 + bits a 19 14
  | _ => 512 + (a - 0xC00000000000) / 0x40000000000

/-- The die of a home agent; the tier hangs on the hub (R8), given as 4. -/
def homeDie (h : Nat) : Nat := if h < 512 then h / 128 else 4

/-- The Dirty bit set in the leaves of a page before its first write (R267). -/
def State.setDirty (s : State) (c p : Nat) (es : List Tlb) : State :=
  s.each es (fun s e =>
    if e.dirty then s
    else if 1536 ≤ c then s.orEntries p e.leaves 128
    else
      let s := s.orEntries p e.leaves 128
      let on (l : List Tlb) := l.map (fun f => if f.asid == e.asid && f.va == e.va && f.size == e.size then { f with dirty := true } else f)
      let s := s.setCore c { s.core c with l1 := on (s.core c).l1 }
      s.setCluster (clusterOf c) { s.cluster (clusterOf c) with l2 := on (s.cluster (clusterOf c)).l2 })

/-- An entry put first in a TLB of n entries. -/
def tlbAdd (n : Nat) (e : Tlb) (l : List Tlb) : List Tlb :=
  (e :: l.filter (fun f => !(f.asid == e.asid && f.va == e.va && f.size == e.size))).take n

/-- Fill both TLBs of a core with a translation, Accessed set in every entry used and the walk's accesses charged (R267, R268,
R271). -/
def State.fill (s : State) (c : Nat) (e : Tlb) (used : List Nat) : State :=
  let s := (s.chargeEntries (s.partOf c) used).orEntries (s.partOf c) used 64
  let s := s.setCore c { s.core c with l1 := tlbAdd 128 e (s.core c).l1 }
  s.setCluster (clusterOf c) { s.cluster (clusterOf c) with l2 := tlbAdd 4096 e (s.cluster (clusterOf c)).l2 }

/-- Whether an invalidation matches an entry (R296). -/
def invMatches (v : Inval) (e : Tlb) : Bool :=
  let at_ (b : Nat) := decide (b ≤ v.addr / 65536 * 65536) && decide (v.addr / 65536 * 65536 < b + e.size)
  match v.kind with
  | 0 => e.asid == v.asid && at_ e.va
  | 1 => e.asid == v.asid
  | 2 => e.vdev == v.vdev && at_ e.ipa
  | 3 => e.vdev == v.vdev
  | _ => true

/-- Whether a core lies in the scope of an invalidation (R296): 2 core, 3 cluster, 4 die, 5 package. -/
def invCovers (v : Inval) (c : Nat) : Bool :=
  match v.scope with
  | 2 => c == v.core
  | 3 => clusterOf c == clusterOf v.core
  | 4 => dieOf c == dieOf v.core
  | _ => true

/-- The core's own TLB filled from its cluster's (R268). -/
def State.fillFirst (s : State) (c : Nat) (e : Tlb) : State :=
  s.setCore c { s.core c with l1 := tlbAdd 128 e (s.core c).l1 }

/-- Whether a walker of a die is free: it has 64 (R268). -/
def State.walkerFree (s : State) (d : Nat) : Bool :=
  decide ((s.walks.filter (fun w => w.taken && w.fault.isNone && dieOf w.core == d)).length < 64)

/-- The walk that a free walker of a die takes: round-robin among partitions, and of one partition the oldest (R268). -/
def State.nextWalk (s : State) (d : Nat) : Option Walk :=
  let last := s.hub.walkTurn.toList.getD d 0
  let turn (w : Walk) : Nat := (w.part + 255 - last) % 256
  (s.walks.filter (fun w => !w.taken && dieOf w.core == d)).foldl (fun (m : Option Walk) w => match m with
    | some v => if turn w < turn v then some w else some v
    | none => some w) none

/-- A walker that has become free takes the next walk (R268). -/
def State.takeWalk (s : State) (d : Nat) : State :=
  match s.nextWalk d with
  | some w =>
    if s.walkerFree d then
      { s with walks := s.walks.map (fun v => if v.id == w.id then { v with taken := true } else v)
               hub := { s.hub with walkTurn := s.hub.walkTurn.setIfInBounds d w.part } }
    else s
  | none => s

/-- Start a walk for a context that missed, once a walker of its die takes it (R268). -/
def State.startWalk (s : State) (c x va : Nat) (fetch pref : Bool) : State :=
  let k := s.ctx c x
  let (n, s) := s.fresh
  State.takeWalk (d := dieOf c)
  { s with walks := s.walks ++ [{ id := n, core := c, ctx := x, born := k.born, asid := xlatAsid k.xlat.toNat
                                  root := xlatRoot k.xlat.toNat, va := va, part := s.partOf c, seq := s.hub.invSeq
                                  fetch := fetch, fault := none, pref := pref, taken := false }] }

/-- A walk of the context that has ended with a fault at an address: its stage, kind and intermediate address. -/
def State.walkFault (s : State) (c x va : Nat) : Option (Nat × Nat × Nat) :=
  (s.walks.find? (fun w => w.core == c && w.ctx == x && w.fault.isSome && w.va / 65536 == va / 65536)).bind (·.fault)

/-- Forget the ended walks of a context. -/
def State.dropWalks (s : State) (c x : Nat) : State :=
  { s with walks := s.walks.filter (fun w => !(w.core == c && w.ctx == x && w.fault.isSome)) }

end Sys2Proof.Machine
end

