-- ==== Sys2Proof/Machine/Access.lean ====
section
/-!
DEFINITION. Memory accesses: the checks of R174, R175 and R178, the issue of an access by space (R179), its journey
and performance at the home (R129, R137, R144, R145), its refusal and its end (R138, R161).
-/

namespace Sys2Proof.Machine

/-- What a tagged pointer reaches (R174). -/
inductive Tgt where
  | glb (va : Nat)
  | win (slot off : Nat)
  | rem (core slot off : Nat)
  | host (a : Nat)
  | shape (off : Nat)
  deriving DecidableEq, Repr

/-- The record of the launch whose unit a core runs, or zero. -/
def State.recordOf (s : State) (c : Nat) : Nat := ((s.launchOf c).map (·.bytes)).getD 0

/-- Resolve a pointer under R174; none breaks it. -/
def State.resolve (s : State) (c : Nat) (p : Nat) : Option Tgt :=
  let own := bits p 59 48
  let off := bits p 47 0
  match bits p 63 60 with
  | 0 => if own = 0 then some (.glb off) else none
  | 1 => if own = 0 && off < 0x200000 then some (.win (off / 65536) (off % 65536)) else none
  | 2 =>
    if bits own 11 4 < 192 && !bit own 0 && off < 0x200000 then
      some (.rem (coreIn (bits own 11 4) (bits own 3 1)) (off / 65536) (off % 65536))
    else none
  | 3 => if own = 0 then some (.host off) else none
  | 4 => if own = 0 && off < fieldB (s.recordOf c) 16 4 then some (.shape off) else none
  | _ => none

/-- A pointer with a displacement added to its offset (R26, R64); none leaves 0 to 2^48 − 1. -/
def displace (w : Nat) (d : Int) : Option Nat :=
  let o : Int := bits w 47 0 + d
  if 0 ≤ o && o < 2 ^ 48 then some (w / 2 ^ 48 * 2 ^ 48 + o.toNat) else none

/-- Whether the permission table of a core's cluster reaches a cluster rank (R262, R263). -/
def State.reaches (s : State) (c rank : Nat) : Bool := bit (s.cluster (clusterOf c)).perm rank || rank == clusterOf c

/-- Whether the table lets messages go to the host; the hub's own traffic, named by core 1,536, is not checked (R263). -/
def State.hostOk (s : State) (c : Nat) : Bool := decide (1536 ≤ c) || bit (s.cluster (clusterOf c)).perm 192

/-- Whether the table lets messages use a Silkenor link. -/
def State.linkOk (s : State) (c n : Nat) : Bool := decide (1536 ≤ c) || bit (s.cluster (clusterOf c)).perm (193 + n)

/-! ### Atomics (R183, R184) -/

/-- The new value that an atomic writes. -/
def atmNew (op : AtmOp) (t : ETy) (md : RMode) (old c c2 : Nat) : Nat :=
  let w := 2 ^ ETy.w t
  let c := c % w
  let rnd : Rnd := { mode := md, sat := false, ovt := 0, conv := false }
  match op with
  | .add => (old + c) % w
  | .and => old &&& c
  | .or => old ||| c
  | .xor => old ^^^ c
  | .min => minE t old c
  | .max => maxE t old c
  | .fadd => addF t rnd old c
  | .swap => c
  | .cas => if old = c then c2 % w else old
  | .incb => if intOf t old < intOf t c then (old + 1) % w else old

/-! ### Registers written by loads (R56, R58) -/

/-- The register of a load or an atomic takes its value. -/
def State.putReg (s : State) (c x : Nat) (r : Reg) (t : ETy) (v : Nat) : State :=
  let k := s.ctx c x
  match r with
  | .s i => s.setCtx c x (k.ws (BitVec.ofNat 5 i) (widen t v))
  | .v i => s.setCtx c x (k.wv (BitVec.ofNat 4 i) (BitVec.ofNat 512 v))
  | .p i => s.setCtx c x (k.wp (BitVec.ofNat 3 i) (BitVec.ofNat 64 v))
  | .d i => s.setCore c { s.core c with d := (s.core c).d.setIfInBounds i (distOf v) }

/-- A register written after its instruction; its first write in a step counts (R312). -/
def State.writeReg (s : State) (c x : Nat) (r : Reg) (t : ETy) (v : Nat) : State := (s.countUnits c x [r]).putReg c x r t v

/-- The local loads of a core that are due are written (R58), but not under an instruction under way, which has read its
registers. -/
def State.returnDue (s : State) (c : Nat) : State :=
  let k := s.core c
  let now (l : Load) : Bool := l.exposed && decide (l.due ≤ k.cc) && (s.ctx c l.ctx).mid.isNone
  let due := k.loads.filter now
  let s := s.setCore c { k with loads := k.loads.filter (fun l => !now l) }
  s.each due (fun s l => s.writeReg c l.ctx l.reg l.ty (l.val.getD 0))

/-! ### What of a context or core is outstanding (R139) -/

/-- Whether an access is one that the context that stands now under its number has issued itself, on the ls path (R133). -/
def State.owned (s : State) (a : Access) (c x : Nat) : Bool :=
  a.core == c && a.ctx == x && a.born == (s.ctx c x).born && a.path == .ls

/-- Every earlier access of the context has been performed and acknowledged (R139). -/
def State.quiet (s : State) (c x : Nat) : Bool :=
  s.net.all (fun a => !s.owned a c x) && (s.core c).loads.all (fun l => !(l.ctx == x) || l.val.isSome || l.poison.isSome)

/-- Every access of every context of the core and of its matrix unit has been performed and acknowledged, faulted epilogues
aside. -/
def State.coreQuiet (s : State) (c : Nat) : Bool :=
  s.net.all (fun a => a.core != c || !(a.path == .ls || a.path == .mx)) && (s.core c).loads.all (fun l => l.val.isSome || l.poison.isSome)
    && (s.core c).ctxs.all (fun e => !e.2.live || e.2.mid.isNone)

/-- A free journal entry of a core (R138). -/
def State.journalSlot (s : State) (c : Nat) : Option Nat := freeSlot (s.core c).journal 0 32

/-- A journal entry taken. -/
def State.takeJournal (s : State) (c e : Nat) : State :=
  s.setCore c { s.core c with journal := insertSet e (s.core c).journal }

/-- A journal entry freed. -/
def State.freeJournal (s : State) (c : Nat) (e : Option Nat) : State :=
  match e with
  | some i => s.setCore c { s.core c with journal := (s.core c).journal.filter (· != i) }
  | none => s

/-- The slot keys and homes at which an access is performed; a peer's home agents are numbered as this device's (R153, R266). -/
def Dest.keys : Dest → List Nat
  | .slot c sl _ => [2 ^ 20 + c * 32 + sl]
  | .dev _ hs => hs
  | .peer d a _ => [2 ^ 30 + d * 2 ^ 10 + bits a 15 13 * 64 + bits a 21 16]
  | .host _ => [2 ^ 40]

/-- The byte runs of a destination in one numbering of all locations. -/
def Dest.runs (n : Nat) : Dest → List (Nat × Nat)
  | .slot c sl o => [(2 ^ 60 + (c * 32 + sl) * 65536 + o, n)]
  | .dev ss _ => ss
  | .peer d a _ => [(2 ^ 62 + d * 2 ^ 48 + a, n)]
  | .host a => [(2 ^ 61 + a, n)]

/-- Whether two sets of byte runs overlap. -/
def runsMeet (a b : List (Nat × Nat)) : Bool :=
  a.any (fun p => b.any (fun q => decide (p.1 < q.1 + q.2) && decide (q.1 < p.1 + p.2)))

/-- Whether a core has an access on a path under way to a bank. -/
def State.bankBusy (s : State) (c : Nat) (path : Path) (pkg : Nat) : Bool :=
  s.net.any (fun a => a.core == c && a.path == path && (match a.dest with
    | .slot d sl _ => s.slotBank d sl == some pkg
    | _ => false))

/-! ### Bank accesses (R129, R161) -/

/-- The bank in a slot, or the cause that meets an access through it (R161). -/
def State.openSlot (s : State) (c slot : Nat) : Except Cause Nat :=
  match s.slotBank c slot with
  | none => .error .bankDetached
  | some pkg => if (s.core c).frozen.contains slot then .error .bankFrozen else .ok pkg

/-- The bank in a slot of a core, or the cause, for an access on behalf of a unit: what a unit of its own launch that is switched out
of the core holds there, whatever the core runs now (R259). -/
def State.openFor (s : State) (u : Option (Nat × Nat)) (c slot : Nat) : Except Cause Nat :=
  match (if (s.core c).unit == u then none else s.parkedOf u c) with
  | none => s.openSlot c slot
  | some (_, p) => match Tab.get? p.banks slot with
    | none => .error .bankDetached
    | some b =>
      let h := s.hitch b
      if h.holder != c || h.slot != slot || !(h.st == .hitched || h.st == .frozen) then .error .bankDetached
      else if h.st == .frozen then .error .bankFrozen
      else .ok b

/-- The banks draining from a slot (R163), with the number of the `bhand` that handed each away. -/
def State.drains (s : State) (c slot : Nat) : List (Nat × Nat) :=
  s.liveBanks.filterMap (fun pkg =>
    let h := s.hitch pkg
    if h.st == .draining && h.holder == c && h.slot == slot then some (h.order, pkg) else none)

/-- Those that a unit has handed away. -/
def State.drainsOf (s : State) (u : Option (Nat × Nat)) (c slot : Nat) : List (Nat × Nat) :=
  (s.drains c slot).filter (fun d => (s.hitch d.2).owner == u)

/-- The bank that an access through a slot meets on behalf of a unit (R161, R163, R164): what the slot holds; before the hand-over point,
the draining bank for the holder's accesses begun before the `bhand`, and for others' while the slot is empty. -/
def State.bankForUnit (s : State) (u : Option (Nat × Nat)) (who c slot stamp : Nat) : Except Cause Nat :=
  let ds := s.drains c slot
  let old := ((s.drainsOf u c slot).filter (fun d => decide (stamp < d.1))).foldl
    (fun (m : Option (Nat × Nat)) d => match m with
      | some e => if d.1 < e.1 then some d else some e
      | none => some d) none
  match (if who = c then old else none) with
  | some d => .ok d.2
  | none => match s.openFor u c slot, ds with
    | .error .bankDetached, d :: _ => if who = c then .error .bankDetached else .ok d.2
    | r, _ => r

/-- The bank that an access of a core meets through a slot, on behalf of the unit that it runs. -/
def State.bankFor (s : State) (who c slot stamp : Nat) : Except Cause Nat :=
  s.bankForUnit (s.core who).unit who c slot stamp

/-- Perform an access at a bank: the value read and the state after. -/
def State.atBank (s : State) (pkg off : Nat) (k : AKind) (n data : Nat) : Nat × State :=
  match k with
  | .load => (s.bankRead pkg off n, s)
  | .store => (0, s.bankWrite pkg off n data)
  | .atomic op t md c c2 =>
    let old := s.bankRead pkg off n
    (old, s.bankWrite pkg off n (atmNew op t md old c c2))

/-- A value read from runs of device memory. -/
def State.readSegs (s : State) : List (Nat × Nat) → Nat
  | [] => 0
  | (a, n) :: r => s.mem.read a n + 256 ^ n * State.readSegs s r

/-- A value written to runs of device memory. -/
def State.writeSegs (s : State) : List (Nat × Nat) → Nat → State
  | [], _ => s
  | (a, n) :: r, v => State.writeSegs (s.devWrite a n (v % 256 ^ n)) r (v / 256 ^ n)

/-- Perform an access at its home agent. -/
def State.atHome (s : State) (segs : List (Nat × Nat)) (k : AKind) (data : Nat) : Nat × State :=
  match k with
  | .load => (s.readSegs segs, s)
  | .store => (0, s.writeSegs segs data)
  | .atomic op t md c c2 =>
    let old := s.readSegs segs
    (old, s.writeSegs segs (atmNew op t md old c c2))

/-! ### Issue -/

/-- What an instruction asks of memory. -/
structure MemReq where
  spaces : List Nat
  base   : Word
  disp   : Int
  kind   : AKind
  size   : Nat
  align  : Nat
  data   : Nat
  scope  : Option Scope
  acq    : Bool
  rel    : Bool
  reg    : Option Reg
  ty     : ETy

/-- Whether a request writes. -/
def MemReq.writes (q : MemReq) : Bool := match q.kind with | .load => false | _ => true

/-- Access code of a request (R304). -/
def MemReq.acc (q : MemReq) : Nat := match q.kind with | .load => 0 | .store => 1 | .atomic .. => 2

/-! ### Aligned parts (R129, R178) -/

/-- One aligned part of an access: its offset in it, its size, where it goes, and whether its way leads through a bridge or
a link buffer (R144, R153). -/
structure Cut where
  at_   : Nat
  size  : Nat
  dest  : Dest
  cross : Bool
  deriving DecidableEq, Repr

/-- The size of the largest aligned part at an address with n bytes left: a line, or 8, 4, 2 or 1 bytes (R129). -/
def partSize (a n : Nat) : Nat :=
  if a % 64 = 0 && 64 ≤ n then 64
  else if a % 8 = 0 && 8 ≤ n then 8
  else if a % 4 = 0 && 4 ≤ n then 4
  else if a % 2 = 0 && 2 ≤ n then 2
  else 1

/-- The aligned parts of n bytes at an address, as offset and size, at most k (R129). -/
def partsOf (a : Nat) : Nat → Nat → Nat → List (Nat × Nat)
  | 0, _, _ => []
  | k + 1, o, n =>
    if n = 0 then []
    else
      let m := partSize (a + o) n
      (o, m) :: partsOf a k (o + m) (n - m)

/-- The translated address of a byte of an access, by its offset, with its page's entry. -/
def byteAt : List ((Nat × Nat) × Tlb) → Nat → Option (Nat × Tlb)
  | [], _ => none
  | (p, e) :: r, o => if o < p.2 then some (p.1 + o, e) else byteAt r (o - p.2)

/-- The aligned parts of a translated access of core c. The CXL tier, whose home is the hub, counts as another die for the bridge buffer
(R8, R145; assumption 113). -/
def cutsOf (c va n : Nat) (segs : List ((Nat × Nat) × Tlb)) : List Cut :=
  (partsOf va n 0 n).filterMap (fun p => (byteAt segs p.1).map (fun b =>
    if b.2.kind = 3 then { at_ := p.1, size := p.2, dest := .peer b.2.peer b.1 (peerLink b.1), cross := true }
    else { at_ := p.1, size := p.2, dest := .dev [(b.1, p.2)] [homeOf b.2 b.1], cross := homeDie (homeOf b.2 b.1) != dieOf c }))

/-- The aligned parts of an access whose destination follows from the offset. -/
def cutsTo (va n : Nat) (cross : Bool) (f : Nat → Dest) : List Cut :=
  (partsOf va n 0 n).map (fun p => { at_ := p.1, size := p.2, dest := f p.1, cross := cross })

/-- Whether an open transaction of the context forbids the parts of a space-0 access (R189). -/
def State.undeclared (s : State) (cs : List Cut) (writes : Bool) : Bool :=
  let k := s.me
  k.ticket.isSome && (!k.txOpen || cs.any (fun c => match c.dest with
    | .dev segs hs =>
      !k.claims.any (fun e => e.1 == hs.headD 0 * 2 ^ 48 + (segs.headD (0, 0)).1 % 2 ^ 48 / 256 * 256 && (e.2 || !writes))
    | _ => true))

/-! ### Issue of an access -/

/-- Whether a request returns its value before the context goes on: a refusal is then precise (R161, R185). -/
def MemReq.blocks (q : MemReq) (t : Tgt) : Bool :=
  match q.kind with
  | .load => q.acq || (match t with | .rem .. | .host _ => true | _ => false)
  | .store => false
  | .atomic .. => !(q.reg == some (.s 0) && q.scope.isNone)

/-- Whether a part goes to a peer device. -/
def Cut.toPeer (c : Cut) : Bool := match c.dest with | .peer .. => true | _ => false

/-- Put the parts of an access on their way (R129, R137, R138): posted with one journal entry, with a pending register, or
waited for; an image (R117), and a store without a journal entry, is waited for. -/
def State.launchAccess (s : State) (q : MemReq) (t : Tgt) (cs : List Cut) (p asid : Nat) : Res :=
  let blocks := q.blocks t || (q.kind == .load && (cs.any Cut.toPeer || q.size == 512)) || (match t with | .win .. => true | _ => false)
  let posted := q.kind != .load && !blocks
  match (if posted then s.journalSlot s.cur else some 0) with
  | none => .hold
  | some e =>
    let g := s.nonce
    let part (c : Cut) (i : Nat) : Access :=
      { id := g + i, core := s.cur, ctx := s.curCtx, born := s.me.born, path := .ls, kind := q.kind, dest := c.dest
        size := c.size, data := q.data / 256 ^ c.at_ % 256 ^ c.size, jrn := if posted then some e else none, pc := s.me.pc
        va := p, crossDie := c.cross, performed := false, value := 0, refused := none, release := q.rel
        part := s.partOf s.cur, asid := asid, since := s.time, group := g, at_ := c.at_, got := 0, bridged := none
        told := false }
    let s : State := { s with net := s.net ++ (cs.zip (List.range cs.length)).map (fun c => part c.1 c.2)
                              nonce := g + cs.length }
    let s := if posted then s.takeJournal s.cur e else s
    let s : State := match posted, q.reg with
      | false, some r => s.setMycore { s.mycore with loads := s.mycore.loads ++
          [{ id := g, ctx := s.curCtx, reg := r, ty := q.ty, val := none, due := 0, exposed := false }] }
      | _, _ => s
    if blocks then .wait (s.setMe { s.me with wait := .access g }) else .done s

/-- Translate for an instruction of a context: a miss starts a walk that the context waits for, and an ended walk's
fault is raised (R175, R268). -/
def State.withPages (s : State) (va n acc xlat level : Nat) (k : List (Nat × Nat) → List Tlb → Res) : Res :=
  let c := s.cur
  let bad (a : Nat) (f : Nat × Nat × Nat) : Res :=
    (s.dropWalks c s.curCtx).raiseW .pageFault (pageDetail f.1 (f.2.1 == 1) acc) a f.2.2
  match s.translate c (s.vdevOf c) xlat level va n acc false with
  | .miss a => match s.walkFault c s.curCtx a with
    | some f => bad a f
    | none =>
      let s := s.startWalk c s.curCtx a false false
      .wait (s.setMe { s.me with wait := .walk })
  | .fault cs dt a ipa => s.raiseW cs dt a ipa
  | .ok segs es => k segs es

/-- What keeps the parts of a translated access from leaving: a Silkenor link that its table does not allow (R263), an
address that does not exist, an undeclared slice (R189), or, for a read, an absent die or an uncorrectable error. -/
def State.partsOk (s : State) (tx : Bool) (p va acc : Nat) (cs : List Cut) (bad : Bool) (k : Res) : Res :=
  let c := s.cur
  let barred (x : Cut) : Bool := match x.dest with | .peer _ _ l => !s.linkOk c l | _ => false
  let gone (x : Cut) : Bool := match x.dest with | .dev segs _ => segs.any (fun g => !s.devOk g.1) | _ => false
  let away (x : Cut) : Bool := match x.dest with | .dev _ hs => hs.any (fun h => s.hub.absent.contains (homeDie h)) | _ => false
  let rotten (x : Cut) : Bool := match x.dest with | .dev segs _ => segs.any (fun g => s.memBad g.1 g.2) | _ => false
  match cs.find? barred with
  | some x => s.raiseW .perm (pageDetail 0 false acc) (va + x.at_) 0
  | none =>
    match cs.find? gone with
    | some x => .stop (.noSuchMemory (match x.dest with | .dev segs _ => (segs.headD (0, 0)).1 | _ => 0))
    | none =>
      if tx && s.undeclared cs (acc != 0) then s.raiseAt p .txUndeclared
      else if acc = 1 then k
      else match cs.find? away with
        | some x => s.raiseAt p .dieAbsent (match x.dest with | .dev _ hs => homeDie (hs.headD 0) % 4 | _ => 0)
        | none => if bad && cs.any rotten then s.raiseAt p .uncorrectable else k

/-- A space-0 or space-4 access after its pointer checks. -/
def State.globalAccess (s : State) (q : MemReq) (t : Tgt) (p va xlat level : Nat) : Res :=
  if 2 ^ 48 < va + q.size then s.raiseAt p .illegalPointer
  else s.withPages va q.size q.acc xlat level (fun segs es =>
    let cs := cutsOf s.cur va q.size (segs.zip es)
    s.partsOk (match t with | .glb _ => true | _ => false) p va q.acc cs (q.size != 512)
      ((if q.writes then (s.setDirty s.cur (s.partOf s.cur) es).noRoll s.cur else s).launchAccess q t cs p (xlatAsid xlat)))

/-- The end of a space-1 access whose value is v: a relaxed load's register is exposed (R58). -/
def State.windowEnd (s : State) (q : MemReq) (v : Nat) : Res :=
  match q.kind, q.reg with
  | .load, some g =>
    if q.acq then .done (s.putReg s.cur s.curCtx g q.ty v)
    else .done (s.setMycore { s.mycore with loads := s.mycore.loads ++
      [{ id := s.nonce, ctx := s.curCtx, reg := g, ty := q.ty, val := some v, due := s.mycore.cc + 4, exposed := true }] })
  | .atomic .., some g => .done (s.putReg s.cur s.curCtx g q.ty v)
  | _, _ => .done s

/-- A space-1 access: performed from its issue on in the bank's arrival order (R137, R179), one aligned part after another (R129). -/
def State.windowAccess (s : State) (q : MemReq) (p slot off : Nat) : Res :=
  let m := s.midway
  let parts := partsOf off q.size 0 q.size
  match (if s.me.mid.isNone then s.openSlot s.cur slot else s.bankFor s.cur s.cur slot m.stamp) with
  | .error c => s.raiseAt p c slot
  | .ok pkg =>
    let o := (parts.getD m.done (0, q.size)).1
    let n := (parts.getD m.done (0, q.size)).2
    if s.me.mid.isNone && s.bankBusy s.cur .ls pkg then .hold
    else if (q.kind != .store) && s.bankBad pkg (off + o) n then s.raiseAt p .uncorrectable
    else
      let r := s.atBank pkg (off + o) q.kind n (q.data / 256 ^ o % 256 ^ n)
      let got := m.got + 256 ^ o * r.1
      if m.done + 1 < parts.length then r.2.stepMid m got else r.2.windowEnd q got

/-- Whether an ordering form must still wait for the context's earlier accesses (R139). -/
def State.mustWait (s : State) (q : MemReq) : Bool := q.rel && !s.quiet s.cur s.curCtx

/-- A load, store or atomic of a context in the order of R175. A read of space 4 is translated with the rights of L1, whatever its
context's level (R174; assumption 106). -/
def State.memOp (s : State) (q : MemReq) : Res :=
  let c := s.cur
  let wr := q.writes
  match displace q.base.toNat q.disp with
  | none => s.raiseStray
  | some p =>
    if s.me.unresolved.isSome && (wr || bits p 63 60 == 2 || bits p 63 60 == 3) then .hold
    else if wr && bits p 63 60 = 4 then s.raiseAt p .perm (pageDetail 0 false q.acc)
    else if !q.spaces.contains (bits p 63 60) then s.raiseAt p .illegalPointer
    else match s.resolve c p with
      | none => s.raiseAt p .illegalPointer
      | some t =>
        match t with
        | .glb va =>
          if va % q.align != 0 then s.raiseAt p .misalign
          else if s.mustWait q then .hold
          else s.globalAccess q t p va s.me.xlat.toNat s.me.level
        | .shape off =>
          if off % q.size != 0 then s.raiseAt p .misalign
          else s.globalAccess q t p (bits (fieldB (s.recordOf c) 8 8) 47 0 + off) s.me.xlat.toNat 1
        | .win slot off =>
          if off % q.align != 0 || decide (65536 < off + q.size) then s.raiseAt p .misalign
          else if s.mustWait q then .hold
          else if q.size = 512 then
            (match s.openSlot c slot with
            | .error e => s.raiseAt p e slot
            | .ok _ => s.launchAccess q t (cutsTo off 512 false (fun o => .slot c slot (off + o))) p 0)
          else s.windowAccess q p slot off
        | .rem d slot off =>
          if !s.reaches c (clusterOf d) then s.raiseAt p .perm (pageDetail 0 false q.acc)
          else if off % q.align != 0 || decide (65536 < off + q.size) then s.raiseAt p .misalign
          else if s.mustWait q then .hold
          else
            let s := if wr && !((s.launchOf c).map (s.inTeam · d)).getD true then s.noRoll c else s
            if wr || !s.hub.absent.contains (dieOf d) then
              s.launchAccess q t (cutsTo off q.size (dieOf d != dieOf c) (fun o => .slot d slot (off + o))) p 0
            else s.raiseAt p .dieAbsent (dieOf d)
        | .host a =>
          if q.scope.isSome && q.scope != some .sys then s.raise .illegal
          else if a % q.align != 0 then s.raiseAt p .misalign
          else if !s.hostOk c then s.raiseAt p .perm (pageDetail 0 false q.acc)
          else
            match q.kind with
            | .atomic op ty _ _ _ =>
              let code := match op with | .add => 0 | .swap => 1 | .cas => 2 | _ => 3
              if code = 3 || !ty.isAtm || !Config.hostAtomic code ty.size then s.raiseAt p .hostAtomicUnsupported
              else if s.mustWait q then .hold
              else (s.noRoll c).launchAccess q t (cutsTo a q.size false (fun o => .host (a + o))) p 0
            | _ =>
              if s.mustWait q then .hold
              else (if wr then s.noRoll c else s).launchAccess q t (cutsTo a q.size false (fun o => .host (a + o))) p 0

/-! ### The journey of an access -/

/-- Whether a partition's balance for a die's HBM lets it go first (R271). -/
def State.funded (s : State) (p die : Nat) : Bool :=
  let a := ((s.part p).allow.toList.getD (2 + die) Allow.reset)
  !a.metered || decide (0 < a.balance)

/-- Whether a home agent serves a partition's request now: one that is funded, or one that no funded request waits before (R271). -/
def State.firstAt (s : State) (p h : Nat) : Bool :=
  512 ≤ h || s.funded p (homeDie h)
    || s.net.all (fun b => b.performed || b.refused.isSome || !(b.dest.keys.contains h && s.funded b.part (homeDie h)))

/-- The buffer that an access to another die or device passes: its die's bridge, or the hub's link buffer, given as 4
(R145, R153). -/
def Access.buffer (a : Access) : Nat := match a.dest with | .peer .. => 4 | _ => dieOf a.core

/-- The stores and atomics in its buffer that a load overlaps (R145). -/
def State.bridgeStores (s : State) (a : Access) : List Access :=
  s.net.filter (fun b => b.kind != .load && b.bridged.isSome && b.refused.isNone && b.buffer == a.buffer
    && runsMeet (b.dest.runs b.size) (a.dest.runs a.size))

/-- The one that entered its buffer last. -/
def youngest (bs : List Access) : Option Access :=
  bs.foldl (fun (m : Option Access) b => match m with
    | some c => if c.bridged.getD 0 < b.bridged.getD 0 then some b else some c
    | none => some b) none

/-- The bytes of a load taken from a store that covers it, and is not followed by a younger one that has left; none where they are not
to be taken. -/
def forwardFrom (a b : Access) : Option Nat :=
  match a.dest.runs a.size, b.dest.runs b.size with
  | [(p, n)], [(q, m)] =>
    if b.kind == .store && !b.stale && q ≤ p && p + n ≤ q + m then some (b.data / 256 ^ (p - q) % 256 ^ n) else none
  | _, _ => none

/-- Whether every earlier access of an access's core, path and destination has gone before it (R133, R137). -/
def State.inTurn (s : State) (a : Access) : Bool :=
  s.net.all (fun b => !(decide (b.id < a.id) && b.core == a.core && b.path == a.path && !b.performed
    && b.refused.isNone && (a.bridged.isSome || b.bridged.isNone) && b.dest.keys.any a.dest.keys.contains))

/-- Whether every message that entered a buffer earlier has left it for the destination (R145). -/
def State.bufferTurn (s : State) (a : Access) : Bool :=
  s.net.all (fun b => !(b.bridged.isSome && decide (b.bridged.getD 0 < a.bridged.getD 0) && !b.performed
    && b.refused.isNone && b.buffer == a.buffer && b.dest.keys.any a.dest.keys.contains))

/-- Whether the replay buffer of a link, of 4,096 flits, has room (R279). -/
def State.linkRoom (s : State) (l : Nat) : Bool := decide ((s.hub.links.toList.getD l Link.reset).replay.length < 4096)

/-- Whether an access may be performed now: arrival order per core, path and destination (R133, R137), the order of its
buffer (R145), and the service order of allowances. -/
def State.mayArrive (s : State) (a : Access) : Bool :=
  !a.performed && a.refused.isNone && (!a.crossDie || a.bridged.isSome) && s.inTurn a && (a.bridged.isNone || s.bufferTurn a)
    && (match a.dest with
      | .dev _ hs => hs.all (s.firstAt a.part)
      | .peer _ _ l => s.linkRoom l
      | _ => true)

/-- An access replaced in the network. -/
def State.setAccess (s : State) (a : Access) : State := { s with net := s.net.map (fun b => if b.id == a.id then a else b) }

/-- An access removed from the network. -/
def State.dropAccess (s : State) (id : Nat) : State := { s with net := s.net.filter (·.id != id) }

/-- Whether an access is a line of an image that `dld` reads: what its bytes hold is checked when all have come (R117). -/
def State.isImage (s : State) (a : Access) : Bool :=
  (s.core a.core).loads.any (fun l => l.id == a.group && (match l.reg with | .d _ => true | _ => false))

/-- Whether a bridge that an access to another die passes has failed (R205, R283). -/
def State.cutOff (s : State) (a : Access) : Bool :=
  a.crossDie && (s.hub.failed.contains (dieOf a.core) || (match a.dest with
    | .slot d _ _ => s.hub.failed.contains (dieOf d)
    | .dev _ hs => hs.any (fun h => s.hub.failed.contains (homeDie h))
    | _ => false))

/-- An access performed or refused at its destination (R129, R149, R161). -/
def State.performAt (s : State) (a : Access) : State :=
  if s.cutOff a then s.setAccess { a with refused := some 0x11 }
  else match a.dest with
  | .slot d sl off =>
    if s.hub.absent.contains (dieOf d) then s.setAccess { a with refused := some 0x13 }
    else match s.bankFor a.core d sl a.id with
      | .error c => s.setAccess { a with refused := some c.code }
      | .ok pkg =>
        let bad := a.kind != .store && s.bankBad pkg off a.size
        if bad && !s.isImage a then s.setAccess { a with refused := some 0x11 }
        else
          let r := s.atBank pkg off a.kind a.size a.data
          r.2.setAccess { a with performed := true, value := r.1, told := a.told || bad }
  | .dev segs hs =>
    if hs.any (fun h => s.hub.absent.contains (homeDie h)) then s.setAccess { a with refused := some 0x13 }
    else
      let bad := a.kind != .store && segs.any (fun g => s.memBad g.1 g.2)
      if bad && !s.isImage a then s.setAccess { a with refused := some 0x11 }
      else
        let r := s.atHome segs a.kind a.data
        let s := r.2.each (segs.zip hs) (fun s p => if p.2 < 512 then s.charge a.part (2 + homeDie p.2) (cdiv p.1.2 64) else s)
        s.setAccess { a with performed := true, value := r.1, told := a.told || bad }
  | .peer dv p l =>
    let k := s.hub.links.toList.getD l Link.reset
    if k.up then
      let at_ := dv * 2 ^ 48 + p
      let e : Egress := match a.kind with
        | .load => .peerRead l a.id at_ a.size
        | .store => .peerWrite l at_ a.size a.data
        | .atomic op _ _ c c2 => .peerAtomic l a.id at_ op a.size c c2
      State.setAccess { s with hub := { s.hub with
        egress := s.hub.egress ++ [e], links := s.hub.links.setIfInBounds l k.send } } { a with performed := true }
    else s.setAccess { a with refused := some 0x11 }
  | .host p =>
    let e : Egress := match a.kind with
      | .load => .read a.id p a.size
      | .store => .write p a.size a.data (!a.release)
      | .atomic op _ _ c c2 => .atomic a.id p op a.size c c2
    State.setAccess { s with hub := { s.hub with egress := s.hub.egress ++ [e] } } { a with performed := true }

/-- Whether an access may enter its buffer now (R145): a load that overlaps buffered stores only in part waits for them; behind an
atomic, which is never forwarded, it queues. -/
def State.mayEnter (s : State) (a : Access) : Bool :=
  a.crossDie && a.bridged.isNone && !a.performed && a.refused.isNone && s.inTurn a && (a.kind != .load ||
    (match youngest (s.bridgeStores a) with
    | some b => b.kind != .store || (forwardFrom a b).isSome
    | none => true))

/-- An access enters its buffer; a load that a buffered store covers is performed there (R145). -/
def State.enterBuffer (s : State) (a : Access) : State :=
  match (if a.kind == .load then (youngest (s.bridgeStores a)).bind (forwardFrom a) else none) with
  | some v => s.setAccess { a with performed := true, value := v, crossDie := false }
  | none => s.fresh.2.setAccess { a with bridged := some s.nonce }

/-- ACCESS_ARRIVAL: an access enters the buffer on its way, or reaches its destination (R129, R145). -/
def State.arrive (s : State) (a : Access) : State :=
  if s.mayEnter a then s.enterBuffer a else if s.mayArrive a then s.performAt a else s

/-- Whether an arrival changes anything. -/
def State.canArrive (s : State) (a : Access) : Bool := s.mayEnter a || s.mayArrive a

/-- The context goes on after an instruction it waited on, with that instruction's stall count (R20). -/
def State.finishWait (s : State) (c x : Nat) : State :=
  let k := s.ctx c x
  s.setCtx c x { k with pc := (k.pc + 12) % 2 ^ 48, wait := .none, finish := none
                        stall := (s.core c).cc + 1 + k.finish.getD 0 }

/-- A precise trap of a waiting context on its instruction; none where the trap queue is full. -/
def State.trapWaiting (s : State) (c x : Nat) (cause detail va ipa : Nat) : Option State :=
  let k := s.ctx c x
  let s := s.setCtx c x { k with wait := .none, finish := none }
  s.takeTrap c x { cause := cause, detail := detail, resume := k.pc, fpc := k.pc, va := va, ipa := ipa, jrn := none, async := false }

/-- A pending asynchronous trap for a context (R303). -/
def State.pendTrap (s : State) (c x : Nat) (t : Trap) : State :=
  s.setCtx c x { s.ctx c x with traps := (s.ctx c x).traps ++ [t] }

/-- Whether a context is the live one that issued an access. -/
def State.aliveFor (s : State) (a : Access) : Bool := (s.ctx a.core a.ctx).live && (s.ctx a.core a.ctx).born == a.born

/-- The register of a load no longer waits. -/
def State.dropLoad (s : State) (c id : Nat) : State :=
  s.setCore c { s.core c with loads := (s.core c).loads.filter (·.id != id) }

/-- The whole value of an access reaches its register, and a context that waits for it goes on (R58, R131); an image must
be sound (R117). None: its trap cannot be taken yet. -/
def State.deliver (s : State) (a : Access) (v : Nat) : Option State :=
  if !s.aliveFor a then some (s.dropLoad a.core a.group)
  else
    let on (t : State) : State := if (s.ctx a.core a.ctx).wait == .access a.group then t.finishWait a.core a.ctx else t
    match (s.core a.core).loads.find? (·.id == a.group) with
    | none => some (on s)
    | some l =>
      let t := s.dropLoad a.core a.group
      match l.reg with
      | .d _ =>
        if v / 256 ^ 385 != 0 || !(distOf v).sorted then t.trapWaiting a.core a.ctx Cause.illegal.code 0 0 0
        else if a.told then t.trapWaiting a.core a.ctx Cause.uncorrectable.code 0 a.va 0
        else some (on (t.writeReg a.core a.ctx l.reg l.ty v))
      | _ => some (on (t.writeReg a.core a.ctx l.reg l.ty v))

/-- A part's value joins those of its access's other parts, and the last one's gives the whole (R129). -/
def State.giveValue (s : State) (a : Access) (v : Nat) : Option State :=
  let t := s.dropAccess a.id
  let got := a.got + v * 256 ^ a.at_
  match t.net.find? (fun b => b.group == a.group) with
  | some b => some (t.setAccess { b with got := b.got + got, told := b.told || a.told })
  | none => t.deliver a got

end Sys2Proof.Machine
end

