-- ==== Sys2Proof/Machine/Atomic.lean ====
section
/-!
DEFINITION. Class 0x9: bank atomics (R183 to R185).
-/

namespace Sys2Proof.Machine

/-- An atomic's request: C, and for a compare-and-swap the new value in the next register (R183). -/
def State.atmReq (s : State) (op : AtmOp) (x : OpAtm) : MemReq :=
  { spaces := [0, 1, 2, 3], base := s.me.rs x.base, disp := dispBytes x.ty x.disp
    kind := .atomic op x.ty x.rnd (codeS s.me x.ty x.c) (if op == .cas then codeS s.me x.ty (x.c + 1) else 0)
    size := x.ty.size, align := x.ty.size, data := 0, scope := x.sc, acq := x.sc.isSome, rel := x.sc.isSome
    reg := some (.s x.a.toNat), ty := x.ty }

/-- The location takes old + C, wrapped; the register takes the old value (R183, R184). -/
def execAtmAdd (h : Hdr) (x : OpAtm) (s : State) : Out := issue h plain (fun s => s.memOp (s.atmReq .add x)) s

/-- The location takes old and C; the register takes the old value (R183, R184). -/
def execAtmAnd (h : Hdr) (x : OpAtm) (s : State) : Out := issue h plain (fun s => s.memOp (s.atmReq .and x)) s

/-- The location takes old or C; the register takes the old value (R183, R184). -/
def execAtmOr (h : Hdr) (x : OpAtm) (s : State) : Out := issue h plain (fun s => s.memOp (s.atmReq .or x)) s

/-- The location takes old exclusive-or C; the register takes the old value (R183, R184). -/
def execAtmXor (h : Hdr) (x : OpAtm) (s : State) : Out := issue h plain (fun s => s.memOp (s.atmReq .xor x)) s

/-- The location takes the smaller of old and C; the register takes the old value (R183, R184). -/
def execAtmMin (h : Hdr) (x : OpAtm) (s : State) : Out := issue h plain (fun s => s.memOp (s.atmReq .min x)) s

/-- The location takes the larger of old and C; the register takes the old value (R183, R184). -/
def execAtmMax (h : Hdr) (x : OpAtm) (s : State) : Out := issue h plain (fun s => s.memOp (s.atmReq .max x)) s

/-- The location takes old + C rounded; the register takes the old value (R183, R184). -/
def execAtmFadd (h : Hdr) (x : OpAtm) (s : State) : Out := issue h plain (fun s => s.memOp (s.atmReq .fadd x)) s

/-- The location takes C; the register takes the old value (R183, R184). -/
def execAtmSwap (h : Hdr) (x : OpAtm) (s : State) : Out := issue h plain (fun s => s.memOp (s.atmReq .swap x)) s

/-- The location takes the next register where old equals C; the register takes the old value (R183, R184). -/
def execAtmCas (h : Hdr) (x : OpAtm) (s : State) : Out := issue h plain (fun s => s.memOp (s.atmReq .cas x)) s

/-- The location takes old + 1 where old is below C; the register takes the old value (R183, R184). -/
def execAtmIncb (h : Hdr) (x : OpAtm) (s : State) : Out := issue h plain (fun s => s.memOp (s.atmReq .incb x)) s

end Sys2Proof.Machine
end

