-- ==== Sys2Proof/Machine/Crypto.lean ====
section
/-!
DEFINITION. The algorithms that the spec names by their standards: CRC-32C (R279, R320, R324), SHA-384 (R280) and AES-256-GCM
(R278, R325).
-/

namespace Sys2Proof.Machine

/-! ### CRC-32C -/

/-- One bit of the reflected CRC-32C. -/
def crcBit (c : Nat) : Nat := if c % 2 = 1 then c / 2 ^^^ 0x82F63B78 else c / 2

/-- n bits of the reflected CRC-32C. -/
def crcBits : Nat → Nat → Nat
  | 0, c => c
  | n + 1, c => crcBits n (crcBit c)

/-- CRC-32C of bytes. -/
def crc32c (bs : List Byte) : Nat := bs.foldl (fun c b => crcBits 8 (c ^^^ b.toNat)) 0xFFFFFFFF ^^^ 0xFFFFFFFF

/-! ### SHA-384 -/

/-- The k-th root of n by bits 2^b and below, from x up. -/
def rootFrom (k n : Nat) : Nat → Nat → Nat
  | 0, x => x
  | b + 1, x => rootFrom k n b (if (x + 2 ^ b) ^ k ≤ n then x + 2 ^ b else x)

/-- Whether n has no divisor from 2 to d. -/
def noDivisor (n : Nat) : Nat → Bool
  | 0 => true
  | d + 1 => (decide (d + 1 < 2) || n % (d + 1) != 0) && noDivisor n d

/-- The primes below 410: the first 80. -/
def primes80 : List Nat := (List.range 410).filter (fun n => decide (2 ≤ n) && noDivisor n (n - 1))

/-- The round constants: the first 64 bits of the fractional parts of the primes' cube roots. -/
def shaK : List Nat := primes80.map (fun p => rootFrom 3 (p * 2 ^ 192) 70 0 % 2 ^ 64)

/-- The initial hash: the same of the square roots of the ninth to sixteenth primes. -/
def shaInit : List Nat := ((primes80.drop 8).take 8).map (fun p => rootFrom 2 (p * 2 ^ 128) 70 0 % 2 ^ 64)

/-- Rotation of a 64-bit word to the right. -/
def rotr64 (n x : Nat) : Nat := (x / 2 ^ n + x * 2 ^ (64 - n)) % 2 ^ 64

/-- The message schedule extended by n words; the latest word first. -/
def shaExtend : Nat → List Nat → List Nat
  | 0, w => w
  | n + 1, w =>
    let a := w.getD 14 0
    let b := w.getD 1 0
    let s0 := rotr64 1 a ^^^ rotr64 8 a ^^^ (a / 2 ^ 7)
    let s1 := rotr64 19 b ^^^ rotr64 61 b ^^^ (b / 2 ^ 6)
    shaExtend n ((w.getD 15 0 + s0 + w.getD 6 0 + s1) % 2 ^ 64 :: w)

/-- One round on the eight working words. -/
def shaRound (st : List Nat) (kw : Nat × Nat) : List Nat :=
  match st with
  | [a, b, c, d, e, f, g, h] =>
    let s1 := rotr64 14 e ^^^ rotr64 18 e ^^^ rotr64 41 e
    let ch := (e &&& f) ^^^ ((2 ^ 64 - 1 - e) &&& g)
    let t1 := h + s1 + ch + kw.1 + kw.2
    let s0 := rotr64 28 a ^^^ rotr64 34 a ^^^ rotr64 39 a
    let mj := (a &&& b) ^^^ (a &&& c) ^^^ (b &&& c)
    [(t1 + s0 + mj) % 2 ^ 64, a, b, c, (d + t1) % 2 ^ 64, e, f, g]
  | _ => st

/-- A big-endian number from bytes. -/
def beNat (bs : List Byte) : Nat := bs.foldl (fun a b => a * 256 + b.toNat) 0

/-- One 128-byte block. -/
def shaBlock (h : List Nat) (b : List Byte) : List Nat :=
  let w := shaExtend 64 ((List.range 16).map (fun i => beNat ((b.drop (8 * i)).take 8))).reverse
  List.zipWith (fun x y => (x + y) % 2 ^ 64) h ((shaK.zip w.reverse).foldl shaRound h)

/-- Blocks in turn; at most n. -/
def shaBlocks : Nat → List Nat → List Byte → List Nat
  | 0, h, _ => h
  | n + 1, h, bs => if bs.isEmpty then h else shaBlocks n (shaBlock h (bs.take 128)) (bs.drop 128)

/-- SHA-384 of a message as a number whose byte 0 is the digest's first. -/
def sha384 (msg : List Byte) : Nat :=
  let pad := msg ++ [0x80#8] ++ List.replicate ((239 - msg.length % 128) % 128) 0#8
  let all := pad ++ (List.range 16).map (fun i => BitVec.ofNat 8 (8 * msg.length / 256 ^ (15 - i)))
  let h := (shaBlocks (all.length / 128) shaInit all).take 6
  ofBytes (h.flatMap (fun x => (List.range 8).map (fun i => BitVec.ofNat 8 (x / 256 ^ (7 - i)))))

/-! ### AES-256 -/

/-- A field element times x, modulo x^8 + x^4 + x^3 + x + 1. -/
def aesDouble (a : Nat) : Nat := if a < 128 then 2 * a else 2 * a ^^^ 0x11B

/-- Product of two field elements; n bits of the second remain. -/
def aesMul : Nat → Nat → Nat → Nat
  | 0, _, _ => 0
  | n + 1, a, b => (if b % 2 = 1 then a else 0) ^^^ aesMul n (aesDouble a) (b / 2)

/-- The n-th power of a field element. -/
def aesPow (a : Nat) : Nat → Nat
  | 0 => 1
  | n + 1 => aesMul 8 a (aesPow a n)

/-- A byte rotated left. -/
def rotByte (b n : Nat) : Nat := b * 2 ^ n % 256 + b / 2 ^ (8 - n)

/-- The substitution of a byte: its inverse, then the affine map. -/
def aesSub (a : Nat) : Nat :=
  let b := aesPow a 254
  b ^^^ rotByte b 1 ^^^ rotByte b 2 ^^^ rotByte b 3 ^^^ rotByte b 4 ^^^ 0x63

/-- The substitutions of all bytes. -/
def aesTable : List Nat := (List.range 256).map aesSub

/-- A byte substituted through the table. -/
def aesByte (a : Nat) : Nat := aesTable.getD a 0

/-- Lists combined by exclusive or. -/
def xorList (a b : List Nat) : List Nat := List.zipWith (· ^^^ ·) a b

/-- The key schedule: words of four bytes, n still to come. -/
def aesSchedule : Nat → List (List Nat) → List (List Nat)
  | 0, ws => ws
  | n + 1, ws =>
    let i := ws.length
    let t := ws.getD (i - 1) []
    let u := if i % 8 = 0 then xorList ((t.drop 1 ++ t.take 1).map aesByte) [aesPow 2 (i / 8 - 1), 0, 0, 0]
      else if i % 8 = 4 then t.map aesByte
      else t
    aesSchedule n (ws ++ [xorList (ws.getD (i - 8) []) u])

/-- The fifteen round keys of a key of 32 bytes, sixteen bytes each. -/
def aesKeys (key : List Nat) : List (List Nat) :=
  let ws := aesSchedule 52 ((List.range 8).map (fun i => (key.drop (4 * i)).take 4))
  (List.range 15).map (fun r => ((ws.drop (4 * r)).take 4).flatten)

/-- The rows of a block shifted: byte r of column c comes from column c + r. -/
def aesShift (b : List Nat) : List Nat := (List.range 16).map (fun i => b.getD ((i + 4 * (i % 4)) % 16) 0)

/-- The columns of a block mixed. -/
def aesMix (b : List Nat) : List Nat :=
  (List.range 16).map (fun i =>
    let at_ (k : Nat) : Nat := b.getD (i / 4 * 4 + (i + k) % 4) 0
    aesMul 8 2 (at_ 0) ^^^ aesMul 8 3 (at_ 1) ^^^ at_ 2 ^^^ at_ 3)

/-- A block enciphered under round keys: thirteen whole rounds and one without the mix. -/
def aesRounds : List (List Nat) → List Nat → List Nat
  | [], b => b
  | [k], b => xorList (aesShift (b.map aesByte)) k
  | k :: ks, b => aesRounds ks (xorList (aesMix (aesShift (b.map aesByte))) k)

/-- A block of sixteen bytes enciphered. -/
def aesBlock (ks : List (List Nat)) (b : List Nat) : List Nat := aesRounds (ks.drop 1) (xorList b (ks.getD 0 []))

/-! ### Galois counter mode -/

/-- n bytes of a number, highest first. -/
def bigBytes (n v : Nat) : List Nat := ((bytesOf n v).map (·.toNat)).reverse

/-- The number that bytes make, highest first. -/
def bigNat (bs : List Nat) : Nat := bs.foldl (fun a b => a * 256 + b) 0

/-- Product of two blocks: the bits of x from the n-th lowest down, v the other factor shifted so far. -/
def ghashMul (x : Nat) : Nat → Nat → Nat
  | 0, _ => 0
  | n + 1, v => (if x / 2 ^ n % 2 = 1 then v else 0) ^^^ ghashMul x n (if v % 2 = 1 then v / 2 ^^^ 0xE1 * 2 ^ 120 else v / 2)

/-- The hash of whole blocks under a hash key. -/
def ghash (h : Nat) (blocks : List Nat) : Nat := blocks.foldl (fun y b => ghashMul (y ^^^ b) 128 h) 0

/-- Bytes as blocks of sixteen, the last filled with zeros. -/
def gcmBlocks (bs : List Nat) : List Nat :=
  (List.range (cdiv bs.length 16)).map (fun i => bigNat ((bs.drop (16 * i) ++ List.replicate 16 0).take 16))

/-- The key and the IV of twelve bytes as the cipher takes them, each lowest byte first as memory holds it. -/
def gcmCounter (iv i : Nat) : List Nat := (bytesOf 12 iv).map (·.toNat) ++ bigBytes 4 i

/-- The round keys of a slot's key. -/
def gcmKeys (key : Nat) : List (List Nat) := aesKeys ((bytesOf 32 key).map (·.toNat))

/-- n bytes of key stream: the counter of the body begins at 2. -/
def gcmStream (key iv n : Nat) : List Nat :=
  let ks := gcmKeys key
  ((List.range (cdiv n 16)).flatMap (fun i => aesBlock ks (gcmCounter iv (i + 2)))).take n

/-- The tag over the authenticated bytes and the enciphered body, as memory holds it. -/
def gcmTag (key iv : Nat) (aad body : List Byte) : Nat :=
  let ks := gcmKeys key
  let h := bigNat (aesBlock ks (List.replicate 16 0))
  let a := aad.map (·.toNat)
  let c := body.map (·.toNat)
  let t := ghash h (gcmBlocks a ++ gcmBlocks c ++ [a.length * 8 * 2 ^ 64 + c.length * 8])
  ofBytes ((xorList (bigBytes 16 t) (aesBlock ks (gcmCounter iv 1))).map (BitVec.ofNat 8))

end Sys2Proof.Machine
end

