-- ==== Sys2Proof/Machine/Bulk.lean ====
section
/-!
DEFINITION. Accesses of many bytes by the matrix unit, the engines and the system instructions: which pieces of which
memory a tagged pointer's bytes are (R174, R263, R266), reading and writing them, and the error that meets a read.
-/

namespace Sys2Proof.Machine

/-- For whom bytes are reached: whose window and table, partition, device, translation and level, the number of the work, which says
when it began (R163), on which path (R154), and for which unit, where it is not the one that the core runs (R259). -/
structure Agent where
  stamp : Nat
  core  : Nat
  part  : Nat
  vdev  : Nat
  xlat  : Nat
  level : Nat
  path  : Path := .ls
  unit  : Option (Nat × Nat) := none

/-- The issuing context as an agent. -/
def State.self (s : State) : Agent :=
  { stamp := s.nonce, core := s.cur, part := s.partOf s.cur, vdev := s.vdevOf s.cur, xlat := s.me.xlat.toNat, level := s.me.level }

/-- A run of bytes in one memory. -/
inductive Piece where
  | bank (pkg off n : Nat)
  | dev (addr n home : Nat)
  | peer (addr n link : Nat)
  | host (addr n : Nat)
  deriving DecidableEq, Repr

/-- What stops a bulk access: a cause with its detail word and addresses, an address that does not exist, or a Silkenor link
that is down (R279). -/
inductive Trip where
  | cause (c : Cause) (detail va ipa : Nat)
  | gone (addr : Nat)
  | down (va : Nat)

/-- The cause that a trip is reported with, and its detail word and addresses; memory that does not exist counts as a page
fault. -/
def Trip.what : Trip → Cause × Nat × Nat × Nat
  | .cause c d va ipa => (c, d, va, ipa)
  | .gone a => (.pageFault, 0, a, 0)
  | .down va => (.uncorrectable, 0, va, 0)

/-- The runs of 8 KiB granules under n bytes at an address, at most k (R153, R266). -/
def granules : Nat → Nat → Nat → List (Nat × Nat)
  | 0, _, _ => []
  | k + 1, a, n =>
    if n = 0 then []
    else
      let m := min n (8192 - a % 8192)
      (a, m) :: granules k (a + m) (n - m)

/-- The bytes of a core's window as bank runs for an agent that uses pointer p; at most k slots. -/
def State.windowPieces (s : State) (g : Agent) (p c : Nat) : Nat → Nat → Nat → Except Trip (List Piece)
  | 0, _, _ => .ok []
  | k + 1, o, n =>
    if n = 0 then .ok []
    else if 0x200000 < o + n then .error (.cause .illegalPointer 0 p 0)
    else match s.bankForUnit (g.unit.or (s.core g.core).unit) g.core c (o / 65536) g.stamp with
      | .error e => .error (.cause e (o / 65536) p 0)
      | .ok pkg =>
        let m := min n (65536 - o % 65536)
        match s.windowPieces g p c k (o + m) (n - m) with
        | .error e => .error e
        | .ok r => .ok (.bank pkg (o % 65536) m :: r)

/-- The bytes of a virtual range as pieces (R265 to R267); one that runs past address 2^48 − 1 is none (R174; assumption 109). -/
def State.globalPieces (s : State) (g : Agent) (va n acc : Nat) : Except Trip (List Piece × List Tlb) :=
  if 2 ^ 48 < va + n then .error (.cause .illegalPointer 0 va 0)
  else match s.translate g.core g.vdev g.xlat g.level va n acc true with
    | .miss a => .error (.cause .pageFault (pageDetail 0 false acc) a 0)
    | .fault c d a i => .error (.cause c d a i)
    | .ok segs es =>
      let one (a m v : Nat) (e : Tlb) : Except Trip Piece :=
        if e.kind == 3 then
          (if !s.linkOk g.core (peerLink a) then .error (.cause .perm (pageDetail 0 false acc) v 0)
           else if !(s.hub.links.toList.getD (peerLink a) Link.reset).up then .error (.down v)
           else .ok (.peer (e.peer * 2 ^ 48 + a) m (peerLink a)))
        else if !s.devOk a || !s.devOk (a + m - 1) then .error (.gone a)
        else
          let h := homeOf e a
          if s.hub.absent.contains (homeDie h) then .error (.cause .dieAbsent (homeDie h % 4) v 0)
          else .ok (.dev a m h)
      let runs := ((pagesOf va n (n / 65536 + 2)).zip (segs.zip es)).flatMap (fun p =>
        (granules (p.1.2 / 8192 + 2) p.2.1.1 p.1.2).map (fun r => (r.1, r.2, p.1.1 + (r.1 - p.2.1.1), p.2.2)))
      match runs.mapM (fun r => one r.1 r.2.1 r.2.2.1 r.2.2.2) with
      | .error e => .error e
      | .ok ps => .ok (ps, es)

/-- The pieces of n bytes at a pointer's target, and the translations used; work a flit of which has failed every retry stops
(R283). -/
def State.place (s : State) (g : Agent) (p n acc : Nat) : Except Trip (List Piece × List Tlb) :=
  if s.torn.contains g.stamp then .error (.cause .uncorrectable 0 p 0)
  else match s.resolve g.core p with
  | none => .error (.cause .illegalPointer 0 p 0)
  | some (.glb va) => s.globalPieces g va n acc
  | some (.shape off) =>
    if acc != 0 then .error (.cause .perm (pageDetail 0 false acc) p 0)
    else if fieldB (s.recordOf g.core) 16 4 < off + n then .error (.cause .illegalPointer 0 p 0)
    else s.globalPieces { g with level := 1 } (bits (fieldB (s.recordOf g.core) 8 8) 47 0 + off) n acc
  | some (.win slot off) => (s.windowPieces g p g.core (n / 65536 + 2) (slot * 65536 + off) n).map (fun ps => (ps, []))
  | some (.rem d slot off) =>
    if !s.reaches g.core (clusterOf d) then .error (.cause .perm (pageDetail 0 false acc) p 0)
    else if s.hub.absent.contains (dieOf d) then .error (.cause .dieAbsent (dieOf d) p 0)
    else (s.windowPieces g p d (n / 65536 + 2) (slot * 65536 + off) n).map (fun ps => (ps, []))
  | some (.host a) =>
    if s.hostOk g.core then .ok ([.host a n], []) else .error (.cause .perm (pageDetail 0 false acc) p 0)

/-- Whether an uncorrectable error lies under a piece (R283). -/
def State.pieceBad (s : State) : Piece → Bool
  | .bank pkg off n => s.bankBad pkg off n
  | .dev a n _ => s.memBad a n
  | _ => false

/-- The value of a piece; another device's bytes are free (assumption 14). -/
def State.pieceRead (s : State) : Piece → Nat
  | .bank pkg off n => s.bankRead pkg off n
  | .dev a n _ => s.mem.read a n
  | .peer a n _ => ofBytes ((List.range n).map (fun i => Config.peerByte s.nonce (a + i)))
  | .host a n => ofBytes ((List.range n).map (fun i => Config.hostByte s.nonce (a + i)))

/-- Bytes of a piece. -/
def Piece.len : Piece → Nat
  | .bank _ _ n => n
  | .dev _ n _ => n
  | .peer _ n _ => n
  | .host _ n => n

/-- The value of pieces in turn. -/
def State.readPieces (s : State) : List Piece → Nat
  | [] => 0
  | p :: r => s.pieceRead p + 256 ^ p.len * State.readPieces s r

/-- Ordinary writes to a bank line by line, by gathers, collectives and the stores of Finish too (R172; assumption 102); at most k
lines. -/
def State.bankLines (s : State) (pkg : Nat) : Nat → Nat → Nat → Nat → State
  | 0, _, _, _ => s
  | k + 1, off, n, v =>
    if n = 0 then s
    else
      let m := min n (64 - off % 64)
      State.bankLines (s.bankWrite pkg off m (v % 256 ^ m)) pkg k (off + m) (n - m) (v / 256 ^ m)

/-- A store of an agent on its way to another die or device (R145, R153), of a group. -/
def State.sendStore (s : State) (g : Agent) (group : Nat) (d : Dest) (n v : Nat) : State :=
  { s.fresh.2 with net := s.net ++ [{
      id := s.nonce, core := g.core, ctx := 0, born := 0, path := g.path, kind := .store, dest := d, size := n
      data := v % 256 ^ n, jrn := none, pc := 0, va := 0, crossDie := true, performed := false, value := 0, refused := none
      release := false, part := g.part, asid := xlatAsid g.xlat, since := s.time, group := group, at_ := 0, got := 0
      bridged := none, told := false }] }

/-- A value written to a piece; a write to a peer device is on its way until it is acknowledged (R153, R155). -/
def State.pieceWrite (s : State) (g : Agent) (p : Piece) (v : Nat) : State :=
  match p with
  | .bank pkg off n => s.bankLines pkg (n / 64 + 2) off n v
  | .dev a n _ => s.devWrite a n (v % 256 ^ n)
  | .peer a n l => s.sendStore g s.nonce (.peer (a / 2 ^ 48) (a % 2 ^ 48) l) n v
  | .host a n => { s with hub := { s.hub with egress := s.hub.egress ++ [.write a n (v % 256 ^ n) true] } }

/-- A value written to pieces in turn. -/
def State.writePieces (s : State) (g : Agent) : List Piece → Nat → State
  | [], _ => s
  | p :: r, v => State.writePieces (s.pieceWrite g p (v % 256 ^ p.len)) g r (v / 256 ^ p.len)

/-- The HBM charge of the bytes of pieces (R271). -/
def State.chargePieces (s : State) (p : Nat) (ps : List Piece) : State :=
  s.each ps (fun s q => match q with
    | .dev _ n h => if h < 512 then s.charge p (2 + homeDie h) (cdiv n 64) else s
    | _ => s)

/-- Whether the home agents under pieces serve a partition now (R271). -/
def State.served (s : State) (p : Nat) (ps : List Piece) : Bool :=
  ps.all (fun q => match q with
    | .dev _ _ h => s.firstAt p h
    | _ => true)

/-- Whether the home agents under ranges (pointer and length) serve an agent's accesses now. -/
def State.servedAt (s : State) (g : Agent) (rs : List (Nat × Nat)) : Bool :=
  rs.all (fun r => match s.place g r.1 r.2 0 with
    | .ok q => s.served g.part q.1
    | .error _ => true)

/-- Accessed set in the entries that the pages under a range use where no TLB of the core holds them (R267). -/
def State.touch (s : State) (g : Agent) (va n : Nat) : State :=
  s.each (pagesOf va n (n / 65536 + 2)) (fun s p =>
    match s.lookup g.core (xlatAsid g.xlat) p.1 with
    | some _ => s
    | none => match walkBoth s g.vdev (xlatAsid g.xlat) (xlatRoot g.xlat) p.1 with
      | .ok r => (s.chargeEntries g.part r.2).orEntries g.part r.2 64
      | .error f => s.chargeEntries g.part f.used)

/-- Accessed set for a pointer of space 0. -/
def State.touchPtr (s : State) (g : Agent) (p n : Nat) : State :=
  if bits p 63 48 = 0 then s.touch g (bits p 47 0) n else s

/-- A whole read: its value and the state with Accessed set and its units charged, or what stops it. -/
def State.bulkRead (s : State) (g : Agent) (p n : Nat) : Except Trip (Nat × State) :=
  match s.place g p n 0 with
  | .error e => .error e
  | .ok r =>
    if r.1.any s.pieceBad then .error (.cause .uncorrectable 0 p 0)
    else .ok (s.readPieces r.1, (s.touchPtr g p n).chargePieces g.part r.1)

/-- A whole write, Accessed and Dirty set and its units charged, or what stops it. -/
def State.bulkWrite (s : State) (g : Agent) (p n v : Nat) : Except Trip State :=
  match s.place g p n 1 with
  | .error e => .error e
  | .ok r => .ok ((((s.touchPtr g p n).setDirty g.core g.part r.2).chargePieces g.part r.1).writePieces g r.1 v)

/-! ### What a buffer holds over bytes that an agent reads (R145, R153) -/

/-- The run of a piece in one numbering of all locations. -/
def Piece.run : Piece → Nat × Nat
  | .bank pkg o n => (2 ^ 60 + pkg * 65536 + o, n)
  | .dev a n _ => (a, n)
  | .peer a n _ => (2 ^ 62 + a, n)
  | .host a n => (2 ^ 61 + a, n)

/-- The runs of an access in that numbering: a slot's by the bank that it meets there. -/
def State.accessRuns (s : State) (b : Access) : List (Nat × Nat) :=
  match b.dest with
  | .slot d sl o => (match s.bankFor b.core d sl b.id with
    | .ok pkg => [(2 ^ 60 + pkg * 65536 + o, b.size)]
    | .error _ => [])
  | d => d.runs b.size

/-- The buffer between an agent's core and a piece: its die's bridge, the hub's link buffer, or none (R145, R153). -/
def Piece.buffer (c : Nat) : Piece → Option Nat
  | .bank pkg _ _ => if pkg / 64 / 48 = dieOf c then none else some (dieOf c)
  | .dev _ _ h => if homeDie h = dieOf c then none else some (dieOf c)
  | .peer .. => some 4
  | .host .. => none

/-- Runs of at most a line each (R129). -/
def linesOf : Nat → Nat → Nat → List (Nat × Nat)
  | 0, _, _ => []
  | k + 1, a, n => if n = 0 then [] else (a, min n (64 - a % 64)) :: linesOf k (a + min n (64 - a % 64)) (n - min n (64 - a % 64))

/-- What a buffer holds over a run: nothing, or the store that gives all its bytes, or what must be waited for. -/
inductive Over where
  | none
  | from_ (v : Nat)
  | waits
  deriving DecidableEq, Repr

/-- What a buffer holds over a run that is read (R145). -/
def State.overRun (s : State) (buf : Nat) (r : Nat × Nat) : Over :=
  match youngest (s.net.filter (fun b => b.kind != .load && b.bridged.isSome && b.refused.isNone && b.buffer == buf
      && runsMeet (s.accessRuns b) [r])) with
  | none => .none
  | some b => match s.accessRuns b with
    | [(q, m)] =>
      if b.kind == .store && !b.stale && decide (q ≤ r.1) && decide (r.1 + r.2 ≤ q + m) then .from_ (b.data / 256 ^ (r.1 - q) % 256 ^ r.2)
      else .waits
    | _ => .waits

/-- Whether a read of pieces by a core must wait for what a buffer holds over a part of a line. -/
def State.readWaits (s : State) (c : Nat) (ps : List Piece) : Bool :=
  ps.any (fun p => match p.buffer c with
    | none => false
    | some b => (linesOf (p.len / 64 + 2) p.run.1 p.len).any (fun r => s.overRun b r == .waits))

/-- The value of a piece as a core reads it through its buffer, line by line. -/
def State.pieceThrough (s : State) (c : Nat) (p : Piece) : Nat :=
  match p.buffer c with
  | none => s.pieceRead p
  | some b => (linesOf (p.len / 64 + 2) p.run.1 p.len).foldl (fun v r => match s.overRun b r with
      | .from_ x => setBits v (8 * (r.1 - p.run.1 + r.2) - 1) (8 * (r.1 - p.run.1)) x
      | _ => v) (s.pieceRead p)

/-- The value of pieces in turn as a core reads them. -/
def State.readThrough (s : State) (c : Nat) : List Piece → Nat
  | [] => 0
  | p :: r => s.pieceThrough c p + 256 ^ p.len * State.readThrough s c r

/-- Whether a store or atomic that the issuing context has posted is still to be performed on bytes of these pieces (R130). -/
def State.ownUnder (s : State) (ps : List Piece) : Bool :=
  s.net.any (fun a => s.owned a s.cur s.curCtx && a.kind != .load && !a.performed && a.refused.isNone
    && runsMeet (s.accessRuns a) (ps.map Piece.run))

/-- Whether n bytes at a pointer must wait for the issuing context's own posted stores (R130). -/
def State.ownWaits (s : State) (p n acc : Nat) : Bool :=
  match s.place s.self p n acc with
  | .ok r => s.ownUnder r.1
  | .error _ => false

/-! ### Walks for work that no context waits for (R268) -/

/-- Whether a walk is one for an agent's work: it is kept under context number 16, and the number of the work. -/
def Walk.forWork (w : Walk) (g : Agent) : Bool := w.core == g.core && w.ctx == 16 && w.born == g.stamp

/-- The pages under ranges (pointer and length) of space 0 that an agent's core holds no translation of, and for which no walk of the
agent has ended in a fault. The hub's own work, named by core 1,536, has no TLB. -/
def State.unwalked (s : State) (g : Agent) (rs : List (Nat × Nat)) : List Nat :=
  if 1536 ≤ g.core then []
  else ((rs.filter (fun r => bits r.1 63 48 == 0)).flatMap (fun r =>
      ((pagesOf (bits r.1 47 0) r.2 (r.2 / 65536 + 2)).map (fun p => p.1 / 65536 * 65536)).filter (fun a =>
        (s.lookup g.core (xlatAsid g.xlat) a).isNone
          && !s.walks.any (fun w => w.forWork g && w.fault.isSome && w.va / 65536 == a / 65536)))).eraseDups

/-- The pages among them that no walk of the agent is under way for. -/
def State.toWalk (s : State) (g : Agent) (rs : List (Nat × Nat)) : List Nat :=
  (s.unwalked g rs).filter (fun a => !s.walks.any (fun w => w.forWork g && w.va / 65536 == a / 65536))

/-- Walks for an agent's work begun, in turn with the other walks of its die (R268). -/
def State.walkPages (s : State) (g : Agent) (as : List Nat) : State :=
  s.each as (fun s a => State.takeWalk (d := dieOf g.core)
    { s.fresh.2 with walks := s.walks ++ [{ id := s.nonce, core := g.core, ctx := 16, born := g.stamp, asid := xlatAsid g.xlat
                                            root := xlatRoot g.xlat, va := a, part := g.part, seq := s.hub.invSeq
                                            fetch := false, fault := none, pref := false, taken := false }] })

/-- Whether work over these ranges can go on: it runs, or it begins a walk. -/
def State.workGoes (s : State) (g : Agent) (rs : List (Nat × Nat)) : Bool := (s.unwalked g rs).isEmpty || !(s.toWalk g rs).isEmpty

/-- The ended walks of an agent's work forgotten. -/
def State.endWalks (s : State) (g : Agent) : State := { s with walks := s.walks.filter (fun w => !(w.forWork g && w.fault.isSome)) }

/-- Go on once the issuing context's core holds a translation of every page under ranges (pointer and length) of space 0: a miss
starts a walk that the context waits for, and an ended one's fault is met where the range is used (R175, R268). -/
def State.withRuns (s : State) (rs : List (Nat × Nat)) (k : State → Res) : Res :=
  let g := s.self
  let pages := (rs.filter (fun r => bits r.1 63 48 == 0)).flatMap (fun r => (pagesOf (bits r.1 47 0) r.2 (r.2 / 65536 + 2)).map (·.1))
  match pages.find? (fun a => (s.lookup g.core (xlatAsid g.xlat) a).isNone && (s.walkFault s.cur s.curCtx a).isNone) with
  | some a =>
    let s := s.startWalk s.cur s.curCtx a false false
    .wait (s.setMe { s.me with wait := .walk })
  | none => k (s.dropWalks s.cur s.curCtx)

/-- What stops an instruction, raised on it. -/
def State.trip (s : State) : Trip → Res
  | .cause c d va ipa => s.raiseW c d va ipa
  | .gone a => .stop (.noSuchMemory a)
  | .down va => s.raiseW .uncorrectable 0 va 0

/-- What stops a waiting context's command, raised on it; old is the state that stays while the trap queue is full. -/
def State.tripWaiting (s old : State) (c x : Nat) : Trip → Out
  | .cause e d va ipa => .next ((s.trapWaiting c x e.code d va ipa).getD old)
  | .gone a => .fault (.noSuchMemory a)
  | .down va => .next ((s.trapWaiting c x Cause.uncorrectable.code 0 va 0).getD old)

end Sys2Proof.Machine
end

