-- ==== Sys2Proof/Machine/Matrix.lean ====
section
/-!
DEFINITION. Class 0x6: the matrix unit (R90 to R111), its commands at issue and at the head of the queue, and the
events of the unit.
-/

namespace Sys2Proof.Machine

/-! ### Swizzles (R171) -/

/-- Source shift, mask and target shift of a code. -/
def swzRow (code : Nat) : Nat × Nat × Nat :=
  match code with
  | 1 => (6, 3, 4) | 2 => (7, 3, 4) | 3 => (8, 3, 4) | 4 => (7, 7, 4) | 5 => (8, 7, 4) | 6 => (8, 15, 4) | 7 => (10, 3, 4)
  | _ => (0, 0, 0)

/-- Physical byte of a logical byte of a region under a code (R171). -/
def swz (code o : Nat) : Nat :=
  let r := swzRow code
  o ^^^ ((o >>> r.1 &&& r.2.1) <<< r.2.2)

/-- Bytes of a bank under a code as runs of at most 16 bytes at their physical places; at most k runs. -/
def swzRuns (code pkg : Nat) : Nat → Nat → Nat → List Piece
  | 0, _, _ => []
  | k + 1, off, n =>
    if n = 0 then []
    else
      let m := min n (16 - off % 16)
      .bank pkg (off / 4096 * 4096 + swz code (off % 4096)) m :: swzRuns code pkg k (off + m) (n - m)

/-- Pieces as a code places them. -/
def swzPieces (code : Nat) (ps : List Piece) : List Piece :=
  if code = 0 then ps
  else ps.flatMap (fun p => match p with
    | .bank pkg off n => swzRuns code pkg (n / 16 + 2) off n
    | p => [p])

/-- The regions of banks under pieces. -/
def regionsOf (ps : List Piece) : List (Nat × Nat) :=
  ps.flatMap (fun p => match p with
    | .bank pkg off n => (List.range ((off + n - 1) / 4096 - off / 4096 + 1)).map (fun i => (pkg, off / 4096 + i))
    | _ => [])

/-! ### Shape records and panels (R92) -/

/-- The operand format of a code. -/
def matFmt (code : Nat) : Option ETy :=
  match code with
  | 0 => some .i8 | 8 => some .e2m1 | 9 => some .e4m3 | 10 => some .e5m2 | 11 => some .bf16 | 12 => some .f16
  | _ => none

/-- What a matrix shape record says. -/
structure Shape where
  fmt   : ETy
  code  : Nat
  k     : Nat
  lines : Nat
  st1   : Int
  st2   : Int

/-- A matrix shape record read under R92; none breaks it. -/
def shapeOf (r : Nat) : Option Shape :=
  match matFmt (fieldB r 0 1) with
  | none => none
  | some f =>
    let b1 := fieldB r 1 1
    let code := b1 / 16
    let k := fieldB r 2 2
    let l := fieldB r 4 2
    let st2 := sgn 32 (fieldB r 18 4)
    let e := f == .e2m1
    let top := if e then 512 else if f.size = 2 then 128 else 256
    if (code ≤ 7 || code == 15) && b1 / 4 % 4 == (if e then 2 else 1) && b1 % 4 == 0
        && decide (1 ≤ k) && decide (k ≤ top) && (!e || k % 2 == 0) && decide (1 ≤ l) && decide (l ≤ 32)
        && fieldB r 6 2 == (if e then 1 else 0) && fieldB r 8 2 == 0 && fieldB r 10 4 == 0
        && (if e then st2 % 2 == 0 else st2 == 0) && fieldB r 22 4 == 0 && fieldB r 26 6 == 0
    then some { fmt := f, code := code, k := k, lines := l, st1 := sgn 32 (fieldB r 14 4), st2 := st2 }
    else none

/-- Bytes of a line. -/
def Shape.lineBytes (h : Shape) : Nat := if h.fmt = .e2m1 then cdiv h.k 2 else h.k * h.fmt.size

/-- Bytes of the header array. -/
def Shape.hdrBytes (h : Shape) : Nat := if h.fmt = .e2m1 then h.lines * cdiv h.k 32 * 2 else 0

/-- The pointers and lengths of the lines and of the header array; none leaves the space. -/
def Shape.runs (h : Shape) (p : Nat) : Option (List (Nat × Nat)) :=
  let ls := (List.range h.lines).map (fun l => (displace p (l * h.st1), h.lineBytes))
  let all := if h.fmt = .e2m1 then ls ++ [(displace p h.st2, h.hdrBytes)] else ls
  all.mapM (fun r => r.1.map (fun q => (q, r.2)))

/-- The checks of a panel after its shape record (R93, R94): the pieces of each run in its swizzle. -/
def State.panelAt (s : State) (g : Agent) (h : Shape) (p : Nat) : Except Trip (List (List Piece)) :=
  match h.runs p with
  | none => .error (.cause .illegalPointer 0 p 0)
  | some rs =>
    let sp := bits p 63 60
    if rs.any (fun r => r.1 % h.fmt.size != 0) then .error (.cause .misalign 0 p 0)
    else if sp != 0 && rs.any (fun r => decide (65536 < bits r.1 15 0 + r.2)) then .error (.cause .misalign 0 p 0)
    else match rs.mapM (fun r => (s.place g r.1 r.2 0).map (·.1)) with
      | .error e => .error e
      | .ok ps =>
        let bad := if sp = 0 then (if h.code = 0 then none else some 0)
          else ((ps.flatMap regionsOf).find? (fun r => s.tag r.1 r.2 != h.code || h.code == 15)).map (fun r => s.tag r.1 r.2)
        match bad with
        | some t => .error (.cause .swizzleMismatch t p 0)
        | none =>
          let qs := ps.map (swzPieces (if sp = 0 then 0 else h.code))
          if qs.any (·.any s.pieceBad) then .error (.cause .uncorrectable 0 p 0) else .ok qs

/-- A panel read whole. -/
def State.readPanel (s : State) (g : Agent) (h : Shape) (p shape : Nat) : Except Trip Panel :=
  match s.panelAt g h p with
  | .error e => .error e
  | .ok ps =>
    let vs := ps.map (s.readThrough g.core)
    let n := h.lines * cdiv h.k 32
    .ok { fmt := h.fmt, k := h.k, lines := vs.take h.lines
          hdrs := if h.fmt = .e2m1 then (List.range n).map (fun i => fieldB ((vs.drop h.lines).headD 0) (2 * i) 2) else []
          ptr := p, shape := shape }

/-- The shape record at a pointer, its alignment checked before the length of the space-4 table (R93): its bytes and the state
with Accessed set. -/
def State.readShape (s : State) (g : Agent) (sh : Nat) : Except Trip (Nat × State) :=
  let known := (s.resolve g.core sh).isSome
  if !([0, 1, 4].contains (bits sh 63 60)) || (!known && (bits sh 63 60 != 4 || bits sh 59 48 != 0)) then
    .error (.cause .illegalPointer 0 sh 0)
  else if sh % 32 != 0 then .error (.cause .misalign 0 sh 0)
  else if !known then .error (.cause .illegalPointer 0 sh 0)
  else s.bulkRead g sh 32

/-! ### The queue and the pool (R90, R95) -/

/-- Whether the command queue is full. -/
def Core.mqFull (k : Core) : Bool := decide (32 ≤ k.mq.length)

/-- A command put in the queue of the issuing core, with the instruction it came from and its s operands. -/
def State.enqueue (s : State) (i : Instr) (ops : List Word) (op : MOp) : Nat × State :=
  let m : MCmd := { id := s.nonce, ctx := s.curCtx, born := s.me.born, pc := s.me.pc
                    word := ((encode i).getD 0).toNat, ops := packB (ops.map (fun w => (8, w.toNat))), op := op }
  let t := s.fresh.2
  (s.nonce, t.setMycore { t.mycore with mq := t.mycore.mq ++ [m] })

/-- The physical tiles that a command writes or reads. -/
def MOp.tiles : MOp → List Nat
  | .mzero _ _ p => [p]
  | .mmac p _ _ _ _ _ => [p]
  | .mscale d r _ _ => [d, r]
  | .mepi p _ => [p]
  | .mrepl p _ => [p]
  | .mstat _ t => if t.valid then [t.phys] else []
  | _ => []

/-- The physical tile in flight while a command is outstanding: one that it writes, or that an `mepi` reads (R95, R104). -/
def MOp.busy : MOp → Option Nat
  | .mzero _ _ p => some p
  | .mmac p _ _ _ _ _ => some p
  | .mscale d _ _ _ => some d
  | .mepi p _ => some p
  | _ => none

/-- Whether a physical tile is held (R95). -/
def Core.holds (k : Core) (p : Nat) : Bool :=
  k.tiles.toList.any (fun t => t.valid && t.phys == p) || k.mq.any (fun m => m.op.tiles.contains p)
    || (Tab.get? k.epis p).isSome || k.ckptTiles.contains p

/-- The lowest free physical tile (R96). -/
def Core.freeTile (k : Core) : Option Nat := (List.range 24).find? (fun p => !k.holds p)

/-- Whether work on the tile of a name is outstanding (R95, R104). -/
def Core.inFlight (k : Core) (a : Nat) : Bool :=
  let t := k.tiles.toList.getD a Tile.reset
  t.valid && (k.mq.any (fun m => m.op.busy == some t.phys)
    || (match Tab.get? k.epis t.phys with | some e => !e.faulted | none => false))

/-- Format and K of a buffer as the commands issued so far leave it: 0, 1 for A0, A1 and 2, 3 for B0, B1. -/
def Core.bufInfo (k : Core) (b : Nat) : Option (ETy × Nat × Nat) :=
  let last := (k.mq.filterMap (fun m => match m.op with
    | .mld _ buf _ _ bytes _ _ => if buf = b then shapeOf bytes else none
    | _ => none)).getLast?
  match last with
  | some h => some (h.fmt, h.k, h.lines)
  | none => ((k.bufs.toList.getD b none).map (fun p => (p.fmt, p.k, p.lines.length)))

/-- Each slot (core and number) that a pointer's n bytes lie in. -/
def State.ptrSlots (s : State) (c p n : Nat) : List (Nat × Nat) :=
  match s.resolve c p with
  | some (.win sl off) => (List.range ((off + n - 1) / 65536 + 1)).map (fun i => (c, sl + i))
  | some (.rem d sl off) => (List.range ((off + n - 1) / 65536 + 1)).map (fun i => (d, sl + i))
  | _ => []

/-- Whether a command queued before a stamp reads or writes through a slot of its core on the mx path (R108). -/
def State.mxTouches (s : State) (c slot stamp : Nat) : Bool :=
  (s.core c).mq.any (fun m => decide (m.id < stamp) &&
    (let at_ (l : List (Nat × Nat)) : Bool := l.contains (c, slot)
    match m.op with
    | .mld _ _ p _ r _ _ => (match shapeOf r with
      | some h => ((h.runs p).getD []).any (fun e => at_ (s.ptrSlots c e.1 e.2))
      | none => false)
    | .mepi _ e => at_ (s.ptrSlots c e.dst (1024 * e.ty.size))
    | .mswz _ _ _ => at_ (s.ptrSlots c (m.ops % 2 ^ 64) 4096)
    | .mrepl p _ => (match Tab.get? (s.core c).epis p with
      | some e => at_ (s.ptrSlots c e.dst (1024 * e.ty.size))
      | none => false)
    | _ => false))

/-- The issue of a command that waits in the queue. -/
def State.queued (s : State) (i : Instr) (ops : List Word) (op : MOp) : Res := .done (s.enqueue i ops op).2

/-- The issue of a command that its context waits for. -/
def State.queuedWait (s : State) (i : Instr) (ops : List Word) (op : MOp) : Res :=
  let r := s.enqueue i ops op
  .wait (r.2.setMe { r.2.me with wait := .matrix r.1 })

/-- A matrix command issues when the queue has room and no branch of its context is unresolved (R90, R132). -/
def matrixOp (f : State → Res) (s : State) : Res := s.firm (if s.mycore.mqFull then .hold else f s)

/-! ### Commands at issue -/

/-- A panel load (R93). -/
def mldOp (isA : Bool) (i : Instr) (x : OpMld) (s : State) : Res :=
  let base := s.me.rs x.base
  let sh := (s.me.rs x.sh).toNat
  match displace base.toNat x.disp.toInt with
  | none => s.raiseStray
  | some p =>
    if !([0, 1, 2].contains (bits p 63 60)) || (s.resolve s.cur p).isNone then s.raiseAt p .illegalPointer
    else s.withRuns [(sh, 32)] (fun s => match s.readShape s.self sh with
      | .error e => s.trip e
      | .ok (r, t) =>
        match shapeOf r with
        | none => s.raise .illegal
        | some g => t.withRuns ((g.runs p).getD []) (fun t => match t.panelAt t.self g p with
          | .error e => t.trip e
          | .ok _ =>
            let k := t.mycore
            let b := if isA then 1 - k.curA else 2 + (1 - k.curB)
            let t := t.setMycore (if isA then { k with curA := 1 - k.curA } else { k with curB := 1 - k.curB })
            t.queuedWait i [base, s.me.rs x.sh] (.mld isA b p sh r t.me.xlat.toNat t.me.level)))

/-- Load of an A panel (R93). -/
def execMldA (h : Hdr) (x : OpMld) (s : State) : Out := issue h plain (matrixOp (mldOp true (.mldA h x) x)) s

/-- Load of a B panel (R93). -/
def execMldB (h : Hdr) (x : OpMld) (s : State) : Out := issue h plain (matrixOp (mldOp false (.mldB h x) x)) s

/-- A tile renamed (R96). -/
def execMzero (h : Hdr) (a : AReg) (s : State) : Out :=
  issue h plain (matrixOp (fun s =>
    let k := s.mycore
    match k.freeTile with
    | none => .hold
    | some p =>
      let prev := k.tiles[a.toNat]
      let s := s.setMycore { k with
        tiles := k.tiles.set a.toNat { valid := true, dirty := false, phys := p, ty := 0 }
        phys := Tab.put k.phys p { elems := List.replicate 1024 0, kidx := 0 } }
      s.queued (.mzero h a) [] (.mzero a.toNat prev p))) s

/-- Products per K-step (R51). -/
def groupSize : ETy → Nat
  | .e2m1 => 12
  | .bf16 | .f16 => 3
  | _ => 6

/-- The checks of R97: the tile and the current buffers with the K of A, the lines of A and the K of B. -/
def mmacCheck (k : Core) (t : ETy) (a : Nat) : Option (Tile × Nat × Nat × Nat) :=
  let e := k.tiles.toList.getD a Tile.reset
  let want := if t = .i8 then 2 else 1
  match k.bufInfo k.curA, k.bufInfo (2 + k.curB) with
  | some (fa, ka, la), some (fb, kb, _) =>
    if e.valid && fa == t && fb == t && (e.ty == 0 || e.ty == want) then some (e, ka, la, kb) else none
  | _, _ => none

/-- A tile that K-steps will write (R95, R97). -/
def State.soil (s : State) (a ty : Nat) : State :=
  let k := s.mycore
  s.setMycore { k with tiles := k.tiles.setIfInBounds a { k.tiles.toList.getD a Tile.reset with dirty := true, ty := ty } }

/-- Dense K-steps (R97). -/
def execMmac (h : Hdr) (x : OpMmac) (s : State) : Out :=
  issue h plain (matrixOp (fun s =>
    let k := s.mycore
    match mmacCheck k x.ty x.a.toNat with
    | some (e, ka, _, kb) =>
      if ka != kb then s.raise .illegal
      else (s.soil x.a.toNat (if x.ty = .i8 then 2 else 1)).queued (.mmac h x) []
        (.mmac e.phys x.ty k.curA (2 + k.curB) none 0)
    | none => s.raise .illegal)) s

/-- Whether the metadata value of a group keeps the rules of R98. -/
def metaOk (v : Nat) : Bool :=
  let i (t : Nat) := v / 16 ^ t % 16
  let used := if i 4 = 15 && i 5 = 15 then 4 else 6
  (List.range used).all (fun t => decide (i t ≤ 11) && (t == 0 || decide (i (t - 1) < i t)))

/-- Structured-sparse K-steps (R98, R99). -/
def execMmacSp (h : Hdr) (x : OpMmacSp) (s : State) : Out :=
  issue h plain (matrixOp (fun s =>
    let k := s.mycore
    match mmacCheck k x.ty x.a.toNat with
    | none => s.raise .illegal
    | some (e, ka, la, kb) =>
      let p := (s.me.rs x.m).toNat
      if ka % 6 != 0 || kb != 2 * ka then s.raise .illegal
      else if !([0, 1].contains (bits p 63 60)) || (s.resolve s.cur p).isNone then s.raiseAt p .illegalPointer
      else if p % 64 != 0 then s.raiseAt p .misalign
      else s.withRuns [(p, la * (ka / 6) * 3)] (fun s => match s.bulkRead s.self p (la * (ka / 6) * 3) with
        | .error e => s.trip e
        | .ok (m, t) =>
          let g := ka / 6
          let rows := (List.range la).map (fun i => (List.range g).map (fun j => fieldB m ((i * g + j) * 3) 3))
          match (rows.flatMap id).findIdx? (fun v => !metaOk v) with
          | some n => s.raise .illegal (n / g + n % g * 256)
          | none => (t.soil x.a.toNat (if x.ty = .i8 then 2 else 1)).queued (.mmacSp h x) [s.me.rs x.m]
              (.mmac e.phys x.ty k.curA (2 + k.curB) (some rows) 0)))) s

/-- Bits 15:8 of each 16-bit lane of a vector (R100). -/
def scaleCodes (v : Vec) : List Nat := (List.range 32).map (fun i => v.toNat / 2 ^ (16 * i + 8) % 256)

/-- Scaled accumulation (R100). -/
def execMscale (h : Hdr) (x : OpMscale) (s : State) : Out :=
  issue h plain (matrixOp (fun s =>
    let k := s.mycore
    let o := k.tiles[x.a.toNat]
    let p := k.tiles[x.b.toNat]
    if o.valid && p.valid && p.ty == 1 && (o.ty == 0 || o.ty == 1) then
      (s.soil x.a.toNat 1).queued (.mscale h x) []
        (.mscale o.phys p.phys (scaleCodes (s.me.rv x.c)) (scaleCodes (s.me.rv (x.c + 1))))
    else s.raise .illegal)) s

/-- Whether a tile of a type may be stored as a type (R101). -/
def storeOk (tile : Nat) (t : ETy) : Bool :=
  let f := [ETy.e4m3, .e5m2, .bf16, .f16, .f32].contains t
  let i := [ETy.i8, .i16, .i32, .n8, .n16, .n32, .f32].contains t
  match tile with
  | 1 => f
  | 2 => i
  | _ => f || i

/-- Whether an epilogue's stores reach beyond the banks of its team (R110, R314). -/
def State.farStore (s : State) (c p : Nat) : Bool :=
  match s.resolve c p with
  | some (.win ..) => false
  | some (.rem d _ _) => !((s.launchOf c).map (s.inTeam · d)).getD true
  | _ => true

/-- An epilogue store (R101). -/
def execMepi (h : Hdr) (x : OpMepi) (s : State) : Out :=
  issue h plain (matrixOp (fun s =>
    let t := s.mycore.tiles[x.a.toNat]
    if !t.valid || !storeOk t.ty x.ty then s.raise .illegal
    else match displace (s.me.rs x.base).toNat (dispBytes x.ty x.disp) with
      | none => s.raiseStray
      | some p =>
        if !([0, 1, 2].contains (bits p 63 60)) || (s.resolve s.cur p).isNone then s.raiseAt p .illegalPointer
        else if p % 64 != 0 || (bits p 63 60 != 0 && decide (65536 < bits p 15 0 + 1024 * x.ty.size)) then s.raiseAt p .misalign
        else
          let e : Epi := { ctx := s.curCtx, born := s.me.born, dst := p, row := 0, ty := x.ty, tileTy := t.ty
                           mode := x.rnd, sat := x.sat, ovt := s.me.ovt.toNat, pc := s.me.pc
                           xlat := s.me.xlat.toNat, level := s.me.level, faulted := false, trapped := none }
          s.queued (.mepi h x) [s.me.rs x.base] (.mepi t.phys e))) s

/-- Wait for a tile's work (R104); the command takes its turn in a queue that has room, and does nothing else (R90). -/
def execMdrain (h : Hdr) (a : AReg) (s : State) : Out :=
  issue h plain (fun s => if s.mycore.mqFull || s.mycore.inFlight a.toNat then .hold else .done s) s

/-- Tile status (R105): the register is busy until the command reaches the head of the queue. -/
def execMstat (h : Hdr) (x : OpMstat) (s : State) : Out :=
  issue h plain (matrixOp (fun s =>
    let r := s.enqueue (.mstat h x) [] (.mstat x.a.toNat s.mycore.tiles[x.b.toNat])
    let k := r.2.mycore
    .done (r.2.setMycore { k with loads := k.loads ++
      [{ id := r.1, ctx := s.curCtx, reg := .s x.a.toNat, ty := .n64, val := none, due := 0, exposed := false }] }))) s

/-- Whether a handle of `mrepl` breaks its layout (R103). -/
def badHandle (v : Nat) : Bool := bits v 63 32 != 0 || bits v 30 5 != 0 || decide (24 ≤ bits v 4 0)

/-- Replay or discard of a faulted epilogue store, in its turn in the queue (R90, R103). -/
def execMrepl (h : Hdr) (b : SReg) (s : State) : Out :=
  issue h plain (matrixOp (fun s =>
    let v := (s.me.rs b).toNat
    if badHandle v then s.raise .illegal
    else s.queuedWait (.mrepl h b) [s.me.rs b] (.mrepl (bits v 4 0) (bit v 31)))) s

/-- The bank and region that an `mswz` rewrites, or the cause that refuses it (R106). -/
def State.mswzAt (s : State) (c p : Nat) : Except Trip (Nat × Nat) :=
  match s.resolve c p with
  | some (.win slot off) =>
    if p % 4096 != 0 then .error (.cause .misalign 0 p 0)
    else match s.openSlot c slot with
      | .error e => .error (.cause e slot p 0)
      | .ok pkg =>
        if s.tag pkg (off / 4096) = 15 then .error (.cause .swizzleMismatch 15 p 0) else .ok (pkg, off / 4096)
  | _ => .error (.cause .illegalPointer 0 p 0)

/-- A region rewritten under another swizzle (R106). -/
def execMswz (h : Hdr) (x : OpSCode) (s : State) : Out :=
  issue h plain (matrixOp (fun s =>
    let p := (s.me.rs x.b).toNat
    match s.mswzAt s.cur p with
    | .error e => s.trip e
    | .ok (pkg, region) => s.queuedWait (.mswz h x) [s.me.rs x.b] (.mswz pkg region x.code.toNat))) s

/-! ### Arithmetic (R51 to R53) -/

/-- The value of an element of a panel, unscaled for e2m1; none is a NaN. Lines beyond the panel are zero (R92). -/
def Panel.val (p : Panel) (l k : Nat) : Option Val :=
  match p.lines[l]? with
  | none => some (.num false 0 0)
  | some w =>
    match p.fmt with
    | .e2m1 =>
      let h := p.hdrs.getD (l * cdiv p.k 32 + k / 32) 0
      if h / 256 = 255 then none else e2m1Val (h % 256) (w / 16 ^ k % 16)
    | .i8 =>
      let v := sgn 8 (w / 256 ^ k)
      some (.num (decide (v < 0)) v.natAbs 0)
    | t => match decodeF t (w / 2 ^ (ETy.w t * k) % 2 ^ ETy.w t) with
      | .nan => none
      | v => some v

/-- The stamp of a NaN that a core makes at a K-step index (R53). -/
def stampNaN (core kidx : Nat) : Nat := 0x7FC00000 + core * 2 ^ 11 + kidx % 2048

/-- Rounding of the accumulator. -/
def accRnd : Rnd := { mode := .rn, sat := false, ovt := 0, conv := false }

/-- One element of an f32 accumulator after a K-step's products (R51, R53). -/
def macF (stamp acc : Nat) (ps : List (Option Val × Option Val)) : Nat :=
  if isNaN .f32 acc then acc
  else
    let ms := ps.map (fun p => match p with | (some a, some b) => mulV a b | _ => none)
    if ms.any (·.isNone) then stamp
    else
      let a := ms.foldl (fun a v => a.add (v.getD .nan)) (Acc.zero.add (decodeF .f32 acc))
      if a.pinf && a.ninf then stamp else a.round .f32 accRnd

/-- One element of an i32 accumulator after a K-step's products (R51). -/
def macI (acc : Nat) (ps : List (Option Val × Option Val)) : Nat :=
  let num (v : Option Val) : Int := match v with | some (.num s m _) => if s then -(m : Int) else m | _ => 0
  wrapN 32 (ps.foldl (fun a p => a + num p.1 * num p.2) (acc : Int))

/-- The factor pairs of element (i, j) in a K-step (R97, R99): a product beyond K, or of an empty slot, is no term of the sum,
and lines of A without metadata give +0 whatever B holds (assumption 89). -/
def kPairs (fmt : ETy) (pa pb : Panel) (sparse : Option (List (List Nat))) (st i j : Nat) : List (Option Val × Option Val) :=
  let g := groupSize fmt
  let ks := (List.range g).filterMap (fun d => if g * st + d < pa.k then some (g * st + d) else none)
  match sparse with
  | none => ks.map (fun k => (pa.val i k, pb.val j k))
  | some rows => ks.filterMap (fun t =>
      match rows[i]? with
      | none => some (some (.num false 0 0), some (.num false 0 0))
      | some r =>
        let ix := (r.getD (t / 6) 0) / 16 ^ (t % 6) % 16
        if ix = 15 then none else some (pa.val i t, pb.val j (12 * (t / 6) + ix)))

/-- K-steps st to ns − 1 applied to a physical tile (R97, R99); n is how many remain. -/
def kSteps (core : Nat) (fmt : ETy) (pa pb : Panel) (sparse : Option (List (List Nat))) : Nat → Nat → PTile → PTile
  | 0, _, t => t
  | n + 1, st, t =>
    let e := t.elems.zipIdx.map (fun p =>
      let ps := kPairs fmt pa pb sparse st (p.2 / 32) (p.2 % 32)
      if fmt = .i8 then macI p.1 ps else macF (stampNaN core t.kidx) p.1 ps)
    kSteps core fmt pa pb sparse n (st + 1) { elems := e, kidx := (t.kidx + 1) % 2048 }

/-- One element of `mscale` (R52). -/
def scaleAcc (stamp o p a b : Nat) : Nat :=
  match chooseNaN .f32 [p, o] with
  | some c => c
  | none =>
    if a = 255 || b = 255 then stamp
    else
      let v := match decodeF .f32 p with
        | .num s m e => .num s m (e + a + b - 254)
        | v => v
      let acc := (Acc.zero.add (decodeF .f32 o)).add v
      if acc.pinf && acc.ninf then stamp else acc.round .f32 accRnd

/-- An element of a tile in a store type (R101); an unset tile holds +0. -/
def epiElem (e : Epi) (v : Nat) : Nat :=
  let r : Rnd := { mode := e.mode, sat := e.sat, ovt := e.ovt, conv := true }
  match e.tileTy with
  | 1 => convE e.ty .f32 r v
  | 2 => convE e.ty .i32 r v
  | _ => 0

/-! ### Commands at the head of the queue -/

/-- The agent of an epilogue store. -/
def State.epiAgent (s : State) (c stamp : Nat) (e : Epi) : Agent :=
  { stamp := stamp, core := c, part := s.partOf c, vdev := s.vdevOf c, xlat := e.xlat, level := e.level
    path := .mx }

/-- The cause reported under an EPILOGUE_FAULT (R102): a home's or a link's refusal as REMOTE_REFUSED. -/
def rowCause (dst : Nat) (t : Trip) : Cause :=
  let c := t.what.1
  let down := match t with | .down _ => true | _ => false
  let refusal := down || c == .dieAbsent || (bits dst 63 60 == 2 && (c == .bankDetached || c == .bankFrozen))
  if refusal then .remoteRefused else c

/-- 32 elements of a store type as one number. -/
def packRow (t : ETy) (xs : List Nat) : Nat := xs.foldr (fun x a => x % 2 ^ ETy.w t + 2 ^ ETy.w t * a) 0

/-- Parts of a run that is sent to another die or device, each with its destination (R129). -/
def sendParts (p : Piece) : List (Nat × Nat × Dest) :=
  let ps := partsOf p.run.1 p.len 0 p.len
  match p with
  | .dev a _ h => ps.map (fun q => (q.1, q.2, .dev [(a + q.1, q.2)] [h]))
  | .peer a _ l => ps.map (fun q => (q.1, q.2, .peer ((a + q.1) / 2 ^ 48) ((a + q.1) % 2 ^ 48) l))
  | _ => []

/-- A row's value put into its pieces: those of this die are written, the others' parts are sent as one group (R145, R153). -/
def State.rowPieces (s : State) (g : Agent) (group : Nat) : List Piece → Nat → State
  | [], _ => s
  | p :: r, v =>
    let t := match p.buffer g.core with
      | none => s.pieceWrite g p (v % 256 ^ p.len)
      | some _ => s.each (sendParts p) (fun s q => s.sendStore g group q.2.2 q.2.1 (v / 256 ^ q.1 % 256 ^ q.2.1))
    State.rowPieces t g group r (v / 256 ^ p.len)

/-- What the next step of an epilogue does: its record after it, or what stops the row. -/
inductive RowOut where
  | went (s : State) (e : Epi)
  | stops (s : State) (t : Trip)

/-- The next step of an epilogue (R101): a row is stored, or sent on its way; a row that was sent has been acknowledged, or refused
(R102). -/
def State.rowStep (s : State) (c : Nat) (g : Agent) (e : Epi) (elems : List Nat) : RowOut :=
  match e.sent with
  | some n =>
    let back := s.net.filter (fun a => a.group == n)
    let t : State := { s with net := s.net.filter (fun a => a.group != n) }
    if back.isEmpty then .went t { e with row := e.row + 1, sent := none } else .stops t (.down e.dst)
  | none =>
    let n := 32 * e.ty.size
    let p := e.dst + e.row * n
    let v := packRow e.ty ((List.range 32).map (fun j => epiElem e (elems.getD (e.row * 32 + j) 0)))
    match s.resolve c p with
    | some (.rem d slot off) =>
      if !s.reaches c (clusterOf d) then .stops s (.cause .perm (pageDetail 0 false 1) p 0)
      else if dieOf d = dieOf c then (match s.bulkWrite g p n v with
        | .error t => .stops s t
        | .ok t => .went t { e with row := e.row + 1 })
      else
        let t := s.each (partsOf off n 0 n) (fun t q => t.sendStore g s.nonce (.slot d slot (off + q.1)) q.2 (v / 256 ^ q.1 % 256 ^ q.2))
        .went t { e with sent := some s.nonce }
    | _ => match s.place g p n 1 with
      | .error t => .stops s t
      | .ok (ps, es) =>
        let t := State.rowPieces (((s.touchPtr g p n).setDirty g.core g.part es).chargePieces g.part ps) g s.nonce ps v
        if ps.any (fun q => (q.buffer c).isSome) then .went t { e with sent := some s.nonce } else .went t { e with row := e.row + 1 }

/-- Detail word of an EPILOGUE_FAULT (R304). -/
def epiDetail (p row : Nat) (c : Cause) : Nat := p + c.code * 256 + row * 65536

/-- The head command leaves the queue. -/
def State.popCmd (s : State) (c : Nat) : State := s.setCore c { s.core c with mq := (s.core c).mq.tail, parity := 0 }

/-- The context that waits for a command goes on. -/
def State.cmdDone (s : State) (c : Nat) (m : MCmd) : State :=
  if (s.ctx c m.ctx).wait == .matrix m.id then s.finishWait c m.ctx else s

/-- A region's bytes under a new code (R106). -/
def State.reswizzle (s : State) (pkg region old new : Nat) : State :=
  let log := s.each (List.range 64) (fun s i => s.logLine pkg (region * 64 + i))
  let base := region * 4096
  let gran (i : Nat) : Nat := s.bankRead pkg (base + swz old (16 * i)) 16
  let t := log.each (List.range 256) (fun t i =>
    (t.repairLog pkg (base + swz new (16 * i)) 16 (gran i)).bankRaw pkg (base + swz new (16 * i)) 16 (gran i))
  t.setTag pkg region new

/-- What `mstat` reads of a name as the commands before it leave it (R90, R105). -/
def Core.tileStatus (k : Core) (t : Tile) : Nat :=
  let free := ((List.range 24).filter (fun p => !k.holds p)).length
  let run := match Tab.get? k.epis t.phys with | some e => !e.faulted | none => false
  free * 2 ^ 32
    + (if t.valid then (Tab.getD k.phys t.phys { elems := [], kidx := 0 }).kidx % 2048 * 2 ^ 16 + t.phys * 2 ^ 8
        + b2n run * 16 + t.ty * 4 + b2n t.dirty * 2 + 1 else 0)
    + b2n (k.epis.any (fun e => e.2.faulted)) * 32

/-- The place of a faulted epilogue's record: its tile's number, or, while the tile has one, a later place of the tile (R102;
assumption 93). -/
def Core.epiKey (k : Core) (p : Nat) : Nat := p + 32 * (k.epis.filter (fun e => e.1 % 32 == p)).length

/-- The oldest record of a tile released; a later one takes its place (R103; assumption 93). -/
def dropEpi (p : Nat) (es : Tab Epi) : Tab Epi :=
  es.filterMap (fun e => if e.1 % 32 != p then some e else if e.1 = p then none else some (e.1 - 32, e.2))

/-- A row of an epilogue beyond its team's banks cannot be undone (R110, R314). -/
def State.rowStored (s : State) (c : Nat) (e : Epi) : State := if s.farStore c e.dst then s.noRoll c else s

/-- A step's writes to a tile that the team checkpoint holds cannot be undone (R110). -/
def State.tileWrite (s : State) (c p : Nat) : State := if (s.core c).ckptTiles.contains p then s.noRoll c else s

/-- The head command goes on: it has begun, and stands in the queue as it is now. -/
def State.keepCmd (s : State) (c : Nat) (m : MCmd) (op : MOp) : State :=
  s.setCore c { s.core c with mq := { m with op := op, begun := true } :: (s.core c).mq.tail }

/-- Elements of a physical tile. -/
def Core.elems (k : Core) (p : Nat) : List Nat := (Tab.getD k.phys p { elems := [], kidx := 0 }).elems

/-- The agent of a panel load. -/
def State.mldAgent (s : State) (c : Nat) (m : MCmd) (xlat level : Nat) : Agent :=
  { stamp := m.id, core := c, part := s.partOf c, vdev := s.vdevOf c, xlat := xlat, level := level, path := .mx }

/-- The shape of a panel load: of the record read at its issue, or, where a restored one's could not be read then, of the record as it
stands (R109). -/
def State.shapeFor (s : State) (g : Agent) (sh r : Nat) : Except Trip Shape :=
  match shapeOf r with
  | some h => .ok h
  | none => match s.readShape g sh with
    | .error e => .error e
    | .ok (w, _) => match shapeOf w with
      | some h => .ok h
      | none => .error (.cause .illegal 0 0 0)

/-- The region that an `mswz` rewrites: in the bank that its issue found, which may be draining since (R108, R163), or, where a restored
one's was not there then, in the bank that its pointer names now. -/
def State.swizzled (s : State) (c : Nat) (m : MCmd) (pkg region : Nat) : Except Trip (Nat × Nat) :=
  let p := m.ops % 2 ^ 64
  if 12288 ≤ pkg then s.mswzAt c p
  else match s.bankFor c c (bits p 20 16) m.id with
    | .error e => .error (.cause e (bits p 20 16) p 0)
    | .ok b =>
      if b != pkg then .error (.cause .bankDetached (bits p 20 16) p 0)
      else if s.tag pkg region = 15 then .error (.cause .swizzleMismatch 15 p 0)
      else .ok (pkg, region)

/-- The command at the head of a core's queue (R90 to R106): one K-step of an `mmac` (R97), one row of an epilogue (R101), or a
whole command. -/
def State.matrixRun (s : State) (c : Nat) (m : MCmd) : Out :=
  let k := s.core c
  let u := s.popCmd c
  match m.op with
  | .mzero .. => .next u
  | .mld isA b p sh r xl lv =>
    let g := s.mldAgent c m xl lv
    match (s.shapeFor g sh r).bind (fun h => (s.readPanel g h p sh).map (fun q => (h, q))) with
    | .ok (h, pan) =>
      let u := (h.runs p).getD [] |>.foldl (fun u e => u.touchPtr g e.1 e.2) u
      let u := u.chargePieces g.part ((s.panelAt g h p).toOption.getD []).flatten
      .next ((u.setCore c { u.core c with bufs := (u.core c).bufs.setIfInBounds b (some pan) }).cmdDone c m)
    | .error e =>
      let v := u.core c
      let v := if isA then { v with curA := if v.curA = b then 1 - b else v.curA }
        else { v with curB := if v.curB + 2 = b then 3 - b else v.curB }
      (u.setCore c v).tripWaiting s c m.ctx e
  | .mmac p fmt ba bb sparse st =>
    match k.bufs.toList.getD ba none, k.bufs.toList.getD bb none with
    | some pa, some pb =>
      if cdiv pa.k (groupSize fmt) ≤ st then .next u
      else
        let t := kSteps c fmt pa pb sparse 1 st (Tab.getD k.phys p { elems := [], kidx := 0 })
        let u := if st + 1 < cdiv pa.k (groupSize fmt) then s.keepCmd c m (.mmac p fmt ba bb sparse (st + 1)) else u
        let u := u.tileWrite c p
        .next (u.setCore c { u.core c with phys := Tab.put (u.core c).phys p t })
    | _, _ => .next u
  | .mscale d r rows cols =>
    let o := Tab.getD k.phys d { elems := [], kidx := 0 }
    let q := Tab.getD k.phys r { elems := [], kidx := 0 }
    let e := (List.zipWith (fun x y => (x, y)) o.elems q.elems).zipIdx.map (fun p =>
      scaleAcc (stampNaN c o.kidx) p.1.1 p.1.2 (rows.getD (p.2 / 32) 0) (cols.getD (p.2 % 32) 0))
    let u := u.tileWrite c d
    .next (u.setCore c { u.core c with phys := Tab.put (u.core c).phys d { o with elems := e } })
  | .mepi p e =>
    match s.rowStep c (s.epiAgent c m.id e) e (k.elems p) with
    | .went t f =>
      let t := t.rowStored c e
      .next (if f.row < 32 then t.keepCmd c m (.mepi p f) else t.popCmd c)
    | .stops _ (.gone a) => .fault (.noSuchMemory a)
    | .stops t tr =>
      let trap : Trap := { cause := Cause.epilogueFault.code, detail := epiDetail p e.row (rowCause e.dst tr), resume := 0
                           fpc := e.pc, va := e.pc, ipa := 0, jrn := none, async := true }
      let u := t.popCmd c
      .next (u.setCore c { u.core c with
        epis := Tab.put (u.core c).epis ((u.core c).epiKey p) { e with sent := none, trapped := some trap } })
  | .mstat r t =>
    let v := k.tileStatus t
    let u := u.setCore c { u.core c with loads := (u.core c).loads.filter (·.id != m.id) }
    .next (if (u.ctx c m.ctx).born == m.born then u.writeReg c m.ctx (.s r) .n64 v else u)
  | .mswz pkg region code =>
    match s.swizzled c m pkg region with
    | .error e => u.tripWaiting s c m.ctx e
    | .ok (b, r) =>
      if s.torn.contains m.id || s.bankBad b (r * 4096) 4096 then u.tripWaiting s c m.ctx (.cause .uncorrectable 0 (m.ops % 2 ^ 64) 0)
      else .next ((u.reswizzle b r (s.tag b r) code).cmdDone c m)
  | .mrepl p discard =>
    match Tab.get? k.epis p with
    | none => u.tripWaiting s c m.ctx (.cause .illegal 0 0 0)
    | some e =>
      let done (u : State) : State := (u.setCore c { u.core c with epis := dropEpi p (u.core c).epis }).cmdDone c m
      if discard then .next (done u)
      else match s.rowStep c (s.epiAgent c m.id e) e (k.elems p) with
      | .went t f =>
        let t := t.rowStored c e
        if f.row < 32 then
          let t := t.keepCmd c m m.op
          .next (t.setCore c { t.core c with epis := Tab.put (t.core c).epis p f })
        else .next (done (t.popCmd c))
      | .stops _ (.gone a) => .fault (.noSuchMemory a)
      | .stops t tr =>
        let u := t.popCmd c
        let u := u.setCore c { u.core c with epis := Tab.put (u.core c).epis p { e with sent := none } }
        .next ((u.trapWaiting c m.ctx Cause.epilogueFault.code (epiDetail p e.row (rowCause e.dst tr)) e.pc 0).getD s)

/-- The context that a core's trap goes to: the issuer, or the control context where it has ended (R102). -/
def State.trapHost (s : State) (c x born : Nat) : Nat :=
  if (s.ctx c x).live && (s.ctx c x).born == born then x else 0

/-! ### Events -/

/-- The epilogue that a command stores rows of. -/
def Core.epiOf (k : Core) (m : MCmd) : Option Epi :=
  match m.op with
  | .mepi _ e => some e
  | .mrepl p false => Tab.get? k.epis p
  | _ => none

/-- The agent of a command's accesses, and the ranges that they read or write (R268). -/
def State.matrixRuns (s : State) (c : Nat) (m : MCmd) : Agent × List (Nat × Nat) :=
  match m.op with
  | .mld _ _ p sh r xl lv =>
    let g := s.mldAgent c m xl lv
    (g, (sh, 32) :: (match s.shapeFor g sh r with
      | .ok h => (h.runs p).getD []
      | .error _ => []))
  | _ => match (s.core c).epiOf m with
    | some e => (s.epiAgent c m.id e, if e.sent.isSome then [] else [(e.dst + e.row * 32 * e.ty.size, 32 * e.ty.size)])
    | none => (s.mldAgent c m 0 0, [])

/-- Whether the matrix unit stops before a command: a save waits for it (R109, R318), but not while a status read is still queued
(assumption 93). A command that stores rows and has begun goes on. -/
def State.unitStops (s : State) (c : Nat) (m : MCmd) : Bool :=
  let k := s.core c
  (k.preempt.isSome || k.unitStop) && !(m.begun && (k.epiOf m).isSome)
    && k.mq.all (fun m => match m.op with | .mstat .. => false | _ => true)

/-- Whether a panel load may read now: what its die's bridge holds over a part of it is waited for (R145). -/
def State.panelClear (s : State) (c : Nat) (m : MCmd) : Bool :=
  match m.op with
  | .mld _ _ p sh r xl lv =>
    let g := s.mldAgent c m xl lv
    (match (s.shapeFor g sh r).bind (fun h => s.panelAt g h p) with
    | .ok ps => !s.readWaits c ps.flatten
    | .error _ => true)
  | _ => true

/-- Whether the unit may execute its head command: a refetch comes first (R109), a second epilogue of a tile waits for the
first (R101), a replay for the fault that it answers, a row for those before it (R102), and every access for its page's walk
(R268). -/
def State.matrixReady (s : State) (c : Nat) : Bool :=
  let k := s.core c
  match k.mq with
  | [] => false
  | m :: _ => !k.refetch && !s.unitStops c m && s.panelClear c m && (match m.op with
    | .mepi p _ => k.epis.all (fun e => e.1 % 32 != p || e.2.faulted)
    | .mrepl p _ => (match Tab.get? k.epis p with | some e => e.faulted | none => true)
    | _ => true)
    && (match (k.epiOf m).bind (·.sent) with
      | some g => s.net.all (fun a => a.group != g || a.refused.isSome)
      | none => true)
    && s.workGoes (s.matrixRuns c m).1 (s.matrixRuns c m).2

/-- MATRIX_COMMAND_EXECUTE: the unit runs the command at the head of its queue, or a step of it, or begins a walk that it needs. -/
def execMatrixCommandExecute (core : Nat) (s : State) : Out :=
  match (s.core core).mq with
  | m :: _ =>
    let r := s.matrixRuns core m
    if !s.matrixReady core then .next s
    else if (s.unwalked r.1 r.2).isEmpty then State.matrixRun (s.endWalks r.1) core m
    else .next (s.walkPages r.1 (s.toWalk r.1 r.2))
  | [] => .next s

/-- EPILOGUE_ROW_FAULT: the fault of an epilogue store reaches its context (R102). -/
def execEpilogueRowFault (core : Nat) (phys : Nat) (s : State) : Out :=
  match Tab.get? (s.core core).epis phys with
  | some e => match e.trapped with
    | some t =>
      let s := s.setCore core { s.core core with
        epis := Tab.put (s.core core).epis phys { e with faulted := true, trapped := none } }
      .next (s.pendTrap core (s.trapHost core e.ctx e.born) t)
    | none => .next s
  | none => .next s

/-- One more error that a check has repaired, counted for its place: 0 the operand queues, 1 bank words, 2 lines of HBM, 3 flits on
the mesh and at the bridges, 4 Silkenor, 5 lines of the tier (R283). -/
def State.repaired (s : State) (place : Nat) : State :=
  { s with hub := { s.hub with corrected := Tab.put s.hub.corrected place (Tab.getD s.hub.corrected place 0 + 1) } }

/-- A parity error on the operand queue: the third on one transfer raises UNCORRECTABLE (R111). -/
def State.queueError (s : State) (core : Nat) : State :=
  let k := s.core core
  match k.mq with
  | [] => s
  | m :: r =>
    if k.parity < 2 then (s.setCore core { k with parity := k.parity + 1 }).repaired 0
    else
      let t : Trap := { cause := Cause.uncorrectable.code, detail := 2, resume := 0, fpc := m.pc
                        va := m.op.tiles.headD 0, ipa := 0, jrn := none, async := true }
      let s := s.setCore core { k with mq := r, parity := 0, loads := k.loads.filter (·.id != m.id) }
      let s := if (s.ctx core m.ctx).wait == .matrix m.id then s.setCtx core m.ctx { s.ctx core m.ctx with wait := .none, finish := none } else s
      s.pendTrap core (s.trapHost core m.ctx m.born) t

/-- Whether a number is that of a message, a strand's chain, a gather, a collective or a matrix command under way. -/
def State.workNo (s : State) (id : Nat) : Bool :=
  s.xnet.any (·.id == id) || s.chains.any (·.id == id) || s.gathers.any (·.id == id) || s.colls.any (·.id == id)
    || s.cores.any (fun e => e.2.mq.any (·.id == id))

/-- A flit that has failed sixteen retries: its access is refused as uncorrectable, or its message or work ends so (R283). -/
def State.lostFlit (s : State) (id : Nat) : State :=
  match s.net.find? (fun a => a.id == id && !a.performed && a.refused.isNone) with
  | some a => s.setAccess { a with refused := some Cause.uncorrectable.code }
  | none => if s.workNo id then { s with torn := insertSet id s.torn } else s

/-- The bridge of a die fails while the die runs: of what its sequencer has accepted, what it has not closed reaches no merged batch,
since the hub sends empty ones in their place (R205; assumption 103). -/
def State.bridgeFails (s : State) (d : Nat) : State :=
  if 4 ≤ d || s.hub.failed.contains d then s
  else
    let q := s.seqs.toList.getD d Sequencer.reset
    { s with
      hub := { s.hub with failed := insertSet d s.hub.failed }
      seqs := s.seqs.setIfInBounds d { q with open_ := q.open_.map (fun u => if u.beat < q.closed then u else { u with slices := [] }) } }

/-- OPERAND_QUEUE_PARITY_ERROR: a check meets an error (R111, R283): repaired, it is counted; else the word or line is
uncorrectable from now on, or what the flit belongs to, or the bridge, fails. -/
def execOperandQueueParityError (place : ErrorPlace) (s : State) : Out :=
  match place with
  | .queue core => .next (s.queueError core)
  | .bank pkg word fixed =>
    .next (if fixed then s.repaired 1 else { s with badBank := insertSet (pkg * 8192 + word) s.badBank })
  | .line line fixed =>
    .next (if fixed then s.repaired (if inHbm (64 * line) then 2 else 5) else { s with badMem := insertSet line s.badMem })
  | .flit id fixed => .next (if fixed then s.repaired 3 else s.lostFlit id)
  | .bridge d => .next (s.bridgeFails d)

/-- The buffers refetched in turn; the first that fails stops it. -/
def State.refetchBufs (s : State) (c : Nat) (g : Agent) : List Nat → Except Trip State
  | [] => .ok s
  | b :: r =>
    match (s.core c).bufs.toList.getD b none with
    | none => s.refetchBufs c g r
    | some p =>
      match s.readShape g p.shape with
      | .error e => .error e
      | .ok (w, s) => match shapeOf w with
        | none => .error (.cause .illegal 0 0 0)
        | some h => match s.readPanel g h p.ptr p.shape with
          | .error e => .error e
          | .ok q =>
            let s := ((h.runs p.ptr).getD []).foldl (fun u e => u.touchPtr g e.1 e.2) s
            let s := s.chargePieces g.part ((s.panelAt g h p.ptr).toOption.getD []).flatten
            State.refetchBufs (s.setCore c { s.core c with bufs := (s.core c).bufs.setIfInBounds b (some q) }) c g r

/-- K and lines of the A panel that a command of the queue meets: of the last load of its buffer before it, or of the buffer. -/
def State.panelDims (s : State) (c : Nat) (g : Agent) (before : List MCmd) (b : Nat) : Nat × Nat :=
  match (before.filterMap (fun m => match m.op with
      | .mld _ buf _ sh r _ _ => if buf = b then some (sh, r) else none
      | _ => none)).getLast? with
  | some (sh, r) => (match s.shapeFor g sh r with
    | .ok h => (h.k, h.lines)
    | .error _ => (0, 0))
  | none => (((s.core c).bufs.toList.getD b none).map (fun p => (p.k, p.lines.length))).getD (0, 0)

/-- The metadata of restored sparse commands read again with the panels (R98, R109; assumption 104): an empty list stands for what is
to be read. -/
def State.refetchMeta (s : State) (c : Nat) (g : Agent) : List MCmd → List MCmd → Except Trip State
  | before, [] => .ok (s.setCore c { s.core c with mq := before })
  | before, m :: r =>
    match m.op with
    | .mmac p fmt ba bb (some []) st =>
      let d := s.panelDims c g before ba
      let n := d.1 / 6
      (match s.bulkRead g (m.ops % 2 ^ 64) (d.2 * n * 3) with
      | .error e => .error e
      | .ok (v, s) =>
        let rows := (List.range d.2).map (fun i => (List.range n).map (fun j => fieldB v ((i * n + j) * 3) 3))
        State.refetchMeta s c g (before ++ [{ m with op := .mmac p fmt ba bb (some rows) st }]) r)
    | _ => State.refetchMeta s c g (before ++ [m]) r

/-- A whole refetch: the panels, then the metadata. -/
def State.refetchAll (s : State) (c : Nat) (g : Agent) : Except Trip State :=
  match s.refetchBufs c g [0, 1, 2, 3] with
  | .error e => .error e
  | .ok t => t.refetchMeta c g [] (t.core c).mq

/-- The agent of a refetch: the control context's translation. -/
def State.refetchAgent (s : State) (c : Nat) : Agent :=
  { stamp := 0, core := c, part := s.partOf c, vdev := s.vdevOf c, xlat := (s.ctx c 0).xlat.toNat, level := 0, path := .mx }

/-- The ranges that a refetch reads (R268). -/
def State.refetchRuns (s : State) (c : Nat) : List (Nat × Nat) :=
  let g := s.refetchAgent c
  ((s.core c).bufs.toList.flatMap (fun b => match b with
      | none => []
      | some p => (p.shape, 32) :: (match s.shapeFor g p.shape 0 with
        | .ok h => (h.runs p.ptr).getD []
        | .error _ => [])))
    ++ (s.core c).mq.filterMap (fun m => match m.op with
      | .mmac _ _ _ _ (some []) _ => some (m.ops % 2 ^ 64, 1)
      | _ => none)

/-- Whether a refetch may be tried: no trap of the control context pends, its handler has returned since the last one
failed (R109), and the walks that it needs have ended or can begin (R268). -/
def State.refetchReady (s : State) (c : Nat) : Bool :=
  (s.core c).refetch && (s.ctx c 0).traps.isEmpty && !(s.core c).refetchFailed && s.workGoes (s.refetchAgent c) (s.refetchRuns c)

/-- PANEL_REFETCH: every buffer recorded as loaded is read again by its pointers (R109), once the walks that it needs have ended. -/
def execPanelRefetch (core : Nat) (s : State) : Out :=
  let g := s.refetchAgent core
  if !s.refetchReady core then .next s
  else if !(s.unwalked g (s.refetchRuns core)).isEmpty then .next (s.walkPages g (s.toWalk g (s.refetchRuns core)))
  else match State.refetchAll (s.endWalks g) core g with
    | .ok t => .next (t.setCore core { t.core core with refetch := false })
    | .error (.gone a) => .fault (.noSuchMemory a)
    | .error e =>
      let w := e.what
      let s := s.endWalks g
      .next (State.pendTrap (s.setCore core { s.core core with refetchFailed := true }) core 0
        { cause := w.1.code, detail := w.2.1, resume := 0, fpc := Config.mldAddress s.nonce % 2 ^ 48, va := w.2.2.1
          ipa := w.2.2.2, jrn := none, async := true, again := true })

end Sys2Proof.Machine
end

