-- ==== Sys2Proof/Machine/Engine.lean ====
section
/-!
DEFINITION. Class 0xC: the engines and the queue registers (R192 to R202, R270 to R272, R363): starting work, what a
channel does with a strand, gathers, collectives, completion items and user interrupts.
-/

namespace Sys2Proof.Machine

/-! ### Channels (R192) -/

/-- Number of a copy channel: 4 × cluster + n, or 0x1000 + n for the hub's. -/
def copyChan (core : Nat) (ch : Nat) : Nat := if ch < 0x80 then 4 * clusterOf core + ch else 0x1000 + (ch - 0x80)

/-- Number of a swap channel. -/
def swapChan (ch : Nat) : Nat := 0x2000 + ch

/-- The channel value of a number (R192, R196). -/
def chanValue (n : Nat) : Nat := if n < 0x1000 then n % 4 else if n < 0x2000 then 0x80 + (n - 0x1000) else (n - 0x2000) % 256

/-- Whether a partition holds a channel (R192, R272). -/
def State.holdsChan (s : State) (p n : Nat) : Bool :=
  if n < 0x1000 then true
  else if n < 0x2000 then bit (s.part p).chmask (n - 0x1000)
  else bit (s.part p).chmask (32 + (n - 0x2000))

/-- The allowance register that meters a channel (R271). -/
def allowOf (n : Nat) : Option Nat := if n < 0x1000 then none else if n < 0x2000 then some 0 else some 1

/-- Whether a partition's balance lets a channel begin a strand of it (R272). -/
def State.solvent (s : State) (p n : Nat) : Bool :=
  match allowOf n with
  | none => true
  | some i =>
    let a := (s.part p).allow.toList.getD i Allow.reset
    !a.metered || decide (0 < a.balance)

/-- Priority of a partition on a channel (R271). -/
def State.prioOn (s : State) (p n : Nat) : Nat :=
  match allowOf n with
  | none => 0
  | some i => ((s.part p).allow.toList.getD i Allow.reset).prio

/-! ### Completion records and items (R196 to R198) -/

/-- The record of the core that started work of a unit: it follows a unit that is switched out (R318). -/
def State.recordFor (s : State) (c : Nat) (u : Option (Nat × Nat)) : List (Nat × Bool) :=
  match s.parkedOf u c with
  | some (_, p) => p.record
  | none => (s.core c).record

/-- Whether a record has room to begin an identifier (R197). -/
def State.recordRoom (s : State) (c : Nat) (u : Option (Nat × Nat)) : Bool :=
  let r := s.recordFor c u
  decide (r.length < 64) || r.any (·.2)

/-- A list without its first element of a kind. -/
def dropFirst {α : Type} (p : α → Bool) : List α → List α
  | [] => []
  | x :: r => if p x then r else x :: dropFirst p r

/-- A record with an identifier marked: an entry is reused, and a new one displaces the oldest finished one from a full
record (R197). -/
def markIn (r : List (Nat × Bool)) (id : Nat) (finished : Bool) : List (Nat × Bool) :=
  if r.any (·.1 == id) then r.map (fun e => if e.1 == id then (id, finished) else e)
  else (if 64 ≤ r.length then dropFirst (·.2) r else r) ++ [(id, finished)]

/-- An identifier of a unit's work marked in the record of its core. -/
def State.recordSet (s : State) (c : Nat) (u : Option (Nat × Nat)) (id : Nat) (finished : Bool) : State :=
  match s.parkedOf u c with
  | some (l, p) => s.setLaunch { l with
      parked := l.parked.map (fun q => if q.rank == p.rank then { q with record := markIn q.record id finished } else q) }
  | none => s.setCore c { s.core c with record := markIn (s.core c).record id finished }

/-- A completion item (R196). -/
def itemOf (chan st cause id : Nat) (fault : Bool) : Nat :=
  2 ^ 63 + b2n fault * 2 ^ 62 + chanValue chan % 256 * 2 ^ 40 + st * 2 ^ 32 + cause * 2 ^ 16 + id

/-- Where the context that a message addresses stands: on its core, switched out, or nowhere. -/
inductive Place where
  | here (x : Nat)
  | away (x : Nat)
  | gone
  deriving DecidableEq, Repr

/-- The control context of a unit on a core (R247, R253, R259). -/
def State.controlOf (s : State) (c : Nat) (u : Option (Nat × Nat)) : Place :=
  let k := s.core c
  let x := s.ctx c 0
  if k.unit == u && x.live && x.inUnit == u.isSome then .here 0
  else if k.out.any (fun o => o.ctx == 0 && o.unit == u) || (s.parkedOf u c).isSome then .away 0
  else .gone

/-- The context that a completion goes to: the one that started the work, or, once it has ended, its unit's control context
(R247). -/
def State.postAt (s : State) (p : Post) : Place :=
  let k := s.ctx p.core p.ctx
  if k.live && k.born == p.born then .here p.ctx
  else if (s.core p.core).out.any (fun o => o.ctx == p.ctx && o.born == p.born) then .away p.ctx
  else s.controlOf p.core p.unit

/-- The messages that a core's interface holds for a context: each takes one of its channel's 4 credits (R270). One that a save area
holds takes none. -/
def State.atInterface (s : State) (c : Nat) (at_ : Place) : Nat :=
  (s.posts.filter (fun p => p.atCore && !p.spilled && p.core == c && s.postAt p == at_)).length
    + (s.xnet.filter (fun m => m.stage == 1 && m.target == c && s.controlOf c m.unit == at_)).length

/-- A context consumes messages unless it is trapped (R270). -/
def Ctx.consumes (k : Ctx) : Bool := k.live && !k.trapcause.getLsbD 63

/-- A message of a completion that its context takes: an item, or an interrupt (R196, R198). One for a unit that has gone is dropped.
None while the context cannot take it. -/
def State.takePost (s : State) (p : Post) : Option State :=
  match s.postAt p with
  | .gone => some s
  | .away _ => none
  | .here x =>
    let t := s.ctx p.core x
    let i := p.q - 4
    let q := t.q.toList.getD i []
    if p.spilled || !t.consumes || (p.item.isSome && decide (16 ≤ q.length)) || (p.irq.isSome && decide (16 ≤ t.irqs.length)) then none
    else some (s.setCtx p.core x { t with
      q := (match p.item with
        | some v => t.q.setIfInBounds i (q ++ [{ wide := false, val := BitVec.ofNat 512 v }])
        | none => t.q)
      irqs := t.irqs ++ p.irq.toList })

/-- The identifier of an item that leaves Finish is finished in the core's record (R197). -/
def State.markPost (s : State) (p : Post) : State :=
  match p.ident with
  | some i => s.recordSet p.core p.unit i true
  | none => s

/-- A message that leaves Finish: its context takes it, or its core's interface where a credit is free (R196, R270). None
while neither can. An interrupt waits at Finish while 16 wait (R198). -/
def State.leaveFinish (s : State) (p : Post) : Option State :=
  let at_ := s.postAt p
  let ahead := s.posts.any (fun q => q.atCore && q.core == p.core && s.postAt q == at_)
  let irqs : Nat := (match at_ with | .here x => (s.ctx p.core x).irqs.length | _ => 0)
    + (s.posts.filter (fun q => q.atCore && q.irq.isSome && q.core == p.core && s.postAt q == at_)).length
  match (if ahead then none else s.takePost p) with
  | some t => some (t.markPost p)
  | none =>
    if decide (4 ≤ s.atInterface p.core at_) || (p.irq.isSome && decide (16 ≤ irqs)) then none
    else some (State.markPost { s.fresh.2 with posts := s.posts ++ [{ p with atCore := true, came := s.nonce }] } p)

/-- Whether a channel waits at Finish with a completion (R196, R270). -/
def State.chanBlocked (s : State) (n : Nat) : Bool := s.posts.any (fun p => p.chan == n && !p.atCore)

/-- A message of a completion sent, or held by its channel at Finish (R196); an interrupt is raised behind its strand's item (R195). -/
def State.post (s : State) (p : Post) : State :=
  (if p.item.isNone && s.chanBlocked p.chan then none else s.leaveFinish p).getD { s with posts := s.posts ++ [p] }

/-- A message that waits goes on: from Finish, or from its core's interface in arrival order (R270). None while it cannot. -/
def State.movePost (s : State) (p : Post) : Option State :=
  let t : State := { s with posts := s.posts.filter (·.id != p.id) }
  if p.atCore then
    (if (s.posts.find? (fun q => q.atCore && q.core == p.core && s.postAt q == s.postAt p)).map (·.id) == some p.id then t.takePost p
     else none)
  else if p.item.isNone && (s.posts.find? (fun q => q.chan == p.chan && !q.atCore)).map (·.id) != some p.id then none
  else t.leaveFinish p

/-! ### Strands (R193 to R195) -/

/-- Bits 31:0 of the control word of a strand. -/
def strandWord (v : Nat) : Nat := fieldB v 32 4

/-- Whether the engine owns a strand. -/
def strandOwn (v : Nat) : Bool := bit (strandWord v) 31

/-- Its transfer identifier. -/
def strandId (v : Nat) : Nat := fieldB v 36 2

/-- Its length. -/
def strandLen (v : Nat) : Nat := bits (strandWord v) 16 0

/-- Whether exactly one of Compress and Decompress is set (R323). -/
def strandSwaps (v : Nat) : Bool := bit (strandWord v) 23 != bit (strandWord v) 22

/-- The cause code of what stops an engine. -/
def Trip.code (t : Trip) : Nat := t.what.1.code

/-- The agent of a chain; a preload has its queue's translation (R222). -/
def State.chainAgent (s : State) (h : Chain) : Agent :=
  { stamp := h.id, core := h.core, part := h.part, vdev := (s.part h.part).vdev, level := h.level
    xlat := if h.mode = 1 then (s.queue h.queue).xlat.toNat else h.xlat
    path := if 0x2000 ≤ h.chan then .sw else .cp, unit := h.unit }

/-- A strand's bytes at a pointer, or the cause that makes it unreadable (R193, R363): MISALIGN for one that is not 64-byte aligned,
and ILLEGAL_POINTER for one of another space than 0 and 1, or that names nothing (assumption 107). -/
def State.readStrand (s : State) (g : Agent) (p : Nat) : Except Nat (Nat × State) :=
  if !([0, 1].contains (bits p 63 60)) || (s.resolve g.core p).isNone then .error Cause.illegalPointer.code
  else if p % 64 != 0 then .error Cause.misalign.code
  else match s.bulkRead g p 64 with
    | .error t => .error t.code
    | .ok r => .ok r

/-- Whether a pointer may stand in a strand (R195). -/
def State.strandPtr (s : State) (g : Agent) (p : Nat) : Bool := bits p 63 60 != 4 && (s.resolve g.core p).isSome

/-- The parameter block of a strand (R194), zero where it has none, with the state that its read leaves, or the cause that makes the
strand bad. -/
def State.paramOf (s : State) (g : Agent) (v : Nat) : Except Nat (Nat × State) :=
  let p := fieldB v 24 8
  let w := strandWord v
  let ill := Cause.illegal.code
  if p = 0 then (if bit w 20 || bit w 21 then .error ill else .ok (0, s))
  else if !([0, 1].contains (bits p 63 60)) then .error Cause.illegalPointer.code
  else if p % 64 != 0 then .error ill
  else match s.bulkRead g p 64 with
    | .error t => .error t.code
    | .ok (b, s) =>
      let hd := fieldB b 0 8
      if fieldB b 9 7 != 0 || decide (6 < fieldB b 8 1) || (bit w 20 && (hd % 4 != 0 || bits hd 63 48 != 0)) then .error ill
      else .ok (b, s)

/-- Bad(s) (R195, R323): the parameter block of a good strand, with the state that its read leaves, or the cause. -/
def State.strandCheck (s : State) (g : Agent) (swap : Bool) (v : Nat) : Except Nat (Nat × State) :=
  let w := strandWord v
  let ill := Cause.illegal.code
  let dst := fieldB v 16 8
  let bank (p : Nat) : Bool := bits p 63 60 == 1 || bits p 63 60 == 2
  let code := bits w 27 24
  let flags := bit w 23 || bit w 22
  if bits w 30 28 != 0 || bits w 19 17 != 0 || fieldB v 48 16 != 0 then .error ill
  else if strandLen v = 0 || decide (0x10000 < strandLen v) then .error ill
  else if (flags && !swap) || (bit w 23 && bit w 22) then .error ill
  else if decide (7 < code) || (code != 0 && !bank dst && !bit w 21) then .error ill
  else if !s.strandPtr g (fieldB v 8 8) || !s.strandPtr g dst || (fieldB v 24 8 != 0 && !s.strandPtr g (fieldB v 24 8)) then
    .error Cause.illegalPointer.code
  else if swap && flags && (code != 0 || bit w 21) then .error ill
  else match s.paramOf g v with
    | .error c => .error c
    | .ok (b, s) =>
      let rs := (List.range (fieldB b 8 1)).map (fun i => fieldB b (16 + 8 * i) 8)
      if code != 0 && !bank dst && !rs.any bank then .error ill else .ok (b, s)

/-- The lines of banks that pieces touch, each once, in the order of their first bytes. -/
def bankLinesOf (ps : List Piece) : List (Nat × Nat) :=
  (ps.flatMap (fun p => match p with
    | .bank b o m => if m = 0 then [] else (List.range ((o + m - 1) / 64 - o / 64 + 1)).map (fun i => (b, o / 64 + i))
    | _ => [])).eraseDups

/-- Bytes put into a bank under a swizzle code by a copy strand, with the tags of R172; the lines that it writes are logged (R313). -/
def State.bankCopy (s : State) (code pkg off n v : Nat) : State :=
  let lines := s.each (bankLinesOf (swzPieces code [.bank pkg off n])) (fun s l => s.logLine l.1 l.2)
  let put (a : State × Nat) (p : Piece) : State × Nat :=
    match p with
    | .bank b o m => (((a.1.repairLog b o m (a.2 % 256 ^ m)).bankRaw b o m (a.2 % 256 ^ m)), a.2 / 256 ^ m)
    | _ => a
  let s := ((swzPieces code [.bank pkg off n]).foldl put (lines, v)).1
  s.each (List.range ((off + n - 1) / 4096 - off / 4096 + 1)) (fun s i =>
    let r := off / 4096 + i
    let whole := decide (off ≤ r * 4096) && decide (r * 4096 + 4096 ≤ off + n)
    s.setTag pkg r (if whole || s.tag pkg r = code then code else 15))

/-- A strand's bytes written to pieces under its swizzle code. -/
def State.copyPieces (s : State) (g : Agent) (code : Nat) : List Piece → Nat → State
  | [], _ => s
  | p :: r, v =>
    let m := p.len
    let t := match p with
      | .bank pkg off n => if n = 0 then s else s.bankCopy code pkg off n (v % 256 ^ n)
      | p => s.pieceWrite g p (v % 256 ^ m)
    State.copyPieces t g code r (v / 256 ^ m)

/-- How a strand ends: status, cause and count. -/
structure Ending where
  st    : Nat
  cause : Nat
  count : Nat

/-- The status that a strand stopped so ends with: 0x03 over a link that is down (R279). -/
def Trip.status (st : Nat) : Trip → Nat
  | .down _ => 3
  | _ => st

/-- Whether the permission table of an agent's cluster turns away its write of n bytes at a pointer (R263). -/
def State.barred (s : State) (g : Agent) (p n : Nat) : Bool :=
  match s.resolve g.core p with
  | some (.rem d _ _) => !s.reaches g.core (clusterOf d)
  | some (.host _) => !s.hostOk g.core
  | some (.glb va) => (match s.translate g.core g.vdev g.xlat g.level va n 1 true with
    | .ok segs es => (segs.zip es).any (fun q => q.2.kind == 3
        && (granules (q.1.2 / 8192 + 2) q.1.1 q.1.2).any (fun r => !s.linkOk g.core (peerLink r.1)))
    | _ => false)
  | _ => false

/-- A receiver of a multicast strand: its pieces, or what stops the write to it. -/
def State.receiver (s : State) (g : Agent) (n r : Nat) : Except Trip (List Piece × List Tlb) :=
  if s.strandPtr g r then s.place g r n 1 else .error (.cause .illegalPointer 0 0 0)

/-- The copy of a good strand (R195, R158): nothing is written where a source, a destination or a receiver faults. With it the
number from which on accesses under way are its receivers'. A receiver that the permission table bars ends it as a destination fault
(R263). -/
def State.copyStrand (s : State) (g : Agent) (v par : Nat) : Ending × Nat × State :=
  let w := strandWord v
  let n := strandLen v
  let src := fieldB v 8 8
  let dst := fieldB v 16 8
  let rs := if bit w 21 then (List.range (fieldB par 8 1)).map (fun i => fieldB par (16 + 8 * i) 8) else []
  let stop (st cause : Nat) : Ending × Nat × State := ({ st := st, cause := cause, count := 0 }, 0, s)
  match s.place g src n 0 with
  | .error t => stop (t.status 2) t.code
  | .ok (sp, _) =>
    if sp.any s.pieceBad then stop 2 Cause.uncorrectable.code
    else match s.place g dst n 1 with
      | .error t => stop 3 t.code
      | .ok (dp, es) =>
        match rs.mapM (s.receiver g n) with
        | .error _ =>
          (match rs.find? (fun r => match s.receiver g n r with | .error _ => true | .ok _ => false) with
          | some r => if s.barred g r n then stop 3 Cause.perm.code else stop 6 0
          | none => stop 6 0)
        | .ok rp =>
          let data := s.readPieces sp
          let s := State.setDirty (rs.foldl (fun t r => t.touchPtr g r n) ((s.touchPtr g src n).touchPtr g dst n)) g.core g.part es
          let s := (s.chargePieces g.part sp).chargePieces g.part dp
          let s := s.copyPieces g (bits w 27 24) dp data
          let split := s.nonce
          let s := s.each rp (fun s r => ((s.setDirty g.core g.part r.2).chargePieces g.part r.1).copyPieces g (bits w 27 24) r.1 data)
          ({ st := 1, cause := 0, count := n }, split, s)

/-- The three stores of Finish (R195): the cause of the first that faults, after which none is performed (R363). -/
def State.finishStores (s : State) (g : Agent) (p v : Nat) (e : Ending) : Option Nat × State :=
  match s.bulkWrite g (p + 40) 8 e.count with
  | .error t => (some t.code, s)
  | .ok s => match s.bulkWrite g (p + 38) 2 (e.st + e.cause * 256) with
    | .error t => (some t.code, s)
    | .ok s => match s.bulkWrite g (p + 32) 4 (strandWord v % 2 ^ 31) with
      | .error t => (some t.code, s)
      | .ok s => (none, s)

/-- A chain leaves its channel. -/
def State.dropChain (s : State) (h : Chain) : State :=
  { s with walks := s.walks.filter (fun w => !(w.core == h.core && w.ctx == 16 && w.born == h.id && w.fault.isSome))
           torn := s.torn.filter (· != h.id)
           chains := s.chains.filter (·.id != h.id), running := s.running.filter (fun r => r.2 != h.id)
           lanes := s.lanes.filter (·.2 != h.id) }

/-- A chain replaced. -/
def State.setChain (s : State) (h : Chain) : State := { s with chains := s.chains.map (fun k => if k.id == h.id then h else k) }

/-- A strand's parameter block as its bytes stand, none where it names none or it cannot be read, with the state after. -/
def State.blockOf (s : State) (g : Agent) (v : Nat) : Option Nat × State :=
  if fieldB v 24 8 = 0 then (none, s)
  else match s.bulkRead g (fieldB v 24 8) 64 with
    | .ok (b, t) => (some b, t)
    | .error _ => (none, s)

/-- The interrupt that a strand raises (R198), to the handler of its parameter block; none where no block gives one
(assumption 96). -/
def strandIrq (v : Nat) (block : Option Nat) : Option UIrq :=
  if bit (strandWord v) 20 then block.map (fun b => { xfer := strandId v, handler := fieldB b 0 6 }) else none

/-- A message of the completion of a chain's strand (R196, R198). -/
def State.postOf (s : State) (h : Chain) (item : Option Nat) (irq : Option UIrq) (ident : Option Nat) : Post :=
  { id := s.nonce, core := h.core, ctx := h.ctx, born := h.born, q := h.q, item := item, irq := irq, chan := h.chan
    unit := h.unit, ident := ident, asid := xlatAsid h.xlat, part := h.part, atCore := false }

/-- A chain whose strand has finished goes on to the strand that its Next names then (R195). -/
def State.goNext (s : State) (h : Chain) : State :=
  match s.bulkRead (s.chainAgent h) h.cur 8 with
  | .ok (n, t) => if n = 0 then t.dropChain h else t.setChain { h with cur := n, done := false }
  | .error _ => s.dropChain h

/-- The writes of a core's finished work on a path that are still on their way to other devices, named by its identifier (R155). -/
def State.nameWrites (s : State) (c : Nat) (path : Path) (id : Nat) : State :=
  { s with net := s.net.map (fun a =>
      if a.core == c && a.path == path && a.ident.isNone && !s.chains.any (·.await.contains a.id) then { a with ident := some id } else a) }

/-- A context has observed the completion of its core's work under an identifier (R155). -/
def State.observe (s : State) (c x id : Nat) : State :=
  { s with net := s.net.map (fun a =>
      if a.core == c && a.ident == some id then { a with seenBy := insertSet (s.ctx c x).born a.seenBy } else a) }

/-- The end of a strand of a chain started by an instruction (R195, R196, R363): Finish with its item and then its interrupt, and, once
both have left, the next strand. -/
def State.finishStrand (s : State) (h : Chain) (v : Nat) (block : Option Nat) (e : Ending) : State :=
  let g := s.chainAgent h
  let r := State.finishStores { s with torn := s.torn.filter (· != h.id) } g h.cur v e
  let s := r.2.nameWrites h.core g.path (strandId v)
  let s := s.fresh.2.post (s.postOf h (some (itemOf h.chan e.st (r.1.getD 0) (strandId v) r.1.isSome)) none (some (strandId v)))
  let s := match strandIrq v block with
    | some i => s.fresh.2.post (s.postOf h none (some i) none)
    | none => s
  if e.st != 1 || r.1.isSome then s.dropChain h
  else
    let k : Chain := { h with prev := strandId v, first := false, begun := true, lane := none, stamp := s.nonce, await := [], done := true }
    let s : State := { s.setChain k with running := s.running.filter (fun q => q.2 != h.id), lanes := s.lanes.filter (·.2 != h.id) }
    if s.chanBlocked h.chan then s else s.goNext k

/-- A chain that ends on a strand that cannot be read (R363). -/
def State.unreadable (s : State) (h : Chain) (cause : Nat) : State :=
  let id := if h.first then h.ident else h.prev
  (s.fresh.2.post (s.postOf h (some (itemOf h.chan 8 cause id false)) none (if h.first then some h.ident else none))).dropChain h

/-! ### Channels at work (R195, R272) -/

/-- Whether a strand swaps out. -/
def swapsOut (v : Nat) : Bool := bit (strandWord v) 23

/-- The strand that a chain of the chooser stands at: none where the chain is found malformed (R335). -/
def State.chosenStrand (s : State) (h : Chain) : Option Nat :=
  match s.readStrand (s.chainAgent h) h.cur with
  | .ok (v, _) => if strandOwn v && swapsOut v && strandSwaps v then some v else none
  | .error _ => none

/-- The chain of the chooser whose next strand a free reserved channel takes, and that strand: the chain that became
ready first (R334). A strand that is to be repeated on the channel goes before. -/
def State.handOut (s : State) (n : Nat) : Option (Chain × Nat) :=
  if s.chains.any (fun h => h.mode == 2 && h.chan == n) then none
  else match s.chains.find? (fun h => h.mode == 3 && h.cur != 0 && (match (s.part h.part).deadline with
      | some d => d.chans.contains n
      | none => false)) with
    | none => none
    | some h => (s.chosenStrand h).map (fun v => (h, v))

/-- A strand of the chooser on its channel; its chain stands at the strand after it. -/
def State.giveStrand (s : State) (n : Nat) (h : Chain) (v : Nat) : State :=
  let w : Chain := { h with id := s.nonce, chan := n, mode := 2, stamp := s.nonce }
  let t := s.fresh.2
  { t with chains := t.chains.map (fun k => if k.id == h.id then { h with cur := fieldB v 0 8 } else k) ++ [w]
           running := Tab.put t.running n w.id }

/-- Whether a chain may begin a strand on its channel (R197, R271, R334). -/
def State.mayBegin (s : State) (h : Chain) : Bool :=
  h.mode == 2 || (h.mode != 3 && s.solvent h.part h.chan && (h.mode == 1 || s.recordRoom h.core h.unit))

/-- The chains of a channel that may run their next strand (R272). -/
def State.eligibleChains (s : State) (n : Nat) : List Chain :=
  s.chains.filter (fun h => h.chan == n && s.mayBegin h)

/-- The chain chosen: a chooser's before others, then the highest priority, then the one that has waited longest. -/
def State.chosenChain (s : State) (n : Nat) : Option Chain :=
  (s.eligibleChains n).foldl (fun (m : Option Chain) h => match m with
    | none => some h
    | some k =>
      let key (c : Chain) : Nat := b2n (c.mode == 2) * 8 + s.prioOn c.part n
      if key h > key k || (key h == key k && decide (h.stamp < k.stamp)) then some h else some k) none

/-- Whether a stop parks every chain at its strand boundary: no collective is in progress, and every core's unit has left (R337). -/
def State.parksChains (s : State) : Bool := s.hub.stopping.isSome && s.colls.isEmpty && s.cores.all (fun e => e.2.unit.isNone)

/-- Whether a channel stands at a strand boundary with a chain to run. -/
def State.mayChoose (s : State) (n : Nat) : Bool :=
  !s.parksChains && (Tab.get? s.running n).isNone && !s.chanBlocked n && ((s.handOut n).isSome || (s.chosenChain n).isSome)

/-- CHANNEL_ARBITRATION: a channel chooses the chain that runs its next strand (R272); a channel that a deadline reserves
takes the chooser's next strand first (R334). -/
def execChannelArbitration (ch : Nat) (s : State) : Out :=
  match s.handOut ch, s.chosenChain ch with
  | some (h, v), _ => event s (s.mayChoose ch) (s.giveStrand ch h v)
  | none, none => .next s
  | none, some h => event s (s.mayChoose ch) { s with running := Tab.put s.running ch h.id }

/-- The chain whose strand a channel runs. -/
def State.runningChain (s : State) (n : Nat) : Option Chain :=
  match Tab.get? s.running n with
  | none => none
  | some i => s.chains.find? (·.id == i)

/-- What a strand charges when it begins (R271, R323). -/
def State.chargeStrand (s : State) (h : Chain) (units : Nat) : State :=
  match allowOf h.chan with
  | some i => s.charge h.part i units
  | none => s

/-- One strand of a chain that is no swap strand (R195). The copies of a multicast strand to another device are waited for
(R158). -/
def State.runStrand (s : State) (h : Chain) (v : Nat) : State :=
  let g := s.chainAgent h
  let s := (s.recordSet h.core h.unit (strandId v) false).chargeStrand h (cdiv (strandLen v) 64)
  let bad (c : Nat) : State := (s.blockOf g v).2.finishStrand h v (s.blockOf g v).1 { st := 4, cause := c, count := 0 }
  if h.first && strandId v != h.ident then bad Cause.illegal.code
  else match s.strandCheck g (decide (0x2000 ≤ h.chan)) v with
    | .error c => bad c
    | .ok (par, s) =>
      let r := s.copyStrand g v par
      let t := r.2.2
      let sent := (t.net.filter (fun a => decide (s.nonce ≤ a.id))).map (·.id)
      if r.1.st = 1 && bit (strandWord v) 21 && !sent.isEmpty then t.setChain { h with await := sent, strand := (v, par, r.2.1) }
      else t.finishStrand h v (some par) r.1

/-- The end of a multicast strand whose copies have all been acknowledged or refused (R158); none before. -/
def State.endAwait (s : State) (h : Chain) : Option State :=
  let left := s.net.filter (fun a => h.await.contains a.id)
  if left.any (·.refused.isNone) then none
  else
    let v := h.strand.1
    let e : Ending := if left.isEmpty then { st := 1, cause := 0, count := strandLen v }
      else if left.any (fun a => decide (a.id < h.strand.2.2)) then { st := 3, cause := Cause.uncorrectable.code, count := 0 }
      else { st := 6, cause := 0, count := 0 }
    some (State.finishStrand { s with net := s.net.filter (fun a => !h.await.contains a.id) } { h with await := [] } v (some h.strand.2.1) e)

/-- The in-memory header of a swap strand. -/
def headPtr (v : Nat) : Nat := if swapsOut v then fieldB v 8 8 else fieldB v 16 8

/-! ### The residence record (R328) -/

/-- The page that a swap-in strand's destination header names. -/
def State.inPage (s : State) (g : Agent) (v : Nat) : Option Nat :=
  if swapsOut v then none
  else match s.bulkRead g (headPtr v) 64 with
    | .ok (d, _) => some (fieldB d 24 8)
    | .error _ => none

/-- A swap-in's page leaves the record, or stays in it as Failed. -/
def State.leaveRecord (s : State) (part : Nat) (page : Option Nat) (done : Bool) : State :=
  match page with
  | none => s
  | some a =>
    let k := s.part part
    s.setPart part { k with residence :=
      if done then k.residence.filter (·.1 != a) else k.residence.map (fun e => if e.1 == a then (a, true) else e) }

/-! ### The strand that is to run -/

/-- What a channel finds at the strand it is to run: the strand of a swap in its direction is left to the swap engine. -/
inductive Found where
  | gone (s : State)
  | swap (v : Nat) (s : State)
  | plain (v : Nat) (s : State)

/-- The next strand of a chain started by an instruction, as its channel finds it (R195, R323, R363); a chain whose head is 0 has no
strand and ends. -/
def State.findStrand (s : State) (h : Chain) : Found :=
  if h.cur = 0 then .gone (s.dropChain h)
  else match s.readStrand (s.chainAgent h) h.cur with
  | .error c => .gone (s.unreadable h c)
  | .ok (v, t) =>
    if !strandOwn v then .gone (t.dropChain h)
    else if h.cancelled && h.lane.isNone then
      let t := if decide (0x2000 ≤ h.chan) && strandSwaps v then t.leaveRecord h.part (t.inPage (t.chainAgent h) v) false else t
      let b := t.blockOf (t.chainAgent h) v
      .gone ((b.2.recordSet h.core h.unit (strandId v) false).finishStrand h v b.1 { st := 7, cause := 0, count := 0 })
    else if decide (0x2000 ≤ h.chan) && strandSwaps v then .swap v t
    else .plain v t

/-- The chain that waits at Finish on a channel goes on once its completion has left (R195). -/
def State.resumeChain (s : State) (ch : Nat) : State :=
  match s.chains.find? (fun h => h.chan == ch && h.done) with
  | some h => s.goNext h
  | none => s

/-- The completions of a channel's work that go on now, in order, each with the state after it. -/
def State.movesOf (s : State) (ch : Nat) : List State :=
  (s.posts.filter (·.chan == ch)).filterMap (fun p => (s.movePost p).map (fun t => if p.atCore || t.chanBlocked ch then t else t.resumeChain ch))

/-- The ranges (pointer and length) whose translations the next strand of a chain needs, as far as they are known: of the strand, then
of its parameter block and headers, then of what it copies (R195, R323). -/
def State.strandRuns (s : State) (h : Chain) : List (Nat × Nat) :=
  let g := s.chainAgent h
  let first := [(h.cur, 64)]
  if h.cur = 0 then []
  else if !(s.unwalked g first).isEmpty then first
  else match s.readStrand g h.cur with
    | .error _ => first
    | .ok (v, _) =>
      let par := fieldB v 24 8
      let swap := decide (0x2000 ≤ h.chan) && strandSwaps v
      let heads := if swap then [(fieldB v 8 8, 64), (fieldB v 16 8, 64)] else []
      let second := first ++ (if par = 0 then [] else [(par, 64)]) ++ heads
      if !strandOwn v || !(s.unwalked g second).isEmpty then second
      else
        let n := min (strandLen v) 65536
        let word (p o k : Nat) : Nat := match s.bulkRead g p 64 with | .ok (b, _) => fieldB b o k | .error _ => 0
        if swap then second ++ [(word (headPtr v) 24 8, 65536)]
        else second ++ [(fieldB v 8 8, n), (fieldB v 16 8, n)]
          ++ (if bit (strandWord v) 21 && par != 0 then (List.range (min 6 (word par 8 1))).map (fun i => (word par (16 + 8 * i) 8, n)) else [])

/-- Whether a chain's next strand runs, or begins a walk, now (R268, R271). -/
def State.strandGoes (s : State) (h : Chain) : Bool :=
  let g := s.chainAgent h
  let rs := s.strandRuns h
  s.workGoes g rs && (!(s.unwalked g rs).isEmpty || s.servedAt g rs)

/-- What a chain's next strand does first: the walks that it needs, or, once it has them, its own effect. -/
def State.withStrand (s : State) (h : Chain) (k : State → Out) : Out :=
  let g := s.chainAgent h
  let rs := s.strandRuns h
  if !s.strandGoes h then .next s
  else if (s.unwalked g rs).isEmpty then k (s.endWalks g)
  else .next (s.walkPages g (s.toWalk g rs))

/-- A chain whose next strand may not begin is parked again (R272). -/
def State.unchoose (s : State) (ch : Nat) : State := { s with running := Tab.drop s.running ch }

/-- STRAND_RUN: a channel runs one strand (R195), or a completion of its goes on (R196, R270). A chain that may no longer begin
is parked again (R272). -/
def execStrandRun (ch : Nat) (s : State) : Out :=
  match s.movesOf ch with
  | t :: _ => .next t
  | [] => match s.runningChain ch with
    | none => .next s
    | some h =>
      if h.mode != 0 then .next s
      else if !h.await.isEmpty then .next ((s.endAwait h).getD s)
      else if h.lane.isNone && !s.mayBegin h then .next (s.unchoose ch)
      else s.withStrand h (fun s => match s.findStrand h with
        | .gone t => .next t
        | .swap _ _ => .next s
        | .plain v t => .next (t.runStrand h v))

/-! ### Starting work (R196, R200, R201) -/

/-- The checks of a start (R192, R196, R200, R201): its channel, queue register and pointer. -/
def State.startChecks (s : State) (chan : Nat) (x : OpQGo) : Option Cause :=
  let p := (s.me.rs x.b).toNat
  if !s.holdsChan (s.partOf s.cur) chan then some .perm
  else if x.q.toNat < 5 then some .illegal
  else if !([0, 1].contains (bits p 63 60)) || (s.resolve s.cur p).isNone then some .illegalPointer
  else if p % 64 != 0 then some .misalign
  else none

/-- The chain that a start hands to its channel. -/
def State.startChain (s : State) (c x chan q ident : Nat) (head : Nat) : State :=
  let k := s.ctx c x
  let h : Chain := { id := s.nonce, chan := chan, core := c, ctx := x, born := k.born, part := s.partOf c, q := q
                     ident := ident, cur := head, prev := 0, first := true, begun := false, lane := none
                     stamp := s.nonce, cancelled := false, xlat := k.xlat.toNat, level := k.level
                     unit := if k.inUnit then (s.core c).unit else none, mode := 0, queue := 0, rank := 0, again := false }
  let t := s.fresh.2
  { t.noRoll c with chains := t.chains ++ [h] }

/-- A gather or a unit's part in a collective. -/
def State.workOf (s : State) (c x q ident desc : Nat) : Work :=
  { id := s.nonce, core := c, ctx := x, born := (s.ctx c x).born, part := s.partOf c, q := q, ident := ident, desc := desc
    bad := none, xlat := (s.ctx c x).xlat.toNat, level := (s.ctx c x).level
    unit := if (s.ctx c x).inUnit then (s.core c).unit else none }

/-- Pages of the destination headers of the swap-in strands of a chain, up to the first strand whose Own is clear, that
cannot be read or that has been read (R328), with the state that the reads leave; at most n strands. -/
def State.arrivals (s : State) (g : Agent) (seen : List Nat) : Nat → Nat → List Nat × State
  | 0, _ => ([], s)
  | n + 1, p =>
    if p = 0 || seen.contains p then ([], s)
    else match s.readStrand g p with
      | .error _ => ([], s)
      | .ok (v, s) =>
        if !strandOwn v then ([], s)
        else
          let page := if bit (strandWord v) 22 && !bit (strandWord v) 23 then
              (match s.bulkRead g (fieldB v 16 8) 64 with | .ok (h, t) => ([fieldB h 24 8], t) | .error _ => ([], s))
            else ([], s)
          let r := page.2.arrivals g (p :: seen) n (fieldB v 0 8)
          (page.1 ++ r.1, r.2)

/-- A residence record with pages recorded as Arriving (R328). -/
def recordArrivals (r : List (Nat × Bool)) (ps : List Nat) : List (Nat × Bool) :=
  ps.foldl (fun r p => if r.any (·.1 == p) then r.map (fun e => if e.1 == p then (p, false) else e) else r ++ [(p, false)]) r

/-- No chain has more strands: one for each line of every space that a strand pointer may name. -/
def allStrands : Nat := 2 ^ 43

/-- Level of a handle (R219). -/
def handleLevel (w : Nat) : Nat := bits w 63 61

/-- Queue of a handle. -/
def handleQueue (w : Nat) : Nat := bits w 60 48

/-- Name in a handle. -/
def handleName (w : Nat) : Nat := bits w 31 0

/-- A cancellation handed to the hub (R251). -/
def State.sendCancel (s : State) (c : Nat) (w : Nat) : State :=
  let k : Cancel := { level := handleLevel w, queue := handleQueue w, name := handleName w, part := s.partOf c }
  { s.noRoll c with cancels := s.cancels ++ [k] }

/-- An engine command, or a cancellation (R245), begins its work; none while it cannot. -/
def State.beginCmd (s : State) (c x : Nat) (i : Instr) (sv : Word) : Option State :=
  let room (n : Nat) : Bool := decide ((s.chains.filter (fun h => h.chan == n && h.mode == 0)).length < 8)
  match i with
  | .cpgo _ o =>
    let n := copyChan c o.ch.toNat
    if room n then some (s.startChain c x n o.q.toNat o.id.toNat sv.toNat) else none
  | .swgo _ o =>
    let n := swapChan o.ch.toNat
    if !room n then none
    else
      let g : Agent := { stamp := s.nonce, core := c, part := s.partOf c, vdev := s.vdevOf c
                         xlat := (s.ctx c x).xlat.toNat, level := (s.ctx c x).level }
      let a := s.arrivals g [] allStrands sv.toNat
      let pt := a.2.part (s.partOf c)
      let r := recordArrivals pt.residence a.1
      if decide (4096 < r.length) then none
      else some ((a.2.setPart (s.partOf c) { pt with residence := r }).startChain c x n o.q.toNat o.id.toNat sv.toNat)
  | .gath _ o =>
    let t := s.fresh.2
    some { t.noRoll c with gathers := t.gathers ++ [s.workOf c x o.q.toNat o.id.toNat sv.toNat] }
  | .coll _ o =>
    let t := s.fresh.2
    some { t.noRoll c with colls := t.colls ++ [s.workOf c x o.q.toNat o.id.toNat sv.toNat] }
  | .cancelLaunch _ _ | .cancelGraph _ _ | .cancelSession _ _ | .cancelJob _ _ => some (s.sendCancel c sv.toNat)
  | _ => some s

/-- Whether an engine command of the issuing context goes into the commit buffer: a branch is unresolved, or earlier commands
of the context are held there (R136, R245). -/
def State.buffers (s : State) : Bool := s.me.unresolved.isSome || s.mycore.commit.any (·.ctx == s.curCtx)

/-- An engine command put into the commit buffer of 16 entries (R136); none while it is full. -/
def State.buffered (s : State) (i : Instr) (sv : Word) : Option State :=
  let k := s.mycore
  if decide (16 ≤ k.commit.length) then none
  else some (s.setMycore { k with commit := k.commit ++ [{ ctx := s.curCtx, cmd := i, sv := sv, pc := s.me.pc, firm := s.me.unresolved.isNone }] })

/-- An engine command or a cancellation: begun, or put into the commit buffer (R136, R245). -/
def State.engineCmd (s : State) (i : Instr) (sv : Word) : Res :=
  if s.buffers then (match s.buffered i sv with
    | some t => .done t
    | none => .hold)
  else match s.beginCmd s.cur s.curCtx i sv with
    | some t => .done t
    | none => .hold

/-- A start of work in the order of its checks. -/
def startOp (chan : Nat) (i : Instr) (x : OpQGo) (s : State) : Res :=
  match s.startChecks chan x with
  | some .illegalPointer => s.raiseAt (s.me.rs x.b).toNat .illegalPointer
  | some .misalign => s.raiseAt (s.me.rs x.b).toNat .misalign
  | some c => s.raise c
  | none => s.engineCmd i (s.me.rs x.b)

/-- A chain handed to a copy channel (R196). -/
def execCpgo (h : Hdr) (x : OpQGo) (s : State) : Out :=
  issue h plain (fun s => startOp (copyChan s.cur x.ch.toNat) (.cpgo h x) x s) s

/-- A chain handed to a swap channel (R196, R328). -/
def execSwgo (h : Hdr) (x : OpQGo) (s : State) : Out :=
  issue h plain (fun s => startOp (swapChan x.ch.toNat) (.swgo h x) x s) s

/-- A gather started (R200). -/
def execGath (h : Hdr) (x : OpQGo) (s : State) : Out := issue h plain (startOp 0 (.gath h x) x) s

/-- A contribution to a collective (R201). -/
def execColl (h : Hdr) (x : OpQGo) (s : State) : Out :=
  issue h (fun _ => { unit := true }) (startOp 0 (.coll h x) x) s

/-- Wait for a transfer identifier (R197). -/
def execCpwait (h : Hdr) (id : BitVec 16) (s : State) : Out :=
  issue h plain (fun s =>
    let k := s.mycore
    if k.record.contains (id.toNat, true) then
      .done ((s.setMycore { k with record := k.record.filter (· != (id.toNat, true)) }).observe s.cur s.curCtx id.toNat)
    else .hold) s

/-! ### Gathers (R200) -/

/-- The agent of a gather or collective, on its path (R154). -/
def State.workAgent (s : State) (w : Work) (path : Path) : Agent :=
  { stamp := w.id, core := w.core, part := w.part, vdev := (s.part w.part).vdev, xlat := w.xlat, level := w.level, path := path, unit := w.unit }

/-- A number for the memory that a piece's accesses go to, by destination (R154). -/
def Piece.key : Piece → Nat
  | .bank pkg _ _ => 2 ^ 20 + pkg
  | .dev _ _ h => h
  | .peer a _ _ => 2 ^ 30 + a / 2 ^ 48 * 2 ^ 10 + bits a 15 13 * 64 + bits a 21 16
  | .host _ _ => 2 ^ 40

/-- The destinations of an agent's accesses to ranges (pointer and length). -/
def State.keysOf (s : State) (g : Agent) (rs : List (Nat × Nat)) : List Nat :=
  (rs.flatMap (fun r => match s.place g r.1 r.2 0 with
    | .ok q => q.1.map Piece.key
    | .error _ => [])).eraseDups

/-- A pointer with bytes added to its offset. -/
def ptrAt (p o : Nat) : Nat := (displace p o).getD (5 * 2 ^ 60)

/-- Whether a gather's descriptor keeps the limits of R200. -/
def State.gatherOk (s : State) (g : Agent) (v id : Nat) : Bool :=
  let sp (p : Nat) (l : List Nat) : Bool := l.contains (bits p 63 60) && (s.resolve g.core p).isSome
  let n := fieldB v 24 4
  let rb := fieldB v 28 4
  sp (fieldB v 0 8) [0, 1] && sp (fieldB v 8 8) [0] && fieldB v 8 8 % 64 == 0 && sp (fieldB v 16 8) [0, 1, 2]
    && fieldB v 16 8 % 64 == 0 && decide (1 ≤ n) && decide (n ≤ 4095) && decide (64 ≤ rb) && decide (rb ≤ 4096)
    && rb % 64 == 0 && fieldB v 32 4 % 64 == 0 && fieldB v 40 2 == id && fieldB v 42 22 == 0

/-- Rows from i on; n remain. The status that ends the gather. -/
def State.gatherRows (s : State) (g : Agent) (v ixs : Nat) : Nat → Nat → Nat × State
  | 0, _ => (1, s)
  | n + 1, i =>
    let ix := fieldB ixs (4 * i) 4
    let bound := fieldB v 36 4
    let rb := fieldB v 28 4
    let row := if bound != 0 && decide (bound ≤ ix) then .ok (0, s)
      else s.bulkRead g (ptrAt (fieldB v 8 8) (ix * fieldB v 32 4)) rb
    match row with
    | .error _ => (2, s)
    | .ok (d, t) => match t.bulkWrite g (ptrAt (fieldB v 16 8) (i * rb)) rb d with
      | .error _ => (3, t)
      | .ok t => State.gatherRows t g v ixs n (i + 1)

/-- A gather run whole: its status and the state. -/
def State.runGather (s : State) (w : Work) : Nat × State :=
  let g := s.workAgent w .ga
  match s.bulkRead g w.desc 64 with
  | .error _ => (2, s)
  | .ok (v, s) =>
    if !s.gatherOk g v w.ident then (4, s)
    else match s.bulkRead g (fieldB v 0 8) (4 * fieldB v 24 4) with
      | .error _ => (2, s)
      | .ok (ixs, s) => s.gatherRows g v ixs (fieldB v 24 4) 0

/-- Work that ends: its item and its record entry (R196, R197). -/
def State.endWork (s : State) (w : Work) (path : Path) (st : Nat) : State :=
  let s := State.nameWrites { s with torn := s.torn.filter (· != w.id) } w.core path w.ident
  s.fresh.2.post { id := s.nonce, core := w.core, ctx := w.ctx, born := w.born, q := w.q, chan := 0x3000 + w.core, unit := w.unit
                   item := some (itemOf 0 st 0 w.ident false), irq := none, ident := some w.ident, asid := xlatAsid w.xlat, part := w.part
                   atCore := false }

/-- The ranges (pointer and length) whose translations a gather needs, as far as they are known. -/
def State.gatherRuns (s : State) (w : Work) : List (Nat × Nat) :=
  let g := s.workAgent w .ga
  let first := [(w.desc, 64)]
  if !(s.unwalked g first).isEmpty then first
  else match s.bulkRead g w.desc 64 with
    | .error _ => first
    | .ok (v, _) =>
      if !s.gatherOk g v w.ident then first
      else
        let n := fieldB v 24 4
        let rb := fieldB v 28 4
        let second := first ++ [(fieldB v 0 8, 4 * n)]
        if !(s.unwalked g second).isEmpty then second
        else match s.bulkRead g (fieldB v 0 8) (4 * n) with
          | .error _ => second
          | .ok (ixs, _) => second ++ (List.range n).flatMap (fun i =>
              (if fieldB v 36 4 != 0 && decide (fieldB v 36 4 ≤ fieldB ixs (4 * i) 4) then []
               else [(ptrAt (fieldB v 8 8) (fieldB ixs (4 * i) 4 * fieldB v 32 4), rb)]) ++ [(ptrAt (fieldB v 16 8) (i * rb), rb)])

/-- Whether no earlier command of the core on this path has accesses to a destination of this one's (R154). -/
def State.firstOf (s : State) (earlier : List Work) (path : Path) (runs : Work → List (Nat × Nat)) (w : Work) : Bool :=
  let mine := s.keysOf (s.workAgent w path) (runs w)
  earlier.all (fun v => v.core != w.core || v.bad.isSome || !(s.keysOf (s.workAgent v path) (runs v)).any mine.contains)

/-- Whether a gather runs, or begins a walk, now (R154, R197, R268, R271). -/
def State.mayGather (s : State) (idx : Nat) (w : Work) : Bool :=
  let g := s.workAgent w .ga
  let rs := s.gatherRuns w
  s.recordRoom w.core w.unit && s.workGoes g rs
    && (!(s.unwalked g rs).isEmpty || (s.servedAt g rs && s.firstOf (s.gathers.take idx) .ga s.gatherRuns w))

/-- GATHER_FINISH: a gather sends its rows and finishes (R200), behind the walks that it needs. -/
def execGatherFinish (idx : Nat) (s : State) : Out :=
  match s.gathers[idx]? with
  | none => .next s
  | some w =>
    let g := s.workAgent w .ga
    let rs := s.gatherRuns w
    if !s.mayGather idx w then .next s
    else if !(s.unwalked g rs).isEmpty then .next (s.walkPages g (s.toWalk g rs))
    else
      let r := State.runGather { s.endWalks g with gathers := s.gathers.eraseIdx idx } w
      .next (r.2.endWork w .ga r.1)

/-! ### Collectives (R201) -/

/-- The type of a collective. -/
def collTy (code : Nat) : Option ETy :=
  match code with
  | 13 => some .f32 | 11 => some .bf16 | 2 => some .i32 | 6 => some .n32
  | _ => none

/-- Whether a collective's descriptor keeps the limits of R201 in a team. -/
def State.collOk (s : State) (g : Agent) (v id team : Nat) : Bool :=
  let sp (p : Nat) : Bool := [0, 1].contains (bits p 63 60) && (s.resolve g.core p).isSome && p % 64 == 0
  let op := fieldB v 0 1
  let root := fieldB v 2 2
  let n := fieldB v 4 4
  decide (op ≤ 4) && (collTy (fieldB v 1 1)).isSome && (if op = 3 then decide (root < team) else root == 0)
    && decide (64 ≤ n) && decide (n ≤ 65536) && n % 64 == 0 && sp (fieldB v 8 8) && sp (fieldB v 16 8)
    && fieldB v 24 2 == id && fieldB v 26 38 == 0

/-- Element i of a sum, maximum or minimum over the units' contributions. -/
def reduceE (op : Nat) (t : ETy) (xs : List Nat) : Nat :=
  match op, xs with
  | 0, _ =>
    if t.isInt then fitI t false (xs.foldl (fun a x => a + intOf t x) 0)
    else (chooseNaN t xs).getD ((xs.foldl (fun a x => a.add (decodeF t x)) Acc.zero).round t
      { mode := .rn, sat := false, ovt := 0, conv := false })
  | 1, x :: r => r.foldl (maxE t) x
  | _, x :: r => r.foldl (minE t) x
  | _, [] => 0

/-- What each unit receives, from the contributions in rank order. -/
def collResult (v : Nat) (xs : List Nat) : Nat :=
  let n := fieldB v 4 4
  match fieldB v 0 1 with
  | 3 => xs.getD (fieldB v 2 2) 0
  | 4 => xs.foldr (fun x a => x + 256 ^ n * a) 0
  | op =>
    let t := (collTy (fieldB v 1 1)).getD .n32
    let w := t.size
    ((List.range (n / w)).map (fun i => reduceE op t (xs.map (fun x => fieldB x (w * i) w)))).foldr
      (fun x a => x + 256 ^ w * a) 0

/-- The collective of a team under an identifier: each unit's part in rank order, none where one is missing. -/
def State.collParts (s : State) (l : Launch) (id : Nat) : Option (List Work) :=
  l.cores.mapM (fun c => s.colls.find? (fun w => w.core == c && w.ident == id && w.unit == some (l.queue, l.seq) && w.bad.isNone))

/-- Work removed from the collectives. -/
def State.dropColls (s : State) (ws : List Work) : State := { s with colls := s.colls.filter (fun w => !ws.any (·.id == w.id)) }

/-- Every unit of a collective ends with a status. -/
def State.endColl (s : State) (ws : List Work) (st : Nat) : State := (s.dropColls ws).each ws (fun s w => s.endWork w .co st)

/-- Ranges of 64 to 65,536 bytes read in turn, one for each unit, with the state that the reads leave; none where one faults. -/
def State.readParts (s : State) : List (Work × Nat × Nat) → Option (List Nat) × State
  | [] => (some [], s)
  | (w, p, n) :: r =>
    match s.bulkRead (s.workAgent w .co) p n with
    | .error _ => (none, s)
    | .ok (v, s) =>
      let q := s.readParts r
      (q.1.map (v :: ·), q.2)

/-- A collective whose every unit has contributed (R201): a fault of a source ends every unit with 0x02, a fault of a
destination its own unit with 0x03. -/
def State.runColl (s : State) (ws : List Work) : State :=
  match s.readParts (ws.map (fun w => (w, w.desc, 64))) with
  | (none, s) => s.endColl ws 2
  | (some vs, s) =>
    let v := vs.headD 0
    let same (u : Nat) : Bool := fieldB u 0 8 == fieldB v 0 8
    let ok := (ws.zip vs).all (fun p => s.collOk (s.workAgent p.1 .co) p.2 p.1.ident ws.length)
    if !ok || !vs.all same then s.endColl ws 4
    else match s.readParts ((ws.zip vs).map (fun p => (p.1, fieldB p.2 8 8, fieldB v 4 4))) with
      | (none, s) => s.endColl ws 2
      | (some xs, s) =>
        let n := if fieldB v 0 1 = 4 then ws.length * fieldB v 4 4 else fieldB v 4 4
        let r := collResult v xs
        (s.dropColls ws).each (ws.zip vs) (fun s p =>
          match s.bulkWrite (s.workAgent p.1 .co) (fieldB p.2 16 8) n r with
          | .error _ => s.endWork p.1 .co 3
          | .ok t => t.endWork p.1 .co 1)

/-- The parts of a collective that end because their launch did (R201, R230, R232). -/
def State.badColls (s : State) (queue seq id : Nat) : List Work :=
  s.colls.filter (fun w => w.unit == some (queue, seq) && w.ident == id && w.bad.isSome)

/-- The ranges (pointer and length) whose translations a unit's part in a collective needs, as far as they are known; team is the number
of parts. -/
def State.collRuns (s : State) (team : Nat) (w : Work) : List (Nat × Nat) :=
  let g := s.workAgent w .co
  let first := [(w.desc, 64)]
  if !(s.unwalked g first).isEmpty then first
  else match s.bulkRead g w.desc 64 with
    | .error _ => first
    | .ok (v, _) =>
      if !s.collOk g v w.ident team then first
      else first ++ [(fieldB v 8 8, fieldB v 4 4), (fieldB v 16 8, (if fieldB v 0 1 = 4 then team else 1) * fieldB v 4 4)]

/-- The team of the launch that a part in a collective belongs to. -/
def State.teamSize (s : State) (w : Work) : Nat := ((w.unit.bind s.launch?).map (·.team)).getD 1

/-- The parts of a collective that still miss a translation. -/
def State.collMisses (s : State) (ws : List Work) : List Work :=
  ws.filter (fun w => !(s.unwalked (s.workAgent w .co) (s.collRuns ws.length w)).isEmpty)

/-- Whether a collective runs, or begins a walk, now (R154, R197, R268, R271). -/
def State.mayColl (s : State) (ws : List Work) : Bool :=
  ws.all (fun w => s.recordRoom w.core w.unit)
    && (if (s.collMisses ws).isEmpty then
          ws.all (fun w => s.servedAt (s.workAgent w .co) (s.collRuns ws.length w)
            && s.firstOf (s.colls.takeWhile (·.id != w.id)) .co (fun v => s.collRuns (s.teamSize v) v) w)
        else ws.any (fun w => !(s.toWalk (s.workAgent w .co) (s.collRuns ws.length w)).isEmpty))

/-- COLLECTIVE_FINISH: a collective finishes on every unit of its team (R201). -/
def execCollectiveFinish (queue seq id : Nat) (s : State) : Out :=
  match s.badColls queue seq id with
  | w :: ws => .next (s.endColl (w :: ws) (w.bad.getD 7))
  | [] => match s.launch? (queue, seq) with
    | none => .next s
    | some l => match s.collParts l id with
      | none => .next s
      | some ws =>
        if !s.mayColl ws then .next s
        else if (s.collMisses ws).isEmpty then
          .next (State.runColl (s.each ws (fun s w => s.endWalks (s.workAgent w .co))) ws)
        else .next (s.each (s.collMisses ws) (fun s w =>
          let g := s.workAgent w .co
          s.walkPages g (s.toWalk g (s.collRuns ws.length w))))

/-! ### Queue registers (R202) -/

/-- An item appended to q6 or q7 (R202); another number is ILLEGAL where it is carried out (assumption 86). -/
def execQpush (h : Hdr) (x : OpQPush) (s : State) : Out :=
  issue h plain (fun s =>
    let n := x.q.toNat
    if n < 6 then s.raise .illegal
    else
      let q := s.me.q.toList.getD (n - 4) []
      let it : QItem := match x.b with
        | .s r => { wide := false, val := (s.me.rs r).setWidth 512 }
        | .v r => { wide := true, val := s.me.rv r }
      if decide (16 ≤ q.length) then s.raise .queueOverrun n
      else .done (s.setMe { s.me with q := s.me.q.setIfInBounds (n - 4) (q ++ [it]) })) s

/-- The oldest item of q4 to q7 removed (R202); another number is ILLEGAL where it is carried out (assumption 86). -/
def execQpop (h : Hdr) (x : OpQPop) (s : State) : Out :=
  issue h plain (fun s =>
    let n := x.q.toNat
    if n < 4 then s.raise .illegal
    else match s.me.q.toList.getD (n - 4) [] with
      | [] => .hold
      | it :: r =>
        let k : Ctx := { s.me with q := s.me.q.setIfInBounds (n - 4) r }
        let t := s.setMe (match x.a with
          | .s d => k.ws d (it.val.setWidth 64)
          | .v d => k.wv d it.val)
        .done (if 5 ≤ n && !it.wide then t.observe s.cur s.curCtx (bits it.val.toNat 15 0) else t)) s

/-! ### User interrupts (R198, R199) -/

/-- Whether a context stands at a boundary where an interrupt or an asynchronous trap may be taken: its instruction has
not begun, or is a fence that can issue again. -/
def Ctx.atBoundary (k : Ctx) : Bool :=
  k.live && k.mid.isNone && (match k.wait with | .none => true | .walk => true | .marker _ _ => true | .bar => true | _ => false) && k.unresolved.isNone

/-- Whether a context takes a user interrupt now (R198): while it runs, outside another handler. -/
def State.mayInterrupt (s : State) (c x : Nat) : Bool :=
  let k := s.ctx c x
  k.atBoundary && !k.irqs.isEmpty && !k.uiHold && !k.trapcause.getLsbD 63 && k.traps.isEmpty

/-- USER_INTERRUPT: the oldest pending one is taken (R198). -/
def execUserInterrupt (core : Nat) (ctx : Nat) (s : State) : Out :=
  let k := s.ctx core ctx
  match k.irqs with
  | [] => .next s
  | u :: r => event s (s.mayInterrupt core ctx)
      ((s.setCtx core ctx { k with uirqpc := BitVec.ofNat 64 k.pc, uirqxfer := BitVec.ofNat 64 u.xfer, uiHold := true
                                   pc := u.handler, irqs := r, wait := .none, stall := 0 }).observe core ctx u.xfer)

/-- Return from a user interrupt (R199). -/
def execUiret (h : Hdr) (s : State) : Out :=
  issue h plain (fun s =>
    s.firm (s.need s.me.uiHold .illegal (.goto (s.setMe { s.me with uiHold := false }) s.me.uirqpc.toNat))) s

end Sys2Proof.Machine
end

