-- ==== Sys2Proof/Machine/Bank.lean ====
section
/-!
DEFINITION. Class 0xB: banks, hitches and hand-over (R159 to R172, R190, R191), and the events of the attach tables.
-/

namespace Sys2Proof.Machine

/-! ### What a drain waits for (R163) -/

/-- Whether n bytes at a pointer lie in a slot of a core. -/
def State.inSlot (s : State) (c p n slot : Nat) : Bool := (s.ptrSlots c p n).contains (c, slot)

/-- Whether a chain's strands, from the next one on, read or write through a slot of its core; at most n strands, none twice. -/
def State.strandsTouch (s : State) (g : Agent) (slot : Nat) (seen : List Nat) : Nat → Nat → Bool
  | 0, _ => false
  | n + 1, p =>
    if p = 0 || seen.contains p then false
    else if s.inSlot g.core p 64 slot then true
    else match s.readStrand g p with
      | .error _ => false
      | .ok (v, _) =>
        let len := strandLen v
        let par := fieldB v 24 8
        let rs := match s.paramOf g v with
          | .ok b => (List.range (fieldB b.1 8 1)).map (fun i => fieldB b.1 (16 + 8 * i) 8)
          | .error _ => []
        if !strandOwn v then false
        else if s.inSlot g.core (fieldB v 8 8) len slot || s.inSlot g.core (fieldB v 16 8) len slot
            || (par != 0 && s.inSlot g.core par 64 slot) || rs.any (fun r => s.inSlot g.core r len slot) then true
        else s.strandsTouch g slot (p :: seen) n (fieldB v 0 8)

/-- The first strand of a chain that is still to run. -/
def State.strandAt (s : State) (h : Chain) : Nat :=
  if h.done then (match s.bulkRead (s.chainAgent h) h.cur 8 with | .ok r => r.1 | .error _ => 0) else h.cur

/-- Whether a gather or collective reads or writes through a slot of its core. -/
def State.workTouches (s : State) (w : Work) (slot : Nat) (gather : Bool) : Bool :=
  let g := s.workAgent w (if gather then .ga else .co)
  s.inSlot w.core w.desc 64 slot || (match s.bulkRead g w.desc 64 with
    | .error _ => false
    | .ok (v, _) =>
      if gather then
        s.inSlot w.core (fieldB v 0 8) (4 * fieldB v 24 4) slot
          || s.inSlot w.core (fieldB v 16 8) (fieldB v 24 4 * fieldB v 28 4) slot
      else
        s.inSlot w.core (fieldB v 8 8) (fieldB v 4 4) slot
          || s.inSlot w.core (fieldB v 16 8) (fieldB v 4 4 * (if fieldB v 0 1 = 4 then 1536 else 1)) slot)

/-- Whether everything of the holder that the drain of a bank covers is done (R163): accesses to the bank, those of an instruction under
way and of a switched-out unit's matrix commands among them. The hand-over point orders nothing else of the sender (R164; assumption
105). -/
def State.drained (s : State) (pkg : Nat) : Bool :=
  let h := s.hitch pkg
  let c := h.holder
  (s.core c).ctxs.all (fun e => !(e.2.live && e.2.mid.any (fun m => decide (m.stamp < h.order))))
    && !(s.core c).out.any (fun o => o.holds.contains pkg)
    && s.net.all (fun a => !(a.core == c && decide (a.id < h.order) && (match a.dest with
      | .slot d sl _ => d == c && sl == h.slot
      | _ => false)))
    && s.xnet.all (fun m => !(m.src == c && m.target == c && decide (m.id < h.order) && m.line.any (fun l => l / 65536 == h.slot)))
    && !s.mxTouches c h.slot h.order
    && s.chains.all (fun k => !(k.core == c && k.mode == 0 && decide (k.id < h.order)
        && s.strandsTouch (s.chainAgent k) h.slot [] allStrands (s.strandAt k)))
    && s.gathers.all (fun w => !(w.core == c && decide (w.id < h.order) && s.workTouches w h.slot true))
    && s.colls.all (fun w => !(w.core == c && decide (w.id < h.order) && s.workTouches w h.slot false))

/-! ### Instructions (R162, R163, R165, R168, R170, R191) -/

/-- A bank put into a slot of its holder, for the unit that it runs (R159); what an earlier holder's step logged of it is not its
holder's (R313). -/
def State.hitchTo (s : State) (pkg c slot : Nat) : State :=
  let s := (s.freeBank pkg).setHitch pkg { Hitch.reset with st := .hitched, holder := c, slot := slot, owner := (s.core c).unit }
  s.setCore c { s.core c with slots := Tab.put (s.core c).slots slot pkg }

/-- The unit that a message or a bank of core c to a core is for: one of the sender's own team, running or switched out there, else the
one that runs there (R253, R259, R319). -/
def State.unitAt (s : State) (c d : Nat) : Option (Nat × Nat) :=
  match s.launchOf c with
  | some l => if l.parked.any (·.core == d) then some (l.queue, l.seq) else (s.core d).unit
  | none => (s.core d).unit

/-- Attach of a free bank of the core's cluster (R162). -/
def execBattach (h : Hdr) (x : OpSlotC) (s : State) : Out :=
  issue h plain (fun s =>
    let b := (s.me.rs x.c).toNat
    let slot := x.slot.toNat
    let pkg := clusterOf s.cur * 64 + b
    s.firm (if decide (60 ≤ b) || (s.slotBank s.cur slot).isSome then s.raise .illegal
    else if (s.hitch pkg).st != .free then s.raise .perm
    else .done ((s.noRoll s.cur).hitchTo pkg s.cur slot))) s

/-- Hand-over of the bank in a slot (R163): the slot empties at once, and the bank drains. -/
def execBhand (h : Hdr) (x : OpSlotC) (s : State) : Out :=
  issue h plain (fun s =>
    let c := s.cur
    let slot := x.slot.toNat
    let t := (s.me.rs x.c).toNat
    s.firm (match s.openSlot c slot with
    | .error e => s.raise e slot
    | .ok pkg =>
      if decide (1536 ≤ t) || t = c then s.raise .illegal
      else if (s.cluster (clusterOf t)).part != (s.cluster (clusterOf c)).part || !s.reaches c (clusterOf t) then s.raise .perm
      else if !reachable pkg t then s.raise .bankReach
      else
        let s := (s.noRoll c).emptySlot c slot
        let s := s.setHitch pkg { st := .draining, holder := c, slot := slot, target := t, order := s.nonce, doomed := false
                                  owner := (s.core c).unit, dest := s.unitAt c t }
        .done (s.outbound c slot pkg 1))) s

/-- The oldest bank that waits for a slot of a core (R165, R167); one for a unit that is switched out of it waits for that unit
(R319). -/
def State.waiting (s : State) (c slot : Nat) : Option Nat :=
  let ws := s.liveBanks.filter (fun pkg =>
    let h := s.hitch pkg
    h.slot == slot && ((h.st == .transit && h.target == c && !s.awayFrom h.dest c)
      || (h.st == .returning && h.holder == c && !s.awayFrom h.owner c)))
  ws.foldl (fun (m : Option Nat) p => match m with
    | none => some p
    | some q => if (s.hitch p).order < (s.hitch q).order then some p else some q) none

/-- Acceptance of a bank that waits for a slot (R165, R167). -/
def State.accept (s : State) (c slot pkg : Nat) : State :=
  let h := s.hitch pkg
  let s := s.hitchTo pkg c slot
  s.reoutbound h.holder slot pkg (if h.st == .transit then 3 else 4)

/-- Wait for a bank on a slot (R165). -/
def execBwait (h : Hdr) (slot : BitVec 5) (s : State) : Out :=
  issue h plain (fun s =>
    if (s.slotBank s.cur slot.toNat).isSome then .done s
    else s.firm (match s.waiting s.cur slot.toNat with
      | some pkg => .done (s.accept s.cur slot.toNat pkg)
      | none => .hold)) s

/-- State of a slot (R170). -/
def State.slotStatus (s : State) (c slot : Nat) : Nat :=
  let o := Tab.getD (s.core c).outb slot { status := 0, pkg := 0 }
  let here := s.slotBank c slot
  let st := match here with
    | some _ => if (s.core c).frozen.contains slot then 2 else 1
    | none => if (s.waiting c slot).isSome then 3 else 0
  o.status * 2 ^ 29 + st * 2 ^ 27 + here.getD o.pkg * 2 ^ 13

/-- State of a slot into a register (R170). -/
def execBstat (h : Hdr) (x : OpASlot) (s : State) : Out :=
  issue h plain (fun s => .done (s.setMe (s.me.ws x.a (BitVec.ofNat 64 (s.slotStatus s.cur x.slot.toNat))))) s

/-- A region's tag set without moving data, after the core's earlier accesses to the bank (R191). -/
def execBswz (h : Hdr) (x : OpSCode) (s : State) : Out :=
  issue h plain (fun s =>
    let p := (s.me.rs x.b).toNat
    s.firm (match s.resolve s.cur p with
    | some (.win slot off) =>
      if p % 4096 != 0 then s.raiseAt p .misalign
      else match s.openSlot s.cur slot with
        | .error e => s.raiseAt p e slot
        | .ok pkg =>
          if s.bankBusy s.cur .ls pkg then .hold
          else .done ((s.logLine pkg (off / 64)).setTag pkg (off / 4096) x.code.toNat)
    | _ => s.raiseAt p .illegalPointer)) s

/-- A bank revoked: out of its slot and out of flight, and wiping (R168). -/
def State.revoke (s : State) (pkg : Nat) : State :=
  let h := s.hitch pkg
  let s := if s.slotBank h.holder h.slot == some pkg then s.emptySlot h.holder h.slot else s
  let flying := h.st == .draining || h.st == .transit || h.st == .returning
  let s := if flying then s.reoutbound h.holder h.slot pkg 5 else s
  (s.freeBank pkg).setHitch pkg { Hitch.reset with st := .wiping }

/-- Revocation of a bank by its package number (R168). -/
def execBrevoke (h : Hdr) (b : SReg) (s : State) : Out :=
  issue h plain (fun s =>
    let pkg := (s.me.rs b).toNat
    s.firm (if s.me.level = 0 then s.raise .perm
    else if decide (192 * 64 ≤ pkg) || (s.cluster (pkg / 64)).part != (s.cluster (clusterOf s.cur)).part then s.raise .perm
    else if decide (60 ≤ pkg % 64) then s.raise .illegal
    else .done ((s.noRoll s.cur).revoke pkg))) s

/-! ### Events -/

/-- Whether a bank's drain has ended. -/
def State.mayHandOver (s : State) (pkg : Nat) : Bool := (s.hitch pkg).st == .draining && s.drained pkg

/-- HANDOVER_POINT: the point is performed at the bank, which then waits for its target (R163, R164), or freezes where
its holder has trapped fatally (R166), or returns where the target has. -/
def execHandoverPoint (pkg : Nat) (s : State) : Out :=
  let h := s.hitch pkg
  let u := s.reoutbound h.holder h.slot pkg 2
  event s (s.mayHandOver pkg)
    (if h.doomed then s.setHitch pkg { h with st := .frozen, target := 0, order := 0, doomed := false }
     else if (s.core h.target).dead then (u.setHitch pkg { h with st := .transit }).giveBack pkg
     else u.setHitch pkg { h with st := .transit, order := s.nonce })

/-- The unit switched out of its sender's core that a Returning bank goes back to. -/
def State.senderAway (s : State) (pkg : Nat) : Option (Launch × Parked) :=
  let h := s.hitch pkg
  if s.awayFrom h.owner h.holder then s.parkedOf h.owner h.holder else none

/-- Whether the slot that a Returning bank goes back to is empty. -/
def State.slotFree (s : State) (pkg : Nat) : Bool :=
  let h := s.hitch pkg
  match s.senderAway pkg with
  | some (_, p) => (Tab.get? p.banks h.slot).isNone
  | none => (s.slotBank h.holder h.slot).isNone

/-- A Returning bank hitched to its sender again (R167); a sender that is switched out has it with its other banks. -/
def State.takeBack (s : State) (pkg : Nat) : State :=
  let h := s.hitch pkg
  match s.senderAway pkg with
  | some (l, p) =>
    let banks := Tab.put p.banks h.slot pkg
    let s := s.setLaunch { l with parked := l.parked.map (fun q => if q.rank == p.rank then { q with banks := banks } else q) }
    let s := (s.freeBank pkg).setHitch pkg { Hitch.reset with st := .hitched, holder := h.holder, slot := h.slot, owner := h.owner }
    if (s.core h.holder).unit.isNone then s.reslot h.holder else s
  | none => s.hitchTo pkg h.holder h.slot

/-- Whether a Returning bank has somewhere to go, or its return is still to be reported. -/
def State.mayReturn (s : State) (pkg : Nat) : Bool :=
  let h := s.hitch pkg
  h.st == .returning && ((s.core h.holder).dead || s.slotFree pkg
    || (match Tab.get? (s.core h.holder).outb h.slot with | some o => o.pkg == pkg && o.status != 4 | none => false))

/-- BANK_RETURN: a Returning bank reaches its sender (R167). -/
def execBankReturn (pkg : Nat) (s : State) : Out :=
  let h := s.hitch pkg
  let u := s.reoutbound h.holder h.slot pkg 4
  event s (s.mayReturn pkg)
    (if (s.core h.holder).dead then u.setHitch pkg { h with st := .frozen, target := 0, order := 0, doomed := false }
     else if s.slotFree pkg then u.takeBack pkg
     else u)

/-- BANK_WIPE_DONE: a revoked bank's bytes and tags are zero, and it is Free (R168). -/
def execBankWipeDone (pkg : Nat) (s : State) : Out :=
  event s ((s.hitch pkg).st == .wiping) ((s.bankWipe pkg).freeBank pkg)

end Sys2Proof.Machine
end

