-- ==== Sys2Proof/Machine/Control.lean ====
section
/-!
DEFINITION. Class 0x2: control flow (R69 to R74).
-/

namespace Sys2Proof.Machine

/-- A branch taken to an address, or not; the core may have predicted it, and then it stands unresolved until
BRANCH_RESOLUTION, waiting where the prediction was wrong (R71, R136; assumption 5). -/
def State.branch (s : State) (taken : Bool) (pc : Nat) : Res :=
  let t := match Config.predict s.nonce with
    | none => s
    | some ok => s.setMe { s.me with unresolved := some (ok && s.me.unresolved.getD true) }
  if taken then .goto t pc else .done t

/-- No operation (R72). -/
def execNop (h : Hdr) (s : State) : Out := issue h plain (fun s => .done s) s

/-- Branch (R69). -/
def execBr (h : Hdr) (off : BitVec 24) (s : State) : Out := issue h plain (fun s => .goto s (branchTo s.me.pc off)) s

/-- Branch where a register is zero (R69). -/
def execBcZ (h : Hdr) (x : OpROff) (s : State) : Out :=
  issue h plain (fun s => s.branch (s.me.rs x.a == 0) (branchTo s.me.pc x.off)) s

/-- Branch where a register is not zero (R69). -/
def execBcNz (h : Hdr) (x : OpROff) (s : State) : Out :=
  issue h plain (fun s => s.branch (s.me.rs x.a != 0) (branchTo s.me.pc x.off)) s

/-- Call: the link is the next address (R69). -/
def execCall (h : Hdr) (x : OpROff) (s : State) : Out :=
  issue h plain (fun s =>
    .goto (s.setMe (s.me.ws x.a (BitVec.ofNat 64 ((s.me.pc + 12) % 2 ^ 48)))) (branchTo s.me.pc x.off)) s

/-- Decrement and branch while nonzero (R69); s0 reads zero and keeps nothing, so its new value is 2^64 − 1. -/
def execLoop (h : Hdr) (x : OpROff) (s : State) : Out :=
  issue h plain (fun s =>
    let a := s.me.rs x.a - 1
    let t := s.setMe (s.me.ws x.a a)
    t.branch (a != 0) (branchTo s.me.pc x.off)) s

/-- To the address in a register (R19, R70). -/
def State.indirect (s : State) (b : SReg) : Res :=
  let t := (s.me.rs b).toNat
  s.need (decide (t < 2 ^ 48)) .illegalPointer (s.need (t % 4 == 0) .misalign (s.branch true t))

/-- Return (R70). -/
def execRet (h : Hdr) (b : SReg) (s : State) : Out := issue h plain (fun s => s.indirect b) s

/-- Jump (R70). -/
def execJmp (h : Hdr) (b : SReg) (s : State) : Out := issue h plain (fun s => s.indirect b) s

/-- Whether everything a unit started has ended (R73). -/
def State.unitQuiet (s : State) (c : Nat) : Bool :=
  let k := s.core c
  k.ctxs.all (fun e => e.1 == 0 || !e.2.live) && s.coreQuiet c && k.mq.isEmpty && k.commit.isEmpty
    && k.epis.all (fun e => e.2.faulted) && s.xnet.all (fun m => m.src != c)
    && s.chains.all (fun h => h.core != c || h.mode != 0 || h.unit != k.unit)
    && s.gathers.all (fun w => w.core != c || w.unit != k.unit) && s.colls.all (fun w => w.core != c || w.unit != k.unit)
    && s.posts.all (fun p => p.atCore || p.core != c || p.unit != k.unit)

/-- The unit of a core completes: its boundary, its implicit reos, its credit (R73, R220, R228, R256); it has arrived at every
later barrier (R234, R235). -/
def State.unitEnds (s : State) (c : Nat) : State :=
  let s := s.reosOf c
  let k := s.core c
  let s := s.setCtx c 0 { s.ctx c 0 with live := false, wait := .none, q := .replicate 4 [] }
  let s : State := match k.unit with
    | some u => (match s.launch? u with
      | some l => (s.endOut c u).setLaunch { l with ended := insertSet k.rank l.ended, lastArr := s.time }
      | none => s)
    | none => s
  s.boundary c

/-- The end of a unit (R73): it waits for its helpers, stores and engine work. A context of no unit ends by itself. -/
def execUend (h : Hdr) (s : State) : Out :=
  issue h (fun _ => { helper := false }) (fun s =>
    s.firm (if !s.unitQuiet s.cur then .hold
    else
      let t := s.endTicket s.cur 0
      .wait (if s.me.inUnit || s.mycore.unit.isNone then t.unitEnds s.cur
        else t.setCtx s.cur 0 { t.ctx s.cur 0 with live := false, q := .replicate 4 [] }))) s

/-- A software trap (R74). -/
def execTrapi (h : Hdr) (code : BitVec 24) (s : State) : Out :=
  issue h plain (fun s => .trap s { cause := Cause.swTrap.code, detail := code.toNat, resume := (s.me.pc + 12) % 2 ^ 48
                                    fpc := s.me.pc, va := 0, ipa := 0, jrn := none, async := false }) s

end Sys2Proof.Machine
end

