-- ==== Sys2Proof/Machine/Dist.lean ====
section
/-!
DEFINITION. Class 0x7: distribution registers (R112 to R127).
-/

namespace Sys2Proof.Machine

/-! ### Points (R113) -/

/-- A point put after every point that does not come after it. -/
def insertPt {α : Type} (p : Nat × α) : List (Nat × α) → List (Nat × α)
  | [] => [p]
  | q :: r => if keyLt p.1 q.1 then p :: q :: r else q :: insertPt p r

/-- Points in the order of R113, ties as they stood. -/
def sortPts {α : Type} (ps : List (Nat × α)) : List (Nat × α) := ps.foldl (fun l p => insertPt p l) []

/-- The sum of weights. -/
def massOf (ps : List (Nat × Nat)) : Nat := ps.foldl (fun a p => a + p.2) 0

/-- The default NaN. -/
def dNaN : Nat := nanF .f32 false

/-- A finite value as an integer times 2^-149. -/
def fixed (c : Nat) : Int :=
  match decodeF .f32 c with
  | .num s m e => (if s then -1 else 1) * ((m * 2 ^ (e + 149).toNat : Nat) : Int)
  | _ => 0

/-- n/d·2^e rounded once, exact zero as +0. -/
def roundPt (n : Int) (d : Nat) (e : Int) : Nat :=
  roundF .f32 { mode := .rn, sat := false, ovt := 0, conv := false } (decide (n < 0)) n.natAbs d e

/-! ### Condensation (R122) -/

/-- What falls into one bin. -/
structure Bin where
  sum  : Int
  pinf : Bool
  ninf : Bool
  nan  : Option Nat

/-- The value of bin k of sorted points with total mass w; masses are taken in eighths. -/
def binOf (w k : Nat) (ps : List (Nat × Nat)) : Nat :=
  let b := (ps.foldl (fun (a : Nat × Bin) p =>
    let lo := a.1
    let hi := lo + p.2
    let part := min (8 * hi) ((k + 1) * w) - max (8 * lo) (k * w)
    if part = 0 then (hi, a.2)
    else (hi, match decodeF .f32 p.1 with
      | .nan => { a.2 with nan := a.2.nan.orElse (fun _ => some p.1) }
      | .inf false => { a.2 with pinf := true }
      | .inf true => { a.2 with ninf := true }
      | .num .. => { a.2 with sum := a.2.sum + part * fixed p.1 }))
    (0, { sum := 0, pinf := false, ninf := false, nan := none })).2
  match b.nan with
  | some c => quietF .f32 c
  | none =>
    if b.pinf && b.ninf then dNaN
    else if b.pinf then infF .f32 false
    else if b.ninf then infF .f32 true
    else roundPt b.sum w (-149)

/-- A list of points with positive masses, in index order, as eight points of weight 8,192 (R122). -/
def condense (ps : List (Nat × Nat)) : List (Nat × Nat) :=
  if ps.isEmpty then List.replicate 8 (dNaN, 8192)
  else
    let q := sortPts ps
    (List.range 8).map (fun k => (binOf (massOf q) k q, 8192))

/-! ### Tags (R118, R119) -/

/-- The next value of the counter that no register holds; at most n are tried. -/
def freshTagFrom (tags : List Nat) : Nat → Nat → Nat
  | 0, c => c
  | n + 1, c => let c := c % 255 + 1; if tags.contains c then freshTagFrom tags n c else c

/-- FreshTag (R119): the tag and the state whose counter stands on it. -/
def State.freshTag (s : State) : Nat × State :=
  let c := freshTagFrom (s.mycore.d.toList.map (·.tag)) 255 s.me.tagCtr
  (c, s.setMe { s.me with tagCtr := c })

/-- A distribution register. -/
def State.rd (s : State) (d : DReg) : Dist := s.mycore.d[d.toNat]

/-- A distribution register written. -/
def State.wd (s : State) (d : DReg) (x : Dist) : State := s.setMycore { s.mycore with d := s.mycore.d.set d.toNat x }

/-- The issue of class 0x7: only the control context (R16, R112). -/
def control : State → Need := fun _ => { helper := false }

/-- The paired points of a lane with their masses (R120). -/
def pairPts (op : Nat → Nat → Nat) (pointwise : Bool) (b c : List (Nat × Nat)) : List (Nat × Nat) :=
  let all := if pointwise then b.zip c else b.flatMap (fun p => c.map (fun q => (p, q)))
  all.filterMap (fun e => if e.1.2 * e.2.2 = 0 then none else some (op e.1.1 e.2.1, e.1.2 * e.2.2))

/-- An elementwise operation (R118, R120). -/
def distOp (op : Nat → Nat → Nat) (x : OpD3) (s : State) : Res :=
  let b := s.rd x.b
  let c := s.rd x.c
  let pw := b.tag == c.tag && b.tag != 0
  let pts := (List.range 8).flatMap (fun l => condense (pairPts op pw (b.lane l) (c.lane l)))
  let r := if pw then (b.tag, s) else s.freshTag
  .done (r.2.wd x.a { pts := pts, tag := r.1 })

/-- Rounding of paired values (R120). -/
def distRnd : Rnd := { mode := .rn, sat := false, ovt := 0, conv := false }

/-- Sum of distributions (R120). -/
def execDadd (h : Hdr) (x : OpD3) (s : State) : Out := issue h control (distOp (addF .f32 distRnd) x) s

/-- Difference of distributions (R120). -/
def execDsub (h : Hdr) (x : OpD3) (s : State) : Out := issue h control (distOp (subF .f32 distRnd) x) s

/-- Product of distributions (R120). -/
def execDmul (h : Hdr) (x : OpD3) (s : State) : Out := issue h control (distOp (mulF .f32 distRnd) x) s

/-- Maximum of distributions (R120). -/
def execDmax (h : Hdr) (x : OpD3) (s : State) : Out := issue h control (distOp (maxF .f32) x) s

/-- Minimum of distributions (R120). -/
def execDmin (h : Hdr) (x : OpD3) (s : State) : Out := issue h control (distOp (minF .f32) x) s

/-- Point masses (R121). -/
def execDpt (h : Hdr) (x : OpDpt) (s : State) : Out :=
  issue h control (fun s =>
    let v (l : Nat) : Nat := match x.b with
      | .s r => codeS s.me .f32 r
      | .v r => lane .f32 (s.me.rv r).toNat l
    .done (s.wd x.a { pts := (List.range 8).flatMap (fun l => List.replicate 8 (v l, 8192)), tag := 0 })) s

/-- The mixture of two registers (R121). -/
def execDmix (h : Hdr) (x : OpDmix) (s : State) : Out :=
  issue h control (fun s =>
    let a := s.rd x.a
    let b := s.rd x.b
    let al := (s.me.rs x.c).toNat % 65536
    let pts := (List.range 8).flatMap (fun l =>
      let p := a.lane l
      let q := b.lane l
      condense ((p.map (fun e => (e.1, e.2 * massOf q * (65536 - al))) ++ q.map (fun e => (e.1, e.2 * massOf p * al))).filter
        (fun e => e.2 != 0)))
    let r := s.freshTag
    .done (r.2.wd x.a { pts := pts, tag := r.1 })) s

/-- A tag written (R121). -/
def execDtag (h : Hdr) (x : OpDtag) (s : State) : Out :=
  issue h control (fun s =>
    let t := match x.b with
      | .s r => (s.me.rs r).toNat % 256
      | .imm v => v.toNat
    .done (s.wd x.a { s.rd x.a with tag := t })) s

/-! ### Moments and quantiles (R123, R124) -/

/-- Mean, variance and third central moment of a lane (R123). -/
def momentsOf (ps : List (Nat × Nat)) : Nat × Nat × Nat :=
  let ps := ps.filter (fun p => p.2 != 0)
  let w := massOf ps
  let pinf := ps.any (fun p => decodeF .f32 p.1 == .inf false)
  let ninf := ps.any (fun p => decodeF .f32 p.1 == .inf true)
  if w = 0 then (dNaN, dNaN, dNaN)
  else match ps.find? (fun p => isNaN .f32 p.1) with
    | some p => (quietF .f32 p.1, quietF .f32 p.1, quietF .f32 p.1)
    | none =>
      if pinf || ninf then (if pinf && ninf then dNaN else infF .f32 ninf, dNaN, dNaN)
      else
        let m : Int := ps.foldl (fun a p => a + p.2 * fixed p.1) 0
        let sum (n : Nat) : Int := ps.foldl (fun a p => a + p.2 * (fixed p.1 * w - m) ^ n) 0
        (roundPt m w (-149), roundPt (sum 2) (w ^ 3) (-298), roundPt (sum 3) (w ^ 4) (-447))

/-- Moments of each lane into a pair of vector registers (R123). -/
def execDmom (h : Hdr) (x : OpDmom) (s : State) : Out :=
  issue h control (fun s =>
    let ms := (List.range 8).map (fun l => momentsOf ((s.rd x.b).lane l))
    let k := s.me.wv x.a (BitVec.ofNat 512 (ofLanes .f32 (ms.map (·.1) ++ ms.map (·.2.1))))
    .done (s.setMe (k.wv (x.a + 1) (BitVec.ofNat 512 (ofLanes .f32 (ms.map (·.2.2))))))) s

/-- The first point whose cumulative mass reaches num/den of the whole (R124, R127). -/
def quantileFrom (num den w : Nat) : Nat → List (Nat × Nat) → Nat
  | _, [] => dNaN
  | c, p :: r => if num * w ≤ den * (c + p.2) then p.1 else quantileFrom num den w (c + p.2) r

/-- The lower quantile of a lane (R124). -/
def quantileOf (num den : Nat) (ps : List (Nat × Nat)) : Nat :=
  let ps := ps.filter (fun p => p.2 != 0)
  quantileFrom num den (massOf ps) 0 ps

/-- Lower quantiles (R124). -/
def execDqnt (h : Hdr) (x : OpDqnt) (s : State) : Out :=
  issue h control (fun s =>
    let q := min (s.me.rs x.c).toNat 65536
    .done (s.setMe (s.me.wv x.a (BitVec.ofNat 512 (ofLanes .f32
      ((List.range 8).map (fun l => quantileOf q 65536 ((s.rd x.b).lane l)))))))) s

/-! ### Images (R116, R117) -/

/-- The checks of R117 on the pointer of an image, for all its bytes: k goes on with the pointer. In space 0 an image that runs past
offset 2^48 − 1 takes ILLEGAL_POINTER, behind the check of alignment (assumption 111). -/
def State.imageAt (s : State) (x : OpDMem) (acc : Nat) (k : Nat → Res) : Res :=
  match displace (s.me.rs x.base).toNat x.disp.toInt with
  | none => s.raiseStray
  | some p =>
    if !([0, 1, 2].contains (bits p 63 60)) then s.raiseAt p .illegalPointer
    else match s.resolve s.cur p with
      | none => s.raiseAt p .illegalPointer
      | some t =>
        if p % 64 != 0 || (bits p 63 60 != 0 && decide (65536 < bits p 15 0 + 512)) then s.raiseAt p .misalign
        else match t with
          | .glb va =>
            if 2 ^ 48 < va + 512 then s.raiseAt p .illegalPointer
            else s.withPages va 512 acc s.me.xlat.toNat s.me.level (fun segs es =>
              s.partsOk true p va acc (cutsOf s.cur va 512 (segs.zip es)) false (k p))
          | .rem d _ _ => if s.reaches s.cur (clusterOf d) then k p else s.raiseAt p .perm (pageDetail 0 false acc)
          | .win slot _ => (match s.openSlot s.cur slot with
            | .error c => s.raiseAt p c slot
            | .ok _ => k p)
          | _ => s.raiseAt p .illegalPointer

/-- A line, or all eight, of an image as an access of the ls path (R117). -/
def imageReq (p : Nat) (kind : AKind) (size data : Nat) (reg : Option Reg) : MemReq :=
  { spaces := [0, 1, 2], base := BitVec.ofNat 64 p, disp := 0, kind := kind, size := size, align := 64, data := data
    scope := none, acq := false, rel := false, reg := reg, ty := .n64 }

/-- Load of an image as eight lines, its content checked when all have come (R117). -/
def execDld (h : Hdr) (x : OpDMem) (s : State) : Out :=
  issue h control (fun s => s.imageAt x 0 (fun p => s.memOp (imageReq p .load 512 0 (some (.d x.d.toNat))))) s

/-- Store of an image as eight lines in ascending order (R117): posted ones, which issue together once the journal has eight free
entries (R138; assumption 112), or in space 1 lines that the context waits for. -/
def execDstr (h : Hdr) (x : OpDMem) (s : State) : Out :=
  issue h control (fun s =>
    s.firm (s.imageAt x 1 (fun p =>
      let v := (s.rd x.d).image
      if bits p 63 60 = 1 then s.memOp (imageReq p .store 512 v none)
      else if decide (24 < s.mycore.journal.length) then .hold
      else (List.range 8).foldl (fun (r : Res) i => match r with
        | .done t => t.memOp (imageReq (p + 64 * i) .store 64 (v / 256 ^ (64 * i) % 256 ^ 64) none)
        | r => r) (.done s)))) s

end Sys2Proof.Machine
end

