-- ==== Sys2Proof/Machine/Fence.lean ====
section
/-!
DEFINITION. Class 0xA, operations 0x00 to 0x0A: fences (R139, R147, R148, R155, R186) and the reply to a drain marker.
-/

namespace Sys2Proof.Machine

/-- A fence: it does not issue before every earlier access of the context is performed and acknowledged (R139). -/
def fenceOp (s : State) : Res := if s.quiet s.cur s.curCtx then .done s else .hold

/-- Fence of scope ctx (R139, R186). -/
def execFenceCtx (h : Hdr) (s : State) : Out := issue h plain fenceOp s

/-- Fence of scope core (R139, R186): a taken branch that follows it lets the context see new code (R19). -/
def execFenceCore (h : Hdr) (s : State) : Out :=
  issue h plain (fun s => match fenceOp s with
    | .done t => .done (t.setMe { t.me with fenced := true })
    | r => r) s

/-- Fence of scope clu (R139, R186). -/
def execFenceClu (h : Hdr) (s : State) : Out := issue h plain fenceOp s

/-- Fence of scope die (R139, R186). -/
def execFenceDie (h : Hdr) (s : State) : Out := issue h plain fenceOp s

/-- Fence of scope sys (R139, R186). -/
def execFenceSys (h : Hdr) (s : State) : Out := issue h plain fenceOp s

/-- The package fence (R148): with the grant, its markers go to the four bridges. -/
def execFencePkg (h : Hdr) (s : State) : Out :=
  issue h plain (fun s =>
    s.firm (s.need s.me.grant .perm (.wait (s.setMe { s.me with wait := .marker s.nonce [0, 1, 2, 3] })))) s

/-- Whether every access that a core has issued on a path is performed and acknowledged (R155); of an engine, the writes of work
whose completion the context has observed. -/
def State.pathQuiet (s : State) (c x : Nat) (p : Path) : Bool :=
  s.net.all (fun a => !(a.core == c && a.path == p) || (p != .ls && p != .mx && !a.seenBy.contains (s.ctx c x).born)) && (match p with
  | .ls => (s.core c).loads.all (fun l => l.val.isSome || (s.core c).mq.any (·.id == l.id))
  | .mx => (s.core c).mq.all (fun m => match m.op with
      | .mld .. | .mepi .. | .mswz .. | .mrepl .. => false
      | _ => true)
  | _ => true)

/-- A fence between two paths of a core (R155). -/
def execFencep (h : Hdr) (x : OpFencep) (s : State) : Out :=
  issue h plain (fun s => if s.pathQuiet s.cur s.curCtx x.src then .done s else .hold) s

/-- The tokens of a context whose stores are not all acknowledged. -/
def State.openTokens (s : State) : List (Nat × List Nat) :=
  s.me.tokens.filter (fun t => t.2.any (fun i => s.net.any (·.id == i)))

/-- Start of a split fence (R147). -/
def execFiss (h : Hdr) (a : SReg) (s : State) : Out :=
  issue h plain (fun s =>
    s.firm (if decide (4 ≤ s.openTokens.length) then .hold
    else
      let q := (s.me.fseq + 1) % 65536
      let ids := (s.net.filter (fun e => s.owned e s.cur s.curCtx && e.kind != .load)).map (·.id)
      .done (s.setMe ({ s.me with fseq := q, tokens := s.openTokens ++ [(q, ids)] }.ws a (BitVec.ofNat 64 (2 ^ 63 + q)))))) s

/-- End of a split fence (R147). -/
def execFwait (h : Hdr) (b : SReg) (s : State) : Out :=
  issue h plain (fun s =>
    let t := (s.me.rs b).toNat
    let q := t % 65536
    let ahead := (q + 65536 - s.me.fseq) % 65536
    if !bit t 63 || bits t 62 16 != 0 || (decide (1 ≤ ahead) && decide (ahead ≤ 32767)) then s.raise .illegal
    else if s.openTokens.any (fun e => decide ((q + 65536 - e.1) % 65536 < 32768)) then .hold
    else .done s) s

/-- Whether every store and atomic that a bridge held when the marker came has been acknowledged (R148); the link buffers are
not drained (R153). -/
def State.bridgeDrained (s : State) (die since : Nat) : Bool :=
  s.net.all (fun a => !(a.kind != .load && a.buffer == die && a.bridged.any (fun n => decide (n < since))))

/-- Whether a bridge may reply to a context's marker; the last reply completes the fence, which waits for its own fence effects
too, a refusal that its context has not taken among them (R139, R148). -/
def State.mayReply (s : State) (c x die : Nat) : Bool :=
  match (s.ctx c x).wait with
  | .marker since ds => ds.contains die && s.bridgeDrained die since && (decide (1 < ds.length) || (s.quiet c x && (s.ctx c x).traps.isEmpty))
  | _ => false

/-- DRAIN_MARKER_REPLY: a bridge replies; with the fourth reply the fence completes (R148). -/
def execDrainMarkerReply (core : Nat) (ctx : Nat) (die : Nat) (s : State) : Out :=
  match (s.ctx core ctx).wait with
  | .marker since ds =>
    if !s.mayReply core ctx die then .next s
    else
      let r := ds.filter (· != die)
      .next (if r.isEmpty then s.finishWait core ctx
        else s.setCtx core ctx { s.ctx core ctx with wait := .marker since r })
  | _ => .next s

end Sys2Proof.Machine
end

