-- ==== Sys2Proof/Machine/Flags.lean ====
section
/-!
DEFINITION. Predicates: the conditions of compares (R63, R67), what scalar and vector compares write (R57, R79), and
the selecting bit of a predicate.
-/

namespace Sys2Proof.Machine

/-- The conditions of compares. -/
inductive Cond where
  | eq | ne | lt | le | gt | ge | un
  deriving DecidableEq, Repr

/-- A condition on the sign of a comparison. -/
def Cond.holds : Cond → Int → Bool
  | .eq, d => d == 0
  | .ne, d => d != 0
  | .lt, d => decide (d < 0)
  | .le, d => decide (d ≤ 0)
  | .gt, d => decide (0 < d)
  | .ge, d => decide (0 ≤ d)
  | .un, _ => false

/-- An integer compare (R63). -/
def cmpI (c : Cond) (t : ETy) (a b : Nat) : Bool := c.holds (intOf t a - intOf t b)

/-- A float compare: with a NaN only ne and un hold (R67). -/
def cmpF (c : Cond) (t : ETy) (a b : Nat) : Bool :=
  if isNaN t a || isNaN t b then c == .ne || c == .un else c.holds (cmpV (decodeF t a) (decodeF t b))

/-- A compare in an element type. -/
def cmpE (c : Cond) (t : ETy) (a b : Nat) : Bool := if t.isInt then cmpI c t a b else cmpF c t a b

/-- What a scalar compare writes: all ones or all zeros (R57). -/
def predAll (b : Bool) : Word := if b then BitVec.allOnes 64 else 0

/-- What a vector compare writes: bit L for lane L, zero above the lanes (R57). -/
def predLanes (bs : List Bool) : Word := BitVec.ofNat 64 (bs.foldr (fun b a => b2n b + 2 * a) 0)

/-- Bit L of a predicate with a negate bit (R62, R77). -/
def predBit (k : Ctx) (p : PReg) (neg : Bool) (l : Nat) : Bool := (k.rp p).getLsbD l != neg

end Sys2Proof.Machine
end

