-- ==== Sys2Proof/Machine/Context.lean ====
section
/-!
DEFINITION. Class 0xD: helpers, launches and cancellations, the barrier, exchange, rings, progress and yielding (R244 to
R258, R362), with the resolution of branches and the drain of the commit buffer (R71, R136, R238).
-/

namespace Sys2Proof.Machine

/-! ### Helpers (R246 to R248) -/

/-- The lowest context of 1 to 15 that is not live. -/
def State.freeCtx (s : State) (c : Nat) : Option Nat :=
  ((List.range 15).map (· + 1)).find? (fun x => !(s.ctx c x).live)

/-- A helper started (R16, R47, R246). -/
def execHstart (h : Hdr) (x : OpHStart) (s : State) : Out :=
  issue h (fun _ => { helper := false }) (fun s =>
    s.firm (match s.freeCtx s.cur with
    | none => .hold
    | some n =>
      let b := s.me.rs x.b
      let l := if s.me.inUnit then s.launchOf s.cur else none
      let k : Ctx := { s.freshCtx s.cur with
        pc := branchTo s.me.pc x.off, level := s.me.level, ovt := s.me.ovt, inUnit := s.me.inUnit
        xlat := (l.map (·.xlat)).getD s.me.xlat }
      let k := ((k.ws 1 b).ws 2 (BitVec.ofNat 64 n)).ws 3
        ((l.map (fun l => BitVec.ofNat 64 l.team)).getD (Config.helperTeam s.nonce))
      let s := s.fresh.2.setCtx s.cur n k
      let s := s.setMycore { s.mycore with loads := s.mycore.loads.filter (·.ctx != n) }
      .done (s.setMe (s.me.ws x.a (BitVec.ofNat 64 n))))) s

/-- Whether nothing that a context has issued is still to end. -/
def State.ctxDrained (s : State) (c x : Nat) : Bool :=
  s.quiet c x && s.xnet.all (fun m => !(m.src == c && m.ctx == x)) && (s.core c).commit.all (·.ctx != x)
    && (s.ctx c x).traps.isEmpty

/-- The end of a helper: a release of scope core (R247); every load of it has written its register (R58). -/
def execHend (h : Hdr) (s : State) : Out :=
  issue h (fun _ => { control := false }) (fun s =>
    s.firm (if s.me.ticket.isSome then s.raise .illegal
    else if !s.ctxDrained s.cur s.curCtx || s.mycore.loads.any (·.ctx == s.curCtx) then .hold
    else .wait (s.setMe { s.me with live := false, q := .replicate 4 [], irqs := [] }))) s

/-- Wait for a helper (R248). -/
def execHwait (h : Hdr) (b : SReg) (s : State) : Out :=
  issue h plain (fun s =>
    let n := (s.me.rs b).toNat
    if n = 0 || decide (16 ≤ n) || n = s.curCtx then s.raise .illegal
    else if (s.ctx s.cur n).live then .hold
    else .done s) s

/-- `yield`: the effect of `nop ~y` (R258). -/
def execYield (h : Hdr) (s : State) : Out :=
  issue (if guardTrue s.me h then { h with yield := true } else h) plain (fun s => .done s) s

/-! ### Launching, waiting and cancelling (R219, R249 to R251) -/

/-- Whether a handle keeps its reserved bits zero. -/
def handleOk (w : Nat) : Bool :=
  bits w 47 32 == 0 && (match handleLevel w with
    | 1 => true
    | 2 => decide (handleName w < 65536)
    | 3 => handleName w == 0
    | 4 => true
    | _ => false)

/-- Graph identifier of a record (R217). -/
def recGraph (v : Nat) : Nat := fieldB v 22 2

/-- Whether a record is flagged last of its graph. -/
def recLast (v : Nat) : Bool := bit (fieldB v 28 1) 1

/-- Whether a graph's records show it complete: the last-flagged one has completed, and none accepted before it is open
(R215). -/
def graphComplete (e : List Nat × Option Nat) : Bool :=
  match e.2 with
  | some q => e.1.all (fun n => decide (2 ^ 31 ≤ (q + 2 ^ 32 - n) % 2 ^ 32))
  | none => false

/-- A graph's records with one accepted: a complete graph of the identifier begins anew (R215). -/
def graphAdd (g : Tab (List Nat × Option Nat)) (v seq : Nat) : Tab (List Nat × Option Nat) :=
  if recGraph v = 0 then g
  else
    let e := Tab.getD g (recGraph v) ([], none)
    Tab.put g (recGraph v) (e.1 ++ [seq], if graphComplete e then none else e.2)

/-- A record accepted by a queue under its next sequence number (R219, R276). -/
def WQueue.accept (q : WQueue) (n v : Nat) : WQueue :=
  { q with
    pending := q.pending ++ [{ seq := q.nextSeq, n := n, bytes := v, read := false, dep := none, eligible := none
                               arrival := [], chain := 0 }]
    nextSeq := (q.nextSeq + 1) % 2 ^ 32
    graphs := graphAdd q.graphs v q.nextSeq }

/-- Submission of a record to the unit's own queue: a release of scope sys (R249). Under an unresolved branch it enters the
commit buffer, and its context waits (R245). -/
def execLaunch (h : Hdr) (x : OpRR) (s : State) : Out :=
  issue h (fun _ => { unit := true }) (fun s =>
    let w := (s.me.rs x.b).toNat
    let n := bits w 2 0 + 1
    let p := w / 64 * 64
    match s.resolve s.cur p with
    | some (.glb va) =>
      if bits w 5 3 != 0 then s.raiseAt w .misalign
      else s.withPages va (64 * n) 0 s.me.xlat.toNat s.me.level (fun _ _ =>
        if s.buffers then (match s.buffered (.launch h x) (s.me.rs x.b) with
          | some t => .wait (t.setMe { t.me with wait := .commit })
          | none => .hold)
        else if !(s.ctxDrained s.cur s.curCtx) then .hold
        else match s.bulkRead s.self p (64 * n) with
          | .error t => s.trip t
          | .ok r =>
            let u := (s.mycore.unit.getD (0, 0)).1
            let q := s.queue u
            if decide (256 ≤ q.pending.length) then .hold
            else
              let s := (r.2.setQueue u (q.accept n r.1)).noRoll s.cur
              .done (s.setMe (s.me.ws x.a (BitVec.ofNat 64 (2 ^ 61 + u * 2 ^ 48 + q.nextSeq)))))
    | _ => s.raiseAt w .illegalPointer) s

/-- Whether a launch of a queue is still queued or running. -/
def State.launchOpen (s : State) (q name : Nat) : Bool :=
  (s.queue q).pending.any (·.seq == name) || s.launches.any (fun l => l.queue == q && l.seq == name)

/-- Whether a graph's counter shows it complete (R215). -/
def State.graphDone (s : State) (q name : Nat) : Bool :=
  graphComplete (Tab.getD (s.queue q).graphs name ([], none))

/-- Wait for a launch or a graph (R250). -/
def execLwait (h : Hdr) (b : SReg) (s : State) : Out :=
  issue h plain (fun s =>
    let w := (s.me.rs b).toNat
    let q := handleQueue w
    let n := handleName w
    let next := (s.queue q).nextSeq
    if !handleOk w || decide (2 < handleLevel w) || (handleLevel w == 2 && n == 0) then s.raise .illegal
    else if (s.queue q).part != s.partOf s.cur then s.raise .perm
    else if handleLevel w = 2 then (if s.graphDone q n then .done s else .hold)
    else if decide ((n + 2 ^ 32 - next) % 2 ^ 32 < 2 ^ 31) then s.raise .illegal
    else if decide (4096 < (next + 2 ^ 32 - n) % 2 ^ 32) || !s.launchOpen q n then .done s
    else .hold) s

/-- A cancellation after its checks, handed to the hub through the commit buffer (R245, R251). -/
def cancelOp (level : Nat) (i : Instr) (b : SReg) (s : State) : Res :=
  let w := (s.me.rs b).toNat
  if !handleOk w || handleLevel w != level then s.raise .illegal
  else if (s.queue (handleQueue w)).part != s.partOf s.cur then s.raise .perm
  else if decide (3 ≤ level) && s.me.level = 0 then s.raise .perm
  else s.engineCmd i (s.me.rs b)

/-- Cancellation of a launch (R251). -/
def execCancelLaunch (h : Hdr) (b : SReg) (s : State) : Out := issue h plain (cancelOp 1 (.cancelLaunch h b) b) s

/-- Cancellation of a graph (R251). -/
def execCancelGraph (h : Hdr) (b : SReg) (s : State) : Out := issue h plain (cancelOp 2 (.cancelGraph h b) b) s

/-- Cancellation of a session (R251). -/
def execCancelSession (h : Hdr) (b : SReg) (s : State) : Out := issue h plain (cancelOp 3 (.cancelSession h b) b) s

/-- Cancellation of a job (R251). -/
def execCancelJob (h : Hdr) (b : SReg) (s : State) : Out := issue h plain (cancelOp 4 (.cancelJob h b) b) s

/-! ### The barrier (R234, R235, R252) -/

/-- Whether a core may arrive at its barrier (R252): its accesses acknowledged, the control context's own messages
delivered, no refusal unresolved. -/
def State.mayArriveAt (s : State) (c : Nat) : Bool :=
  let k := s.core c
  s.coreQuiet c && s.pathQuiet c 0 .mx && k.epis.all (fun e => e.2.faulted)
    && s.xnet.all (fun m => !(m.src == c && m.ctx == 0))
    && k.ctxs.all (fun e => e.2.traps.all (fun t => t.cause != Cause.remoteRefused.code)
      && !(e.2.live && e.2.trapcause.getLsbD 63 && bits e.2.trapcause.toNat 7 0 == Cause.remoteRefused.code))

/-- Arrival at the barrier, and its end where the barrier completed while the context was elsewhere (R252, R259). -/
def execBar (h : Hdr) (s : State) : Out :=
  issue h (fun _ => { helper := false, unit := true }) (fun s =>
    s.firm (if s.mycore.barDone then .done (s.setMycore { s.mycore with barDone := false, arrived := false })
    else if s.mycore.arrived then .wait (s.setMe { s.me with wait := .bar })
    else if !s.mayArriveAt s.cur then .hold
    else
      let s := s.setMycore { s.mycore with arrived := true }
      let s := match s.launchOf s.cur with
        | some l => s.setLaunch { l with lastArr := s.time }
        | none => s
      .wait (s.setMe { s.me with wait := .bar }))) s

/-- The frame of a core (R312): its contexts, distribution registers and tiles, and the tiles held by faulted
epilogues. -/
def State.takeFrame (s : State) (c : Nat) : State :=
  let k := s.core c
  let f : Frame :=
    { ctxs := k.ctxs.filter (fun e => e.2.live), d := k.d.toList, tiles := k.tiles.toList
      held := (k.epis.filter (fun e => e.2.faulted)).map (·.1 % 32), barDone := k.barDone }
  s.setCore c { k with frame := some f, units := [], t0cc := k.cc
                       ckptTiles := (k.tiles.toList.filter (·.valid)).map (·.phys) }

/-- The undo entries of a team's banks are dropped (R313), with those of banks that no team holds any more. -/
def State.emptyUndo (s : State) (l : Launch) : State :=
  s.each s.clusters (fun s e =>
    let k := s.cluster e.1
    s.setCluster e.1 { k with undo := k.undo.filter (fun u => !(s.ofTeam l (u.line / 1024)) && (s.teamOf (u.line / 1024)).isSome) })

/-- The cores on which a launch's units run now. -/
def State.teamCores (s : State) (l : Launch) : List Nat :=
  l.cores.filter (fun c => (s.core c).unit == some (l.queue, l.seq))

/-- Whether a context of a launch's units on a core, live or switched out, holds grants. -/
def State.grantsOn (s : State) (l : Launch) (c : Nat) : Bool :=
  let k := s.core c
  let u := some (l.queue, l.seq)
  (k.unit == u && k.ctxs.any (fun e => e.2.live && e.2.inUnit && !e.2.grants.isEmpty))
    || k.out.any (fun o => o.unit == u && decide (2 < (Tab.getD k.grantTable o.born []).length))

/-- Whether a context of a team waits for a sequencer to accept its claim (R204). -/
def State.submitting (s : State) (l : Launch) : Bool :=
  (s.teamCores l).any (fun c => (s.core c).ctxs.any (fun e => e.2.live && (match e.2.wait with | .submit _ => true | _ => false)))

/-- The team checkpoint (R312): a frame on every core, empty logs; a held grant, or a claim on its way to a sequencer, makes the
next step non-rollbackable (R214). -/
def State.checkpoint (s : State) (l : Launch) : State :=
  let s := s.each (s.teamCores l) State.takeFrame
  let grants := l.cores.any (s.grantsOn l)
  (s.emptyUndo l).setLaunch { l with noRoll := grants || s.submitting l, replayed := false, rbPending := false }

/-- The tick at which a barrier completes (R235). -/
def barT0 (l : Launch) : Nat := cdiv (l.lastArr + 128) 64 * 64

/-- Whether a launch's barrier may complete: every unit that has not ended has arrived, and, where it closes an
exchange step, every message of the step is delivered (R235). -/
def State.mayComplete (s : State) (l : Launch) : Bool :=
  l.begun && l.status == 0 && !l.rbPending && decide (barT0 l ≤ s.time) && decide (l.ended.length < l.team)
    && (s.teamCores l).all (fun c => (s.core c).arrived && !(s.core c).barDone) && l.parked.all (fun p => p.arrived && !p.barDone)
    && (l.phase != 1 || s.xnet.all (fun m => m.by_ != some (l.queue, l.seq)))

/-- BARRIER_COMPLETE (R234, R235, R312): every waiting `bar` ends at T0, the phase changes and the checkpoint is
taken. -/
def execBarrierComplete (queue seq : Nat) (s : State) : Out :=
  match s.launch? (queue, seq) with
  | none => .next s
  | some l =>
    if !s.mayComplete l then .next s
    else
      let one (s : State) (c : Nat) : State :=
        if (s.ctx c 0).live && (s.ctx c 0).wait == .bar then
          let s := s.finishWait c 0
          s.setCore c { s.core c with arrived := false, barDone := false }
        else s.setCore c { s.core c with barDone := true }
      let s := s.each (s.teamCores l) one
      let l := { l with phase := if l.phase = 1 then 2 else 1, t0 := barT0 l
                        parked := l.parked.map (fun p => { p with barDone := true }) }
      .next ((s.setLaunch l).checkpoint l)

/-! ### Exchange (R236, R253, R254) -/

/-- The core and line that an `xsend` target names, none for a queue message. -/
def State.xTarget (s : State) (w : Nat) : Except Cause (Nat × Option Nat) :=
  let own := bits w 59 48
  if bits w 63 60 = 2 && bits w 47 40 = 0xFF then
    (if decide (bits own 11 4 < 192) && !bit own 0 && bits w 39 0 == 0 then .ok (coreIn (bits own 11 4) (bits own 3 1), none)
     else .error .illegalPointer)
  else match s.resolve s.cur w with
    | some (.rem d slot off) => .ok (d, some (slot * 65536 + off))
    | _ => .error .illegalPointer

/-- Whether the cycle offset of an exchange instruction has passed (R236). -/
def State.cycleOk (s : State) (cyc : BitVec 16) : Bool := decide (s.mycore.t0cc + cyc.toNat ≤ s.mycore.cc)

/-- Send of 64 bytes in the exchange step (R253). -/
def execXsend (h : Hdr) (x : OpXsend) (s : State) : Out :=
  issue h (fun _ => { helper := false, unit := true, exchange := true }) (fun s =>
    let c := s.cur
    let p := (s.me.rs x.a).toNat
    match s.xTarget p with
    | .error e => s.raiseAt p e
    | .ok (d, line) =>
      if !s.reaches c (clusterOf d) then s.raiseAt p .perm (pageDetail 0 false 1)
      else if (line.getD 0) % 64 != 0 then s.raiseAt p .misalign
      else s.firm (if !s.cycleOk x.cyc then .hold
      else match s.journalSlot c with
        | none => .hold
        | some e =>
          let s := if ((s.launchOf c).map (s.inTeam · d)).getD true then s else s.noRoll c
          let m : XMsg := { id := s.nonce, src := c, ctx := s.curCtx, jrn := e, target := d, line := line, unit := s.unitAt c d
                            val := s.me.rv x.b, pc := s.me.pc, va := p, stage := 0, by_ := s.mycore.unit }
          let s := s.fresh.2.takeJournal c e
          .done { s with xnet := s.xnet ++ [m] })) s

/-- The oldest item of q4 received (R254). -/
def execXrecv (h : Hdr) (x : OpXrecv) (s : State) : Out :=
  issue h (fun _ => { helper := false, unit := true, exchange := true }) (fun s =>
    if !s.cycleOk x.cyc then .hold
    else match s.me.q.toList.getD 0 [] with
      | [] => .hold
      | it :: r => .done (s.setMe ({ s.me with q := s.me.q.setIfInBounds 0 r }.wv x.a it.val))) s

/-- A message that has left the network: the delivery counts towards the step's end (R235). -/
def State.delivered (s : State) (m : XMsg) : State :=
  let t : State := { s with xnet := s.xnet.filter (·.id != m.id) }
  match m.by_.bind t.launch? with
  | some l => t.setLaunch { l with lastArr := t.time }
  | none => t

/-- Whether the control context of a message can take it: it consumes, and q4 has room (R254, R270). -/
def Ctx.takesItem (k : Ctx) : Bool := k.consumes && decide ((k.q.toList.getD 0 []).length < 16)

/-- A queue message appended to q4 of its control context, and delivered. -/
def State.giveItem (s : State) (m : XMsg) : State :=
  let k := s.ctx m.target 0
  let s := s.setCtx m.target 0 { k with q := k.q.setIfInBounds 0 (k.q.toList.getD 0 [] ++ [{ wide := true, val := m.val }]) }
  (s.freeJournal m.src (some m.jrn)).delivered m

/-- What happens next to a queue message; none while it waits. In order per sender it reaches its core's interface where a credit
is free, and from there, in arrival order, q4 (R253, R254, R270). One whose unit is gone is discarded. -/
def State.moveItem (s : State) (m : XMsg) : Option State :=
  let at_ := s.controlOf m.target m.unit
  let mine (n : XMsg) : Bool := n.target == m.target && n.unit == m.unit && n.line.isNone
  let waiting := s.xnet.filter (fun n => mine n && n.stage != 0)
  if at_ == .gone then some ((s.freeJournal m.src (some m.jrn)).delivered m)
  else if m.stage = 0 then
    if s.xnet.any (fun n => decide (n.id < m.id) && n.src == m.src && mine n && n.stage == 0) then none
    else if at_ == .here 0 && waiting.isEmpty && (s.ctx m.target 0).takesItem then
      some (s.giveItem m)
    else if decide (s.atInterface m.target at_ < 4) then
      some { s.fresh.2 with xnet := s.xnet.filter (·.id != m.id) ++ [{ m with stage := 1, came := s.nonce }] }
    else none
  else if at_ == .here 0 && (waiting.head?).map (·.id) == some m.id && (s.ctx m.target 0).takesItem then
    some (s.giveItem m)
  else none

/-- Whether an exchange message may move now. -/
def State.mayDeliver (s : State) (m : XMsg) : Bool := m.line.isSome || s.torn.contains m.id || (s.moveItem m).isSome

/-- EXCHANGE_DELIVERY (R236, R253): a line is written at its bank, or refused, which raises no trap in a pending rollback (R315); a
queue message goes on towards q4. A message whose flit has failed every retry is refused (R283). -/
def execExchangeDelivery (id : Nat) (s : State) : Out :=
  match s.xnet.find? (·.id == id) with
  | none => .next s
  | some m =>
    let free : State := (s.freeJournal m.src (some m.jrn)).delivered m
    let bad (e : Cause) : State :=
      if !(s.ctx m.src m.ctx).live || ((s.launchOf m.src).map (·.rbPending)).getD false then free
      else (s.delivered m).pendTrap m.src m.ctx
        { cause := Cause.remoteRefused.code, detail := e.code, resume := 0, fpc := m.pc
          va := m.va, ipa := 0, jrn := some m.jrn, async := true }
    if s.torn.contains m.id then .next { bad .uncorrectable with torn := s.torn.filter (· != m.id) }
    else match m.line with
    | none => .next ((s.moveItem m).getD s)
    | some l =>
      if s.hub.absent.contains (dieOf m.target) then .next (bad .dieAbsent)
      else match s.bankForUnit (m.by_.or (s.core m.src).unit) m.src m.target (l / 65536) m.id with
        | .error e => .next (bad e)
        | .ok pkg =>
          .next (((s.bankWrite pkg (l % 65536) 64 m.val.toNat).freeJournal m.src (some m.jrn)).delivered m)

/-! ### Rings (R239, R240, R255, R256) -/

/-- A ring, by 32 × cluster + number. -/
def State.ring (s : State) (r : Nat) : Ring := Tab.getD (s.cluster (r / 32)).rings (r % 32) Ring.reset

/-- The state with a ring replaced. -/
def State.setRing (s : State) (r : Nat) (g : Ring) : State :=
  let k := s.cluster (r / 32)
  s.setCluster (r / 32) { k with rings := Tab.put k.rings (r % 32) g }

/-- An item appended to the output ring (R255). -/
def execRpush (h : Hdr) (b : SrcSV) (s : State) : Out :=
  issue h (fun _ => { helper := false, unit := true }) (fun s =>
    match s.mycore.ringOut with
    | none => s.raise .illegal
    | some r =>
      let g := s.ring r
      let v : Vec := match b with
        | .s x => (s.me.rs x).setWidth 512
        | .v x => s.me.rv x
      let wideOp := match b with | .s _ => false | .v _ => true
      if s.mycore.reos || !g.enable || (wideOp && !g.wide) then s.raise .illegal
      else s.firm (if decide (g.cap ≤ g.items.length) then .hold
      else .done ((s.setRing r { g with items := g.items ++ [v] }).noRoll s.cur))) s

/-- The oldest item of the input ring, or the end-of-stream flag (R255). -/
def execRpop (h : Hdr) (x : OpRPop) (s : State) : Out :=
  issue h (fun _ => { helper := false, unit := true }) (fun s =>
    match s.mycore.ringIn with
    | none => s.raise .illegal
    | some r =>
      let g := s.ring r
      let flag (s : State) (f : Bool) : State := s.setMe (s.me.wp x.p (predAll f))
      if !g.enable then s.raise .illegal
      else s.firm (if s.mycore.released then .done (flag (s.noRoll s.cur) true)
      else match g.items with
        | it :: rest =>
          let s := (s.setRing r { g with items := rest }).noRoll s.cur
          let k := match x.b with
            | .s d => s.me.ws d (it.setWidth 64)
            | .v d => s.me.wv d it
          .done (flag (s.setMe k) false)
        | [] => if g.ended then .done (flag (s.noRoll s.cur) true) else .hold)) s

/-- The unit produces no more (R256). -/
def execReos (h : Hdr) (s : State) : Out :=
  issue h (fun _ => { helper := false }) (fun s =>
    match (if s.me.inUnit then s.mycore.ringOut else none) with
    | none => s.firm (.done (s.noRoll s.cur))
    | some _ =>
      if s.mycore.reos then s.raise .illegal
      else s.firm (.done ((s.noRoll s.cur).reosOf s.cur))) s

/-! ### Progress (R257) -/

/-- Progress reported to the eviction chooser (R127, R257). -/
def execProg (h : Hdr) (b : SrcDS) (s : State) : Out :=
  let isS := match b with | .s _ => true | .d _ => false
  issue h (fun _ => { helper := isS, unit := true }) (fun s =>
    let u := (s.mycore.unit.getD (0, 0)).1
    let pts := match b with
      | .d x => (s.rd x).lane 0
      | .s x => List.replicate 8 ((s.me.rs x).toNat % 2 ^ 32, 8192)
    s.firm (.done ((s.setQueue u { s.queue u with progress := some (s.time, pts) }).noRoll s.cur))) s

/-! ### Branches resolve (R71, R136, R238) -/

/-- The command that may leave a core's commit buffer: the oldest, once the branch that it was held under has resolved (R238). -/
def State.nextHeld (s : State) (c : Nat) : Option Held := (s.core c).commit.head?.filter (·.firm)

/-- The commands of a context in its core's commit buffer are firm: its branch has resolved as predicted. -/
def State.confirm (s : State) (c x : Nat) : State :=
  s.setCore c { s.core c with commit := (s.core c).commit.map (fun h => if h.ctx == x then { h with firm := true } else h) }

/-- The state once a command has left the commit buffer; none while its work cannot begin. A `launch` leaves to be issued again,
and waits for the hub then (R245, R249). -/
def State.leaveBuffer (s : State) (c : Nat) (h : Held) : Option State :=
  let out (t : State) : State := t.setCore c { t.core c with commit := (t.core c).commit.tail }
  match h.cmd with
  | .launch _ _ => some (out (s.setCtx c h.ctx { s.ctx c h.ctx with wait := .none }))
  | i => (s.beginCmd c h.ctx i h.sv).map out

/-- Whether a branch may resolve, or a command of the context leave the commit buffer. -/
def State.mayResolve (s : State) (c x : Nat) : Bool :=
  (s.ctx c x).unresolved.isSome || (match s.nextHeld c with
    | some h => h.ctx == x && (s.leaveBuffer c h).isSome
    | none => false)

/-- BRANCH_RESOLUTION: a predicted branch resolves, and the engine commands of the core leave the commit buffer in issue
order, one at a time (R136, R238). A context that waited on a mispredict goes on at its right target. -/
def execBranchResolution (core : Nat) (ctx : Nat) (s : State) : Out :=
  let k := s.ctx core ctx
  match k.unresolved with
  | some _ => .next ((s.confirm core ctx).setCtx core ctx { k with unresolved := none, wait := if k.wait == .branch then .none else k.wait })
  | none => match s.nextHeld core with
    | none => .next s
    | some h => if h.ctx == ctx then .next ((s.leaveBuffer core h).getD s) else .next s

end Sys2Proof.Machine
end

