-- ==== Sys2Proof/Machine/Launch.lean ====
section
/-!
DEFINITION. The hub at work on launch records: doorbells, reading and checking a record, eligibility and choice,
placement and start, preload, completion, cancellation and the governor (R216 to R232, R239 to R242, R276).
-/

namespace Sys2Proof.Machine

/-! ### What the hub reads and writes for a queue (R222) -/

/-- The hub as an agent for a queue: the queue's translation with the rights of L1 (R222). Core 1,536 is no core. -/
def State.hubAgent (s : State) (q : Nat) : Agent :=
  { stamp := s.nonce, core := 1536, part := (s.queue q).part, vdev := (s.part (s.queue q).part).vdev
    xlat := (s.queue q).xlat.toNat, level := 1 }

/-- A read by the hub with the rights of an access kind. -/
def State.hubRead (s : State) (q p n acc : Nat) : Except Trip (Nat × State) :=
  let g := s.hubAgent q
  match s.place g p n acc with
  | .error e => .error e
  | .ok r =>
    if r.1.any s.pieceBad then .error (.cause .uncorrectable 0 p 0)
    else .ok (s.readPieces r.1, (s.touchPtr g p n).chargePieces g.part r.1)

/-- An atomic addition by the hub to an n32 word (R220). -/
def State.hubAdd (s : State) (q p v : Nat) : State :=
  let g := s.hubAgent q
  match s.place g p 4 2 with
  | .error _ => s
  | .ok r => (((s.touchPtr g p 4).setDirty g.core g.part r.2).chargePieces g.part r.1).writePieces g r.1 ((s.readPieces r.1 + v) % 2 ^ 32)

/-! ### Records (R217) -/

/-- Whether a pointer of a record is 0 or a space-0 pointer so aligned. -/
def recPtr (p al : Nat) : Bool := p == 0 || (bits p 63 48 == 0 && p % al == 0)

/-- Whether a record binds a ring. -/
def recRings (v : Nat) : Bool := bit (fieldB v 30 1) 7 || bit (fieldB v 31 1) 7

/-- Input and output rings of a record, as 32 × cluster + ring. -/
def recRing (v o : Nat) : Option Nat :=
  if bit (fieldB v o 1) 7 then some (fieldB v 29 1 * 32 + fieldB v o 1 % 32) else none

/-- Slots of a record's mask. -/
def recSlots (v : Nat) : List Nat := (List.range 32).filter (fun k => bit (fieldB v 24 4) k)

/-- Clusters of a partition, ascending. -/
def State.clustersOf (s : State) (p : Nat) : List Nat := (s.clusters.filter (fun e => e.2.part == some p)).map (·.1)

/-- Whether a record's own fields keep the limits of R217 and R218 under a team limit. -/
def State.recordOk (s : State) (part v limit : Nat) : Bool :=
  let team := fieldB v 20 2
  let entry := fieldB v 0 8
  let comp := fieldB v 48 8
  entry != 0 && recPtr entry 64 && recPtr (fieldB v 8 8) 32 && fieldB v 16 4 % 32 == 0
    && (fieldB v 8 8 != 0 || fieldB v 16 4 == 0)
    && recPtr (fieldB v 32 8) 4 && recPtr (fieldB v 40 8) 64 && recPtr (fieldB v 56 8) 64
    && (comp == 0 || (([0, 3].contains (bits comp 63 60)) && bits comp 59 48 == 0 && comp % 8 == 0))
    && bits (fieldB v 28 1) 7 2 == 0 && bits (fieldB v 30 1) 6 5 == 0 && bits (fieldB v 31 1) 6 5 == 0
    && decide (1 ≤ team) && decide (team ≤ limit) && decide (team ≤ 8 * (s.clustersOf part).length)
    && (!recRings v || (decide (team ≤ 8) && (s.clustersOf part).contains (fieldB v 29 1)))
    && decide ((recSlots v).length * min team 8 ≤ 60)

/-- The pages of an arrival set, with the state that its reads leave; none where it breaks R217 or cannot be read. -/
def State.arrivalSet (s : State) (q p : Nat) : Option (List Nat × State) :=
  if p = 0 then some ([], s)
  else match s.hubRead q p 8 0 with
    | .error _ => none
    | .ok (n, s) =>
      if n = 0 || decide (64 < n) then none
      else match s.hubRead q (p + 8) (8 * n) 0 with
        | .error _ => none
        | .ok (v, s) =>
          let ps := (List.range n).map (fun i => fieldB v (8 * i) 8)
          if ps.all (fun a => bits a 63 48 == 0 && a % 65536 == 0) then some (ps, s) else none

/-- A launch that ends before it starts, with its status (R218, R230). -/
def closedLaunch (q : Nat) (r : PRec) (status : Nat) : Launch :=
  { queue := q, seq := r.seq, bytes := r.bytes, chain := 0, cores := [], team := 0, ended := [], begun := false
    preload := 0, xlat := 0, args := 0, parked := [], phase := 0, t0 := 0, start := 0, noRoll := true, replayed := false
    rbPending := false, lastArr := 0, status := status }

/-- A record taken from its queue and completed with a status; it is chosen for no start any more. -/
def State.closeRecord (s : State) (q : Nat) (r : PRec) (status : Nat) : State :=
  let k := s.queue q
  let s := s.setQueue q { k with pending := k.pending.filter (·.seq != r.seq) }
  { s with starting := s.starting.filter (· != (q, r.seq)), launches := s.launches ++ [closedLaunch q r status] }

/-- A queue's record replaced. -/
def State.setRecord (s : State) (q : Nat) (r : PRec) : State :=
  let k := s.queue q
  s.setQueue q { k with pending := k.pending.map (fun e => if e.seq == r.seq then r else e) }

/-- The record at the head of an enabled queue. -/
def State.headOf (s : State) (q : Nat) : Option PRec := if (s.queue q).enabled then (s.queue q).pending.head? else none

/-- Whether the hub may read a queue's head (R218, R302, R309). -/
def State.mayRead (s : State) (q : Nat) : Bool :=
  let p := (s.queue q).part
  !(s.clustersOf p).isEmpty && !(s.part p).halted && (match s.headOf q with | some r => !r.read | none => false)

/-- RECORD_READ: the record at the head is read whole and checked, or refused (R216, R218). -/
def execRecordRead (queue : Nat) (s : State) : Out :=
  match s.headOf queue with
  | none => .next s
  | some r =>
    if !s.mayRead queue then .next s
    else
      let v := r.bytes
      let part := (s.queue queue).part
      let refuse := s.closeRecord queue r 6
      let entry := fieldB v 0 8
      if bits entry 63 48 != 0 || decide (entry < 32) then .next refuse
      else match s.hubRead queue (entry - 32) 32 4 with
        | .error _ => .next refuse
        | .ok (d, t) =>
          if fieldB d 0 4 != 0xA5C30001 || !recPtr (fieldB d 16 8) 64 || fieldB d 24 8 != 0
              || !s.recordOk part v (fieldB d 4 2) then .next refuse
          else match t.arrivalSet queue (fieldB v 56 8) with
            | none => .next refuse
            | some (ps, t) =>
              let w := fieldB v 32 8
              match (if w = 0 then .ok (0, t) else t.hubRead queue w 4 0) with
              | .error _ => .next refuse
              | .ok (n, t) =>
                .next (t.setRecord queue { r with read := true, dep := some (n == 0), arrival := ps, chain := fieldB d 16 8 })

/-- Whether a queue's head waits on its dependence word. -/
def State.mayReread (s : State) (q : Nat) : Bool :=
  match s.headOf q with
  | some r => r.read && r.dep == some false
  | none => false

/-- DEPENDENCE_REREAD: a waiting dependence word is read again (R223). -/
def execDependenceReread (queue : Nat) (s : State) : Out :=
  match s.headOf queue with
  | none => .next s
  | some r =>
    if !s.mayReread queue then .next s
    else match s.hubRead queue (fieldB r.bytes 32 8) 4 0 with
      | .error _ => .next (s.closeRecord queue r 6)
      | .ok (n, t) => .next (t.setRecord queue { r with dep := some (n == 0) })

/-! ### Doorbells (R276) -/

/-- Whether a function's window is a queue's. -/
def State.ownsQueue (s : State) (vdev q : Nat) : Bool := decide (q < 8192) && (s.part (s.queue q).part).vdev == vdev

/-- DOORBELL: the lines in Staging become a record, or the write is ignored or dropped (R276); after a boot that failed nothing
but BAR2 answers (R280). -/
def execDoorbell (vdev queue : Nat) (value : BitVec 32) (s : State) : Out :=
  let q := s.queue queue
  let n := bits value.toNat 2 0 + 1
  if s.hub.failure != 0 || !s.ownsQueue vdev queue || bits value.toNat 31 3 != 0 then .next s
  else if 256 ≤ q.pending.length then .next (s.setQueue queue { q with overflow := true })
  else .next (s.setQueue queue (q.accept n (q.staging.read 0 (64 * n))))

/-- QUEUE_STATUS_CLEAR: a 1 written to bit 31 clears Overflow (R276). -/
def execQueueStatusClear (vdev queue : Nat) (value : BitVec 32) (s : State) : Out :=
  event s (s.hub.failure == 0 && s.ownsQueue vdev queue && value.getLsbD 31) (s.setQueue queue { s.queue queue with overflow := false })

/-! ### Placement (R225) -/

/-- Whether a core runs nothing and may take a unit (R225): of the partition, and, after a fatal trap, with no bank frozen
(R307). A core whose unit is switched out is free (R318). -/
def State.idleCore (s : State) (p c : Nat) : Bool :=
  let k := s.core c
  (s.cluster (clusterOf c)).part == some p && k.unit.isNone && k.preempt.isNone
    && k.ctxs.all (fun e => !e.2.live) && s.net.all (fun a => a.core != c || !(a.path == .ls || a.path == .mx))
    && s.xnet.all (fun m => m.src != c) && !k.draining
    && (!k.dead || (k.slots.isEmpty && s.liveBanks.all (fun b => !((s.hitch b).st == .frozen && (s.hitch b).holder == c))))
    && !s.hub.absent.contains (dieOf c)

/-- A core free for placement: idle, and promised to no launch (R241). -/
def State.freeCore (s : State) (p c : Nat) : Bool := s.idleCore p c && (s.core c).heir.isNone

/-- Free banks of a cluster, lowest index first (R162). -/
def State.freeBanks (s : State) (r : Nat) : List Nat :=
  ((List.range 60).map (r * 64 + ·)).filter (fun b => (s.hitch b).st == .free)

/-- An element put in its place in a sorted list, before its equals. -/
def insertBy {α : Type} (le : α → α → Bool) (x : α) : List α → List α
  | [] => [x]
  | y :: r => if le x y then x :: y :: r else y :: insertBy le x r

/-- A list in order; elements that tie keep theirs. -/
def sortBy {α : Type} (le : α → α → Bool) : List α → List α
  | [] => []
  | x :: r => insertBy le x (sortBy le r)

/-- The free cores of clusters, ascending in core number. -/
def State.freeIn (s : State) (p : Nat) (ranks : List Nat) : List Nat :=
  sortBy (fun a b => decide (a ≤ b)) ((ranks.flatMap coresOf).filter (s.freeCore p))

/-- Whether every cluster has a Free bank for each slot of each unit placed in it. -/
def State.banksFor (s : State) (cores : List Nat) (slots : Nat) : Bool :=
  slots == 0 || cores.all (fun c =>
    decide ((cores.filter (fun d => clusterOf d == clusterOf c)).length * slots ≤ (s.freeBanks (clusterOf c)).length))

/-- The cores of a team, in the first shape of R225 that applies; none where it is not placeable. -/
def State.placement (s : State) (p v : Nat) : Option (List Nat) :=
  let n := fieldB v 20 2
  let ranks := s.clustersOf p
  let inDie (d : Nat) : List Nat := s.freeIn p (ranks.filter (fun r => r / 48 == d))
  let cores : Option (List Nat) :=
    if recRings v then
      let f := s.freeIn p [fieldB v 29 1]
      if decide (n ≤ f.length) then some (f.take n) else none
    else if n ≤ 8 then
      ((ranks.map (fun r => s.freeIn p [r])).find? (fun f => decide (n ≤ f.length))).map (·.take n)
    else if n ≤ 384 then
      (((List.range 4).map inDie).find? (fun f => decide (n ≤ f.length))).map (·.take n)
    else
      let whole := ((List.range 4).filter (fun d => (inDie d).length == 384)).take (n / 384)
      let rest := n % 384
      if whole.length < n / 384 then none
      else if rest = 0 then some (whole.flatMap inDie)
      else
        (((List.range 4).filter (fun d => !whole.contains d)).find? (fun d => decide (rest ≤ (inDie d).length))).map
          (fun d => sortBy (fun a b => decide (a ≤ b)) (whole.flatMap inDie ++ (inDie d).take rest))
  match cores with
  | none => none
  | some cs => if s.banksFor cs (recSlots v).length then some cs else none

/-! ### Choice (R223, R224, R242) -/

/-- Whether a page has arrived: the residence record holds no entry for it (R328). -/
def State.arrived (s : State) (p page : Nat) : Bool := (s.part p).residence.all (·.1 != page)

/-- Whether a page's swap-in has failed. -/
def State.pageFailed (s : State) (p page : Nat) : Bool := (s.part p).residence.contains (page, true)

/-- Launches of a queue started and not yet complete. -/
def State.startedOf (s : State) (q : Nat) : List Launch := s.launches.filter (fun l => l.queue == q && !l.cores.isEmpty)

/-- Whether a queue's head is eligible (R223). -/
def State.isEligible (s : State) (q : Nat) (r : PRec) : Bool :=
  r.read && r.dep == some true && r.arrival.all (s.arrived (s.queue q).part)

/-- Whether a queue may start one more launch: at most 64 are started and not complete (R221). -/
def State.queueRoom (s : State) (q : Nat) : Bool := decide ((s.startedOf q).length < 64)

/-- The queues of a partition with a read record at their heads. -/
def State.heads (s : State) (p : Nat) : List (Nat × PRec) :=
  s.queues.filterMap (fun e => if e.2.part == p then (match s.headOf e.1 with
    | some r => if r.read then some (e.1, r) else none
    | none => none) else none)

/-- A record whose arrival set holds a failed page completes with 0x05 (R242). -/
def State.settle (s : State) (p : Nat) : State :=
  s.each (s.heads p) (fun s e => if e.2.arrival.any (s.pageFailed p) then s.closeRecord e.1 e.2 5 else s)

/-- The tick at which each head becomes eligible, and none while it is not (R223); kept up in every step. -/
def State.stampHeads (s : State) : State :=
  s.each s.queues (fun s e => match e.2.pending with
    | r :: _ =>
      let now := e.2.enabled && s.isEligible e.1 r
      if now && r.eligible.isNone then s.setRecord e.1 { r with eligible := some s.time }
      else if !now && r.eligible.isSome then s.setRecord e.1 { r with eligible := none }
      else s
    | [] => s)

/-- The eligible records of a partition whose queues may start them, in the order of their queues. -/
def State.eligibles (s : State) (p : Nat) : List (Nat × PRec) :=
  (s.heads p).filter (fun e => s.isEligible e.1 e.2 && e.2.eligible.isSome && s.queueRoom e.1)

/-- Ticks since a record became eligible. -/
def State.waited (s : State) (r : PRec) : Nat := s.time - r.eligible.getD s.time

/-- The best element of a list under an order, the first of equals. -/
def bestOf {α : Type} (better : α → α → Bool) : List α → Option α
  | [] => none
  | x :: r => some (r.foldl (fun m y => if better y m then y else m) x)

/-- The record that R223 starts next in a partition. -/
def State.chosenRecord (s : State) (p : Nat) : Option Nat :=
  let es := s.eligibles p
  let lvl (e : Nat × PRec) : Nat := (s.queue e.1).prio
  let promoted := es.filter (fun e => decide (s.hub.wwin.toList.getD (lvl e) 0 ≤ s.waited e.2))
  match bestOf (fun a b => decide (s.waited b.2 < s.waited a.2)) promoted with
  | some e => if (s.placement p e.2.bytes).isSome then some e.1 else none
  | none =>
    let ok := es.filter (fun e => (s.placement p e.2.bytes).isSome)
    let top := ok.foldl (fun m e => max m (lvl e)) 0
    (bestOf (fun a b => decide (s.waited b.2 * (s.queue b.1).weight < s.waited a.2 * (s.queue a.1).weight))
      (ok.filter (fun e => lvl e == top))).map (·.1)

/-- Whether the hub has something to decide for a partition. -/
def State.mayArbitrate (s : State) (p : Nat) : Bool :=
  s.starting.isNone && !(s.part p).halted
    && ((s.heads p).any (fun e => e.2.arrival.any (s.pageFailed p)) || (s.chosenRecord p).isSome)

/-- LAUNCH_ARBITRATION: the hub chooses the record of a partition that starts next (R223). -/
def execLaunchArbitration (part : Nat) (s : State) : Out :=
  if !s.mayArbitrate part then .next s
  else
    let t := s.settle part
    .next { t with starting := (t.chosenRecord part).bind (fun q => (t.headOf q).map (fun r => (q, r.seq))) }

/-! ### Start (R14, R222, R226, R227, R234, R312) -/

/-- The slots of a core that a unit takes: a bank that came back to it since its last unit is Free (R167, R226, R228; assumption
83), and the banks of a unit switched out of it stay hitched, out of its slots (assumption 42). -/
def State.clearSlots (s : State) (c : Nat) : State :=
  let kept := (s.setAside c).map (·.2)
  let s := s.each (s.core c).slots (fun s e =>
    if (s.hitch e.2).st == .hitched && (s.hitch e.2).holder == c && !kept.contains e.2 then s.freeBank e.2 else s)
  s.setCore c { s.core c with slots := [], frozen := [] }

/-- A core given to a unit: nothing of its last unit stays (R14, R91, R95, R114). -/
def State.takeCore (s : State) (u : Nat × Nat) (c rank team : Nat) : State :=
  let k := s.core c
  (s.clearSlots c).setCore c { Core.reset with
    cc := k.cc, unit := some u, rank := rank, team := team, outb := k.outb, record := k.record
    l1 := k.l1, out := k.out, grantTable := k.grantTable }

/-- A fresh bank of the unit's own cluster in each slot of the mask (R226). -/
def State.attachFresh (s : State) (c : Nat) (slots : List Nat) : State :=
  s.each slots (fun s k => match (s.freeBanks (clusterOf c)).head? with
    | some b => s.hitchTo b c k
    | none => s)

/-- Context 0 of a unit ready for its first instruction (R14, R222), and the unit counted as a producer (R240). -/
def State.startUnit (s : State) (l : Launch) (c rank team : Nat) : State :=
  let x : Ctx := { s.freshCtx c with pc := fieldB l.bytes 0 8, xlat := l.xlat, inUnit := true }
  let x := ((x.ws 1 (BitVec.ofNat 64 l.args)).ws 2 (BitVec.ofNat 64 rank)).ws 3 (BitVec.ofNat 64 team)
  let s := s.fresh.2
  let out := recRing l.bytes 31
  let s := s.setCore c { s.core c with ctxs := [(0, x)], ringIn := recRing l.bytes 30, ringOut := out }
  match out with
  | none => s
  | some r => if (s.ring r).enable then s.setRing r { s.ring r with prods := (s.ring r).prods + 1 } else s

/-- Every unit's first instruction, and the checkpoint at it (R227, R312). -/
def State.beginLaunch (s : State) (l : Launch) : State :=
  let s := s.each ((List.range l.cores.length).zip l.cores) (fun s e => s.startUnit l e.2 e.1 l.team)
  let l := { l with begun := true, preload := l.cores.length }
  (s.setLaunch l).checkpoint l

/-- LAUNCH_START: the record that the hub has chosen is placed, its banks attached and its arguments copied (R221 to R223, R225 to
R227). -/
def execLaunchStart (queue : Nat) (s : State) : Out :=
  if s.starting.map (·.1) != some queue then .next s
  else
    let seq := s.starting.map (·.2)
    let s : State := { s with starting := none }
    match (s.headOf queue).filter (fun r => some r.seq == seq) with
    | none => .next s
    | some r =>
      let k := s.queue queue
      match s.placement k.part r.bytes with
      | none => .next s
      | some cores =>
        if !s.isEligible queue r || !s.queueRoom queue then .next s
        else
          let base := bits k.args.toNat 47 15 * 32768 + r.seq % 64 * 512
          let copy := if !k.args.getLsbD 63 then none
            else if r.n = 1 then some s
            else (s.bulkWrite (s.hubAgent queue) base (64 * (r.n - 1)) (r.bytes / 256 ^ 64)).toOption
          match copy with
          | none => .next (s.closeRecord queue r 6)
          | some s =>
            let s := s.setQueue queue { s.queue queue with pending := k.pending.filter (·.seq != r.seq) }
            let l : Launch := { closedLaunch queue r 0 with
              chain := r.chain, cores := cores, team := cores.length, xlat := k.xlat, args := base, start := s.time, noRoll := false }
            let s : State := { s with launches := s.launches ++ [l] }
            let s := s.each ((List.range cores.length).zip cores) (fun s e =>
              (s.takeCore (queue, r.seq) e.2 e.1 l.team).attachFresh e.2 (recSlots r.bytes))
            .next (if r.chain = 0 then s.beginLaunch l else s)

/-! ### Preload (R226) -/

/-- The channel of a preload: the partition's lowest hub copy channel, else the cluster's channel 0. -/
def State.preloadChan (s : State) (p c : Nat) : Nat :=
  match (List.range 32).find? (fun i => bit (s.part p).chmask i) with
  | some i => 0x1000 + i
  | none => 4 * clusterOf c

/-- The launch's chain handed to its channel for the unit on a core; its strands run there as R272 chooses. -/
def State.startPreload (s : State) (l : Launch) (c : Nat) : State :=
  let p := (s.queue l.queue).part
  let h : Chain := { id := s.nonce, chan := s.preloadChan p c, core := c, ctx := 0, born := 0, part := p, q := 0, ident := 0
                     cur := l.chain, prev := 0, first := true, begun := false, lane := none, stamp := s.nonce, cancelled := false
                     xlat := 0, level := 1, unit := some (l.queue, l.seq), mode := 1, queue := l.queue, rank := l.preload
                     again := false }
  { s.fresh.2 with chains := s.chains ++ [h] }

/-- The unit whose chain has run is ready: with the last one the team begins, and one that the governor adds starts (R226,
R227, R241). -/
def State.preloaded (s : State) (l : Launch) : State :=
  let l := (s.launch? (l.queue, l.seq)).getD l
  let l' := { l with preload := l.preload + 1 }
  let s := s.setLaunch l'
  if l.begun then (match l.cores[l.preload]? with
    | some c => (s.startUnit l' c l.preload l.team).takeFrame c
    | none => s)
  else if l'.preload = l.cores.length then s.beginLaunch l'
  else s

/-- A strand of a preload has ended: the next one, which its Next names then, stands in its chain, the chain has run, or the launch
fails (R195, R226). -/
def State.preloadNext (s : State) (l : Launch) (h : Chain) (e : Ending) : State :=
  let r := match s.bulkRead (s.chainAgent h) h.cur 8 with | .ok r => r | .error _ => (0, s)
  if e.st != 1 then s.endLaunch (l.queue, l.seq) 4
  else if r.1 = 0 then (r.2.dropChain h).preloaded l
  else
    let s := r.2
    let k : Chain := { h with cur := r.1, first := false, begun := true, stamp := s.nonce, await := [] }
    let s := s.setChain k
    { s with running := s.running.filter (fun q => q.2 != h.id) }

/-- One strand of a preload's chain: nothing of the strand is written (R226). -/
def State.preloadStrand (s : State) (l : Launch) (h : Chain) : State :=
  let g := s.chainAgent h
  let fail : State := s.endLaunch (l.queue, l.seq) 4
  match s.readStrand g h.cur with
  | .error _ => fail
  | .ok (v, s) =>
    if !strandOwn v then (s.dropChain h).preloaded l
    else
      let s := s.chargeStrand h (cdiv (strandLen v) 64)
      match s.strandCheck g false v with
      | .error _ => s.endLaunch (l.queue, l.seq) 4
      | .ok (par, s) =>
        let r := s.copyStrand g v par
        let t := r.2.2
        let sent := (t.net.filter (fun a => decide (s.nonce ≤ a.id))).map (·.id)
        if r.1.st = 1 && bit (strandWord v) 21 && !sent.isEmpty then t.setChain { h with await := sent, strand := (v, par, r.2.1) }
        else t.preloadNext l h r.1

/-- The preload of a launch's next unit that is under way. -/
def State.preloadOf (s : State) (l : Launch) : Option Chain :=
  s.chains.find? (fun h => h.mode == 1 && h.unit == some (l.queue, l.seq))

/-- What PRELOAD_RUN does for a launch: the next unit's chain goes to its channel, or the channel that has chosen it runs a
strand, or ends one whose copies have been acknowledged (R158); none while it waits. -/
def State.preloadStep (s : State) (l : Launch) : Option State :=
  if l.status != 0 then none
  else match s.preloadOf l with
    | none => (l.cores[l.preload]?).map (fun c => s.startPreload l c)
    | some h =>
      if (s.runningChain h.chan).map (·.id) != some h.id then none
      else if h.await.isEmpty then
        let g := s.chainAgent h
        let rs := s.strandRuns h
        (if !s.mayBegin h then some (s.unchoose h.chan)
         else if !s.strandGoes h then none
         else if (s.unwalked g rs).isEmpty then some ((s.endWalks g).preloadStrand l h)
         else some (s.walkPages g (s.toWalk g rs)))
      else
        let left := s.net.filter (fun a => h.await.contains a.id)
        if left.any (·.refused.isNone) then none
        else some (State.preloadNext { s with net := s.net.filter (fun a => !h.await.contains a.id) } l h
          { st := if left.isEmpty then 1 else 6, cause := 0, count := 0 })

/-- PRELOAD_RUN: the chain runs for the launch's next unit; a failed strand fails the launch, and the last unit's
chain lets the team begin (R226, R227). -/
def execPreloadRun (queue seq : Nat) (s : State) : Out :=
  match s.launch? (queue, seq) with
  | none => .next s
  | some l => .next ((s.preloadStep l).getD s)

/-! ### Completion (R220) -/

/-- Whether every piece of work that a launch's units started has ended, and their cores' stores have drained. -/
def State.workEnded (s : State) (l : Launch) : Bool :=
  let u := some (l.queue, l.seq)
  s.teamDrained l && s.chains.all (fun h => h.unit != u) && s.gathers.all (fun w => w.unit != u)
    && s.colls.all (fun w => w.unit != u) && l.cores.all (fun c => !(s.core c).draining)

/-- Whether a launch is complete (R220, R230, R232). -/
def State.mayFinish (s : State) (l : Launch) : Bool :=
  if l.status = 0 then l.begun && l.ended.length == l.team else l.cores.isEmpty || s.workEnded l

/-- The completion word, or the entry of the error log where it cannot be written (R220); whether the host refuses one is open
(assumption 97). The field of a refused record that breaks its limits names no word (R217; assumption 82). -/
def State.writeCompletion (s : State) (l : Launch) (status : Nat) : State :=
  let p := fieldB l.bytes 48 8
  let v := status * 2 ^ 56 + l.seq
  if p = 0 || p % 8 != 0 || !([0, 0x3000].contains (bits p 63 48)) then s
  else if bits p 63 60 = 3 then
    let t : State := { s with hub := { s.hub with egress := s.hub.egress ++ [.write (bits p 47 0) 8 v false] } }
    if Config.hostRefuses s.nonce then t.logErr Cause.perm.code [l.queue, l.seq] else t
  else match s.bulkWrite (s.hubAgent l.queue) p 8 v with
    | .ok t => t
    | .error t => s.logErr t.code [l.queue, l.seq]

/-- The dependence words of a launch's successors lowered by one (R217, R220). -/
def State.decrement (s : State) (l : Launch) : State :=
  let p := fieldB l.bytes 40 8
  if p = 0 then s
  else match s.hubRead l.queue p 8 0 with
    | .error _ => s
    | .ok (n, s) =>
      if 16 < n then s
      else match s.hubRead l.queue (p + 8) (8 * n) 0 with
        | .error _ => s
        | .ok (v, s) =>
          s.each (List.range n) (fun s i =>
            let w := fieldB v (8 * i) 8
            if bits w 63 48 = 0 && w % 4 = 0 then s.hubAdd l.queue w (2 ^ 32 - 1) else s)

/-- The graph, session and job counters of a completed launch (R215). -/
def State.countDone (s : State) (l : Launch) : State :=
  let q := s.queue l.queue
  let g := recGraph l.bytes
  let graphs := if g = 0 then q.graphs
    else match Tab.get? q.graphs g with
      | some (ns, last) => Tab.put q.graphs g (ns.filter (· != l.seq), if recLast l.bytes then some l.seq else last)
      | none => q.graphs
  let durs := if l.begun then (q.durations ++ [s.time - l.start]).drop (q.durations.length - 7) else q.durations
  let s := s.setQueue l.queue { q with graphs := graphs, sessionCount := q.sessionCount + 1, durations := durs }
  let j := q.part * 2 ^ 32 + q.job
  { s with jobs := Tab.put s.jobs j (Tab.getD s.jobs j 0 + 1) }

/-- The banks of a launch that has ended before its units did are treated as at their unit boundaries (R230, R232). -/
def State.freeUnits (s : State) (l : Launch) : State :=
  let s := s.each l.parked (fun s p => s.freeParked (l.queue, l.seq) p)
  s.each l.cores (fun s c => if (s.core c).unit == some (l.queue, l.seq) then s.boundary c else s)

/-- LAUNCH_COMPLETE: the completion word, the successors, the counters and the host interrupt, in this order (R220). -/
def execLaunchComplete (queue seq : Nat) (s : State) : Out :=
  match s.launch? (queue, seq) with
  | none => .next s
  | some l =>
    if !s.mayFinish l then .next s
    else
      let st := if l.status = 0 then 1 else l.status
      let s := if l.status = 0 then s else State.freeUnits (s.setLaunch { l with parked := [] }) l
      let s := s.writeCompletion l st
      let s := if st = 1 then s.decrement l else s
      let s := s.countDone l
      let s : State := { s with launches := s.launches.filter (fun k => !(k.queue == queue && k.seq == seq)) }
      .next (if bit (fieldB l.bytes 28 1) 0 then
          { s with hub := { s.hub with egress := s.hub.egress ++ [.interrupt queue] } }
        else s)

/-! ### Cancellation (R230, R231) -/

/-- Whether a cancellation names a record or launch of a queue; graph 0 is no graph (R217). -/
def State.cancelHits (s : State) (c : Cancel) (q seq bytes : Nat) : Bool :=
  match c.level with
  | 1 => q == c.queue && seq == c.name
  | 2 => q == c.queue && c.name != 0 && recGraph bytes == c.name
  | 3 => q == c.queue
  | _ => (s.queue q).part == c.part && (s.queue q).job == c.name

/-- A cancellation carried out: queued records leave with status 0x02, running launches stop; a launch whose every
unit has ended completes as it is. -/
def State.cancelAll (s : State) (c : Cancel) : State :=
  let s := s.each s.queues (fun s e =>
    s.each e.2.pending (fun s r => if s.cancelHits c e.1 r.seq r.bytes then s.closeRecord e.1 r 2 else s))
  s.each s.launches (fun s l =>
    if s.cancelHits c l.queue l.seq l.bytes && !(l.begun && l.ended.length == l.team) then s.endLaunch (l.queue, l.seq) 2
    else s)

/-- CANCELLATION: a cancellation reaches the hub (R230, R231). -/
def execCancellation (idx : Nat) (s : State) : Out :=
  match s.cancels[idx]? with
  | none => .next s
  | some c => .next (State.cancelAll { s with cancels := s.cancels.eraseIdx idx } c)

/-! ### The governor (R241) -/

/-- The running launch of a ring's consumer queue that binds it as input, with a unit that has not ended. -/
def State.consumer (s : State) (r : Nat) : Option Launch :=
  s.launches.find? (fun l => l.queue == (s.ring r).queue && l.begun && l.status == 0 && decide (l.ended.length < l.team)
    && recRing l.bytes 30 == some r)

/-- The units of a role that have not ended, running or switched out: rank and core. -/
def State.liveUnits (s : State) (l : Launch) : List (Nat × Nat) :=
  ((List.range l.cores.length).zip l.cores).filter (fun e => l.parked.any (·.rank == e.1)
    || ((s.core e.2).unit == some (l.queue, l.seq) && (s.core e.2).rank == e.1))

/-- Those of them that the governor has not released. -/
def State.roleUnits (s : State) (l : Launch) : List (Nat × Nat) :=
  (s.liveUnits l).filter (fun e => match l.parked.find? (·.rank == e.1) with
    | some p => !p.released
    | none => !(s.core e.2).released)

/-- A unit more of a role on a free core, with its banks, and, once its preload has run, its checkpoint (R226, R241). -/
def State.addUnit (s : State) (u : Nat × Nat) (c : Nat) : State :=
  match s.launch? u with
  | none => s
  | some l =>
    if !s.banksFor [c] (recSlots l.bytes).length || l.status != 0 then s
    else
      let rank := l.team
      let l' := { l with cores := l.cores ++ [c], team := rank + 1 }
      let t := ((s.takeCore u c rank (rank + 1)).attachFresh c (recSlots l.bytes)).setLaunch l'
      if l.chain = 0 then t.preloaded l' else t

/-- Enabled rings of a cluster, ascending, as 32 × cluster + ring. -/
def State.ringsOf (s : State) (rank : Nat) : List Nat :=
  ((s.cluster rank).rings.filter (fun e => e.2.enable)).map (fun e => rank * 32 + e.1)

/-- The lowest ring of a cluster whose role has a unit to spare: that role, and its highest-ranked unit. -/
def State.spare (s : State) (rank starved : Nat) : Option (Launch × (Nat × Nat)) :=
  ((s.ringsOf rank).filter (· != starved)).findSome? (fun r =>
    let g := s.ring r
    match s.consumer r with
    | none => none
    | some l =>
      let us := s.roleUnits l
      if decide (g.items.length ≤ g.low) && decide (g.minU < us.length) then (us.getLast?).map (fun e => (l, e)) else none)

/-- A unit released for an heir: its core goes to it at the unit boundary, wherever the unit has been resumed by then (R241). -/
def State.release (s : State) (l : Launch) (e : Nat × Nat) (heir : Nat × Nat) : State :=
  if l.parked.any (·.rank == e.1) then
    s.setLaunch { l with parked := l.parked.map (fun p => if p.rank == e.1 then { p with released := true, heir := some heir } else p) }
  else s.setCore e.2 { s.core e.2 with released := true, heir := some heir }

/-- Units promised to a launch on cores of a cluster. -/
def State.promised (s : State) (rank : Nat) (u : Nat × Nat) : Nat :=
  ((coresOf rank).filter (fun c => (s.core c).heir == some u)).length
    + (s.launches.flatMap (fun l => l.parked.filter (fun p => p.heir == some u && clusterOf p.core == rank))).length

/-- One move for a starved ring (R241). -/
def State.feed (s : State) (rank r : Nat) : State :=
  let g := s.ring r
  match s.consumer r, (s.cluster rank).part with
  | some l, some p =>
    let u := (l.queue, l.seq)
    if decide (g.high ≤ g.items.length) && decide ((s.liveUnits l).length + s.promised rank u < g.maxU) then
      match (s.freeIn p [rank]).head? with
      | some c => s.addUnit u c
      | none => match s.spare rank r with
        | none => s
        | some e => s.release e.1 e.2 u
    else s
  | _, _ => s

/-- The cores of a die that a released unit has left to their heirs. -/
def State.heirsReady (s : State) (die : Nat) : List (Nat × (Nat × Nat)) :=
  s.cores.filterMap (fun e => match e.2.heir with
    | some u => if dieOf e.1 == die && s.idleCore (s.queue u.1).part e.1 then some (e.1, u) else none
    | none => none)

/-- Whether a die's governor acts now: a core has come to its heir, or 1,024 ticks have passed. -/
def State.mayGovern (s : State) (die : Nat) : Bool :=
  !(s.heirsReady die).isEmpty
    || (decide (s.hub.govAt.toList.getD die 0 < s.time / 1024)
        && s.clusters.any (fun e => e.1 / 48 == die && !(s.ringsOf e.1).isEmpty))

/-- GOVERNOR_EVALUATION: units of released roles give way to their heirs, and once per 1,024 ticks each cluster's
rings are evaluated in order (R241). -/
def execGovernorEvaluation (die : Nat) (s : State) : Out :=
  if !(decide (die < 4)) || !s.mayGovern die then .next s
  else
    let s := s.each (s.heirsReady die) (fun s e =>
      (s.setCore e.1 { s.core e.1 with heir := none }).addUnit e.2 e.1)
    if s.hub.govAt.toList.getD die 0 < s.time / 1024 then
      let s : State := { s with hub := { s.hub with govAt := s.hub.govAt.setIfInBounds die (s.time / 1024) } }
      .next (s.each ((s.clusters.filter (fun e => e.1 / 48 == die)).map (·.1)) (fun s k =>
        s.each (s.ringsOf k) (fun s r => s.feed k r)))
    else .next s

end Sys2Proof.Machine
end

