-- ==== Sys2Proof/Machine/Network.lean ====
section
/-!
DEFINITION. What happens between instructions on the way to memory and back: malformed words, stalls, arrivals,
acknowledgements, refusals, values, walks and the entry of asynchronous traps; and the host and Silkenor links (R30, R58,
R138, R150 to R153, R161, R181, R268, R279, R303, R339).
-/

namespace Sys2Proof.Machine

/-- ILLEGAL_WORD: a word that the map does not assign or that breaks a field rule (R30), whatever its guard. -/
def execIllegalWord (s : State) : Out :=
  s.trapOut { cause := Cause.illegal.code, detail := 0, resume := s.me.pc, fpc := s.me.pc, va := 0, ipa := 0
              jrn := none, async := false }

/-- STALL_EXPIRY: a stall count that has run out is forgotten (R20). -/
def execStallExpiry (core ctx : Nat) (s : State) : Out :=
  let k := s.ctx core ctx
  event s (k.stall != 0 && decide (k.stall ≤ (s.core core).cc)) (s.setCtx core ctx { k with stall := 0 })

/-! ### Accesses -/

/-- An access in the network. -/
def State.access? (s : State) (id : Nat) : Option Access := s.net.find? (·.id == id)

/-- ACCESS_ARRIVAL: an access is performed or refused at its destination (R129, R137, R144, R145, R161). -/
def execAccessArrival (id : Nat) (s : State) : Out :=
  match s.access? id with
  | none => .next s
  | some a => .next (s.arrive a)

/-- Whether an access is a posted one, or a row's part that went to another die, whose acknowledgement returns (R138, R144, R145,
R150). -/
def Access.acked (a : Access) : Bool :=
  a.performed && (a.jrn.isSome || a.path == .mx) && a.kind != .load && (match a.dest with
    | .peer .. => false
    | .host _ => a.kind == .store
    | _ => true)

/-- An older store in a buffer that a younger one overlaps, which has been acknowledged, gives its bytes to no load any more (R145). -/
def State.outdate (s : State) (a : Access) : State :=
  { s with net := s.net.map (fun b =>
      if b.kind != .load && b.buffer == a.buffer && (match a.bridged, b.bridged with
          | some m, some n => decide (n < m)
          | _, _ => false) && runsMeet (b.dest.runs b.size) (a.dest.runs a.size) then { b with stale := true }
      else b) }

/-- A part of a posted access leaves the network; with the last its journal entry is free, unless a refusal of the access is
to free it with its trap (R138). -/
def State.acknowledge (s : State) (a : Access) : State :=
  let t := (s.dropAccess a.id).outdate a
  if a.told || t.net.any (·.group == a.group) then t else t.freeJournal a.core a.jrn

/-- STORE_ACKNOWLEDGED: a posted store's acknowledgement returns (R138, R144). -/
def execStoreAcknowledged (id : Nat) (s : State) : Out :=
  match s.access? id with
  | none => .next s
  | some a => event s a.acked (s.acknowledge a)

/-- Whether the launch of a core waits for a rollback (R315). -/
def State.rollingBack (s : State) (c : Nat) : Bool := ((s.launchOf c).map (·.rbPending)).getD false

/-- REMOTE_REFUSED: a refused posted store raises its trap on the context that issued it; its journal entry stays until
the trap is taken (R138, R149). A context that is gone, or whose team rolls back, takes none; one access raises one, whichever of
its parts are refused (assumption 24). -/
def execRemoteRefused (id : Nat) (s : State) : Out :=
  match s.access? id with
  | none => .next s
  | some a =>
    match a.refused, a.jrn with
    | some cause, some e =>
      if !s.aliveFor a || s.rollingBack a.core || a.told then .next (s.acknowledge a)
      else
        let t : State := { s with net := (s.net.filter (·.id != id)).map (fun b => if b.group == a.group then { b with told := true } else b) }
        .next (t.pendTrap a.core a.ctx
          { cause := Cause.remoteRefused.code, detail := cause, resume := 0, fpc := a.pc, va := a.va, ipa := 0
            jrn := some e, async := true })
    | _, _ => .next s

/-- Detail word of a cause met by a waiting access (R304). -/
def Access.detail (a : Access) (cause : Nat) : Nat :=
  if cause = Cause.bankDetached.code || cause = Cause.bankFrozen.code then
    (match a.dest with | .slot _ sl _ => sl | _ => 0)
  else if cause = Cause.perm.code then pageDetail 0 false (match a.kind with | .load => 0 | .store => 1 | .atomic .. => 2)
  else if cause = Cause.dieAbsent.code then (match a.dest with
    | .slot d _ _ => dieOf d
    | .dev _ hs => homeDie (hs.headD 0) % 4
    | _ => 0)
  else (match a.dest with | .host _ => a.value | _ => 0)

/-- The register of a load is to be written by nothing any more: who reads it takes UNCORRECTABLE (R304). -/
def State.poisonLoad (s : State) (a : Access) : State :=
  let k := s.core a.core
  s.setCore a.core { k with loads := k.loads.map (fun l => if l.id == a.group then { l with poison := some a.va } else l) }

/-- A refused access that returns a value ends, with all its parts, in a trap of its context: a precise one where the context
waits for it (R161, R181); a load that met an uncorrectable error, in one of the instruction that reads its register (R304); else in
an asynchronous one (assumption 24). An engine's part just ends. None while the trap queue is full. -/
def State.refuseWaiting (s : State) (a : Access) (cause detail : Nat) : Option State :=
  let u : State := { s with net := s.net.filter (·.group != a.group) }
  let t := u.dropLoad a.core a.group
  if !s.aliveFor a || a.path != .ls then some t
  else if (s.ctx a.core a.ctx).wait == .access a.group then t.trapWaiting a.core a.ctx cause detail a.va 0
  else if a.kind == .load && cause = Cause.uncorrectable.code then some (u.poisonLoad a)
  else if s.rollingBack a.core then some t
  else some (t.pendTrap a.core a.ctx
    { cause := cause, detail := detail, resume := 0, fpc := a.pc, va := a.va, ipa := 0, jrn := none, async := true })

/-- Whether an epilogue waits for an access as a part of its row (R102). -/
def State.partOfRow (s : State) (a : Access) : Bool :=
  let k := s.core a.core
  a.path == .mx && (k.mq.any (fun m => (k.epiOf m).bind (·.sent) == some a.group) || k.epis.any (fun e => e.2.sent == some a.group))

/-- Whether an access has a value or a refusal for its context; a peer's or the host's value comes with their answer,
unless a buffered store gave it (R145, R153), a channel waits itself for the copies that a strand sent (R158), and an epilogue for
its row (R102). -/
def State.mayGive (s : State) (a : Access) : Bool :=
  a.jrn.isNone && s.chains.all (fun h => !h.await.contains a.id) && !s.partOfRow a && (a.path != .mx || a.refused.isSome) && (match a.dest with
    | .host _ => a.refused.isSome
    | .peer .. => a.refused.isSome || (a.performed && !a.crossDie)
    | _ => a.performed || a.refused.isSome)

/-- LOAD_VALUE_RETURN: the value of a load or atomic reaches its register, or its refusal its context (R58, R131,
R161). -/
def execLoadValueReturn (id : Nat) (s : State) : Out :=
  match s.access? id with
  | none => .next s
  | some a =>
    if !s.mayGive a then .next s
    else match a.refused with
      | some cause => .next ((s.refuseWaiting a cause (a.detail cause)).getD s)
      | none => .next ((s.giveValue a a.value).getD s)

/-! ### Walks (R268, R269) -/

/-- Whether an invalidation since a walk's start makes it restart. -/
def State.walkStale (s : State) (w : Walk) : Bool := s.invals.any (fun v => decide (w.seq < v.seq) && invCovers v w.core)

/-- A context that waits for a walk goes on to retry its instruction. -/
def State.wakeWalk (s : State) (w : Walk) : State :=
  let k := s.ctx w.core w.ctx
  if k.live && k.born == w.born && k.wait == .walk then s.setCtx w.core w.ctx { k with wait := .none } else s

/-- PAGE_WALK_FILL: a walk that a walker has taken fills the TLBs, ends with a fault that its context's instruction then takes,
or restarts; the walker then takes the next (R267 to R269). -/
def execPageWalkFill (idx : Nat) (s : State) : Out :=
  match s.walks[idx]? with
  | none => .next s
  | some w =>
    if w.fault.isSome || !w.taken then .next s
    else if s.walkStale w then .next { s with walks := s.walks.set idx { w with seq := s.hub.invSeq } }
    else match walkBoth s (s.part w.part).vdev w.asid w.root w.va with
      | .ok (e, used) =>
        .next (((State.fill { s with walks := s.walks.eraseIdx idx } w.core e used).wakeWalk w).takeWalk (dieOf w.core))
      | .error f =>
        let s := s.chargeEntries w.part f.used
        if w.pref then .next (State.takeWalk { s with walks := s.walks.eraseIdx idx } (dieOf w.core))
        else .next ((State.wakeWalk { s with walks := s.walks.set idx { w with fault := some (f.stage, b2n f.bad, f.ipa) } } w).takeWalk
          (dieOf w.core))

/-! ### Asynchronous traps (R303, R306, R307) -/

/-- The oldest pending trap of a context taken at its boundary; the journal entry it names is freed (R138). -/
def State.takePending (s : State) (c x : Nat) : Option State :=
  let k := s.ctx c x
  match k.traps with
  | [] => none
  | t :: r =>
    if !k.atBoundary then none
    else
      let s := s.setCtx c x { k with traps := r, wait := .none }
      (s.freeJournal c t.jrn).takeTrap c x { t with resume := k.pc }

/-- Whether the oldest pending trap of a context is of the replayable class. -/
def Ctx.headReplayable (k : Ctx) : Bool := match k.traps with | t :: _ => t.replays | [] => false

/-- TRAP_ENTRY: a pending replayable trap enters the handler (R303, R306); at L1 it is nested (R308). -/
def execTrapEntry (core ctx : Nat) (s : State) : Out :=
  if (s.ctx core ctx).headReplayable then .next ((s.takePending core ctx).getD s) else .next s

/-- FATAL_TRAP: a pending fatal-class trap is taken: fatal, or a pending rollback (R307, R314). -/
def execFatalTrap (core ctx : Nat) (s : State) : Out :=
  if (s.ctx core ctx).headReplayable then .next s else .next ((s.takePending core ctx).getD s)

/-! ### The host link (R150 to R152, R181) -/

/-- Whether a request waits for the host's completer. -/
def Access.atHost (a : Access) : Bool :=
  a.performed && a.refused.isNone && (match a.dest with | .host _ => a.kind != .store | _ => false)

/-- HOST_COMPLETION: the host's completer answers a read or an AtomicOp (R151, R181), within 50,000 ticks; a refusal whose trap cannot be
taken yet stays with the access. -/
def execHostCompletion (id : Nat) (answer : HostAnswer) (s : State) : Out :=
  match s.access? id with
  | none => .next s
  | some a =>
    if !a.atHost || decide (a.since + 50000 ≤ s.time) then .next s
    else
      let bad (c : Cause) : State :=
        if a.jrn.isSome then s.setAccess { a with refused := some c.code }
        else (s.refuseWaiting a c.code (a.detail c.code)).getD (s.setAccess { a with refused := some c.code })
      match answer with
      | .success v =>
        if a.jrn.isSome then .next (s.acknowledge a) else .next ((s.giveValue a (v % 256 ^ a.size)).getD s)
      | .refused => .next (bad .perm)
      | .poisoned => .next (bad .uncorrectable)

/-- HOST_TIMEOUT: no completion has come within 50,000 ticks (R181): UNCORRECTABLE with the timeout bit. -/
def execHostTimeout (id : Nat) (s : State) : Out :=
  match s.access? id with
  | none => .next s
  | some a =>
    if !a.atHost || decide (s.time < a.since + 50000) then .next s
    else if a.jrn.isSome then .next (s.setAccess { a with refused := some Cause.uncorrectable.code })
    else .next ((s.refuseWaiting a Cause.uncorrectable.code 1).getD
      (s.setAccess { a with refused := some Cause.uncorrectable.code, value := 1 }))

/-- Whether device memory holds n bytes at an address (R266, R277). -/
def State.devRange (s : State) (a n : Nat) : Bool := n == 0 || (s.devOk a && s.devOk (a + n - 1) && decide (a + n ≤ 2 ^ 48))

/-- INBOUND_POSTED_WRITE: a write of the host is performed; the next one follows it (R152, R276). After a boot that failed it is
not (R280). -/
def execInboundPostedWrite (w : HostWrite) (s : State) : Out :=
  match w with
  | .device a bs => event s (s.hub.failure == 0 && s.devRange a bs.length) (s.devWrite a bs.length (ofBytes bs))
  | .staging vdev q off bs =>
    event s (s.hub.failure == 0 && s.ownsQueue vdev q && decide (off + bs.length ≤ 512))
      (s.setQueue q { s.queue q with staging := (s.queue q).staging.write off bs.length (ofBytes bs) })

/-- sr.bootstat (R281). -/
def Hub.bootstat (h : Hub) : Nat := h.failure * 2 ^ 8 + h.life % 4 * 2 ^ 6 + h.bootStep * 2 + b2n h.ready

/-- The word of the migration bits that DBIDX names, read and cleared in one act (R336). -/
def State.readDbword (s : State) : Nat × State :=
  let lo := 64 * s.hub.dbidx
  let w := (s.hub.migr.filter (fun p => decide (lo ≤ p) && decide (p < lo + 64))).foldl (fun a p => a + 2 ^ (p - lo)) 0
  (w, { s with hub := { s.hub with dbword := w, migr := s.hub.migr.filter (fun p => !(decide (lo ≤ p) && decide (p < lo + 64))) } })

/-! ### Silkenor links (R153, R279, R339) -/

/-- A link. -/
def State.link (s : State) (n : Nat) : Link := s.hub.links.toList.getD n Link.reset

/-- The state with a link replaced. -/
def State.setLink (s : State) (n : Nat) (l : Link) : State :=
  { s with hub := { s.hub with links := s.hub.links.setIfInBounds n l } }

/-- Whether an access was sent on a link and is not answered. -/
def Access.onLink (a : Access) (n : Nat) : Bool := match a.dest with | .peer _ _ l => l == n | _ => false

/-- LINK_DOWN: accesses on the link are refused (R279), but not one whose value has come. -/
def execLinkDown (link : Nat) (s : State) : Out :=
  let t := s.setLink link { s.link link with up := false }
  event s (decide (link < 8)) { t with
    net := t.net.map (fun a => if a.onLink link && a.crossDie then { a with performed := false, refused := some Cause.uncorrectable.code } else a) }

/-- LINK_RETRAIN: L2 trains a link again (R279). -/
def execLinkRetrain (link : Nat) (s : State) : Out :=
  event s (decide (link < 8)) (s.setLink link { s.link link with up := true, replays := 0, seq := 0, sendSeq := 0, replay := [] })

/-- The 256 bytes of a flit (R279). -/
def flitBytes (f : Flit) : List Byte := bytesOf 4 f.hdr.toNat ++ f.payload ++ bytesOf 4 f.crc.toNat ++ f.parity

/-- The places of a flit whose bytes arrive otherwise than they were sent. -/
def flitWrong (f : Flit) : List Nat :=
  ((f.errs.filter (fun e => decide (e.1 < 256) && (flitBytes f).getD e.1 0 != e.2)).map (·.1)).eraseDups

/-- A flit as its receiver has it: forward error correction mends up to 4 bytes (R279). -/
def flitReceived (f : Flit) : Flit :=
  if (flitWrong f).length ≤ 4 then f
  else
    let b := f.errs.foldl (fun (b : List Byte) e => b.set e.1 e.2) (flitBytes f)
    { f with hdr := BitVec.ofNat 32 (ofBytes (b.take 4)), payload := (b.drop 4).take 240
             crc := BitVec.ofNat 32 (ofBytes ((b.drop 244).take 4)), parity := b.drop 248 }

/-- Whether the CRC of a flit stands (R279). -/
def flitOk (f : Flit) : Bool := f.payload.length == 240 && crc32c (bytesOf 4 f.hdr.toNat ++ f.payload) == f.crc.toNat

/-- A peer's answer to an access of this device (R153). -/
def State.answer (s : State) (id : Nat) (payload : List Byte) : State :=
  match s.access? id with
  | none => s
  | some a =>
    let v := ofBytes (payload.take a.size)
    if !a.performed || !(match a.dest with | .peer .. => true | _ => false) then s
    else if a.jrn.isSome || a.path != .ls then s.acknowledge a
    else (s.giveValue a v).getD (s.setAccess { a with value := v, crossDie := false })

/-- A splice marker comes on a link: what follows it belongs after the cut (R339). -/
def State.splice (s : State) (n : Nat) (job : Nat) : State :=
  s.setLink n { s.link n with cut := some job }

/-- What a peer's load or atomic gets, on its way back over the link. -/
def State.sendData (s : State) (n a : Nat) (bs : List Byte) : State :=
  let t := s.setLink n (s.link n).send
  { t with hub := { t.hub with egress := t.hub.egress ++ [.peerData n a bs] } }

/-- A flit delivered in sequence: an answer, or an access of the peer to this device's memory (R153, R339). -/
def State.deliverFlit (s : State) (n : Nat) (f : Flit) : State :=
  if bits f.hdr.toNat 31 28 = 0xE then s.splice n (ofBytes (f.payload.take 4))
  else match f.use with
    | .none => s
    | .answer id => s.answer id f.payload
    | .store a k => if s.devRange a k && decide (k ≤ 240) then s.devWrite a k (ofBytes (f.payload.take k)) else s
    | .load a k => if s.devRange a k && decide (k ≤ 240) then s.sendData n a (bytesOf k (s.mem.read a k)) else s
    | .atomic a op t c c2 =>
      let old := s.mem.read a t.size
      if s.devRange a t.size then
        (s.devWrite a t.size (atmNew op t .rn old c c2)).sendData n a (bytesOf t.size old)
      else s

/-- FLIT_RECEIVE: a flit is corrected, checked, kept in sequence and delivered, replayed, or held behind a splice marker (R153,
R279, R339); one that fails again after 16 replays takes the link down. Its credits free the oldest flits of the replay buffer
(assumption 101), and what correction or a replay has mended is counted (R283). -/
def execFlitReceive (link : Nat) (f : Flit) (s : State) : Out :=
  let l := s.link link
  let r := flitReceived f
  if !(decide (link < 8)) || !l.up || f.payload.length != 240 || f.parity.length != 8 then .next s
  else if !flitOk r then
    if 16 ≤ l.replays then execLinkDown link s else .next ((s.setLink link { l with replays := l.replays + 1 }).repaired 4)
  else if bits f.hdr.toNat 23 12 != l.seq then .next s
  else
    let s := if (flitWrong f).isEmpty then s else s.repaired 4
    let s := s.setLink link { l with seq := (l.seq + 1) % 4096, replays := 0, replay := l.replay.drop (bits f.hdr.toNat 11 0) }
    if l.cut.isSome then .next (s.setLink link { s.link link with heldFlits := l.heldFlits ++ [r] })
    else .next (s.deliverFlit link r)

/-- SPLICE_MARKER_RECEIVE: a splice marker is received on a link (R339). -/
def execSpliceMarkerReceive (link : Nat) (job : BitVec 32) (s : State) : Out :=
  event s (decide (link < 8)) (s.splice link job.toNat)

end Sys2Proof.Machine
end

