-- ==== Sys2Proof/Machine/Swap.lean ====
section
/-!
DEFINITION. The swap engine: VCF headers and tier slots, swap-out and swap-in strands, lanes, the residence record, and
the registration of checkpoint chains (R323 to R330).
-/

namespace Sys2Proof.Machine

/-! ### Headers and pages (R324) -/

/-- Whether the identifier and the format of a VCF header are good. -/
def vcfOk (h : Nat) : Bool := fieldB h 0 4 == 0x56460001 && (fieldB h 4 1 == 8 || fieldB h 4 1 == 9)

/-- Whether the reserved bits of a header are zero and its swizzle code is one. -/
def vcfClean (h : Nat) : Bool := bits (fieldB h 5 1) 3 1 == 0 && !bit (fieldB h 5 1) 7 && fieldB h 48 16 == 0

/-- What a page pointer of a header leads to. -/
inductive PageRes where
  | bad
  | fault (t : Trip)
  | ok (ps : List Piece) (es : List Tlb)

/-- The 64 KiB page that a header names: space 0, aligned, in HBM (R324). -/
def State.vcfPage (s : State) (g : Agent) (p acc : Nat) : PageRes :=
  if bits p 63 48 != 0 || p % 65536 != 0 then .bad
  else match s.place g p 65536 acc with
    | .error t => .fault t
    | .ok r =>
      if r.1.all (fun q => match q with | .dev _ _ h => decide (h < 512) | _ => false) then .ok r.1 r.2 else .bad

/-- The device page under pieces. -/
def devPage (ps : List Piece) : Nat := match ps with | .dev a _ _ :: _ => pageNo a | _ => 0

/-- Key identifier of a partition's slot (R278). -/
def State.keyId (s : State) (p : Nat) : Nat := p % 256 + (s.part p).keyGen % 256 * 256

/-- The key in a partition's slot: no rule gives its value (assumption 8). -/
def State.slotKey (s : State) (p : Nat) : Nat := Config.key p (s.part p).keyNo

/-! ### Bodies (R325) -/

/-- A payload line. -/
def lineOf (v i : Nat) : Nat := fieldB v (64 * i) 64

/-- The lines of a payload that are not all zero. -/
def liveLines (v : Nat) : List Nat := (List.range 1024).filter (fun i => lineOf v i != 0)

/-- The body of a payload: whether compressed, its length and its bytes as a number. -/
def compress (v : Nat) : Bool × Nat × Nat :=
  let ls := liveLines v
  if 1021 < ls.length then (false, 65536, v)
  else
    let map := ls.foldl (fun a i => a + 2 ^ i) 0
    let body := ls.foldr (fun i a => lineOf v i + 256 ^ 64 * a) 0
    (true, 128 + 64 * ls.length, map + 256 ^ 128 * body)

/-- A body encrypted or decrypted by the key stream of a key and an IV. -/
def cipher (key iv n v : Nat) : Nat :=
  ofBytes (List.zipWith (fun b k => b ^^^ BitVec.ofNat 8 k) (bytesOf n v) (gcmStream key iv n))

/-- Lines from i on put back from a map; n remain. -/
def expandLines (map : Nat) : Nat → Nat → Nat → Nat
  | 0, _, _ => 0
  | n + 1, i, b =>
    if bit map i then b % 256 ^ 64 + 256 ^ 64 * expandLines map n (i + 1) (b / 256 ^ 64)
    else 256 ^ 64 * expandLines map n (i + 1) b

/-- The payload of a plain body; lines the body does not hold are zero. -/
def expand (compressed : Bool) (v : Nat) : Nat :=
  if compressed then expandLines (v % 256 ^ 128) 1024 0 (v / 256 ^ 128) else v % 256 ^ 65536

/-- Set bits of a line map. -/
def mapCount (v : Nat) : Nat := ((List.range 1024).filter (fun i => bit v i)).length

/-- BodyLengthValid (R327). -/
def bodyLengthOk (t : Nat) : Bool :=
  let n := fieldB t 36 4
  if bit (fieldB t 5 1) 0 then decide (128 ≤ n) && decide (n ≤ 128 + 64 * 1021) && n % 64 == 0 else n == 65536

/-! ### Swap strands (R323, R326, R327) -/

/-- The tier slot of a swap strand. -/
def tierPtr (v : Nat) : Nat := if swapsOut v then fieldB v 16 8 else fieldB v 8 8

/-- Bytes of a tier slot (R325). -/
def slotBytes : Nat := 0x10050

/-- Whether a swap strand keeps the columns of R323 that its own bytes show. -/
def swapShape (v : Nat) : Bool :=
  bits (tierPtr v) 63 48 == 0 && tierPtr v % 4096 == 0 && bits (headPtr v) 63 48 == 0 && headPtr v % 64 == 0
    && strandLen v == 65536

/-- The CXL port that holds a strand's tier slot; none where the slot does not lie on kind-2 pages. -/
def State.swapPort (s : State) (g : Agent) (v : Nat) : Option Nat :=
  match s.place g (tierPtr v) slotBytes (if swapsOut v then 1 else 0) with
  | .error _ => none
  | .ok r => match r.1 with
    | .dev _ _ h :: _ => if r.1.all (fun q => match q with | .dev _ _ k => k == h | _ => false) && decide (512 ≤ h) then some (h - 512) else none
    | _ => none

/-- What stops a strand with a status. -/
def endBy (st : Nat) (t : Trip) : Ending := { st := t.status st, cause := t.code, count := 0 }

/-- A bad strand. -/
def badStrand : Ending := { st := 4, cause := Cause.illegal.code, count := 0 }

/-- Whether the tier slot lies on a page of another kind (R323); what cannot be reached is met at the access itself (R326, R327). -/
def State.tierBad (s : State) (g : Agent) (v : Nat) : Bool :=
  match s.place g (tierPtr v) slotBytes (if swapsOut v then 1 else 0) with
  | .error _ => false
  | .ok _ => (s.swapPort g v).isNone

/-- The checkpoint bit of a device page cleared (R330). -/
def State.clearCkpt (s : State) (page : Nat) : State :=
  { s with hub := { s.hub with ckpt := s.hub.ckpt.filter (· != page) } }

/-- The checkpoint bit of the page that a header names cleared, where it is translated to one (R326). -/
def State.clearNamed (s : State) (g : Agent) (p : Nat) : State :=
  match s.translate g.core g.vdev g.xlat g.level (bits p 47 0) 65536 0 true with
  | .ok ((a, _) :: _) (e :: _) => if e.kind ≤ 1 then s.clearCkpt (pageNo a) else s
  | _ => s

/-- A swap-out strand (R326): the checkpoint bit is cleared before the first payload read. -/
def State.swapOut (s : State) (g : Agent) (v : Nat) : Ending × State :=
  match s.bulkRead g (headPtr v) 64 with
  | .error t => (endBy 2 t, s)
  | .ok (h, s) =>
    if !vcfOk h || !vcfClean h then ({ badStrand with cause := 0 }, s)
    else match s.vcfPage g (fieldB h 24 8) 0 with
      | .bad => ({ badStrand with cause := 0 }, s)
      | .fault t => (endBy 2 t, s.clearNamed g (fieldB h 24 8))
      | .ok ps _ =>
        let s := s.clearCkpt (devPage ps)
        if ps.any s.pieceBad then ({ st := 2, cause := Cause.uncorrectable.code, count := 0 }, s)
        else
          let s := s.chargePieces g.part ps
          let pay := s.readPieces ps
          let s := s.touchPtr g (fieldB h 24 8) 65536
          let b := compress pay
          let pt := s.part g.part
          let iv := pt.pageCtr
          let s := s.setPart g.part { pt with pageCtr := iv + 1 }
          let t := h % 256 ^ 5 + 256 ^ 5 * (bits (fieldB h 5 1) 7 4 * 16 + b2n b.1) + 256 ^ 6 * s.keyId g.part
            + 256 ^ 8 * fieldB h 8 24 + 256 ^ 32 * crc32c (bytesOf 65536 pay) + 256 ^ 36 * b.2.1 + 256 ^ 40 * (iv % 256 ^ 8)
          let enc := cipher (s.slotKey g.part) (iv % 256 ^ 8) b.2.1 b.2.2
          let tag := gcmTag (s.slotKey g.part) (iv % 256 ^ 8) (bytesOf 40 t) (bytesOf b.2.1 enc)
          match s.bulkWrite g (tierPtr v) 64 t with
          | .error e => (endBy 3 e, s)
          | .ok s => match s.bulkWrite g (tierPtr v + 64) b.2.1 enc with
            | .error e => (endBy 3 e, s)
            | .ok s => match s.bulkWrite g (tierPtr v + 0x10040) 16 tag with
              | .error e => (endBy 3 e, s)
              | .ok s => ({ st := 1, cause := 0, count := 64 + b.2.1 + 16 }, s)

/-- A swap-in strand (R327); reserved bits of both headers are zero (R4, R324). -/
def State.swapIn (s : State) (g : Agent) (v : Nat) : Ending × State :=
  let fail5 : Ending := { st := 5, cause := 0, count := 0 }
  let bad4 : Ending := { badStrand with cause := 0 }
  match s.bulkRead g (tierPtr v) 64 with
  | .error t => (endBy 2 t, s)
  | .ok (t, s) => match s.bulkRead g (headPtr v) 64 with
    | .error e => (endBy 3 e, s)
    | .ok (d, s) =>
      if !vcfOk t || !vcfClean t || !bodyLengthOk t then (bad4, s)
      else if fieldB t 6 2 != s.keyId g.part then (fail5, s)
      else match (if vcfClean d then s.vcfPage g (fieldB d 24 8) 1 else .bad) with
        | .bad => (bad4, s)
        | .fault e => (endBy 3 e, s)
        | .ok ps es =>
          let n := fieldB t 36 4
          let z := bit (fieldB t 5 1) 0
          match s.bulkRead g (tierPtr v + 64) n with
          | .error e => (endBy 2 e, s)
          | .ok (enc, s) => match s.bulkRead g (tierPtr v + 0x10040) 16 with
            | .error e => (endBy 2 e, s)
            | .ok (tag, s) =>
              let iv := fieldB t 40 8
              let plain := cipher (s.slotKey g.part) iv n enc
              let pay := expand z plain
              let s := ((s.touchPtr g (fieldB d 24 8) 65536).setDirty g.core g.part es).chargePieces g.part ps
              let s := s.writePieces g ps pay
              let good := gcmTag (s.slotKey g.part) iv (bytesOf 40 t) (bytesOf n enc) == tag
                && (!z || mapCount plain == (n - 128) / 64) && crc32c (bytesOf 65536 pay) == fieldB t 32 4
              if !good then ({ fail5 with count := 65536 }, s)
              else match s.bulkWrite g (headPtr v) 64 (t % 256 ^ 24 + 256 ^ 24 * fieldB d 24 8 + 256 ^ 32 * (t / 256 ^ 32)) with
                | .error e => (endBy 3 e, s)
                | .ok s => ({ st := 1, cause := 0, count := 65536 + 64 }, s)

/-- A whole swap strand with the checks of R195 and R323 before it: how it ends. -/
def State.swapStrand (s : State) (g : Agent) (v : Nat) : Ending × State :=
  match s.strandCheck g true v with
  | .error c => ({ st := 4, cause := c, count := 0 }, s)
  | .ok (_, s) =>
    if !swapShape v || s.tierBad g v then (badStrand, s)
    else if swapsOut v then s.swapOut g v
    else s.swapIn g v

/-! ### Lanes (R323) -/

/-- The swap strand that a channel's chosen chain is to run; one that holds its lane finishes though its chain is cancelled. -/
def State.swapAt (s : State) (ch : Nat) : Option (Chain × Nat) :=
  match s.runningChain ch with
  | none => none
  | some h =>
    if h.mode = 1 then none
    else match s.readStrand (s.chainAgent h) h.cur with
      | .error _ => none
      | .ok (v, _) => if decide (0x2000 ≤ ch) && strandSwaps v && strandOwn v && (!h.cancelled || h.lane.isSome) then some (h, v) else none

/-- Place of a chain in the order of lanes: the chooser's by the order of their deadlines, then the others by the time
they began to wait. -/
def State.laneKey (s : State) (h : Chain) : Nat :=
  if h.mode = 2 then ((s.part h.part).deadline.map (·.order)).getD 0 else 2 ^ 64 + h.stamp

/-- Chains that wait for a lane of a port. -/
def State.laneWaiters (s : State) (port : Nat) : List Chain :=
  s.running.filterMap (fun r => match s.swapAt r.1 with
    | some (h, v) => if h.lane.isNone && s.swapPort (s.chainAgent h) v == some port then some h else none
    | none => none)

/-- Whether a channel's strand takes a lane now. -/
def State.mayLane (s : State) (ch : Nat) : Option (Chain × Nat) :=
  match s.swapAt ch with
  | none => none
  | some (h, v) =>
    if h.lane.isSome then none
    else match s.swapPort (s.chainAgent h) v with
      | none => none
      | some port =>
        if decide ((s.lanes.filter (·.1 == port)).length < 2)
            && (s.laneWaiters port).all (fun k => k.id == h.id || decide (s.laneKey h < s.laneKey k)
              || (s.laneKey h == s.laneKey k && decide (h.id < k.id))) then some (h, port)
        else none

/-- A swap strand of a chain that an instruction started begins: its identifier is recorded and its units are charged (R197,
R271). -/
def State.beginSwap (s : State) (h : Chain) (v : Nat) : State :=
  if h.mode = 2 then s else (s.recordSet h.core h.unit (strandId v) false).chargeStrand h 1024

/-- LANE_GRANT: a swap strand takes a lane of its tier slot's port and begins (R323), where the balance still allows it. -/
def execLaneGrant (ch : Nat) (s : State) : Out :=
  match s.mayLane ch, s.swapAt ch with
  | some (h, port), some (_, v) =>
    if !s.mayBegin h then .next (s.unchoose ch)
    else .next ((State.setChain { s with lanes := s.lanes ++ [(port, h.id)] } { h with lane := some port }).beginSwap h v)
  | _, _ => .next s

/-- Whether a swap strand may run: it holds a lane, or has no port to hold one of. -/
def State.mayRunSwap (s : State) (ch : Nat) (out : Bool) : Option (Chain × Nat) :=
  match s.swapAt ch with
  | none => none
  | some (h, v) =>
    if swapsOut v == out && (h.lane.isSome || (s.swapPort (s.chainAgent h) v).isNone) then some (h, v) else none

/-- A chosen strand that failed is run once more on the next reserved channel; a second failure marks the chain. -/
def State.chooserFailed (s : State) (h : Chain) : State :=
  let cs := ((s.part h.part).deadline.map (·.chans)).getD []
  let nextCh := match cs.dropWhile (· != h.chan) with
    | _ :: c :: _ => c
    | _ => cs.headD h.chan
  let k := if h.again then { h with cancelled := true, lane := none } else { h with again := true, chan := nextCh, lane := none }
  let s := s.setChain k
  { s with running := s.running.filter (·.2 != h.id), lanes := s.lanes.filter (·.2 != h.id) }

/-- A strand of the chooser: skipped where its page is clean; nothing of the strand is written (R226, R334). The
deadline's own bookkeeping follows in `execDeadlineChainStart`. -/
def State.runChosen (s : State) (h : Chain) (v : Nat) : State :=
  let g := s.chainAgent h
  let clean := match s.bulkRead g (headPtr v) 64 with
    | .ok (d, _) => (match s.vcfPage g (fieldB d 24 8) 0 with
      | .ok ps _ => !s.hub.ckpt.contains (devPage ps)
      | _ => false)
    | .error _ => false
  if clean then s.dropChain h
  else
    let r := (s.chargeStrand h 1024).swapStrand g v
    if r.1.st != 1 then r.2.chooserFailed h else r.2.dropChain h

/-- A swap strand of a channel run whole (R323, R326 to R328); one without a port of its own begins here. -/
def State.runSwap (s : State) (h : Chain) (v : Nat) : State :=
  if h.mode = 2 then s.runChosen h v
  else
    let g := s.chainAgent h
    let block := (s.blockOf g v).1
    let s := (s.blockOf g v).2
    let s := if h.lane.isSome then s else s.beginSwap h v
    if h.first && strandId v != h.ident then (s.leaveRecord h.part (s.inPage g v) false).finishStrand h v block badStrand
    else
      let page := s.inPage g v
      let r := s.swapStrand g v
      let t := if swapsOut v then r.2 else r.2.leaveRecord h.part page (r.1.st == 1)
      t.finishStrand h v block r.1

/-- A swap strand run on its channel, behind the walks that it needs, or parked again where it may not begin. -/
def State.swapRun (s : State) (ch : Nat) (out : Bool) : Out :=
  match s.mayRunSwap ch out with
  | none => .next s
  | some (h, v) => if h.lane.isNone && !s.mayBegin h then .next (s.unchoose ch) else s.withStrand h (fun s => .next (s.runSwap h v))

/-- SWAP_OUT_STRAND (R326). -/
def execSwapOutStrand (ch : Nat) (s : State) : Out := s.swapRun ch true

/-- SWAP_IN_STRAND (R327). -/
def execSwapInStrand (ch : Nat) (s : State) : Out := s.swapRun ch false

/-! ### Checkpoint chains (R329, R330) -/

/-- The device page and tier port of one strand of a checkpoint chain under a queue's translation; none where the
strand does not pass. With them the state that the reads leave. -/
def State.chainStrand (s : State) (g : Agent) (v : Nat) : Option ((Nat × Nat) × State) :=
  if !strandOwn v || !(bit (strandWord v) 23 && !bit (strandWord v) 22) || !swapShape v then none
  else match s.strandCheck g true v with
    | .error _ => none
    | .ok (_, s) => match s.swapPort g v, s.bulkRead g (headPtr v) 64 with
      | some port, .ok (h, s) =>
        if !vcfOk h || !vcfClean h then none
        else match s.vcfPage g (fieldB h 24 8) 0 with
          | .ok ps _ => some ((devPage ps, port), s)
          | _ => none
      | _, _ => none

/-- The pages and ports of a checkpoint chain of at most n strands, with the state that the reads leave; none where it does not pass. -/
def State.chainPages (s : State) (g : Agent) : Nat → Nat → Option (List (Nat × Nat) × State)
  | 0, p => if p = 0 then some ([], s) else none
  | n + 1, p =>
    if p = 0 then some ([], s)
    else if bits p 63 48 != 0 || p % 64 != 0 then none
    else match s.readStrand g p with
      | .error _ => none
      | .ok (v, s) => match s.chainStrand g v with
        | none => none
        | some (e, s) => (s.chainPages g n (fieldB v 0 8)).map (fun r => (e :: r.1, r.2))

/-- Whether a pending deadline has chosen a queue (R330). -/
def State.chosenQueue (s : State) (q : Nat) : Bool :=
  s.parts.any (fun e => match e.2.deadline with
    | some d => d.picks.any (·.1 == q)
    | none => false)

/-- A queue's pages leave the owner map. -/
def State.disown (s : State) (q : Nat) : State :=
  { s with hub := { s.hub with owner := s.hub.owner.filter (·.2 != q) } }

/-- A write of sr.wqchain: the chain is walked and registered, or removed (R330). -/
def State.chainWrite (s : State) (q : Nat) (w : Word) : State :=
  if s.chosenQueue q then s
  else
    let head := bits w.toNat 47 6 * 64
    let s := s.disown q
    let off (s : State) : State := s.setQueue q { s.queue q with chainOn := false, chainHead := head, pages := [], ports := [] }
    if !w.getLsbD 63 then off s
    else match s.chainPages (s.hubAgent q) 4095 head with
      | none => off s
      | some ([], s) => off s
      | some (es, s) =>
        let ps := es.map (·.1)
        if ps.any (fun p => (Tab.get? s.hub.owner p).isSome) then off s
        else
          let s : State := { s with hub := { s.hub with
            owner := ps.foldl (fun t p => Tab.put t p q) s.hub.owner
            ckpt := ps.foldl (fun l p => insertSet p l) s.hub.ckpt } }
          s.setQueue q { s.queue q with chainOn := true, chainHead := head, pages := ps, ports := es.map (·.2) }

/-- WQCHAIN_WRITE: a write of sr.wqchain (R330). -/
def execWqchainWrite (queue : Nat) (value : Word) (s : State) : Out :=
  event s (decide (queue < 8192)) (s.chainWrite queue value)

/-- Dirty: pages of the chain whose checkpoint bit is set (R330). -/
def State.dirtyPages (s : State) (q : Nat) : Nat := ((s.queue q).pages.filter s.hub.ckpt.contains).length

end Sys2Proof.Machine
end

