-- ==== Sys2Proof/Machine/Evict.lean ====
section
/-!
DEFINITION. Eviction deadlines: the chooser's decision, what an accepted deadline does, and the refill of allowances
(R271, R300, R331 to R335).
-/

namespace Sys2Proof.Machine

/-! ### The inputs (R331) -/

/-- M of R331. -/
def evictM : Nat := 305455

/-- The longest that a swap strand holds its lane. -/
def strandTime : Nat := 1311

/-- A value in units of 2^-149 as the chooser uses it: none for NaN and +∞, 0 for −∞. -/
def exactOf (v : Val) : Option Int :=
  match v with
  | .nan => none
  | .inf neg => if neg then some 0 else none
  | .num neg m e => let k := m * 2 ^ (e + 149).toNat; some (if neg then -(k : Int) else k)

/-- The unit of `exactOf`. -/
def exactOne : Nat := 2 ^ 149

/-- The current launch of a queue: the latest started. -/
def State.currentOf (s : State) (q : Nat) : Option Launch :=
  bestOf (fun a b => decide (a.start ≥ b.start)) (s.startedOf q)

/-- Remaining time of a running queue, exactly (R127, R331): from its last report since its current launch started, else
from the durations of its last eight launches. -/
def State.remaining (s : State) (q : Nat) (l : Launch) : Option Int :=
  let k := s.queue q
  let less (v : Int) (from_ : Nat) : Int := max 0 (v - ((s.time - from_) * exactOne : Nat))
  let history : Option Int :=
    if k.durations.length < 8 then none
    else some (less ((k.durations.foldl max 0 * exactOne : Nat)) l.start)
  match k.progress with
  | some (t, pts) =>
    if t < l.start then history
    else (exactOf (decodeF .f32 (quantileOf 19 20 pts))).map (fun v => less v t)
  | none => history

/-- Candidates of a partition, in the order of their numbers. -/
def State.candidates (s : State) (p : Nat) : List Nat :=
  (s.queues.filter (fun e => e.2.part == p && e.2.chainOn)).map (·.1)

/-- Swap channels that a partition may reserve. -/
def State.reservable (s : State) (p : Nat) : List Nat :=
  (List.range 8).filter (fun n => bit (s.part p).chmask (32 + n)
    && s.parts.all (fun e => e.1 == p || (match e.2.deadline with
      | some d => !d.chans.contains (0x2000 + n)
      | none => true)))

/-- Queues of a list, in order, while their pages do not reach a need: the queues taken and the sum. -/
def takeUntil (need : Nat) (v : Nat → Nat) : Nat → List Nat → List Nat × Nat
  | got, [] => ([], got)
  | got, q :: r =>
    if need ≤ got then ([], got)
    else let t := takeUntil need v (got + v q) r; (q :: t.1, t.2)

/-- Pages and their ports that a choice may move: those that V or D counts, with the ports found at registration (R332; assumption
115). -/
def State.moved (s : State) (c : Nat × Choice) : List (Nat × Nat) :=
  let all := (s.queue c.1).pages.zip (s.queue c.1).ports
  match c.2 with
  | .discard => []
  | .run => all
  | .checkpoint => all.filter (fun e => s.hub.ckpt.contains e.1)

/-- T of R332 for the pages counted. -/
def timeFor (chans : Nat) (ps : List (Nat × Nat)) : Nat :=
  let port (n : Nat) : Nat := cdiv (ps.filter (·.2 == n)).length 2
  max (cdiv ps.length (max chans 1)) ((List.range 4).foldl (fun m n => max m (port n)) 0) * strandTime

/-- H of R332: how long earlier deadlines of other partitions may keep lanes of the same ports. -/
def State.earlier (s : State) (p : Nat) (ports : List Nat) : Nat :=
  let w := s.parts.foldl (fun m e => match e.2.deadline with
    | some d => if e.1 != p && d.ports.any ports.contains then max m d.worst else m
    | none => m) 0
  w - s.time

/-- The chooser's decision (R332, R333): the choices, the last safe moment, the worst case, the earliest deadline that
could be met, and whether it accepts. -/
structure Plan where
  picks  : List (Nat × Choice)
  last   : Int
  worst  : Nat
  soonest : Nat
  ok     : Bool
  need   : Nat
  chans  : List Nat
  ports  : List Nat

/-- The greedy choice of R332 and its verdict (R333). -/
def State.plan (s : State) (p deadline vac : Nat) : Plan :=
  let now := s.time
  let need := vac / 65536
  let vOf (q : Nat) : Nat := (s.queue q).pages.length
  let cands := s.candidates p
  let disc := takeUntil need vOf 0 (cands.filter (fun q => (s.queue q).discard))
  let rest := sortBy (fun a b =>
    decide (s.dirtyPages a < s.dirtyPages b) || (s.dirtyPages a == s.dirtyPages b && decide (a ≤ b)))
    (cands.filter (fun q => !(s.queue q).discard))
  let others := takeUntil need vOf disc.2 rest
  let first : List (Nat × Choice) := disc.1.map (fun q => (q, .discard)) ++ others.1.map (fun q =>
    (q, if (s.currentOf q).isSome then .run else .checkpoint))
  let chans := (s.reservable p).map (0x2000 + ·)
  let pagesOf (cs : List (Nat × Choice)) : List (Nat × Nat) := cs.flatMap s.moved
  let ports := ((pagesOf first).map (·.2)).eraseDups
  let h := s.earlier p ports
  let lastOf (cs : List (Nat × Choice)) : Int := (deadline : Int) - evictM - timeFor chans.length (pagesOf cs) - h
  let ready (q : Nat) : Option Int := match s.currentOf q with
    | some l => (s.remaining q l).map (fun r => r + (now * exactOne : Nat))
    | none => some (now * exactOne : Nat)
  let l0 := lastOf first
  let picks := first.map (fun c => if c.2 == .run && (match ready c.1 with
    | some r => decide (l0 * exactOne < r)
    | none => true) then (c.1, .checkpoint) else c)
  let l1 := lastOf picks
  let t1 := timeFor chans.length (pagesOf picks)
  let latest := picks.foldl (fun m c => if c.2 == .run then max m ((ready c.1).getD 0) else m) ((now + 2000) * exactOne : Nat)
  let worst := cdiv latest.toNat exactOne + evictM + t1 + h
  let t2 := timeFor chans.length (pagesOf (picks.map (fun c => if c.2 == .run then (c.1, .checkpoint) else c)))
  let enough := decide (need ≤ others.2) && !chans.isEmpty
  { picks := picks, last := l1, worst := worst, need := need, chans := chans, ports := ports
    soonest := if enough then now + 2000 + evictM + t2 + h else 2 ^ 64 - 1
    ok := enough && decide (((now : Int) + 2000) ≤ l1) }

/-! ### Requests and decisions (R300, R333) -/

/-- Whether a request's bytes are good: reserved bytes, vacancy, and a partition with a cluster (R300). -/
def State.requestOk (s : State) (v : Nat) : Bool :=
  fieldB v 17 7 == 0 && fieldB v 32 32 == 0 && fieldB v 8 8 != 0 && fieldB v 8 8 % 65536 == 0
    && !(s.clustersOf (fieldB v 16 1)).isEmpty

/-- Every running launch of a queue ends as cancelled, and the queue is disabled (R334). -/
def State.discardQueue (s : State) (q : Nat) : State :=
  let s := s.each (s.startedOf q) (fun s l => s.endLaunch (l.queue, l.seq) 2)
  s.setQueue q { s.queue q with enabled := false }

/-- V of a queue counts as freed (R334). -/
def State.freedOf (s : State) (p q : Nat) : State :=
  let k := s.part p
  s.setPart p { k with freed := (k.freed + (s.queue q).pages.length) % 2 ^ 48 }

/-- The chooser's chains and strands of some kind are gone, and with them what they hold of channels and lanes. -/
def State.dropChosen (s : State) (p : Chain → Bool) : State :=
  let mine := (s.chains.filter (fun h => decide (2 ≤ h.mode) && p h)).map (·.id)
  { s with chains := s.chains.filter (fun h => !mine.contains h.id), running := s.running.filter (fun r => !mine.contains r.2)
           lanes := s.lanes.filter (fun r => !mine.contains r.2) }

/-- A deadline met once enough is freed: its reserved channels are released (R334). -/
def State.meet (s : State) (p : Nat) : State :=
  let k := s.part p
  match k.deadline with
  | none => s
  | some d =>
    if k.freed < d.need then s
    else
      (s.setPart p { k with evState := 2, deadline := none }).dropChosen (·.part == p)

/-- A deadline that cannot be kept (R335). -/
def State.abandon (s : State) (p : Nat) : State :=
  let k := s.part p
  (s.setPart p { k with evState := if k.deadline.isSome then 3 else k.evState, deadline := none }).dropChosen (·.part == p)

/-- An accepted deadline and the actions at its acceptance (R333, R334). -/
def State.acceptDeadline (s : State) (p deadline : Nat) (pl : Plan) : State :=
  let d : Deadline := { deadline := deadline, need := pl.need, last := pl.last, worst := pl.worst, chans := pl.chans
                        ports := pl.ports, order := s.nonce, stopped := false
                        picks := pl.picks.map (fun c => (c.1, c.2, if c.2 == .discard then 2 else 0)) }
  let s := s.setPart p { s.part p with evdl := deadline, evState := 1, freed := 0, deadline := some d }
  let s := s.each pl.picks (fun s c =>
    if c.2 == .discard then (s.discardQueue c.1).freedOf p c.1
    else s.setQueue c.1 { s.queue c.1 with enabled := false })
  s.meet p

/-- The result word of a decision, its output, and the state after it. -/
def State.judge (s : State) (v : Nat) : Nat × Nat × State :=
  let p := fieldB v 16 1
  if (s.part p).deadline.isSome then (3, 0, s)
  else
    let pl := s.plan p (fieldB v 0 8) (fieldB v 8 8)
    if pl.ok then (1, pl.worst, s.acceptDeadline p (fieldB v 0 8) pl) else (2, pl.soonest, s)

/-- EVICTION_DECISION: the chooser decides a posted request and answers it (R300, R331 to R333). -/
def execEvictionDecision (idx : Nat) (s : State) : Out :=
  match s.evicts.find? (·.idx == idx) with
  | none => .next s
  | some r =>
    let s : State := { s with evicts := s.evicts.filter (·.idx != idx) }
    let d := s.judge r.bytes
    let t := d.2.2
    match r.core with
    | none => .next { t with hub := { t.hub with evResult := t.hub.evResult ++ [(d.1 * 2 ^ 62, d.2.1)] } }
    | some (c, x) =>
      let k := t.ctx c x
      if !k.live || k.wait != .evict idx then .next t
      else
        let g : Agent := { stamp := t.nonce, core := c, part := t.partOf c, vdev := t.vdevOf c, xlat := k.xlat.toNat, level := k.level }
        let t := match t.bulkWrite g (r.addr + 24) 8 d.2.1 with
          | .ok u => u
          | .error _ => t
        .next ((t.writeReg c x (.s r.reg) .n64 (d.1 * 2 ^ 62)).finishWait c x)

/-- BAR2_EVPOST: a request through the host queue controls; a bad one is not posted (R300). -/
def execBar2Evpost (req : List Byte) (s : State) : Out :=
  let v := ofBytes (req.take 64)
  if s.requestOk v then
    let r : EvReq := { idx := s.nonce, bytes := v, core := none, addr := 0, reg := 0, post := s.time }
    .next { s.fresh.2 with evicts := s.evicts ++ [r] }
  else .next { s with hub := { s.hub with evResult := s.hub.evResult ++ [(Cause.illegal.code, 0)] } }

/-! ### An accepted deadline carried out (R334, R335) -/

/-- Whether the last safe moment of a partition's deadline has come. -/
def State.mayStop (s : State) (p : Nat) : Bool :=
  match (s.part p).deadline with
  | some d => !d.stopped && decide (d.last ≤ s.time)
  | none => false

/-- LAST_SAFE_MOMENT: queues still marked run are stopped (R334). -/
def execLastSafeMoment (part : Nat) (s : State) : Out :=
  match (s.part part).deadline with
  | none => .next s
  | some d => event s (s.mayStop part) (s.setPart part { s.part part with deadline := some { d with stopped := true } })

/-- The units of a queue's running launches in the order of their save areas: core, where it still runs there (R330). -/
def State.unitsOf (s : State) (q : Nat) : List (Option Nat) :=
  (sortBy (fun a b => decide (a.seq ≤ b.seq)) (s.startedOf q)).flatMap (fun l => l.cores.map (fun c =>
    if (s.core c).unit == some (l.queue, l.seq) then some c else none))

/-- Pre-emption of every unit of a queue to its area (R318, R330). -/
def State.preemptQueue (s : State) (q : Nat) : State :=
  let us := s.unitsOf q
  s.each ((List.range us.length).zip us) (fun s e => match e.2 with
    | some c =>
      if (s.core c).preempt.isSome then s
      else s.setCore c { s.core c with preempt := some ((s.queue q).saveBase + e.1 * 0x200000) }
    | none => s)

/-- A pick's stage changed. -/
def State.setStage (s : State) (p q stage : Nat) : State :=
  match (s.part p).deadline with
  | none => s
  | some d => s.setPart p { s.part p with deadline := some { d with
      picks := d.picks.map (fun c => if c.1 == q then (c.1, c.2.1, stage) else c) } }

/-- The chain of a chosen queue, ready to hand its strands to the reserved channels (R334); it has no channel itself. -/
def State.startChosen (s : State) (p q : Nat) : State :=
  let k := s.queue q
  let h : Chain := { id := s.nonce, chan := 0x4000, core := 1536, ctx := 0, born := 0
                     part := p, q := 0, ident := 0, cur := k.chainHead, prev := 0, first := true, begun := false
                     lane := none, stamp := s.nonce, cancelled := false, xlat := k.xlat.toNat, level := 1, unit := none
                     mode := 3, queue := q, rank := 0, again := false }
  let s := s.setStage p q 1
  { s.fresh.2 with chains := s.chains ++ [h] }

/-- What a deadline does next for a chosen queue. -/
inductive Move where
  | none | discard | preempt | start | finish | fail
  deriving DecidableEq, Repr

/-- What the deadline does for a queue whose chain runs: nothing yet, its pages freed, or failure (R334, R335). -/
def State.chosenMove (s : State) (q : Nat) : Move :=
  let mine := s.chains.filter (fun h => decide (2 ≤ h.mode) && h.queue == q)
  if mine.any (fun h => h.cancelled || (h.cur != 0 && (s.chosenStrand h).isNone)) then .fail
  else if !mine.isEmpty && mine.all (fun h => h.mode == 3 && h.cur == 0) then .finish
  else .none

/-- The next thing to do for a chosen queue (R334, R335). -/
def State.moveFor (s : State) (p q : Nat) : Move :=
  match (s.part p).deadline with
  | none => .none
  | some d => match d.picks.find? (·.1 == q) with
    | none => .none
    | some (_, ch, stage) =>
      let k := s.queue q
      let units := (s.unitsOf q).filterMap id
      if stage = 0 then
        let stop := ch == .checkpoint || d.stopped
        if d.hurry.contains q || (s.startedOf q).isEmpty || (stop && units.isEmpty) then (if k.chainOn then .start else .fail)
        else if !stop then .none
        else if k.saveOn then (if units.any (fun c => (s.core c).preempt.isNone) then .preempt else .none)
        else if k.discard then .discard
        else .none
      else if stage = 1 then s.chosenMove q
      else .none

/-- DEADLINE_CHAIN_START: a deadline goes on with a chosen queue: it discards or pre-empts it, starts its chain, counts
its pages as freed, or is abandoned (R334, R335). -/
def execDeadlineChainStart (part queue : Nat) (s : State) : Out :=
  match s.moveFor part queue with
  | .none => .next s
  | .discard => .next (((s.discardQueue queue).freedOf part queue).setStage part queue 2 |>.meet part)
  | .preempt => .next (s.preemptQueue queue)
  | .start => .next (s.startChosen part queue)
  | .finish => .next ((((s.dropChosen (·.queue == queue)).freedOf part queue).setStage part queue 2).meet part)
  | .fail => .next (s.abandon part)

/-! ### Allowances (R271) -/

/-- Whether a refill is due. -/
def State.mayRefill (s : State) : Bool := decide (s.hub.refillAt < s.time / 1000)

/-- A register after so many refills. -/
def Allow.refilled (a : Allow) (n : Nat) : Allow :=
  { a with balance := min (a.balance + (n * a.refill : Nat)) (2 * a.refill : Nat) }

/-- ALLOWANCE_REFILL: every balance is refilled for each tick that is a multiple of 1,000 (R271). -/
def execAllowanceRefill (s : State) : Out :=
  let n := s.time / 1000 - s.hub.refillAt
  let t := s.each s.parts (fun s e => s.setPart e.1 { e.2 with allow := e.2.allow.map (·.refilled n) })
  event s s.mayRefill { t with hub := { t.hub with refillAt := s.time / 1000 } }

end Sys2Proof.Machine
end

