-- ==== Sys2Proof/Machine/Save.lean ====
section
/-!
DEFINITION. Saving and loading contexts and cores: the save area (R320, R321), `ctxsave` and `ctxload` (R294, R295),
pre-emption and resumption (R109, R212, R318, R319).
-/

namespace Sys2Proof.Machine

/-! ### The layout (R320, R321) -/

/-- Whether a core's interface holds a queue message for a context of it: only control contexts have them (R254). -/
def State.holdsMsg (s : State) (c x : Nat) (m : XMsg) : Bool :=
  x == 0 && m.stage == 1 && m.target == c && m.line.isNone && s.controlOf c m.unit == .here 0

/-- Whether a core's interface holds a completion item or a user interrupt for a context of it. -/
def State.holdsPost (s : State) (c x : Nat) (p : Post) : Bool := p.atCore && !p.spilled && p.core == c && s.postAt p == .here x

/-- A message of a completion as a save area holds it: the item, or the interrupt as one that is pending (R320; assumption 52). -/
def Post.value (p : Post) : Nat := p.item.getD ((p.irq.map (fun u => u.xfer * 2 ^ 48 + u.handler)).getD 0)

/-- The messages that a core's interface holds for a context, in arrival order: what a save spills, at most the 4 that its channel
has credits for (R270, R320). -/
def State.spilled (s : State) (c x : Nat) : List Nat :=
  ((sortBy (fun (a b : Nat × Nat) => decide (a.1 ≤ b.1))
    ((s.xnet.filter (s.holdsMsg c x)).map (fun m => (m.came, m.val.toNat))
      ++ (s.posts.filter (s.holdsPost c x)).map (fun p => (p.came, p.value)))).map (·.2)).take 4

/-- A record of fields at offsets, each with its bytes and value. -/
def layout (fs : List (Nat × Nat × Nat)) : Nat := fs.foldl (fun a f => a + f.2.2 % 256 ^ f.2.1 * 256 ^ f.1) 0

/-- Bytes of a save area, without or with its core part. -/
def areaBytes (core : Bool) : Nat := if core then 0x1C800 else 0x3000

/-- sr.cctl of a context (R290). -/
def Ctx.cctl (k : Ctx) : Nat := b2n k.grant * 128 + b2n k.uiHold * 64 + k.level % 4

/-- A register file of so many bytes each, at an offset. -/
def fileAt (o n : Nat) (vs : List Nat) : List (Nat × Nat × Nat) := vs.zipIdx.map (fun e => (o + n * e.2, n, e.1))

/-- The context part of an area, its CRC zero; resume is where the context goes on. -/
def State.ctxPart (s : State) (c x : Nat) (core : Bool) (resume : Nat) : Nat :=
  let k := s.ctx c x
  let q (i : Nat) : List QItem := k.q.toList.getD i []
  let counts := packB ((List.range 4).map (fun i => (2, (q i).length)))
  let widths := packB ((List.range 4).map (fun i => (2, (q i).zipIdx.foldl (fun a e => a + b2n e.1.wide * 2 ^ e.2) 0)))
  layout ([(0, 4, 0x56430001), (4, 1, x), (5, 1, b2n core), (6, 2, c), (8, 1, s.partOf c), (9, 1, dieOf c), (0x10, 8, s.time),
      (0x40, 8, resume), (0x48, 8, k.cctl), (0x50, 8, k.xlat.toNat), (0x58, 8, k.uirqpc.toNat), (0x60, 8, k.uirqxfer.toNat),
      (0x68, 8, k.trapcause.toNat), (0x70, 8, k.trappc.toNat), (0x78, 8, k.trapdetail.toNat), (0x80, 8, k.trapjrn.toNat),
      (0x88, 8, k.ovt.toNat),
      (0x90, 8, k.tagCtr % 256 + k.fseq % 65536 * 2 ^ 16 + k.claims.length * 2 ^ 32 + b2n k.ticket.isSome * 2 ^ 40),
      (0x98, 8, k.ticket.getD 0), (0xA0, 8, counts), (0xA8, 8, widths), (0xB0, 8, (s.spilled c x).length % 8 + k.irqs.length * 256)]
    ++ fileAt 0x100 8 (k.s.toList.map (·.toNat)) ++ fileAt 0x200 64 (k.v.toList.map (·.toNat))
    ++ fileAt 0x600 8 (k.p.toList.map (·.toNat)) ++ fileAt 0x640 8 (k.claims.map (fun e => e.1 + b2n e.2))
    ++ fileAt 0x740 8 (k.irqs.map (fun u => u.xfer * 2 ^ 48 + u.handler))
    ++ (List.range 4).flatMap (fun i => fileAt (0x800 + 1024 * i) 64 ((q i).map (·.val.toNat)))
    ++ fileAt 0x1800 64 (s.spilled c x)
    ++ (if x = 0 then fileAt 0x2000 512 ((s.core c).d.toList.map Dist.image) else []))

/-- The tile map as the head of the command queue finds it: a name that a queued `mzero` renames is as it was. -/
def Core.headTiles (k : Core) : List Tile :=
  (List.range 8).map (fun a =>
    ((k.mq.filterMap (fun m => match m.op with
      | .mzero b prev _ => if a = b then some prev else none
      | _ => none)).head?).getD (k.tiles.toList.getD a Tile.reset))

/-- Loads of one kind of panel that stand in the queue. -/
def Core.queuedLoads (k : Core) (isA : Bool) : Nat :=
  (k.mq.filter (fun m => match m.op with | .mld a .. => a == isA | _ => false)).length

/-- Overflow table of a queued epilogue, scale codes of a queued `mscale`. -/
def MOp.table : MOp → Nat
  | .mepi _ e => e.ovt
  | _ => 0

/-- Scale codes of a queued command as 64 bytes. -/
def MOp.scales : MOp → Nat
  | .mscale _ _ rows cols => packB ((rows ++ cols).map (fun v => (1, v)))
  | _ => 0

/-- K-steps of the head command already applied. -/
def Core.headStep (k : Core) : Nat := match k.mq with
  | m :: _ => (match m.op with | .mmac _ _ _ _ _ st => st | _ => 0)
  | [] => 0

/-- The core part of an area (R321). -/
def State.corePart (s : State) (c : Nat) : Nat :=
  let k := s.core c
  let ts := k.headTiles
  let la := if k.queuedLoads true % 2 = 0 then k.curA else 1 - k.curA
  let lb := if k.queuedLoads false % 2 = 0 then k.curB else 1 - k.curB
  let loaded := (k.bufs.toList.zipIdx.foldl (fun a e => a + b2n e.1.isSome * 2 ^ e.2) 0) + la * 16 + lb * 32
  let held (p : Nat) : Bool := match Tab.get? k.epis p with | some e => e.faulted | none => false
  let saved (p : Nat) : Bool := ts.any (fun t => t.valid && t.phys == p) || held p
  let elems (p : Nat) : List Nat := (Tab.getD k.phys p { elems := List.replicate 1024 0, kidx := 0 }).elems
  let kidx (p : Nat) : Nat := (Tab.getD k.phys p { elems := [], kidx := 0 }).kidx
  layout (k.bufs.toList.zipIdx.flatMap (fun e => match e.1 with
      | some b => [(0x3000 + 16 * e.2, 8, b.ptr), (0x3008 + 16 * e.2, 8, b.shape)]
      | none => [])
    ++ [(0x3040, 8, loaded), (0x3048, 8, k.headStep + k.mq.length * 2 ^ 16)]
    ++ (List.range 32).map (fun n => (0x3080 + 2 * n, 2, match Tab.get? k.slots n with
      | some b => b + b2n (k.frozen.contains n) * 2 ^ 14 + 2 ^ 15
      | none => 0))
    ++ fileAt 0x3100 8 (ts.map (fun t => if t.valid then
        t.phys + 2 ^ 8 + b2n t.dirty * 2 ^ 9 + t.ty * 2 ^ 12 + kidx t.phys % 2048 * 2 ^ 16 else 0))
    ++ fileAt 0x3140 8 ((List.range 24).map (fun p => b2n (saved p) + b2n (held p) * 2))
    ++ k.mq.zipIdx.flatMap (fun e => [(0x3200 + 64 * e.2, 12, e.1.word), (0x320C + 64 * e.2, 2, e.1.op.table),
        (0x3210 + 64 * e.2, 16, e.1.ops), (0x1C000 + 64 * e.2, 64, e.1.op.scales)])
    ++ (k.epis.filter (fun e => e.2.faulted)).flatMap (fun e =>
        let o := 0x3A00 + 32 * e.1
        [(o, 8, e.2.dst), (o + 8, 1, e.2.row), (o + 9, 1, e.2.ty.code.toNat), (o + 10, 1, e.2.mode.code.toNat + b2n e.2.sat * 4),
          (o + 12, 2, e.2.ovt), (o + 16, 8, e.2.pc)])
    ++ ((List.range 24).filter saved).map (fun p => (0x4000 + 0x1000 * p, 4096, packB ((elems p).map (fun v => (4, v))))))

/-- A whole area with its CRC-32C. -/
def State.area (s : State) (c x : Nat) (core : Bool) (resume : Nat) : Nat :=
  let v := s.ctxPart c x core resume + (if core then s.corePart c else 0)
  v + crc32c (bytesOf (areaBytes core) v) * 256 ^ 0x3C

/-- Whether an area is valid for a context number (R295, R320): identifier, number, core part, zero fields, CRC. -/
def areaOk (v x : Nat) (core : Bool) : Bool :=
  let zero (o n : Nat) : Bool := fieldB v o n == 0
  fieldB v 0 4 == 0x56430001 && fieldB v 4 1 == x && fieldB v 5 1 == b2n core && zero 0xA 6 && zero 0x18 36 && zero 0xB8 72
    && zero 0x7C0 64 && zero 0x1900 1792 && (x == 0 || zero 0x2000 4096)
    && (!core || (zero 0x3050 48 && zero 0x30C0 64 && zero 0x3D00 768))
    && crc32c (bytesOf (areaBytes core) (v % 256 ^ areaBytes core - fieldB v 0x3C 4 * 256 ^ 0x3C)) == fieldB v 0x3C 4

/-! ### Leaving a core -/

/-- Whether a context holds grants that its transaction has not given back, and is not in its TX_HOLD handler (R189). -/
def Ctx.holdsGrants (k : Ctx) : Bool :=
  k.ticket.isSome && !k.grants.isEmpty && !(k.trapcause.getLsbD 63 && bits k.trapcause.toNat 7 0 == Cause.txHold.code)

/-- Whether a context may be saved now (R147, R189, R294, R303): at a boundary or blocked, its stores acknowledged, no
trap of it pending. A command that it waits for may stay queued where the core part is saved too. -/
def State.mayLeave (s : State) (c x : Nat) (core : Bool) : Bool :=
  let k := s.ctx c x
  (k.atBoundary || (core && (match k.wait with | .matrix _ => true | _ => false))) && k.traps.isEmpty && !k.holdsGrants
    && s.net.all (fun a => !s.owned a c x) && s.xnet.all (fun m => !(m.src == c && m.ctx == x))
    && (s.core c).commit.all (·.ctx != x) && (s.core c).loads.all (fun l => l.ctx != x || l.val.isSome || l.poison.isSome)
    && !k.rbTrap && !s.rollingBack c

/-- Whether the matrix unit has drained what a save does not hold (R109): no epilogue running, under way in the queue or not
acknowledged, no status read queued, and one faulted record to a tile (assumption 93). -/
def State.unitRests (s : State) (c : Nat) : Bool :=
  (s.core c).epis.all (fun e => e.2.faulted && decide (e.1 < 32))
    && (s.core c).mq.all (fun m => (match m.op with | .mstat .. => false | _ => true) && !(m.begun && ((s.core c).epiOf m).isSome))
    && s.net.all (fun a => !(a.core == c && a.path == .mx))

/-- Where a context goes on: after a command that it waits for, else at its instruction (R109, R259). -/
def Ctx.resumeAt (k : Ctx) : Nat := match k.wait with
  | .matrix _ => (k.pc + 12) % 2 ^ 48
  | _ => k.pc

/-- The registers of the local loads of a context written before its save. -/
def State.settleLoads (s : State) (c x : Nat) : State :=
  let k := s.core c
  let mine := k.loads.filter (fun l => l.ctx == x && l.poison.isNone)
  let s := s.setCore c { k with loads := k.loads.filter (fun l => l.ctx != x || l.poison.isSome) }
  s.each mine (fun s l => s.writeReg c l.ctx l.reg l.ty (l.val.getD 0))

/-- The draining banks that the queued commands of a core still use (R163). -/
def State.drainHolds (s : State) (c : Nat) : List Nat :=
  s.liveBanks.filter (fun b => let h := s.hitch b; h.st == .draining && h.holder == c && s.mxTouches c h.slot h.order)

/-- A context switched out into an area (of a save at base, or named by a program: 0), the core part with it or not: no longer live,
its grants kept by its core, the messages that its interface held spilled (R157, R212, R270, R294). -/
def State.switchOut (s : State) (c x base : Nat) (unit : Bool) : State :=
  let k := s.ctx c x
  let s : State := { s with xnet := s.xnet.map (fun m => if s.holdsMsg c x m then { m with stage := 2 } else m)
                            posts := s.posts.map (fun p => if s.holdsPost c x p then { p with spilled := true } else p) }
  let stamps := if unit then (s.core c).mq.map (·.id) else []
  let holds := if unit then s.drainHolds c else []
  let s := s.setCtx c x { k with live := false, stopReq := false, wait := .none, ticket := none, claims := [], grants := [], irqs := []
                                 q := .replicate 4 [] }
  let core := s.core c
  let t := match k.ticket with
    | some t =>
      let more := (k.lostDies.eraseDups).foldl (fun a d => a + 2 ^ (64 + d)) (b2n k.txOpen * 2 ^ 72)
      Tab.put core.grantTable k.born ((t + more) :: k.lastGrant :: k.grants)
    | none => core.grantTable
  let o : Away := { ctx := x, born := k.born, slot := k.trapSlot, unit := if k.inUnit then core.unit else none, invs := k.invs, base := base
                    poison := core.loads.filter (·.ctx == x), stamps := stamps, holds := holds }
  s.setCore c { core with out := core.out ++ [o], grantTable := t, loads := core.loads.filter (·.ctx != x) }

/-- The core part gone from the core: its buffers, commands and tiles are in the area (R109). -/
def State.clearUnit (s : State) (c : Nat) : State :=
  s.setCore c { s.core c with mq := [], bufs := .replicate 4 none, tiles := .replicate 8 Tile.reset, phys := [], epis := []
                              refetch := false, parity := 0, unitStop := false }

/-! ### Coming back -/

/-- The context of an area (R320); what the registers reserve reads as zero (R4), and the overflow table is what its word's bits 11:0
hold, rows that R47 refuses for `ovtld` too (assumption 110). -/
def ctxOf (v born : Nat) : Ctx :=
  let w (o : Nat) : Word := BitVec.ofNat 64 (fieldB v o 8)
  let n (i : Nat) : Nat := fieldB v (0xA0 + 2 * i) 2
  let items (i : Nat) : List QItem := (List.range (min 16 (n i))).map (fun j =>
    { wide := bit (fieldB v (0xA8 + 2 * i) 2) j, val := BitVec.ofNat 512 (fieldB v (0x800 + 1024 * i + 64 * j) 64) })
  let flags := fieldB v 0x90 8
  let cctl := fieldB v 0x48 8
  { Ctx.reset with
    live := true, born := born, pc := fieldB v 0x40 8 % 2 ^ 48, level := cctl % 4, grant := bit cctl 7, uiHold := bit cctl 6
    s := Vector.ofFn (fun (i : Fin 32) => w (0x100 + 8 * i)), v := Vector.ofFn (fun (i : Fin 16) => BitVec.ofNat 512 (fieldB v (0x200 + 64 * i) 64))
    p := Vector.ofFn (fun (i : Fin 8) => w (0x600 + 8 * i))
    q := #v[items 0, items 1, items 2, items 3]
    ovt := BitVec.ofNat 12 (fieldB v 0x88 8), tagCtr := flags % 256, fseq := flags / 2 ^ 16 % 65536
    claims := (List.range (min 32 (bits flags 37 32))).map (fun i => let c := fieldB v (0x640 + 8 * i) 8; (c / 2 * 2, bit c 0))
    ticket := if bit flags 40 then some (fieldB v 0x98 8) else none
    xlat := w 0x50 &&& 0xFFFCFFFFFFFFF000#64, uirqpc := w 0x58, uirqxfer := w 0x60 &&& 0xFFFF#64
    trapcause := w 0x68 &&& 0x8000000000000FFF#64, trappc := w 0x70, trapdetail := w 0x78, trapjrn := w 0x80 &&& 0x3F#64
    irqs := (List.range (min 16 (fieldB v 0xB1 1 % 32))).map (fun i =>
      let u := fieldB v (0x740 + 8 * i) 8
      { xfer := u / 2 ^ 48, handler := u % 2 ^ 48 }) }

/-- The context that a core has switched out into an area: of the save at base, where one is named, and with the ticket that the area
names; one of unit u before others (assumption 42). -/
def State.awayOf (s : State) (from_ x : Nat) (base : Option Nat) (v : Nat) (u : Option (Nat × Nat)) : Option Away :=
  let k := s.core from_
  let ticket (o : Away) : Option Nat := ((Tab.get? k.grantTable o.born).bind List.head?).map (· % 2 ^ 64)
  let named := if bit (fieldB v 0x90 8) 40 then some (fieldB v 0x98 8) else none
  let os := k.out.filter (fun o => o.ctx == x && base.all (o.base == ·) && ticket o == named)
  (os.find? (·.unit == u)).or os.head?

/-- Work and messages of a context follow it to another core; with a control context go those of its unit (R270, R319). -/
def State.moveWork (s : State) (from_ c x born : Nat) (u : Option (Nat × Nat)) : State :=
  if from_ = c then s
  else
    let mine (k b : Nat) (w : Option (Nat × Nat)) : Bool := k == from_ && (b == born || (x == 0 && u.isSome && w == u))
    let work (w : Work) : Work := if mine w.core w.born w.unit then { w with core := c } else w
    { s with
      chains := s.chains.map (fun h => if h.mode == 0 && mine h.core h.born h.unit then { h with core := c } else h)
      posts := s.posts.map (fun p => if mine p.core p.born p.unit then { p with core := c } else p)
      gathers := s.gathers.map work, colls := s.colls.map work
      xnet := s.xnet.map (fun m => if x == 0 && m.target == from_ && m.line.isNone && m.unit == u then { m with target := c } else m) }

/-- A message of a completion with the value that a save area holds for it. -/
def Post.withValue (p : Post) (v : Nat) : Post :=
  { p with item := p.item.map (fun _ => v % 2 ^ 64), irq := p.irq.map (fun _ => { xfer := bits v 63 48, handler := v % 2 ^ 48 }), spilled := false }

/-- The messages spilled for a context stand first at its interface again, in arrival order, as its area holds them (R270); what a
control context's area holds beyond them goes into q4 while it has room (assumption 52). -/
def State.unspill (s : State) (c x v : Nat) (u : Option (Nat × Nat)) : State :=
  let vals := (List.range (min 4 (fieldB v 0xB0 1 % 8))).map (fun j => fieldB v (0x1800 + 64 * j) 64)
  let msg (m : XMsg) : Bool := x == 0 && m.stage == 2 && m.target == c && m.unit == u
  let post (p : Post) : Bool := p.spilled && p.core == c && s.postAt p == .here x
  let order := sortBy (fun (a b : Nat) => decide (a ≤ b)) ((s.xnet.filter msg).map (·.came) ++ (s.posts.filter post).map (·.came))
  let val (came old : Nat) : Nat := vals.getD (order.idxOf came) old
  let back := (s.xnet.filter msg).map (fun m => { m with stage := 1, val := BitVec.ofNat 512 (val m.came m.val.toNat) })
  let s : State := { s with xnet := back ++ s.xnet.filter (fun m => !msg m)
                            posts := s.posts.map (fun p => if post p then p.withValue (val p.came p.value) else p) }
  if x = 0 then
    let more : List QItem := (vals.drop order.length).map (fun v => { wide := true, val := BitVec.ofNat 512 v })
    let k := s.ctx c 0
    s.setCtx c 0 { k with q := k.q.set 0 ((k.q[0] ++ more).take 16) }
  else s

/-- A context of an area live again on a core, with what the core it left has kept for it (R212, R247, R295, R297); u is the
unit that it joins where that core knows nothing of it. A held grant makes the step non-rollbackable (R214). -/
def State.switchIn (s : State) (from_ c x v : Nat) (base : Option Nat) (u : Option (Nat × Nat)) : State :=
  let k := s.core from_
  let mine := s.awayOf from_ x base v u
  let born := (mine.map (·.born)).getD s.nonce
  let unit := match mine with
    | some o => o.unit
    | none => u
  let f := s.freshCtx c
  let n : Ctx := { ctxOf v born with
    inUnit := unit.isSome && unit == (s.core c).unit, sel := f.sel, code := f.code
    trapSlot := mine.bind (·.slot), invs := (mine.map (·.invs)).getD [] }
  let n : Ctx := match Tab.getD k.grantTable born [] with
    | t :: last :: g => { n with grants := g, lastGrant := last, txOpen := bit t 72, lostDies := (List.range 8).filter (fun d => bit t (64 + d)) }
    | _ => n
  let s := s.fresh.2.setCore from_ { k with out := k.out.filter (·.born != born), grantTable := Tab.drop k.grantTable born }
  let s := (s.moveWork from_ c x born unit).setCtx c x n
  let s := if n.grants.isEmpty then s else s.noRoll c
  let s := s.unspill c x v unit
  let s := s.setCore c { s.core c with loads := (s.core c).loads ++ (mine.map (·.poison)).getD [] }
  if x = 0 then s.setCore c { s.core c with d := Vector.ofFn (fun (i : Fin 8) => distOf (fieldB v (0x2000 + 512 * i) 512)) } else s

/-- The context that waits for a restored command: the one that stands just behind its word, else the control context
(R109). -/
def State.ownerOf (s : State) (c word : Nat) : Nat :=
  let hit (x : Nat) : Bool :=
    let k := s.ctx c x
    k.live && k.wait == .none && (match s.bulkRead { stamp := s.nonce, core := c, part := s.partOf c, vdev := s.vdevOf c, xlat := k.xlat.toNat, level := 1 }
        (k.pc - 12) 12 with
      | .ok r => r.1 == word
      | .error _ => false)
  ((Tab.keys (s.core c).ctxs).find? hit).getD 0

/-- A context put back on the command that it waits for. -/
def State.waitOn (s : State) (c x id : Nat) : State :=
  let k := s.ctx c x
  s.setCtx c x { k with pc := (k.pc + 2 ^ 48 - 12) % 2 ^ 48, wait := .matrix id, finish := some 0 }

/-- A command of an area queued again (R109, R321), under its number where its core has kept it: tbl is the overflow table of an
epilogue, scales the scale codes. What cannot be read now is read, or faults, in the command's turn. -/
def State.requeue (s : State) (c : Nat) (stamp : Option Nat) (word o1 o2 tbl scales start : Nat) : State :=
  let k := s.core c
  let id := stamp.getD s.nonce
  let x := s.ownerOf c word
  let t := s.ctx c x
  let put (s : State) (op : MOp) : State :=
    let m : MCmd := { id := id, ctx := x, born := t.born, pc := (t.pc + 2 ^ 48 - 12) % 2 ^ 48, word := word
                      ops := packB [(8, o1), (8, o2)], op := op }
    s.fresh.2.setCore c { s.core c with mq := (s.core c).mq ++ [m] }
  let tile (a : Nat) : Tile := k.tiles.toList.getD a Tile.reset
  let g : Agent := { stamp := id, core := c, part := s.partOf c, vdev := s.vdevOf c, xlat := t.xlat.toNat, level := t.level }
  let soil (a ty : Nat) : State :=
    s.setCore c { k with tiles := k.tiles.setIfInBounds a { k.tiles.toList.getD a Tile.reset with dirty := true, ty := ty } }
  let mld (isA : Bool) (y : OpMld) : State :=
    let b := if isA then 1 - k.curA else 2 + (1 - k.curB)
    let r := match s.readShape g o2 with | .ok r => r.1 | .error _ => 0
    let s := s.setCore c (if isA then { k with curA := 1 - k.curA } else { k with curB := 1 - k.curB })
    (put s (.mld isA b ((displace o1 y.disp.toInt).getD 0) o2 r t.xlat.toNat t.level)).waitOn c x id
  match decode (BitVec.ofNat 96 word) with
  | some (.mldA _ y) => mld true y
  | some (.mldB _ y) => mld false y
  | some (.mzero _ a) => match k.freeTile with
    | none => s
    | some p =>
      put (s.setCore c { k with
        tiles := k.tiles.setIfInBounds a.toNat { valid := true, dirty := false, phys := p, ty := 0 }
        phys := Tab.put k.phys p { elems := List.replicate 1024 0, kidx := 0 } }) (.mzero a.toNat (tile a.toNat) p)
  | some (.mmac _ y) =>
    put (soil y.a.toNat (if y.ty = .i8 then 2 else 1)) (.mmac (tile y.a.toNat).phys y.ty k.curA (2 + k.curB) none start)
  | some (.mmacSp _ y) =>
    let t := put (soil y.a.toNat (if y.ty = .i8 then 2 else 1)) (.mmac (tile y.a.toNat).phys y.ty k.curA (2 + k.curB) (some []) start)
    t.setCore c { t.core c with refetch := true }
  | some (.mscale _ y) =>
    let code (i : Nat) : Nat := fieldB scales i 1
    put (soil y.a.toNat 1) (.mscale (tile y.a.toNat).phys (tile y.b.toNat).phys ((List.range 32).map code) ((List.range 32).map (fun i => code (32 + i))))
  | some (.mepi _ y) =>
    put s (.mepi (tile y.a.toNat).phys
      { ctx := x, born := t.born, dst := (displace o1 (dispBytes y.ty y.disp)).getD 0, row := 0, ty := y.ty
        tileTy := (tile y.a.toNat).ty, mode := y.rnd, sat := y.sat, ovt := tbl, pc := (t.pc + 2 ^ 48 - 12) % 2 ^ 48
        xlat := t.xlat.toNat, level := t.level, faulted := false, trapped := none })
  | some (.mrepl _ _) => (put s (.mrepl (bits o1 4 0) (bit o1 31))).waitOn c x id
  | some (.mswz _ y) =>
    let pkg := match s.resolve c o1 with
      | some (.win slot off) => if off % 4096 != 0 then 12288 else (s.bankFor c c slot id).toOption.getD 12288
      | _ => 12288
    (put s (.mswz pkg (bits o1 15 12) y.code.toNat)).waitOn c x id
  | some (.mstat _ y) => put s (.mstat y.a.toNat (tile y.b.toNat))
  | _ => s

/-- The core part of an area put back (R109, R321), its commands under the numbers that their core has kept; buffers are to be
refetched. -/
def State.loadUnit (s : State) (c v : Nat) (stamps : List Nat) : State :=
  let loaded := fieldB v 0x3040 8
  let buf (i : Nat) : Option Panel :=
    if bit loaded i then some { fmt := .i8, k := 0, lines := [], hdrs := [], ptr := fieldB v (0x3000 + 16 * i) 8, shape := fieldB v (0x3008 + 16 * i) 8 }
    else none
  let name (a : Nat) : Tile :=
    let w := fieldB v (0x3100 + 8 * a) 8
    if bit w 8 then { valid := true, dirty := bit w 9, phys := bits w 4 0, ty := bits w 13 12 } else Tile.reset
  let kidx (p : Nat) : Nat :=
    (((List.range 8).filter (fun a => (name a).valid && (name a).phys == p)).map (fun a => bits (fieldB v (0x3100 + 8 * a) 8) 26 16)).headD 0
  let flag (p : Nat) : Nat := fieldB v (0x3140 + 8 * p) 8
  let k := s.core c
  let tyOf (p : Nat) (t : ETy) : Nat :=
    match ((List.range 8).map name).find? (fun t => t.valid && t.phys == p) with
    | some t => t.ty
    | none => if t.isInt then 2 else 1
  let s := s.setCore c { k with
    bufs := Vector.ofFn (fun (i : Fin 4) => buf i), curA := b2n (bit loaded 4), curB := b2n (bit loaded 5), parity := 0
    refetch := loaded % 16 != 0, refetchFailed := false, mq := [], tiles := Vector.ofFn (fun (i : Fin 8) => name i)
    phys := ((List.range 24).filter (fun p => bit (flag p) 0)).map (fun p =>
      (p, { elems := (List.range 1024).map (fun i => fieldB v (0x4000 + 0x1000 * p + 4 * i) 4), kidx := kidx p }))
    epis := ((List.range 24).filter (fun p => bit (flag p) 1)).map (fun p =>
      let o := 0x3A00 + 32 * p
      let t := (ETy.ofIdx (fieldB v (o + 9) 1)).getD .f32
      (p, { ctx := 0, born := (s.ctx c 0).born, dst := fieldB v o 8, row := fieldB v (o + 8) 1, ty := t, tileTy := tyOf p t
            mode := RMode.ofCode (BitVec.ofNat 2 (fieldB v (o + 10) 1 % 4)), sat := bit (fieldB v (o + 10) 1) 2
            ovt := fieldB v (o + 12) 2, pc := fieldB v (o + 16) 8, xlat := (s.ctx c 0).xlat.toNat, level := (s.ctx c 0).level
            faulted := true, trapped := none })) }
  let n := min 32 (bits (fieldB v 0x3048 8) 21 16)
  s.each (List.range n) (fun s i =>
    let o := 0x3200 + 64 * i
    s.requeue c stamps[i]? (fieldB v o 12) (fieldB v (o + 16) 8) (fieldB v (o + 24) 8) (fieldB v (o + 12) 2) (fieldB v (0x1C000 + 64 * i) 64)
      (if i = 0 then bits (fieldB v 0x3048 8) 15 0 else 0))

/-! ### Banks that a core part names (R274, R295, R319) -/

/-- The hitched slots of a core part: slot and bank. -/
def areaSlots (v : Nat) : List (Nat × Nat) :=
  ((List.range 32).filter (fun n => bit (fieldB v (0x3080 + 2 * n) 2) 15 && !bit (fieldB v (0x3080 + 2 * n) 2) 14)).map
    (fun n => (n, bits (fieldB v (0x3080 + 2 * n) 2) 13 0))

/-- Whether the banks of a core part may come along to a core (R274, R319). -/
def State.banksCome (s : State) (from_ c v : Nat) : Bool :=
  (areaSlots v).all (fun e =>
    s.hub.displaced.all (fun p => p.1 != e.2) && (from_ == c || (
      let h := s.hitch e.2
      h.st == .hitched && h.holder == from_ && h.slot == e.1 && reachable e.2 c)))

/-- What of the banks in flight goes from a core with a unit: those that it has sent or waits for, and what it knows of those that it
has sent (R319). -/
def State.moveFlights (s : State) (from_ c : Nat) (u : Option (Nat × Nat)) : State :=
  let flying (h : Hitch) : Bool := h.st == .draining || h.st == .transit || h.st == .returning
  let mine (h : Hitch) : Bool := flying h && h.holder == from_ && h.owner == u
  let sent (e : Nat × Outb) : Bool := (s.core from_).unit.isNone || mine (s.hitch e.2.pkg)
  let os := (s.core from_).outb
  let s := s.setCore from_ { s.core from_ with outb := os.filter (fun e => !sent e) }
  let s := (os.filter sent).foldl (fun s e => s.setCore c { s.core c with outb := Tab.put (s.core c).outb e.1 e.2 }) s
  s.each s.liveBanks (fun s b =>
    let h := s.hitch b
    let h := if mine h then { h with holder := c } else h
    s.setHitch b (if h.st == .transit && h.target == from_ && h.dest == u then { h with target := c } else h))

/-- The banks of a core part in the slots of the core that comes back: the hitches of another core are rewritten to it at the same
slots, and banks in flight from and towards the unit u are readdressed (R319; assumption 114). A bank that comes back leaves its old
place (R274). -/
def State.moveBanks (s : State) (from_ c v : Nat) (u : Option (Nat × Nat)) : State :=
  let s := s.each (areaSlots v) (fun s e =>
    let s := s.unplace e.2
    let h := s.hitch e.2
    if h.st != .hitched || h.holder != from_ || h.slot != e.1 then s
    else
      let s := if from_ != c && s.slotBank from_ e.1 == some e.2 then s.emptySlot from_ e.1 else s
      let s := s.setHitch e.2 { h with holder := c }
      s.setCore c { s.core c with slots := Tab.put (s.core c).slots e.1 e.2 })
  if from_ = c then s else s.moveFlights from_ c u

/-- A switched-out unit of a launch on a core again (R259, R318, R319). -/
def State.unpark (s : State) (l : Launch) (p : Parked) (c : Nat) : State :=
  let k := s.core c
  let s := s.setCore c { k with
    unit := some (l.queue, l.seq), rank := p.rank, team := l.team, ringIn := recRing l.bytes 30, ringOut := recRing l.bytes 31
    reos := p.reos, released := p.released, arrived := p.arrived, barDone := p.barDone, dead := false, last := 15
    record := p.record, heir := p.heir }
  s.setLaunch { l with cores := l.cores.set p.rank c, parked := l.parked.filter (·.rank != p.rank) }

/-! ### ctxsave and ctxload (R294, R295) -/

/-- Whether a selector keeps its reserved bits zero. -/
def selectorOk (w : Nat) : Bool := bits w 62 4 == 0

/-- Nothing stops for a save any more: the context that it was of, and the matrix unit. -/
def State.letGo (s : State) (c n : Nat) : State :=
  let s := if (s.ctx c n).stopReq then s.setCtx c n { s.ctx c n with stopReq := false } else s
  if (s.core c).unitStop then s.setCore c { s.core c with unitStop := false } else s

/-- The context that is to be saved stops at its boundary, and with it the matrix unit (R109, R294). -/
def State.askStop (s : State) (c n : Nat) (core : Bool) : State :=
  let s := s.setCtx c n { s.ctx c n with stopReq := true }
  if core then s.setCore c { s.core c with unitStop := true } else s

/-- A context saved into an area (R294); the target stops first. -/
def execCtxsave (h : Hdr) (x : OpBC) (s : State) : Out :=
  issue h (fun _ => { level := 1 }) (fun s =>
    let c := s.cur
    let sel := (s.me.rs x.b).toNat
    let p := (s.me.rs x.c).toNat
    let n := sel % 16
    let core := bit sel 63
    let others := (Tab.keys (s.core c).ctxs).any (fun y => y != n && y != s.curCtx && (s.ctx c y).live)
    let s := s.letGo c n
    if !selectorOk sel || n == s.curCtx || !(s.ctx c n).live || (core && others) then s.raise .illegal
    else if bits p 63 48 != 0 then s.raiseAt p .illegalPointer
    else if p % 4096 != 0 then s.raiseAt p .misalign
    else s.withPages p (areaBytes core) 1 s.me.xlat.toNat s.me.level (fun _ _ =>
      s.firm (if s.ownWaits p (areaBytes core) 1 then .hold
      else if !(s.mayLeave c n core && (!core || s.unitRests c)) then .wait (s.askStop c n core)
      else
        let s := s.settleLoads c n
        match s.bulkWrite s.self p (areaBytes core) (s.area c n core (s.ctx c n).resumeAt) with
        | .error t => s.trip t
        | .ok s =>
          let s := s.switchOut c n 0 core
          .done (if core then s.clearUnit c else s)))) s

/-- Whether a tile of a core is valid or held. -/
def Core.tilesBusy (k : Core) : Bool := k.tiles.toList.any (·.valid) || !k.epis.isEmpty

/-- A context restored from an area (R295). -/
def execCtxload (h : Hdr) (x : OpBC) (s : State) : Out :=
  issue h (fun _ => { level := 1 }) (fun s =>
    let c := s.cur
    let sel := (s.me.rs x.b).toNat
    let p := (s.me.rs x.c).toNat
    let n := sel % 16
    let core := bit sel 63
    if !selectorOk sel || (s.ctx c n).live || (core && s.mycore.tilesBusy) then s.raise .illegal
    else if bits p 63 48 != 0 then s.raiseAt p .illegalPointer
    else if p % 4096 != 0 then s.raiseAt p .misalign
    else s.withPages p (areaBytes core) 0 s.me.xlat.toNat s.me.level (fun _ _ =>
      s.firm (if s.ownWaits p (areaBytes core) 0 then .hold
      else match s.bulkRead s.self p (areaBytes core) with
      | .error t => s.trip t
      | .ok (v, s) =>
        let from_ := fieldB v 6 2
        let u := if s.me.inUnit then s.mycore.unit else none
        let away := s.awayOf from_ n none v u
        if !areaOk v n core || (bit (fieldB v 0x90 8) 40 && from_ != c && away.isSome) then s.raise .illegal
        else if core && !s.banksCome from_ c v then s.raise .perm
        else
          let s := if core then s.moveBanks from_ c v ((away.map (·.unit)).getD u) else s
          let s := s.switchIn from_ c n v none u
          .done (if core then s.loadUnit c v ((away.map (·.stamps)).getD []) else s)))) s

/-! ### Pre-emption and resumption (R318, R319) -/

/-- Whether a unit has started: a launch that is still being preloaded is not pre-empted before it has (R226, R334). -/
def State.unitBegun (s : State) (c : Nat) : Bool := (s.launchOf c).all (fun l => l.begun && decide ((s.core c).rank < l.preload))

/-- Whether a pre-emption may save its core now. -/
def State.mayPreempt (s : State) (c : Nat) : Bool :=
  (s.core c).preempt.isSome && s.unitRests c && s.unitBegun c
    && (Tab.keys (s.core c).ctxs).all (fun x => !(s.ctx c x).live || s.mayLeave c x true)

/-- Every live context of a core written to its area, and the core free (R318, R319). -/
def State.preemptSave (s : State) (c base : Nat) : State :=
  let xs := (Tab.keys (s.core c).ctxs).filter (fun x => (s.ctx c x).live)
  let s := s.each xs (fun s x => s.settleLoads c x)
  let s := s.each xs (fun s x => s.devWrite (base + x * 0x20000) (areaBytes (x == 0)) (s.area c x (x == 0) (s.ctx c x).resumeAt))
  let k := s.core c
  let s : State := match s.launchOf c with
    | some l => s.setLaunch { l with
        noRoll := true
        parked := l.parked ++ [({ rank := k.rank, core := c, base := base, reos := k.reos, released := k.released
                                  arrived := k.arrived, barDone := k.barDone, record := k.record
                                  banks := k.slots.filter (fun e => !k.frozen.contains e.1), heir := k.heir } : Parked)] }
    | none => s
  let s := (s.each xs (fun s x => s.switchOut c x base (x == 0))).clearUnit c
  s.setCore c { s.core c with unit := none, ringIn := none, ringOut := none, reos := false, released := false, arrived := false
                              barDone := false, preempt := none, frame := none, units := [], ckptTiles := []
                              heir := if k.unit.isSome then none else k.heir, record := if k.unit.isSome then [] else k.record }

/-- PREEMPT_REQUEST: L2 asks for a core (R318); the same event, once the core rests, is its save. -/
def execPreemptRequest (core base : Nat) (s : State) : Out :=
  let k := s.core core
  if k.preempt = some base then event s (s.mayPreempt core) (s.preemptSave core base)
  else event s (k.preempt.isNone && base % 2 ^ 21 == 0 && s.devRange base (2 ^ 21)
      && (Tab.keys k.ctxs).any (fun x => (s.ctx core x).live)) (s.setCore core { k with preempt := some base })

/-- The unit that was saved to a base, and its launch. -/
def State.parkedBy (s : State) (base core : Nat) : Option (Launch × Parked) :=
  s.launches.findSome? (fun l => (l.parked.find? (fun p => p.base == base && p.core == core)).map (fun p => (l, p)))

/-- A core resumed from a base; none where a check fails (R319). -/
def State.resumeCore (s : State) (base c : Nat) : Option State :=
  let at_ (x : Nat) : Nat := s.mem.read (base + x * 0x20000) (areaBytes (x == 0))
  let v := at_ 0
  let from_ := fieldB v 6 2
  let saved := (s.core from_).out.filter (fun o => o.base == base)
  let hs := (saved.map (·.ctx)).filter (· != 0)
  let free := decide (c < 1536) && s.freeCore (fieldB v 8 1) c && !(s.core c).tilesBusy
  let tickets := c == from_ || saved.all (fun o => (Tab.get? (s.core from_).grantTable o.born).isNone)
  let unit := (s.parkedBy base from_).map (fun e => (e.1.queue, e.1.seq))
  if !free || !areaOk v 0 true || !hs.all (fun x => areaOk (at_ x) x false) || !s.banksCome from_ c v || !tickets then none
  else
    let s := (s.clearSlots c).moveBanks from_ c v unit
    let s := match s.parkedBy base from_ with
      | some (l, p) => s.unpark l p c
      | none => s
    let done := (s.core c).barDone
    let stamps := ((saved.find? (·.ctx == 0)).map (·.stamps)).getD []
    let s := s.each (0 :: hs) (fun s x => s.switchIn from_ c x (at_ x) (some base) unit)
    let s := s.loadUnit c v stamps
    some (if done then s.takeFrame c else s)

/-- RESUME_REQUEST: a saved core comes back on a free core of the partition, or the request is refused (R319). -/
def execResumeRequest (base core : Nat) (s : State) : Out := .next ((s.resumeCore base core).getD s)

end Sys2Proof.Machine
end

