-- ==== Sys2Proof/Machine/Sys.lean ====
section
/-!
DEFINITION. Class 0xE: the system registers (R286 to R293, with R159, R221, R222, R224, R239, R262, R265, R271 to R273,
R281, R284, R310, R311, R330), translation control (R296, R297), calls and returns (R298, R299), eviction requests (R300),
wiping and partition membership (R282, R301, R302).
-/

namespace Sys2Proof.Machine

/-! ### Who may read and write a system register (R286, R287) -/

/-- The lowest level whose view of a register is not None; none where the number is unassigned. -/
def sysReadLevel (n : Nat) : Option Nat :=
  let within (a b : Nat) : Bool := decide (a ≤ n) && decide (n ≤ b)
  if [0x000, 0x001, 0x002, 0x008, 0x009, 0x013, 0x181].contains n || within 0x140 0x15F then some 0
  else if [0x003, 0x010, 0x011, 0x012, 0x180].contains n || within 0x100 0x13B || within 0x160 0x163
      || within 0x182 0x18E || within 0x190 0x194 then some 1
  else if within 0x198 0x19F || within 0x1C0 0x1C1 || within 0x200 0x22B then some 2
  else none

/-- The lowest level that may write some field of a register; none where no context may. -/
def sysWriteLevel (n : Nat) : Option Nat :=
  let within (a b : Nat) : Bool := decide (a ≤ n) && decide (n ≤ b)
  if n = 0x008 then some 0
  else if [0x001, 0x003, 0x010, 0x011, 0x181, 0x18B].contains n || within 0x140 0x163 || within 0x191 0x194 then some 1
  else if [0x180, 0x18A, 0x18C, 0x190].contains n || within 0x182 0x189 || within 0x198 0x19F || within 0x200 0x22B then some 2
  else none

/-- The level that a write of a register asks of a context: above every level where no context may write it, and 0 where
the number is unassigned and the write is ILLEGAL (R286). -/
def sysWriteNeed (n : Nat) : Nat := if (sysReadLevel n).isNone then 0 else (sysWriteLevel n).getD 4

/-- Whether a number names a register of a cluster, or of a queue. -/
def sysOfCluster (n : Nat) : Bool := decide (0x100 ≤ n) && decide (n ≤ 0x163)

/-- Whether a number names a register of a queue. -/
def sysOfQueue (n : Nat) : Bool := decide (0x190 ≤ n) && decide (n ≤ 0x194)

/-- Partition that sr.sel selects: its own below L2 (R288). -/
def State.selPart (s : State) : Nat := if 2 ≤ s.me.level then bits s.me.sel.toNat 39 32 else s.partOf s.cur

/-- Cluster that sr.sel selects: its own below L2 (R288). -/
def State.selCluster (s : State) : Nat := if 2 ≤ s.me.level then bits s.me.sel.toNat 23 16 else clusterOf s.cur

/-- Queue that sr.sel selects (R288). -/
def State.selQueue (s : State) : Nat := bits s.me.sel.toNat 12 0

/-! ### What the registers read (R288 to R293) -/

/-- sr.coord (R289). -/
def State.coord (s : State) (c x : Nat) : Nat :=
  s.partOf c * 2 ^ 56 + x * 2 ^ 52 + clusterOf c * 2 ^ 44 + inCluster c * 2 ^ 41 + c * 2 ^ 30 + dieOf c * 2 ^ 28
    + rowOf c * 2 ^ 24 + colOf c * 2 ^ 19

/-- State code of a hitch (R159). -/
def HState.code : HState → Nat
  | .free => 0 | .hitched => 1 | .draining => 2 | .transit => 3 | .returning => 4 | .frozen => 5 | .wiping => 6

/-- A hitch as a word (R159). -/
def Hitch.word (h : Hitch) : Nat :=
  if h.st == .free || h.st == .wiping then h.st.code * 2 ^ 61
  else h.st.code * 2 ^ 61 + h.holder * 2 ^ 50 + h.slot * 2 ^ 45 + (if h.st == .transit then h.target * 2 ^ 34 else 0)

/-- sr.ringcfg (R239). -/
def Ring.word (g : Ring) : Nat :=
  b2n g.enable * 2 ^ 63 + b2n g.wide * 2 ^ 62 + g.cap * 2 ^ 55 + g.high * 2 ^ 48 + g.low * 2 ^ 41 + g.minU * 2 ^ 37
    + g.maxU * 2 ^ 33 + g.queue * 2 ^ 20 + g.items.length * 2 ^ 13 + g.prods % 16 * 2 ^ 9 + b2n g.ended * 2 ^ 8

/-- sr.allow (R271). -/
def Allow.word (a : Allow) : Nat :=
  b2n a.metered * 2 ^ 63 + a.prio * 2 ^ 60 + a.refill * 2 ^ 32 + (BitVec.ofInt 32 a.balance).toNat

/-- sr.trapq (R310). -/
def Part.trapqWord (p : Part) : Nat := b2n p.tqOn * 2 ^ 63 + p.tqFatal.length * 2 ^ 48 + p.tqBase + p.tqHeld.length

/-- The control word of a queue (R221). -/
def WQueue.word (q : WQueue) : Nat :=
  b2n q.enabled * 2 ^ 63 + b2n q.discard * 2 ^ 62 + q.weight * 2 ^ 48 + q.prio * 2 ^ 45 + q.part * 2 ^ 32 + q.job

/-- sr.wqchain (R330). -/
def WQueue.chainWord (q : WQueue) : Nat := b2n q.chainOn * 2 ^ 63 + q.pages.length * 2 ^ 48 + q.chainHead

/-- sr.wqsave (R330). -/
def State.saveWord (s : State) (q : Nat) : Nat :=
  b2n (s.queue q).saveOn * 2 ^ 63 + s.dirtyPages q * 2 ^ 48 + (s.queue q).saveBase

/-- sr.vfctl (R284); while the islands are held at point 0, before Ready, Throttled is 0 as at reset (R280; assumption 100). -/
def Island.word (i : Island) (ready : Bool) : Nat :=
  i.temp * 2 ^ 16 + b2n (ready && decide (i.current < i.request)) * 2 ^ 15 + i.cap * 2 ^ 12 + i.current * 2 ^ 8 + i.request

/-- An island. -/
def State.island (s : State) (n : Nat) : Island := s.hub.islands.toList.getD n Island.reset

/-- A context register as a level sees it (R289 to R292); a field without a view at that level reads 0 (assumption 85). -/
def State.ctxReg (s : State) (n lvl : Nat) : Nat :=
  let k := s.me
  match n with
  | 0x000 => s.coord s.cur s.curCtx
  | 0x001 => k.cctl
  | 0x002 => s.time
  | 0x003 => s.selPart * 2 ^ 32 + s.selCluster * 2 ^ 16 + s.selQueue
  | 0x008 => k.uirqpc.toNat
  | 0x009 => k.uirqxfer.toNat
  | 0x010 => k.trapcause.toNat
  | 0x011 => k.trappc.toNat
  | 0x012 => k.trapdetail.toNat
  | 0x013 => k.trapjrn.toNat
  | 0x181 => if lvl = 0 then xlatAsid k.xlat.toNat * 2 ^ 50 else k.xlat.toNat
  | _ => 0

/-- A cluster, partition, queue, island or device register as a level sees it. -/
def State.devReg (s : State) (n p cl q lvl : Nat) : Nat :=
  let pt := s.part p
  if n < 0x13C then (s.hitch (cl * 64 + (n - 0x100))).word
  else if n < 0x160 then (s.ring (cl * 32 + (n - 0x140))).word
  else if n < 0x164 then (s.cluster cl).perm / 2 ^ (64 * (n - 0x160))
  else if 0x200 ≤ n then (s.island (n - 0x200)).word s.hub.ready
  else if 0x198 ≤ n && n ≤ 0x19F then s.hub.wwin.toList.getD (n - 0x198) 0
  else if 0x184 ≤ n && n ≤ 0x189 then (pt.allow.toList.getD (n - 0x184) Allow.reset).word
  else match n with
    | 0x180 => pt.asidCount * 2 ^ 16 + pt.asidBase
    | 0x182 =>
      let w := (Tab.getD s.hub.s2root pt.vdev 0).toNat
      if lvl < 2 then w / 2 ^ 63 * 2 ^ 63 else w
    | 0x183 => pt.chmask
    | 0x18A => pt.trapvec
    | 0x18B => pt.trapqWord
    | 0x18C => pt.fatal.toNat
    | 0x18D => pt.evdl
    | 0x18E => pt.evState * 2 ^ 62 + pt.freed
    | 0x190 => (s.queue q).word
    | 0x191 => (s.queue q).chainWord
    | 0x192 => s.saveWord q
    | 0x193 => (s.queue q).args.toNat
    | 0x194 => (s.queue q).xlat.toNat
    | 0x1C0 => s.hub.vdiemap
    | 0x1C1 => s.hub.bootstat
    | _ => 0

/-- The instance checks of a register that sr.sel selects (R288, R330). -/
def State.selCheck (s : State) (n : Nat) : Option Cause :=
  if sysOfCluster n && decide (191 < s.selCluster) then some .illegal
  else if sysOfQueue n && decide (s.me.level < 2) && (s.queue s.selQueue).part != s.partOf s.cur then some .perm
  else none

/-- Read of a system register (R286): the level is that of its view (R31); an unassigned number is ILLEGAL where the read is
carried out (assumption 86). -/
def execSysr (h : Hdr) (x : OpSys) (s : State) : Out :=
  issue h (fun _ => { level := (sysReadLevel x.num.toNat).getD 0 }) (fun s =>
    let n := x.num.toNat
    if (sysReadLevel n).isNone then s.raise .illegal
    else match s.selCheck n with
      | some c => s.raise c
      | none =>
        let v := if n < 0x100 || n = 0x181 then s.ctxReg n s.me.level
          else s.devReg n s.selPart s.selCluster s.selQueue s.me.level
        .done (s.setMe (s.me.ws x.b (BitVec.ofNat 64 v)))) s

/-! ### Writes -/

/-- Whether a running launch binds a ring (R239). -/
def State.ringBound (s : State) (r : Nat) : Bool :=
  s.launches.any (fun l => !l.cores.isEmpty && (recRing l.bytes 30 == some r || recRing l.bytes 31 == some r))

/-- Bytes of the ring store that a ring takes (R239). -/
def Ring.bytes (g : Ring) : Nat := g.cap * (if g.wide then 64 else 8)

/-- Whether a ring's fields keep their ranges (R239). -/
def Ring.inRange (g : Ring) : Bool :=
  decide (1 ≤ g.cap) && decide (g.cap ≤ 64) && decide (g.high ≤ 64) && decide (g.low ≤ g.high)
    && decide (1 ≤ g.minU) && decide (g.minU ≤ g.maxU) && decide (g.maxU ≤ 8)

/-- A write of sr.ringcfg; none where it takes ILLEGAL (R239). -/
def State.ringWrite (s : State) (cl n : Nat) (w : Word) : Option State :=
  let v := w.toNat
  let g := s.ring (cl * 32 + n)
  let limits : Ring := { g with high := bits v 54 48, low := bits v 47 41, minU := bits v 40 37, maxU := bits v 36 33 }
  if g.enable then (if limits.inRange then some (s.setRing (cl * 32 + n) limits) else none)
  else
    let t : Ring := { limits with enable := w.getLsbD 63, wide := w.getLsbD 62, cap := bits v 61 55, queue := bits v 32 20 }
    if !t.enable then some (s.setRing (cl * 32 + n) t)
    else
      let others := ((s.cluster cl).rings.filter (fun e => e.2.enable && e.1 != n)).foldl (fun a e => a + e.2.bytes) 0
      if !t.inRange || decide (32768 < others + t.bytes) || s.ringBound (cl * 32 + n) then none
      else some (s.setRing (cl * 32 + n) { t with items := [], prods := 0, ended := false })

/-- A write of word w of a permission table: L1 clears only, the own bit stays 1 (R262). -/
def State.permWrite (s : State) (cl w lvl v : Nat) : State :=
  let k := s.cluster cl
  let all := 2 ^ 201 - 1
  let field := (2 ^ 64 - 1) * 2 ^ (64 * w)
  let new := v * 2 ^ (64 * w)
  let kept := if 2 ≤ lvl then (k.perm &&& (all ^^^ (field &&& all))) ||| new else k.perm &&& ((all ^^^ (field &&& all)) ||| new)
  s.setCluster cl { k with perm := (kept ||| 2 ^ cl) &&& all }

/-- Whether an ASID lies in a partition's range (R265). -/
def Part.holdsAsid (p : Part) (a : Nat) : Bool := decide (p.asidBase ≤ a) && decide (a < p.asidBase + p.asidCount)

/-- A write of sr.asidrange; refused where the range leaves the identifiers or shares one with another partition's (R265). -/
def State.asidWrite (s : State) (p v : Nat) : State :=
  let b := bits v 13 0
  let n := bits v 30 16
  let meets := s.parts.any (fun e => e.1 != p && n != 0 && e.2.asidCount != 0 && decide (b < e.2.asidBase + e.2.asidCount)
    && decide (e.2.asidBase < b + n))
  if decide (16384 < b + n) || meets then s else s.setPart p { s.part p with asidBase := b, asidCount := n }

/-- A write of an allowance register; refused where the HBM limit of a virtual die would be passed (R271). -/
def State.allowWrite (s : State) (p i v : Nat) : State :=
  let k := s.part p
  let a := k.allow.toList.getD i Allow.reset
  let b : Allow := { a with metered := bit v 63, prio := bits v 62 60, refill := bits v 55 32 }
  let t := s.setPart p { k with allow := k.allow.setIfInBounds i b }
  let sum : Nat := t.parts.foldl (fun (m : Nat) e =>
    let c := e.2.allow.toList.getD i Allow.reset
    if c.metered then m + c.refill else m) 0
  if decide (2 ≤ i) && b.metered && decide (102400 < sum) then s else t

/-- The k oldest fatal records released (R310). -/
def State.releaseFatal (s : State) (p k : Nat) : State :=
  s.setPart p { s.part p with tqFatal := (s.part p).tqFatal.drop k }

/-- Halted cleared in sr.fatal; nothing restarts (R311). -/
def State.clearFatal (s : State) (p : Nat) (w : Word) : State :=
  if w.getLsbD 63 then s.setPart p { s.part p with fatal := (s.part p).fatal &&& 0x7FFFFFFFFFFFFFFF#64 } else s

/-- A write of a queue's control word: a weight of 0 is ignored, and a queue is enabled only once the device is Ready
(R221, R281). -/
def State.controlWrite (s : State) (q v : Nat) : State :=
  let k := s.queue q
  s.setQueue q { k with
    enabled := bit v 63 && (k.enabled || s.hub.ready), discard := bit v 62
    weight := if bits v 55 48 = 0 then k.weight else bits v 55 48
    prio := bits v 47 45, part := bits v 39 32, job := bits v 31 0 }

/-- The point that R284 puts in force; held at 0 until firmware releases the islands (R280). -/
def Island.point (i : Island) (ready : Bool) : Nat := if ready then min i.request (min i.cap i.thermal) else 0

/-- An island after a change of what limits its point: a new point is in force, and nothing issues for 2,000 ticks
(R284). -/
def State.setIsland (s : State) (n : Nat) (i : Island) : State :=
  let p := i.point s.hub.ready
  let j := if p = i.current then i else { i with current := p, busy := s.time + 2000 }
  { s with hub := { s.hub with islands := s.hub.islands.setIfInBounds n j } }

/-- A write of an island's Requested point (R284). -/
def State.vfWrite (s : State) (n v : Nat) : State := s.setIsland n { s.island n with request := bits v 2 0 }

/-- A write of a translation or argument register of a queue; none where it takes PERM (R222). -/
def State.queueXlat (s : State) (q : Nat) (w : Word) : Option State :=
  let k := s.queue q
  if (s.part k.part).holdsAsid (xlatAsid w.toNat) then
    some (s.setQueue q { k with xlat := w &&& 0xFFFCFFFFFFFFF000#64 })
  else none

/-- A write of a cluster, partition, queue, island or device register by a level that may write it (R286). -/
def State.regWrite (s : State) (n p cl q lvl : Nat) (w : Word) : Except Cause State :=
  let v := w.toNat
  let pt := s.part p
  if 0x140 ≤ n && n ≤ 0x15F then (match s.ringWrite cl (n - 0x140) w with
    | some t => .ok t
    | none => .error .illegal)
  else if 0x160 ≤ n && n ≤ 0x163 then .ok (s.permWrite cl (n - 0x160) lvl v)
  else if 0x184 ≤ n && n ≤ 0x189 then .ok (s.allowWrite p (n - 0x184) v)
  else if 0x198 ≤ n && n ≤ 0x19F then
    .ok (if 1000 ≤ v && v < 2 ^ 32 then { s with hub := { s.hub with wwin := s.hub.wwin.setIfInBounds (n - 0x198) v } } else s)
  else if 0x200 ≤ n && n ≤ 0x22B then .ok (s.vfWrite (n - 0x200) v)
  else match n with
    | 0x180 => .ok (s.asidWrite p v)
    | 0x182 => .ok { s with hub := { s.hub with s2root := Tab.put s.hub.s2root pt.vdev (w &&& 0x8000FFFFFFFFF000#64) } }
    | 0x183 => .ok (s.setPart p { pt with chmask := bits v 39 0 })
    | 0x18A => .ok (s.setPart p { pt with trapvec := bits v 47 2 * 4 })
    | 0x18B => .ok (if lvl < 2 then s.releaseFatal p (bits v 56 48)
        else s.setPart p { pt with tqOn := w.getLsbD 63, tqBase := bits v 47 14 * 16384 })
    | 0x18C => .ok (s.clearFatal p w)
    | 0x190 => .ok (s.controlWrite q v)
    | 0x191 => .ok (s.chainWrite q w)
    | 0x192 => .ok (s.setQueue q { s.queue q with saveOn := w.getLsbD 63, saveBase := bits v 47 21 * 2 ^ 21 })
    | 0x193 => .ok (s.setQueue q { s.queue q with args := w &&& 0x8000FFFFFFFF8000#64 })
    | 0x194 => (match s.queueXlat q w with
      | some t => .ok t
      | none => .error .perm)
    | _ => .ok s

/-- A write of a context register by a level that may write it (R288, R290, R291). -/
def State.ctxRegWrite (s : State) (n : Nat) (w : Word) : Except Cause State :=
  let k := s.me
  match n with
  | 0x001 => .ok (s.setMe { k with grant := w.getLsbD 7 })
  | 0x003 => .ok (s.setMe { k with
      sel := if 2 ≤ k.level then w &&& 0xFF00FF1FFF#64 else (k.sel &&& 0xFF00FF0000#64) ||| (w &&& 0x1FFF#64) })
  | 0x008 => .ok (s.setMe { k with uirqpc := w })
  | 0x010 => .ok (if bits w.toNat 11 10 ≤ k.level then
      s.setMe { k with trapcause := (k.trapcause &&& 0xFFFFFFFFFFFFF3FF#64) ||| (w &&& 0xC00#64) } else s)
  | 0x011 => .ok (s.setMe { k with trappc := w })
  | 0x181 =>
    if k.level < 2 && !(s.part (s.partOf s.cur)).holdsAsid (xlatAsid w.toNat) then .error .perm
    else .ok (s.setMe { k with xlat := w &&& 0xFFFCFFFFFFFFF000#64 })
  | _ => .ok s

/-- Write of a system register (R286): the level is that of its view (R31). -/
def execSysw (h : Hdr) (x : OpSys) (s : State) : Out :=
  issue h (fun _ => { level := sysWriteNeed x.num.toNat }) (fun s =>
    let n := x.num.toNat
    if (sysReadLevel n).isNone then s.raise .illegal
    else match s.selCheck n with
      | some c => s.raise c
      | none =>
        s.firm (match (if n < 0x100 || n = 0x181 then s.ctxRegWrite n (s.me.rs x.b)
            else s.regWrite n s.selPart s.selCluster s.selQueue s.me.level (s.me.rs x.b)) with
          | .ok t => .done t
          | .error c => s.raise c)) s

/-! ### The overflow table (R47, R48) -/

/-- Whether a table word keeps the rows of R47. -/
def tableOk (w : Nat) : Bool :=
  let row (i : Nat) : Nat := bits w (2 * i + 1) (2 * i)
  bits w 63 12 == 0 && (List.range 6).all (fun i => row i != 3) && row 0 != 1 && row 1 != 1

/-- Load of the overflow table (R48). -/
def execOvtld (h : Hdr) (b : SReg) (s : State) : Out :=
  issue h (fun _ => { level := 1 }) (fun s =>
    let w := s.me.rs b
    s.need (tableOk w.toNat) .illegalTable (s.firm (.done (s.setMe { s.me with ovt := w.setWidth 12 })))) s

/-! ### Translation control (R269, R296, R297) -/

/-- Whether an invalidation has done what R269 asks: no walk from before it, no access and no strand that translated before it
unfinished. -/
def State.invDone (s : State) (v : Inval) : Bool :=
  s.walks.all (fun w => w.fault.isSome || decide (v.seq ≤ w.seq) || !invCovers v w.core)
    && v.waits.all (fun n => s.net.all (·.id != n) && s.chains.all (fun h => !h.await.contains n) && s.posts.all (fun p => p.id != n || p.atCore))

/-- Invalidations that are done are forgotten. -/
def State.pruneInvals (s : State) : State := { s with invals := s.invals.filter (fun v => !s.invDone v) }

/-- An invalidation's entries dropped from every TLB in its scope, and a new sequence number (R296). -/
def State.invalidate (s : State) (v : Inval) : State :=
  let v := { v with
    seq := s.hub.invSeq + 1
    waits := (s.net.filter (fun a => invCovers v a.core && (2 ≤ v.kind || a.asid == v.asid) && (match a.dest with
        | .dev .. => true
        | .peer .. => true
        | _ => false))).map (·.id)
      ++ (s.posts.filter (fun p => invCovers v p.core && (2 ≤ v.kind || p.asid == v.asid) && !p.atCore)).map (·.id) }
  let s : State := { s with hub := { s.hub with invSeq := v.seq }, invals := s.invals ++ [v] }
  let s := s.each (s.cores.filter (fun e => invCovers v e.1)) (fun s e =>
    s.setCore e.1 { s.core e.1 with l1 := (s.core e.1).l1.filter (fun t => !invMatches v t) })
  s.each (s.clusters.filter (fun e => (coresOf e.1).any (invCovers v))) (fun s e =>
    s.setCluster e.1 { s.cluster e.1 with l2 := (s.cluster e.1).l2.filter (fun t => !invMatches v t) })

/-- Whether a specification of an invalidation is one (R296). -/
def invSpecOk (w : Nat) : Bool :=
  decide (2 ≤ bits w 63 61) && decide (bits w 63 61 ≤ 5) && decide (bits w 60 58 ≤ 4) && bits w 57 54 == 0 && bits w 47 14 == 0

/-- Start of an invalidation (R296). -/
def execTlbinv (h : Hdr) (x : OpBC) (s : State) : Out :=
  issue h (fun _ => { level := 1 }) (fun s =>
    let a := (s.me.rs x.b).toNat
    let w := (s.me.rs x.c).toNat
    let kind := bits w 60 58
    if !invSpecOk w then s.raise .illegal
    else if (kind == 0 || kind == 2) && bits a 63 48 != 0 then s.raise .illegalPointer
    else if (if kind < 2 then !(s.part (s.partOf s.cur)).holdsAsid (bits w 13 0) else decide (s.me.level < 2)) then
      s.raise .perm
    else s.firm (
      let s := s.pruneInvals
      let open_ := s.me.invs.filter (fun n => s.invals.any (·.seq == n))
      if 8 ≤ open_.length then .hold
      else
        let s := s.setMe { s.me with invs := open_ ++ [s.hub.invSeq + 1] }
        .done (s.invalidate { seq := 0, scope := bits w 63 61, core := s.cur, kind := kind, addr := bits a 47 0
                              vdev := bits w 53 48, asid := bits w 13 0, waits := [] }))) s

/-- Wait for the context's invalidations (R297). -/
def execTlbsync (h : Hdr) (s : State) : Out :=
  issue h (fun _ => { level := 1 }) (fun s =>
    let s := s.pruneInvals
    if s.me.invs.any (fun n => s.invals.any (·.seq == n)) then .hold else .done (s.setMe { s.me with invs := [] })) s

/-! ### Calls and returns (R298, R299) -/

/-- A call of the supervisor (R298). -/
def execHcall (h : Hdr) (code : BitVec 24) (s : State) : Out :=
  issue h plain (fun s =>
    if 1 ≤ s.me.level then s.raise .illegal
    else
      .trap s { cause := Cause.swTrap.code, detail := 2 ^ 24 + code.toNat, resume := (s.me.pc + 12) % 2 ^ 48
                fpc := s.me.pc, va := 0, ipa := 0, jrn := none, async := false }) s

/-- Return from a trap (R299, R315). -/
def execTrapret (h : Hdr) (s : State) : Out :=
  issue h (fun _ => { level := 1 }) (fun s =>
    if !s.me.trapcause.getLsbD 63 then s.raise .illegal
    else s.firm (match s.trapReturn s.cur s.curCtx with
      | none => .hold
      | some t => .goto t t.me.pc)) s

/-! ### Eviction deadlines (R300) -/

/-- A deadline posted (R300). -/
def execEvpost (h : Hdr) (x : OpRR) (s : State) : Out :=
  issue h (fun _ => { level := 2 }) (fun s =>
    let p := (s.me.rs x.b).toNat
    if bits p 63 48 != 0 then s.raiseAt p .illegalPointer
    else if p % 64 != 0 then s.raiseAt p .misalign
    else s.withPages p 64 0 s.me.xlat.toNat s.me.level (fun _ _ =>
      s.withPages p 64 1 s.me.xlat.toNat s.me.level (fun _ _ =>
        s.firm (if s.ownWaits p 64 0 then .hold
        else match s.bulkRead s.self p 64 with
        | .error t => s.trip t
        | .ok (v, s) =>
          if !s.requestOk v then s.raise .illegal
          else
            let r : EvReq := { idx := s.nonce, bytes := v, core := some (s.cur, s.curCtx), addr := p, reg := x.a.toNat, post := s.time }
            let s : State := { s.fresh.2 with evicts := s.evicts ++ [r] }
            .wait (s.setMe { s.me with wait := .evict r.idx }))))) s

/-! ### Wiping (R282, R301) -/

/-- n bytes of device memory zeroed at their homes (R282, R301, R329). -/
def State.devWipe (s : State) (a n : Nat) : State :=
  { s.mark a n with
    mem := s.mem.wipe a n
    badMem := s.badMem.filter (fun l => !(decide (a ≤ 64 * l) && decide (64 * l + 64 ≤ a + n))) }

/-- One 64 KiB page of the HBM form. -/
def State.wipePage (s : State) (b c : SReg) : Res :=
  let va := (s.me.rs b).toNat
  let n := (s.me.rs c).toNat
  s.withPages va 65536 1 s.me.xlat.toNat s.me.level (fun segs es =>
    if es.any (fun e => e.kind == 2 || e.kind == 3) then s.raiseW .perm (pageDetail 0 false 1) va 0
    else if s.undeclared (cutsOf s.cur va 65536 (segs.zip es)) true then s.raiseAt va .txUndeclared
    else match segs.find? (fun p => !s.devOk p.1 || !s.devOk (p.1 + p.2 - 1)) with
      | some p => .stop (.noSuchMemory p.1)
      | none =>
        s.firm (if !s.coreQuiet s.cur then .hold
        else
          let s := (s.setDirty s.cur (s.partOf s.cur) es).noRoll s.cur
          let s := s.each (segs.zip es) (fun s e => (s.devWipe e.1.1 e.1.2).each (granules (e.1.2 / 8192 + 2) e.1.1 e.1.2) (fun s r =>
            s.charge (s.partOf s.cur) (2 + homeDie (homeOf e.2 r.1)) (cdiv r.2 64)))
          let k := (s.me.ws b (BitVec.ofNat 64 (va + 65536))).ws c (BitVec.ofNat 64 (n - 1))
          if n ≤ 1 then .done (s.setMe k) else .wait (s.setMe k)))

/-- Zeros to a hitched bank, or to pages of the partition, one page per issue (R301). -/
def execWipe (h : Hdr) (x : OpBC) (s : State) : Out :=
  issue h (fun _ => { level := 1 }) (fun s =>
    let p := (s.me.rs x.b).toNat
    let n := (s.me.rs x.c).toNat
    match s.resolve s.cur p with
    | some (.glb va) =>
      if va % 65536 != 0 then s.raiseAt p .misalign
      else if n = 0 || decide (65536 < n) then s.raise .illegal
      else s.wipePage x.b x.c
    | some (.win slot off) =>
      if off != 0 then s.raiseAt p .misalign
      else if n != 0 then s.raise .illegal
      else match s.openSlot s.cur slot with
        | .error c => s.raiseAt p c slot
        | .ok pkg =>
          s.firm (if s.bankBusy s.cur .ls pkg then .hold else .done ((s.noRoll s.cur).bankWipe pkg))
    | _ => s.raiseAt p .illegalPointer) s

/-! ### Partition membership (R261, R302) -/

/-- A core back at its reset state, with its registers, tiles and buffers wiped (R114, R282); its cycle count goes on, and
journal entries of stores under way stay taken until they are acknowledged. -/
def State.wipeCore (s : State) (c : Nat) : State := s.setCore c { Core.reset with cc := (s.core c).cc, journal := (s.core c).journal }

/-- A bank Free, out of every slot, its bytes and tags zero. -/
def State.wipeBank (s : State) (pkg : Nat) : State :=
  let h := s.hitch pkg
  let s := if s.slotBank h.holder h.slot == some pkg then s.emptySlot h.holder h.slot else s
  (s.freeBank pkg).bankWipe pkg

/-- A cluster's banks, tiles, registers and rings wiped, with the hitches that its cores hold elsewhere (R282). -/
def State.wipeCluster (s : State) (r : Nat) : State :=
  let s := s.each (coresOf r) (fun s c => ((s.endAway c (fun _ => true)).boundary c).wipeCore c)
  let s := s.each ((List.range 64).map (r * 64 + ·)) State.wipeBank
  let k := s.cluster r
  s.setCluster r { Cluster.reset r with part := k.part }

/-- Whether a cluster may be released by a partition (R302). -/
def State.mayDetach (s : State) (r p : Nat) : Bool :=
  (s.cluster r).part == some p
    && (coresOf r).all (fun c => (s.core c).ctxs.all (fun e => !e.2.live))
    && (List.range 64).all (fun i => let h := s.hitch (r * 64 + i); h.st != .transit && h.st != .returning)

/-- A cluster assigned to a partition, or released; none where a condition fails (R302). -/
def State.pmapOp (s : State) (r p : Nat) (release : Bool) : Option State :=
  if release then
    if s.mayDetach r p then
      let s := s.wipeCluster r
      some (s.setCluster r { s.cluster r with part := none })
    else none
  else if (s.cluster r).part.isSome then none
  else
    let k := s.cluster r
    some (s.setCluster r { k with part := some p, perm := 2 ^ r, rings := [] })

/-- Assign and release of clusters (R302). -/
def execPmap (h : Hdr) (x : OpBC) (s : State) : Out :=
  issue h (fun _ => { level := 2 }) (fun s =>
    let b := (s.me.rs x.b).toNat
    let c := (s.me.rs x.c).toNat
    if decide (191 < b) || bits c 62 8 != 0 then s.raise .illegal
    else s.firm (match s.pmapOp b (bits c 7 0) (bit c 63) with
      | none => s.raise .illegal
      | some t => .done t)) s

end Sys2Proof.Machine
end

