-- ==== Sys2Proof/Machine/Txn.lean ====
section
/-!
DEFINITION. Class 0xA, operations 0x10 to 0x14: order-first transactions (R187 to R189, R203 to R214), the sequencers
and the slice queues.
-/

namespace Sys2Proof.Machine

/-- Beat number of a tick (R203). -/
def beatOf (t : Nat) : Nat := 11 * t / 1280

/-- Home agent of a claimed slice. -/
def sliceHome (a : Nat) : Nat := a / 2 ^ 48

/-- Whether a slice is homed on a die. -/
def onDie (d : Nat) (a : Nat) : Bool := homeDie (sliceHome a) == d

/-! ### Instructions -/

/-- One more slice of the claim set (R187). -/
def txdecl (write : Bool) (b : SReg) (s : State) : Res :=
  let p := (s.me.rs b).toNat
  if s.me.ticket.isSome then s.raise .illegal
  else match s.resolve s.cur p with
    | some (.glb va) =>
      if va % 256 != 0 then s.raiseAt p .misalign
      else s.withPages va 1 (b2n write) s.me.xlat.toNat s.me.level (fun segs es =>
        match es with
        | e :: _ =>
          let a := (segs.headD (0, 0)).1
          if e.kind == 2 || e.kind == 3 then s.raiseW .perm (pageDetail 0 false (b2n write)) va 0
          else if !s.devOk a then .stop (.noSuchMemory a)
          else
            let sl := homeOf e a * 2 ^ 48 + a % 2 ^ 48
            let k := s.me
            if k.claims.any (·.1 == sl) then
              .done (s.setMe { k with claims := k.claims.map (fun c => if c.1 == sl then (c.1, c.2 || write) else c) })
            else if decide (32 ≤ k.claims.length) then s.raise .illegal
            else .done (s.setMe { k with claims := k.claims ++ [(sl, write)] })
        | [] => s.raiseAt p .illegalPointer)
    | _ => s.raiseAt p .illegalPointer

/-- A slice declared for reading (R187). -/
def execTxdeclR (h : Hdr) (b : SReg) (s : State) : Out := issue h plain (txdecl false b) s

/-- A slice declared for writing (R187). -/
def execTxdeclW (h : Hdr) (b : SReg) (s : State) : Out := issue h plain (txdecl true b) s

/-- Submission of the claim set (R188, R204): the context waits for the sequencer; the step cannot be rolled back
(R214). -/
def execTxsub (h : Hdr) (a : SReg) (s : State) : Out :=
  issue h plain (fun s =>
    s.firm (if s.me.claims.isEmpty || s.me.ticket.isSome then s.raise .illegal
    else
      let s : State := { s.noRoll s.cur with submits := s.submits ++ [(s.cur, s.curCtx)] }
      .wait (s.setMe { s.me with wait := .submit a.toNat }))) s

/-- Grants that a context still waits for: of slices whose home agents have not been lost (R208, R213). -/
def Ctx.wanting (k : Ctx) : List Nat :=
  (k.claims.map (·.1)).filter (fun a => !k.grants.contains a && !k.lostDies.any (fun d => onDie (d % 4) a))

/-- The reset die that a claim is broken by and that no DIE_ABSENT has named yet (R213). -/
def Ctx.newlyLost (k : Ctx) : Option Nat := k.lostDies.find? (fun d => decide (d < 4))

/-- DIE_ABSENT for a claim that a die reset has broken (R213); it is then reported. -/
def lostTrap (s : State) (d : Nat) : Res :=
  (s.setMe { s.me with lostDies := s.me.lostDies.map (fun e => if e == d then 4 + d % 4 else e) }).raise .dieAbsent (d % 4)

/-- Wait for every grant (R189, R208). -/
def execTxwait (h : Hdr) (b : SReg) (s : State) : Out :=
  issue h plain (fun s =>
    let k := s.me
    if k.ticket != some (k.rs b).toNat then s.raise .illegal
    else match k.newlyLost.or k.lostDies.head? with
      | some d => lostTrap s d
      | none => if k.wanting.isEmpty then .done (s.setMe { k with txOpen := true }) else .hold) s

/-- Release of every slice (R189, R209); the step cannot be rolled back (R214). -/
def execTxend (h : Hdr) (b : SReg) (s : State) : Out :=
  issue h plain (fun s =>
    let k := s.me
    s.firm (if k.ticket != some (k.rs b).toNat then s.raise .illegal
    else if k.newlyLost.isSome then lostTrap s (k.newlyLost.getD 0)
    else if k.wanting.isEmpty && s.quiet s.cur s.curCtx then .done ((s.noRoll s.cur).endTicket s.cur s.curCtx)
    else .hold)) s

/-! ### Sequencers (R204 to R207) -/

/-- A sequencer. -/
def State.seqOf (s : State) (d : Nat) : Sequencer := s.seqs.toList.getD d Sequencer.reset

/-- The state with a sequencer replaced. -/
def State.setSeq (s : State) (d : Nat) (q : Sequencer) : State := { s with seqs := s.seqs.setIfInBounds d q }

/-- The first beat from b on with room for a submission; at most n full beats are passed (R204). -/
def roomFrom (q : Sequencer) : Nat → Nat → Nat
  | 0, b => b
  | n + 1, b => if decide (64 ≤ (q.open_.filter (·.beat == b)).length) then roomFrom q n (b + 1) else b

/-- The 64-bit ticket (R188). -/
def ticketOf (beat die index ctx : Nat) : Nat := 2 ^ 63 + beat % 2 ^ 31 * 2 ^ 32 + die * 2 ^ 30 + index * 2 ^ 24 + ctx * 2 ^ 20

/-- SUBMISSION_ACCEPTED: a sequencer accepts a claim set and its context goes on with the ticket (R204). Where its bridge has failed
the batch is never delivered, so nothing of it stands in any merged batch (R205). -/
def execSubmissionAccepted (core : Nat) (ctx : Nat) (s : State) : Out :=
  let k := s.ctx core ctx
  match k.wait with
  | .submit r =>
    if !s.submits.contains (core, ctx) || !k.live then .next s
    else
      let d := dieOf core
      let q := s.seqOf d
      let b := roomFrom q (q.open_.length + 1) (beatOf s.time)
      let ix := (q.open_.filter (·.beat == b)).length
      let t := ticketOf b d ix ctx
      let cs := if s.hub.failed.contains d then [] else k.claims
      let u : Subm := { beat := b, die := d, core := core, ctx := ctx, born := k.born, ticket := t, slices := cs }
      let s : State := { s with submits := s.submits.filter (· != (core, ctx)) }
      let s := s.setSeq d { q with open_ := q.open_ ++ [u] }
      let s := s.setCtx core ctx { k with ticket := some t, txOpen := false, grants := [], lostDies := [] }
      .next ((s.writeReg core ctx (.s r) .n64 t).finishWait core ctx)
  | _ => .next s

/-- Whether some submission lies in a beat that a sequencer has not closed and TIME has passed (R205). -/
def State.mayClose (s : State) (d : Nat) : Bool :=
  let q := s.seqOf d
  decide (q.closed < beatOf s.time)
    && s.seqs.toList.any (fun r => r.open_.any (fun u => decide (q.closed ≤ u.beat) && decide (u.beat < beatOf s.time)))

/-- BATCH_CLOSE: a sequencer closes every beat that has passed (R205). -/
def execBatchClose (die : Nat) (s : State) : Out :=
  event s (decide (die < 4) && s.mayClose die) (s.setSeq die { s.seqOf die with closed := beatOf s.time })

/-- The next beat with submissions that a sequencer has not applied. -/
def State.nextBeat (s : State) (d : Nat) : Option Nat :=
  let bs := (s.seqs.toList.flatMap (fun r => r.open_.map (·.beat))).filter (fun b => decide ((s.seqOf d).applied ≤ b))
  bs.foldl (fun (m : Option Nat) b => some (match m with | some a => min a b | none => b)) none

/-- Whether a sequencer holds all four batches of its next beat; the hub gives that of an absent die, or of one whose bridge has failed,
which gets none itself (R205, R206). -/
def State.mayApply (s : State) (d : Nat) : Bool :=
  match s.nextBeat d with
  | none => false
  | some b => decide (d < 4) && (s.seqOf d).rest.isEmpty && !s.hub.absent.contains d && !s.hub.failed.contains d
      && (List.range 4).all (fun e => decide (b < (s.seqOf e).closed) || s.hub.absent.contains e || s.hub.failed.contains e)

/-- Whether a home agent has room for an entry (R207). -/
def State.sliceRoom (s : State) (e : Slice) : Bool :=
  decide ((s.slices.filter (fun f => sliceHome f.addr == sliceHome e.addr)).length < 256)

/-- Whether a context holds the ticket of an entry. -/
def State.holdsTicket (s : State) (e : Slice) : Bool :=
  let k := s.ctx e.core e.ctx
  k.born == e.born && k.ticket == some e.ticket

/-- Whether the ticket behind an entry still stands, in its context or in its core's ticket table. -/
def State.entryLive (s : State) (e : Slice) : Bool :=
  s.holdsTicket e || (match Tab.get? (s.core e.core).grantTable e.born with
    | some (t :: _) => t % 2 ^ 64 == e.ticket
    | _ => false)

/-- Entries appended to their slice queues while they fit; one whose ticket has ended is released at once. -/
def State.applyRest (s : State) (d : Nat) : List Slice → State
  | [] => s.setSeq d { s.seqOf d with rest := [] }
  | e :: r =>
    if s.sliceRoom e then
      State.applyRest { s with slices := s.slices ++ [e]
                               releases := if s.entryLive e then s.releases else s.releases ++ [e] } d r
    else s.setSeq d { s.seqOf d with rest := e :: r }

/-- Submissions that every present sequencer has applied are forgotten. -/
def State.pruneBeats (s : State) : State :=
  let done (b : Nat) : Bool := (List.range 4).all (fun d => decide (b < (s.seqOf d).applied) || s.hub.absent.contains d || s.hub.failed.contains d)
  { s with seqs := s.seqs.map (fun q => { q with open_ := q.open_.filter (fun u => !done u.beat) }) }

/-- A ticket, in its context or in its core's ticket table, that has lost a slice homed on a die: the context learns it (R213).
In the table the lost dies stand above the ticket's 64 bits. -/
def State.loseTicket (s : State) (core ctx born ticket d : Nat) : State :=
  let k := s.ctx core ctx
  if k.born == born && k.ticket == some ticket then
    (if k.lostDies.any (fun e => e % 4 == d) then s else s.setCtx core ctx { k with lostDies := k.lostDies ++ [d] })
  else match Tab.get? (s.core core).grantTable born with
    | some (t :: r) =>
      if t % 2 ^ 64 != ticket || bit t (64 + d) || bit t (68 + d) then s
      else s.setCore core { s.core core with grantTable := Tab.put (s.core core).grantTable born ((t + 2 ^ (64 + d)) :: r) }
    | _ => s

/-- A context whose claim names a slice of an absent die learns it (R213). -/
def State.markLost (s : State) (u : Subm) (d : Nat) : State :=
  if u.slices.any (fun c => onDie d c.1) then s.loseTicket u.core u.ctx u.born u.ticket d else s

/-- BATCH_APPLY: a sequencer appends the merged batch of its next beat to the slice queues of its die (R206). -/
def execBatchApply (die : Nat) (s : State) : Out :=
  match s.nextBeat die with
  | none => .next s
  | some b =>
    if !s.mayApply die then .next s
    else
      let us := (List.range 4).flatMap (fun e => (s.seqOf e).open_.filter (·.beat == b))
      let es := us.flatMap (fun u => (u.slices.filter (fun c => onDie die c.1)).map (fun c =>
        ({ addr := c.1, write := c.2, core := u.core, ctx := u.ctx, born := u.born, ticket := u.ticket, granted := false } : Slice)))
      let s := s.each us (fun s u => s.each s.hub.absent (fun s d => s.markLost u d))
      let s := s.setSeq die { s.seqOf die with applied := b + 1 }
      .next (s.applyRest die es).pruneBeats

/-- Whether a sequencer that stopped at a full home agent may go on (R207). -/
def State.mayResume (s : State) (d : Nat) : Bool :=
  match (s.seqOf d).rest with
  | e :: _ => s.sliceRoom e
  | [] => false

/-- SEQUENCER_APPLY_RESUME: it goes on from the entry that did not fit (R207). -/
def execSequencerApplyResume (die : Nat) (s : State) : Out :=
  event s (s.mayResume die) (s.applyRest die (s.seqOf die).rest).pruneBeats

/-! ### Slice queues (R208, R209) -/

/-- Whether an entry is granted now: a write at the head, a read behind granted reads only (R208). -/
def State.mayGrant (s : State) (i : Nat) : Bool :=
  match s.slices[i]? with
  | none => false
  | some e =>
    let before := (s.slices.take i).filter (fun f => f.addr == e.addr)
    !e.granted && (if e.write then before.isEmpty else before.all (fun f => !f.write && f.granted))

/-- The step of the team that a switched-out context belongs to cannot be rolled back (R214). -/
def State.noRollOut (s : State) (c born : Nat) : State :=
  match ((s.core c).out.find? (·.born == born)).bind (fun o => o.unit.bind s.launch?) with
  | some l => s.setLaunch { l with noRoll := true }
  | none => s

/-- A grant reaches its context, or its core's ticket table (R208, R212); the step cannot be rolled back (R214). -/
def State.deliverGrant (s : State) (e : Slice) : State :=
  let k := s.ctx e.core e.ctx
  let cc := (s.core e.core).cc
  if s.holdsTicket e then
    (s.setCtx e.core e.ctx { k with grants := k.grants ++ [e.addr], lastGrant := cc }).noRoll e.core
  else match Tab.get? (s.core e.core).grantTable e.born with
    | some (t :: _ :: g) =>
      if t % 2 ^ 64 != e.ticket then s
      else State.noRollOut (c := e.core) (born := e.born) <| s.setCore e.core { s.core e.core with grantTable := Tab.put (s.core e.core).grantTable e.born (t :: cc :: (g ++ [e.addr])) }
    | _ => s

/-- SLICE_GRANT: a home agent grants an entry of a slice queue (R208). -/
def execSliceGrant (idx : Nat) (s : State) : Out :=
  match s.slices[idx]? with
  | none => .next s
  | some e =>
    event s (s.mayGrant idx) (State.deliverGrant { s with slices := s.slices.set idx { e with granted := true } } e)

/-- Whether a release may leave: the context's posted stores are acknowledged or refused (R212), and, of tickets of a reset
die, an earlier one's of the same home agent has left (R213). -/
def State.mayRelease (s : State) (i : Nat) : Bool :=
  match s.releases[i]? with
  | none => false
  | some e =>
    s.net.all (fun a => !(a.core == e.core && a.ctx == e.ctx && a.born == e.born && a.jrn.isSome && a.refused.isNone))
      && (!s.hub.absent.contains (dieOf e.core) || (s.releases.take i).all (fun f =>
        !(s.hub.absent.contains (dieOf f.core) && sliceHome f.addr == sliceHome e.addr)))

/-- SLICE_RELEASE: a home agent removes a released entry (R209). -/
def execSliceRelease (idx : Nat) (s : State) : Out :=
  match s.releases[idx]? with
  | none => .next s
  | some e =>
    event s (s.mayRelease idx) { s with
      releases := s.releases.eraseIdx idx
      slices := s.slices.filter (fun f => !(f.addr == e.addr && f.born == e.born && f.ticket == e.ticket)) }

/-- Whether a context has held its grants for 65,536 cc after the last arrived (R189). -/
def State.mayHold (s : State) (c x : Nat) : Bool :=
  let k := s.ctx c x
  k.live && k.ticket.isSome && !k.grants.isEmpty && k.wanting.isEmpty && decide (k.lastGrant + 65536 ≤ (s.core c).cc)

/-- TX_HOLD: the trap is taken at the context's next boundary (R189), once per 65,536 cc. -/
def execTxHold (core : Nat) (ctx : Nat) (s : State) : Out :=
  let k := s.ctx core ctx
  event s (s.mayHold core ctx)
    ((s.setCtx core ctx { k with lastGrant := (s.core core).cc }).pendTrap core ctx
      { cause := Cause.txHold.code, detail := 0, resume := 0, fpc := k.pc, va := 0, ipa := 0, jrn := none, async := true })

end Sys2Proof.Machine
end

