-- ==== Sys2Proof/Machine/Boot.lean ====
section
/-!
DEFINITION. What the host, the hypervisor, firmware and the management core do: register writes, reset and boot,
measurement, the life cycle, resets of one die, partitions and their keys, and the islands (R213, R239, R261, R264, R277 to
R284, R286, R310, R311, R322).
-/

namespace Sys2Proof.Machine

/-! ### Register writes of the host (R239, R261, R264, R277, R286, R310, R311, R336) -/

/-- RINGCFG_WRITE: a ring configured, or nothing changed (R239). -/
def execRingcfgWrite (cluster ring : Nat) (value : Word) (s : State) : Out :=
  .next (if cluster < 192 && ring < 32 then (s.ringWrite cluster ring value).getD s else s)

/-- TRAPQ_WRITE: an L1 write of k releases the k oldest fatal records, or all (R310). -/
def execTrapqWrite (part k : Nat) (s : State) : Out := event s (decide (part < 256)) (s.releaseFatal part k)

/-- FATAL_CLEAR: a 1 written to Halted clears it (R311). -/
def execFatalClear (part : Nat) (value : Word) (s : State) : Out := event s (decide (part < 256)) (s.clearFatal part value)

/-- VFCTL_WRITE: an island's Requested point (R284). -/
def execVfctlWrite (island : Nat) (value : Word) (s : State) : Out := event s (decide (island < 44)) (s.vfWrite island value.toNat)

/-- A context that L2 starts on a core (R264): at L2, with sr.sel at its own partition and cluster. -/
def State.startL2 (s : State) (c x pc : Nat) (xlat : Word) : State :=
  s.fresh.2.setCtx c x { s.freshCtx c with pc := pc, level := 2, xlat := xlat }

/-- REGISTER_WRITE: a register of the host queue controls, and the other actions of L2 (R286). -/
def execRegisterWrite (w : RegWrite) (s : State) : Out :=
  match w with
  | .sys n p cl q v =>
    let ok := decide (0x100 ≤ n) && n != 0x181 && (sysWriteLevel n).isSome && decide (p < 256) && decide (cl < 192) && decide (q < 8192)
    .next (if ok then (match s.regWrite n p cl q 2 v with
      | .ok t => t
      | .error _ => s) else s)
  | .dbidx v => event s (decide (v < 131072)) { s with hub := { s.hub with dbidx := v } }
  | .startContext c x pc xlat =>
    event s (decide (c < 1536) && decide (x < 16) && !(s.ctx c x).live && (s.cluster (clusterOf c)).part.isSome
        && !s.hub.absent.contains (dieOf c) && pc.toNat % 4 == 0 && decide (pc.toNat < 2 ^ 48))
      (s.startL2 c x pc.toNat (xlat &&& 0xFFFCFFFFFFFFF000#64))
  | .cap n p => event s (decide (n < 44) && decide (p < 8)) (s.setIsland n { s.island n with cap := p })
  | .cluster r p release => .next (if r < 192 && p < 256 then (s.pmapOp r p release).getD s else s)
  | .expander port n =>
    event s (!s.hub.ready && decide (port < 4) && decide (n ≤ 4096)) { s with hub := { s.hub with gib := s.hub.gib.setIfInBounds port n } }

/-! ### Reads of the host (R152, R221, R222, R224, R275, R276, R281, R283) -/

/-- The Status word of a queue's window: Overflow and Free (R276). -/
def WQueue.status (q : WQueue) : Nat := b2n q.overflow * 2 ^ 31 + (256 - q.pending.length)

/-- A byte of BAR0 as a virtual device's function reads it: a window's Status, zero in another function's window, and open
elsewhere (R275, R276; assumption 98). -/
def State.windowByte (s : State) (vdev o : Nat) : Byte :=
  let q := o / 4096
  let i := o % 4096
  if !s.ownsQueue vdev q then 0
  else if 0x808 ≤ i && i < 0x80C then BitVec.ofNat 8 (fieldB (s.queue q).status (i - 0x808) 1)
  else Config.barByte s.nonce o

/-- The 64-bit word of BAR2 at an offset, where the spec describes one (R281, R336 to R339; assumption 98). -/
def State.barWord (s : State) (o : Nat) : Option Nat :=
  match o with
  | 0x0000 => some s.hub.bootstat
  | 0x0100 => some s.hub.dbidx
  | 0x0108 => some s.readDbword.1
  | 0x0110 => some (b2n s.hub.stopErr)
  | 0x0118 => some (b2n s.hub.restoreErr)
  | 0x0120 => some (b2n s.hub.cutDone)
  | _ => none

/-- A byte of BAR2. -/
def State.barByte (s : State) (o : Nat) : Byte :=
  match s.barWord (o / 8 * 8) with
  | some w => BitVec.ofNat 8 (fieldB w (o % 8) 1)
  | none => Config.barByte s.nonce o

/-- INBOUND_READ: a read of the host, after every earlier posted write (R152): of device memory, of a queue's window, or of BAR2, which
alone answers after a boot that failed: its described words, a register of the host queue controls as L2 reads it, or the error log
(R221, R222, R224, R275, R280, R283). -/
def execInboundRead (addr : HostPlace) (size : Nat) (s : State) : Out :=
  let put (t : State) (e : Egress) : State := { t with hub := { t.hub with egress := t.hub.egress ++ [e] } }
  match addr with
  | .device a =>
    event s (s.hub.failure == 0 && size != 0 && s.devRange a size) (put s (.readData a (bytesOf size (s.mem.read a size))))
  | .bar0 v o =>
    event s (s.hub.failure == 0 && size != 0 && decide (v < 64) && decide (o + size ≤ 2 ^ 25))
      (put s (.barData v 0 o ((List.range size).map (fun i => s.windowByte v (o + i)))))
  | .bar2 o =>
    let t := if decide (o < 0x110) && decide (0x108 < o + size) then s.readDbword.2 else s
    event s (size != 0 && decide (o + size ≤ 2 ^ 16)) (put t (.barData 0 2 o ((List.range size).map (fun i => s.barByte (o + i)))))
  | .control n p cl q =>
    event s ((sysReadLevel n).any (decide <| · ≤ 2) && decide (0x100 ≤ n) && n != 0x181 && decide (p < 256) && decide (cl < 192) && decide (q < 8192))
      (put s (.control n p cl q (s.devReg n p cl q 2)))
  | .errorLog => .next (put s (.errorLog s.hub.log s.hub.corrected))

/-! ### Measurement (R280) -/

/-- A measurement register extended: M := SHA-384(M ‖ value). -/
def State.extend (s : State) (r : Nat) (value : List Byte) : State :=
  let m := s.hub.measure.toList.getD r 0
  { s with hub := { s.hub with measure := s.hub.measure.setIfInBounds r (sha384 (bytesOf 48 m ++ value)) } }

/-- GET_MEASUREMENTS: firmware returns the 24 registers (R280); after a halted boot nothing but BAR2 answers. -/
def execGetMeasurements (s : State) : Out :=
  event s (s.hub.failure == 0) { s with hub := { s.hub with egress := s.hub.egress ++ [.measurements s.hub.measure.toList] } }

/-- MEASUREMENT_EXTEND: a host extension of registers 8 to 23 (R280). -/
def execMeasurementExtend (reg : Nat) (value : List Byte) (s : State) : Out :=
  event s (s.hub.failure == 0 && decide (8 ≤ reg) && decide (reg < 24)) (s.extend reg value)

/-- FIRMWARE_UPDATE: registers 4 to 7 (R280). -/
def execFirmwareUpdate (reg : Nat) (value : List Byte) (s : State) : Out :=
  event s (s.hub.failure == 0 && decide (4 ≤ reg) && decide (reg < 8)) (s.extend reg value)

/-! ### Reset, boot and the life cycle (R280 to R282) -/

/-- Whether a virtual-die map is a permutation (R273). -/
def mapOk (v : Nat) : Bool := (List.range 4).all (fun d => (List.range 4).any (fun i => bits v (2 * i + 1) (2 * i) == d))

/-- Whether an address is one of the CXL tier's windows (R277). -/
def inTier (a : Nat) : Bool := decide (0xC00000000000 ≤ a) && decide (a < 0xD00000000000)

/-- Everything wiped but the CXL tier (R282): what waits outside the device, what has left it and the fuses stay, and no key that a
slot has had comes again (R278), so that nothing in the tier can be deciphered (R282). -/
def State.wiped (s : State) : State :=
  { State.reset with
    nonce := s.nonce, agenda := s.agenda
    mem := s.mem.filter (fun c => inTier c.1), badMem := s.badMem.filter (fun l => inTier (64 * l))
    parts := s.parts.map (fun e => (e.1, { Part.reset with keyNo := e.2.keyNo + 1 }))
    hub := { State.reset.hub with life := s.hub.life, egress := s.hub.egress } }

/-- The boot steps after a wipe (R280); a value that the input omits is measured as no bytes. -/
def State.boot (s : State) (b : BootInput) : State :=
  let at_ (step failure : Nat) (s : State) : State := { s with hub := { s.hub with bootStep := step, failure := failure } }
  if !b.sigOk then at_ 1 1 s
  else if !b.fuseOk then at_ 1 2 s
  else
    let s := s.each (List.range 4) (fun s i => s.extend i (b.measures.getD i []))
    if !b.trainOk then at_ 3 3 s
    else
      let s := at_ 4 0 s
      let s : State := { s with hub := { s.hub with
        vdiemap := if mapOk b.vdiemap.toNat then b.vdiemap.toNat else s.hub.vdiemap
        gib := Vector.ofFn (fun (i : Fin 4) => min 4096 (b.gib.getD i 0)), ready := true } }
      s.each (List.range 44) (fun s n => s.setIsland n (s.island n))

/-- DEVICE_RESET (R280, R282). -/
def execDeviceReset (b : BootInput) (s : State) : Out := .next (s.wiped.boot b)

/-- LIFE_CYCLE_ADVANCE: only forward, on a signed command, and the device is wiped; measurements are cleared by reset only
(R280 to R282). -/
def execLifeCycleAdvance (signed : Bool) (s : State) : Out :=
  let t := s.wiped
  event s (signed && decide (s.hub.life < 3))
    { t with time := s.time, hub := { t.hub with life := s.hub.life + 1, measure := s.hub.measure, refillAt := s.hub.refillAt
                                                 govAt := s.hub.govAt } }

/-! ### Reset of one die (R213, R322) -/

/-- Whether an access goes to a die. -/
def Access.toDie (a : Access) (d : Nat) : Bool := match a.dest with
  | .slot c _ _ => dieOf c == d
  | .dev _ hs => hs.any (fun h => homeDie h == d)
  | _ => false

/-- Loads that their contexts do not wait for, and what must come before them at the die, performed before it goes
(R133): their values are answers sent before the reset. -/
def State.settleDie (s : State) (d : Nat) : State :=
  let waits (a : Access) : Bool := (s.ctx a.core a.ctx).wait == .access a.group
  let due := s.net.filter (fun a => a.toDie d && !a.performed && a.refused.isNone
    && s.net.any (fun b => b.core == a.core && decide (a.id ≤ b.id) && b.kind == .load && !waits b && b.toDie d
      && !b.performed && b.refused.isNone))
  s.each due (fun s a => s.performAt a)

/-- The claims homed on a die are lost: those in its slice queues, in the batch that it applies, and in beats that another
sequencer has applied and it has not. Their contexts elsewhere learn it (R213). -/
def State.loseSlices (s : State) (d : Nat) : State :=
  let lost := (s.slices ++ (s.seqOf d).rest).filter (fun e => onDie d e.addr)
  let top := (List.range 4).foldl (fun m e => max m (s.seqOf e).applied) 0
  let late := (s.seqs.toList.flatMap (·.open_)).filter (fun u => decide ((s.seqOf d).applied ≤ u.beat) && decide (u.beat < top))
  let s := s.each (lost.filter (fun e => dieOf e.core != d)) (fun s e => s.loseTicket e.core e.ctx e.born e.ticket d)
  let s := s.each (late.filter (fun u => dieOf u.core != d)) (fun s u => s.markLost u d)
  { s with slices := s.slices.filter (fun e => !onDie d e.addr), releases := s.releases.filter (fun e => !onDie d e.addr) }

/-- The place of a ticket in merged order, from 2^30 beats before the present one on (R188, R206). -/
def State.ticketAge (s : State) (t : Nat) : Nat :=
  (bits t 62 32 + 2 ^ 31 + 2 ^ 30 - beatOf s.time % 2 ^ 31) % 2 ^ 31 * 2 ^ 32 + t % 2 ^ 32

/-- Every core of a die stops: its launches end with 0x03, and its contexts' tickets are released in merged order, which is that of
the tickets (R206, R213, R322). -/
def State.stopDie (s : State) (d : Nat) : State :=
  let ls := s.launches.filter (fun l => !l.cores.isEmpty && (l.cores.any (fun c => dieOf c == d) || l.parked.any (fun p => dieOf p.core == d)))
  let s := s.each ls (fun s l => s.endLaunch (l.queue, l.seq) 3)
  let s := s.each ((Tab.keys s.cores).filter (fun c => dieOf c == d)) (fun s c => (s.stopCore c true).endAway c (fun _ => true))
  let here := sortBy (fun (a b : Slice) => decide (s.ticketAge a.ticket ≤ s.ticketAge b.ticket)) (s.releases.filter (fun e => dieOf e.core == d))
  let s : State := { s with releases := s.releases.filter (fun e => dieOf e.core != d) ++ here }
  let q := s.seqOf d
  let s := s.setSeq d { q with open_ := q.open_.filter (fun u => decide (u.beat < q.closed)), rest := [] }
  { s with
    submits := s.submits.filter (fun e => dieOf e.1 != d)
    chains := s.chains.map (fun h => if dieOf h.core == d then { h with cancelled := true } else h)
    colls := s.colls.map (fun w => if dieOf w.core == d then { w with bad := some 7 } else w) }

/-- DIE_RESET: a compute stack is marked absent and everything on it stops (R213, R322). -/
def execDieReset (die : Nat) (s : State) : Out :=
  if !(decide (die < 4)) || s.hub.absent.contains die then .next s
  else
    let s := s.settleDie die
    let s : State := { s with hub := { s.hub with absent := insertSet die s.hub.absent } }
    let here := (List.range 48).map (48 * die + ·)
    let ps := (here.filterMap (fun r => (s.cluster r).part)).eraseDups
    let s := (s.loseSlices die).stopDie die
    .next (s.each ps (fun s p =>
      let c := ((here.filter (fun r => (s.cluster r).part == some p)).head?.map (fun r => coreIn r 0)).getD 0
      s.postFatal p c 0 { cause := Cause.dieAbsent.code, detail := die, resume := 0, fpc := 0, va := 0, ipa := 0, jrn := none, async := false } 0 4))

/-- Whether all four peers have drained what they held for a die: what its cores sent has been performed or refused, and what they
held is released (R213, R322). -/
def State.mayComeBack (s : State) (d : Nat) : Bool :=
  s.hub.absent.contains d && s.net.all (fun a => dieOf a.core != d || a.performed || a.refused.isSome)
    && s.xnet.all (fun m => dieOf m.src != d) && s.releases.all (fun e => dieOf e.core != d)

/-- DIE_RESET_COMPLETE: answers for the die are dropped, its banks, registers and hitches are wiped, its queues start
empty, and it is present again (R213, R322). -/
def execDieResetComplete (die : Nat) (s : State) : Out :=
  if !s.mayComeBack die then .next s
  else
    let s : State := { s with
      net := s.net.filter (fun a => dieOf a.core != die || s.chains.any (·.await.contains a.id)), posts := s.posts.filter (fun p => dieOf p.core != die)
      gathers := s.gathers.filter (fun w => dieOf w.core != die), walks := s.walks.filter (fun w => dieOf w.core != die)
      chains := s.chains.filter (fun h => !(dieOf h.core == die && decide (h.chan < 0x1000)))
      running := s.running.filter (fun r => decide (0x1000 ≤ r.1) || r.1 / 192 != die) }
    let s := s.each (s.chains.filter (fun h => h.done && dieOf h.core == die)) State.goNext
    let s := s.each ((List.range 48).map (48 * die + ·)) State.wipeCluster
    let others := (List.range 4).filter (· != die)
    let top (f : Sequencer → Nat) : Nat := others.foldl (fun m d => max m (f (s.seqOf d))) 0
    let s := s.setSeq die { open_ := (s.seqOf die).open_, closed := max (top (·.closed)) (s.seqOf die).closed, applied := top (·.applied), rest := [] }
    .next (State.pruneBeats { s with hub := { s.hub with absent := s.hub.absent.filter (· != die), failed := s.hub.failed.filter (· != die) } })

/-! ### Partitions and their keys (R278, R282) -/

/-- A slot takes a new key (R278). -/
def State.newKey (s : State) (p : Nat) : State :=
  let k := s.part p
  s.setPart p { k with keyNo := k.keyNo + 1, keyGen := (k.keyGen + 1) % 256, pageCtr := 0 }

/-- PARTITION_CREATION: the management core fills the partition's key slot; the partition belongs to a virtual device
(R261, R278). -/
def execPartitionCreation (part vdev : Nat) (s : State) : Out :=
  let t := s.newKey part
  event s (decide (part < 256) && decide (vdev < 64)) (t.setPart part { t.part part with vdev := vdev })

/-- PARTITION_TEARDOWN: its launches end, its clusters are wiped and leave it, the HBM pages that L2 names are wiped, and
its key is replaced (R278, R282, R300, R309, R335). -/
def execPartitionTeardown (part : Nat) (pages : List Nat) (s : State) : Out :=
  if 256 ≤ part then .next s
  else
    let s := s.abandon part
    let s := s.each (s.launches.filter (fun l => !l.cores.isEmpty && (s.queue l.queue).part == part)) (fun s l => s.endLaunch (l.queue, l.seq) 2)
    let s : State := { s with chains := s.chains.map (fun h => if h.part == part then { h with cancelled := true } else h) }
    let s := s.each (s.clustersOf part) (fun s r =>
      let s := s.each (coresOf r) (fun s c => s.stopCore c true)
      let s := s.wipeCluster r
      s.setCluster r { s.cluster r with part := none })
    let s := s.each (pages.filter (fun g => decide (g < 2 ^ 23))) (fun s g =>
      s.each (List.range 5) (fun s i => s.devWipe (i * 2 ^ 48 + g * 65536) 65536))
    let k := s.part part
    .next ((s.setPart part { k with halted := false, tqHeld := [], tqFatal := [], residence := [] }).newKey part)

/-! ### Islands (R284) -/

/-- Whether a thermal step of an island is due that changes its limit: one for each multiple of 1,000,000 ticks. -/
def State.thermalDue (s : State) (n : Nat) : Bool :=
  let i := s.island n
  decide (i.thermAt < s.time / 1000000) && (decide (95 ≤ i.temp) && decide (0 < i.thermal) || decide (i.temp ≤ 85) && decide (i.thermal < 7))

/-- THERMAL_STEP: a sensor's reading, and, at a multiple of 1,000,000 ticks, a step of the thermal limit (R284). -/
def execThermalStep (island : Nat) (temp : BitVec 8) (s : State) : Out :=
  let i := { s.island island with temp := temp.toNat }
  let k := s.time / 1000000
  let j := if i.thermAt < k then
      { i with thermAt := k
               thermal := if 95 ≤ i.temp then i.thermal - 1 else if i.temp ≤ 85 then min 7 (i.thermal + 1) else i.thermal }
    else i
  event s (decide (island < 44)) (s.setIsland island j)

/-- POINT_CHANGE_DONE: an island issues again, at its new point (R284). -/
def execPointChangeDone (island : Nat) (s : State) : Out :=
  let i := s.island island
  event s (decide (island < 44) && i.busy != 0 && decide (i.busy ≤ s.time))
    { s with hub := { s.hub with islands := s.hub.islands.setIfInBounds island { i with busy := 0 } } }

end Sys2Proof.Machine
end

