-- ==== Sys2Proof/Machine/Float.lean ====
section
/-!
DEFINITION. Class 0x1: scalar float and conversion (R65 to R68).
-/

namespace Sys2Proof.Machine

/-- A two-source scalar float operation, with the negate bits applied first (R65). -/
def floatOp (x : OpFA) (f : Rnd → Nat → Nat → Nat) (s : State) : Res :=
  let r := rndOf s.me x.rnd x.sat
  .done (s.setMe (s.me.ws x.a (widen x.ty
    (f r (negIf x.ty x.bneg (codeS s.me x.ty x.b)) (negIf x.ty x.cneg (codeS s.me x.ty x.c))))))

/-- A scalar float compare (R67). -/
def fcmpOp (c : Cond) (x : OpFCmp) (s : State) : Res :=
  .done (s.setMe (s.me.wp x.p (predAll (cmpF c x.ty (codeS s.me x.ty x.b) (codeS s.me x.ty x.c)))))

/-- Sum (R65). -/
def execFadd (h : Hdr) (x : OpFA) (s : State) : Out :=
  issue h plain (floatOp x (fun r b c => addF x.ty r b c)) s

/-- Difference (R65). -/
def execFsub (h : Hdr) (x : OpFA) (s : State) : Out :=
  issue h plain (floatOp x (fun r b c => subF x.ty r b c)) s

/-- Product (R65). -/
def execFmul (h : Hdr) (x : OpFA) (s : State) : Out :=
  issue h plain (floatOp x (fun r b c => mulF x.ty r b c)) s

/-- Quotient (R65). -/
def execFdiv (h : Hdr) (x : OpFA) (s : State) : Out :=
  issue h plain (floatOp x (fun r b c => divF x.ty r b c)) s

/-- Smaller source (R66). -/
def execFmin (h : Hdr) (x : OpFA) (s : State) : Out :=
  issue h plain (floatOp x (fun _ b c => minF x.ty b c)) s

/-- Larger source (R66). -/
def execFmax (h : Hdr) (x : OpFA) (s : State) : Out :=
  issue h plain (floatOp x (fun _ b c => maxF x.ty b c)) s

/-- B × C + A, rounded once (R65). -/
def execFfma (h : Hdr) (x : OpFA) (s : State) : Out :=
  issue h plain (fun s => floatOp x (fun r b c => fmaF x.ty r b c (codeS s.me x.ty x.a)) s) s

/-- Square root (R65). -/
def execFsqrt (h : Hdr) (x : OpFU) (s : State) : Out :=
  issue h plain (fun s => .done (s.setMe (s.me.ws x.a (widen x.ty
    (sqrtF x.ty (rndOf s.me x.rnd x.sat) (negIf x.ty x.bneg (codeS s.me x.ty x.b))))))) s

/-- Conversion between scalar types (R68). -/
def execFcvt (h : Hdr) (x : OpCvt) (s : State) : Out :=
  issue h plain (fun s => .done (s.setMe (s.me.ws x.a (widen x.dty
    (convE x.dty x.sty (rndOf s.me x.rnd x.sat) (codeS s.me x.sty x.b)))))) s

/-- Compare eq (R67). -/
def execFcmpEq (h : Hdr) (x : OpFCmp) (s : State) : Out := issue h plain (fcmpOp .eq x) s

/-- Compare ne (R67). -/
def execFcmpNe (h : Hdr) (x : OpFCmp) (s : State) : Out := issue h plain (fcmpOp .ne x) s

/-- Compare lt (R67). -/
def execFcmpLt (h : Hdr) (x : OpFCmp) (s : State) : Out := issue h plain (fcmpOp .lt x) s

/-- Compare le (R67). -/
def execFcmpLe (h : Hdr) (x : OpFCmp) (s : State) : Out := issue h plain (fcmpOp .le x) s

/-- Compare gt (R67). -/
def execFcmpGt (h : Hdr) (x : OpFCmp) (s : State) : Out := issue h plain (fcmpOp .gt x) s

/-- Compare ge (R67). -/
def execFcmpGe (h : Hdr) (x : OpFCmp) (s : State) : Out := issue h plain (fcmpOp .ge x) s

/-- Compare un (R67). -/
def execFcmpUn (h : Hdr) (x : OpFCmp) (s : State) : Out := issue h plain (fcmpOp .un x) s

end Sys2Proof.Machine
end

