-- ==== Sys2Proof/Machine/Int.lean ====
section
/-!
DEFINITION. Class 0x0: scalar integer and pointer instructions (R59 to R64).
-/

namespace Sys2Proof.Machine

/-- A two-source integer operation of element codes (R56, R59). -/
def intOp (x : OpRRI) (f : Nat → Nat → Nat) (s : State) : Res :=
  .done (s.setMe (s.me.ws x.a (widen x.ty (f (codeS s.me x.ty x.b) (srcSI s.me x.ty x.c)))))

/-- A scalar integer compare (R57, R63). -/
def cmpOp (c : Cond) (x : OpCmp) (s : State) : Res :=
  .done (s.setMe (s.me.wp x.p (predAll (cmpI c x.ty (codeS s.me x.ty x.b) (srcSI s.me x.ty x.c)))))

/-- A one-source pointer operation (R64). -/
def ptrPart (x : OpRR) (hi lo : Nat) (s : State) : Res :=
  .done (s.setMe (s.me.ws x.a (BitVec.ofNat 64 (bits (s.me.rs x.b).toNat hi lo))))

/-- Sum, wrapped or saturated (R59). -/
def execAdd (h : Hdr) (x : OpRRI) (s : State) : Out :=
  issue h plain (intOp x (fun b c => fitI x.ty x.sat (intOf x.ty b + intOf x.ty c))) s

/-- Difference (R59). -/
def execSub (h : Hdr) (x : OpRRI) (s : State) : Out :=
  issue h plain (intOp x (fun b c => fitI x.ty x.sat (intOf x.ty b - intOf x.ty c))) s

/-- Product (R59). -/
def execMul (h : Hdr) (x : OpRRI) (s : State) : Out :=
  issue h plain (intOp x (fun b c => fitI x.ty x.sat (intOf x.ty b * intOf x.ty c))) s

/-- High half of the product (R59). -/
def execMulh (h : Hdr) (x : OpRRI) (s : State) : Out :=
  issue h plain (intOp x (fun b c => mulhI x.ty b c)) s

/-- Quotient (R60). -/
def execDiv (h : Hdr) (x : OpRRI) (s : State) : Out :=
  issue h plain (intOp x (fun b c => divI x.ty x.sat b c)) s

/-- Remainder (R60). -/
def execRem (h : Hdr) (x : OpRRI) (s : State) : Out :=
  issue h plain (intOp x (fun b c => remI x.ty b c)) s

/-- Bitwise and (R59). -/
def execAnd (h : Hdr) (x : OpRRI) (s : State) : Out :=
  issue h plain (intOp x (fun b c => b &&& c)) s

/-- Bitwise or (R59). -/
def execOr (h : Hdr) (x : OpRRI) (s : State) : Out :=
  issue h plain (intOp x (fun b c => b ||| c)) s

/-- Bitwise exclusive or (R59). -/
def execXor (h : Hdr) (x : OpRRI) (s : State) : Out :=
  issue h plain (intOp x (fun b c => b ^^^ c)) s

/-- Shift left (R61). -/
def execShl (h : Hdr) (x : OpRRI) (s : State) : Out :=
  issue h plain (intOp x (fun b c => shlI x.ty b c)) s

/-- Logical shift right (R61). -/
def execShr (h : Hdr) (x : OpRRI) (s : State) : Out :=
  issue h plain (intOp x (fun b c => shrI x.ty b c)) s

/-- Arithmetic shift right (R61). -/
def execSar (h : Hdr) (x : OpRRI) (s : State) : Out :=
  issue h plain (intOp x (fun b c => sarI x.ty b c)) s

/-- Smaller source (R59). -/
def execMin (h : Hdr) (x : OpRRI) (s : State) : Out :=
  issue h plain (intOp x (fun b c => minE x.ty b c)) s

/-- Larger source (R59). -/
def execMax (h : Hdr) (x : OpRRI) (s : State) : Out :=
  issue h plain (intOp x (fun b c => maxE x.ty b c)) s

/-- Selection by bit 0 of a predicate, on all 64 bits (R62). -/
def execSel (h : Hdr) (x : OpSel) (s : State) : Out :=
  issue h plain (fun s => .done (s.setMe (s.me.ws x.a (if predBit s.me x.p x.neg 0 then s.me.rs x.b else src64 s.me x.c)))) s

/-- A signed 24-bit immediate (R62). -/
def execLi (h : Hdr) (x : OpImm) (s : State) : Out :=
  issue h plain (fun s => .done (s.setMe (s.me.ws x.a (x.imm.signExtend 64)))) s

/-- A shifted left by 24 with an unsigned immediate below (R62). -/
def execLui (h : Hdr) (x : OpImm) (s : State) : Out :=
  issue h plain (fun s => .done (s.setMe (s.me.ws x.a ((s.me.rs x.a <<< 24) ||| x.imm.zeroExtend 64)))) s

/-- A register or a sign-extended immediate (R62). -/
def execMov (h : Hdr) (x : OpMov) (s : State) : Out :=
  issue h plain (fun s => .done (s.setMe (s.me.ws x.a (src64 s.me x.b)))) s

/-- Compare eq (R63). -/
def execCmpEq (h : Hdr) (x : OpCmp) (s : State) : Out := issue h plain (cmpOp .eq x) s

/-- Compare ne (R63). -/
def execCmpNe (h : Hdr) (x : OpCmp) (s : State) : Out := issue h plain (cmpOp .ne x) s

/-- Compare lt (R63). -/
def execCmpLt (h : Hdr) (x : OpCmp) (s : State) : Out := issue h plain (cmpOp .lt x) s

/-- Compare le (R63). -/
def execCmpLe (h : Hdr) (x : OpCmp) (s : State) : Out := issue h plain (cmpOp .le x) s

/-- Compare gt (R63). -/
def execCmpGt (h : Hdr) (x : OpCmp) (s : State) : Out := issue h plain (cmpOp .gt x) s

/-- Compare ge (R63). -/
def execCmpGe (h : Hdr) (x : OpCmp) (s : State) : Out := issue h plain (cmpOp .ge x) s

/-- A pointer from an offset and a tag (R64). -/
def execPtag (h : Hdr) (x : OpPtr) (s : State) : Out :=
  issue h plain (fun s =>
    let c := (src64 s.me x.c).toNat
    let bad := bits c 63 16 != 0 || decide (5 ≤ bits c 15 12) || (bits c 15 12 == 0 && bits c 11 0 != 0)
      || (bits c 15 12 == 2 && bit c 0)
    s.need (!bad) .illegalPointer
      (.done (s.setMe (s.me.ws x.a (BitVec.ofNat 64 (c * 2 ^ 48 + bits (s.me.rs x.b).toNat 47 0)))))) s

/-- The space code (R64). -/
def execPspace (h : Hdr) (x : OpRR) (s : State) : Out := issue h plain (ptrPart x 63 60) s

/-- The owner field (R64). -/
def execPowner (h : Hdr) (x : OpRR) (s : State) : Out := issue h plain (ptrPart x 59 48) s

/-- The offset (R64). -/
def execPoff (h : Hdr) (x : OpRR) (s : State) : Out := issue h plain (ptrPart x 47 0) s

/-- An addition to the offset that never touches the tag (R64). -/
def execPadd (h : Hdr) (x : OpPtr) (s : State) : Out :=
  issue h plain (fun s =>
    let p := (s.me.rs x.b).toNat
    let o : Int := bits p 47 0 + (src64 s.me x.c).toInt
    s.need (decide (0 ≤ o) && decide (o < 2 ^ 48)) .illegalPointer
      (.done (s.setMe (s.me.ws x.a (BitVec.ofNat 64 (p / 2 ^ 48 * 2 ^ 48 + o.toNat)))))) s

end Sys2Proof.Machine
end

