-- ==== Sys2Proof/Machine/Mem.lean ====
section
/-!
DEFINITION. Class 0x8: loads, stores and prefetch (R174 to R182).
-/

namespace Sys2Proof.Machine

/-- A load's request (R176, R177). -/
def State.loadReq (s : State) (spaces : List Nat) (ty : ETy) (r base : SReg) (disp : BitVec 12) (sc : Option Scope) : MemReq :=
  { spaces := spaces, base := s.me.rs base, disp := dispBytes ty disp, kind := .load, size := ty.size
    align := if sc.isSome then ty.size else 1, data := 0, scope := sc, acq := sc.isSome, rel := false
    reg := some (.s r.toNat), ty := ty }

/-- A store's request (R176, R177): the low bits of the source. -/
def State.storeReq (s : State) (spaces : List Nat) (ty : ETy) (r base : SReg) (disp : BitVec 12) (sc : Option Scope) : MemReq :=
  { spaces := spaces, base := s.me.rs base, disp := dispBytes ty disp, kind := .store, size := ty.size
    align := if sc.isSome then ty.size else 1, data := codeS s.me ty r, scope := sc, acq := false, rel := sc.isSome
    reg := none, ty := ty }

/-- Relaxed load from spaces 0 to 2 (R176, R179). -/
def execLd (h : Hdr) (x : OpLd) (s : State) : Out :=
  issue h plain (fun s => s.memOp (s.loadReq [0, 1, 2, 4] x.ty x.r x.base x.disp none)) s

/-- Acquire load from spaces 0 to 2 (R139, R176). -/
def execLdAcq (h : Hdr) (x : OpLdO) (s : State) : Out :=
  issue h plain (fun s => s.memOp (s.loadReq [0, 1, 2] x.ty x.r x.base x.disp (some x.sc))) s

/-- Relaxed store to spaces 0 to 2 (R176, R179). -/
def execSt (h : Hdr) (x : OpLd) (s : State) : Out :=
  issue h plain (fun s => s.memOp (s.storeReq [0, 1, 2] x.ty x.r x.base x.disp none)) s

/-- Release store to spaces 0 to 2 (R139, R180). -/
def execStRel (h : Hdr) (x : OpLdO) (s : State) : Out :=
  issue h plain (fun s => s.memOp (s.storeReq [0, 1, 2] x.ty x.r x.base x.disp (some x.sc))) s

/-- Relaxed load from space 0 (R176, R179). -/
def execLdg (h : Hdr) (x : OpLd) (s : State) : Out :=
  issue h plain (fun s => s.memOp (s.loadReq [0] x.ty x.r x.base x.disp none)) s

/-- Acquire load from space 0 (R139, R176). -/
def execLdgAcq (h : Hdr) (x : OpLdO) (s : State) : Out :=
  issue h plain (fun s => s.memOp (s.loadReq [0] x.ty x.r x.base x.disp (some x.sc))) s

/-- Relaxed store to space 0 (R176, R179). -/
def execStg (h : Hdr) (x : OpLd) (s : State) : Out :=
  issue h plain (fun s => s.memOp (s.storeReq [0] x.ty x.r x.base x.disp none)) s

/-- Release store to space 0 (R139, R180). -/
def execStgRel (h : Hdr) (x : OpLdO) (s : State) : Out :=
  issue h plain (fun s => s.memOp (s.storeReq [0] x.ty x.r x.base x.disp (some x.sc))) s

/-- Relaxed load from space 3 (R176, R179). -/
def execLdh (h : Hdr) (x : OpLd) (s : State) : Out :=
  issue h plain (fun s => s.memOp (s.loadReq [3] x.ty x.r x.base x.disp none)) s

/-- Acquire load from space 3 (R139, R176). -/
def execLdhAcq (h : Hdr) (x : OpLdO) (s : State) : Out :=
  issue h plain (fun s => s.memOp (s.loadReq [3] x.ty x.r x.base x.disp (some x.sc))) s

/-- Relaxed store to space 3 (R176, R179). -/
def execSth (h : Hdr) (x : OpLd) (s : State) : Out :=
  issue h plain (fun s => s.memOp (s.storeReq [3] x.ty x.r x.base x.disp none)) s

/-- Release store to space 3 (R139, R180). -/
def execSthRel (h : Hdr) (x : OpLdO) (s : State) : Out :=
  issue h plain (fun s => s.memOp (s.storeReq [3] x.ty x.r x.base x.disp (some x.sc))) s

/-- A translation brought into the TLBs of the issuing core: from its cluster's, or by a walk (R182, R268). -/
def State.prefetch (s : State) (va : Nat) : State :=
  let asid := xlatAsid s.me.xlat.toNat
  match tlbHit s.mycore.l1 asid va, tlbHit (s.cluster (clusterOf s.cur)).l2 asid va with
  | some _, _ => s
  | none, some e => s.fillFirst s.cur e
  | none, none => s.startWalk s.cur s.curCtx va false true

/-- Prefetch of a translation (R182; assumption 94): it never faults, and a miss starts a walk that nothing waits for. -/
def execPref (h : Hdr) (x : OpPref) (s : State) : Out :=
  issue h plain (fun s =>
    match displace (s.me.rs x.base).toNat (dispBytes x.ty x.disp) with
    | none => .done s
    | some p => match s.resolve s.cur p with
      | some (.glb va) => .done (s.prefetch va)
      | some (.host a) => .done (s.prefetch a)
      | _ => .done s) s

end Sys2Proof.Machine
end

