-- ==== Sys2Proof/Machine/Migrate.lean ====
section
/-!
DEFINITION. The virtual-die map, live migration and cuts across devices: remaps, the migration bits, the stop of a device
with its image, the restoration of an image, and the splice markers of a job (R273, R274, R336 to R339).
-/

namespace Sys2Proof.Machine

/-! ### The virtual-die map (R273, R274) -/

/-- Physical stack of a virtual die under a map. -/
def stackOf (m d : Nat) : Nat := bits m (2 * d + 1) (2 * d)

/-- The virtual die whose stack under the old map a die has under the new one. -/
def stackFrom (old new d : Nat) : Nat := ((List.range 4).find? (fun w => stackOf old w == stackOf new d)).getD d

/-- Whether a live context references a virtual die (R274). -/
def State.references (s : State) (d : Nat) : Bool :=
  s.cores.any (fun e => e.2.ctxs.any (fun k => k.2.live
    && (dieOf e.1 == d || (k.2.ticket.isSome && k.2.claims.any (fun c => onDie d c.1)))))

/-- A device address of HBM whose virtual die, in bits 15:14 of one of kind 0 (R266), is renamed by f; others stand as they are. -/
def renameDie (f : Nat → Nat) (a : Nat) : Nat := if a < 2 ^ 39 then a / 65536 * 65536 + f (bits a 15 14) * 16384 + a % 16384 else a

/-- A new map in force: banks of no hitch are those of the stack now mapped, and a bank that a suspended context holds is carried to
it (R274); the contents of HBM stay on their stacks, so that a virtual die now has those of the one that its stack was (R266, R273).
No TLB keeps a kind-1 page's old place (R267). -/
def State.remap (s : State) (new : Nat) : State :=
  let old := s.hub.vdiemap
  let held (b : Nat) : Bool := (s.hitch b).st != .free
  let span := 48 * 64
  let there (b : Nat) : Nat := stackFrom old new (b / span) * span + b % span
  let back (b : Nat) : Nat := stackFrom new old (b / span) * span + b % span
  let targets (b : Nat) : List Nat := (if held b then [b] else []) ++ (if held (back b) then [] else [back b])
  let banks : Memory := s.banks.foldl (fun (m : Memory) c =>
    (targets (c.1 / 65536)).foldl (fun (m : Memory) b => Memory.set m (b * 65536 + c.1 % 65536) c.2) m) []
  let tags : Tab Nat := s.tags.foldl (fun (t : Tab Nat) e =>
    (targets (e.1 / 16)).foldl (fun (t : Tab Nat) b => Tab.put t (b * 16 + e.1 % 16) e.2) t) []
  let bad : List Nat := s.badBank.foldl (fun (l : List Nat) w =>
    (targets (w / 8192)).foldl (fun (l : List Nat) b => insertSet (b * 8192 + w % 8192) l) l) []
  let lost := (s.liveBanks.filter (fun b => there b != b && held (there b))).map (fun b => (b, there b))
  let home (a : Nat) : Nat := renameDie (stackFrom new old) a
  let bare (s : State) : State := { s with
    cores := s.cores.map (fun e => (e.1, { e.2 with l1 := [] })), clusters := s.clusters.map (fun e => (e.1, { e.2 with l2 := [] })) }
  bare { s with
    banks := banks, tags := tags, badBank := bad
    mem := s.mem.foldl (fun (m : Memory) c => Memory.set m (home c.1) c.2) []
    badMem := s.badMem.foldl (fun (l : List Nat) n => insertSet (home (64 * n) / 64) l) []
    hub := { s.hub with vdiemap := new, displaced := s.hub.displaced ++ lost } }

/-- The virtual dies whose stack a map changes. -/
def State.changed (s : State) (new : Nat) : List Nat :=
  (List.range 4).filter (fun d => stackOf new d != stackOf s.hub.vdiemap d)

/-- Whether an accepted map may come into force: its invalidation is done, no context references what it changes, no access is under way
to it, and the engines of the affected dies stand at strand boundaries (R274). -/
def State.mayRemap (s : State) : Bool :=
  match s.hub.mapTo with
  | none => false
  | some (new, q) => s.invals.all (fun v => v.seq != q || s.invDone v) && !(s.changed new).any s.references
      && s.chains.all (fun h => !(s.changed new).contains (dieOf h.core) || (h.await.isEmpty && h.lane.isNone))
      && s.net.all (fun a => a.performed || a.refused.isSome || !(s.changed new).any a.toDie)

/-- VDIEMAP_WRITE: a map write is accepted, with an invalidation of every TLB, or refused (R273, R274); the same event, once the
invalidation is done, replaces the map. -/
def execVdiemapWrite (value : Word) (s : State) : Out :=
  let new := bits value.toNat 7 0
  match s.hub.mapTo with
  | some (m, _) =>
    let t := s.remap m
    event s (m == new && s.mayRemap) { t with hub := { t.hub with mapTo := none } }
  | none =>
    let t := s.invalidate { seq := 0, scope := 5, core := 0, kind := 4, addr := 0, vdev := 0, asid := 0, waits := [] }
    event s (mapOk new && !(s.changed new).any s.references) { t with hub := { t.hub with mapTo := some (new, t.hub.invSeq) } }

/-! ### Migration bits (R336) -/

/-- DBWORD: 64 migration bits read and cleared in one act (R336). -/
def execDbword (s : State) : Out :=
  let r := s.readDbword
  .next { r.2 with hub := { r.2.hub with egress := r.2.hub.egress ++ [.dbword r.1] } }

/-! ### Stopping the device (R337) -/

/-- Whether no queue with a running launch lacks a save base. -/
def State.mayBeStopped (s : State) : Bool := s.queues.all (fun e => (s.startedOf e.1).isEmpty || e.2.saveOn)

/-- A stop accepted: every queue is disabled, and the queues that were enabled are remembered. -/
def State.beginStop (s : State) (addr : Nat) (job : Option Nat) : State :=
  { s with
    queues := s.queues.map (fun e => (e.1, { e.2 with enabled := false })), starting := none
    hub := { s.hub with
      stopErr := false, stopping := some (addr, job), stopped := false, stopAddr := addr, cutDone := false
      stopOn := (s.queues.filter (fun e => e.2.enabled)).map (·.1) } }

/-- Whether a stop waits for nothing but its units: no collective is in progress and no launch starts or ends. -/
def State.stopSettled (s : State) : Bool :=
  s.colls.isEmpty && s.launches.all (fun l => l.begun && l.status == 0 && decide (l.ended.length < l.team))

/-- Cores whose unit is not yet asked to leave. -/
def State.unitsLeft (s : State) : List Nat := (s.cores.filter (fun e => e.2.unit.isSome && e.2.preempt.isNone)).map (·.1)

/-- Whether every unit is saved and every chain stands at a strand boundary. -/
def State.stopDone (s : State) : Bool := s.stopSettled && s.cores.all (fun e => e.2.unit.isNone) && s.running.isEmpty

/-- Whether a stop under way goes on. -/
def State.mayStopMore (s : State) : Bool :=
  s.hub.stopping.isSome && !s.hub.stopped && ((s.stopSettled && !s.unitsLeft.isEmpty) || s.stopDone)

/-- A queue's part of the image (R337): its control word as it stood when the stop came. -/
def State.queueImage (s : State) (q : Nat) : List (Nat × Nat) :=
  let k := s.queue q
  [(2, q), (2, k.pending.length), (4, k.nextSeq), (8, ({ k with enabled := s.hub.stopOn.contains q } : WQueue).word),
    (8, k.chainWord), (8, s.saveWord q), (32, 0)] ++ k.pending.flatMap (fun r => [(1, r.n - 1), (63, 0), (512, r.bytes)])

/-- A launch's part of the image. -/
def launchImage (l : Launch) : List (Nat × Nat) :=
  let low := l.cores.foldl (fun m c => if c < 1536 then min m (clusterOf c) else m) 191
  [(2, l.queue), (2, 0), (4, l.seq), (2, l.team), (2, l.ended.length), (2, low), (50, 0)]

/-- A chain's part of the image; bit 0 of byte 5, which R337 leaves undescribed, tells a swap channel (assumption 73). -/
def State.chainImage (s : State) (h : Chain) : List (Nat × Nat) :=
  [(1, chanValue h.chan), (1, h.part), (2, h.core), (1, h.ctx + h.q * 16), (1, b2n (decide (0x2000 ≤ h.chan))), (2, 0), (8, s.strandAt h), (48, 0)]

/-- The stop image as bytes in rising order (R337). -/
def State.stopImage (s : State) : List (Nat × Nat) :=
  let cs := s.chains.filter (fun h => h.mode == 0 && s.strandAt h != 0)
  [(4, 0x56530001), (2, s.queues.length), (2, s.launches.length), (2, cs.length), (6, 0), (8, s.time), (40, 0)]
    ++ (Tab.keys s.queues).flatMap s.queueImage ++ s.launches.flatMap launchImage ++ cs.flatMap s.chainImage

/-- A stop taken further: the units are pre-empted to their areas, and then the image is written (R337). -/
def State.advanceStop (s : State) : State :=
  if !s.mayStopMore then s
  else if s.stopDone then
    let im := s.stopImage
    let n := im.foldl (fun a f => a + f.1) 0
    let addr := (s.hub.stopping.getD (0, none)).1
    let s := if s.devRange addr n then s.devWrite addr n (packB im) else s
    { s with hub := { s.hub with stopped := true } }
  else s.each (Tab.keys s.queues) State.preemptQueue

/-- MIGRATION_STOP: BAR2 0x0110 written (R337); the same event takes the stop further until its image is written. -/
def execMigrationStop (addr : Nat) (s : State) : Out :=
  match s.hub.stopping with
  | some (a, _) => .next (if a = addr then s.advanceStop else s)
  | none =>
    if addr % 4096 != 0 || !s.devRange addr 1 then .next s
    else if !s.mayBeStopped then .next { s with hub := { s.hub with stopErr := true } }
    else .next (s.beginStop addr none)

/-! ### Cuts (R339) -/

/-- Links that a job's partitions may use (R262, R339). -/
def State.jobLinks (s : State) (job : Nat) : List Nat :=
  let ps := (s.queues.filter (fun e => e.2.job == job)).map (·.2.part)
  (List.range 8).filter (fun n => s.clusters.any (fun e => (match e.2.part with
    | some p => ps.contains p
    | none => false) && bit e.2.perm (193 + n)))

/-- Whether a cut's image is complete: it is written, and a marker has come on every link of the job. -/
def State.mayCut (s : State) (job : Nat) : Bool :=
  s.hub.stopped && !s.hub.cutDone && s.hub.cutJob == some job && (s.jobLinks job).all (fun n => (s.link n).cut == some job)

/-- JOB_CUT: BAR2 0x0120 written (R339): a marker leaves on every link of the job before anything is parked, and the
device stops; the same event takes the stop further and completes the cut. -/
def execJobCut (job : BitVec 32) (s : State) : Out :=
  let j := job.toNat
  match s.hub.stopping with
  | some (_, some k) =>
    if k != j then .next s
    else if s.mayCut j then .next { s with hub := { s.hub with cutDone := true } }
    else .next s.advanceStop
  | some (_, none) => .next s
  | none =>
    if !s.mayBeStopped then .next { s with hub := { s.hub with stopErr := true } }
    else
      let marks : List Egress := (s.jobLinks j).map (fun n => .splice n job)
      let s : State := { s with hub := { s.hub with egress := s.hub.egress ++ marks, cutJob := some j } }
      .next (s.beginStop s.hub.stopAddr (some j))

/-! ### Restoring an image (R338) -/

/-- A queue of an image: its number, its 64 bytes and its records. -/
structure QImage where
  queue : Nat
  word  : Nat
  recs  : List (Nat × Nat)

/-- The queues of an image from an address on, n of them, and where they end. -/
def State.readQueues (s : State) : Nat → Nat → List QImage × Nat
  | 0, a => ([], a)
  | n + 1, a =>
    let w := s.mem.read a 64
    let k := min 256 (fieldB w 2 2)
    let rs := (List.range k).map (fun i => (s.mem.read (a + 64 + 576 * i) 1 % 8 + 1, s.mem.read (a + 64 + 576 * i + 64) 512))
    let r := s.readQueues n (a + 64 + 576 * k)
    ({ queue := fieldB w 0 2 % 8192, word := w, recs := rs } :: r.1, r.2)

/-- A queue put back, disabled, with its records numbered up to its next sequence number (R338). -/
def State.restoreQueue (s : State) (q : QImage) : State :=
  let next := fieldB q.word 4 4
  let c := fieldB q.word 8 8
  let base := next + 2 ^ 32 - q.recs.length
  let k := s.queue q.queue
  let k : WQueue := { k with
    enabled := false, discard := bit c 62, weight := max 1 (bits c 55 48), prio := bits c 47 45, part := bits c 39 32, job := bits c 31 0
    saveOn := bit (fieldB q.word 24 8) 63, saveBase := bits (fieldB q.word 24 8) 47 21 * 2 ^ 21, nextSeq := next
    pending := q.recs.zipIdx.map (fun e => ({ seq := (base + e.2) % 2 ^ 32, n := e.1.1, bytes := e.1.2, read := false, dep := none
                                              eligible := none, arrival := [], chain := 0 } : PRec)) }
  (s.setQueue q.queue k).chainWrite q.queue (BitVec.ofNat 64 (fieldB q.word 16 8))

/-- The areas of a launch's units that are valid context-0 areas: rank, base and area (R320, R330). -/
def State.unitAreas (s : State) (base team : Nat) : List (Nat × Nat × Nat) :=
  (List.range team).filterMap (fun r =>
    let b := base + r * 0x200000
    let v := s.mem.read b (areaBytes true)
    if s.devRange b 1 && areaOk v 0 true then some (r, b, v) else none)

/-- Helpers saved with a unit: their areas are valid and of the same save. -/
def State.helperAreas (s : State) (base v : Nat) : List Nat :=
  ((List.range 15).map (· + 1)).filter (fun x =>
    let w := s.mem.read (base + x * 0x20000) (areaBytes false)
    areaOk w x false && fieldB w 0x10 8 == fieldB v 0x10 8 && fieldB w 6 2 == fieldB v 6 2)

/-- A launch of an image that this device does not hold: its units stand switched out in their areas, and what the image
does not hold is open (assumption 11). -/
def State.adoptLaunch (s : State) (w base : Nat) : Option State :=
  let q := fieldB w 0 2
  let seq := fieldB w 4 4
  let team := fieldB w 8 2
  let live := team - fieldB w 10 2
  let us := (s.unitAreas base team).take live
  if us.length < live then none
  else
    let key := q * 2 ^ 32 + seq
    let p (e : Nat × Nat × Nat) : Parked :=
      { rank := e.1, core := fieldB e.2.2 6 2, base := e.2.1, reos := false, released := false, arrived := false, barDone := false, record := []
        banks := areaSlots e.2.2, heir := none }
    let l : Launch :=
      { queue := q, seq := seq, bytes := Config.imageLost (2 * key), chain := 0
        cores := (List.range team).map (fun r => ((us.find? (·.1 == r)).map (fun e => fieldB e.2.2 6 2)).getD 1536)
        team := team, ended := (List.range team).filter (fun r => us.all (·.1 != r)), begun := true, preload := team
        xlat := (s.queue q).xlat, args := bits (s.queue q).args.toNat 47 15 * 32768 + seq % 64 * 512, parked := us.map p, phase := Config.imageLost (2 * key + 1) % 3, t0 := s.time, start := s.time
        noRoll := true, replayed := false, rbPending := false, lastArr := s.time, status := 0 }
    let s := s.each us (fun s e =>
      let c := fieldB e.2.2 6 2
      let n := s.nonce
      { s.setCore c { s.core c with out := (0 :: s.helperAreas e.2.1 e.2.2).map (fun x =>
          ({ ctx := x, born := n + x, slot := none, unit := some (q, seq), invs := [], base := e.2.1 } : Away)) }
        with nonce := n + 16 })
    some { s with launches := s.launches ++ [l] }

/-- Every unit of a launch resumed on its core from its area; none where one is refused (R319, R338). -/
def State.resumeLaunch (s : State) (q seq : Nat) : Option State :=
  match s.launch? (q, seq) with
  | none => none
  | some l => l.parked.foldl (fun (m : Option State) p => m.bind (fun t => t.resumeCore p.base p.core)) (some s)

/-- A launch of an image restored; u counts the units of the queue's launches before it (R330). -/
def State.restoreLaunch (s : State) (w u : Nat) : Option State :=
  let q := fieldB w 0 2 % 8192
  let seq := fieldB w 4 4
  let t := if (s.launch? (q, seq)).isSome then some s else s.adoptLaunch w ((s.queue q).saveBase + u * 0x200000)
  t.bind (fun t => t.resumeLaunch q seq)

/-- Units of the launches of an image that stand before one in the save areas of its queue. -/
def unitsBefore (ls : List Nat) (w : Nat) : Nat :=
  (ls.filter (fun v => fieldB v 0 2 == fieldB w 0 2 && decide (fieldB v 4 4 < fieldB w 4 4))).foldl (fun a v => a + fieldB v 8 2) 0

/-- A chain of an image queued again at its parked strand, on the same channel (R338; assumption 73). -/
def State.restoreChain (s : State) (w : Nat) : State :=
  let c := fieldB w 2 2
  let x := fieldB w 4 1 % 16
  let q := bits (fieldB w 4 1) 6 4
  let cur := fieldB w 8 8
  let k := s.ctx c x
  let ch := fieldB w 0 1
  let chan := if bit (fieldB w 5 1) 0 then swapChan ch else copyChan c ch
  if s.chains.any (fun h => h.mode == 0 && h.chan == chan && h.core == c && h.ctx == x && h.q == q && s.strandAt h == cur) then s
  else
    let h : Chain := { id := s.nonce, chan := chan, core := c, ctx := x, born := k.born, part := fieldB w 1 1, q := q, ident := 0
                       cur := cur, prev := 0, first := false, begun := true, lane := none, stamp := s.nonce, cancelled := false
                       xlat := k.xlat.toNat, level := k.level, unit := if k.inUnit then (s.core c).unit else none, mode := 0, queue := 0, rank := 0, again := false }
    let t := s.fresh.2
    { t with chains := t.chains ++ [h] }

/-- Flits held behind splice markers delivered, ahead of newer ones (R339). -/
def State.releaseFlits (s : State) : State :=
  s.each (List.range 8) (fun s n =>
    let l := s.link n
    let s := s.setLink n { l with cut := none, heldFlits := [] }
    s.each l.heldFlits (fun s f => s.deliverFlit n f))

/-- STOP_IMAGE_RESTORE: BAR2 0x0118 written (R338): queues, launches and chains of an image, or nothing enabled. -/
def execStopImageRestore (addr : Nat) (s : State) : Out :=
  let hd := s.mem.read addr 64
  let qs := s.readQueues (fieldB hd 4 2) (addr + 64)
  let nl := fieldB hd 6 2
  let ls := (List.range nl).map (fun i => s.mem.read (qs.2 + 64 * i) 64)
  let cs := (List.range (fieldB hd 8 2)).map (fun i => s.mem.read (qs.2 + 64 * nl + 64 * i) 64)
  if addr % 4096 != 0 || !s.devRange addr 1 then .next s
  else
    let fresh : State := { s with hub := { s.hub with stopping := none, stopped := false, stopOn := [], cutJob := none, cutDone := false
                                                      restoreErr := false } }
    let t := fresh.each qs.1 State.restoreQueue
    let t := if fieldB hd 0 4 != 0x56530001 then none
      else ls.foldl (fun (m : Option State) w => m.bind (fun t => t.restoreLaunch w (unitsBefore ls w))) (some t)
    match t with
    | none =>
      let off : State := { s with queues := s.queues.map (fun e => (e.1, { e.2 with enabled := false })) }
      .next { off with hub := { off.hub with restoreErr := true } }
    | some t =>
      let t := t.each qs.1 (fun t q => t.setQueue q.queue { t.queue q.queue with enabled := bit (fieldB q.word 8 8) 63 })
      .next (t.each cs State.restoreChain).releaseFlits

end Sys2Proof.Machine
end

