-- ==== Sys2Proof/Machine/SfnNum.lean ====
section
/-!
DEFINITION. The special functions (R54, R55): special inputs and exact cases as the spec gives them, and otherwise
one of the two neighbours of the exact result, found from a lower bound good to 240 bits; where the mode leaves the neighbour
open, a free value of Config gives the input from which on the upper one is given (assumption 7).
-/

namespace Sys2Proof.Machine

/-- The special functions (R89). -/
inductive Sfn where
  | exp2 | log2 | exp | log | rcp | rsqrt | tanh | sigm
  deriving DecidableEq, Repr

/-- Number of a function in the class-0x5 table (R29). -/
def Sfn.code : Sfn → Nat
  | .exp2 => 0 | .log2 => 1 | .exp => 2 | .log => 3 | .rcp => 4 | .rsqrt => 5 | .tanh => 6 | .sigm => 7

/-- Fixed point: one is 2^256. -/
def fxOne : Nat := 2 ^ 256

/-- The sum of the terms t, next t, … of a series, n of them. -/
def series (next : Nat → Nat → Nat) : Nat → Nat → Nat → Nat
  | 0, _, _ => 0
  | n + 1, i, t => t + series next n (i + 1) (next i t)

/-- ln 2 = Σ 1 / (k 2^k). -/
def fxLn2 : Nat := ((List.range 270).map (fun k => fxOne / ((k + 1) * 2 ^ (k + 1)))).foldl (· + ·) 0

/-- 2^f for a fixed-point f below one: e^(f ln 2) by its series. -/
def fxExp2 (f : Nat) : Nat :=
  let t := f * fxLn2 / fxOne
  series (fun i x => x * t / fxOne / (i + 1)) 70 0 fxOne

/-- ln z for fixed-point z from one to two: 2 atanh ((z − 1)/(z + 1)). -/
def fxLn (z : Nat) : Nat :=
  let w := (z - fxOne) * fxOne / (z + fxOne)
  let w2 := w * w / fxOne
  2 * ((List.range 90).foldl (fun (p : Nat × Nat) i => (p.1 + p.2 / (2 * i + 1), p.2 * w2 / fxOne)) (0, w)).1

/-- A positive lower bound n·2^e of an irrational result, or of one known to lie just above it. -/
structure Low where
  neg : Bool
  n   : Nat
  e   : Int
  deriving DecidableEq, Repr

/-- The whole and fractional parts of ±m·2^e in fixed point, rounded down. -/
def fxSplit (neg : Bool) (m : Nat) (e : Int) : Int × Nat :=
  let k := e + 256
  let a : Int := if 0 ≤ k then m * 2 ^ k.toNat else m / 2 ^ (-k).toNat
  let inexact := decide (k < 0) && m % 2 ^ (-k).toNat != 0
  let x : Int := if neg then -a - b2n inexact else a
  (x / fxOne, (x % fxOne).toNat)

/-- 2^y for a fixed-point y given as whole part and fraction. -/
def lowExp2 (y : Int × Nat) : Low := { neg := false, n := fxExp2 y.2 - 2 ^ 16, e := y.1 - 256 }

/-- y = x / ln 2 in fixed point, for |x| below 2^12. -/
def overLn2 (neg : Bool) (m : Nat) (e : Int) : Int × Nat :=
  let x := fxSplit neg m e
  let a : Int := (x.1 * fxOne + x.2) * fxOne / (fxLn2 : Int)
  (a / fxOne, (a % fxOne).toNat)

/-- Just below or just above a value c/2. -/
def lowNear (c : Nat) (above : Bool) : Low :=
  if above then { neg := false, n := c * fxOne, e := -257 } else { neg := false, n := c * fxOne - 1, e := -257 }

/-- A lower bound of e^x, for |x| from 2^-150 up to 2^12. -/
def lowExp (neg : Bool) (m : Nat) (e : Int) : Low := lowExp2 (overLn2 neg m e)

/-- Magnitude bound of log2 or ln of a positive m·2^e that is no power of two. -/
def lowLog (natural : Bool) (m : Nat) (e : Int) : Low :=
  let l := m.log2
  let z := m * 2 ^ (256 - l)
  let k : Int := e + l
  let a : Int := if natural then k * fxLn2 + fxLn z else k * fxOne + (fxLn z * fxOne / fxLn2 : Nat)
  { neg := decide (a < 0), n := a.natAbs - 2 ^ 16, e := -256 }

/-- |x| below 2^k. -/
def below (m : Nat) (e k : Int) : Bool := m == 0 || decide ((m.log2 : Int) + e < k)

/-- A magnitude bound of tanh x. -/
def lowTanh (m : Nat) (e : Int) (neg : Bool) : Low :=
  if below m e (-60) then { neg := neg, n := m * fxOne - 1, e := e - 256 }
  else if !below m e 6 then { lowNear 2 false with neg := neg }
  else
    let x := lowExp false m (e + 1)
    let v := x.n * 2 ^ (x.e + 256).toNat / 2 ^ (-(x.e + 256)).toNat
    { neg := neg, n := (v - fxOne) * fxOne / (v + fxOne) - 2 ^ 16, e := -256 }

/-- A bound of 1/(1 + e^-x). -/
def lowSigm (neg : Bool) (m : Nat) (e : Int) : Low :=
  if below m e (-60) then lowNear 1 (!neg)
  else if !below m e 6 && !neg then lowNear 2 false
  else if !below m e 6 then
    let x := lowExp neg m e
    let k := 2 ^ (-x.e).toNat
    { x with n := x.n * k / (k + x.n) }
  else
    let x := lowExp false m e
    let v := x.n * 2 ^ (x.e + 256).toNat / 2 ^ (-(x.e + 256)).toNat
    let g := fxOne * 2 ^ 400 / (v + fxOne)
    if neg then { neg := false, n := g - g / 2 ^ 200, e := -400 }
    else { neg := false, n := v * fxOne / (v + fxOne) - 2 ^ 16, e := -256 }

/-- Place of a code in the order of the values of its type. -/
def orderKey (t : ETy) (c : Nat) : Int :=
  let h := 2 ^ (ETy.w t - 1)
  if c < h then (c : Int) else -((c - h : Nat) : Int)

/-- Whether the neighbour farther from zero is given, by the code of the nearer one (R54): all inputs between two values
of a type turn to the upper one at one place of the input's order, so that the function is monotonic. -/
def awayFrom (f : Sfn) (t : ETy) (r : Rnd) (c : Nat) (neg : Bool) (near : Nat) : Bool :=
  let turn := Config.sfnTurn f.code (ETy.w t + t.man) (match r.mode with | .rn => 0 | .rz => 1 | .rd => 2 | .ru => 3) near
  let past := decide (turn ≤ orderKey t c)
  let upper := match f with
    | .rcp | .rsqrt => !past
    | _ => past
  upper != neg

/-- Round a result known to lie just above a lower bound (R54). -/
def Low.round (t : ETy) (r : Rnd) (up : Bool → Nat → Bool) (l : Low) : Nat :=
  let n := 2 * l.n + 1
  let e := l.e - 1
  let tiny := below n e (1 - (t.bias : Int) - t.man)
  let away : RMode := if l.neg then .rd else .ru
  let md : RMode :=
    if tiny then r.mode
    else match r.mode with
      | .rd => .rd
      | .ru => .ru
      | _ =>
        let z := roundMag t .rz l.neg n 1 e
        if up l.neg (codeF t l.neg z.1 z.2) then away else .rz
  let mq := roundMag t md l.neg n 1 e
  if overF t mq.1 mq.2 then overRes t r l.neg else codeF t l.neg mq.1 mq.2

/-- An exact value n/d·2^e rounded to a neighbour, or itself where it is representable (R54). -/
def faithful (t : ETy) (r : Rnd) (up : Bool → Nat → Bool) (neg : Bool) (n d : Nat) (e : Int) : Nat :=
  let lo := roundMag t .rz neg n d e
  if roundMag t (if neg then .rd else .ru) neg n d e = lo then
    (if overF t lo.1 lo.2 then overRes t r neg else codeF t neg lo.1 lo.2)
  else Low.round t r up { neg := neg, n := n * 2 ^ 2200 / d, e := e - 2200 }

/-- The result of a special function on a code (R54, R55). -/
def sfnE (f : Sfn) (t : ETy) (r : Rnd) (c : Nat) : Nat :=
  let up := awayFrom f t r c
  let one := packF t false t.bias 0
  let zero (s : Bool) := packF t s 0 0
  let big (s : Bool) := overRes t r s
  (chooseNaN t [c]).getD (match f, decodeF t c with
    | _, .nan => nanF t false
    | .exp2, .inf s | .exp, .inf s => if s then zero false else infRes t r false
    | .log2, .inf s | .log, .inf s => if s then nanF t false else infRes t r false
    | .rcp, .inf s => zero s
    | .rsqrt, .inf s => if s then nanF t false else zero false
    | .tanh, .inf s => packF t s t.bias 0
    | .sigm, .inf s => if s then zero false else one
    | .exp2, .num s m e =>
      if m = 0 then one
      else if !below m e 12 then
        (if s then Low.round t r up { neg := false, n := 1, e := -4096 } else big false)
      else
        let x := fxSplit s m e
        if x.2 = 0 && !below m e 0 then roundF t r false 1 1 x.1
        else if below m e (-150) then (lowNear 2 (!s)).round t r up
        else (lowExp2 x).round t r up
    | .exp, .num s m e =>
      if m = 0 then one
      else if !below m e 12 then
        (if s then Low.round t r up { neg := false, n := 1, e := -4096 } else big false)
      else if below m e (-150) then (lowNear 2 (!s)).round t r up
      else (lowExp s m e).round t r up
    | .log2, .num s m e =>
      if m = 0 then infRes t r true
      else if s then nanF t false
      else if m = 2 ^ m.log2 then roundF t r (decide ((m.log2 : Int) + e < 0)) ((m.log2 : Int) + e).natAbs 1 0
      else (lowLog false m e).round t r up
    | .log, .num s m e =>
      if m = 0 then infRes t r true
      else if s then nanF t false
      else if m = 2 ^ m.log2 && (m.log2 : Int) + e == 0 then zero false
      else (lowLog true m e).round t r up
    | .rcp, .num s m e => if m = 0 then infRes t r s else faithful t r up s 1 m (-e)
    | .rsqrt, .num s m e =>
      if m = 0 then infRes t r s
      else if s then nanF t false
      else
        let k := e % 2
        let n := m * 2 ^ k.toNat
        let x := isqrt (2 ^ 512 / n)
        if x * x * n = 2 ^ 512 then roundF t r false x 1 (-256 - (e - k) / 2)
        else Low.round t r up { neg := false, n := x, e := -256 - (e - k) / 2 }
    | .tanh, .num s m e => if m = 0 then zero s else (lowTanh m e s).round t r up
    | .sigm, .num s m e =>
      if m = 0 then packF t false (t.bias - 1) 0 else (lowSigm s m e).round t r up)

end Sys2Proof.Machine
end

