-- ==== Sys2Proof/Machine/Special.lean ====
section
/-!
DEFINITION. Class 0x5: special functions (R54, R55, R89).
-/

namespace Sys2Proof.Machine

/-- A special function of a scalar or of every lane (R89). -/
def sfnOp (f : Sfn) (x : OpSfn) (s : State) : Res :=
  let r := rndOf s.me x.rnd x.sat
  let g (c : Nat) : Nat := sfnE f x.ty r (negIf x.ty x.bneg c)
  match x.r with
  | .s a b => .done (s.setMe (s.me.ws a (widen x.ty (g (codeS s.me x.ty b)))))
  | .v a b => .done (s.setMe (s.me.wv a (BitVec.ofNat 512 (ofLanes x.ty ((lanesOf x.ty (s.me.rv b).toNat).map g)))))

/-- exp2 (R54, R55, R89). -/
def execExp2 (h : Hdr) (x : OpSfn) (s : State) : Out := issue h plain (sfnOp .exp2 x) s

/-- log2 (R54, R55, R89). -/
def execLog2 (h : Hdr) (x : OpSfn) (s : State) : Out := issue h plain (sfnOp .log2 x) s

/-- exp (R54, R55, R89). -/
def execExp (h : Hdr) (x : OpSfn) (s : State) : Out := issue h plain (sfnOp .exp x) s

/-- log (R54, R55, R89). -/
def execLog (h : Hdr) (x : OpSfn) (s : State) : Out := issue h plain (sfnOp .log x) s

/-- rcp (R54, R55, R89). -/
def execRcp (h : Hdr) (x : OpSfn) (s : State) : Out := issue h plain (sfnOp .rcp x) s

/-- rsqrt (R54, R55, R89). -/
def execRsqrt (h : Hdr) (x : OpSfn) (s : State) : Out := issue h plain (sfnOp .rsqrt x) s

/-- tanh (R54, R55, R89). -/
def execTanh (h : Hdr) (x : OpSfn) (s : State) : Out := issue h plain (sfnOp .tanh x) s

/-- sigm (R54, R55, R89). -/
def execSigm (h : Hdr) (x : OpSfn) (s : State) : Out := issue h plain (sfnOp .sigm x) s

end Sys2Proof.Machine
end

