-- ==== Sys2Proof/Machine/Vector.lean ====
section
/-!
DEFINITION. Class 0x3: vector register operations (R75 to R81).
-/

namespace Sys2Proof.Machine

/-- A lanewise operation (R76). -/
def vecOp (x : OpVA) (f : Rnd → Nat → Nat → Nat → Nat) (s : State) : Res :=
  let r := rndOf s.me x.rnd x.sat
  let bs := (lanesOf x.ty (s.me.rv x.b).toNat).map (negIf x.ty x.bneg)
  let cs := (srcVSI s.me x.ty r x.c).map (negIf x.ty x.cneg)
  let as := lanesOf x.ty (s.me.rv x.a).toNat
  .done (s.setMe (s.me.wv x.a (BitVec.ofNat 512 (ofLanes x.ty (List.zipWith (fun a p => f r p.1 p.2 a) as (bs.zip cs))))))

/-- A lanewise compare (R79). -/
def vcmpOp (c : Cond) (x : OpVCmp) (s : State) : Res :=
  let cs := srcVSI s.me x.ty (rndOf s.me .rn false) x.c
  .done (s.setMe (s.me.wp x.p (predLanes (List.zipWith (cmpE c x.ty) (lanesOf x.ty (s.me.rv x.b).toNat) cs))))

/-- The exact sum of codes, rounded once (R43, R78, R86). -/
def sumE (t : ETy) (r : Rnd) (xs : List Nat) : Nat :=
  if t.isInt then fitI t r.sat (xs.foldl (fun a x => a + intOf t x) 0)
  else (chooseNaN t xs).getD ((xs.foldl (fun a x => a.add (decodeF t x)) Acc.zero).round t r)

/-- Sums lane by lane (R76). -/
def execVadd (h : Hdr) (x : OpVA) (s : State) : Out :=
  issue h plain (vecOp x (fun r b c _ => addE x.ty r b c)) s

/-- Differences lane by lane (R76). -/
def execVsub (h : Hdr) (x : OpVA) (s : State) : Out :=
  issue h plain (vecOp x (fun r b c _ => subE x.ty r b c)) s

/-- Products lane by lane (R76). -/
def execVmul (h : Hdr) (x : OpVA) (s : State) : Out :=
  issue h plain (vecOp x (fun r b c _ => mulE x.ty r b c)) s

/-- Fused multiply-adds lane by lane (R76). -/
def execVfma (h : Hdr) (x : OpVA) (s : State) : Out :=
  issue h plain (vecOp x (fun r b c a => fmaE x.ty r b c a)) s

/-- Minima lane by lane (R76). -/
def execVmin (h : Hdr) (x : OpVA) (s : State) : Out :=
  issue h plain (vecOp x (fun _ b c _ => minE x.ty b c)) s

/-- Maxima lane by lane (R76). -/
def execVmax (h : Hdr) (x : OpVA) (s : State) : Out :=
  issue h plain (vecOp x (fun _ b c _ => maxE x.ty b c)) s

/-- Bitwise and lane by lane (R76). -/
def execVand (h : Hdr) (x : OpVA) (s : State) : Out :=
  issue h plain (vecOp x (fun _ b c _ => b &&& c)) s

/-- Bitwise or lane by lane (R76). -/
def execVor (h : Hdr) (x : OpVA) (s : State) : Out :=
  issue h plain (vecOp x (fun _ b c _ => b ||| c)) s

/-- Bitwise exclusive or lane by lane (R76). -/
def execVxor (h : Hdr) (x : OpVA) (s : State) : Out :=
  issue h plain (vecOp x (fun _ b c _ => b ^^^ c)) s

/-- Compare eq lane by lane (R79). -/
def execVcmpEq (h : Hdr) (x : OpVCmp) (s : State) : Out := issue h plain (vcmpOp .eq x) s

/-- Compare ne lane by lane (R79). -/
def execVcmpNe (h : Hdr) (x : OpVCmp) (s : State) : Out := issue h plain (vcmpOp .ne x) s

/-- Compare lt lane by lane (R79). -/
def execVcmpLt (h : Hdr) (x : OpVCmp) (s : State) : Out := issue h plain (vcmpOp .lt x) s

/-- Compare le lane by lane (R79). -/
def execVcmpLe (h : Hdr) (x : OpVCmp) (s : State) : Out := issue h plain (vcmpOp .le x) s

/-- Compare gt lane by lane (R79). -/
def execVcmpGt (h : Hdr) (x : OpVCmp) (s : State) : Out := issue h plain (vcmpOp .gt x) s

/-- Compare ge lane by lane (R79). -/
def execVcmpGe (h : Hdr) (x : OpVCmp) (s : State) : Out := issue h plain (vcmpOp .ge x) s

/-- Compare un lane by lane (R79). -/
def execVcmpUn (h : Hdr) (x : OpVCmp) (s : State) : Out := issue h plain (vcmpOp .un x) s

/-- Selection by the bits of a predicate (R77). -/
def execVsel (h : Hdr) (x : OpVSel) (s : State) : Out :=
  issue h plain (fun s =>
    let bs := lanesOf x.ty (s.me.rv x.b).toNat
    let cs := lanesOf x.ty (s.me.rv x.c).toNat
    let ls := (bs.zip cs).zipIdx.map (fun p => if predBit s.me x.p x.neg p.2 then p.1.1 else p.1.2)
    .done (s.setMe (s.me.wv x.a (BitVec.ofNat 512 (ofLanes x.ty ls))))) s

/-- One value in every lane (R77). -/
def execVbcast (h : Hdr) (x : OpVBc) (s : State) : Out :=
  issue h plain (fun s =>
    let c := match x.b with
      | .s r => codeS s.me x.ty r
      | .imm v => immCode x.ty (rndOf s.me .rn false) v
    .done (s.setMe (s.me.wv x.a (BitVec.ofNat 512 (ofLanes x.ty (List.replicate (laneCount x.ty) c)))))) s

/-- Lanes by index, zero beyond the lanes (R77). -/
def execVshuf (h : Hdr) (x : OpVShuf) (s : State) : Out :=
  issue h plain (fun s =>
    let b := (s.me.rv x.b).toNat
    let ls := (lanesOf x.ty (s.me.rv x.c).toNat).map (fun j => if j < laneCount x.ty then lane x.ty b j else 0)
    .done (s.setMe (s.me.wv x.a (BitVec.ofNat 512 (ofLanes x.ty ls))))) s

/-- The exact sum of every lane (R78). -/
def execVred (h : Hdr) (x : OpVRed) (s : State) : Out :=
  issue h plain (fun s => .done (s.setMe (s.me.ws x.a (widen x.ty
    (sumE x.ty (rndOf s.me x.rnd x.sat) (lanesOf x.ty (s.me.rv x.b).toNat)))))) s

/-- Conversion of lanes, and of one blk32 block where a side is e2m1 (R80). -/
def vcvtTo (k : Ctx) (x : OpVCvt) : Ctx :=
  let r := { rndOf k x.rnd x.sat with conv := true }
  let b := (k.rv x.b).toNat
  if x.dty = .e2m1 then
    let xs := if x.sty = .f32 then lanesOf .f32 b ++ lanesOf .f32 (k.rv (x.b + 1)).toNat else (lanesOf x.sty b).take 32
    let blk := toBlk (xs.map (decodeF x.sty)) x.rnd x.sat (ovRow .e2m1 r.ovt)
    k.wv x.a (BitVec.ofNat 512 (blk.1 + blk.2 * 2 ^ 128))
  else if x.sty = .e2m1 then
    let hdr := bits b 143 128
    let ys := (List.range 32).map (fun i => match blkVal hdr (bits b (4 * i + 3) (4 * i)) with
      | some v => valF x.dty r v
      | none => nanF x.dty false)
    let k1 := k.wv x.a (BitVec.ofNat 512 (ofLanes x.dty (ys.take (laneCount x.dty))))
    if x.dty = .f32 then k1.wv (x.a + 1) (BitVec.ofNat 512 (ofLanes .f32 (ys.drop 16))) else k1
  else
    let n := min (laneCount x.dty) (laneCount x.sty)
    k.wv x.a (BitVec.ofNat 512 (ofLanes x.dty ((List.range n).map (fun i => convE x.dty x.sty r (lane x.sty b i)))))

/-- Conversion of lanes (R80). -/
def execVcvt (h : Hdr) (x : OpVCvt) (s : State) : Out := issue h plain (fun s => .done (s.setMe (vcvtTo s.me x))) s

/-- A vector load of 64 bytes (R81). -/
def execVld (h : Hdr) (x : OpVMem) (s : State) : Out :=
  issue h plain (fun s => s.memOp
    { spaces := [0, 1, 2, 4], base := s.me.rs x.base, disp := dispBytes x.ty x.disp, kind := .load, size := 64
      align := 64, data := 0, scope := none, acq := false, rel := false, reg := some (.v x.v.toNat), ty := x.ty }) s

/-- A vector store of 64 bytes (R81). -/
def execVst (h : Hdr) (x : OpVMem) (s : State) : Out :=
  issue h plain (fun s => s.memOp
    { spaces := [0, 1, 2], base := s.me.rs x.base, disp := dispBytes x.ty x.disp, kind := .store, size := 64
      align := 64, data := (s.me.rv x.v).toNat, scope := none, acq := false, rel := false, reg := none, ty := x.ty }) s

end Sys2Proof.Machine
end

