-- ==== Sys2Proof/Machine/Sweep.lean ====
section
/-!
DEFINITION. Class 0x4: sweeps over the local window (R82 to R88).
-/

namespace Sys2Proof.Machine

/-- Window offsets of a sweep operand's segments (R82): none where a base pointer is not of space 1, or a segment
lies outside the window. -/
def segOffs (k : Ctx) (a : SwAddr) (n : Nat) : Option (List Nat) :=
  let p := (k.rs a.base).toNat
  if bits p 63 60 != 1 || bits p 59 48 != 0 then none
  else
    let o (i : Nat) : Int := bits p 47 0 + a.disp.toInt * 4 + i * a.step.toNat
    if (List.range n).all (fun i => decide (0 ≤ o i) && decide (o i < 0x200000)) then
      some ((List.range n).map (fun i => (o i).toNat))
    else none

/-- The pointer of a window offset. -/
def winPtr (o : Nat) : Nat := 2 ^ 60 + o

/-- The fault of a sweep before any segment is read (R82): its cause, its detail word and the offset that it names, the
destination's before the source's (assumption 91); runs of len bytes at these offsets. -/
def sweepFault (s : State) (runs : List (List Nat × Nat × Nat)) : Option (Cause × Nat × Nat) :=
  match runs.findSome? (fun r => r.1.find? (fun o => o % r.2.2 != 0 || decide (65536 < o % 65536 + r.2.1))) with
  | some o => some (.misalign, 0, o)
  | none =>
    let offs := runs.flatMap (·.1)
    match offs.find? (fun o => (s.slotBank s.cur (o / 65536)).isNone) with
    | some o => some (.bankDetached, o / 65536, o)
    | none => (offs.find? (fun o => s.mycore.frozen.contains (o / 65536))).map (fun o => (Cause.bankFrozen, o / 65536, o))

/-- The bank and byte of a window offset, for a sweep that began at a stamp: a bank handed away meanwhile still drains (R87, R163). -/
def State.winByte (s : State) (stamp o : Nat) : Except Cause (Nat × Nat) :=
  (s.bankFor s.cur s.cur (o / 65536) stamp).map (fun b => (b, o % 65536))

/-- Whether an earlier access of the core on the ls path to a bank of the sweep is under way (R87). -/
def sweepBusy (s : State) (offs : List Nat) : Bool :=
  (offs.map (· / 65536)).eraseDups.any (fun sl => match s.slotBank s.cur sl with
    | some pkg => s.bankBusy s.cur .ls pkg
    | none => false)

/-- Read n bytes at a window offset for segment i, what follows taking its value; an uncorrectable one ends the sweep there (R88),
as does a bank revoked under it (assumption 92). -/
def sweepRead (s : State) (m : Midway) (o n i : Nat) (k : Nat → Res) : Res :=
  match s.winByte m.stamp o with
  | .error c => s.raiseAt (winPtr o) c (o / 65536)
  | .ok b => if s.bankBad b.1 b.2 n then s.raiseAt (winPtr o) .uncorrectable (i * 2 ^ 16) else k (s.bankRead b.1 b.2 n)

/-- The next access of a sweep of segments (source and destination offsets): of each segment in ascending order its source run of
rlen bytes, with rd its old destination too, and then its write (R83). Accesses of others come between them (R87). -/
def sweepRun (s : State) (segs : List (Nat × Nat)) (rlen : Nat) (rd : Bool) (f : Nat → Nat → Nat) : Res :=
  let m := s.midway
  let per := if rd then 3 else 2
  let i := m.done / per
  let seg := segs.getD i (0, 0)
  if m.done % per = 0 then sweepRead s m seg.1 rlen i (s.stepMid m)
  else if rd && m.done % per = 1 then sweepRead s m seg.2 64 i (fun v => s.stepMid m (m.got + 256 ^ rlen * v))
  else match s.winByte m.stamp seg.2 with
    | .error c => s.raiseAt (winPtr seg.2) c (seg.2 / 65536)
    | .ok b =>
      let t := s.bankWrite b.1 b.2 64 (f (m.got % 256 ^ rlen) (m.got / 256 ^ rlen))
      if i + 1 < segs.length then t.stepMid m 0 else .done t

/-- A sweep with a destination (R82 to R85): source runs of rlen bytes, of which alen are a segment for R82; a run that
crosses a slot boundary where its segment does not is `wcvt`'s ILLEGAL (R85). -/
def sweepOp (dst src : SwAddr) (n : Nat) (dty sty : ETy) (rlen alen : Nat) (rd : Bool) (f : Nat → Nat → Nat) (s : State) : Res :=
  match segOffs s.me dst n, segOffs s.me src n with
  | some ds, some ss =>
    if s.me.mid.isSome then sweepRun s (ss.zip ds) rlen rd f
    else s.firm (match sweepFault s [(ds, 64, dty.size), (ss, alen, sty.size)] with
    | some (c, d, o) => s.raiseAt (winPtr o) c d
    | none =>
      if ss.any (fun o => decide (65536 < o % 65536 + rlen)) then s.raise .illegal
      else if sweepBusy s (ds ++ ss) then .hold
      else sweepRun s (ss.zip ds) rlen rd f)
  | none, _ => s.raiseAt (s.me.rs dst.base).toNat .illegalPointer
  | _, _ => s.raiseAt (s.me.rs src.base).toNat .illegalPointer

/-- A lanewise sweep (R84): f takes the rounding, the source lane, the second source's lane and the old lane. -/
def sweepLanes (x : OpSw) (rd : Bool) (f : Rnd → Nat → Nat → Nat → Nat) (s : State) : Res :=
  let r := rndOf s.me x.rnd x.sat
  let cs := srcSw s.me x.ty r x.c
  sweepOp x.dst x.src x.n.toNat x.ty x.ty 64 64 rd (fun b d =>
    ofLanes x.ty (List.zipWith (fun p a => f r p.1 p.2 a) ((lanesOf x.ty b).zip cs) (lanesOf x.ty d))) s

/-- The sweep form of vadd (R84). -/
def execWadd (h : Hdr) (x : OpSw) (s : State) : Out :=
  issue h plain (sweepLanes x false (fun r b c _ => addE x.ty r b c)) s

/-- The sweep form of vsub (R84). -/
def execWsub (h : Hdr) (x : OpSw) (s : State) : Out :=
  issue h plain (sweepLanes x false (fun r b c _ => subE x.ty r b c)) s

/-- The sweep form of vmul (R84). -/
def execWmul (h : Hdr) (x : OpSw) (s : State) : Out :=
  issue h plain (sweepLanes x false (fun r b c _ => mulE x.ty r b c)) s

/-- The sweep form of vfma (R84). -/
def execWfma (h : Hdr) (x : OpSw) (s : State) : Out :=
  issue h plain (sweepLanes x true (fun r b c a => fmaE x.ty r b c a)) s

/-- The sweep form of vmin (R84). -/
def execWmin (h : Hdr) (x : OpSw) (s : State) : Out :=
  issue h plain (sweepLanes x false (fun _ b c _ => minE x.ty b c)) s

/-- The sweep form of vmax (R84). -/
def execWmax (h : Hdr) (x : OpSw) (s : State) : Out :=
  issue h plain (sweepLanes x false (fun _ b c _ => maxE x.ty b c)) s

/-- The converting sweep (R85). -/
def execWcvt (h : Hdr) (x : OpSwCvt) (s : State) : Out :=
  issue h plain (fun s =>
    let r := rndOf s.me x.rnd x.sat
    let n := laneCount x.dty
    sweepOp x.dst x.src x.n.toNat x.dty x.sty (n * x.sty.size) x.sty.size false (fun b _ =>
      ofLanes x.dty ((List.range n).map (fun i => convE x.dty x.sty r (lane x.sty b i)))) s) s

/-- One clamped element (R84). -/
def clampE (t : ETy) (lo hi x : Nat) : Nat :=
  if t.isInt then minE t (maxE t x lo) hi else (chooseNaN t [x, lo, hi]).getD (minF t (maxF t x lo) hi)

/-- The clamping sweep: bounds in lanes 0 and 1 (R84). -/
def execWclamp (h : Hdr) (x : OpSwV) (s : State) : Out :=
  issue h plain (fun s =>
    let v := (s.me.rv x.c).toNat
    sweepOp x.dst x.src x.n.toNat x.ty x.ty 64 64 false (fun b _ =>
      ofLanes x.ty ((lanesOf x.ty b).map (clampE x.ty (lane x.ty v 0) (lane x.ty v 1)))) s) s

/-- The next segment of a reducing sweep read, and after the last the lanes' sums (R86). -/
def redRun (x : OpSwRed) (ss : List Nat) (s : State) : Res :=
  let m := s.midway
  let v := (s.me.rv x.c).toNat
  let r := rndOf s.me x.rnd x.sat
  sweepRead s m (ss.getD m.done 0) 64 m.done (fun g =>
    let got := m.got + 256 ^ (64 * m.done) * g
    let segs := (List.range ss.length).map (fun i => fieldB got (64 * i) 64)
    if m.done + 1 < ss.length then s.stepMid m got
    else .done (s.setMe (s.me.wv x.c (BitVec.ofNat 512 (ofLanes x.ty ((List.range (laneCount x.ty)).map
      (fun i => sumE x.ty r (lane x.ty v i :: segs.map (fun g => lane x.ty g i)))))))))

/-- The reducing sweep into a vector register (R86). -/
def execWred (h : Hdr) (x : OpSwRed) (s : State) : Out :=
  issue h plain (fun s =>
    match segOffs s.me x.src x.n.toNat with
    | none => s.raiseAt (s.me.rs x.src.base).toNat .illegalPointer
    | some ss =>
      if s.me.mid.isSome then redRun x ss s
      else match sweepFault s [(ss, 64, x.ty.size)] with
      | some (c, d, o) => s.raiseAt (winPtr o) c d
      | none => if sweepBusy s ss then .hold else redRun x ss s) s

/-- The copying sweep (R84). -/
def execWcopy (h : Hdr) (x : OpSwCopy) (s : State) : Out :=
  issue h plain (sweepOp x.dst x.src x.n.toNat x.ty x.ty 64 64 false (fun b _ => b)) s

end Sys2Proof.Machine
end

