-- ==== Sys2Proof/Machine/Dispatch.lean ====
section
/-!
DEFINITION. One arm for each constructor of `Instr`: each is one call of its meaning.
-/

namespace Sys2Proof.Machine

/-- The effect of an instruction on the issuing context, or of an event. -/
def exec (i : Instr) (s : State) : Host.Outcome State Fault Refusal :=
  match i with
  | .add h x => Sys2Proof.Machine.execAdd h x s
  | .sub h x => Sys2Proof.Machine.execSub h x s
  | .mul h x => Sys2Proof.Machine.execMul h x s
  | .mulh h x => Sys2Proof.Machine.execMulh h x s
  | .div h x => Sys2Proof.Machine.execDiv h x s
  | .rem h x => Sys2Proof.Machine.execRem h x s
  | .and h x => Sys2Proof.Machine.execAnd h x s
  | .or h x => Sys2Proof.Machine.execOr h x s
  | .xor h x => Sys2Proof.Machine.execXor h x s
  | .shl h x => Sys2Proof.Machine.execShl h x s
  | .shr h x => Sys2Proof.Machine.execShr h x s
  | .sar h x => Sys2Proof.Machine.execSar h x s
  | .min h x => Sys2Proof.Machine.execMin h x s
  | .max h x => Sys2Proof.Machine.execMax h x s
  | .sel h x => Sys2Proof.Machine.execSel h x s
  | .li h x => Sys2Proof.Machine.execLi h x s
  | .lui h x => Sys2Proof.Machine.execLui h x s
  | .mov h x => Sys2Proof.Machine.execMov h x s
  | .cmpEq h x => Sys2Proof.Machine.execCmpEq h x s
  | .cmpNe h x => Sys2Proof.Machine.execCmpNe h x s
  | .cmpLt h x => Sys2Proof.Machine.execCmpLt h x s
  | .cmpLe h x => Sys2Proof.Machine.execCmpLe h x s
  | .cmpGt h x => Sys2Proof.Machine.execCmpGt h x s
  | .cmpGe h x => Sys2Proof.Machine.execCmpGe h x s
  | .ptag h x => Sys2Proof.Machine.execPtag h x s
  | .pspace h x => Sys2Proof.Machine.execPspace h x s
  | .powner h x => Sys2Proof.Machine.execPowner h x s
  | .poff h x => Sys2Proof.Machine.execPoff h x s
  | .padd h x => Sys2Proof.Machine.execPadd h x s
  | .fadd h x => Sys2Proof.Machine.execFadd h x s
  | .fsub h x => Sys2Proof.Machine.execFsub h x s
  | .fmul h x => Sys2Proof.Machine.execFmul h x s
  | .ffma h x => Sys2Proof.Machine.execFfma h x s
  | .fdiv h x => Sys2Proof.Machine.execFdiv h x s
  | .fsqrt h x => Sys2Proof.Machine.execFsqrt h x s
  | .fmin h x => Sys2Proof.Machine.execFmin h x s
  | .fmax h x => Sys2Proof.Machine.execFmax h x s
  | .fcvt h x => Sys2Proof.Machine.execFcvt h x s
  | .fcmpEq h x => Sys2Proof.Machine.execFcmpEq h x s
  | .fcmpNe h x => Sys2Proof.Machine.execFcmpNe h x s
  | .fcmpLt h x => Sys2Proof.Machine.execFcmpLt h x s
  | .fcmpLe h x => Sys2Proof.Machine.execFcmpLe h x s
  | .fcmpGt h x => Sys2Proof.Machine.execFcmpGt h x s
  | .fcmpGe h x => Sys2Proof.Machine.execFcmpGe h x s
  | .fcmpUn h x => Sys2Proof.Machine.execFcmpUn h x s
  | .nop h => Sys2Proof.Machine.execNop h s
  | .br h off => Sys2Proof.Machine.execBr h off s
  | .bcZ h x => Sys2Proof.Machine.execBcZ h x s
  | .bcNz h x => Sys2Proof.Machine.execBcNz h x s
  | .call h x => Sys2Proof.Machine.execCall h x s
  | .ret h b => Sys2Proof.Machine.execRet h b s
  | .jmp h b => Sys2Proof.Machine.execJmp h b s
  | .loop h x => Sys2Proof.Machine.execLoop h x s
  | .uend h => Sys2Proof.Machine.execUend h s
  | .trapi h code => Sys2Proof.Machine.execTrapi h code s
  | .vadd h x => Sys2Proof.Machine.execVadd h x s
  | .vsub h x => Sys2Proof.Machine.execVsub h x s
  | .vmul h x => Sys2Proof.Machine.execVmul h x s
  | .vfma h x => Sys2Proof.Machine.execVfma h x s
  | .vmin h x => Sys2Proof.Machine.execVmin h x s
  | .vmax h x => Sys2Proof.Machine.execVmax h x s
  | .vand h x => Sys2Proof.Machine.execVand h x s
  | .vor h x => Sys2Proof.Machine.execVor h x s
  | .vxor h x => Sys2Proof.Machine.execVxor h x s
  | .vsel h x => Sys2Proof.Machine.execVsel h x s
  | .vcvt h x => Sys2Proof.Machine.execVcvt h x s
  | .vred h x => Sys2Proof.Machine.execVred h x s
  | .vbcast h x => Sys2Proof.Machine.execVbcast h x s
  | .vshuf h x => Sys2Proof.Machine.execVshuf h x s
  | .vcmpEq h x => Sys2Proof.Machine.execVcmpEq h x s
  | .vcmpNe h x => Sys2Proof.Machine.execVcmpNe h x s
  | .vcmpLt h x => Sys2Proof.Machine.execVcmpLt h x s
  | .vcmpLe h x => Sys2Proof.Machine.execVcmpLe h x s
  | .vcmpGt h x => Sys2Proof.Machine.execVcmpGt h x s
  | .vcmpGe h x => Sys2Proof.Machine.execVcmpGe h x s
  | .vcmpUn h x => Sys2Proof.Machine.execVcmpUn h x s
  | .vld h x => Sys2Proof.Machine.execVld h x s
  | .vst h x => Sys2Proof.Machine.execVst h x s
  | .wadd h x => Sys2Proof.Machine.execWadd h x s
  | .wsub h x => Sys2Proof.Machine.execWsub h x s
  | .wmul h x => Sys2Proof.Machine.execWmul h x s
  | .wfma h x => Sys2Proof.Machine.execWfma h x s
  | .wmin h x => Sys2Proof.Machine.execWmin h x s
  | .wmax h x => Sys2Proof.Machine.execWmax h x s
  | .wcvt h x => Sys2Proof.Machine.execWcvt h x s
  | .wclamp h x => Sys2Proof.Machine.execWclamp h x s
  | .wred h x => Sys2Proof.Machine.execWred h x s
  | .wcopy h x => Sys2Proof.Machine.execWcopy h x s
  | .exp2 h x => Sys2Proof.Machine.execExp2 h x s
  | .log2 h x => Sys2Proof.Machine.execLog2 h x s
  | .exp h x => Sys2Proof.Machine.execExp h x s
  | .log h x => Sys2Proof.Machine.execLog h x s
  | .rcp h x => Sys2Proof.Machine.execRcp h x s
  | .rsqrt h x => Sys2Proof.Machine.execRsqrt h x s
  | .tanh h x => Sys2Proof.Machine.execTanh h x s
  | .sigm h x => Sys2Proof.Machine.execSigm h x s
  | .mldA h x => Sys2Proof.Machine.execMldA h x s
  | .mldB h x => Sys2Proof.Machine.execMldB h x s
  | .mzero h a => Sys2Proof.Machine.execMzero h a s
  | .mmac h x => Sys2Proof.Machine.execMmac h x s
  | .mmacSp h x => Sys2Proof.Machine.execMmacSp h x s
  | .mscale h x => Sys2Proof.Machine.execMscale h x s
  | .mepi h x => Sys2Proof.Machine.execMepi h x s
  | .mdrain h a => Sys2Proof.Machine.execMdrain h a s
  | .mstat h x => Sys2Proof.Machine.execMstat h x s
  | .mrepl h b => Sys2Proof.Machine.execMrepl h b s
  | .mswz h x => Sys2Proof.Machine.execMswz h x s
  | .dld h x => Sys2Proof.Machine.execDld h x s
  | .dstr h x => Sys2Proof.Machine.execDstr h x s
  | .dpt h x => Sys2Proof.Machine.execDpt h x s
  | .dadd h x => Sys2Proof.Machine.execDadd h x s
  | .dsub h x => Sys2Proof.Machine.execDsub h x s
  | .dmul h x => Sys2Proof.Machine.execDmul h x s
  | .dmax h x => Sys2Proof.Machine.execDmax h x s
  | .dmin h x => Sys2Proof.Machine.execDmin h x s
  | .dmix h x => Sys2Proof.Machine.execDmix h x s
  | .dtag h x => Sys2Proof.Machine.execDtag h x s
  | .dmom h x => Sys2Proof.Machine.execDmom h x s
  | .dqnt h x => Sys2Proof.Machine.execDqnt h x s
  | .ld h x => Sys2Proof.Machine.execLd h x s
  | .ldAcq h x => Sys2Proof.Machine.execLdAcq h x s
  | .st h x => Sys2Proof.Machine.execSt h x s
  | .stRel h x => Sys2Proof.Machine.execStRel h x s
  | .ldg h x => Sys2Proof.Machine.execLdg h x s
  | .ldgAcq h x => Sys2Proof.Machine.execLdgAcq h x s
  | .stg h x => Sys2Proof.Machine.execStg h x s
  | .stgRel h x => Sys2Proof.Machine.execStgRel h x s
  | .ldh h x => Sys2Proof.Machine.execLdh h x s
  | .ldhAcq h x => Sys2Proof.Machine.execLdhAcq h x s
  | .sth h x => Sys2Proof.Machine.execSth h x s
  | .sthRel h x => Sys2Proof.Machine.execSthRel h x s
  | .pref h x => Sys2Proof.Machine.execPref h x s
  | .atmAdd h x => Sys2Proof.Machine.execAtmAdd h x s
  | .atmAnd h x => Sys2Proof.Machine.execAtmAnd h x s
  | .atmOr h x => Sys2Proof.Machine.execAtmOr h x s
  | .atmXor h x => Sys2Proof.Machine.execAtmXor h x s
  | .atmMin h x => Sys2Proof.Machine.execAtmMin h x s
  | .atmMax h x => Sys2Proof.Machine.execAtmMax h x s
  | .atmFadd h x => Sys2Proof.Machine.execAtmFadd h x s
  | .atmSwap h x => Sys2Proof.Machine.execAtmSwap h x s
  | .atmCas h x => Sys2Proof.Machine.execAtmCas h x s
  | .atmIncb h x => Sys2Proof.Machine.execAtmIncb h x s
  | .fenceCtx h => Sys2Proof.Machine.execFenceCtx h s
  | .fenceCore h => Sys2Proof.Machine.execFenceCore h s
  | .fenceClu h => Sys2Proof.Machine.execFenceClu h s
  | .fenceDie h => Sys2Proof.Machine.execFenceDie h s
  | .fenceSys h => Sys2Proof.Machine.execFenceSys h s
  | .fencePkg h => Sys2Proof.Machine.execFencePkg h s
  | .fencep h x => Sys2Proof.Machine.execFencep h x s
  | .fiss h a => Sys2Proof.Machine.execFiss h a s
  | .fwait h b => Sys2Proof.Machine.execFwait h b s
  | .txdeclR h b => Sys2Proof.Machine.execTxdeclR h b s
  | .txdeclW h b => Sys2Proof.Machine.execTxdeclW h b s
  | .txsub h a => Sys2Proof.Machine.execTxsub h a s
  | .txwait h b => Sys2Proof.Machine.execTxwait h b s
  | .txend h b => Sys2Proof.Machine.execTxend h b s
  | .bhand h x => Sys2Proof.Machine.execBhand h x s
  | .bwait h slot => Sys2Proof.Machine.execBwait h slot s
  | .bstat h x => Sys2Proof.Machine.execBstat h x s
  | .bswz h x => Sys2Proof.Machine.execBswz h x s
  | .battach h x => Sys2Proof.Machine.execBattach h x s
  | .brevoke h b => Sys2Proof.Machine.execBrevoke h b s
  | .cpgo h x => Sys2Proof.Machine.execCpgo h x s
  | .cpwait h id => Sys2Proof.Machine.execCpwait h id s
  | .swgo h x => Sys2Proof.Machine.execSwgo h x s
  | .gath h x => Sys2Proof.Machine.execGath h x s
  | .coll h x => Sys2Proof.Machine.execColl h x s
  | .qpush h x => Sys2Proof.Machine.execQpush h x s
  | .qpop h x => Sys2Proof.Machine.execQpop h x s
  | .uiret h => Sys2Proof.Machine.execUiret h s
  | .hstart h x => Sys2Proof.Machine.execHstart h x s
  | .hend h => Sys2Proof.Machine.execHend h s
  | .hwait h b => Sys2Proof.Machine.execHwait h b s
  | .launch h x => Sys2Proof.Machine.execLaunch h x s
  | .lwait h b => Sys2Proof.Machine.execLwait h b s
  | .cancelLaunch h b => Sys2Proof.Machine.execCancelLaunch h b s
  | .cancelGraph h b => Sys2Proof.Machine.execCancelGraph h b s
  | .cancelSession h b => Sys2Proof.Machine.execCancelSession h b s
  | .cancelJob h b => Sys2Proof.Machine.execCancelJob h b s
  | .bar h => Sys2Proof.Machine.execBar h s
  | .xsend h x => Sys2Proof.Machine.execXsend h x s
  | .xrecv h x => Sys2Proof.Machine.execXrecv h x s
  | .rpush h b => Sys2Proof.Machine.execRpush h b s
  | .rpop h x => Sys2Proof.Machine.execRpop h x s
  | .reos h => Sys2Proof.Machine.execReos h s
  | .prog h b => Sys2Proof.Machine.execProg h b s
  | .yield h => Sys2Proof.Machine.execYield h s
  | .sysr h x => Sys2Proof.Machine.execSysr h x s
  | .sysw h x => Sys2Proof.Machine.execSysw h x s
  | .ovtld h b => Sys2Proof.Machine.execOvtld h b s
  | .ctxsave h x => Sys2Proof.Machine.execCtxsave h x s
  | .ctxload h x => Sys2Proof.Machine.execCtxload h x s
  | .tlbinv h x => Sys2Proof.Machine.execTlbinv h x s
  | .tlbsync h => Sys2Proof.Machine.execTlbsync h s
  | .hcall h code => Sys2Proof.Machine.execHcall h code s
  | .trapret h => Sys2Proof.Machine.execTrapret h s
  | .evpost h x => Sys2Proof.Machine.execEvpost h x s
  | .wipe h x => Sys2Proof.Machine.execWipe h x s
  | .pmap h x => Sys2Proof.Machine.execPmap h x s
  | .matrixCommandExecute core => Sys2Proof.Machine.execMatrixCommandExecute core s
  | .epilogueRowFault core phys => Sys2Proof.Machine.execEpilogueRowFault core phys s
  | .panelRefetch core => Sys2Proof.Machine.execPanelRefetch core s
  | .drainMarkerReply core ctx die => Sys2Proof.Machine.execDrainMarkerReply core ctx die s
  | .submissionAccepted core ctx => Sys2Proof.Machine.execSubmissionAccepted core ctx s
  | .batchClose die => Sys2Proof.Machine.execBatchClose die s
  | .batchApply die => Sys2Proof.Machine.execBatchApply die s
  | .sequencerApplyResume die => Sys2Proof.Machine.execSequencerApplyResume die s
  | .sliceGrant idx => Sys2Proof.Machine.execSliceGrant idx s
  | .sliceRelease idx => Sys2Proof.Machine.execSliceRelease idx s
  | .txHold core ctx => Sys2Proof.Machine.execTxHold core ctx s
  | .handoverPoint pkg => Sys2Proof.Machine.execHandoverPoint pkg s
  | .bankReturn pkg => Sys2Proof.Machine.execBankReturn pkg s
  | .bankWipeDone pkg => Sys2Proof.Machine.execBankWipeDone pkg s
  | .channelArbitration ch => Sys2Proof.Machine.execChannelArbitration ch s
  | .strandRun ch => Sys2Proof.Machine.execStrandRun ch s
  | .userInterrupt core ctx => Sys2Proof.Machine.execUserInterrupt core ctx s
  | .gatherFinish idx => Sys2Proof.Machine.execGatherFinish idx s
  | .collectiveFinish queue seq id => Sys2Proof.Machine.execCollectiveFinish queue seq id s
  | .barrierComplete queue seq => Sys2Proof.Machine.execBarrierComplete queue seq s
  | .exchangeDelivery id => Sys2Proof.Machine.execExchangeDelivery id s
  | .governorEvaluation die => Sys2Proof.Machine.execGovernorEvaluation die s
  | .accessArrival id => Sys2Proof.Machine.execAccessArrival id s
  | .storeAcknowledged id => Sys2Proof.Machine.execStoreAcknowledged id s
  | .remoteRefused id => Sys2Proof.Machine.execRemoteRefused id s
  | .pageWalkFill idx => Sys2Proof.Machine.execPageWalkFill idx s
  | .trapEntry core ctx => Sys2Proof.Machine.execTrapEntry core ctx s
  | .fatalTrap core ctx => Sys2Proof.Machine.execFatalTrap core ctx s
  | .recordRead queue => Sys2Proof.Machine.execRecordRead queue s
  | .launchArbitration part => Sys2Proof.Machine.execLaunchArbitration part s
  | .dependenceReread queue => Sys2Proof.Machine.execDependenceReread queue s
  | .launchStart queue => Sys2Proof.Machine.execLaunchStart queue s
  | .preloadRun queue seq => Sys2Proof.Machine.execPreloadRun queue seq s
  | .launchComplete queue seq => Sys2Proof.Machine.execLaunchComplete queue seq s
  | .cancellation idx => Sys2Proof.Machine.execCancellation idx s
  | .hostTimeout id => Sys2Proof.Machine.execHostTimeout id s
  | .evictionDecision idx => Sys2Proof.Machine.execEvictionDecision idx s
  | .lastSafeMoment part => Sys2Proof.Machine.execLastSafeMoment part s
  | .deadlineChainStart part queue => Sys2Proof.Machine.execDeadlineChainStart part queue s
  | .laneGrant ch => Sys2Proof.Machine.execLaneGrant ch s
  | .swapOutStrand ch => Sys2Proof.Machine.execSwapOutStrand ch s
  | .swapInStrand ch => Sys2Proof.Machine.execSwapInStrand ch s
  | .dieResetComplete die => Sys2Proof.Machine.execDieResetComplete die s
  | .branchResolution core ctx => Sys2Proof.Machine.execBranchResolution core ctx s
  | .loadValueReturn id => Sys2Proof.Machine.execLoadValueReturn id s
  | .pointChangeDone island => Sys2Proof.Machine.execPointChangeDone island s
  | .ringcfgWrite cluster ring value => Sys2Proof.Machine.execRingcfgWrite cluster ring value s
  | .wqchainWrite queue value => Sys2Proof.Machine.execWqchainWrite queue value s
  | .vdiemapWrite value => Sys2Proof.Machine.execVdiemapWrite value s
  | .trapqWrite part k => Sys2Proof.Machine.execTrapqWrite part k s
  | .fatalClear part value => Sys2Proof.Machine.execFatalClear part value s
  | .registerWrite w => Sys2Proof.Machine.execRegisterWrite w s
  | .stopImageRestore addr => Sys2Proof.Machine.execStopImageRestore addr s
  | .deviceReset b => Sys2Proof.Machine.execDeviceReset b s
  | .measurementExtend reg value => Sys2Proof.Machine.execMeasurementExtend reg value s
  | .lifeCycleAdvance signed => Sys2Proof.Machine.execLifeCycleAdvance signed s
  | .dieReset die => Sys2Proof.Machine.execDieReset die s
  | .partitionTeardown part pages => Sys2Proof.Machine.execPartitionTeardown part pages s
  | .vfctlWrite island value => Sys2Proof.Machine.execVfctlWrite island value s
  | .partitionCreation part vdev => Sys2Proof.Machine.execPartitionCreation part vdev s
  | .firmwareUpdate reg value => Sys2Proof.Machine.execFirmwareUpdate reg value s
  | .doorbell vdev queue value => Sys2Proof.Machine.execDoorbell vdev queue value s
  | .queueStatusClear vdev queue value => Sys2Proof.Machine.execQueueStatusClear vdev queue value s
  | .inboundPostedWrite w => Sys2Proof.Machine.execInboundPostedWrite w s
  | .inboundRead addr size => Sys2Proof.Machine.execInboundRead addr size s
  | .hostCompletion id answer => Sys2Proof.Machine.execHostCompletion id answer s
  | .flitReceive link f => Sys2Proof.Machine.execFlitReceive link f s
  | .linkDown link => Sys2Proof.Machine.execLinkDown link s
  | .linkRetrain link => Sys2Proof.Machine.execLinkRetrain link s
  | .spliceMarkerReceive link job => Sys2Proof.Machine.execSpliceMarkerReceive link job s
  | .resumeRequest base core => Sys2Proof.Machine.execResumeRequest base core s
  | .bar2Evpost req => Sys2Proof.Machine.execBar2Evpost req s
  | .operandQueueParityError place => Sys2Proof.Machine.execOperandQueueParityError place s
  | .stallExpiry core ctx => Sys2Proof.Machine.execStallExpiry core ctx s
  | .preemptRequest core base => Sys2Proof.Machine.execPreemptRequest core base s
  | .thermalStep island temp => Sys2Proof.Machine.execThermalStep island temp s
  | .migrationStop addr => Sys2Proof.Machine.execMigrationStop addr s
  | .jobCut job => Sys2Proof.Machine.execJobCut job s
  | .illegalWord => Sys2Proof.Machine.execIllegalWord s
  | .dbword => Sys2Proof.Machine.execDbword s
  | .getMeasurements => Sys2Proof.Machine.execGetMeasurements s
  | .allowanceRefill => Sys2Proof.Machine.execAllowanceRefill s

end Sys2Proof.Machine
end

