-- ==== Sys2Proof/Machine/Regs.lean ====
section
/-!
DEFINITION. Which registers an instruction reads and which it writes, for the interlocks of R58 and R125 and for the
copying of registers before their first write in a step (R312).
-/

namespace Sys2Proof

/-- The header of an instruction word's constructor; an event has none. -/
def Instr.hdr? : Instr → Option Hdr
  | .add h _ => some h
  | .sub h _ => some h
  | .mul h _ => some h
  | .mulh h _ => some h
  | .div h _ => some h
  | .rem h _ => some h
  | .and h _ => some h
  | .or h _ => some h
  | .xor h _ => some h
  | .shl h _ => some h
  | .shr h _ => some h
  | .sar h _ => some h
  | .min h _ => some h
  | .max h _ => some h
  | .sel h _ => some h
  | .li h _ => some h
  | .lui h _ => some h
  | .mov h _ => some h
  | .cmpEq h _ => some h
  | .cmpNe h _ => some h
  | .cmpLt h _ => some h
  | .cmpLe h _ => some h
  | .cmpGt h _ => some h
  | .cmpGe h _ => some h
  | .ptag h _ => some h
  | .pspace h _ => some h
  | .powner h _ => some h
  | .poff h _ => some h
  | .padd h _ => some h
  | .fadd h _ => some h
  | .fsub h _ => some h
  | .fmul h _ => some h
  | .ffma h _ => some h
  | .fdiv h _ => some h
  | .fsqrt h _ => some h
  | .fmin h _ => some h
  | .fmax h _ => some h
  | .fcvt h _ => some h
  | .fcmpEq h _ => some h
  | .fcmpNe h _ => some h
  | .fcmpLt h _ => some h
  | .fcmpLe h _ => some h
  | .fcmpGt h _ => some h
  | .fcmpGe h _ => some h
  | .fcmpUn h _ => some h
  | .nop h => some h
  | .br h _ => some h
  | .bcZ h _ => some h
  | .bcNz h _ => some h
  | .call h _ => some h
  | .ret h _ => some h
  | .jmp h _ => some h
  | .loop h _ => some h
  | .uend h => some h
  | .trapi h _ => some h
  | .vadd h _ => some h
  | .vsub h _ => some h
  | .vmul h _ => some h
  | .vfma h _ => some h
  | .vmin h _ => some h
  | .vmax h _ => some h
  | .vand h _ => some h
  | .vor h _ => some h
  | .vxor h _ => some h
  | .vsel h _ => some h
  | .vcvt h _ => some h
  | .vred h _ => some h
  | .vbcast h _ => some h
  | .vshuf h _ => some h
  | .vcmpEq h _ => some h
  | .vcmpNe h _ => some h
  | .vcmpLt h _ => some h
  | .vcmpLe h _ => some h
  | .vcmpGt h _ => some h
  | .vcmpGe h _ => some h
  | .vcmpUn h _ => some h
  | .vld h _ => some h
  | .vst h _ => some h
  | .wadd h _ => some h
  | .wsub h _ => some h
  | .wmul h _ => some h
  | .wfma h _ => some h
  | .wmin h _ => some h
  | .wmax h _ => some h
  | .wcvt h _ => some h
  | .wclamp h _ => some h
  | .wred h _ => some h
  | .wcopy h _ => some h
  | .exp2 h _ => some h
  | .log2 h _ => some h
  | .exp h _ => some h
  | .log h _ => some h
  | .rcp h _ => some h
  | .rsqrt h _ => some h
  | .tanh h _ => some h
  | .sigm h _ => some h
  | .mldA h _ => some h
  | .mldB h _ => some h
  | .mzero h _ => some h
  | .mmac h _ => some h
  | .mmacSp h _ => some h
  | .mscale h _ => some h
  | .mepi h _ => some h
  | .mdrain h _ => some h
  | .mstat h _ => some h
  | .mrepl h _ => some h
  | .mswz h _ => some h
  | .dld h _ => some h
  | .dstr h _ => some h
  | .dpt h _ => some h
  | .dadd h _ => some h
  | .dsub h _ => some h
  | .dmul h _ => some h
  | .dmax h _ => some h
  | .dmin h _ => some h
  | .dmix h _ => some h
  | .dtag h _ => some h
  | .dmom h _ => some h
  | .dqnt h _ => some h
  | .ld h _ => some h
  | .ldAcq h _ => some h
  | .st h _ => some h
  | .stRel h _ => some h
  | .ldg h _ => some h
  | .ldgAcq h _ => some h
  | .stg h _ => some h
  | .stgRel h _ => some h
  | .ldh h _ => some h
  | .ldhAcq h _ => some h
  | .sth h _ => some h
  | .sthRel h _ => some h
  | .pref h _ => some h
  | .atmAdd h _ => some h
  | .atmAnd h _ => some h
  | .atmOr h _ => some h
  | .atmXor h _ => some h
  | .atmMin h _ => some h
  | .atmMax h _ => some h
  | .atmFadd h _ => some h
  | .atmSwap h _ => some h
  | .atmCas h _ => some h
  | .atmIncb h _ => some h
  | .fenceCtx h => some h
  | .fenceCore h => some h
  | .fenceClu h => some h
  | .fenceDie h => some h
  | .fenceSys h => some h
  | .fencePkg h => some h
  | .fencep h _ => some h
  | .fiss h _ => some h
  | .fwait h _ => some h
  | .txdeclR h _ => some h
  | .txdeclW h _ => some h
  | .txsub h _ => some h
  | .txwait h _ => some h
  | .txend h _ => some h
  | .bhand h _ => some h
  | .bwait h _ => some h
  | .bstat h _ => some h
  | .bswz h _ => some h
  | .battach h _ => some h
  | .brevoke h _ => some h
  | .cpgo h _ => some h
  | .cpwait h _ => some h
  | .swgo h _ => some h
  | .gath h _ => some h
  | .coll h _ => some h
  | .qpush h _ => some h
  | .qpop h _ => some h
  | .uiret h => some h
  | .hstart h _ => some h
  | .hend h => some h
  | .hwait h _ => some h
  | .launch h _ => some h
  | .lwait h _ => some h
  | .cancelLaunch h _ => some h
  | .cancelGraph h _ => some h
  | .cancelSession h _ => some h
  | .cancelJob h _ => some h
  | .bar h => some h
  | .xsend h _ => some h
  | .xrecv h _ => some h
  | .rpush h _ => some h
  | .rpop h _ => some h
  | .reos h => some h
  | .prog h _ => some h
  | .yield h => some h
  | .sysr h _ => some h
  | .sysw h _ => some h
  | .ovtld h _ => some h
  | .ctxsave h _ => some h
  | .ctxload h _ => some h
  | .tlbinv h _ => some h
  | .tlbsync h => some h
  | .hcall h _ => some h
  | .trapret h => some h
  | .evpost h _ => some h
  | .wipe h _ => some h
  | .pmap h _ => some h
  | _ => none

end Sys2Proof

namespace Sys2Proof.Machine

/-- The register of a register-or-immediate source. -/
def regSI : SrcSI → List Reg
  | .s r => [.s r.toNat]
  | .imm _ => []

/-- The register of a vector, scalar or immediate source. -/
def regVSI : SrcVSI → List Reg
  | .v r => [.v r.toNat]
  | .s r => [.s r.toNat]
  | .imm _ => []

/-- A scalar or vector register operand. -/
def regSV : SrcSV → List Reg
  | .s r => [.s r.toNat]
  | .v r => [.v r.toNat]

/-- A distribution or scalar register operand. -/
def regDS : SrcDS → List Reg
  | .d r => [.d r.toNat]
  | .s r => [.s r.toNat]

/-- The register of a tag source. -/
def regTag : SrcTag → List Reg
  | .s r => [.s r.toNat]
  | .imm _ => []

/-- The register of a sweep's second source. -/
def regSw : SwSrc → List Reg
  | .s r => [.s r.toNat]
  | .v r => [.v r.toNat]
  | .imm _ => []

/-- Destination and source of a special function. -/
def regSfn : SfnRegs → List Reg × List Reg
  | .s a b => ([.s a.toNat], [.s b.toNat])
  | .v a b => ([.v a.toNat], [.v b.toNat])

/-- Registers an instruction reads; an event reads none. -/
def regsRead : Instr → List Reg
  | .add h x => [.p (h.guard).toNat] ++ [.s (x.b).toNat] ++ regSI x.c
  | .sub h x => [.p (h.guard).toNat] ++ [.s (x.b).toNat] ++ regSI x.c
  | .mul h x => [.p (h.guard).toNat] ++ [.s (x.b).toNat] ++ regSI x.c
  | .mulh h x => [.p (h.guard).toNat] ++ [.s (x.b).toNat] ++ regSI x.c
  | .div h x => [.p (h.guard).toNat] ++ [.s (x.b).toNat] ++ regSI x.c
  | .rem h x => [.p (h.guard).toNat] ++ [.s (x.b).toNat] ++ regSI x.c
  | .and h x => [.p (h.guard).toNat] ++ [.s (x.b).toNat] ++ regSI x.c
  | .or h x => [.p (h.guard).toNat] ++ [.s (x.b).toNat] ++ regSI x.c
  | .xor h x => [.p (h.guard).toNat] ++ [.s (x.b).toNat] ++ regSI x.c
  | .shl h x => [.p (h.guard).toNat] ++ [.s (x.b).toNat] ++ regSI x.c
  | .shr h x => [.p (h.guard).toNat] ++ [.s (x.b).toNat] ++ regSI x.c
  | .sar h x => [.p (h.guard).toNat] ++ [.s (x.b).toNat] ++ regSI x.c
  | .min h x => [.p (h.guard).toNat] ++ [.s (x.b).toNat] ++ regSI x.c
  | .max h x => [.p (h.guard).toNat] ++ [.s (x.b).toNat] ++ regSI x.c
  | .sel h x => [.p (h.guard).toNat] ++ [.p (x.p).toNat, .s (x.b).toNat] ++ regSI x.c
  | .li h _ => [.p (h.guard).toNat]
  | .lui h x => [.p (h.guard).toNat] ++ [.s (x.a).toNat]
  | .mov h x => [.p (h.guard).toNat] ++ regSI x.b
  | .cmpEq h x => [.p (h.guard).toNat] ++ [.s (x.b).toNat] ++ regSI x.c
  | .cmpNe h x => [.p (h.guard).toNat] ++ [.s (x.b).toNat] ++ regSI x.c
  | .cmpLt h x => [.p (h.guard).toNat] ++ [.s (x.b).toNat] ++ regSI x.c
  | .cmpLe h x => [.p (h.guard).toNat] ++ [.s (x.b).toNat] ++ regSI x.c
  | .cmpGt h x => [.p (h.guard).toNat] ++ [.s (x.b).toNat] ++ regSI x.c
  | .cmpGe h x => [.p (h.guard).toNat] ++ [.s (x.b).toNat] ++ regSI x.c
  | .ptag h x => [.p (h.guard).toNat] ++ [.s (x.b).toNat] ++ regSI x.c
  | .pspace h x => [.p (h.guard).toNat] ++ [.s (x.b).toNat]
  | .powner h x => [.p (h.guard).toNat] ++ [.s (x.b).toNat]
  | .poff h x => [.p (h.guard).toNat] ++ [.s (x.b).toNat]
  | .padd h x => [.p (h.guard).toNat] ++ [.s (x.b).toNat] ++ regSI x.c
  | .fadd h x => [.p (h.guard).toNat] ++ [.s (x.b).toNat, .s (x.c).toNat]
  | .fsub h x => [.p (h.guard).toNat] ++ [.s (x.b).toNat, .s (x.c).toNat]
  | .fmul h x => [.p (h.guard).toNat] ++ [.s (x.b).toNat, .s (x.c).toNat]
  | .ffma h x => [.p (h.guard).toNat] ++ [.s (x.a).toNat, .s (x.b).toNat, .s (x.c).toNat]
  | .fdiv h x => [.p (h.guard).toNat] ++ [.s (x.b).toNat, .s (x.c).toNat]
  | .fsqrt h x => [.p (h.guard).toNat] ++ [.s (x.b).toNat]
  | .fmin h x => [.p (h.guard).toNat] ++ [.s (x.b).toNat, .s (x.c).toNat]
  | .fmax h x => [.p (h.guard).toNat] ++ [.s (x.b).toNat, .s (x.c).toNat]
  | .fcvt h x => [.p (h.guard).toNat] ++ [.s (x.b).toNat]
  | .fcmpEq h x => [.p (h.guard).toNat] ++ [.s (x.b).toNat, .s (x.c).toNat]
  | .fcmpNe h x => [.p (h.guard).toNat] ++ [.s (x.b).toNat, .s (x.c).toNat]
  | .fcmpLt h x => [.p (h.guard).toNat] ++ [.s (x.b).toNat, .s (x.c).toNat]
  | .fcmpLe h x => [.p (h.guard).toNat] ++ [.s (x.b).toNat, .s (x.c).toNat]
  | .fcmpGt h x => [.p (h.guard).toNat] ++ [.s (x.b).toNat, .s (x.c).toNat]
  | .fcmpGe h x => [.p (h.guard).toNat] ++ [.s (x.b).toNat, .s (x.c).toNat]
  | .fcmpUn h x => [.p (h.guard).toNat] ++ [.s (x.b).toNat, .s (x.c).toNat]
  | .nop h => [.p (h.guard).toNat]
  | .br h _ => [.p (h.guard).toNat]
  | .bcZ h x => [.p (h.guard).toNat] ++ [.s (x.a).toNat]
  | .bcNz h x => [.p (h.guard).toNat] ++ [.s (x.a).toNat]
  | .call h _ => [.p (h.guard).toNat]
  | .ret h b => [.p (h.guard).toNat] ++ [.s (b).toNat]
  | .jmp h b => [.p (h.guard).toNat] ++ [.s (b).toNat]
  | .loop h x => [.p (h.guard).toNat] ++ [.s (x.a).toNat]
  | .uend h => [.p (h.guard).toNat]
  | .trapi h _ => [.p (h.guard).toNat]
  | .vadd h x => [.p (h.guard).toNat] ++ [.v (x.b).toNat] ++ regVSI x.c
  | .vsub h x => [.p (h.guard).toNat] ++ [.v (x.b).toNat] ++ regVSI x.c
  | .vmul h x => [.p (h.guard).toNat] ++ [.v (x.b).toNat] ++ regVSI x.c
  | .vfma h x => [.p (h.guard).toNat] ++ [.v (x.a).toNat, .v (x.b).toNat] ++ regVSI x.c
  | .vmin h x => [.p (h.guard).toNat] ++ [.v (x.b).toNat] ++ regVSI x.c
  | .vmax h x => [.p (h.guard).toNat] ++ [.v (x.b).toNat] ++ regVSI x.c
  | .vand h x => [.p (h.guard).toNat] ++ [.v (x.b).toNat] ++ regVSI x.c
  | .vor h x => [.p (h.guard).toNat] ++ [.v (x.b).toNat] ++ regVSI x.c
  | .vxor h x => [.p (h.guard).toNat] ++ [.v (x.b).toNat] ++ regVSI x.c
  | .vsel h x => [.p (h.guard).toNat] ++ [.p (x.p).toNat, .v (x.b).toNat, .v (x.c).toNat]
  | .vcvt h x => [.p (h.guard).toNat] ++ (if x.dty == .e2m1 && x.sty == .f32 then [.v (x.b).toNat, .v (x.b + 1).toNat] else [.v (x.b).toNat])
  | .vred h x => [.p (h.guard).toNat] ++ [.v (x.b).toNat]
  | .vbcast h x => [.p (h.guard).toNat] ++ regSI x.b
  | .vshuf h x => [.p (h.guard).toNat] ++ [.v (x.b).toNat, .v (x.c).toNat]
  | .vcmpEq h x => [.p (h.guard).toNat] ++ [.v (x.b).toNat] ++ regVSI x.c
  | .vcmpNe h x => [.p (h.guard).toNat] ++ [.v (x.b).toNat] ++ regVSI x.c
  | .vcmpLt h x => [.p (h.guard).toNat] ++ [.v (x.b).toNat] ++ regVSI x.c
  | .vcmpLe h x => [.p (h.guard).toNat] ++ [.v (x.b).toNat] ++ regVSI x.c
  | .vcmpGt h x => [.p (h.guard).toNat] ++ [.v (x.b).toNat] ++ regVSI x.c
  | .vcmpGe h x => [.p (h.guard).toNat] ++ [.v (x.b).toNat] ++ regVSI x.c
  | .vcmpUn h x => [.p (h.guard).toNat] ++ [.v (x.b).toNat] ++ regVSI x.c
  | .vld h x => [.p (h.guard).toNat] ++ [.s (x.base).toNat]
  | .vst h x => [.p (h.guard).toNat] ++ [.s (x.base).toNat, .v (x.v).toNat]
  | .wadd h x => [.p (h.guard).toNat] ++ [.s (x.dst.base).toNat, .s (x.src.base).toNat] ++ regSw x.c
  | .wsub h x => [.p (h.guard).toNat] ++ [.s (x.dst.base).toNat, .s (x.src.base).toNat] ++ regSw x.c
  | .wmul h x => [.p (h.guard).toNat] ++ [.s (x.dst.base).toNat, .s (x.src.base).toNat] ++ regSw x.c
  | .wfma h x => [.p (h.guard).toNat] ++ [.s (x.dst.base).toNat, .s (x.src.base).toNat] ++ regSw x.c
  | .wmin h x => [.p (h.guard).toNat] ++ [.s (x.dst.base).toNat, .s (x.src.base).toNat] ++ regSw x.c
  | .wmax h x => [.p (h.guard).toNat] ++ [.s (x.dst.base).toNat, .s (x.src.base).toNat] ++ regSw x.c
  | .wcvt h x => [.p (h.guard).toNat] ++ [.s (x.dst.base).toNat, .s (x.src.base).toNat]
  | .wclamp h x => [.p (h.guard).toNat] ++ [.s (x.dst.base).toNat, .s (x.src.base).toNat, .v (x.c).toNat]
  | .wred h x => [.p (h.guard).toNat] ++ [.s (x.src.base).toNat, .v (x.c).toNat]
  | .wcopy h x => [.p (h.guard).toNat] ++ [.s (x.dst.base).toNat, .s (x.src.base).toNat]
  | .exp2 h x => [.p (h.guard).toNat] ++ (regSfn x.r).2
  | .log2 h x => [.p (h.guard).toNat] ++ (regSfn x.r).2
  | .exp h x => [.p (h.guard).toNat] ++ (regSfn x.r).2
  | .log h x => [.p (h.guard).toNat] ++ (regSfn x.r).2
  | .rcp h x => [.p (h.guard).toNat] ++ (regSfn x.r).2
  | .rsqrt h x => [.p (h.guard).toNat] ++ (regSfn x.r).2
  | .tanh h x => [.p (h.guard).toNat] ++ (regSfn x.r).2
  | .sigm h x => [.p (h.guard).toNat] ++ (regSfn x.r).2
  | .mldA h x => [.p (h.guard).toNat] ++ [.s (x.base).toNat, .s (x.sh).toNat]
  | .mldB h x => [.p (h.guard).toNat] ++ [.s (x.base).toNat, .s (x.sh).toNat]
  | .mzero h _ => [.p (h.guard).toNat]
  | .mmac h _ => [.p (h.guard).toNat]
  | .mmacSp h x => [.p (h.guard).toNat] ++ [.s (x.m).toNat]
  | .mscale h x => [.p (h.guard).toNat] ++ [.v (x.c).toNat, .v (x.c + 1).toNat]
  | .mepi h x => [.p (h.guard).toNat] ++ [.s (x.base).toNat]
  | .mdrain h _ => [.p (h.guard).toNat]
  | .mstat h _ => [.p (h.guard).toNat]
  | .mrepl h b => [.p (h.guard).toNat] ++ [.s (b).toNat]
  | .mswz h x => [.p (h.guard).toNat] ++ [.s (x.b).toNat]
  | .dld h x => [.p (h.guard).toNat] ++ [.s (x.base).toNat]
  | .dstr h x => [.p (h.guard).toNat] ++ [.s (x.base).toNat, .d (x.d).toNat]
  | .dpt h x => [.p (h.guard).toNat] ++ regSV x.b
  | .dadd h x => [.p (h.guard).toNat] ++ [.d (x.b).toNat, .d (x.c).toNat]
  | .dsub h x => [.p (h.guard).toNat] ++ [.d (x.b).toNat, .d (x.c).toNat]
  | .dmul h x => [.p (h.guard).toNat] ++ [.d (x.b).toNat, .d (x.c).toNat]
  | .dmax h x => [.p (h.guard).toNat] ++ [.d (x.b).toNat, .d (x.c).toNat]
  | .dmin h x => [.p (h.guard).toNat] ++ [.d (x.b).toNat, .d (x.c).toNat]
  | .dmix h x => [.p (h.guard).toNat] ++ [.d (x.a).toNat, .d (x.b).toNat, .s (x.c).toNat]
  | .dtag h x => [.p (h.guard).toNat] ++ [.d (x.a).toNat] ++ regTag x.b
  | .dmom h x => [.p (h.guard).toNat] ++ [.d (x.b).toNat]
  | .dqnt h x => [.p (h.guard).toNat] ++ [.d (x.b).toNat, .s (x.c).toNat]
  | .ld h x => [.p (h.guard).toNat] ++ [.s (x.base).toNat]
  | .ldAcq h x => [.p (h.guard).toNat] ++ [.s (x.base).toNat]
  | .st h x => [.p (h.guard).toNat] ++ [.s (x.base).toNat, .s (x.r).toNat]
  | .stRel h x => [.p (h.guard).toNat] ++ [.s (x.base).toNat, .s (x.r).toNat]
  | .ldg h x => [.p (h.guard).toNat] ++ [.s (x.base).toNat]
  | .ldgAcq h x => [.p (h.guard).toNat] ++ [.s (x.base).toNat]
  | .stg h x => [.p (h.guard).toNat] ++ [.s (x.base).toNat, .s (x.r).toNat]
  | .stgRel h x => [.p (h.guard).toNat] ++ [.s (x.base).toNat, .s (x.r).toNat]
  | .ldh h x => [.p (h.guard).toNat] ++ [.s (x.base).toNat]
  | .ldhAcq h x => [.p (h.guard).toNat] ++ [.s (x.base).toNat]
  | .sth h x => [.p (h.guard).toNat] ++ [.s (x.base).toNat, .s (x.r).toNat]
  | .sthRel h x => [.p (h.guard).toNat] ++ [.s (x.base).toNat, .s (x.r).toNat]
  | .pref h x => [.p (h.guard).toNat] ++ [.s (x.base).toNat]
  | .atmAdd h x => [.p (h.guard).toNat] ++ [.s (x.base).toNat, .s (x.c).toNat]
  | .atmAnd h x => [.p (h.guard).toNat] ++ [.s (x.base).toNat, .s (x.c).toNat]
  | .atmOr h x => [.p (h.guard).toNat] ++ [.s (x.base).toNat, .s (x.c).toNat]
  | .atmXor h x => [.p (h.guard).toNat] ++ [.s (x.base).toNat, .s (x.c).toNat]
  | .atmMin h x => [.p (h.guard).toNat] ++ [.s (x.base).toNat, .s (x.c).toNat]
  | .atmMax h x => [.p (h.guard).toNat] ++ [.s (x.base).toNat, .s (x.c).toNat]
  | .atmFadd h x => [.p (h.guard).toNat] ++ [.s (x.base).toNat, .s (x.c).toNat]
  | .atmSwap h x => [.p (h.guard).toNat] ++ [.s (x.base).toNat, .s (x.c).toNat]
  | .atmCas h x => [.p (h.guard).toNat] ++ [.s (x.base).toNat, .s (x.c).toNat, .s (x.c + 1).toNat]
  | .atmIncb h x => [.p (h.guard).toNat] ++ [.s (x.base).toNat, .s (x.c).toNat]
  | .fenceCtx h => [.p (h.guard).toNat]
  | .fenceCore h => [.p (h.guard).toNat]
  | .fenceClu h => [.p (h.guard).toNat]
  | .fenceDie h => [.p (h.guard).toNat]
  | .fenceSys h => [.p (h.guard).toNat]
  | .fencePkg h => [.p (h.guard).toNat]
  | .fencep h _ => [.p (h.guard).toNat]
  | .fiss h _ => [.p (h.guard).toNat]
  | .fwait h b => [.p (h.guard).toNat] ++ [.s (b).toNat]
  | .txdeclR h b => [.p (h.guard).toNat] ++ [.s (b).toNat]
  | .txdeclW h b => [.p (h.guard).toNat] ++ [.s (b).toNat]
  | .txsub h _ => [.p (h.guard).toNat]
  | .txwait h b => [.p (h.guard).toNat] ++ [.s (b).toNat]
  | .txend h b => [.p (h.guard).toNat] ++ [.s (b).toNat]
  | .bhand h x => [.p (h.guard).toNat] ++ [.s (x.c).toNat]
  | .bwait h _ => [.p (h.guard).toNat]
  | .bstat h _ => [.p (h.guard).toNat]
  | .bswz h x => [.p (h.guard).toNat] ++ [.s (x.b).toNat]
  | .battach h x => [.p (h.guard).toNat] ++ [.s (x.c).toNat]
  | .brevoke h b => [.p (h.guard).toNat] ++ [.s (b).toNat]
  | .cpgo h x => [.p (h.guard).toNat] ++ [.s (x.b).toNat]
  | .cpwait h _ => [.p (h.guard).toNat]
  | .swgo h x => [.p (h.guard).toNat] ++ [.s (x.b).toNat]
  | .gath h x => [.p (h.guard).toNat] ++ [.s (x.b).toNat]
  | .coll h x => [.p (h.guard).toNat] ++ [.s (x.b).toNat]
  | .qpush h x => [.p (h.guard).toNat] ++ regSV x.b
  | .qpop h _ => [.p (h.guard).toNat]
  | .uiret h => [.p (h.guard).toNat]
  | .hstart h x => [.p (h.guard).toNat] ++ [.s (x.b).toNat]
  | .hend h => [.p (h.guard).toNat]
  | .hwait h b => [.p (h.guard).toNat] ++ [.s (b).toNat]
  | .launch h x => [.p (h.guard).toNat] ++ [.s (x.b).toNat]
  | .lwait h b => [.p (h.guard).toNat] ++ [.s (b).toNat]
  | .cancelLaunch h b => [.p (h.guard).toNat] ++ [.s (b).toNat]
  | .cancelGraph h b => [.p (h.guard).toNat] ++ [.s (b).toNat]
  | .cancelSession h b => [.p (h.guard).toNat] ++ [.s (b).toNat]
  | .cancelJob h b => [.p (h.guard).toNat] ++ [.s (b).toNat]
  | .bar h => [.p (h.guard).toNat]
  | .xsend h x => [.p (h.guard).toNat] ++ [.s (x.a).toNat, .v (x.b).toNat]
  | .xrecv h _ => [.p (h.guard).toNat]
  | .rpush h b => [.p (h.guard).toNat] ++ regSV b
  | .rpop h _ => [.p (h.guard).toNat]
  | .reos h => [.p (h.guard).toNat]
  | .prog h b => [.p (h.guard).toNat] ++ regDS b
  | .yield h => [.p (h.guard).toNat]
  | .sysr h _ => [.p (h.guard).toNat]
  | .sysw h x => [.p (h.guard).toNat] ++ [.s (x.b).toNat]
  | .ovtld h b => [.p (h.guard).toNat] ++ [.s (b).toNat]
  | .ctxsave h x => [.p (h.guard).toNat] ++ [.s (x.b).toNat, .s (x.c).toNat]
  | .ctxload h x => [.p (h.guard).toNat] ++ [.s (x.b).toNat, .s (x.c).toNat]
  | .tlbinv h x => [.p (h.guard).toNat] ++ [.s (x.b).toNat, .s (x.c).toNat]
  | .tlbsync h => [.p (h.guard).toNat]
  | .hcall h _ => [.p (h.guard).toNat]
  | .trapret h => [.p (h.guard).toNat]
  | .evpost h x => [.p (h.guard).toNat] ++ [.s (x.b).toNat]
  | .wipe h x => [.p (h.guard).toNat] ++ [.s (x.b).toNat, .s (x.c).toNat]
  | .pmap h x => [.p (h.guard).toNat] ++ [.s (x.b).toNat, .s (x.c).toNat]
  | .matrixCommandExecute _ => []
  | .epilogueRowFault _ _ => []
  | .panelRefetch _ => []
  | .drainMarkerReply _ _ _ => []
  | .submissionAccepted _ _ => []
  | .batchClose _ => []
  | .batchApply _ => []
  | .sequencerApplyResume _ => []
  | .sliceGrant _ => []
  | .sliceRelease _ => []
  | .txHold _ _ => []
  | .handoverPoint _ => []
  | .bankReturn _ => []
  | .bankWipeDone _ => []
  | .channelArbitration _ => []
  | .strandRun _ => []
  | .userInterrupt _ _ => []
  | .gatherFinish _ => []
  | .collectiveFinish _ _ _ => []
  | .barrierComplete _ _ => []
  | .exchangeDelivery _ => []
  | .governorEvaluation _ => []
  | .accessArrival _ => []
  | .storeAcknowledged _ => []
  | .remoteRefused _ => []
  | .pageWalkFill _ => []
  | .trapEntry _ _ => []
  | .fatalTrap _ _ => []
  | .recordRead _ => []
  | .launchArbitration _ => []
  | .dependenceReread _ => []
  | .launchStart _ => []
  | .preloadRun _ _ => []
  | .launchComplete _ _ => []
  | .cancellation _ => []
  | .hostTimeout _ => []
  | .evictionDecision _ => []
  | .lastSafeMoment _ => []
  | .deadlineChainStart _ _ => []
  | .laneGrant _ => []
  | .swapOutStrand _ => []
  | .swapInStrand _ => []
  | .dieResetComplete _ => []
  | .branchResolution _ _ => []
  | .loadValueReturn _ => []
  | .pointChangeDone _ => []
  | .ringcfgWrite _ _ _ => []
  | .wqchainWrite _ _ => []
  | .vdiemapWrite _ => []
  | .trapqWrite _ _ => []
  | .fatalClear _ _ => []
  | .registerWrite _ => []
  | .stopImageRestore _ => []
  | .deviceReset _ => []
  | .measurementExtend _ _ => []
  | .lifeCycleAdvance _ => []
  | .dieReset _ => []
  | .partitionTeardown _ _ => []
  | .vfctlWrite _ _ => []
  | .partitionCreation _ _ => []
  | .firmwareUpdate _ _ => []
  | .doorbell _ _ _ => []
  | .queueStatusClear _ _ _ => []
  | .inboundPostedWrite _ => []
  | .inboundRead _ _ => []
  | .hostCompletion _ _ => []
  | .flitReceive _ _ => []
  | .linkDown _ => []
  | .linkRetrain _ => []
  | .spliceMarkerReceive _ _ => []
  | .resumeRequest _ _ => []
  | .bar2Evpost _ => []
  | .operandQueueParityError _ => []
  | .stallExpiry _ _ => []
  | .preemptRequest _ _ => []
  | .thermalStep _ _ => []
  | .migrationStop _ => []
  | .jobCut _ => []
  | .illegalWord => []
  | .dbword => []
  | .getMeasurements => []
  | .allowanceRefill => []

/-- Registers an instruction writes; an event writes none. -/
def regsWritten : Instr → List Reg
  | .add _ x => [.s (x.a).toNat]
  | .sub _ x => [.s (x.a).toNat]
  | .mul _ x => [.s (x.a).toNat]
  | .mulh _ x => [.s (x.a).toNat]
  | .div _ x => [.s (x.a).toNat]
  | .rem _ x => [.s (x.a).toNat]
  | .and _ x => [.s (x.a).toNat]
  | .or _ x => [.s (x.a).toNat]
  | .xor _ x => [.s (x.a).toNat]
  | .shl _ x => [.s (x.a).toNat]
  | .shr _ x => [.s (x.a).toNat]
  | .sar _ x => [.s (x.a).toNat]
  | .min _ x => [.s (x.a).toNat]
  | .max _ x => [.s (x.a).toNat]
  | .sel _ x => [.s (x.a).toNat]
  | .li _ x => [.s (x.a).toNat]
  | .lui _ x => [.s (x.a).toNat]
  | .mov _ x => [.s (x.a).toNat]
  | .cmpEq _ x => [.p (x.p).toNat]
  | .cmpNe _ x => [.p (x.p).toNat]
  | .cmpLt _ x => [.p (x.p).toNat]
  | .cmpLe _ x => [.p (x.p).toNat]
  | .cmpGt _ x => [.p (x.p).toNat]
  | .cmpGe _ x => [.p (x.p).toNat]
  | .ptag _ x => [.s (x.a).toNat]
  | .pspace _ x => [.s (x.a).toNat]
  | .powner _ x => [.s (x.a).toNat]
  | .poff _ x => [.s (x.a).toNat]
  | .padd _ x => [.s (x.a).toNat]
  | .fadd _ x => [.s (x.a).toNat]
  | .fsub _ x => [.s (x.a).toNat]
  | .fmul _ x => [.s (x.a).toNat]
  | .ffma _ x => [.s (x.a).toNat]
  | .fdiv _ x => [.s (x.a).toNat]
  | .fsqrt _ x => [.s (x.a).toNat]
  | .fmin _ x => [.s (x.a).toNat]
  | .fmax _ x => [.s (x.a).toNat]
  | .fcvt _ x => [.s (x.a).toNat]
  | .fcmpEq _ x => [.p (x.p).toNat]
  | .fcmpNe _ x => [.p (x.p).toNat]
  | .fcmpLt _ x => [.p (x.p).toNat]
  | .fcmpLe _ x => [.p (x.p).toNat]
  | .fcmpGt _ x => [.p (x.p).toNat]
  | .fcmpGe _ x => [.p (x.p).toNat]
  | .fcmpUn _ x => [.p (x.p).toNat]
  | .nop _ => []
  | .br _ _ => []
  | .bcZ _ _ => []
  | .bcNz _ _ => []
  | .call _ x => [.s (x.a).toNat]
  | .ret _ _ => []
  | .jmp _ _ => []
  | .loop _ x => [.s (x.a).toNat]
  | .uend _ => []
  | .trapi _ _ => []
  | .vadd _ x => [.v (x.a).toNat]
  | .vsub _ x => [.v (x.a).toNat]
  | .vmul _ x => [.v (x.a).toNat]
  | .vfma _ x => [.v (x.a).toNat]
  | .vmin _ x => [.v (x.a).toNat]
  | .vmax _ x => [.v (x.a).toNat]
  | .vand _ x => [.v (x.a).toNat]
  | .vor _ x => [.v (x.a).toNat]
  | .vxor _ x => [.v (x.a).toNat]
  | .vsel _ x => [.v (x.a).toNat]
  | .vcvt _ x => if x.sty == .e2m1 && x.dty == .f32 then [.v (x.a).toNat, .v (x.a + 1).toNat] else [.v (x.a).toNat]
  | .vred _ x => [.s (x.a).toNat]
  | .vbcast _ x => [.v (x.a).toNat]
  | .vshuf _ x => [.v (x.a).toNat]
  | .vcmpEq _ x => [.p (x.p).toNat]
  | .vcmpNe _ x => [.p (x.p).toNat]
  | .vcmpLt _ x => [.p (x.p).toNat]
  | .vcmpLe _ x => [.p (x.p).toNat]
  | .vcmpGt _ x => [.p (x.p).toNat]
  | .vcmpGe _ x => [.p (x.p).toNat]
  | .vcmpUn _ x => [.p (x.p).toNat]
  | .vld _ x => [.v (x.v).toNat]
  | .vst _ _ => []
  | .wadd _ _ => []
  | .wsub _ _ => []
  | .wmul _ _ => []
  | .wfma _ _ => []
  | .wmin _ _ => []
  | .wmax _ _ => []
  | .wcvt _ _ => []
  | .wclamp _ _ => []
  | .wred _ x => [.v (x.c).toNat]
  | .wcopy _ _ => []
  | .exp2 _ x => (regSfn x.r).1
  | .log2 _ x => (regSfn x.r).1
  | .exp _ x => (regSfn x.r).1
  | .log _ x => (regSfn x.r).1
  | .rcp _ x => (regSfn x.r).1
  | .rsqrt _ x => (regSfn x.r).1
  | .tanh _ x => (regSfn x.r).1
  | .sigm _ x => (regSfn x.r).1
  | .mldA _ _ => []
  | .mldB _ _ => []
  | .mzero _ _ => []
  | .mmac _ _ => []
  | .mmacSp _ _ => []
  | .mscale _ _ => []
  | .mepi _ _ => []
  | .mdrain _ _ => []
  | .mstat _ x => [.s (x.a).toNat]
  | .mrepl _ _ => []
  | .mswz _ _ => []
  | .dld _ x => [.d (x.d).toNat]
  | .dstr _ _ => []
  | .dpt _ x => [.d (x.a).toNat]
  | .dadd _ x => [.d (x.a).toNat]
  | .dsub _ x => [.d (x.a).toNat]
  | .dmul _ x => [.d (x.a).toNat]
  | .dmax _ x => [.d (x.a).toNat]
  | .dmin _ x => [.d (x.a).toNat]
  | .dmix _ x => [.d (x.a).toNat]
  | .dtag _ x => [.d (x.a).toNat]
  | .dmom _ x => [.v (x.a).toNat, .v (x.a + 1).toNat]
  | .dqnt _ x => [.v (x.a).toNat]
  | .ld _ x => [.s (x.r).toNat]
  | .ldAcq _ x => [.s (x.r).toNat]
  | .st _ _ => []
  | .stRel _ _ => []
  | .ldg _ x => [.s (x.r).toNat]
  | .ldgAcq _ x => [.s (x.r).toNat]
  | .stg _ _ => []
  | .stgRel _ _ => []
  | .ldh _ x => [.s (x.r).toNat]
  | .ldhAcq _ x => [.s (x.r).toNat]
  | .sth _ _ => []
  | .sthRel _ _ => []
  | .pref _ _ => []
  | .atmAdd _ x => [.s (x.a).toNat]
  | .atmAnd _ x => [.s (x.a).toNat]
  | .atmOr _ x => [.s (x.a).toNat]
  | .atmXor _ x => [.s (x.a).toNat]
  | .atmMin _ x => [.s (x.a).toNat]
  | .atmMax _ x => [.s (x.a).toNat]
  | .atmFadd _ x => [.s (x.a).toNat]
  | .atmSwap _ x => [.s (x.a).toNat]
  | .atmCas _ x => [.s (x.a).toNat]
  | .atmIncb _ x => [.s (x.a).toNat]
  | .fenceCtx _ => []
  | .fenceCore _ => []
  | .fenceClu _ => []
  | .fenceDie _ => []
  | .fenceSys _ => []
  | .fencePkg _ => []
  | .fencep _ _ => []
  | .fiss _ a => [.s (a).toNat]
  | .fwait _ _ => []
  | .txdeclR _ _ => []
  | .txdeclW _ _ => []
  | .txsub _ a => [.s (a).toNat]
  | .txwait _ _ => []
  | .txend _ _ => []
  | .bhand _ _ => []
  | .bwait _ _ => []
  | .bstat _ x => [.s (x.a).toNat]
  | .bswz _ _ => []
  | .battach _ _ => []
  | .brevoke _ _ => []
  | .cpgo _ _ => []
  | .cpwait _ _ => []
  | .swgo _ _ => []
  | .gath _ _ => []
  | .coll _ _ => []
  | .qpush _ _ => []
  | .qpop _ x => regSV x.a
  | .uiret _ => []
  | .hstart _ x => [.s (x.a).toNat]
  | .hend _ => []
  | .hwait _ _ => []
  | .launch _ x => [.s (x.a).toNat]
  | .lwait _ _ => []
  | .cancelLaunch _ _ => []
  | .cancelGraph _ _ => []
  | .cancelSession _ _ => []
  | .cancelJob _ _ => []
  | .bar _ => []
  | .xsend _ _ => []
  | .xrecv _ x => [.v (x.a).toNat]
  | .rpush _ _ => []
  | .rpop _ x => [.p (x.p).toNat] ++ regSV x.b
  | .reos _ => []
  | .prog _ _ => []
  | .yield _ => []
  | .sysr _ x => [.s (x.b).toNat]
  | .sysw _ _ => []
  | .ovtld _ _ => []
  | .ctxsave _ _ => []
  | .ctxload _ _ => []
  | .tlbinv _ _ => []
  | .tlbsync _ => []
  | .hcall _ _ => []
  | .trapret _ => []
  | .evpost _ x => [.s (x.a).toNat]
  | .wipe _ x => [.s (x.b).toNat, .s (x.c).toNat]
  | .pmap _ _ => []
  | .matrixCommandExecute _ => []
  | .epilogueRowFault _ _ => []
  | .panelRefetch _ => []
  | .drainMarkerReply _ _ _ => []
  | .submissionAccepted _ _ => []
  | .batchClose _ => []
  | .batchApply _ => []
  | .sequencerApplyResume _ => []
  | .sliceGrant _ => []
  | .sliceRelease _ => []
  | .txHold _ _ => []
  | .handoverPoint _ => []
  | .bankReturn _ => []
  | .bankWipeDone _ => []
  | .channelArbitration _ => []
  | .strandRun _ => []
  | .userInterrupt _ _ => []
  | .gatherFinish _ => []
  | .collectiveFinish _ _ _ => []
  | .barrierComplete _ _ => []
  | .exchangeDelivery _ => []
  | .governorEvaluation _ => []
  | .accessArrival _ => []
  | .storeAcknowledged _ => []
  | .remoteRefused _ => []
  | .pageWalkFill _ => []
  | .trapEntry _ _ => []
  | .fatalTrap _ _ => []
  | .recordRead _ => []
  | .launchArbitration _ => []
  | .dependenceReread _ => []
  | .launchStart _ => []
  | .preloadRun _ _ => []
  | .launchComplete _ _ => []
  | .cancellation _ => []
  | .hostTimeout _ => []
  | .evictionDecision _ => []
  | .lastSafeMoment _ => []
  | .deadlineChainStart _ _ => []
  | .laneGrant _ => []
  | .swapOutStrand _ => []
  | .swapInStrand _ => []
  | .dieResetComplete _ => []
  | .branchResolution _ _ => []
  | .loadValueReturn _ => []
  | .pointChangeDone _ => []
  | .ringcfgWrite _ _ _ => []
  | .wqchainWrite _ _ => []
  | .vdiemapWrite _ => []
  | .trapqWrite _ _ => []
  | .fatalClear _ _ => []
  | .registerWrite _ => []
  | .stopImageRestore _ => []
  | .deviceReset _ => []
  | .measurementExtend _ _ => []
  | .lifeCycleAdvance _ => []
  | .dieReset _ => []
  | .partitionTeardown _ _ => []
  | .vfctlWrite _ _ => []
  | .partitionCreation _ _ => []
  | .firmwareUpdate _ _ => []
  | .doorbell _ _ _ => []
  | .queueStatusClear _ _ _ => []
  | .inboundPostedWrite _ => []
  | .inboundRead _ _ => []
  | .hostCompletion _ _ => []
  | .flitReceive _ _ => []
  | .linkDown _ => []
  | .linkRetrain _ => []
  | .spliceMarkerReceive _ _ => []
  | .resumeRequest _ _ => []
  | .bar2Evpost _ => []
  | .operandQueueParityError _ => []
  | .stallExpiry _ _ => []
  | .preemptRequest _ _ => []
  | .thermalStep _ _ => []
  | .migrationStop _ => []
  | .jobCut _ => []
  | .illegalWord => []
  | .dbword => []
  | .getMeasurements => []
  | .allowanceRefill => []

end Sys2Proof.Machine
end

