-- ==== Sys2Proof/Machine/Sched.lean ====
section
/-!
DEFINITION. What may happen next: the events that are enabled, the core cycle with its choice of a context (R233), the
fetch of an instruction (R19, R268) and its interlocks (R58), and the counting of first writes (R312).
-/

namespace Sys2Proof.Machine

/-! ### Fetch and issue of one context (R31, R58, R268) -/

/-- Whether a load or another producer of a context still stands in the way of an instruction (R58): a reader waits for
an interlocked register, a writer for any, whatever its guard is (R15; assumption 108). -/
def State.interlocked (s : State) (c x : Nat) (i : Instr) : Bool :=
  (s.core c).loads.any (fun l => l.ctx == x && l.poison.isNone && (((regsWritten i).contains l.reg)
    || (!l.exposed && (regsRead i).contains l.reg)))

/-- Whether the guard of an instruction is true (R15). -/
def Instr.runs (i : Instr) (k : Ctx) : Bool := ((Instr.hdr? i).map (guardTrue k)).getD false

/-- The address of the load in whose stead an instruction of the issuing context meets an uncorrectable error: it reads its register,
the guard's or, where the guard is true, an operand (R304). -/
def State.poisoned (s : State) (i : Instr) : Option Nat :=
  let reads (r : Reg) : Bool := (regsRead i).contains r && (Instr.runs i s.me || (Instr.hdr? i).any (fun h => r == .p h.guard.toNat))
  (s.mycore.loads.find? (fun l => l.ctx == s.curCtx && l.poison.isSome && reads l.reg)).bind (·.poison)

/-- Whether an instruction that the issuing context has carried on in s has now been carried out. -/
def State.ran (s : State) (i : Instr) (t : State) : Bool :=
  let k := t.ctx s.cur s.curCtx
  Instr.runs i s.me && k.live && k.level == s.me.level && k.mid.isNone && (k.wait == .none || k.wait == .branch)

/-- What such an instruction writes at once, counted in its core's frame (R312): nothing under a false guard (R15) or where it
trapped, and not what a load writes later. -/
def State.counted (s : State) (i : Instr) (t : State) : State :=
  let later := ((t.core s.cur).loads.filter (·.ctx == s.curCtx)).map (·.reg)
  if s.ran i t then t.countUnits s.cur s.curCtx ((regsWritten i).filter (fun r => !later.contains r)) else t

/-- A register that is written anew no longer holds an error (R304). -/
def State.unpoison (s : State) (i : Instr) (t : State) : State :=
  let k := t.core s.cur
  if s.ran i t && k.loads.any (·.poison.isSome) then
    t.setCore s.cur { k with loads := k.loads.filter (fun l => !(l.ctx == s.curCtx && l.poison.isSome && (regsWritten i).contains l.reg)) }
  else t

/-- An instruction that has made one access of several stays its context's next one until the last (R83, R87, R129). -/
def State.keep (s : State) (i : Instr) (t : State) : State :=
  let k := t.ctx s.cur s.curCtx
  match k.mid with
  | some m => if m.cmd.isNone then t.setCtx s.cur s.curCtx { k with mid := some { m with cmd := some i } } else t
  | none => t

/-- A trap met by the fetch of the issuing context's instruction. -/
def State.fetchTrap (s : State) (c : Cause) (detail va ipa : Nat) : Out :=
  s.trapOut { cause := c.code, detail := detail, resume := s.me.pc, fpc := s.me.pc, va := va, ipa := ipa, jrn := none, async := false }

/-- Whether a store to bytes of these pieces is on its way. -/
def State.storesOver (s : State) (ps : List Piece) : Bool :=
  s.net.any (fun a => a.kind != .load && !a.performed && a.refused.isNone && runsMeet (s.accessRuns a) (ps.map Piece.run))

/-- The twelve bytes at the issuing context's pc, and the state with their HBM charge, or how their fetch ends (R19, R268, R271). A pc
that is not 4-byte aligned is fetched as it stands (assumption 88). Of bytes rewritten since the context could last see new code, it
gets all old or all new, and none of a store that is still under way (assumption 79). A word that runs past address 2^48 − 1 takes
ILLEGAL_POINTER (assumption 109). -/
def State.fetch (s : State) : Except Out (BitVec 96 × State) :=
  let k := s.me
  if 2 ^ 48 < k.pc + 12 then .error (s.fetchTrap .illegalPointer 0 k.pc 0)
  else match s.translate s.cur (s.vdevOf s.cur) k.xlat.toNat k.level k.pc 12 3 false with
  | .miss a => match s.walkFault s.cur s.curCtx a with
    | some f => .error ((s.dropWalks s.cur s.curCtx).fetchTrap .pageFault (pageDetail f.1 (f.2.1 == 1) 3) a f.2.2)
    | none =>
      let s := s.startWalk s.cur s.curCtx a true false
      .error (.next (s.setMe { s.me with wait := .walk }))
  | .fault c d a ipa => .error (s.fetchTrap c d a ipa)
  | .ok _ _ => match s.globalPieces s.self k.pc 12 3 with
    | .error (.cause c d a ipa) => .error (s.fetchTrap c d a ipa)
    | .error (.gone a) => .error (.fault (.noSuchMemory a))
    | .error (.down a) => .error (s.fetchTrap .uncorrectable 0 a 0)
    | .ok r =>
      if !s.served (s.partOf s.cur) r.1 then .error (.next s.held)
      else if r.1.any s.pieceBad then .error (s.fetchTrap .uncorrectable 0 k.pc 0)
      else
        let old := State.readPieces { s with mem := k.code } r.1
        let new := s.readPieces r.1
        .ok (BitVec.ofNat 96 (if old != new && (s.storesOver r.1 || Config.oldCode s.nonce) then old else new)
          , s.chargePieces (s.partOf s.cur) r.1)

/-- An instruction of the issuing context executed, and what it writes counted. -/
def State.run (s : State) (i : Instr) : Out :=
  match exec i s with
  | .next t => .next (s.keep i (s.unpoison i (s.counted i t)))
  | o => o

/-- The issuing context's turn: an instruction under way goes on; else its instruction is fetched, decoded and executed. A malformed
word traps (R30), an interlocked one does not issue (R58), and one that reads an error takes it (R304). -/
def State.turn (s : State) : Out :=
  match s.me.mid.bind (·.cmd) with
  | some i => s.run i
  | none => match s.fetch with
    | .error o => o
    | .ok (w, s) => match decode w with
      | none => execIllegalWord s
      | some i =>
        if s.interlocked s.cur s.curCtx i then .next s.held
        else match s.poisoned i with
          | some va => s.fetchTrap .uncorrectable 0 va 0
          | none => s.run i

/-! ### The core cycle (R233) -/

/-- The island that clocks a core (R284). -/
def coreIsland (c : Nat) : Nat := 8 * dieOf c + colOf c / 4

/-- The island that clocks a core's matrix unit (R284). -/
def unitIsland (c : Nat) : Nat := 32 + 2 * dieOf c + rowOf c / 6

/-- Whether a context may be asked for its next instruction: live, not waiting, its stall over, nothing to be taken at its
boundary first, and not asked to stop (R198, R233, R294, R303, R318), unless what a save waits for is its own to end (R189;
assumption 93). The control context waits for a refetch that has not failed (R109). An instruction under way goes on before anything
else (R88, R126). -/
def State.canTry (s : State) (c x : Nat) : Bool :=
  let k := s.ctx c x
  let n := s.core c
  k.live && k.wait == .none && decide (k.stall ≤ n.cc) && (k.mid.isSome || (k.traps.isEmpty && !s.mayInterrupt c x && !s.mayHold c x
    && ((!k.stopReq && n.preempt.isNone) || k.holdsGrants || n.epis.any (fun e => decide (32 ≤ e.1)))
    && !(x == 0 && n.refetch && !n.refetchFailed)))

/-- YieldNow cleared for every context of a core (R233). -/
def State.clearYield (s : State) (c : Nat) : State :=
  s.setCore c { s.core c with ctxs := (s.core c).ctxs.map (fun e => (e.1, { e.2 with yieldNow := false })) }

/-- The first context of a list, among those with or without YieldNow, that issues; none where none does. -/
def State.tryEach (s : State) (c : Nat) (yields : Bool) : List Nat → Option Out
  | [] => none
  | x :: r =>
    if s.canTry c x && (s.ctx c x).yieldNow == yields then
      let t := s.clearYield c
      let t := t.setCore c { t.core c with last := x }
      match State.turn { t with cur := c, curCtx := x } with
      | .next u => if (u.ctx c x).wait == .held then s.tryEach c yields r else some (.next u)
      | o => some o
    else s.tryEach c yields r

/-- One cc of a core: loads that are due return, and one context issues (R58, R233). -/
def State.cycle (s : State) (c : Nat) : Out :=
  let s := (s.setCore c { s.core c with cc := (s.core c).cc + 1 }).returnDue c
  let order := (List.range 16).map (fun k => ((s.core c).last + 1 + k) % 16)
  match s.tryEach c false order with
  | some o => o
  | none => match s.tryEach c true order with
    | some o => o
    | none => .next (s.clearYield c)

/-! ### Events that are enabled -/

/-- Events of one context. -/
def State.ctxEvents (s : State) (c x : Nat) : List Instr :=
  let k := s.ctx c x
  if !k.live then []
  else
    (match k.wait with
      | .submit _ => if s.submits.contains (c, x) then [Instr.submissionAccepted c x] else []
      | .marker _ ds => (ds.filter (s.mayReply c x)).map (fun d => Instr.drainMarkerReply c x d)
      | _ => [])
    ++ (if s.mayHold c x then [Instr.txHold c x] else [])
    ++ (if s.mayInterrupt c x then [Instr.userInterrupt c x] else [])
    ++ (if (s.takePending c x).isSome then (if k.headReplayable then [Instr.trapEntry c x] else [Instr.fatalTrap c x]) else [])
    ++ (if s.mayResolve c x then [Instr.branchResolution c x] else [])

/-- Events of one core and its matrix unit. -/
def State.coreEvents (s : State) (c : Nat) : List Instr :=
  let k := s.core c
  (if s.matrixReady c && (s.island (unitIsland c)).busy == 0 then [Instr.matrixCommandExecute c] else [])
    ++ (k.epis.filter (fun e => e.2.trapped.isSome)).map (fun e => Instr.epilogueRowFault c e.1)
    ++ (if s.refetchReady c && (s.ctx c 0).live then [Instr.panelRefetch c] else [])
    ++ (Tab.keys k.ctxs).flatMap (s.ctxEvents c)

/-- Events of an access on its way. -/
def State.netEvents (s : State) (a : Access) : List Instr :=
  (if s.canArrive a then [Instr.accessArrival a.id] else [])
    ++ (if a.acked then [Instr.storeAcknowledged a.id] else [])
    ++ (if a.refused.isSome && a.jrn.isSome then [Instr.remoteRefused a.id] else [])
    ++ (if s.mayGive a then [Instr.loadValueReturn a.id] else [])
    ++ (if a.atHost && decide (a.since + 50000 ≤ s.time) then [Instr.hostTimeout a.id] else [])

/-- Positions of a list whose elements satisfy a predicate. -/
def positions {α : Type} (p : Nat → α → Bool) (l : List α) : List Nat := (l.zipIdx.filter (fun e => p e.2 e.1)).map (·.2)

/-- Events of the hub for its queues, records and launches. -/
def State.hubEvents (s : State) : List Instr :=
  (Tab.keys s.queues).flatMap (fun q =>
      (if s.mayRead q then [Instr.recordRead q] else []) ++ (if s.mayReread q then [Instr.dependenceReread q] else []))
    ++ ((s.queues.map (·.2.part)).eraseDups.filter s.mayArbitrate).map Instr.launchArbitration
    ++ (match s.starting with | some q => [Instr.launchStart q.1] | none => [])
    ++ s.launches.flatMap (fun l =>
      (if (s.preloadStep l).isSome then [Instr.preloadRun l.queue l.seq] else [])
        ++ (if s.mayFinish l then [Instr.launchComplete l.queue l.seq] else [])
        ++ (if s.mayComplete l then [Instr.barrierComplete l.queue l.seq] else []))
    ++ (List.range s.cancels.length).map Instr.cancellation
    ++ ((List.range 4).filter s.mayGovern).map Instr.governorEvaluation
    ++ s.evicts.map (fun r => Instr.evictionDecision r.idx)
    ++ s.parts.flatMap (fun e =>
      (if s.mayStop e.1 then [Instr.lastSafeMoment e.1] else [])
        ++ (match e.2.deadline with
          | some d => (d.picks.filter (fun p => s.moveFor e.1 p.1 != .none)).map (fun p => Instr.deadlineChainStart e.1 p.1)
          | none => []))

/-- Whether a swap strand of a direction runs, begins a walk, or is parked again on a channel now. -/
def State.swapGoes (s : State) (n : Nat) (out : Bool) : Bool :=
  (s.mayRunSwap n out).any (fun p => (p.1.lane.isNone && !s.mayBegin p.1) || s.strandGoes p.1)

/-- Events of one channel of an engine. -/
def State.chanEvents (s : State) (n : Nat) : List Instr :=
  (if s.mayChoose n then [Instr.channelArbitration n] else [])
    ++ (if !(s.movesOf n).isEmpty then [Instr.strandRun n]
      else match s.runningChain n with
        | none => []
        | some h =>
          if h.mode != 0 then []
          else if !h.await.isEmpty then (if (s.endAwait h).isSome then [Instr.strandRun n] else [])
          else if h.lane.isNone && !s.mayBegin h then [Instr.strandRun n]
          else if !s.strandGoes h then []
          else if !(s.unwalked (s.chainAgent h) (s.strandRuns h)).isEmpty then [Instr.strandRun n]
          else match s.findStrand h with
            | .swap _ _ => []
            | _ => [Instr.strandRun n])
    ++ (if (s.mayLane n).isSome then [Instr.laneGrant n] else [])
    ++ (if s.swapGoes n true then [Instr.swapOutStrand n] else [])
    ++ (if s.swapGoes n false then [Instr.swapInStrand n] else [])

/-- Events of the engines. -/
def State.engineEvents (s : State) : List Instr :=
  ((s.chains.map (·.chan) ++ s.parts.flatMap (fun e => (e.2.deadline.map (·.chans)).getD []) ++ Tab.keys s.running ++ s.posts.map (·.chan)).eraseDups).flatMap s.chanEvents
    ++ (positions s.mayGather s.gathers).map Instr.gatherFinish
    ++ ((s.colls.filterMap (fun w => w.unit.map (fun u => (u, w.ident)))).eraseDups.filter (fun k =>
      !(s.badColls k.1.1 k.1.2 k.2).isEmpty || (match s.launch? k.1 with
        | some l => (match s.collParts l k.2 with
          | some ws => s.mayColl ws
          | none => false)
        | none => false))).map (fun k => Instr.collectiveFinish k.1.1 k.1.2 k.2)

/-- Events of banks in flight (R163 to R168). -/
def State.bankEvents (s : State) (b : Nat) : List Instr :=
  (if s.mayHandOver b then [Instr.handoverPoint b] else [])
    ++ (if s.mayReturn b then [Instr.bankReturn b] else [])
    ++ (if (s.hitch b).st == .wiping then [Instr.bankWipeDone b] else [])

/-- Events of the sequencers and slice queues. -/
def State.txnEvents (s : State) : List Instr :=
  (List.range 4).flatMap (fun d =>
      (if s.mayClose d then [Instr.batchClose d] else []) ++ (if s.mayApply d then [Instr.batchApply d] else [])
        ++ (if s.mayResume d then [Instr.sequencerApplyResume d] else []))
    ++ ((List.range s.slices.length).filter s.mayGrant).map Instr.sliceGrant
    ++ ((List.range s.releases.length).filter s.mayRelease).map Instr.sliceRelease

/-- Events of a die that comes back. -/
def State.deviceEvents (s : State) : List Instr := (s.hub.absent.filter s.mayComeBack).map Instr.dieResetComplete

/-- Every event of the device itself that may happen now. -/
def State.enabledEvents (s : State) : List Instr :=
  (Tab.keys s.cores).flatMap s.coreEvents ++ s.net.flatMap s.netEvents
    ++ (positions (fun _ (w : Walk) => w.fault.isNone && w.taken) s.walks).map Instr.pageWalkFill
    ++ (s.xnet.filter s.mayDeliver).map (fun m => Instr.exchangeDelivery m.id)
    ++ s.liveBanks.flatMap s.bankEvents ++ s.txnEvents ++ s.engineEvents ++ s.hubEvents ++ s.deviceEvents

/-! ### The choice of what comes next -/

/-- What a step may be. -/
inductive Action where
  /-- one cc of a core -/
  | cycle (c : Nat)
  /-- an event of the device -/
  | event (i : Instr)
  /-- the save of a core whose pre-emption was requested (R318) -/
  | save (c base : Nat)
  /-- an island's thermal limit at its due tick (R284) -/
  | thermal (n : Nat)
  /-- an island's point change that is over (R284) -/
  | point (n : Nat)
  /-- an accepted map comes into force (R274) -/
  | remap (map : Nat)
  /-- a stop under way (R337) -/
  | stop (addr : Nat)
  /-- a cut under way (R339) -/
  | cut (job : Nat)
  deriving DecidableEq, Repr

/-- Cores that have a live context, or one switched out whose grants' time goes on (R157, R189), and whose island does
not change point (R284). -/
def State.clocked (s : State) : List Nat :=
  (s.cores.filter (fun e => (e.2.ctxs.any (·.2.live) || !e.2.grantTable.isEmpty) && (s.island (coreIsland e.1)).busy == 0)).map (·.1)

/-- Requests under way that go on by themselves. -/
def State.pendingRequests (s : State) : List Action :=
  s.cores.filterMap (fun e => match e.2.preempt with
      | some b => if s.mayPreempt e.1 then some (Action.save e.1 b) else none
      | none => none)
    ++ ((List.range 44).filter s.thermalDue).map Action.thermal
    ++ ((List.range 44).filter (fun n => (s.island n).busy != 0 && decide ((s.island n).busy ≤ s.time))).map Action.point
    ++ (match s.hub.mapTo with
      | some (m, _) => if s.mayRemap then [Action.remap m] else []
      | none => [])
    ++ (match s.hub.stopping with
      | some (a, none) => if s.mayStopMore then [Action.stop a] else []
      | some (_, some j) => if s.mayStopMore || s.mayCut j then [Action.cut j] else []
      | none => [])

/-- Everything that may come next: a refill that is due comes first (R271). -/
def State.actions (s : State) : List Action :=
  if s.mayRefill then [.event .allowanceRefill]
  else s.clocked.map Action.cycle ++ s.pendingRequests ++ s.enabledEvents.map Action.event

/-- The action of a list that comes next: the spec gives no order where there are several (assumption 3). -/
def chooseAction (n : Nat) : List Action → Option Action
  | [] => none
  | [a] => some a
  | l => l[Config.pick n % l.length]?

/-- An action carried out. -/
def State.act (s : State) : Action → Out
  | .cycle c => s.cycle c
  | .event i => exec i s
  | .save c b => execPreemptRequest c b s
  | .thermal n => execThermalStep n (BitVec.ofNat 8 (s.island n).temp) s
  | .point n => execPointChangeDone n s
  | .remap m => execVdiemapWrite (BitVec.ofNat 64 m) s
  | .stop a => execMigrationStop a s
  | .cut j => execJobCut (BitVec.ofNat 32 j) s

/-- TIME and the count of steps after a step (assumption 4). -/
def State.tick (s : State) : State := { s with nonce := s.nonce + 1, time := s.time + Config.elapsed s.nonce }

/-- The cores that a fatal trap has stopped and whose stores have now drained freeze their banks (R307). -/
def State.freezeDrained (s : State) : State := s.each ((s.cores.filter (·.2.draining)).map (·.1)) State.freezeNow

/-- An outcome with its state after the tick; records become eligible with it (R223). -/
def ticked : Out → Out
  | .next t => .next t.freezeDrained.stampHeads.tick
  | o => o

/-- What comes from outside the device: an event row; a malformed word is no event of its own. -/
def Instr.external (i : Instr) : Bool := i.isEvent && i != .illegalWord

/-- A step without anything from outside: one of the actions, or only time passes. -/
def State.inner (s : State) : Out :=
  match chooseAction s.nonce s.actions with
  | some a => s.act a
  | none => .next s

/-- A step that takes an event from outside. -/
def State.outer (s : State) (i : Instr) : Out := if Instr.external i then exec i s else .next s

end Sys2Proof.Machine
end

