-- ==== Sys2Proof/Machine/Step.lean ====
section
/-!
DEFINITION. One step of the package, and the placing of an instruction where the next step fetches it.
-/

namespace Sys2Proof.Machine

/-- One step: the oldest event from outside where there is one, else something that the device does next. -/
def step (s : State) : Host.Outcome State Fault Refusal :=
  match s.agenda with
  | i :: r => ticked (State.outer { s with agenda := r } i)
  | [] => ticked s.inner

/-- Where `withFetchWord` places an instruction: the device address of its page. -/
def fetchPage : Nat := 0x10000

/-- Context 0 of core 0 live at L0 with the instruction as its next one: its cluster in a partition, its translation in
its core's TLB and the instruction's twelve bytes in memory (assumption 2). -/
def State.withFetchWord (s : State) (nbits w : Nat) : State :=
  let e : Tlb := { asid := 0, vdev := 0, va := fetchPage, size := 65536, base := fetchPage, ipa := fetchPage, kind := 0, die := 0
                   peer := 0, user := true, r := true, w := true, x := true, rights1 := 7, leaves := [], dirty := true }
  let m := s.mem.write fetchPage 12 (w % 2 ^ nbits)
  let k := s.core 0
  let x : Ctx := { s.ctx 0 0 with
    live := true, level := 0, pc := fetchPage, wait := .none, stall := 0, traps := [], irqs := [], xlat := 0, stopReq := false
    code := m, mid := none }
  let s := s.setCore 0 { k with ctxs := Tab.put k.ctxs 0 x, l1 := e :: k.l1, loads := [], preempt := none, refetch := false, last := 15 }
  let s := s.setCluster 0 { s.cluster 0 with part := some ((s.cluster 0).part.getD 0) }
  { s with agenda := [], mem := m }

end Sys2Proof.Machine
end

