-- ==== Sys2Proof/Safety.lean ====
section
/-!
DEFINITION. The terms that the statements use: when a context issues an instruction, the state that an instruction's own
effect leaves, what stays unchanged, and what every step keeps.
-/

namespace Sys2Proof

open Sys2Proof.Machine

/-! ### Issue (R15, R20, R31) -/

/-- What R31 and R244 ask of the context that issues an instruction: its level (class 0xE; for a system
register that of its view, R5), whether a helper or the control context may (R16, R112, R244), a launch's unit (R362), the exchange
step (R253). -/
def Instr.need : Instr → Need
  | .uend _ | .hstart .. | .reos _ => { helper := false }
  | .dld .. | .dstr .. | .dpt .. | .dadd .. | .dsub .. | .dmul .. | .dmax .. | .dmin .. | .dmix .. | .dtag .. | .dmom ..
  | .dqnt .. => { helper := false }
  | .hend _ => { control := false }
  | .bar _ | .rpush .. | .rpop .. => { helper := false, unit := true }
  | .xsend .. | .xrecv .. => { helper := false, unit := true, exchange := true }
  | .launch .. | .coll .. => { unit := true }
  | .prog _ (.s _) => { unit := true }
  | .prog _ (.d _) => { helper := false, unit := true }
  | .ovtld .. | .ctxsave .. | .ctxload .. | .tlbinv .. | .tlbsync _ | .trapret _ | .wipe .. => { level := 1 }
  | .evpost .. | .pmap .. => { level := 2 }
  | .sysr _ x => { level := (Machine.sysReadLevel x.num.toNat).getD 0 }
  | .sysw _ x => { level := Machine.sysWriteNeed x.num.toNat }
  | _ => {}

namespace Machine

/-- Whether the issuing context issues an instruction with this header and need: a true guard, the level, the phase and
the context that R31 checks, in that order, and no other instruction under way. -/
def State.issues (s : State) (h : Hdr) (n : Need) : Bool :=
  guardTrue s.me h && decide (n.level ≤ s.me.level) && phaseOk s h.phase
    && contextOk s n && !(n.exchange && s.phase != 1) && s.me.mid.isNone

/-- The state in which an instruction with a header has completed with the effect t: its context goes on at the next
address with the instruction's hints (R18, R20). -/
def State.goOn (t : State) (h : Hdr) : State := t.advance h (t.me.pc + 12)

/-- The state in which an instruction has begun with the effect t and its context stays on it. -/
def State.begun (t : State) (h : Hdr) : State :=
  t.setMe { t.me with finish := some h.stall.toNat, yieldNow := h.yield && t.me.wait != .walk }

/-- An instruction that writes one scalar register and nothing else. -/
def State.wroteS (s : State) (h : Hdr) (a : SReg) (w : Word) : State := (s.setMe (s.me.ws a w)).goOn h

/-- An instruction that writes one vector register and nothing else. -/
def State.wroteV (s : State) (h : Hdr) (a : VReg) (v : Nat) : State := (s.setMe (s.me.wv a (BitVec.ofNat 512 v))).goOn h

/-- An instruction that writes one predicate register and nothing else. -/
def State.wroteP (s : State) (h : Hdr) (p : PReg) (w : Word) : State := (s.setMe (s.me.wp p w)).goOn h

/-- An instruction carried on until it has made the last of its accesses, nothing else happening meanwhile, in at most n steps of it
(R83, R87, R129); none where it stops or takes longer. -/
def carried (i : Instr) : Nat → State → Option State
  | 0, _ => none
  | n + 1, s => match exec i s with
    | .next t => if t.me.mid.isSome then carried i n t else some t
    | _ => none

/-- An instruction that makes several accesses begins, and leaves the state t once it has made them all. -/
def Carries (i : Instr) (s t : State) : Prop := (∃ u, exec i s = .next u) ∧ ∃ n, carried i n s = some t

/-! ### Results -/

/-- r is the code of the exact integer x in an integer type, wrapped, or clamped to the type's range (R38). -/
def IntResult (t : ETy) (sat : Bool) (x : Int) (r : Nat) : Prop :=
  r < 2 ^ ETy.w t ∧
    (if sat then intOf t r = max (intMin t) (min (intMax t) x) else (2 ^ ETy.w t : Int) ∣ intOf t r - x)

/-- The exact value m·2^q as a rational. -/
def scaled (m : Int) (q : Int) : ℚ := (m : ℚ) * (2 : ℚ) ^ q

/-! ### What stays unchanged -/

/-- Every byte of HBM, of the CXL windows and of the banks reads as before, with the banks' tags. -/
def MemoryKept (s t : State) : Prop :=
  (∀ a, t.mem.byte a = s.mem.byte a) ∧ (∀ a, t.banks.byte a = s.banks.byte a) ∧ t.tags = s.tags

/-- Every scalar, vector and predicate register but those of a list reads as before. -/
def RegsKept (rs : List Reg) (k k' : Ctx) : Prop :=
  (∀ i : SReg, Reg.s i.toNat ∉ rs → k'.rs i = k.rs i) ∧ (∀ i : VReg, Reg.v i.toNat ∉ rs → k'.rv i = k.rv i) ∧
    (∀ i : PReg, Reg.p i.toNat ∉ rs → k'.rp i = k.rp i)

/-- A context with its registers, its place, its waiting and the code that its fetches may see (R19) put aside: what an
instruction that writes only registers leaves as it was (level, translation, overflow table, queue registers, tokens, claims, trap registers and the rest). -/
def Ctx.beside (k : Ctx) : Ctx :=
  { k with s := .replicate 32 0, v := .replicate 16 0, p := .replicate 8 0, pc := 0, stall := 0, yieldNow := false
           wait := .none, unresolved := none, code := [], fenced := false, mid := none }

/-- Everything but the issuing context's registers and place is as before: the other contexts and cores, the
distribution registers, tiles and queues of the core, memory, and every other part of the package. -/
def OnlyContextChanged (s t : State) : Prop :=
  t = { s with cores := t.cores } ∧ (∀ c, c ≠ s.cur → t.core c = s.core c) ∧
    (∀ x, x ≠ s.curCtx → t.ctx s.cur x = s.ctx s.cur x) ∧
    ({ t.core s.cur with ctxs := [] } : Core) = { s.core s.cur with ctxs := [] } ∧ t.me.beside = s.me.beside

/-! ### What every step keeps -/

/-- The canonical form of every memory: HBM with the CXL windows, the banks, and each queue's staging lines. -/
def State.MemWf (s : State) : Prop :=
  s.mem.wf = true ∧ s.banks.wf = true ∧ ∀ e ∈ s.queues, e.2.staging.wf = true

/-- The state in which a core's cycle lets a context issue: its yield flags cleared, its turn recorded (R233). -/
def State.issuing (s : State) (c x : Nat) : State :=
  let u := (s.setCore c { s.core c with cc := (s.core c).cc + 1 }).returnDue c
  let t := u.clearYield c
  { t.setCore c { t.core c with last := x } with cur := c, curCtx := x }

end Machine

end Sys2Proof
end

