-- ==== Sys2Proof/Certificates/Slice0/Obligations.lean ====
section
/-!
DEFINITION. The statements for the provers.
-/

open Sys2Proof Sys2Proof.Machine

/-! ### Reset, the step and the encoding -/

/-- What reset leaves (R280, R282): TIME and every bank and HBM byte 0, every scalar, vector and predicate register of
every context 0 (p7 reads all ones), no context live, the points of every distribution register as R114 has them, no
cluster in a partition, no queue enabled, every bank free with tags 0, every island at point 0.
Rests on the model's choices of log entry 15. -/
def Obligations.ResetState : Prop :=
  State.reset.time = 0 ∧ State.reset.mem = [] ∧ State.reset.banks = [] ∧ (∀ a, State.reset.mem.byte a = 0 ∧ State.reset.banks.byte a = 0) ∧
  (∀ c x, (State.reset.ctx c x).live = false ∧ (∀ i : SReg, (State.reset.ctx c x).rs i = 0) ∧
    (∀ i : VReg, (State.reset.ctx c x).rv i = 0) ∧ (∀ i : PReg, i ≠ 7 → (State.reset.ctx c x).rp i = 0) ∧
    (State.reset.ctx c x).rp 7 = BitVec.allOnes 64 ∧ (State.reset.ctx c x).ovt = 0x558#12) ∧
  (∀ c (i : Fin 8), (State.reset.core c).d[i] = { pts := List.replicate 64 (0, 8192), tag := 0 }) ∧
  (∀ r, (State.reset.cluster r).part = none ∧ (State.reset.cluster r).perm = 2 ^ r) ∧
  (∀ q, (State.reset.queue q).enabled = false ∧ (State.reset.queue q).pending = []) ∧
  (∀ b, (State.reset.hitch b).st = .free) ∧ (∀ b r, State.reset.tag b r = 0) ∧
  (∀ i ∈ State.reset.hub.islands.toList, i.current = 0) ∧ State.reset.hub.ready = false

/-- A step runs the decoded instruction (R31, R233). Nothing waits from outside; the step's choice is a cycle of core c;
x is the context the search of R233 meets first that can be tried and has no yield flag; no instruction of it is under way; its
fetch gives w, which decodes to i, and the state f, in which the fetch is charged to HBM (R271); no register that i reads or writes is
still awaited, and none that it reads holds an error; and i does not decline to issue. Then the step is exec of i in f, with the
registers that it wrote counted (R312) and no longer holding an error (R304), i kept as the one under way where it has more accesses to
make (R129), the banks of cores that a fatal trap stopped and whose stores have drained frozen (R307), the records that are eligible from
then on stamped (R223), and the tick after it. Where an instruction of x is under way, it goes on so, and nothing is fetched (R129).
Rests on the model's choices of log entries 3, 4, 79, 88 and 108. -/
def Obligations.StepRunsDecoded : Prop :=
  ∀ (s t : State) (c x n : Nat) (w : BitVec 96) (i : Instr),
    s.agenda = [] → chooseAction s.nonce s.actions = some (.cycle c) → n < 16 →
    let u := (s.setCore c { s.core c with cc := (s.core c).cc + 1 }).returnDue c
    x = ((u.core c).last + 1 + n) % 16 →
    (∀ m, m < n → (u.canTry c (((u.core c).last + 1 + m) % 16) &&
      !(u.ctx c (((u.core c).last + 1 + m) % 16)).yieldNow) = false) →
    u.canTry c x = true → (u.ctx c x).yieldNow = false →
    let v := s.issuing c x
    let after : State → State := fun f => f.keep i (f.unpoison i (f.counted i t))
    (∀ f, v.me.mid = none → v.fetch = .ok (w, f) → decode w = some i → f.interlocked c x i = false → f.poisoned i = none →
      exec i f = .next t → ((after f).ctx c x).wait ≠ .held → step s = .next (after f).freezeDrained.stampHeads.tick) ∧
    (v.me.mid.bind (fun m => m.cmd) = some i → exec i v = .next t → ((after v).ctx c x).wait ≠ .held →
      step s = .next (after v).freezeDrained.stampHeads.tick)

/-- A word that the decoder refuses traps (R30): the step of a context whose fetch gives it is the ILLEGAL of that
address. With a true guard, an instruction that needs a higher level than its context's traps with PRIV, whatever its
operands (R31): code 0x02 on its own address. With a true guard and its level, an instruction whose phase class is not
the phase traps with PHASE (R31); where the class is right and the context may not issue it (R16, R244, R362: a helper,
the control context, or a context of no launch), with ILLEGAL; and an exchange instruction that its context may issue,
outside the exchange step, with PHASE (R253). The trap record's address word is 0 in these traps by the model's choice of log
entry 81. -/
def Obligations.ChecksAtIssue : Prop :=
  (∀ (s t : State) (w : BitVec 96), s.me.mid = none → s.fetch = .ok (w, t) → decode w = none →
    s.turn = t.trapOut { cause := 1, detail := 0, resume := s.me.pc, fpc := s.me.pc, va := 0, ipa := 0, jrn := none, async := false }) ∧
  (∀ (i : Instr) (h : Hdr) (s : State), Instr.hdr? i = some h → guardTrue s.me h = true → s.me.level < (Instr.need i).level →
    exec i s = s.trapOut { cause := 0x02, detail := 0, resume := s.me.pc, fpc := s.me.pc, va := 0, ipa := 0, jrn := none, async := false }) ∧
  (∀ (i : Instr) (h : Hdr) (s : State), Instr.hdr? i = some h → guardTrue s.me h = true → (Instr.need i).level ≤ s.me.level →
    let tr : Nat → Trap := fun c =>
      { cause := c, detail := 0, resume := s.me.pc, fpc := s.me.pc, va := 0, ipa := 0, jrn := none, async := false }
    let phase := (h.phase = .compute ∧ s.phase = 1) ∨ (h.phase = .exchange ∧ s.phase = 2)
    let context := ((Instr.need i).helper = false ∧ s.curCtx ≠ 0) ∨ ((Instr.need i).control = false ∧ s.curCtx = 0) ∨
      ((Instr.need i).unit = true ∧ (s.me.inUnit = false ∨ s.mycore.unit = none))
    (phase → exec i s = s.trapOut (tr 0x03)) ∧ (¬ phase → context → exec i s = s.trapOut (tr 0x01)) ∧
    (¬ phase → ¬ context → (Instr.need i).exchange = true → s.phase ≠ 1 → exec i s = s.trapOut (tr 0x03)))

/-- Words written out from the formats of R18 to R29 decode to what they stand for. -/
def Obligations.DecodedWords : Prop :=
  decode 0x000700210000210000E00005#96 =
      some (.add { neg := false, guard := 7, stall := 0, yield := false, phase := .any, reuse := false }
        { ty := .i8, sat := false, a := 1, b := 1, c := .imm 5 }) ∧
  decode 0x200700000000000000000000#96 =
      some (.nop { neg := false, guard := 7, stall := 0, yield := false, phase := .any, reuse := false }) ∧
  decode 0xE02700000000240000000000#96 =
      some (.ovtld { neg := false, guard := 7, stall := 0, yield := false, phase := .any, reuse := false } 4) ∧
  decode 0x000000000000000000000000#96 = none ∧ (∀ v : BitVec 92, decode (0xF#4 ++ v) = none)

/-- Every well-formed instruction word has an encoding, and decoding it gives the instruction back, at every value of its
operands (R18 to R29); an event has none. -/
def Obligations.DecodeOfEncode : Prop :=
  ∀ i : Instr, (i.wf = true → i.isEvent = false → ∃ w, encode i = some w ∧ decode w = some i) ∧
    (i.isEvent = true → encode i = none)

/-- Every word that the decoder accepts is the word of the instruction it gives, and that instruction is well formed:
no reserved bit and no unused field is ignored (R23, R30), and no two words mean the same. -/
def Obligations.AcceptedWordsAreCanonical : Prop :=
  ∀ (i : Instr) (w : BitVec 96), decode w = some i → i.wf = true ∧ i.isEvent = false ∧ encode i = some w

/-- Reset has its memories in canonical form. -/
def Obligations.ResetMemoryForm : Prop := State.reset.MemWf

/-- Every step keeps every memory in canonical form: addresses rising, no listed byte zero. -/
def Obligations.StepKeepsMemoryForm : Prop := ∀ s t : State, s.MemWf → step s = .next t → t.MemWf

/-- No instruction and no event is refused, in any state. -/
def Obligations.NothingIsRefused : Prop :=
  ∀ (i : Instr) (s : State), ∀ r, exec i s ≠ .refused r

/-- A byte written to a memory in canonical form reads back, every other byte reads as before, and the form is kept
(R3, R129): the memory that HBM, the windows and the banks are made of. -/
def Obligations.MemoryReadsBack : Prop :=
  ∀ (m : Memory) (a n v : Nat), m.wf = true → v < 256 ^ n →
    (m.write a n v).wf = true ∧ (m.write a n v).read a n = v ∧
    (∀ b, b < a ∨ a + n ≤ b → (m.write a n v).byte b = m.byte b) ∧
    (∀ b, (m.wipe a n).byte b = if a ≤ b ∧ b < a + n then 0 else m.byte b)

/-! ### The order of the checks at issue (R15, R31) -/

/-- Under a false guard every instruction word has one effect: its context goes on at the next address with its hints.
No register, memory, queue or status is written, and nothing traps (R15). A guard is true where bit 0 of its predicate,
after the negate bit, is 1; p7 reads all ones, so p7 is always true and !p7 never. -/
def Obligations.FalseGuardOnlyHints : Prop :=
  (∀ (k : Ctx) (h : Hdr), (guardTrue k h = true ↔ (k.rp h.guard).getLsbD 0 ≠ h.neg) ∧ (h.guard = 7 → guardTrue k h = !h.neg)) ∧
  ∀ (i : Instr) (h : Hdr) (s : State), Instr.hdr? i = some h → guardTrue s.me h = false →
    exec i s = .next (s.goOn h) ∧ RegsKept [] s.me (s.goOn h).me ∧
    MemoryKept s (s.goOn h) ∧ OnlyContextChanged s (s.goOn h)


/-! ### Class 0x0: scalar integers and pointers -/

/-- `add`, `sub` and `mul` (R38, R56, R59): the exact sum, difference or product of the sources, wrapped into the type,
or clamped to its range with `.sat`; s0 keeps nothing; nothing else changes but the place of the context. -/
def Obligations.IntegerSumsAndProducts : Prop :=
  ∀ (h : Hdr) (x : OpRRI) (s : State), s.issues h {} = true → x.ty.isInt = true →
    let b := intOf x.ty (codeS s.me x.ty x.b)
    let c := intOf x.ty (srcSI s.me x.ty x.c)
    ∃ p q r : Nat, IntResult x.ty x.sat (b + c) p ∧ IntResult x.ty x.sat (b - c) q ∧ IntResult x.ty x.sat (b * c) r ∧
      exec (.add h x) s = .next (s.wroteS h x.a (widen x.ty p)) ∧
      exec (.sub h x) s = .next (s.wroteS h x.a (widen x.ty q)) ∧
      exec (.mul h x) s = .next (s.wroteS h x.a (widen x.ty r))

/-- `div` and `rem` (R60): the quotient rounds towards zero and the remainder takes the dividend's sign; division by zero
gives all ones and the dividend; the one quotient out of range wraps, or with `.sat` clamps. `mulh` (R59): the high half
of the product. -/
def Obligations.IntegerDivision : Prop :=
  ∀ (h : Hdr) (x : OpRRI) (s : State), s.issues h {} = true → x.ty.isInt = true →
    let w := ETy.w x.ty
    let b := intOf x.ty (codeS s.me x.ty x.b)
    let c := intOf x.ty (srcSI s.me x.ty x.c)
    ∃ p q r : Nat, p < 2 ^ w ∧ q < 2 ^ w ∧ r < 2 ^ w ∧
      (c = 0 → p = 2 ^ w - 1 ∧ intOf x.ty q = b) ∧
      (c ≠ 0 → IntResult x.ty x.sat (Int.tdiv b c) p ∧ intOf x.ty q = b - c * Int.tdiv b c) ∧
      intOf x.ty r = b * c / (2 ^ w : Int) ∧
      exec (.div h x) s = .next (s.wroteS h x.a (widen x.ty p)) ∧
      exec (.rem h x) s = .next (s.wroteS h x.a (widen x.ty q)) ∧
      exec (.mulh h x) s = .next (s.wroteS h x.a (widen x.ty r))

/-- `and`, `or`, `xor`, `shl`, `shr`, `sar`, `min` and `max` (R59, R61), on the low w bits of the sources: an amount of w
or more gives 0, or for `sar` the sign everywhere. -/
def Obligations.BitwiseShiftsAndExtremes : Prop :=
  ∀ (h : Hdr) (x : OpRRI) (s : State), s.issues h {} = true → x.ty.isInt = true →
    let w := ETy.w x.ty
    let b := codeS s.me x.ty x.b
    let c := srcSI s.me x.ty x.c
    let answers : Instr → Nat → Prop := fun i r => exec i s = .next (s.wroteS h x.a (widen x.ty r))
    answers (.and h x) (b &&& c) ∧ answers (.or h x) (b ||| c) ∧ answers (.xor h x) (b ^^^ c) ∧
    answers (.shl h x) (if w ≤ c then 0 else b * 2 ^ c % 2 ^ w) ∧
    answers (.shr h x) (if w ≤ c then 0 else b / 2 ^ c) ∧
    (∃ r, r < 2 ^ w ∧ answers (.sar h x) r ∧
      sgn w r = if w ≤ c then (if sgn w b < 0 then -1 else 0) else sgn w b / 2 ^ c) ∧
    answers (.min h x) (if intOf x.ty c < intOf x.ty b then c else b) ∧
    answers (.max h x) (if intOf x.ty b < intOf x.ty c then c else b)

/-- `sel`, `li`, `lui` and `mov` (R62), on all 64 bits. -/
def Obligations.RegisterForming : Prop :=
  ∀ (h : Hdr) (y : OpSel) (x : OpImm) (z : OpMov) (s : State), s.issues h {} = true →
    let value : SrcSI → Word := fun c => match c with
      | .s r => s.me.rs r
      | .imm v => v.signExtend 64
    exec (.sel h y) s = .next (s.wroteS h y.a
      (if (s.me.rp y.p).getLsbD 0 ≠ y.neg then s.me.rs y.b else value y.c)) ∧
    exec (.li h x) s = .next (s.wroteS h x.a (x.imm.signExtend 64)) ∧
    exec (.lui h x) s = .next (s.wroteS h x.a (BitVec.ofNat 64 ((s.me.rs x.a).toNat % 2 ^ 40 * 2 ^ 24 + x.imm.toNat))) ∧
    exec (.mov h z) s = .next (s.wroteS h z.a (value z.b))

/-- `cmp` (R57, R63): all ones or all zeros in the named predicate, by the order of the type. -/
def Obligations.IntegerCompares : Prop :=
  ∀ (h : Hdr) (x : OpCmp) (s : State), s.issues h {} = true → x.ty.isInt = true →
    let b := intOf x.ty (codeS s.me x.ty x.b)
    let c := intOf x.ty (srcSI s.me x.ty x.c)
    let flag : Instr → Bool → Prop := fun i f =>
      exec i s = .next (s.wroteP h x.p (if f then BitVec.allOnes 64 else 0))
    flag (.cmpEq h x) (decide (b = c)) ∧ flag (.cmpNe h x) (decide (b ≠ c)) ∧ flag (.cmpLt h x) (decide (b < c)) ∧
    flag (.cmpLe h x) (decide (b ≤ c)) ∧ flag (.cmpGt h x) (decide (b > c)) ∧ flag (.cmpGe h x) (decide (b ≥ c))

/-- The pointer instructions (R64): `pspace`, `powner` and `poff` take the fields apart; `ptag` joins a tag to an offset
and `padd` moves the offset and keeps the tag, or each traps with ILLEGAL_POINTER and writes nothing.
Rests on the model's choice of log entry 81 (the record's address word). -/
def Obligations.PointerParts : Prop :=
  ∀ (h : Hdr) (x : OpRR) (y : OpPtr) (s : State), s.issues h {} = true →
    let p := (s.me.rs x.b).toNat
    let b := (s.me.rs y.b).toNat
    let c := (src64 s.me y.c).toNat
    let d := (src64 s.me y.c).toInt
    let bad : Out := s.trapOut { cause := 0x05, detail := 0, resume := s.me.pc, fpc := s.me.pc, va := 0, ipa := 0, jrn := none, async := false }
    let badTag := 2 ^ 16 ≤ c ∨ 5 ≤ c / 2 ^ 12 ∨ (c / 2 ^ 12 = 0 ∧ c ≠ 0) ∨ (c / 2 ^ 12 = 2 ∧ c % 2 = 1)
    let moved := (b % 2 ^ 48 : Nat) + d
    exec (.pspace h x) s = .next (s.wroteS h x.a (BitVec.ofNat 64 (p / 2 ^ 60))) ∧
    exec (.powner h x) s = .next (s.wroteS h x.a (BitVec.ofNat 64 (p / 2 ^ 48 % 2 ^ 12))) ∧
    exec (.poff h x) s = .next (s.wroteS h x.a (BitVec.ofNat 64 (p % 2 ^ 48))) ∧
    (badTag → exec (.ptag h y) s = bad) ∧
    (¬ badTag → exec (.ptag h y) s = .next (s.wroteS h y.a (BitVec.ofNat 64 (c * 2 ^ 48 + b % 2 ^ 48)))) ∧
    (moved < 0 ∨ 2 ^ 48 ≤ moved → exec (.padd h y) s = bad) ∧
    (0 ≤ moved → moved < 2 ^ 48 →
      exec (.padd h y) s = .next (s.wroteS h y.a (BitVec.ofNat 64 (b / 2 ^ 48 * 2 ^ 48 + moved.toNat))))

/-! ### Class 0x1: scalar floats -/

/-- Rounding (R43): of a positive x = n/d·2^e, roundMag gives m·2^q where 2^q is the spacing at x, never below the
subnormal spacing: rz, rd of a positive and ru of a negative value are the nearest not greater in magnitude; the other
directed cases the nearest not smaller; rn is nearest, even on a tie. The codes of a float format (R39): the code that
a rounded ±m·2^q within range gets reads back as that value. -/
def Obligations.FloatRounding : Prop :=
  (∀ (t : ETy) (md : RMode) (neg : Bool) (n d : Nat) (e : Int), t.isFloat = true → 0 < n → 0 < d →
    let x : ℚ := (n : ℚ) / d * (2 : ℚ) ^ e
    let r := roundMag t md neg n d e
    let y := scaled r.1 r.2
    let ulp := (2 : ℚ) ^ r.2
    1 - (t.bias : Int) - t.man ≤ r.2 ∧ r.1 ≤ 2 ^ (t.man + 1) ∧ (2 ^ t.man ≤ r.1 ∨ r.2 = 1 - (t.bias : Int) - t.man) ∧
    ((md = .rz ∨ (md = .rd ∧ neg = false) ∨ (md = .ru ∧ neg = true)) → y ≤ x ∧ x < y + ulp) ∧
    (((md = .rd ∧ neg = true) ∨ (md = .ru ∧ neg = false)) → x ≤ y ∧ y - ulp < x) ∧
    (md = .rn → |x - y| ≤ ulp / 2 ∧ (|x - y| = ulp / 2 → r.1 % 2 = 0))) ∧
  (∀ (t : ETy) (neg : Bool) (m : Nat) (q : Int), t.isFloat = true → 0 < m → m ≤ 2 ^ (t.man + 1) →
    1 - (t.bias : Int) - t.man ≤ q → (2 ^ t.man ≤ m ∨ q = 1 - (t.bias : Int) - t.man) → overF t m q = false →
    ∃ n f, decodeF t (codeF t neg m q) = .num neg n f ∧ scaled n f = scaled m q)

/-- The scalar float instructions (R65, R66): each result is that of the operation on the sources with their negate bits
applied, in the instruction's mode; a NaN source, the old destination of `ffma` the last of them, decides the result by the
several-NaN rule (R49), and that of `fsqrt` is its result, quiet. `fcvt` (R46, R68):
between integer types wrapped or clamped; a NaN to an integer gives 0.
Rests on the model's choices of log entries 78 and 90. -/
def Obligations.ScalarFloatResults : Prop :=
  ∀ (h : Hdr) (x : OpFA) (y : OpFU) (z : OpCvt) (s : State), s.issues h {} = true →
    let b := negIf x.ty x.bneg (codeS s.me x.ty x.b)
    let c := negIf x.ty x.cneg (codeS s.me x.ty x.c)
    let a := codeS s.me x.ty x.a
    let m : Rnd := { mode := x.rnd, sat := x.sat, ovt := s.me.ovt.toNat, conv := false }
    let answers : Instr → Nat → Prop := fun i r => exec i s = .next (s.wroteS h x.a (widen x.ty r))
    answers (.fadd h x) (addF x.ty m b c) ∧ answers (.fsub h x) (subF x.ty m b c) ∧ answers (.fmul h x) (mulF x.ty m b c) ∧
    answers (.ffma h x) (fmaF x.ty m b c a) ∧ answers (.fdiv h x) (divF x.ty m b c) ∧ answers (.fmin h x) (minF x.ty b c) ∧
    answers (.fmax h x) (maxF x.ty b c) ∧
    exec (.fsqrt h y) s = .next (s.wroteS h y.a (widen y.ty (sqrtF y.ty
      { mode := y.rnd, sat := y.sat, ovt := s.me.ovt.toNat, conv := false } (negIf y.ty y.bneg (codeS s.me y.ty y.b))))) ∧
    (∀ r, chooseNaN x.ty [b, c] = some r → addF x.ty m b c = r ∧ subF x.ty m b c = r ∧ mulF x.ty m b c = r ∧
      divF x.ty m b c = r ∧ minF x.ty b c = r ∧ maxF x.ty b c = r) ∧
    (∀ r, chooseNaN x.ty [b, c, a] = some r → fmaF x.ty m b c a = r) ∧
    (isNaN y.ty (negIf y.ty y.bneg (codeS s.me y.ty y.b)) = true →
      exec (.fsqrt h y) s = .next (s.wroteS h y.a (widen y.ty (quietF y.ty (negIf y.ty y.bneg (codeS s.me y.ty y.b)))))) ∧
    ∃ r, exec (.fcvt h z) s = .next (s.wroteS h z.a (widen z.dty r)) ∧
      (z.sty.isInt = true → z.dty.isInt = true → IntResult z.dty z.sat (intOf z.sty (codeS s.me z.sty z.b)) r) ∧
      (z.sty.isFloat = true → z.dty.isInt = true → isNaN z.sty (codeS s.me z.sty z.b) = true → r = 0) ∧
      (z.sty.isFloat = true → z.dty.isFloat = true →
        r = convE z.dty z.sty { mode := z.rnd, sat := z.sat, ovt := s.me.ovt.toNat, conv := true } (codeS s.me z.sty z.b))

/-- `fcmp` (R57, R67): with a NaN only ne and un are true; otherwise the order of the exact values, −0 equal to +0. -/
def Obligations.FloatCompares : Prop :=
  ∀ (h : Hdr) (x : OpFCmp) (s : State), s.issues h {} = true →
    let b := codeS s.me x.ty x.b
    let c := codeS s.me x.ty x.c
    let nan := isNaN x.ty b || isNaN x.ty c
    let d := cmpV (decodeF x.ty b) (decodeF x.ty c)
    let flag : Instr → Bool → Prop := fun i f =>
      exec i s = .next (s.wroteP h x.p (if f then BitVec.allOnes 64 else 0))
    flag (.fcmpEq h x) (!nan && decide (d = 0)) ∧ flag (.fcmpNe h x) (nan || decide (d ≠ 0)) ∧
    flag (.fcmpLt h x) (!nan && decide (d < 0)) ∧ flag (.fcmpLe h x) (!nan && decide (d ≤ 0)) ∧
    flag (.fcmpGt h x) (!nan && decide (0 < d)) ∧ flag (.fcmpGe h x) (!nan && decide (0 ≤ d)) ∧
    flag (.fcmpUn h x) nan

/-! ### Class 0x2: control flow -/

/-- `nop`, `br` and `call` (R18, R28, R69): the next address, or the address plus four times the offset, modulo 2^48;
`call` writes the next address. Every effect on the issuing context is named: its pc, its yield flag, its stall.
`bc.z`, `bc.nz`, `loop`, `ret` and `jmp` (R69, R70): where the context goes, for every prediction (R71 gives the
program no view of it), and the traps of a target outside space 0 or off the 4-byte grid.
Rests on the model's choices of log entries 5, 35, 81 and 87. -/
def Obligations.ControlFlow : Prop :=
  (∀ (h : Hdr) (off : BitVec 24) (x : OpROff) (s : State), s.issues h {} = true →
    let next := (s.me.pc + 12) % 2 ^ 48
    let target : BitVec 24 → Nat := fun o => (((s.me.pc : Int) + 4 * o.toInt) % 2 ^ 48).toNat
    (∃ t, exec (.nop h) s = .next t ∧ OnlyContextChanged s t ∧ RegsKept [] s.me t.me ∧ t.me.pc = next ∧
      t.me.yieldNow = h.yield ∧ t.me.stall = (s.core s.cur).cc + 1 + h.stall.toNat) ∧
    (∃ t, exec (.br h off) s = .next t ∧ OnlyContextChanged s t ∧ RegsKept [] s.me t.me ∧ t.me.pc = target off ∧
      t.me.yieldNow = h.yield ∧ t.me.stall = (s.core s.cur).cc + 1 + h.stall.toNat) ∧
    (∃ t, exec (.call h x) s = .next t ∧ OnlyContextChanged s t ∧ RegsKept [.s x.a.toNat] s.me t.me ∧
      t.me.pc = target x.off ∧ t.me.yieldNow = h.yield ∧ t.me.stall = (s.core s.cur).cc + 1 + h.stall.toNat ∧ (x.a ≠ 0 → t.me.rs x.a = BitVec.ofNat 64 next))) ∧
  (∀ (h : Hdr) (x : OpROff) (b : SReg) (s : State), s.issues h {} = true →
    let next := (s.me.pc + 12) % 2 ^ 48
    let target := (((s.me.pc : Int) + 4 * x.off.toInt) % 2 ^ 48).toNat
    let goes : Instr → List Reg → Nat → (State → Prop) → Prop := fun i ws pc more =>
      ∃ t, exec i s = .next t ∧ OnlyContextChanged s t ∧ RegsKept ws s.me t.me ∧ t.me.pc = pc ∧
        t.me.yieldNow = h.yield ∧ t.me.stall = (s.core s.cur).cc + 1 + h.stall.toNat ∧ more t
    let tr : Nat → Out := fun c =>
      s.trapOut { cause := c, detail := 0, resume := s.me.pc, fpc := s.me.pc, va := 0, ipa := 0, jrn := none, async := false }
    let dest := (s.me.rs b).toNat
    goes (.bcZ h x) [] (if s.me.rs x.a = 0 then target else next) (fun _ => True) ∧
    goes (.bcNz h x) [] (if s.me.rs x.a = 0 then next else target) (fun _ => True) ∧
    goes (.loop h x) [.s x.a.toNat] (if s.me.rs x.a - 1 = 0 then next else target)
      (fun t => x.a ≠ 0 → t.me.rs x.a = s.me.rs x.a - 1) ∧
    (2 ^ 48 ≤ dest → exec (.ret h b) s = tr 0x05 ∧ exec (.jmp h b) s = tr 0x05) ∧
    (dest < 2 ^ 48 → dest % 4 ≠ 0 → exec (.ret h b) s = tr 0x04 ∧ exec (.jmp h b) s = tr 0x04) ∧
    (dest < 2 ^ 48 → dest % 4 = 0 → goes (.ret h b) [] dest (fun _ => True) ∧ goes (.jmp h b) [] dest (fun _ => True)))

/-! ### Class 0x3: vector registers -/

/-- Lane l of a vector operation's second source: a lane, a scalar's low bits in every lane, or the immediate (R75). -/
def laneOfSource (k : Ctx) (t : ETy) (m : Rnd) (c : SrcVSI) (l : Nat) : Nat :=
  match c with
  | .v r => lane t (k.rv r).toNat l
  | .s r => codeS k t r
  | .imm v => immCode t m v

/-- The lanewise instructions (R75, R76): each lane of the destination is the operation on the same lane of the sources,
their negate bits applied; for integer types the exact result wrapped or clamped. `vcvt` (R80) converts lane by lane, with
the lanes beyond the source's zero. Rests on the model's choices of log entries 78 and 90. -/
def Obligations.VectorLanes : Prop :=
  ∀ (h : Hdr) (x : OpVA) (v : OpVCvt) (s : State), s.issues h {} = true → x.ty.isVec = true →
    let m : Rnd := { mode := x.rnd, sat := x.sat, ovt := s.me.ovt.toNat, conv := false }
    let b : Nat → Nat := fun l => negIf x.ty x.bneg (lane x.ty (s.me.rv x.b).toNat l)
    let c : Nat → Nat := fun l => negIf x.ty x.cneg (laneOfSource s.me x.ty m x.c l)
    let a : Nat → Nat := fun l => lane x.ty (s.me.rv x.a).toNat l
    let each : Instr → (Nat → Nat → Prop) → Prop := fun i f =>
      ∃ r, r < 2 ^ 512 ∧ exec i s = .next (s.wroteV h x.a r) ∧ ∀ l, l < laneCount x.ty → f l (lane x.ty r l)
    let int : Nat → Int := intOf x.ty
    let w := 2 ^ ETy.w x.ty
    (x.ty.isInt = true →
      each (.vadd h x) (fun l r => IntResult x.ty x.sat (int (b l) + int (c l)) r) ∧
      each (.vsub h x) (fun l r => IntResult x.ty x.sat (int (b l) - int (c l)) r) ∧
      each (.vmul h x) (fun l r => IntResult x.ty x.sat (int (b l) * int (c l)) r) ∧
      each (.vfma h x) (fun l r => IntResult x.ty x.sat (int (b l) * int (c l) + int (a l)) r)) ∧
    (x.ty.isFloat = true →
      each (.vadd h x) (fun l r => r = addF x.ty m (b l) (c l) % w) ∧
      each (.vsub h x) (fun l r => r = subF x.ty m (b l) (c l) % w) ∧
      each (.vmul h x) (fun l r => r = mulF x.ty m (b l) (c l) % w) ∧
      each (.vfma h x) (fun l r => r = fmaF x.ty m (b l) (c l) (a l) % w)) ∧
    each (.vmin h x) (fun l r => r = minE x.ty (b l) (c l) % w) ∧
    each (.vmax h x) (fun l r => r = maxE x.ty (b l) (c l) % w) ∧
    each (.vand h x) (fun l r => r = (b l &&& c l) % w) ∧ each (.vor h x) (fun l r => r = (b l ||| c l) % w) ∧
    each (.vxor h x) (fun l r => r = (b l ^^^ c l) % w) ∧
    (∃ k, exec (.vcvt h v) s = .next ((s.setMe k).goOn h) ∧
      RegsKept (if v.sty = .e2m1 ∧ v.dty = .f32 then [.v v.a.toNat, .v (v.a + 1).toNat] else [.v v.a.toNat]) s.me k ∧
      (v.dty.isVec = true → v.sty.isVec = true → ∀ l, l < laneCount v.dty →
        lane v.dty (k.rv v.a).toNat l = if l < laneCount v.sty then
            convE v.dty v.sty { mode := v.rnd, sat := v.sat, ovt := s.me.ovt.toNat, conv := true }
              (lane v.sty (s.me.rv v.b).toNat l) % 2 ^ ETy.w v.dty
          else 0))

/-- `vcmp` (R57, R79): bit l is lane l's result, and every bit at and above the lane count is zero. -/
def Obligations.VectorCompares : Prop :=
  ∀ (h : Hdr) (x : OpVCmp) (s : State), s.issues h {} = true → x.ty.isVec = true →
    let m : Rnd := { mode := .rn, sat := false, ovt := s.me.ovt.toNat, conv := false }
    let b : Nat → Nat := fun l => lane x.ty (s.me.rv x.b).toNat l
    let c : Nat → Nat := fun l => laneOfSource s.me x.ty m x.c l
    let each : Instr → Cond → Prop := fun i f =>
      ∃ p : Word, exec i s = .next (s.wroteP h x.p p) ∧
        ∀ l, l < 64 → p.getLsbD l = (decide (l < laneCount x.ty) && cmpE f x.ty (b l) (c l))
    each (.vcmpEq h x) .eq ∧ each (.vcmpNe h x) .ne ∧ each (.vcmpLt h x) .lt ∧ each (.vcmpLe h x) .le ∧
    each (.vcmpGt h x) .gt ∧ each (.vcmpGe h x) .ge ∧ each (.vcmpUn h x) .un

/-- `vsel`, `vbcast`, `vshuf` and `vred` (R77, R78): selection by the bits of a predicate, one value in every lane, lanes
by index with zero beyond them, and the exact sum of the lanes rounded or wrapped once. -/
def Obligations.VectorMoves : Prop :=
  ∀ (h : Hdr) (x : OpVSel) (y : OpVBc) (z : OpVShuf) (u : OpVRed) (s : State), s.issues h {} = true →
    x.ty.isVec = true → y.ty.isVec = true → z.ty.isVec = true → u.ty.isVec = true →
    (∃ r, r < 2 ^ 512 ∧ exec (.vsel h x) s = .next (s.wroteV h x.a r) ∧ ∀ l, l < laneCount x.ty →
      lane x.ty r l = if (s.me.rp x.p).getLsbD l ≠ x.neg then lane x.ty (s.me.rv x.b).toNat l
        else lane x.ty (s.me.rv x.c).toNat l) ∧
    (∃ r, r < 2 ^ 512 ∧ exec (.vbcast h y) s = .next (s.wroteV h y.a r) ∧ ∀ l, l < laneCount y.ty →
      lane y.ty r l = (match y.b with
        | .s b => codeS s.me y.ty b
        | .imm i => immCode y.ty { mode := .rn, sat := false, ovt := s.me.ovt.toNat, conv := false } i) % 2 ^ ETy.w y.ty) ∧
    (∃ r, r < 2 ^ 512 ∧ exec (.vshuf h z) s = .next (s.wroteV h z.a r) ∧ ∀ l, l < laneCount z.ty →
      lane z.ty r l = (let j := lane z.ty (s.me.rv z.c).toNat l
        if j < laneCount z.ty then lane z.ty (s.me.rv z.b).toNat j else 0)) ∧
    (∃ r, exec (.vred h u) s = .next (s.wroteS h u.a (widen u.ty r)) ∧
      (u.ty.isInt = true →
        IntResult u.ty u.sat ((List.range (laneCount u.ty)).map (fun l => intOf u.ty (lane u.ty (s.me.rv u.b).toNat l))).sum r) ∧
      (u.ty.isFloat = true → r = sumE u.ty { mode := u.rnd, sat := u.sat, ovt := s.me.ovt.toNat, conv := false }
        ((List.range (laneCount u.ty)).map (lane u.ty (s.me.rv u.b).toNat))))

/-! ### Class 0x5: special functions -/

/-- r is a code of the exact value x. -/
def Codes (t : ETy) (r : Nat) (x : ℚ) : Prop :=
  ∃ neg n e, decodeF t r = .num neg n e ∧ (if neg then -scaled n e else scaled n e) = x

/-- The special inputs and the exact cases of a special function (R54, R55): the result r for the code c. An infinite result saturates
with `.sat` (R45). -/
def SpecialCases (f : Sfn) (t : ETy) (sat : Bool) (c r : Nat) : Prop :=
  let inf : Bool → Prop := fun neg => r = if sat then largestF t neg else infF t neg
  let nan := r = nanF t false
  let whole : ℚ → ℚ → Prop := fun x y => Codes t c x → (∃ d, Codes t d y) → Codes t r y
  (isNaN t c = true → r = quietF t c) ∧
  (∀ neg : Bool, decodeF t c = .inf neg → match f with
    | .exp2 | .exp => if neg then r = packF t false 0 0 else inf false
    | .log2 | .log => if neg then nan else inf false
    | .rcp => r = packF t neg 0 0
    | .rsqrt => if neg then nan else r = packF t false 0 0
    | .tanh => Codes t r (if neg then -1 else 1)
    | .sigm => if neg then r = packF t false 0 0 else Codes t r 1) ∧
  (∀ (neg : Bool) (e : Int), decodeF t c = .num neg 0 e → match f with
    | .exp2 | .exp => Codes t r 1
    | .log2 | .log => inf true
    | .rcp | .rsqrt => inf neg
    | .tanh => r = packF t neg 0 0
    | .sigm => Codes t r (1 / 2)) ∧
  (∀ (m : Nat) (e : Int), m ≠ 0 → decodeF t c = .num true m e → match f with
    | .log2 | .log | .rsqrt => nan
    | _ => True) ∧
  (∀ k : Int, match f with
    | .exp2 => whole k (2 ^ k)
    | .log2 => whole (2 ^ k) k
    | .log => whole 1 0
    | .rcp => whole (4 ^ k) (4 ^ (-k))
    | .rsqrt => whole (4 ^ k) (2 ^ (-k))
    | _ => True)

/-- The special functions (R54, R55, R89): of a scalar, or of every lane, with the negate bit applied first; the special inputs and the
exact cases have the results of R54 and R55 under every mode, for every choice of the approximation's last place.
Rests on the model's choices of log entry 7. -/
def Obligations.SpecialFunctions : Prop :=
  ∀ (h : Hdr) (x : OpSfn) (s : State), s.issues h {} = true → sfnTyOk x.ty x.r = true →
    let m : Rnd := { mode := x.rnd, sat := x.sat, ovt := s.me.ovt.toNat, conv := false }
    let answers : Instr → Sfn → Prop := fun i f =>
      match x.r with
      | .s a b => ∃ r, exec i s = .next (s.wroteS h a (widen x.ty r)) ∧ r = sfnE f x.ty m (negIf x.ty x.bneg (codeS s.me x.ty b)) ∧
          SpecialCases f x.ty x.sat (negIf x.ty x.bneg (codeS s.me x.ty b)) r
      | .v a b => ∃ r, r < 2 ^ 512 ∧ exec i s = .next (s.wroteV h a r) ∧ ∀ l, l < laneCount x.ty →
          lane x.ty r l = sfnE f x.ty m (negIf x.ty x.bneg (lane x.ty (s.me.rv b).toNat l)) % 2 ^ ETy.w x.ty ∧
          SpecialCases f x.ty x.sat (negIf x.ty x.bneg (lane x.ty (s.me.rv b).toNat l)) (lane x.ty r l)
    answers (.exp2 h x) .exp2 ∧ answers (.log2 h x) .log2 ∧ answers (.exp h x) .exp ∧ answers (.log h x) .log ∧
    answers (.rcp h x) .rcp ∧ answers (.rsqrt h x) .rsqrt ∧ answers (.tanh h x) .tanh ∧ answers (.sigm h x) .sigm

/-! ### Class 0x4: sweeps -/

/-- The bank and byte of a window offset for a sweep that begins now. -/
def winAt (s : State) (o : Nat) : Nat × Nat :=
  match s.winByte s.nonce o with
  | .ok b => b
  | .error _ => (0, 0)

/-- A sweep's run of n bytes at a window offset can be read: its bank is there and its words are sound. -/
def segmentReads (s : State) (n o : Nat) : Prop := s.winByte s.nonce o = .ok (winAt s o) ∧ s.bankBad (winAt s o).1 (winAt s o).2 n = false

/-- A sweep's segments in order (R83): from each source offset of the window to its destination offset, read whole and
then written whole. -/
def sweepAll (s0 : State) (rlen : Nat) (f : Nat → Nat → Nat) (l : List (Nat × Nat)) (s : State) : State :=
  l.foldl (fun s p => s.bankWrite (winAt s0 p.2).1 (winAt s0 p.2).2 64
    (f (s.bankRead (winAt s0 p.1).1 (winAt s0 p.1).2 rlen) (s.bankRead (winAt s0 p.2).1 (winAt s0 p.2).2 64))) s

/-- The sweeps with a destination (R82 to R85, R87): where both pointers are of space 1 with every segment in the window,
aligned, within one slot, its bank there, what is read of it sound, no earlier access to those banks under way and no branch
unresolved, the sweep begins, and, once it has made all its accesses, nothing else happening meanwhile, every segment has taken the
operation on its lanes, in ascending order.
Rests on the model's choices of log entries 78, 90 and 92. -/
def Obligations.SweepsRun : Prop :=
  ∀ (h : Hdr) (x : OpSw) (y : OpSwCvt) (z : OpSwV) (u : OpSwCopy) (s : State), s.issues h {} = true →
    s.me.unresolved = none →
    let ready : SwAddr → SwAddr → Nat → Nat → Nat → Nat → Bool → List Nat → List Nat → Prop := fun d a n dal rlen sal rd ds ss =>
      ds ≠ [] ∧ segOffs s.me d n = some ds ∧ segOffs s.me a n = some ss ∧
      sweepFault s [(ds, 64, dal), (ss, rlen, sal)] = none ∧ sweepBusy s (ds ++ ss) = false ∧ (∀ o ∈ ss, segmentReads s rlen o) ∧
      (∀ o ∈ ds, s.winByte s.nonce o = .ok (winAt s o) ∧ (rd = true → segmentReads s 64 o))
    let m : Rnd := { mode := x.rnd, sat := x.sat, ovt := s.me.ovt.toNat, conv := false }
    let lanes : (Nat → Nat → Nat → Nat) → Nat → Nat → Nat := fun f b d =>
      ofLanes x.ty (List.zipWith (fun p a => f p.1 p.2 a) ((lanesOf x.ty b).zip (srcSw s.me x.ty m x.c)) (lanesOf x.ty d))
    let does : Instr → Bool → (Nat → Nat → Nat → Nat) → Prop := fun i rd f => ∀ ds ss,
      ready x.dst x.src x.n.toNat x.ty.size 64 x.ty.size rd ds ss → Carries i s ((sweepAll s 64 (lanes f) (ss.zip ds) s).goOn h)
    does (.wadd h x) false (fun b c _ => addE x.ty m b c) ∧ does (.wsub h x) false (fun b c _ => subE x.ty m b c) ∧
    does (.wmul h x) false (fun b c _ => mulE x.ty m b c) ∧ does (.wfma h x) true (fun b c a => fmaE x.ty m b c a) ∧
    does (.wmin h x) false (fun b c _ => minE x.ty b c) ∧ does (.wmax h x) false (fun b c _ => maxE x.ty b c) ∧
    (∀ ds ss, ready y.dst y.src y.n.toNat y.dty.size (laneCount y.dty * y.sty.size) y.sty.size false ds ss →
      Carries (.wcvt h y) s ((sweepAll s (laneCount y.dty * y.sty.size) (fun b _ =>
        ofLanes y.dty ((List.range (laneCount y.dty)).map (fun i => convE y.dty y.sty
          { mode := y.rnd, sat := y.sat, ovt := s.me.ovt.toNat, conv := false } (lane y.sty b i)))) (ss.zip ds) s).goOn h)) ∧
    (∀ ds ss, ready z.dst z.src z.n.toNat z.ty.size 64 z.ty.size false ds ss →
      Carries (.wclamp h z) s ((sweepAll s 64 (fun b _ => ofLanes z.ty ((lanesOf z.ty b).map
        (clampE z.ty (lane z.ty (s.me.rv z.c).toNat 0) (lane z.ty (s.me.rv z.c).toNat 1)))) (ss.zip ds) s).goOn h)) ∧
    (∀ ds ss, ready u.dst u.src u.n.toNat u.ty.size 64 u.ty.size false ds ss →
      Carries (.wcopy h u) s ((sweepAll s 64 (fun b _ => b) (ss.zip ds) s).goOn h))

/-- `wred` (R86): once every segment is read, nothing else happening meanwhile, each lane of the register takes the exact sum of itself
and that lane of every segment, rounded or wrapped once; and an ordinary write to a bank (R172, R313), of which sweeps and stores are made, changes exactly the
bytes written, and the tag of a region written to, to 15 unless it was 0. -/
def Obligations.SweepReductionAndBankWrites : Prop :=
  (∀ (h : Hdr) (x : OpSwRed) (s : State) (ss : List Nat), s.issues h {} = true →
    ss ≠ [] → segOffs s.me x.src x.n.toNat = some ss → sweepFault s [(ss, 64, x.ty.size)] = none → sweepBusy s ss = false →
    (∀ o ∈ ss, segmentReads s 64 o) → x.ty.isVec = true →
    ∃ r, r < 2 ^ 512 ∧ Carries (.wred h x) s (s.wroteV h x.c r) ∧ ∀ l, l < laneCount x.ty →
      let terms := lane x.ty (s.me.rv x.c).toNat l :: ss.map (fun o => lane x.ty (s.bankRead (winAt s o).1 (winAt s o).2 64) l)
      (x.ty.isInt = true → IntResult x.ty x.sat (terms.map (intOf x.ty)).sum (lane x.ty r l)) ∧
      (x.ty.isFloat = true → lane x.ty r l =
        sumE x.ty { mode := x.rnd, sat := x.sat, ovt := s.me.ovt.toNat, conv := false } terms % 2 ^ ETy.w x.ty)) ∧
  (∀ (s : State) (pkg off n v : Nat), 0 < n → n ≤ 64 → off + n ≤ 65536 →
    let t := s.bankWrite pkg off n v
    t.mem = s.mem ∧ t.banks = s.banks.write (pkg * 65536 + off) n v ∧ t.cores = s.cores ∧ t.net = s.net ∧ t.hub = s.hub ∧
    (∀ b r, r < 16 → t.tag b r = if (b = pkg ∧ (r = off / 4096 ∨ r = (off + n - 1) / 4096)) ∧ s.tag b r ≠ 0 then 15 else s.tag b r))

/-! ### Class 0x6: the matrix unit -/

/-- The matrix commands that wait in the queue (R90, R95 to R101, R105): where the queue has room, no branch of the context
is unresolved and each one's own checks hold, the command is appended and the context goes on. `mzero` renames its tile to
the lowest free physical tile, zero and unset; `mmac` and `mscale` mark theirs written, of the accumulator's
type; `mstat` leaves its register busy. -/
def Obligations.MatrixCommandsQueue : Prop :=
  ∀ (h : Hdr) (a : AReg) (x : OpMmac) (y : OpMscale) (z : OpMepi) (u : OpMstat) (s : State), s.issues h {} = true →
    s.me.unresolved = none → s.mycore.mqFull = false →
    let k := s.mycore
    let queues : Instr → MOp → (State → Prop) → Prop := fun i op more =>
      ∃ t : State, exec i s = .next (t.goOn h) ∧ t.me = s.me ∧ t.mem = s.mem ∧ t.banks = s.banks ∧
        (∃ m, t.mycore.mq = k.mq ++ [m] ∧ m.op = op ∧ m.ctx = s.curCtx ∧ m.pc = s.me.pc) ∧ more t
    (∀ p, k.freeTile = some p →
      queues (.mzero h a) (.mzero a.toNat k.tiles[a.toNat] p) (fun t =>
        t.mycore.tiles[a.toNat] = { valid := true, dirty := false, phys := p, ty := 0 } ∧
        (∀ b : AReg, b ≠ a → t.mycore.tiles[b.toNat] = k.tiles[b.toNat]) ∧
        Tab.get? t.mycore.phys p = some { elems := List.replicate 1024 0, kidx := 0 })) ∧
    (∀ e kk la, mmacCheck k x.ty x.a.toNat = some (e, kk, la, kk) →
      queues (.mmac h x) (.mmac e.phys x.ty k.curA (2 + k.curB) none 0) (fun t =>
        t.mycore.tiles[x.a.toNat] = { e with dirty := true, ty := if x.ty = .i8 then 2 else 1 })) ∧
    (let o := k.tiles[y.a.toNat]
     let p := k.tiles[y.b.toNat]
     o.valid = true → p.valid = true → p.ty = 1 → (o.ty = 0 ∨ o.ty = 1) →
      queues (.mscale h y) (.mscale o.phys p.phys (scaleCodes (s.me.rv y.c)) (scaleCodes (s.me.rv (y.c + 1)))) (fun t =>
        t.mycore.tiles[y.a.toNat] = { o with dirty := true, ty := 1 })) ∧
    (∀ p, let tl := k.tiles[z.a.toNat]
      tl.valid = true → storeOk tl.ty z.ty = true → displace (s.me.rs z.base).toNat (dispBytes z.ty z.disp) = some p →
      [0, 1, 2].contains (bits p 63 60) = true → (s.resolve s.cur p).isSome = true → p % 64 = 0 →
      (bits p 63 60 = 0 ∨ bits p 15 0 + 1024 * z.ty.size ≤ 65536) →
      ∃ e : Epi, e.dst = p ∧ e.row = 0 ∧ e.sent = none ∧ e.faulted = false ∧ e.ty = z.ty ∧ e.tileTy = tl.ty ∧ e.mode = z.rnd ∧ e.sat = z.sat ∧
        queues (.mepi h z) (.mepi tl.phys e) (fun _ => True)) ∧
    (∃ t : State, exec (.mstat h u) s = .next (t.goOn h) ∧ t.me = s.me ∧ t.mem = s.mem ∧ t.banks = s.banks ∧
      (∃ m, t.mycore.mq = k.mq ++ [m] ∧ m.op = .mstat u.a.toNat k.tiles[u.b.toNat] ∧
        t.mycore.loads = k.loads ++ [{ id := m.id, ctx := s.curCtx, reg := .s u.a.toNat, ty := .n64, val := none, due := 0, exposed := false }]))

/-- The issuing context's core holds a translation of every page under ranges (pointer and length) of space 0. -/
def HoldsPages (s : State) (rs : List (Nat × Nat)) : Prop :=
  ∀ r ∈ rs, bits r.1 63 48 = 0 → ∀ q ∈ pagesOf (bits r.1 47 0) r.2 (r.2 / 65536 + 2),
    (s.lookup s.cur (xlatAsid s.me.xlat.toNat) q.1).isSome = true

/-- The matrix instructions that their context waits for (R93, R103, R104, R106), and `mmac.sp` (R98): `mdrain` goes on once
no work on its tile is outstanding; `mrepl`, replaying or discarding, `mswz`, and a panel load whose pages the core holds
translations of (R268), and whose record and panel pass every check, begin and wait in the queue; a handle of `mrepl` that breaks its
layout is ILLEGAL; a panel load turns the current buffer over; `mmac.sp` queues with its metadata and marks its tile written.
Rests on the model's choices of log entries 16, 17, 18 and 81. -/
def Obligations.MatrixWaits : Prop :=
  ∀ (h : Hdr) (a : AReg) (b : SReg) (x : OpMld) (y : OpSCode) (z : OpMmacSp) (s : State), s.issues h {} = true →
    s.me.unresolved = none → s.mycore.mqFull = false →
    let k := s.mycore
    let begins : Instr → MOp → (State → Prop) → Prop := fun i op more =>
      ∃ (t : State) (m : MCmd), exec i s = .next (t.begun h) ∧ t.mycore.mq = k.mq ++ [m] ∧ m.op = op ∧ m.ctx = s.curCtx ∧
        t.me = { s.me with wait := .matrix m.id } ∧ t.banks = s.banks ∧ more t
    (k.inFlight a.toNat = false → exec (.mdrain h a) s = .next (s.goOn h)) ∧
    (let v := (s.me.rs b).toNat
     (∀ (p : Nat) (discard : Bool), p < 24 → v = (if discard then 2 ^ 31 else 0) + p →
       begins (.mrepl h b) (.mrepl p discard) (fun t => t.mem = s.mem)) ∧
     (2 ^ 32 ≤ v ∨ v % 2 ^ 31 / 32 ≠ 0 ∨ 24 ≤ v % 32 → exec (.mrepl h b) s =
       s.trapOut { cause := 0x01, detail := 0, resume := s.me.pc, fpc := s.me.pc, va := 0, ipa := 0, jrn := none, async := false })) ∧
    (∀ pkg region, s.mswzAt s.cur (s.me.rs y.b).toNat = .ok (pkg, region) →
      begins (.mswz h y) (.mswz pkg region y.code.toNat) (fun t => t.mem = s.mem)) ∧
    (∀ p r t0 g qs, let s1 := s.dropWalks s.cur s.curCtx
      let t1 := t0.dropWalks t0.cur t0.curCtx
      displace (s.me.rs x.base).toNat x.disp.toInt = some p → [0, 1, 2].contains (bits p 63 60) = true →
      (s.resolve s.cur p).isSome = true → HoldsPages s [((s.me.rs x.sh).toNat, 32)] →
      s1.readShape s1.self (s.me.rs x.sh).toNat = .ok (r, t0) → shapeOf r = some g → HoldsPages t0 ((g.runs p).getD []) →
      t0.mycore = k → t0.me = s.me → t0.banks = s.banks → t1.panelAt t1.self g p = .ok qs →
      begins (.mldA h x) (.mld true (1 - k.curA) p (s.me.rs x.sh).toNat r s.me.xlat.toNat s.me.level)
        (fun t => t.mycore.curA = 1 - k.curA ∧ t.mycore.curB = k.curB ∧ t.mycore.bufs = k.bufs) ∧
      begins (.mldB h x) (.mld false (2 + (1 - k.curB)) p (s.me.rs x.sh).toNat r s.me.xlat.toNat s.me.level)
        (fun t => t.mycore.curB = 1 - k.curB ∧ t.mycore.curA = k.curA ∧ t.mycore.bufs = k.bufs)) ∧
    (∀ e ka la m t0, let p := (s.me.rs z.m).toNat
      let s1 := s.dropWalks s.cur s.curCtx
      mmacCheck k z.ty z.a.toNat = some (e, ka, la, 2 * ka) → ka % 6 = 0 → [0, 1].contains (bits p 63 60) = true →
      (s.resolve s.cur p).isSome = true → p % 64 = 0 → HoldsPages s [(p, la * (ka / 6) * 3)] →
      s1.bulkRead s1.self p (la * (ka / 6) * 3) = .ok (m, t0) →
      t0.mycore = k → t0.me = s.me →
      let rows := (List.range la).map (fun i => (List.range (ka / 6)).map (fun j => fieldB m ((i * (ka / 6) + j) * 3) 3))
      (∀ r ∈ rows, ∀ v ∈ r, metaOk v = true) →
      ∃ (t : State) (c : MCmd), exec (.mmacSp h z) s = .next (t.goOn h) ∧ t.me = s.me ∧ t.mycore.mq = k.mq ++ [c] ∧
        c.op = .mmac e.phys z.ty k.curA (2 + k.curB) (some rows) 0 ∧
        t.mycore.tiles[z.a.toNat] = { e with dirty := true, ty := if z.ty = .i8 then 2 else 1 })

/-- A row of an epilogue has been stored in a bank (R101): its 32 elements, converted, stand one after another; every other byte of the
banks and of memory is as before; and a region that it touches has the tag 15, unless its tag was 0. -/
def RowStored (s t : State) (e : Epi) (elems : List Nat) (pkg off : Nat) : Prop :=
  let w := e.ty.size
  let at_ := pkg * 65536 + off
  t.mem = s.mem ∧ (∀ j, j < 32 → t.banks.read (at_ + j * w) w = epiElem e (elems.getD (e.row * 32 + j) 0) % 2 ^ ETy.w e.ty) ∧
  (∀ a, a < at_ ∨ at_ + 32 * w ≤ a → t.banks.byte a = s.banks.byte a) ∧
  (∀ b g, g < 16 → t.tag b g =
    if b = pkg ∧ (g = off / 4096 ∨ g = (off + 32 * w - 1) / 4096) ∧ s.tag b g ≠ 0 then 15 else s.tag b g)

/-- The row of an epilogue whose destination lies in one slot of its core's window: the bank that it meets, and its offset there. -/
def RowAt (s : State) (c id : Nat) (e : Epi) (pkg off : Nat) : Prop :=
  e.dst / 2 ^ 48 = 0x1000 ∧ e.dst % 2 ^ 48 < 0x200000 ∧ e.dst % 64 = 0 ∧ e.dst % 65536 + 1024 * e.ty.size ≤ 65536 ∧ e.row < 32 ∧
  storeOk e.tileTy e.ty = true ∧ id ∉ s.torn ∧ s.bankFor c c (e.dst % 2 ^ 48 / 65536) id = .ok pkg ∧
  off = e.dst % 65536 + e.row * (32 * e.ty.size)

/-- The unit at the head of its queue (R90, R97, R100 to R103, R105, R106), where the translations that its command needs are held: a
dense or sparse `mmac` does one K-step on the physical tile that it writes, and stays at the head until its last; `mscale` does its
work; all memory stays. A panel that is read fills its buffer, a discarding `mrepl` frees the tile's record, `mswz` gives its region
the new tag and the bytes of its logical contents the places of that tag, and each lets its context go on; `mstat` writes its register.
An epilogue into its core's window stores one row, and stays at the head until the last row is stored; a replaying `mrepl` stores the
rows from the failing one on so, and after the last frees the record and lets its context go on; a row that was sent to another die or
device is followed by the next once all of it is acknowledged, and faults with REMOTE_REFUSED where some of it is refused. An integer
accumulator element after one K-step is old plus the products, modulo 2^32 (R51).
The unit's events (R102, R109, R111, R283): a faulted epilogue row pends its trap, asynchronous, on its context; a parity
error is retried twice, counted, and the third pends UNCORRECTABLE and drops the command; an error of a bank word, a
memory line or a flit is counted where it is repaired, and one of a word or line else stays; a bridge fails; a refetch that reads every
buffer and the metadata of the restored sparse commands clears the need of it.
Rests on the model's choices of log entries 19, 20, 21, 81, 87, 89, 92, 93, 103 and 104. -/
def Obligations.MatrixUnit : Prop :=
  ((∀ (c : Nat) (s : State) (m : MCmd) (r : List MCmd), (s.core c).mq = m :: r → s.matrixReady c = true →
    s.unwalked (s.matrixRuns c m).1 (s.matrixRuns c m).2 = [] →
    let k := s.core c
    let u := s.endWalks (s.matrixRuns c m).1
    let t0 := u.popCmd c
    let x := s.ctx c m.ctx
    let old : Nat → PTile := fun p => Tab.getD k.phys p { elems := [], kidx := 0 }
    let runs : (State → Prop) → Prop := fun more => ∃ t : State, exec (.matrixCommandExecute c) s = .next t ∧ (t.core c).mq = r ∧ more t
    let goesOn : State → Prop := fun t => (t.ctx c m.ctx).wait = .none ∧ (t.ctx c m.ctx).pc = (x.pc + 12) % 2 ^ 48 ∧
      RegsKept [] x (t.ctx c m.ctx)
    (t0.core c).mq = r ∧
    (∀ n prev p, m.op = .mzero n prev p → exec (.matrixCommandExecute c) s = .next t0) ∧
    (∀ p fmt ba bb sp st pa pb, m.op = .mmac p fmt ba bb sp st → k.bufs.toList.getD ba none = some pa →
      k.bufs.toList.getD bb none = some pb → st < cdiv pa.k (groupSize fmt) →
      ∃ t : State, exec (.matrixCommandExecute c) s = .next t ∧ t.mem = s.mem ∧ t.banks = s.banks ∧
        (t.core c).mq = (if st + 1 < cdiv pa.k (groupSize fmt) then
          { m with op := .mmac p fmt ba bb sp (st + 1), begun := true } :: r else r) ∧
        (∀ q, q ≠ p → Tab.get? (t.core c).phys q = Tab.get? k.phys q) ∧
        Tab.get? (t.core c).phys p = some (kSteps c fmt pa pb sp 1 st (old p))) ∧
    (∀ p e pkg off, m.op = .mepi p e → e.sent = none → RowAt s c m.id e pkg off →
      ∃ t : State, exec (.matrixCommandExecute c) s = .next t ∧ RowStored s t e (k.elems p) pkg off ∧
        (t.core c).mq = (if e.row + 1 < 32 then { m with op := .mepi p { e with row := e.row + 1 }, begun := true } :: r else r)) ∧
    (∀ p e pkg off, m.op = .mrepl p false → Tab.get? k.epis p = some e → e.sent = none → RowAt s c m.id e pkg off →
      x.wait = .matrix m.id →
      ∃ t : State, exec (.matrixCommandExecute c) s = .next t ∧ RowStored s t e (k.elems p) pkg off ∧
        (e.row + 1 < 32 → (t.core c).mq = { m with begun := true } :: r ∧
          Tab.get? (t.core c).epis p = some { e with row := e.row + 1 } ∧ (t.ctx c m.ctx).wait = .matrix m.id) ∧
        (e.row = 31 → (t.core c).mq = r ∧ goesOn t ∧
          (k.epis.filter (fun f => f.1 % 32 == p) = [(p, e)] → Tab.get? (t.core c).epis p = none))) ∧
    (∀ p e g, m.op = .mepi p e → e.sent = some g →
      ((∀ a ∈ s.net, a.group ≠ g) → ∃ t : State, exec (.matrixCommandExecute c) s = .next t ∧ MemoryKept s t ∧
        (t.core c).mq = (if e.row + 1 < 32 then
          { m with op := .mepi p { e with row := e.row + 1, sent := none }, begun := true } :: r else r)) ∧
      ((∃ a ∈ s.net, a.group = g) → ∃ (t : State) (tr : Trap), exec (.matrixCommandExecute c) s = .next t ∧ MemoryKept s t ∧
        (t.core c).mq = r ∧ (∀ a ∈ t.net, a.group ≠ g) ∧
        Tab.get? (t.core c).epis (k.epiKey p) = some { e with sent := none, trapped := some tr } ∧
        tr.cause = 0x10 ∧ tr.detail = p + 0x0F * 256 + e.row * 65536 ∧ tr.async = true ∧ tr.fpc = e.pc)) ∧
    (∀ d q rows cols, m.op = .mscale d q rows cols →
      runs (fun t => t.mem = s.mem ∧ t.banks = s.banks ∧ (∀ j, j ≠ d → Tab.get? (t.core c).phys j = Tab.get? k.phys j) ∧
        ∃ o, Tab.get? (t.core c).phys d = some o ∧ o.kidx = (old d).kidx ∧
          ((old d).elems.length = 1024 → (old q).elems.length = 1024 → ∀ e, e < 1024 →
            o.elems.getD e 0 = scaleAcc (stampNaN c (old d).kidx) ((old d).elems.getD e 0) ((old q).elems.getD e 0)
              (rows.getD (e / 32) 0) (cols.getD (e % 32) 0)))) ∧
    (∀ isA b p sh w xl lv g pan, m.op = .mld isA b p sh w xl lv → shapeOf w = some g → x.wait = .matrix m.id →
      u.readPanel { stamp := m.id, core := c, part := s.partOf c, vdev := s.vdevOf c, xlat := xl, level := lv, path := .mx } g p sh =
        .ok pan →
      b < 4 → runs (fun t => (t.core c).bufs.toList.getD b none = some pan ∧ goesOn t)) ∧
    (∀ p e, m.op = .mrepl p true → Tab.get? k.epis p = some e → k.epis.filter (fun f => f.1 % 32 == p) = [(p, e)] →
      x.wait = .matrix m.id →
      runs (fun t => t.mem = s.mem ∧ t.banks = s.banks ∧ Tab.get? (t.core c).epis p = none ∧ goesOn t)) ∧
    (∀ pkg region code, m.op = .mswz pkg region code → pkg < 12288 →
      s.bankFor c c (bits (m.ops % 2 ^ 64) 20 16) m.id = .ok pkg → m.id ∉ s.torn →
      s.tag pkg region ≠ 15 → s.bankBad pkg (region * 4096) 4096 = false → x.wait = .matrix m.id → region < 16 → code < 8 →
      runs (fun t => t.mem = s.mem ∧ t.tag pkg region = code ∧ goesOn t ∧
        (let base := pkg * 65536 + region * 4096
         (∀ o, o < 4096 → t.banks.byte (base + swz code o) = s.banks.byte (base + swz (s.tag pkg region) o)) ∧
         ∀ a, a < base ∨ base + 4096 ≤ a → t.banks.byte a = s.banks.byte a) ∧
        ∀ b g, b * 16 + g ≠ pkg * 16 + region → t.tag b g = s.tag b g)) ∧
    (∀ (g : SReg) tl, m.op = .mstat g.toNat tl → x.born = m.born → g ≠ 0 →
      runs (fun t => t.mem = s.mem ∧ t.banks = s.banks ∧ (t.ctx c m.ctx).rs g = BitVec.ofNat 64 (k.tileStatus tl) ∧
        RegsKept [.s g.toNat] x (t.ctx c m.ctx)))) ∧
  (∀ (acc : Nat) (ps : List (Int × Int)), acc < 2 ^ 32 → (∀ p ∈ ps, |p.1| ≤ 128 ∧ |p.2| ≤ 128) →
    macI acc (ps.map (fun (p : Int × Int) => (some (.num (decide (p.1 < 0)) p.1.natAbs 0), some (.num (decide (p.2 < 0)) p.2.natAbs 0)))) =
      (((acc : Int) + (ps.map (fun (p : Int × Int) => p.1 * p.2)).sum) % 2 ^ 32).toNat)) ∧
  ((∀ (c p : Nat) (s : State) (e : Epi) (tr : Trap), Tab.get? (s.core c).epis p = some e → e.trapped = some tr →
    ∃ t : State, exec (.epilogueRowFault c p) s = .next t ∧ t.mem = s.mem ∧ t.banks = s.banks ∧
      (let x := s.trapHost c e.ctx e.born
       (t.ctx c x).traps = (s.ctx c x).traps ++ [tr]) ∧
      Tab.get? (t.core c).epis p = some { e with faulted := true, trapped := none }) ∧
  (∀ (c : Nat) (s : State) (m : MCmd) (r : List MCmd), (s.core c).mq = m :: r →
    ((s.core c).parity < 2 → ∃ t : State, exec (.operandQueueParityError (.queue c)) s = .next t ∧ (t.core c).mq = m :: r ∧
      (t.core c).parity = (s.core c).parity + 1 ∧ Tab.getD t.hub.corrected 0 0 = Tab.getD s.hub.corrected 0 0 + 1) ∧
    (2 ≤ (s.core c).parity → ∃ t tr, exec (.operandQueueParityError (.queue c)) s = .next t ∧ (t.core c).mq = r ∧
      (let x := s.trapHost c m.ctx m.born
       (t.ctx c x).traps = (s.ctx c x).traps ++ [tr]) ∧ tr.cause = 0x11 ∧ tr.async = true ∧ tr.fpc = m.pc)) ∧
  (∀ (n word : Nat) (s : State),
    (∃ t : State, exec (.operandQueueParityError (.bank n word true)) s = .next t ∧ MemoryKept s t ∧ t.badBank = s.badBank ∧
      Tab.getD t.hub.corrected 1 0 = Tab.getD s.hub.corrected 1 0 + 1) ∧
    (∃ t : State, exec (.operandQueueParityError (.bank n word false)) s = .next t ∧ MemoryKept s t ∧ n * 8192 + word ∈ t.badBank) ∧
    (let place := if inHbm (64 * n) then 2 else 5
     ∃ t : State, exec (.operandQueueParityError (.line n true)) s = .next t ∧ MemoryKept s t ∧ t.badMem = s.badMem ∧
      Tab.getD t.hub.corrected place 0 = Tab.getD s.hub.corrected place 0 + 1) ∧
    (∃ t : State, exec (.operandQueueParityError (.line n false)) s = .next t ∧ MemoryKept s t ∧ n ∈ t.badMem) ∧
    (∃ t : State, exec (.operandQueueParityError (.flit n true)) s = .next t ∧ MemoryKept s t ∧ t.net = s.net ∧
      Tab.getD t.hub.corrected 3 0 = Tab.getD s.hub.corrected 3 0 + 1) ∧
    (∀ a, s.access? n = some a → a.performed = false → a.refused = none →
      exec (.operandQueueParityError (.flit n false)) s = .next (s.setAccess { a with refused := some 0x11 })) ∧
    (n < 4 → ∃ t : State, exec (.operandQueueParityError (.bridge n)) s = .next t ∧ MemoryKept s t ∧ n ∈ t.hub.failed)) ∧
  (∀ (c : Nat) (s t0 : State), let g := s.refetchAgent c
    s.refetchReady c = true → s.unwalked g (s.refetchRuns c) = [] → (s.endWalks g).refetchAll c g = .ok t0 →
    exec (.panelRefetch c) s = .next (t0.setCore c { t0.core c with refetch := false })))

/-! ### Class 0x7: distribution registers -/

/-- The tag that R119 draws: the value nearest behind the counter, cycling from 1 to 255, that no register holds. -/
def freshTagOf (s : State) (tag : Nat) : Prop :=
  1 ≤ tag ∧ tag ≤ 255 ∧ (∀ d : DReg, s.mycore.d[d.toNat].tag ≠ tag) ∧
    ∃ n, tag = (s.me.tagCtr + n) % 255 + 1 ∧ ∀ m, m < n → ∃ d : DReg, s.mycore.d[d.toNat].tag = (s.me.tagCtr + m) % 255 + 1

/-- The elementwise instructions on distributions (R112, R118 to R122): with one tag, not 0, in both sources each lane
pairs its points one by one and the tag stays; otherwise every point of one meets every point of the other and the tag is
fresh: the counter's next value that no register holds, from 1 to 255. Pairs of weight 0 fall out, and each lane is
condensed to eight points of weight 8,192. -/
def Obligations.DistributionArithmetic : Prop :=
  ∀ (h : Hdr) (x : OpD3) (s : State), s.issues h { helper := false } = true →
    let b := s.mycore.d[x.b.toNat]
    let c := s.mycore.d[x.c.toNat]
    let one := b.tag = c.tag ∧ b.tag ≠ 0
    let m : Rnd := { mode := .rn, sat := false, ovt := 0, conv := false }
    let does : Instr → (Nat → Nat → Nat) → Prop := fun i f =>
      ∃ t : State, exec i s = .next (t.goOn h) ∧ t.mem = s.mem ∧ t.banks = s.banks ∧
        (∀ d : DReg, d ≠ x.a → t.mycore.d[d.toNat] = s.mycore.d[d.toNat]) ∧ RegsKept [] s.me t.me ∧
        (let r := t.mycore.d[x.a.toNat]
         r.pts.length = 64 ∧ (∀ p ∈ r.pts, p.2 = 8192) ∧
         (∀ l, l < 8 → r.lane l = condense (pairPts f (decide one) (b.lane l) (c.lane l))) ∧
         (one → r.tag = b.tag ∧ t.me.tagCtr = s.me.tagCtr) ∧
         (¬ one → t.me.tagCtr = r.tag ∧ freshTagOf s r.tag))
    does (.dadd h x) (addF .f32 m) ∧ does (.dsub h x) (subF .f32 m) ∧ does (.dmul h x) (mulF .f32 m) ∧
    does (.dmax h x) (maxF .f32) ∧ does (.dmin h x) (minF .f32)

/-- `dpt`, `dmix`, `dtag`, `dmom` and `dqnt` (R121, R123, R124): a point mass in every lane with tag 0; in each lane the
condensed mixture of the old points and the other register's, by the low 16 bits of the scalar, with a fresh tag; a tag
written and nothing else; mean, variance and third moment of each lane in a pair of vector registers; the lower quantile of
each lane. -/
def Obligations.DistributionForming : Prop :=
  ∀ (h : Hdr) (x : OpDpt) (y : OpDmix) (z : OpDtag) (u : OpDmom) (v : OpDqnt) (s : State),
    s.issues h { helper := false } = true →
    (∃ d : Dist, exec (.dpt h x) s = .next ((s.wd x.a d).goOn h) ∧ d.tag = 0 ∧ ∀ l, l < 8 →
      d.lane l = List.replicate 8 ((match x.b with
        | .s r => (s.me.rs r).toNat % 2 ^ 32
        | .v r => lane .f32 (s.me.rv r).toNat l), 8192)) ∧
    (∃ t : State, exec (.dmix h y) s = .next (t.goOn h) ∧ RegsKept [] s.me t.me ∧
      (∀ d : DReg, d ≠ y.a → t.mycore.d[d.toNat] = s.mycore.d[d.toNat]) ∧ t.mem = s.mem ∧ t.banks = s.banks ∧
      (let r := t.mycore.d[y.a.toNat]
       let al := (s.me.rs y.c).toNat % 65536
       t.me.tagCtr = r.tag ∧ freshTagOf s r.tag ∧ r.pts.length = 64 ∧ (∀ p ∈ r.pts, p.2 = 8192) ∧
       ∀ l, l < 8 →
         let a := s.mycore.d[y.a.toNat].lane l
         let b := s.mycore.d[y.b.toNat].lane l
         r.lane l = condense ((a.map (fun e => (e.1, e.2 * massOf b * (65536 - al))) ++
           b.map (fun e => (e.1, e.2 * massOf a * al))).filter (fun e => e.2 != 0)))) ∧
    (exec (.dtag h z) s = .next ((s.wd z.a { s.mycore.d[z.a.toNat] with tag := (match z.b with
        | .s r => (s.me.rs r).toNat % 256
        | .imm i => i.toNat) }).goOn h)) ∧
    (∃ k, exec (.dmom h u) s = .next ((s.setMe k).goOn h) ∧ RegsKept [.v u.a.toNat, .v (u.a + 1).toNat] s.me k ∧
      ∀ l, l < 8 → let m := momentsOf (s.mycore.d[u.b.toNat].lane l)
        lane .f32 (k.rv u.a).toNat l = m.1 % 2 ^ 32 ∧ lane .f32 (k.rv u.a).toNat (8 + l) = m.2.1 % 2 ^ 32 ∧
        lane .f32 (k.rv (u.a + 1)).toNat l = m.2.2 % 2 ^ 32 ∧ lane .f32 (k.rv (u.a + 1)).toNat (8 + l) = 0) ∧
    (∃ r, r < 2 ^ 512 ∧ exec (.dqnt h v) s = .next (s.wroteV h v.a r) ∧
      (∀ l, l < 8 → lane .f32 r l = quantileOf (min (s.me.rs v.c).toNat 65536) 65536 (s.mycore.d[v.b.toNat].lane l) % 2 ^ 32) ∧
      ∀ l, 8 ≤ l → l < 16 → lane .f32 r l = 0)

/-- A load whose register is pending: no value yet. -/
def pendingLoad (s : State) (g : Reg) (ty : ETy) : Load :=
  { id := s.nonce, ctx := s.curCtx, reg := g, ty := ty, val := none, due := 0, exposed := false }

/-- `dld` and `dstr` on the local window (R116, R117): with an aligned pointer of space 1 to 512 bytes of one attached slot, the
image leaves as eight 64-byte loads or stores in ascending order, and its context waits for them; nothing is written
meanwhile. Once the last line's value has come, the register takes the image's points, weights and tag where its tail is
zero, its lanes are sorted and every line was sound; an image that breaks the rules is ILLEGAL, whatever the errors of its
lines. Rests on the model's choices of log entries 81 and 87. -/
def Obligations.DistributionImages : Prop :=
  (∀ (h : Hdr) (x : OpDMem) (s : State) (p pkg : Nat), s.issues h { helper := false } = true →
    displace (s.me.rs x.base).toNat x.disp.toInt = some p → p / 2 ^ 48 = 0x1000 → p % 2 ^ 48 < 0x200000 → p % 64 = 0 →
    p % 65536 + 512 ≤ 65536 → s.openSlot s.cur (p % 2 ^ 48 / 65536) = .ok pkg → s.me.unresolved = none →
    let line : AKind → Nat → Nat → Access → Prop := fun k v i a =>
      a.id = s.nonce + i ∧ a.group = s.nonce ∧ a.core = s.cur ∧ a.ctx = s.curCtx ∧ a.path = .ls ∧ a.kind = k ∧
      a.dest = .slot s.cur (p % 2 ^ 48 / 65536) (p % 65536 + 64 * i) ∧ a.size = 64 ∧ a.at_ = 64 * i ∧
      a.data = v / 256 ^ (64 * i) % 256 ^ 64 ∧ a.jrn = none ∧ a.performed = false ∧ a.refused = none
    let leaves : Instr → AKind → Nat → List Load → Prop := fun i k v ls =>
      ∃ (t : State) (as : List Access), exec i s = .next (t.begun h) ∧ t.me = { s.me with wait := .access s.nonce } ∧
        MemoryKept s t ∧ t.mycore.d = s.mycore.d ∧ t.mycore.loads = s.mycore.loads ++ ls ∧ t.net = s.net ++ as ∧
        as.length = 8 ∧ ∀ j, j < 8 → ∃ a, as[j]? = some a ∧ line k v j a
    leaves (.dld h x) .load 0 [pendingLoad s (.d x.d.toNat) .n64] ∧
    leaves (.dstr h x) .store (s.mycore.d[x.d.toNat]).image []) ∧
  (∀ (id : Nat) (s : State) (a : Access) (l : Load) (i : DReg), s.access? id = some a → a.refused = none →
    s.mayGive a = true → s.net.filter (·.group == a.group) = [a] → s.aliveFor a = true →
    (s.core a.core).loads.find? (·.id == a.group) = some l → l.reg = .d i.toNat →
    (s.ctx a.core a.ctx).wait = .access a.group →
    let v := a.got + a.value * 256 ^ a.at_
    let k := s.ctx a.core a.ctx
    let u := (s.dropAccess id).dropLoad a.core a.group
    (v / 256 ^ 385 = 0 → (distOf v).sorted = true → a.told = false →
      ∃ t : State, exec (.loadValueReturn id) s = .next t ∧ MemoryKept s t ∧ (t.core a.core).d[i.toNat] = distOf v ∧
        (∀ j : DReg, j ≠ i → (t.core a.core).d[j.toNat] = (s.core a.core).d[j.toNat]) ∧ t.net = u.net ∧
        (t.ctx a.core a.ctx).wait = .none ∧ (t.ctx a.core a.ctx).pc = (k.pc + 12) % 2 ^ 48 ∧ RegsKept [] k (t.ctx a.core a.ctx)) ∧
    (∀ t, ¬ (v / 256 ^ 385 = 0 ∧ (distOf v).sorted = true) → u.trapWaiting a.core a.ctx 0x01 0 0 0 = some t →
      exec (.loadValueReturn id) s = .next t) ∧
    (∀ t, v / 256 ^ 385 = 0 → (distOf v).sorted = true → a.told = true → u.trapWaiting a.core a.ctx 0x11 0 a.va 0 = some t →
      exec (.loadValueReturn id) s = .next t))
/-! ### Traps and contexts -/

/-- `trapi` and `hcall` (R74, R298, R304 to R306): from L0, with room in the trap queue, every load of the
context returned and its posted stores acknowledged, the context stands at the
partition's handler at L1; the cause word says the cause, replayable and precise, the return address is the next
instruction, where a `trapret` of the handler resumes, s24 to s31 are staged in bank 63, and an enabled queue holds the
record. No register changes. Above L0 `hcall` is ILLEGAL. Rests on the model's choices of log entries 81 and 87 (an address word
of 0 in the records of these traps; a next address modulo 2^48). -/
def Obligations.SoftwareTrapsEnterTheHandler : Prop :=
  (∀ (h : Hdr) (code : BitVec 24) (s : State), s.MemWf → s.issues h {} = true → s.me.level = 0 →
    s.trapStalls (s.partOf s.cur) = false → s.settled s.cur s.curCtx = true → s.storesDone s.cur s.curCtx = true →
    let pt := s.part (s.partOf s.cur)
    let at_ := (clusterOf s.cur * 64 + 63) * 65536 + (0x2000 + 0x400 * inCluster s.cur + 0x40 * s.curCtx)
    let next := (s.me.pc + 12) % 2 ^ 48
    let traps : Instr → Nat → Prop := fun i detail =>
      ∃ t : State, exec i s = .next t ∧ t.me.level = 1 ∧ t.me.pc = pt.trapvec ∧ t.me.live = s.me.live ∧
        t.me.trapcause = 0x8000000000000216#64 ∧ t.me.trappc = BitVec.ofNat 64 next ∧
        t.me.trapdetail = BitVec.ofNat 64 detail ∧ t.me.trapjrn = 0 ∧ RegsKept [] s.me t.me ∧
        (s.me.unresolved = none → ∀ g : Hdr, g.phase = .any → g.guard = 7 → g.neg = false →
          ∃ u : State, exec (.trapret g) t = .next u ∧ u.me.pc = next) ∧
        (∀ c, c ≠ s.cur → t.core c = s.core c) ∧
        (∀ i, i < 8 → t.banks.read (at_ + 8 * i) 8 = (s.me.s.toList.getD (24 + i) 0).toNat) ∧
        (∀ a, a < at_ ∨ at_ + 64 ≤ a → t.banks.byte a = s.banks.byte a) ∧
        (pt.tqOn = false → t.mem = s.mem) ∧
        (pt.tqOn = true → ∃ i, i < 248 ∧ i ∉ pt.tqHeld ∧ (t.part (s.partOf s.cur)).tqHeld = pt.tqHeld ++ [i] ∧
          (let r := t.mem.read (pt.tqBase + 64 * i) 64
           fieldB r 0 1 = 0x16 ∧ fieldB r 1 1 % 4 = 1 ∧ fieldB r 4 2 = s.cur % 2 ^ 16 ∧ fieldB r 8 8 = next ∧
           fieldB r 16 8 = s.me.pc % 2 ^ 64 ∧ fieldB r 24 8 = detail) ∧
          (∀ a, a < pt.tqBase + 64 * i ∨ pt.tqBase + 64 * i + 64 ≤ a → t.mem.byte a = s.mem.byte a))
    traps (.trapi h code) code.toNat ∧ traps (.hcall h code) (2 ^ 24 + code.toNat)) ∧
  (∀ (h : Hdr) (code : BitVec 24) (s : State), s.issues h {} = true → 1 ≤ s.me.level → exec (.hcall h code) s =
    s.trapOut { cause := 0x01, detail := 0, resume := s.me.pc, fpc := s.me.pc, va := 0, ipa := 0, jrn := none, async := false })

/-- `trapret` (R299, R306): the pc and the level saved at the entry come back, s24 to s31 come back from their staging
line, the record that the context holds is released, and nothing else of the registers or of memory changes; with no trap
active it is ILLEGAL; after a software trap it returns to the instruction behind
it with every register as it was and the queue's slot free. Rests on the model's choices of log entries 81 and 87. -/
def Obligations.TrapReturnRestores : Prop :=
  (∀ (g : Hdr) (s : State), s.issues g { level := 1 } = true → s.me.trapcause.getLsbD 63 = false → exec (.trapret g) s =
    s.trapOut { cause := 0x01, detail := 0, resume := s.me.pc, fpc := s.me.pc, va := 0, ipa := 0, jrn := none, async := false }) ∧
  (∀ (g : Hdr) (s : State), s.issues g { level := 1 } = true → s.me.trapcause.getLsbD 63 = true → s.me.unresolved = none →
    s.me.rbTrap = false → s.settled s.cur s.curCtx = true →
    ∃ u : State, exec (.trapret g) s = .next u ∧ u.me.level = bits s.me.trapcause.toNat 11 10 ∧
      u.me.pc = s.me.trappc.toNat % 2 ^ 48 ∧ u.me.trapcause.getLsbD 63 = false ∧
      (∀ i, i < 8 → u.me.rs (BitVec.ofNat 5 (24 + i)) = BitVec.ofNat 64 (s.bankRead (clusterOf s.cur * 64 + 63)
        (0x2000 + 0x400 * inCluster s.cur + 0x40 * s.curCtx + 8 * i) 8)) ∧
      RegsKept ((List.range 8).map (fun i => Reg.s (24 + i))) s.me u.me ∧ MemoryKept s u ∧
      (u.part (s.partOf s.cur)).tqHeld = (match s.me.trapSlot with
        | some i => (s.part (s.partOf s.cur)).tqHeld.filter (· != i)
        | none => (s.part (s.partOf s.cur)).tqHeld)) ∧
  (∀ (h g : Hdr) (code : BitVec 24) (s t : State), s.MemWf → s.issues h {} = true → s.me.level = 0 → s.me.unresolved = none →
    s.trapStalls (s.partOf s.cur) = false → s.settled s.cur s.curCtx = true → s.storesDone s.cur s.curCtx = true →
    exec (.trapi h code) s = .next t →
    g.phase = .any → g.guard = 7 → g.neg = false →
    ∃ u : State, exec (.trapret g) t = .next u ∧ u.me.level = 0 ∧ u.me.pc = (s.me.pc + 12) % 2 ^ 48 ∧
      RegsKept [] s.me u.me ∧ (u.part (s.partOf s.cur)).tqHeld = (s.part (s.partOf s.cur)).tqHeld)

/-- Traps that events take (R30, R303, R304, R306, R307) and a stall that runs out (R20). A malformed word is an ILLEGAL of
its address. A pending replayable trap enters the handler with its asynchronous bit, after which its journal entry is
free; a pending trap of the fatal class that meets no launch takes a
slot of the fatal reserve and stops every context of the core, and freezes its banks where no store of the core is still on
its way, and else not yet. Neither is taken before the context's posted stores are acknowledged or refused (R309).
Rests on the model's choice of log entry 81. -/
def Obligations.TrapsFromEvents : Prop :=
  (∀ (s : State), (∃ t : State, exec .illegalWord s = .next t) ∧
    (∀ w t, s.me.mid = none → s.fetch = .ok (w, t) → decode w = none → s.turn = exec .illegalWord t) ∧
    exec .illegalWord s =
      s.trapOut { cause := 1, detail := 0, resume := s.me.pc, fpc := s.me.pc, va := 0, ipa := 0, jrn := none, async := false }) ∧
  (∀ (c x : Nat) (s : State) (tr : Trap) (r : List Trap), (s.ctx c x).traps = tr :: r → (s.ctx c x).atBoundary = true →
    (s.ctx c x).level = 0 → s.storesDone c x = true →
    (tr.replays = true → tr.cause < 256 → s.trapStalls (s.partOf c) = false → s.settled c x = true →
      ∃ t : State, exec (.trapEntry c x) s = .next t ∧ (t.ctx c x).level = 1 ∧ (t.ctx c x).traps = r ∧
        (t.ctx c x).pc = (s.part (s.partOf c)).trapvec ∧ (t.ctx c x).trappc = BitVec.ofNat 64 (s.ctx c x).pc ∧
        bits (t.ctx c x).trapcause.toNat 7 0 = tr.cause ∧ (t.ctx c x).trapcause.getLsbD 8 = tr.async ∧
        (t.ctx c x).trapcause.getLsbD 9 = true ∧ (t.ctx c x).trapcause.getLsbD 63 = true ∧
        (∀ e, tr.jrn = some e → e ∉ (t.core c).journal)) ∧
    (let pt := s.part (s.partOf c)
     ∀ i, tr.replays = false → s.launchOf c = none → pt.halted = false → pt.tqOn = true →
      freeSlot (pt.tqHeld ++ pt.tqFatal) 248 8 = some i →
      ∃ t : State, exec (.fatalTrap c x) s = .next t ∧ (t.part (s.partOf c)).tqFatal = pt.tqFatal ++ [i] ∧ (t.core c).dead = true ∧ (t.core c).unit = none ∧
        (∀ y, (t.ctx c y).live = false) ∧
        (s.net = [] → s.xnet = [] → (t.core c).draining = false ∧
          ∀ b, (s.hitch b).st = .hitched → (s.hitch b).holder = c → (t.hitch b).st = .frozen) ∧
        ((∃ a ∈ s.net, a.core = c) → (t.core c).draining = true ∧ ∀ b, t.hitch b = s.hitch b))) ∧
  (∀ (c x : Nat) (s : State), (s.ctx c x).level < 2 → s.storesDone c x = false →
    exec (.trapEntry c x) s = .next s ∧ exec (.fatalTrap c x) s = .next s) ∧
  (∀ (c x : Nat) (s : State), (s.ctx c x).stall ≠ 0 → (s.ctx c x).stall ≤ (s.core c).cc →
    exec (.stallExpiry c x) s = .next (s.setCtx c x { s.ctx c x with stall := 0 }))

/-- Contexts (R73, R246 to R248, R258). `hstart` starts the lowest context that is not live at its target, with the
starter's level and overflow table, its argument in s1, its number in s2, the team size of its launch in s3 and every other
register zero; `hend` ends its own context, once it has nothing under way, and `hwait` waits for one; `yield` is `nop` with
the yield hint; `uend` ends the unit: its context is not live, its banks are Free and its slots empty, those of units that
stand switched out of the core apart, which the model keeps with those units (log entry 42, by R228 and R318), and its rank counts as
ended; of a context that belongs to no launch it ends only that context. -/
def Obligations.ContextsStartAndEnd : Prop :=
  ∀ (h : Hdr) (x : OpHStart) (b : SReg) (s : State),
    (∀ n, s.issues h { helper := false } = true → s.me.unresolved = none → s.freeCtx s.cur = some n →
      ∃ t : State, exec (.hstart h x) s = .next (t.goOn h) ∧ MemoryKept s t ∧
        (1 ≤ n ∧ n ≤ 15 ∧ (s.ctx s.cur n).live = false ∧ ∀ m, 1 ≤ m → m < n → (s.ctx s.cur m).live = true) ∧
        t.me.rs x.a = (if x.a = 0 then 0 else BitVec.ofNat 64 n) ∧ RegsKept [.s x.a.toNat] s.me t.me ∧
        (let k := t.ctx s.cur n
         k.live = true ∧ k.pc = branchTo s.me.pc x.off ∧ k.level = s.me.level ∧ k.ovt = s.me.ovt ∧ k.inUnit = s.me.inUnit ∧
         k.rs 1 = s.me.rs x.b ∧ k.rs 2 = BitVec.ofNat 64 n ∧
         (∀ l, s.me.inUnit = true → s.launchOf s.cur = some l → k.rs 3 = BitVec.ofNat 64 l.team ∧ k.xlat = l.xlat) ∧
         (∀ i : SReg, i ≠ 1 → i ≠ 2 → i ≠ 3 → k.rs i = 0) ∧ (∀ i : VReg, k.rv i = 0) ∧ (∀ i : PReg, i ≠ 7 → k.rp i = 0)) ∧
        (∀ y, y ≠ n → y ≠ s.curCtx → t.ctx s.cur y = s.ctx s.cur y)) ∧
    (s.issues h { control := false } = true → s.me.unresolved = none → s.me.ticket = none → s.ctxDrained s.cur s.curCtx = true →
      (∀ l ∈ s.mycore.loads, l.ctx ≠ s.curCtx) →
      exec (.hend h) s = .next ((s.setMe { s.me with live := false, q := .replicate 4 [], irqs := [] }).begun h)) ∧
    (let n := (s.me.rs b).toNat
     s.issues h {} = true → 1 ≤ n → n < 16 → n ≠ s.curCtx →
      exec (.hwait h b) s = .next (if (s.ctx s.cur n).live then s.held else s.goOn h)) ∧
    (s.issues h {} = true → exec (.yield h) s = .next (s.goOn { h with yield := true }) ∧
      (s.goOn { h with yield := true }).me.yieldNow = true) ∧
    (s.issues h { helper := false } = true → s.me.unresolved = none → s.unitQuiet s.cur = true →
      ∃ t : State, exec (.uend h) s = .next (t.begun h) ∧ t.mem = s.mem ∧ t.banks = s.banks ∧ t.me.live = false ∧
        (s.me.inUnit = true ∨ s.mycore.unit = none →
          (let aside := (s.setAside s.cur).map (·.2)
           t.mycore.unit = none ∧
           (∀ p, (s.hitch p).st = .hitched → (s.hitch p).holder = s.cur → p ∉ aside → (t.hitch p).st = .free) ∧
           (∀ n p, t.slotBank s.cur n = some p → (t.hitch p).st = .frozen ∨ p ∈ aside) ∧
           (∀ u l, s.mycore.unit = some u → s.launch? u = some l →
             ∃ l', t.launch? u = some l' ∧ s.mycore.rank ∈ l'.ended ∧ ∀ r ∈ l.ended, r ∈ l'.ended))) ∧
        (s.me.inUnit = false → s.mycore.unit.isSome = true → t.mycore.unit = s.mycore.unit ∧ t.clusters = s.clusters ∧
          t.launches = s.launches))
/-! ### Classes 0x8 and 0x9: loads, stores and atomics -/

/-- Loads and stores through the local window (R58, R129, R137, R172, R176 to R179): with the bank in the slot and the bytes
inside it, `ld`, `st` and the 64-byte `vld` and `vst` (R81): a relaxed load returns the bank's bytes four cc later, an acquire load at once, and a store writes exactly the
bytes of its type at the address that the pointer and the displacement give; the tag of each region that it touches, where it is not
0, becomes 15, and nothing else changes. Where the address is not aligned, a relaxed access is made part by part, and this is so once
all are made, nothing else happening meanwhile. An acquire load or a vector access that is not aligned traps with MISALIGN.
Rests on the model's choices of log entry 24. -/
def Obligations.LocalWindowAccesses : Prop :=
  (∀ (h : Hdr) (ty : ETy) (r base : SReg) (disp : BitVec 12) (sc : Scope) (s : State) (p pkg : Nat),
    s.issues h {} = true → s.me.unresolved = none → displace (s.me.rs base).toNat (dispBytes ty disp) = some p →
    p / 2 ^ 48 = 0x1000 → p % 2 ^ 48 < 0x200000 → p % 65536 + ty.size ≤ 65536 →
    s.openSlot s.cur (p % 2 ^ 48 / 65536) = .ok pkg → s.bankBusy s.cur .ls pkg = false →
    let off := p % 65536
    let at_ := pkg * 65536 + off
    let ends : Instr → State → Prop := fun i t =>
      if off % ty.size = 0 then exec i s = .next t
      else (∀ d ∈ s.drains s.cur (p % 2 ^ 48 / 65536), d.1 ≤ s.nonce) → Carries i s t
    let x : OpLd := { ty := ty, r := r, base := base, disp := disp }
    let y : OpLdO := { ty := ty, r := r, sc := sc, base := base, disp := disp }
    let stores : Instr → Prop := fun i => ∃ t : State, ends i (t.goOn h) ∧ t.me = s.me ∧ t.mem = s.mem ∧
      (∀ c, c ≠ s.cur → t.core c = s.core c) ∧ (∀ y, t.ctx s.cur y = s.ctx s.cur y) ∧
      ({ t.mycore with ctxs := [] } : Core) = { s.mycore with ctxs := [] } ∧
      t.banks = s.banks.write at_ ty.size (codeS s.me ty r) ∧
      (∀ a, a < at_ ∨ at_ + ty.size ≤ a → t.banks.byte a = s.banks.byte a) ∧
      (∀ b g, g < 16 → t.tag b g =
        if b = pkg ∧ (g = off / 4096 ∨ g = (off + ty.size - 1) / 4096) ∧ s.tag b g ≠ 0 then 15 else s.tag b g)
    (s.bankBad pkg off ty.size = false →
      let l : Load :=
        { id := s.nonce, ctx := s.curCtx, reg := .s r.toNat, ty := ty, val := some (s.bankRead pkg off ty.size)
          due := s.mycore.cc + 4, exposed := true }
      ends (.ld h x) ((s.setMycore { s.mycore with loads := s.mycore.loads ++ [l] }).goOn h)) ∧
    (s.bankBad pkg off ty.size = false → off % ty.size = 0 →
      exec (.ldAcq h y) s = .next (s.wroteS h r (widen ty (s.bankRead pkg off ty.size)))) ∧
    (off % ty.size ≠ 0 → exec (.ldAcq h y) s =
      s.trapOut { cause := 0x04, detail := 0, resume := s.me.pc, fpc := s.me.pc, va := p, ipa := 0, jrn := none, async := false }) ∧
    stores (.st h x) ∧ (off % ty.size = 0 → s.quiet s.cur s.curCtx = true → stores (.stRel h y))) ∧
  (∀ (h : Hdr) (v : OpVMem) (s : State) (p pkg : Nat),
    s.issues h {} = true → s.me.unresolved = none → displace (s.me.rs v.base).toNat (dispBytes v.ty v.disp) = some p →
    p / 2 ^ 48 = 0x1000 → p % 2 ^ 48 < 0x200000 →
    let off := p % 65536
    let at_ := pkg * 65536 + off
    (off % 64 ≠ 0 → ∀ i ∈ [Instr.vld h v, .vst h v], exec i s =
      s.trapOut { cause := 0x04, detail := 0, resume := s.me.pc, fpc := s.me.pc, va := p, ipa := 0, jrn := none, async := false }) ∧
    (off % 64 = 0 → s.openSlot s.cur (p % 2 ^ 48 / 65536) = .ok pkg → s.bankBusy s.cur .ls pkg = false →
      (s.bankBad pkg off 64 = false →
        let l : Load :=
          { id := s.nonce, ctx := s.curCtx, reg := .v v.v.toNat, ty := v.ty, val := some (s.bankRead pkg off 64)
            due := s.mycore.cc + 4, exposed := true }
        exec (.vld h v) s = .next ((s.setMycore { s.mycore with loads := s.mycore.loads ++ [l] }).goOn h)) ∧
      ∃ t : State, exec (.vst h v) s = .next (t.goOn h) ∧ t.me = s.me ∧ t.mem = s.mem ∧ (∀ c, t.core c = s.core c) ∧
        t.banks = s.banks.write at_ 64 (s.me.rv v.v).toNat ∧ t.tag pkg (off / 4096) = (if s.tag pkg (off / 4096) = 0 then 0 else 15) ∧
        (∀ b g, g < 16 → (b ≠ pkg ∨ g ≠ off / 4096) → t.tag b g = s.tag b g))) ∧
  (∀ (c : Nat) (s : State) (l : Load) (i : VReg) (v : Nat), (s.core c).loads = [l] → l.exposed = true → l.due ≤ (s.core c).cc →
    l.reg = .v i.toNat → l.val = some v → (s.ctx c l.ctx).mid = none →
    ((s.returnDue c).ctx c l.ctx).rv i = BitVec.ofNat 512 v ∧ RegsKept [.v i.toNat] (s.ctx c l.ctx) ((s.returnDue c).ctx c l.ctx)) ∧
  (∀ (c : Nat) (s : State) (l : Load) (i : SReg) (v : Nat), (s.core c).loads = [l] → l.exposed = true → l.due ≤ (s.core c).cc →
    l.reg = .s i.toNat → l.val = some v → (s.ctx c l.ctx).mid = none →
    ((s.returnDue c).core c).loads = [] ∧ ((s.returnDue c).ctx c l.ctx).rs i = (if i = 0 then 0 else widen l.ty v) ∧
    RegsKept [.s i.toNat] (s.ctx c l.ctx) ((s.returnDue c).ctx c l.ctx))

/-- An access of the issuing context that has left with a destination, and has not been performed. -/
def sentAs (s t : State) (d : Dest) (k : AKind) (size v : Nat) (j : Option Nat) : Prop :=
  MemoryKept s t ∧ ∃ a, t.net = s.net ++ [a] ∧ a.id = s.nonce ∧ a.core = s.cur ∧ a.ctx = s.curCtx ∧ a.kind = k ∧
    a.dest = d ∧ a.size = size ∧ a.data = v ∧ a.jrn = j ∧ a.group = s.nonce ∧ a.at_ = 0 ∧ a.performed = false ∧
    a.refused = none

/-- A load leaves, and its context goes on with the register pending. -/
def loadLeaves (h : Hdr) (s : State) (i : Instr) (d : Dest) (g : Reg) (ty : ETy) (size : Nat) : Prop :=
  ∃ t : State, exec i s = .next (t.goOn h) ∧ t.me = s.me ∧ t.mycore.loads = s.mycore.loads ++ [pendingLoad s g ty] ∧
    sentAs s t d .load size 0 none

/-- A load leaves, and its context waits for it. -/
def loadWaits (h : Hdr) (s : State) (i : Instr) (d : Dest) (g : Reg) (ty : ETy) (size : Nat) : Prop :=
  ∃ t : State, exec i s = .next (t.begun h) ∧ t.me = { s.me with wait := .access s.nonce } ∧
    t.mycore.loads = s.mycore.loads ++ [pendingLoad s g ty] ∧ sentAs s t d .load size 0 none

/-- A store leaves with the journal entry e, and its context goes on. -/
def storeLeaves (h : Hdr) (s : State) (i : Instr) (d : Dest) (size v e : Nat) : Prop :=
  ∃ t : State, exec i s = .next (t.goOn h) ∧ t.me = s.me ∧ t.mycore.loads = s.mycore.loads ∧
    t.mycore.journal = insertSet e s.mycore.journal ∧ sentAs s t d .store size (v % 256 ^ size) (some e)

/-- Where the bytes of an aligned space-0 access lie: they translate at a level for an access code to existing, sound bytes
at device address a, of a home agent that is there, by the entry e. -/
def bytesAt (s : State) (va size level acc a : Nat) (e : Tlb) : Prop :=
  va + size ≤ 2 ^ 48 ∧ va % size = 0 ∧ s.me.ticket = none ∧ s.hub.absent = [] ∧
    s.translate s.cur (s.vdevOf s.cur) s.me.xlat.toNat level va size acc false = .ok [(a, size)] [e] ∧
    e.kind ≠ 3 ∧ e.dirty = true ∧ s.devOk a = true ∧ s.memBad a size = false

/-- The home agent of such bytes. -/
def homeAt (size a : Nat) (e : Tlb) : Dest := .dev [(a, size)] [homeOf e a]

/-- Aligned loads and stores of the spaces 0, 2, 3 and 4, the vector forms too, and prefetch (R81, R137, R138, R174 to R182),
where the bytes translate, exist and may be reached: the access leaves with its home agents, the window or the host as
destination; a relaxed load of spaces 0 and 4 leaves its register pending and goes on, an acquire, remote or host load
waits for its value, and a store takes the lowest free journal entry and goes on; only a release store waits for the context's earlier
accesses (R139). Memory changes only when the access is
performed. A prefetch of space 0 or 3 fills the core's TLB from its cluster's, or starts a walk that nothing waits for.
Rests on the model's choices of log entries 24, 94 and 106. -/
def Obligations.GlobalAndHostAccesses : Prop :=
  (∀ (h : Hdr) (ty : ETy) (r base : SReg) (disp : BitVec 12) (sc : Scope) (s : State) (p : Nat),
    s.issues h {} = true → s.me.unresolved = none → displace (s.me.rs base).toNat (dispBytes ty disp) = some p →
    p % 2 ^ 48 % ty.size = 0 →
    let x : OpLd := { ty := ty, r := r, base := base, disp := disp }
    let y : OpLdO := { ty := ty, r := r, sc := sc, base := base, disp := disp }
    let loads : Dest → Instr → Prop := fun d i => loadLeaves h s i d (.s r.toNat) ty ty.size
    let waits : Dest → Instr → Prop := fun d i => loadWaits h s i d (.s r.toNat) ty ty.size
    let stores : Dest → Instr → Prop := fun d i => ∀ e, s.journalSlot s.cur = some e → storeLeaves h s i d ty.size (codeS s.me ty r) e
    let releases : Dest → Instr → Prop := fun d i => s.quiet s.cur s.curCtx = true → stores d i
    (∀ a t, p < 2 ^ 48 → (∀ acc, acc < 2 → bytesAt s p ty.size s.me.level acc a t) →
      let d := homeAt ty.size a t
      loads d (.ld h x) ∧ loads d (.ldg h x) ∧ waits d (.ldAcq h y) ∧ waits d (.ldgAcq h y) ∧
      stores d (.st h x) ∧ stores d (.stg h x) ∧ releases d (.stRel h y) ∧ releases d (.stgRel h y)) ∧
    (∀ d slot off, s.resolve s.cur p = some (.rem d slot off) → s.reaches s.cur (clusterOf d) = true → s.hub.absent = [] →
      off + ty.size ≤ 65536 →
      waits (.slot d slot off) (.ld h x) ∧ waits (.slot d slot off) (.ldAcq h y) ∧
      stores (.slot d slot off) (.st h x) ∧ releases (.slot d slot off) (.stRel h y)) ∧
    (∀ off a t, s.resolve s.cur p = some (.shape off) →
      bytesAt s (bits (fieldB (s.recordOf s.cur) 8 8) 47 0 + off) ty.size 1 0 a t → loads (homeAt ty.size a t) (.ld h x)) ∧
    (p / 2 ^ 48 = 0x3000 → s.hostOk s.cur = true →
      let d := Dest.host (p % 2 ^ 48)
      waits d (.ldh h x) ∧ stores d (.sth h x) ∧ (sc = .sys → waits d (.ldhAcq h y) ∧ releases d (.sthRel h y))) ∧
    (let z : OpPref := { ty := ty, base := base, disp := disp }
     let va := p % 2 ^ 48
     let asid := xlatAsid s.me.xlat.toNat
     let first := tlbHit s.mycore.l1 asid va
     let second := tlbHit (s.cluster (clusterOf s.cur)).l2 asid va
     ∃ t : State, exec (.pref h z) s = .next (t.goOn h) ∧ t.me = s.me ∧ t.net = s.net ∧ MemoryKept s t ∧
      (p / 2 ^ 48 = 0 ∨ p / 2 ^ 48 = 0x3000 →
        (first = none → second = none → t.mycore.l1 = s.mycore.l1 ∧ t.walks.length = s.walks.length + 1 ∧
          ∃ w ∈ t.walks, w.core = s.cur ∧ w.va = va ∧ w.pref = true ∧ w.fault = none) ∧
        (first.isSome = true → t.mycore.l1 = s.mycore.l1 ∧ t.walks = s.walks) ∧
        (∀ f, first = none → second = some f → t.mycore.l1 = tlbAdd 128 f s.mycore.l1 ∧ t.walks = s.walks)))) ∧
  (∀ (h : Hdr) (v : OpVMem) (s : State) (p : Nat),
    s.issues h {} = true → s.me.unresolved = none → displace (s.me.rs v.base).toNat (dispBytes v.ty v.disp) = some p →
    p % 2 ^ 48 % 64 = 0 →
    let stores : Dest → Prop := fun d => ∀ e, s.journalSlot s.cur = some e → storeLeaves h s (.vst h v) d 64 (s.me.rv v.v).toNat e
    (∀ a t, p < 2 ^ 48 → (∀ acc, acc < 2 → bytesAt s p 64 s.me.level acc a t) →
      loadLeaves h s (.vld h v) (homeAt 64 a t) (.v v.v.toNat) v.ty 64 ∧ stores (homeAt 64 a t)) ∧
    (∀ d slot off, s.resolve s.cur p = some (.rem d slot off) → s.reaches s.cur (clusterOf d) = true → s.hub.absent = [] →
      loadWaits h s (.vld h v) (.slot d slot off) (.v v.v.toNat) v.ty 64 ∧ stores (.slot d slot off)) ∧
    (∀ off a t, s.resolve s.cur p = some (.shape off) →
      bytesAt s (bits (fieldB (s.recordOf s.cur) 8 8) 47 0 + off) 64 1 0 a t →
      loadLeaves h s (.vld h v) (homeAt 64 a t) (.v v.v.toNat) v.ty 64))

/-- The journey of an access (R129, R137, R138, R144, R145, R149, R151, R161, R181, R267, R268): on its way to another die it
enters a buffer, where a load takes the bytes of the youngest buffered store that covers it; its arrival performs it at its
home or bank, or refuses it there, or where a bridge on its way has failed (R205, R283); the acknowledgement of its last part frees the journal entry; the value of its last part
reaches its register with what the others gave, and a context that waited goes on at the next instruction; a refusal pends
REMOTE_REFUSED once; a walk that a walker has taken fills the TLBs or leaves its fault.
The host's completion counts within 50,000 ticks (R181). Rests on the model's choices of log entries 6, 24, 55, 80, 87, 103 and 113. -/
def Obligations.AccessEvents : Prop :=
  (∀ (id : Nat) (s : State) (a : Access), s.access? id = some a →
    let k := s.ctx a.core a.ctx
    let rest := (s.dropAccess id).net.find? (·.group == a.group)
    let gives : Instr → Nat → Prop := fun ev v =>
      (∀ b, rest = some b → exec ev s = .next ((s.dropAccess id).setAccess
        { b with got := b.got + (a.got + v * 256 ^ a.at_), told := b.told || a.told })) ∧
      ∀ (l : Load) (i : SReg), rest = none → (s.core a.core).loads.find? (·.id == a.group) = some l → l.reg = .s i.toNat →
        s.aliveFor a = true →
        ∃ t : State, exec ev s = .next t ∧ MemoryKept s t ∧ t.net = s.net.filter (·.id != id) ∧
          (t.ctx a.core a.ctx).rs i = (if i = 0 then 0 else widen l.ty (a.got + v * 256 ^ a.at_)) ∧
          RegsKept [.s i.toNat] k (t.ctx a.core a.ctx) ∧
          (k.wait = .access a.group → (t.ctx a.core a.ctx).wait = .none ∧ (t.ctx a.core a.ctx).pc = (k.pc + 12) % 2 ^ 48) ∧
          (k.wait ≠ .access a.group → (t.ctx a.core a.ctx).wait = k.wait ∧ (t.ctx a.core a.ctx).pc = k.pc)
    (s.mayEnter a = true →
      (a.kind ≠ .load ∨ (∀ b, youngest (s.bridgeStores a) = some b → forwardFrom a b = none) →
        exec (.accessArrival id) s = .next (s.fresh.2.setAccess { a with bridged := some s.nonce })) ∧
      (∀ b v, a.kind = .load → youngest (s.bridgeStores a) = some b → forwardFrom a b = some v →
        exec (.accessArrival id) s = .next (s.setAccess { a with performed := true, value := v, crossDie := false }))) ∧
    (s.mayArrive a = true → s.cutOff a = true → exec (.accessArrival id) s = .next (s.setAccess { a with refused := some 0x11 })) ∧
    (∀ q n hs, a.dest = .dev [(q, n)] hs → s.mayArrive a = true → s.hub.absent = [] → s.cutOff a = false →
      (a.kind = .store → ∃ t : State, exec (.accessArrival id) s = .next t ∧ t.cores = s.cores ∧ t.banks = s.banks ∧
        t.mem = s.mem.write q n (a.data % 256 ^ n) ∧ (∀ b, b < q ∨ q + n ≤ b → t.mem.byte b = s.mem.byte b) ∧
        t.access? id = some { a with performed := true, value := 0 }) ∧
      (a.kind = .load → s.memBad q n = false → ∃ t : State, exec (.accessArrival id) s = .next t ∧ t.cores = s.cores ∧
        MemoryKept s t ∧ t.access? id = some { a with performed := true, value := s.mem.read q n })) ∧
    (∀ d sl off, a.dest = .slot d sl off → s.mayArrive a = true → s.hub.absent = [] → a.kind = .store → s.cutOff a = false →
      (∀ pkg, s.bankFor a.core d sl a.id = .ok pkg → ∃ t : State, exec (.accessArrival id) s = .next t ∧ t.mem = s.mem ∧
        t.banks = s.banks.write (pkg * 65536 + off) a.size a.data) ∧
      (∀ c, s.bankFor a.core d sl a.id = .error c → ∃ t : State, exec (.accessArrival id) s = .next t ∧ MemoryKept s t ∧
        t.access? id = some { a with refused := some c.code })) ∧
    (∀ e, a.acked = true → a.jrn = some e → ∃ t : State, exec (.storeAcknowledged id) s = .next t ∧ MemoryKept s t ∧
      t.net.map (fun b => b.id) = (s.net.filter (·.id != id)).map (fun b => b.id) ∧
      (t.core a.core).journal = (if a.told = true ∨ rest.isSome = true then (s.core a.core).journal
        else (s.core a.core).journal.filter (· != e))) ∧
    (s.mayGive a = true → a.refused = none → gives (.loadValueReturn id) a.value) ∧
    (∀ v, a.atHost = true → a.jrn = none → s.time < a.since + 50000 → gives (.hostCompletion id (.success v)) (v % 256 ^ a.size)) ∧
    (∀ c e, a.refused = some c → a.jrn = some e → s.aliveFor a = true → s.rollingBack a.core = false →
      (a.told = true → exec (.remoteRefused id) s = .next (s.acknowledge a)) ∧
      (a.told = false → ∃ t : State, exec (.remoteRefused id) s = .next t ∧ MemoryKept s t ∧
        t.net = (s.net.filter (·.id != id)).map (fun b => if b.group == a.group then { b with told := true } else b) ∧
        (t.core a.core).journal = (s.core a.core).journal ∧
        (let tr : Trap := { cause := 0x0F, detail := c, resume := 0, fpc := a.pc, va := a.va, ipa := 0, jrn := some e, async := true }
         (t.ctx a.core a.ctx).traps = k.traps ++ [tr]))) ∧
    (a.atHost = true → a.since + 50000 ≤ s.time →
      (a.jrn.isSome = true → ∃ t : State, exec (.hostTimeout id) s = .next t ∧ MemoryKept s t ∧
        t.access? id = some { a with refused := some 0x11 }) ∧
      (∀ t, a.jrn = none → s.refuseWaiting a 0x11 1 = some t → exec (.hostTimeout id) s = .next t))) ∧
  (∀ (idx : Nat) (s : State) (w : Walk), s.walks[idx]? = some w → w.fault = none → w.taken = true → s.walkStale w = false →
    w.pref = false →
    (∀ e us, walkBoth s (s.part w.part).vdev w.asid w.root w.va = .ok (e, us) →
      ∃ t : State, exec (.pageWalkFill idx) s = .next t ∧ t.walks.map (·.id) = (s.walks.eraseIdx idx).map (·.id) ∧
        t.banks = s.banks ∧ (t.core w.core).l1 = tlbAdd 128 e (s.core w.core).l1 ∧
        (t.cluster (clusterOf w.core)).l2 = tlbAdd 4096 e (s.cluster (clusterOf w.core)).l2 ∧
        ((s.ctx w.core w.ctx).live = true → (s.ctx w.core w.ctx).born = w.born → (s.ctx w.core w.ctx).wait = .walk →
          (t.ctx w.core w.ctx).wait = .none)) ∧
    (∀ f, walkBoth s (s.part w.part).vdev w.asid w.root w.va = .error f →
      ∃ t : State, exec (.pageWalkFill idx) s = .next t ∧ MemoryKept s t ∧ t.walks.map (·.id) = s.walks.map (·.id) ∧
        (t.walks[idx]?).map (·.fault) = some (some (f.stage, b2n f.bad, f.ipa))))

/-- The ten atomics, each with its operation. -/
def atomics (h : Hdr) (x : OpAtm) : List (Instr × AtmOp) :=
  [(.atmAdd h x, .add), (.atmAnd h x, .and), (.atmOr h x, .or), (.atmXor h x, .xor), (.atmMin h x, .min), (.atmMax h x, .max),
    (.atmFadd h x, .fadd), (.atmSwap h x, .swap), (.atmCas h x, .cas), (.atmIncb h x, .incb)]

/-- The bank atomics (R183 to R185). In the local window the location takes the new value, the register the old one, in one
act; the region's tag, where it is not 0, becomes 15, as for a store (R172); nothing else changes: no other byte, tag, context or core.
Only an ordered form waits for the context's earlier accesses. In the spaces 0 and 2, and in space 3 for what the host supports, the access leaves for its
home; its context waits for the old value, but a relaxed form with s0 as destination is posted and goes on.
Rests on the model's choices of log entries 9 and 87. -/
def Obligations.BankAtomics : Prop :=
  (∀ (h : Hdr) (x : OpAtm) (s : State) (p pkg : Nat), s.issues h {} = true → s.me.unresolved = none →
    displace (s.me.rs x.base).toNat (dispBytes x.ty x.disp) = some p → p / 2 ^ 48 = 0x1000 → p % 2 ^ 48 < 0x200000 →
    p % 65536 % x.ty.size = 0 → p % 65536 + x.ty.size ≤ 65536 → s.openSlot s.cur (p % 2 ^ 48 / 65536) = .ok pkg →
    s.bankBusy s.cur .ls pkg = false → s.bankBad pkg (p % 65536) x.ty.size = false →
    (x.sc.isSome = true → s.quiet s.cur s.curCtx = true) →
    let old := s.bankRead pkg (p % 65536) x.ty.size
    let c := codeS s.me x.ty x.c
    let w := 2 ^ ETy.w x.ty
    let does : Instr → Nat → Prop := fun i new => ∃ t : State, exec i s = .next (t.goOn h) ∧ t.mem = s.mem ∧
      t.banks = s.banks.write (pkg * 65536 + p % 65536) x.ty.size new ∧ t.me = s.me.ws x.a (widen x.ty old) ∧
      (∀ a, a < pkg * 65536 + p % 65536 ∨ pkg * 65536 + p % 65536 + x.ty.size ≤ a → t.banks.byte a = s.banks.byte a) ∧
      (∀ b g, g < 16 → t.tag b g = if b = pkg ∧ g = p % 65536 / 4096 ∧ s.tag b g ≠ 0 then 15 else s.tag b g) ∧
      (∀ y, y ≠ s.curCtx → t.ctx s.cur y = s.ctx s.cur y) ∧ (∀ c, c ≠ s.cur → t.core c = s.core c) ∧
      ({ t.mycore with ctxs := [] } : Core) = { s.mycore with ctxs := [] }
    (x.ty.isAtm = true →
      does (.atmAdd h x) ((old + c) % w) ∧ does (.atmAnd h x) (old &&& c) ∧ does (.atmOr h x) (old ||| c) ∧
      does (.atmXor h x) (old ^^^ c) ∧ does (.atmMin h x) (if intOf x.ty c < intOf x.ty old then c else old) ∧
      does (.atmMax h x) (if intOf x.ty old < intOf x.ty c then c else old) ∧ does (.atmSwap h x) c ∧
      does (.atmCas h x) (if old = c then codeS s.me x.ty (x.c + 1) else old) ∧
      does (.atmIncb h x) (if intOf x.ty old < intOf x.ty c then (old + 1) % w else old)) ∧
    (x.ty.isAtmF = true →
      does (.atmFadd h x) (addF x.ty { mode := x.rnd, sat := false, ovt := 0, conv := false } old c))) ∧
  (∀ (h : Hdr) (x : OpAtm) (s : State) (p : Nat), s.issues h {} = true → s.me.unresolved = none →
    displace (s.me.rs x.base).toNat (dispBytes x.ty x.disp) = some p → p % 2 ^ 48 % x.ty.size = 0 →
    (x.sc.isSome = true → s.quiet s.cur s.curCtx = true) →
    let leaves : Dest → Instr × AtmOp → Prop := fun d i =>
      let k : AKind := .atomic i.2 x.ty x.rnd (codeS s.me x.ty x.c) (if i.2 = .cas then codeS s.me x.ty (x.c + 1) else 0)
      if x.a = 0 ∧ x.sc = none then ∀ e, s.journalSlot s.cur = some e →
        ∃ t : State, exec i.1 s = .next (t.goOn h) ∧ t.me = s.me ∧ t.mycore.journal = insertSet e s.mycore.journal ∧
          sentAs s t d k x.ty.size 0 (some e)
      else
        ∃ t : State, exec i.1 s = .next (t.begun h) ∧ t.me = { s.me with wait := .access s.nonce } ∧
          t.mycore.loads = s.mycore.loads ++ [pendingLoad s (.s x.a.toNat) x.ty] ∧ sentAs s t d k x.ty.size 0 none
    (∀ a t, p < 2 ^ 48 → bytesAt s p x.ty.size s.me.level 2 a t → ∀ i ∈ atomics h x, leaves (homeAt x.ty.size a t) i) ∧
    (∀ d slot off, s.resolve s.cur p = some (.rem d slot off) → s.reaches s.cur (clusterOf d) = true → s.hub.absent = [] →
      off + x.ty.size ≤ 65536 → ∀ i ∈ atomics h x, leaves (.slot d slot off) i) ∧
    (p / 2 ^ 48 = 0x3000 → s.hostOk s.cur = true → (x.sc = none ∨ x.sc = some .sys) → x.ty.isAtm = true →
      (Config.hostAtomic 0 x.ty.size = true → leaves (.host (p % 2 ^ 48)) (.atmAdd h x, .add)) ∧
      (Config.hostAtomic 1 x.ty.size = true → leaves (.host (p % 2 ^ 48)) (.atmSwap h x, .swap)) ∧
      (Config.hostAtomic 2 x.ty.size = true → leaves (.host (p % 2 ^ 48)) (.atmCas h x, .cas))))

/-! ### Class 0xA: fences -/

/-- Fences (R19, R139, R147, R148, R155, R186): a fence of every scope goes on once the context's accesses are performed and
acknowledged, and does not issue before; a taken branch behind a `fence.core` lets its context see the code as it then
stands; `fence.pkg` needs the grant and waits for the replies of four bridges; `fencep`
waits for its path; a split fence gives a token, and its wait goes on once no older store is open.
Rests on the model's choices of log entries 22, 23, 79, 81 and 87. -/
def Obligations.Fences : Prop :=
  (∀ (h : Hdr) (x : OpFencep) (a b : SReg) (s : State), s.issues h {} = true →
    (∀ i ∈ [Instr.fenceCtx h, .fenceClu h, .fenceDie h, .fenceSys h],
      exec i s = .next (if s.quiet s.cur s.curCtx then s.goOn h else s.held)) ∧
    exec (.fenceCore h) s = .next (if s.quiet s.cur s.curCtx then (s.setMe { s.me with fenced := true }).goOn h else s.held) ∧
    (∀ off, s.me.fenced = true →
      ∃ t : State, exec (.br h off) s = .next t ∧ t.me.code = s.mem ∧ t.me.fenced = false) ∧
    exec (.fencep h x) s = .next (if s.pathQuiet s.cur s.curCtx x.src then s.goOn h else s.held) ∧
    (s.me.unresolved = none → s.me.grant = true →
      exec (.fencePkg h) s = .next ((s.setMe { s.me with wait := .marker s.nonce [0, 1, 2, 3] }).begun h)) ∧
    (s.me.unresolved = none → s.me.grant = false → exec (.fencePkg h) s =
      s.trapOut { cause := 0x08, detail := 0, resume := s.me.pc, fpc := s.me.pc, va := 0, ipa := 0, jrn := none, async := false }) ∧
    (s.me.unresolved = none → s.openTokens.length < 4 →
      let q := (s.me.fseq + 1) % 65536
      ∃ k, exec (.fiss h a) s = .next ((s.setMe k).goOn h) ∧ k.fseq = q ∧
        k.rs a = (if a = 0 then 0 else BitVec.ofNat 64 (2 ^ 63 + q)) ∧ RegsKept [.s a.toNat] s.me k ∧
        k.tokens = s.openTokens ++ [(q, (s.net.filter (fun e => s.owned e s.cur s.curCtx && e.kind != .load)).map (·.id))]) ∧
    (∀ q, q < 65536 → s.me.rs b = BitVec.ofNat 64 (2 ^ 63 + q) → s.me.fseq < 65536 →
      ((q + 65536 - s.me.fseq) % 65536 = 0 ∨ 32767 < (q + 65536 - s.me.fseq) % 65536) →
      exec (.fwait h b) s = .next (if s.openTokens.any (fun e => decide ((q + 65536 - e.1) % 65536 < 32768)) then s.held
        else s.goOn h))) ∧
  (∀ (c x die since : Nat) (ds : List Nat) (s : State), (s.ctx c x).wait = .marker since ds → s.mayReply c x die = true →
    let r := ds.filter (· != die)
    (r ≠ [] → exec (.drainMarkerReply c x die) s = .next (s.setCtx c x { s.ctx c x with wait := .marker since r })) ∧
    (r = [] → ∃ t : State, exec (.drainMarkerReply c x die) s = .next t ∧ (t.ctx c x).wait = .none ∧
      (t.ctx c x).pc = ((s.ctx c x).pc + 12) % 2 ^ 48 ∧ MemoryKept s t ∧ RegsKept [] (s.ctx c x) (t.ctx c x)))


/-! ### Class 0xA: transactions -/

/-- Transactions (R187 to R189, R204, R209, R214): a declared slice joins the claim set under its home agent; a
submission waits; its acceptance gives the ticket of a beat no earlier than now with fewer than 64 submissions, and puts the claim set into
it, or no slice where the die's bridge has failed (R205); the wait opens the transaction once no grant is missing; the end gives every
slice back. Rests on the model's choices of log entries 27, 28, 30, 87 and 103. -/
def Obligations.Transactions : Prop :=
  (∀ (h : Hdr) (a b : SReg) (s : State), s.issues h {} = true →
    let k := s.me
    let p := (k.rs b).toNat
    (∀ w at_ e, p < 2 ^ 48 → p % 256 = 0 → k.ticket = none → k.claims.length < 32 →
      s.translate s.cur (s.vdevOf s.cur) k.xlat.toNat k.level p 1 (b2n w) false = .ok [(at_, 1)] [e] →
      e.kind < 2 → s.devOk at_ = true →
      let sl := homeOf e at_ * 2 ^ 48 + at_ % 2 ^ 48
      (∀ c ∈ k.claims, c.1 ≠ sl) →
      exec (if w then .txdeclW h b else .txdeclR h b) s = .next ((s.setMe { k with claims := k.claims ++ [(sl, w)] }).goOn h)) ∧
    (k.unresolved = none → k.claims ≠ [] → k.ticket = none →
      ∃ t : State, exec (.txsub h a) s = .next (t.begun h) ∧ MemoryKept s t ∧ t.submits = s.submits ++ [(s.cur, s.curCtx)] ∧
        t.me = { k with wait := .submit a.toNat }) ∧
    (k.ticket = some p → k.lostDies = [] →
      exec (.txwait h b) s = .next (if k.wanting.isEmpty then (s.setMe { k with txOpen := true }).goOn h else s.held)) ∧
    (k.unresolved = none → k.ticket = some p → k.lostDies = [] → k.wanting = [] → s.quiet s.cur s.curCtx = true →
      ∃ t : State, exec (.txend h b) s = .next (t.goOn h) ∧ MemoryKept s t ∧ RegsKept [] k t.me ∧
        t.me.ticket = none ∧ t.me.claims = [] ∧ t.me.grants = [] ∧ t.me.txOpen = false ∧
        t.releases = s.releases ++ s.slices.filter (fun e => e.born == k.born && some e.ticket == k.ticket))) ∧
  (∀ (c x r : Nat) (s : State), c < 1536 → (s.ctx c x).wait = .submit r → (s.ctx c x).live = true → (c, x) ∈ s.submits →
    ∃ (t : State) (b ix : Nat), exec (.submissionAccepted c x) s = .next t ∧ MemoryKept s t ∧ beatOf s.time ≤ b ∧ ix < 64 ∧
      let k := t.ctx c x
      k.ticket = some (ticketOf b (dieOf c) ix x) ∧ k.claims = (s.ctx c x).claims ∧ k.grants = [] ∧ k.wait = .none ∧
      k.rs (BitVec.ofNat 5 r) = (if BitVec.ofNat 5 r = 0 then 0 else BitVec.ofNat 64 (ticketOf b (dieOf c) ix x)) ∧
      k.pc = ((s.ctx c x).pc + 12) % 2 ^ 48 ∧ (c, x) ∉ t.submits ∧
      ∃ u, (t.seqOf (dieOf c)).open_ = (s.seqOf (dieOf c)).open_ ++ [u] ∧ u.beat = b ∧ u.core = c ∧ u.ctx = x ∧
        u.slices = (if dieOf c ∈ s.hub.failed then [] else (s.ctx c x).claims) ∧ u.ticket = ticketOf b (dieOf c) ix x)

/-- The sequencers and the slice queues (R189, R205 to R209): a sequencer closes the beats that have passed, applies the
merged batch of the next one in order and goes on from an entry that did not fit; a home agent grants what R208 lets it
grant and removes what is released, which leaves once the context's posted stores are acknowledged or refused (R212); a
transaction held for 65,536 cc pends TX_HOLD. Rests on the model's choices of log entry 29. -/
def Obligations.SequencersAndSlices : Prop :=
  (∀ (d : Nat) (s : State), d < 4 →
    (s.mayClose d = true → ∃ t : State, exec (.batchClose d) s = .next t ∧ MemoryKept s t ∧
      t.seqOf d = { s.seqOf d with closed := beatOf s.time } ∧ ∀ e, e ≠ d → t.seqOf e = s.seqOf e) ∧
    (∀ b, s.nextBeat d = some b → s.mayApply d = true → s.hub.absent = [] →
      let es := ((List.range 4).flatMap (fun e => (s.seqOf e).open_.filter (fun u => u.beat == b))).flatMap (fun u =>
        (u.slices.filter (fun c => onDie d c.1)).map (fun c =>
          ({ addr := c.1, write := c.2, core := u.core, ctx := u.ctx, born := u.born, ticket := u.ticket, granted := false } : Slice)))
      s.slices.length + es.length ≤ 256 →
      ∃ t : State, exec (.batchApply d) s = .next t ∧ MemoryKept s t ∧ t.slices = s.slices ++ es ∧
        (t.seqOf d).applied = b + 1 ∧ (t.seqOf d).rest = []) ∧
    (∀ e r, (s.seqOf d).rest = e :: r → s.sliceRoom e = true →
      ∃ t : State, exec (.sequencerApplyResume d) s = .next t ∧ MemoryKept s t ∧ ∃ l, t.slices = s.slices ++ e :: l)) ∧
  (∀ (i : Nat) (s : State) (e : Slice), s.slices[i]? = some e → s.mayGrant i = true →
    (e.write = true → ∀ j f, j < i → s.slices[j]? = some f → f.addr ≠ e.addr) ∧
    ∃ t : State, exec (.sliceGrant i) s = .next t ∧ MemoryKept s t ∧ t.slices = s.slices.set i { e with granted := true } ∧
      ((s.ctx e.core e.ctx).born = e.born → (s.ctx e.core e.ctx).ticket = some e.ticket →
        (t.ctx e.core e.ctx).grants = (s.ctx e.core e.ctx).grants ++ [e.addr] ∧
        (t.ctx e.core e.ctx).lastGrant = (s.core e.core).cc)) ∧
  (∀ (i : Nat) (s : State) (e : Slice), s.releases[i]? = some e → s.mayRelease i = true →
    ∃ t : State, exec (.sliceRelease i) s = .next t ∧ MemoryKept s t ∧ t.releases = s.releases.eraseIdx i ∧
      (∀ f ∈ t.slices, ¬ (f.addr = e.addr ∧ f.born = e.born ∧ f.ticket = e.ticket)) ∧
      (∀ f ∈ s.slices, ¬ (f.addr = e.addr ∧ f.born = e.born ∧ f.ticket = e.ticket) → f ∈ t.slices)) ∧
  (∀ (i : Nat) (s : State), s.mayRelease i = true → ∃ e, s.releases[i]? = some e ∧
    ∀ a ∈ s.net, ¬ (a.core = e.core ∧ a.ctx = e.ctx ∧ a.born = e.born ∧ a.jrn.isSome = true ∧ a.refused = none)) ∧
  (∀ (c x : Nat) (s : State), s.mayHold c x = true →
    ∃ (t : State) (tr : Trap), exec (.txHold c x) s = .next t ∧ MemoryKept s t ∧
      (t.ctx c x).traps = (s.ctx c x).traps ++ [tr] ∧ tr.cause = 0x0E ∧ tr.async = true ∧
      (t.ctx c x).lastGrant = (s.core c).cc)

/-! ### Class 0xB: banks -/

/-- The bank instructions (R162, R163, R165, R168, R170, R191): `battach` hitches a Free bank of the core's cluster,
`bhand` empties the slot and lets the bank drain towards its target, `bwait` goes on with a bank in the slot or
accepts the one that waits, `bstat` reads the slot's state, `bswz` sets a region's tag and moves no byte, `brevoke`
takes a bank of the partition out of its slot and lets it be wiped. The attach tables' events (R163 to R168): at the
hand-over point a drained bank is in transit to its target; a returning bank comes back into its empty slot, where the unit that sent it
is on its core; a wiped bank is Free, with 65,536 zero bytes and tags 0, and no other bank changes.
Rests on the model's choices of log entries 34, 42, 81, 87, 105 and 114. -/
def Obligations.BanksChangeHands : Prop :=
  (∀ (h : Hdr) (x : OpSlotC) (y : OpASlot) (z : OpSCode) (b : SReg) (s : State), s.issues h {} = true → s.me.unresolved = none →
    let c := s.cur
    let n := x.slot.toNat
    let v := (s.me.rs x.c).toNat
    (v < 60 → s.slotBank c n = none → (s.hitch (clusterOf c * 64 + v)).st = .free →
      ∃ t : State, exec (.battach h x) s = .next (t.goOn h) ∧ t.me = s.me ∧ MemoryKept s t ∧
        t.slotBank c n = some (clusterOf c * 64 + v) ∧ (∀ m, m ≠ n → t.slotBank c m = s.slotBank c m) ∧
        t.hitch (clusterOf c * 64 + v) = { Hitch.reset with st := .hitched, holder := c, slot := n, owner := s.mycore.unit } ∧
        (∀ p, p ≠ clusterOf c * 64 + v → t.hitch p = s.hitch p)) ∧
    (∀ pkg, s.openSlot c n = .ok pkg → v < 1536 → v ≠ c → (s.cluster (clusterOf v)).part = (s.cluster (clusterOf c)).part →
      s.reaches c (clusterOf v) = true → reachable pkg v = true →
      ∃ t : State, exec (.bhand h x) s = .next (t.goOn h) ∧ t.me = s.me ∧ MemoryKept s t ∧ t.slotBank c n = none ∧
        t.hitch pkg = { st := .draining, holder := c, slot := n, target := v, order := s.nonce, doomed := false,
                        owner := s.mycore.unit, dest := s.unitAt c v } ∧
        (∀ p, p ≠ pkg → t.hitch p = s.hitch p) ∧ Tab.get? t.mycore.outb n = some { status := 1, pkg := pkg }) ∧
    ((s.slotBank c n).isSome = true → exec (.bwait h x.slot) s = .next (s.goOn h)) ∧
    (s.slotBank c n = none → s.waiting c n = none → exec (.bwait h x.slot) s = .next s.held) ∧
    (∀ pkg, s.slotBank c n = none → s.waiting c n = some pkg →
      ∃ t : State, exec (.bwait h x.slot) s = .next (t.goOn h) ∧ MemoryKept s t ∧ RegsKept [] s.me t.me ∧ t.slotBank c n = some pkg ∧
        t.hitch pkg = { Hitch.reset with st := .hitched, holder := c, slot := n, owner := s.mycore.unit }) ∧
    (∃ w : Nat, exec (.bstat h y) s = .next (s.wroteS h y.a (BitVec.ofNat 64 w)) ∧
      let m := y.slot.toNat
      let o := Tab.getD s.mycore.outb m { status := 0, pkg := 0 }
      (o.pkg < 2 ^ 14 → ∀ pkg, s.slotBank c m = some pkg → pkg < 2 ^ 14 →
        bits w 28 27 = (if m ∈ s.mycore.frozen then 2 else 1) ∧ bits w 26 13 = pkg ∧ w / 2 ^ 29 = o.status) ∧
      (o.pkg < 2 ^ 14 → s.slotBank c m = none →
        bits w 28 27 = (if (s.waiting c m).isSome then 3 else 0) ∧ bits w 26 13 = o.pkg ∧ w / 2 ^ 29 = o.status)) ∧
    (∀ pkg, let p := (s.me.rs z.b).toNat
      p / 2 ^ 48 = 0x1000 → p % 2 ^ 48 < 0x200000 → p % 4096 = 0 → s.openSlot c (p % 2 ^ 48 / 65536) = .ok pkg →
      s.bankBusy c .ls pkg = false →
      ∃ t : State, exec (.bswz h z) s = .next (t.goOn h) ∧ t.me = s.me ∧ t.mem = s.mem ∧ t.banks = s.banks ∧
        t.tag pkg (p % 65536 / 4096) = z.code.toNat ∧
        (∀ q g, q * 16 + g ≠ pkg * 16 + p % 65536 / 4096 → t.tag q g = s.tag q g)) ∧
    (let pkg := (s.me.rs b).toNat
     1 ≤ s.me.level → pkg < 192 * 64 → pkg % 64 < 60 → (s.cluster (pkg / 64)).part = (s.cluster (clusterOf c)).part →
      ∃ t : State, exec (.brevoke h b) s = .next (t.goOn h) ∧ MemoryKept s t ∧ RegsKept [] s.me t.me ∧
        t.hitch pkg = { Hitch.reset with st := .wiping } ∧
        (s.slotBank (s.hitch pkg).holder (s.hitch pkg).slot = some pkg → t.slotBank (s.hitch pkg).holder (s.hitch pkg).slot = none))) ∧
  (∀ (pkg : Nat) (s : State),
    let k := s.hitch pkg
    (s.mayHandOver pkg = true → k.doomed = false → (s.core k.target).dead = false →
      ∃ t : State, exec (.handoverPoint pkg) s = .next t ∧ MemoryKept s t ∧
        t.hitch pkg = { k with st := .transit, order := s.nonce } ∧ ∀ p, p ≠ pkg → t.hitch p = s.hitch p) ∧
    (s.mayHandOver pkg = true → k.doomed = true →
      ∃ t : State, exec (.handoverPoint pkg) s = .next t ∧ MemoryKept s t ∧ (t.hitch pkg).st = .frozen) ∧
    (s.mayReturn pkg = true → (s.core k.holder).dead = false → s.senderAway pkg = none → s.slotBank k.holder k.slot = none →
      ∃ t : State, exec (.bankReturn pkg) s = .next t ∧ MemoryKept s t ∧ t.slotBank k.holder k.slot = some pkg ∧
        t.hitch pkg = { Hitch.reset with st := .hitched, holder := k.holder, slot := k.slot, owner := (s.core k.holder).unit }) ∧
    (k.st = .wiping →
      ∃ t : State, exec (.bankWipeDone pkg) s = .next t ∧ t.mem = s.mem ∧ t.hitch pkg = Hitch.reset ∧
        (∀ a, t.banks.byte a = if a / 65536 = pkg then 0 else s.banks.byte a) ∧
        (∀ q g, g < 16 → t.tag q g = if q = pkg then 0 else s.tag q g)))

/-! ### Class 0xC: engines and queue registers -/

/-- Starting engine work, queue registers and user interrupts (R136, R192, R196 to R202, R328). A start whose checks hold
hands its chain to the channel, or its gather or contribution to the engine, and goes on; under an unresolved branch it
goes into the commit buffer. A start on a swap channel reads the strands of its chain for their destination pages first. `cpwait`
consumes a finished identifier, whose completion its context has then observed (R155); so has one that takes an engine's item from q5 to
q7, or the interrupt of a transfer. The queues are first in, first out, of sixteen items. An interrupt goes to its handler with the pc
saved, and `uiret` returns there. Rests on the model's choices of log entries 36, 81, 86 and 87. -/
def Obligations.EngineInstructions : Prop :=
  (∀ (h : Hdr) (x : OpQGo) (id : BitVec 16) (y : OpQPush) (z : OpQPop) (s : State), s.issues h {} = true →
    let k := s.mycore
    let tr : Nat → Nat → Out := fun c d =>
      s.trapOut { cause := c, detail := d, resume := s.me.pc, fpc := s.me.pc, va := 0, ipa := 0, jrn := none, async := false }
    let head := (s.me.rs x.b).toNat
    let free := s.me.unresolved = none ∧ ∀ e ∈ k.commit, e.ctx ≠ s.curCtx
    let given : Instr → Nat → State → List (Nat × Bool) → Prop := fun i n u r =>
      (∃ (t : State) (a : Chain), exec i s = .next (t.goOn h) ∧ t.me = s.me ∧ MemoryKept u t ∧ t.chains = s.chains ++ [a] ∧
        a.chan = n ∧ a.cur = head ∧ a.q = x.q.toNat ∧ a.ident = x.id.toNat ∧ a.core = s.cur ∧ a.ctx = s.curCtx ∧ a.first = true ∧
        a.unit = (if s.me.inUnit then k.unit else none) ∧ a.mode = 0 ∧ (t.part (s.partOf s.cur)).residence = r)
    let begun : Instr → (State → List Work) → Prop := fun i f =>
      ∃ (t : State) (w : Work), exec i s = .next (t.goOn h) ∧ t.me = s.me ∧ MemoryKept s t ∧ f t = f s ++ [w] ∧
        w.desc = head ∧ w.q = x.q.toNat ∧ w.ident = x.id.toNat ∧ w.core = s.cur ∧ w.ctx = s.curCtx ∧
        w.unit = (if s.me.inUnit then k.unit else none) ∧ w.bad = none
    let buffered : Instr → Prop := fun i => s.me.unresolved ≠ none → k.commit.length < 16 →
      exec i s = .next ((s.setMycore { k with
        commit := k.commit ++ [{ ctx := s.curCtx, cmd := i, sv := s.me.rs x.b, pc := s.me.pc, firm := false }] }).goOn h)
    (s.startChecks (copyChan s.cur x.ch.toNat) x = none →
      buffered (.cpgo h x) ∧
      (free → (s.chains.filter (fun a => a.chan == copyChan s.cur x.ch.toNat && a.mode == 0)).length < 8 →
        given (.cpgo h x) (copyChan s.cur x.ch.toNat) s (s.part (s.partOf s.cur)).residence)) ∧
    (s.startChecks (swapChan x.ch.toNat) x = none →
      buffered (.swgo h x) ∧
      (let a := s.arrivals s.self [] allStrands head
       let r := recordArrivals (a.2.part (s.partOf s.cur)).residence a.1
       free → (s.chains.filter (fun a => a.chan == swapChan x.ch.toNat && a.mode == 0)).length < 8 → r.length ≤ 4096 →
        given (.swgo h x) (swapChan x.ch.toNat) a.2 r)) ∧
    (s.startChecks 0 x = none →
      buffered (.gath h x) ∧ (free → begun (.gath h x) State.gathers) ∧
      (s.me.inUnit = true → k.unit ≠ none → buffered (.coll h x) ∧ (free → begun (.coll h x) State.colls))) ∧
    (exec (.cpwait h id) s = .next (if (id.toNat, true) ∈ k.record then
      ((s.setMycore { k with record := k.record.filter (fun e => e != (id.toNat, true)) }).observe s.cur s.curCtx id.toNat).goOn h
      else s.held)) ∧
    (let n := y.q.toNat
     let q := s.me.q.toList.getD (n - 4) []
     (n < 6 → exec (.qpush h y) s = tr 0x01 0) ∧
     (6 ≤ n → (q.length < 16 → exec (.qpush h y) s = .next ((s.setMe { s.me with q := s.me.q.setIfInBounds (n - 4) (q ++ [match y.b with
          | .s r => { wide := false, val := (s.me.rs r).setWidth 512 }
          | .v r => { wide := true, val := s.me.rv r }]) }).goOn h)) ∧
      (16 ≤ q.length → exec (.qpush h y) s = tr 0x14 n))) ∧
    (let n := z.q.toNat
     (n < 4 → exec (.qpop h z) s = tr 0x01 0) ∧
     (4 ≤ n → (s.me.q.toList.getD (n - 4) [] = [] → exec (.qpop h z) s = .next s.held) ∧
      (∀ it r, s.me.q.toList.getD (n - 4) [] = it :: r →
        ∃ c, exec (.qpop h z) s = .next ((if 5 ≤ n ∧ it.wide = false then
              (s.setMe c).observe s.cur s.curCtx (bits it.val.toNat 15 0) else s.setMe c).goOn h) ∧ c.q = s.me.q.setIfInBounds (n - 4) r ∧
          (match z.a with
            | .s d => c.rs d = (if d = 0 then 0 else it.val.setWidth 64) ∧ RegsKept [.s d.toNat] s.me c
            | .v d => c.rv d = it.val ∧ RegsKept [.v d.toNat] s.me c)))) ∧
    (s.me.unresolved = none → s.me.uiHold = true →
      ∃ t : State, exec (.uiret h) s = .next t ∧ MemoryKept s t ∧ RegsKept [] s.me t.me ∧ t.me.uiHold = false ∧
        t.me.pc = s.me.uirqpc.toNat % 2 ^ 48)) ∧
  (∀ (c x : Nat) (s : State) (u : UIrq) (r : List UIrq), s.mayInterrupt c x = true → (s.ctx c x).irqs = u :: r →
    ∃ t : State, exec (.userInterrupt c x) s = .next t ∧ MemoryKept s t ∧ RegsKept [] (s.ctx c x) (t.ctx c x) ∧
      (t.ctx c x).pc = u.handler ∧ (t.ctx c x).irqs = r ∧ (t.ctx c x).uiHold = true ∧
      (t.ctx c x).uirqpc = BitVec.ofNat 64 (s.ctx c x).pc ∧ (t.ctx c x).uirqxfer = BitVec.ofNat 64 u.xfer)

/-- The identifier of work of a unit on a core is finished in the record, or its completion waits at Finish to mark it so
(R196, R197, R270). -/
def ended (t : State) (core : Nat) (unit : Option (Nat × Nat)) (id : Nat) : Prop :=
  (id, true) ∈ t.recordFor core unit ∨ ∃ p ∈ t.posts, p.core = core ∧ p.unit = unit ∧ p.ident = some id ∧ p.atCore = false

/-- Where byte i of pieces in turn stands: in a bank (true) or in device memory, at an address; none in another device's memory. -/
def placeOf : List Piece → Nat → Option (Bool × Nat)
  | [], _ => none
  | p :: r, i => if i < p.len then (match p with
      | .bank pkg o _ => some (true, pkg * 65536 + o + i)
      | .dev a _ _ => some (false, a + i)
      | _ => none) else placeOf r (i - p.len)

/-- The engines at work (R158, R195 to R201, R270, R272, R323, R325): a channel takes the chain it chooses, or the next strand
of a deadline that reserves it; a strand that runs leaves its channel and lane free, and its identifier finished, or its
completion waiting at Finish; a completion that can go on does so first; a copy whose source and destination are reached moves all its
bytes: each lies then where the destination and the strand's swizzle code place it, and every other byte of memory and of the banks is
as before, but for the Accessed and Dirty bits that its translations set (R267); one whose source, destination or receiver faults writes
nothing; a gather and a collective leave their engine; at most two strands hold lanes of a port; and the body of a swapped-out page
expands to the page. A strand, a gather or a collective whose translations its core does not hold walks first.
Rests on the model's choices of log entries 25, 31, 33 (a deadline's strand on the channel that it reserves), 96 and 102. -/
def Obligations.EngineEvents : Prop :=
  (∀ (ch : Nat) (s : State) (k : Chain),
    let finishes : Instr → Nat → Prop := fun i v => ∃ t : State, exec i s = .next t ∧ ended t k.core k.unit (strandId v) ∧
      (∀ r ∈ t.running, r.2 ≠ k.id) ∧ (∀ r ∈ t.lanes, r.2 ≠ k.id)
    let begins := k.lane.isSome = true ∨ s.mayBegin k = true
    let walked := s.strandGoes k = true ∧ s.unwalked (s.chainAgent k) (s.strandRuns k) = []
    (s.handOut ch = none → s.chosenChain ch = some k → s.mayChoose ch = true →
      ∃ t : State, exec (.channelArbitration ch) s = .next t ∧ MemoryKept s t ∧ Tab.get? t.running ch = some k.id ∧
        ∀ d, d ≠ ch → Tab.get? t.running d = Tab.get? s.running d) ∧
    (∀ v, s.handOut ch = some (k, v) → s.mayChoose ch = true →
      ∃ (t : State) (w : Chain), exec (.channelArbitration ch) s = .next t ∧ MemoryKept s t ∧ Tab.get? t.running ch = some w.id ∧
        t.chains = s.chains.map (fun e => if e.id == k.id then { k with cur := fieldB v 0 8 } else e) ++ [w] ∧
        w.mode = 2 ∧ w.chan = ch ∧ w.cur = k.cur ∧ w.queue = k.queue) ∧
    (∀ t r, s.movesOf ch = t :: r → exec (.strandRun ch) s = .next t) ∧
    (∀ v t0, s.movesOf ch = [] → s.runningChain ch = some k → k.mode = 0 → k.await = [] → begins → walked →
      (s.endWalks (s.chainAgent k)).findStrand k = .plain v t0 → bit (strandWord v) 21 = false → finishes (.strandRun ch) v) ∧
    (∀ port, s.mayLane ch = some (k, port) → s.mayBegin k = true →
      ∃ t : State, exec (.laneGrant ch) s = .next t ∧ MemoryKept s t ∧ t.lanes = s.lanes ++ [(port, k.id)] ∧
        (t.lanes.filter (fun l => l.1 == port)).length ≤ 2) ∧
    (∀ v, k.mode = 0 → begins → walked → s.mayRunSwap ch true = some (k, v) → finishes (.swapOutStrand ch) v) ∧
    (∀ v, k.mode = 0 → begins → walked → s.mayRunSwap ch false = some (k, v) → finishes (.swapInStrand ch) v)) ∧
  (∀ (s : State) (g : Agent) (v par : Nat), let r := s.copyStrand g v par
    (∀ t, s.place g (fieldB v 8 8) (strandLen v) 0 = .error t →
      r.2.2 = s ∧ r.1.st = t.status 2 ∧ r.1.cause = t.code ∧ r.1.count = 0) ∧
    (∀ sp, s.place g (fieldB v 8 8) (strandLen v) 0 = .ok sp → (∀ p ∈ sp.1, s.pieceBad p = false) →
      (∀ t, s.place g (fieldB v 16 8) (strandLen v) 1 = .error t →
        r.2.2 = s ∧ r.1.st = 3 ∧ r.1.cause = t.code ∧ r.1.count = 0) ∧
      (∀ dp, s.place g (fieldB v 16 8) (strandLen v) 1 = .ok dp →
        (∀ p, bit (strandWord v) 21 = true →
          ((List.range (fieldB par 8 1)).map (fun i => fieldB par (16 + 8 * i) 8)).find? (fun p => match s.receiver g (strandLen v) p with
            | .error _ => true
            | .ok _ => false) = some p →
          r.2.2 = s ∧ r.1.count = 0 ∧ (if s.barred g p (strandLen v) then r.1.st = 3 ∧ r.1.cause = Cause.perm.code
            else r.1.st = 6 ∧ r.1.cause = 0)) ∧
        (bit (strandWord v) 21 = false →
          let ds := swzPieces (bits (strandWord v) 27 24) dp.1
          let u := ((s.touchPtr g (fieldB v 8 8) (strandLen v)).touchPtr g (fieldB v 16 8) (strandLen v)).setDirty g.core g.part dp.2
          r.1.st = 1 ∧ r.1.count = strandLen v ∧
          (s.MemWf → (∀ i j x, placeOf ds i = some x → placeOf ds j = some x → i = j) →
            ∀ i a, (placeOf ds i = some (true, a) → r.2.2.banks.byte a = BitVec.ofNat 8 (fieldB (s.readPieces sp.1) i 1)) ∧
              (placeOf ds i = some (false, a) → r.2.2.mem.byte a = BitVec.ofNat 8 (fieldB (s.readPieces sp.1) i 1))) ∧
          (∀ a, (∀ i, placeOf ds i ≠ some (true, a)) → r.2.2.banks.byte a = s.banks.byte a) ∧
          (∀ a, (∀ i, placeOf ds i ≠ some (false, a)) → r.2.2.mem.byte a = u.mem.byte a))))) ∧
  (∀ (i : Nat) (s : State) (w : Work), s.gathers[i]? = some w → s.mayGather i w = true →
    s.unwalked (s.workAgent w .ga) (s.gatherRuns w) = [] →
    ∃ t : State, exec (.gatherFinish i) s = .next t ∧ t.gathers = s.gathers.eraseIdx i ∧ ended t w.core w.unit w.ident) ∧
  (∀ (q n id : Nat) (s : State) (l : Launch) (ws : List Work), s.badColls q n id = [] → s.launch? (q, n) = some l →
    s.collParts l id = some ws → s.mayColl ws = true → s.collMisses ws = [] →
    ∃ t : State, exec (.collectiveFinish q n id) s = .next t ∧
      t.colls = s.colls.filter (fun w => !ws.any (fun v => v.id == w.id)) ∧ ∀ w ∈ ws, ended t w.core w.unit id) ∧
  (∀ v : Nat, v < 256 ^ 65536 → let b := compress v
    expand b.1 b.2.2 = v ∧ b.2.1 ≤ 65536 ∧ (b.1 = true → b.2.2 < 256 ^ b.2.1))

/-! ### Class 0xD: launches, the team and the rings -/

/-- Launching, waiting, cancelling and progress (R215, R219, R245, R249 to R251, R257). A launch takes its record into the
unit's own queue under the next sequence number, which the handle names, once all that its context has issued has ended;
under an unresolved branch it waits in the commit buffer. A wait holds while its launch is queued or running, or its graph
is not complete. A cancellation is handed to the hub, or, under an unresolved branch, to the commit buffer.
Rests on the model's choices of log entries 37 (a launch under an unresolved branch) and 81. -/
def Obligations.LaunchInstructions : Prop :=
  ∀ (h : Hdr) (x : OpRR) (b : SReg) (p : SrcDS) (s : State), s.issues h {} = true →
    let u := (s.mycore.unit.getD (0, 0)).1
    let w := (s.me.rs b).toNat
    let q := s.queue (handleQueue w)
    let mine := q.part = s.partOf s.cur
    (∀ segs es v t0, let a := (s.me.rs x.b).toNat
      let n := a % 8 + 1
      s.me.inUnit = true → s.mycore.unit ≠ none → s.buffers = false → a < 2 ^ 48 → bits a 5 3 = 0 → s.ctxDrained s.cur s.curCtx = true →
      s.translate s.cur (s.vdevOf s.cur) s.me.xlat.toNat s.me.level (a / 64 * 64) (64 * n) 0 false = .ok segs es →
      s.bulkRead s.self (a / 64 * 64) (64 * n) = .ok (v, t0) → t0.me = s.me → (s.queue u).pending.length < 256 →
      ∃ (t : State) (r : PRec), exec (.launch h x) s = .next (t.goOn h) ∧
        t.me.rs x.a = (if x.a = 0 then 0 else BitVec.ofNat 64 (2 ^ 61 + u * 2 ^ 48 + (s.queue u).nextSeq)) ∧
        RegsKept [.s x.a.toNat] s.me t.me ∧ (t.queue u).pending = (s.queue u).pending ++ [r] ∧
        (t.queue u).nextSeq = ((s.queue u).nextSeq + 1) % 2 ^ 32 ∧ r.seq = (s.queue u).nextSeq ∧ r.n = n ∧ r.bytes = v ∧ r.read = false ∧ MemoryKept t0 t) ∧
    (∀ segs es, let a := (s.me.rs x.b).toNat
      s.me.inUnit = true → s.mycore.unit ≠ none → s.me.unresolved ≠ none → s.mycore.commit.length < 16 → a < 2 ^ 48 → bits a 5 3 = 0 →
      s.translate s.cur (s.vdevOf s.cur) s.me.xlat.toNat s.me.level (a / 64 * 64) (64 * (a % 8 + 1)) 0 false = .ok segs es →
      ∃ t : State, exec (.launch h x) s = .next (t.begun h) ∧ MemoryKept s t ∧ t.me = { s.me with wait := .commit } ∧
        t.queue u = s.queue u ∧ t.mycore.commit =
          s.mycore.commit ++ [{ ctx := s.curCtx, cmd := .launch h x, sv := s.me.rs x.b, pc := s.me.pc, firm := false }]) ∧
    (let next := q.nextSeq
     handleOk w = true → handleLevel w = 1 → mine → 2 ^ 31 ≤ (handleName w + 2 ^ 32 - next) % 2 ^ 32 →
      exec (.lwait h b) s = .next (if (next + 2 ^ 32 - handleName w) % 2 ^ 32 ≤ 4096 ∧ s.launchOpen (handleQueue w) (handleName w) = true
        then s.held else s.goOn h)) ∧
    (handleOk w = true → handleLevel w = 2 → handleName w ≠ 0 → mine →
      exec (.lwait h b) s = .next (if s.graphDone (handleQueue w) (handleName w) then s.goOn h else s.held)) ∧
    (∀ e ∈ [(1, Instr.cancelLaunch h b), (2, .cancelGraph h b), (3, .cancelSession h b), (4, .cancelJob h b)],
      (3 ≤ e.1 → 1 ≤ s.me.level) → handleOk w = true → handleLevel w = e.1 → mine →
      (s.buffers = false → ∃ t : State, exec e.2 s = .next (t.goOn h) ∧ t.me = s.me ∧ MemoryKept s t ∧
        t.cancels = s.cancels ++ [{ level := e.1, queue := handleQueue w, name := handleName w, part := s.partOf s.cur }]) ∧
      (s.buffers = true → s.mycore.commit.length < 16 → exec e.2 s = .next ((s.setMycore { s.mycore with
        commit := s.mycore.commit ++ [{ ctx := s.curCtx, cmd := e.2, sv := s.me.rs b, pc := s.me.pc, firm := s.me.unresolved.isNone }] }).goOn h))) ∧
    (s.me.inUnit = true → s.mycore.unit ≠ none → s.me.unresolved = none → ((∃ d, p = .d d) → s.curCtx = 0) →
      ∃ t : State, exec (.prog h p) s = .next (t.goOn h) ∧ t.me = s.me ∧ MemoryKept s t ∧
        (t.queue u).progress = some (s.time, match p with
          | .d d => (s.mycore.d[d.toNat]).lane 0
          | .s r => List.replicate 8 ((s.me.rs r).toNat % 2 ^ 32, 8192)))

/-- The team (R234 to R236, R252 to R256). `bar` arrives once the core's accesses and messages are done and waits; the
barrier turns the phase, goes on at a T0 that is a multiple of 64 at least 128 ticks after the last arrival, and takes the
checkpoint on every core. `xsend` sends 64 bytes and `xrecv` receives the oldest; a delivery writes its line, raises the
refusal on its sender, or takes a queue message to q4, or to the interface of a context that cannot take it. The rings are
first in, first out, and the last `reos` of a ring's producers ends it; a released unit is told end of stream.
Rests on the model's choices of log entries 42, 81 and 87. -/
def Obligations.TeamInstructions : Prop :=
  (∀ (h : Hdr) (x : OpXsend) (y : OpXrecv) (b : SrcSV) (z : OpRPop) (s : State), s.issues h { helper := false, unit := true } = true →
    let c := s.cur
    (s.me.unresolved = none → s.mycore.barDone = false → s.mycore.arrived = false → s.mayArriveAt c = true →
      ∃ t : State, exec (.bar h) s = .next (t.begun h) ∧ MemoryKept s t ∧ t.me = { s.me with wait := .bar } ∧ t.mycore.arrived = true ∧
        ∀ l, s.launchOf c = some l → ∃ l', t.launchOf c = some l' ∧ l'.lastArr = s.time) ∧
    (s.me.unresolved = none → s.mycore.barDone = false → s.mycore.arrived = true →
      exec (.bar h) s = .next ((s.setMe { s.me with wait := .bar }).begun h)) ∧
    (s.me.unresolved = none → s.mycore.barDone = false → s.mycore.arrived = false → s.mayArriveAt c = false →
      exec (.bar h) s = .next s.held) ∧
    (s.me.unresolved = none → s.mycore.barDone = true →
      exec (.bar h) s = .next ((s.setMycore { s.mycore with barDone := false, arrived := false }).goOn h)) ∧
    (s.phase = 1 → h.phase ≠ .compute →
      (∀ d l e, s.xTarget (s.me.rs x.a).toNat = .ok (d, l) → s.reaches c (clusterOf d) = true → (l.getD 0) % 64 = 0 →
        s.me.unresolved = none → s.cycleOk x.cyc = true → s.journalSlot c = some e →
        ∃ (t : State) (m : XMsg), exec (.xsend h x) s = .next (t.goOn h) ∧ t.me = s.me ∧ MemoryKept s t ∧ t.xnet = s.xnet ++ [m] ∧
          m.id = s.nonce ∧ m.src = c ∧ m.ctx = s.curCtx ∧ m.jrn = e ∧ m.target = d ∧ m.line = l ∧ m.val = s.me.rv x.b ∧
          m.unit = s.unitAt c d ∧ m.by_ = s.mycore.unit ∧ m.pc = s.me.pc ∧ m.va = (s.me.rs x.a).toNat ∧ m.stage = 0 ∧
          t.mycore.journal = insertSet e s.mycore.journal) ∧
      (∀ it r, s.cycleOk y.cyc = true → s.me.q.toList.getD 0 [] = it :: r →
        ∃ k, exec (.xrecv h y) s = .next ((s.setMe k).goOn h) ∧ k.rv y.a = it.val ∧ RegsKept [.v y.a.toNat] s.me k ∧
          k.q = s.me.q.setIfInBounds 0 r) ∧
      (s.me.q.toList.getD 0 [] = [] → exec (.xrecv h y) s = .next s.held)) ∧
    (∀ r, s.mycore.ringOut = some r → s.mycore.reos = false → (s.ring r).enable = true → s.me.unresolved = none →
      let g := s.ring r
      ((match b with | .s _ => True | .v _ => g.wide = true) → g.items.length < g.cap →
        ∃ t : State, exec (.rpush h b) s = .next (t.goOn h) ∧ t.me = s.me ∧ MemoryKept s t ∧
          t.ring r = { g with items := g.items ++ [match b with | .s a => (s.me.rs a).setWidth 512 | .v a => s.me.rv a] }) ∧
      (∃ t : State, exec (.reos h) s = .next (t.goOn h) ∧ t.me = s.me ∧ MemoryKept s t ∧ t.mycore.reos = true ∧
        t.ring r = { g with prods := g.prods - 1, ended := g.ended || g.prods - 1 == 0 })) ∧
    (∀ r, s.mycore.ringIn = some r → (s.ring r).enable = true → s.me.unresolved = none → s.mycore.released = true →
      ∃ t : State, exec (.rpop h z) s = .next (t.goOn h) ∧ MemoryKept s t ∧ t.ring r = s.ring r ∧ t.me.rp z.p = BitVec.allOnes 64 ∧
        RegsKept [.p z.p.toNat] s.me t.me) ∧
    (∀ r, s.mycore.ringIn = some r → (s.ring r).enable = true → s.me.unresolved = none → s.mycore.released = false →
      let g := s.ring r
      (∀ it rest, g.items = it :: rest →
        ∃ t : State, exec (.rpop h z) s = .next (t.goOn h) ∧ MemoryKept s t ∧ t.ring r = { g with items := rest } ∧
          (z.p ≠ 7 → t.me.rp z.p = 0) ∧ (match z.b with
            | .s d => t.me.rs d = (if d = 0 then 0 else it.setWidth 64) ∧ RegsKept [.s d.toNat, .p z.p.toNat] s.me t.me
            | .v d => t.me.rv d = it ∧ RegsKept [.v d.toNat, .p z.p.toNat] s.me t.me)) ∧
      (g.items = [] → g.ended = true →
        ∃ t : State, exec (.rpop h z) s = .next (t.goOn h) ∧ MemoryKept s t ∧ t.me.rp z.p = BitVec.allOnes 64 ∧
          RegsKept [.p z.p.toNat] s.me t.me) ∧
      (g.items = [] → g.ended = false → exec (.rpop h z) s = .next s.held))) ∧
  (∀ (q n : Nat) (s : State) (l : Launch), s.launch? (q, n) = some l → s.mayComplete l = true →
    let t0 := (l.lastArr + 128 + 63) / 64 * 64
    t0 ≤ s.time ∧ l.lastArr + 128 ≤ t0 ∧
    ∃ (t : State) (l' : Launch), exec (.barrierComplete q n) s = .next t ∧ MemoryKept s t ∧ t.launch? (q, n) = some l' ∧
      l'.phase = (if l.phase = 1 then 2 else 1) ∧ l'.t0 = t0 ∧ l'.replayed = false ∧ l'.rbPending = false ∧ l'.cores = l.cores ∧
      (∀ c ∈ s.teamCores l, (t.core c).frame.isSome = true ∧ (t.core c).units = [] ∧ (t.core c).t0cc = (t.core c).cc) ∧
      (∀ c ∈ s.teamCores l, (s.ctx c 0).live = true → (s.ctx c 0).wait = .bar →
        (t.ctx c 0).wait = .none ∧ (t.ctx c 0).pc = ((s.ctx c 0).pc + 12) % 2 ^ 48)) ∧
  (∀ (id : Nat) (s : State) (m : XMsg), s.xnet.find? (fun m => m.id == id) = some m → s.mayDeliver m = true → id ∉ s.torn →
    let by_ := m.by_.or (s.core m.src).unit
    (∀ l, m.line = some l → dieOf m.target ∉ s.hub.absent →
      (∀ pkg, s.bankForUnit by_ m.src m.target (l / 65536) m.id = .ok pkg →
        ∃ t : State, exec (.exchangeDelivery id) s = .next t ∧ t.mem = s.mem ∧ t.xnet = s.xnet.filter (fun n => n.id != id) ∧
          t.banks = s.banks.write (pkg * 65536 + l % 65536) 64 m.val.toNat) ∧
      (∀ e, s.bankForUnit by_ m.src m.target (l / 65536) m.id = .error e → (s.ctx m.src m.ctx).live = true →
        (∀ k, s.launchOf m.src = some k → k.rbPending = false) →
        ∃ t : State, exec (.exchangeDelivery id) s = .next t ∧ MemoryKept s t ∧ t.xnet = s.xnet.filter (fun n => n.id != id) ∧
          (t.ctx m.src m.ctx).traps = (s.ctx m.src m.ctx).traps ++
            [{ cause := 0x0F, detail := e.code, resume := 0, fpc := m.pc, va := m.va, ipa := 0, jrn := some m.jrn, async := true }])) ∧
    (let same : XMsg → Prop := fun n => n.target = m.target ∧ n.unit = m.unit ∧ n.line = none
     m.line = none → m.stage = 0 → (∀ n ∈ s.xnet, n.src = m.src → same n → n.stage = 0 → m.id ≤ n.id) →
      (s.controlOf m.target m.unit = .here 0 → (s.ctx m.target 0).takesItem = true → (∀ n ∈ s.xnet, same n → n.stage = 0) →
        ∃ t : State, exec (.exchangeDelivery id) s = .next t ∧ MemoryKept s t ∧ t.xnet = s.xnet.filter (fun n => n.id != id) ∧
          (t.ctx m.target 0).q.toList.getD 0 [] = (s.ctx m.target 0).q.toList.getD 0 [] ++ [{ wide := true, val := m.val }]) ∧
      (s.controlOf m.target m.unit = .away 0 → s.atInterface m.target (.away 0) < 4 →
        ∃ t : State, exec (.exchangeDelivery id) s = .next t ∧ MemoryKept s t ∧
          t.xnet = s.xnet.filter (fun n => n.id != id) ++ [{ m with stage := 1, came := s.nonce }])))

/-! ### Class 0xE: the system -/

/-- System registers (R286 to R292, R310, R311, R330): what they read and take at the levels that may, PRIV below, ILLEGAL
for a number that names no register. A read changes only its register; a write changes the field it names.
Rests on the model's choices of log entries 56, 81, 85, 86 and 100. -/
def Obligations.SystemRegisters : Prop :=
  ∀ (h : Hdr) (a : SReg) (s : State), s.issues h {} = true →
    let k := s.me
    let pt := s.part s.selPart
    let q := s.selQueue
    let w := k.rs a
    let tr : Nat → Out := fun c =>
      s.trapOut { cause := c, detail := 0, resume := k.pc, fpc := k.pc, va := 0, ipa := 0, jrn := none, async := false }
    let reads : BitVec 12 → Nat → Prop := fun n v => exec (.sysr h { num := n, b := a }) s = .next (s.wroteS h a (BitVec.ofNat 64 v))
    let takes : BitVec 12 → State → Prop := fun n t => exec (.sysw h { num := n, b := a }) s = .next (t.goOn h)
    (reads 0x000 (s.partOf s.cur * 2 ^ 56 + s.curCtx * 2 ^ 52 + clusterOf s.cur * 2 ^ 44 + inCluster s.cur * 2 ^ 41 +
        s.cur * 2 ^ 30 + dieOf s.cur * 2 ^ 28 + rowOf s.cur * 2 ^ 24 + colOf s.cur * 2 ^ 19) ∧
      reads 0x001 (b2n k.grant * 2 ^ 7 + b2n k.uiHold * 2 ^ 6 + k.level % 4) ∧ reads 0x002 s.time ∧ reads 0x008 k.uirqpc.toNat ∧
      reads 0x009 k.uirqxfer.toNat ∧ reads 0x013 k.trapjrn.toNat) ∧
    (1 ≤ k.level → reads 0x010 k.trapcause.toNat ∧ reads 0x011 k.trappc.toNat ∧ reads 0x012 k.trapdetail.toNat ∧
      reads 0x181 k.xlat.toNat ∧ reads 0x183 pt.chmask ∧ reads 0x18A pt.trapvec ∧ reads 0x18C pt.fatal.toNat ∧ reads 0x18D pt.evdl ∧
      reads 0x18B (b2n pt.tqOn * 2 ^ 63 + pt.tqFatal.length * 2 ^ 48 + pt.tqBase + pt.tqHeld.length)) ∧
    (1 ≤ k.level → (k.level < 2 → (s.queue q).part = s.partOf s.cur) →
      reads 0x193 (s.queue q).args.toNat ∧ reads 0x194 (s.queue q).xlat.toNat) ∧
    (2 ≤ k.level → reads 0x1C0 s.hub.vdiemap ∧ reads 0x198 (s.hub.wwin.toList.getD 0 0)) ∧
    (k.level = 0 → reads 0x181 (xlatAsid k.xlat.toNat * 2 ^ 50) ∧ exec (.sysr h { num := 0x010, b := a }) s = tr 0x02 ∧
      exec (.sysr h { num := 0x18A, b := a }) s = tr 0x02 ∧ exec (.sysw h { num := 0x011, b := a }) s = tr 0x02) ∧
    (exec (.sysr h { num := 0x0FF, b := a }) s = tr 0x01 ∧ exec (.sysw h { num := 0x0FF, b := a }) s = tr 0x01 ∧
      exec (.sysw h { num := 0x002, b := a }) s = tr 0x02) ∧
    (k.unresolved = none →
      takes 0x008 (s.setMe { k with uirqpc := w }) ∧
      (1 ≤ k.level → takes 0x001 (s.setMe { k with grant := w.getLsbD 7 }) ∧ takes 0x011 (s.setMe { k with trappc := w }) ∧
        (bits w.toNat 11 10 ≤ k.level →
          takes 0x010 (s.setMe { k with trapcause := (k.trapcause &&& 0xFFFFFFFFFFFFF3FF#64) ||| (w &&& 0xC00#64) }))) ∧
      (2 ≤ k.level → takes 0x18A (s.setPart s.selPart { pt with trapvec := bits w.toNat 47 2 * 4 }) ∧
        takes 0x183 (s.setPart s.selPart { pt with chmask := bits w.toNat 39 0 }) ∧
        takes 0x193 (s.setQueue q { s.queue q with args := w &&& 0x8000FFFFFFFF8000#64 }) ∧
        (w.getLsbD 63 = true → takes 0x18C (s.setPart s.selPart { pt with fatal := pt.fatal &&& 0x7FFFFFFFFFFFFFFF#64 }))))

/-- The other instructions of class 0xE (R47, R48, R269, R296, R297, R300 to R302): the overflow table is loaded or refused
whole; an invalidation leaves no entry that it matches in the TLBs of its scope, and its wait goes on once it is done; a
posted deadline waits for its decision, once the context's own stores to its request are performed (R130); `wipe` zeroes a bank or a
page and nothing else; `pmap` assigns a cluster, or releases and wipes it. Rests on the model's choices of log entries 61, 62, 63, 64 and
81. -/
def Obligations.SystemOperations : Prop :=
  ∀ (h : Hdr) (r : SReg) (x : OpBC) (y : OpRR) (s : State),
    let k := s.me
    let b := (k.rs x.b).toNat
    let c := (k.rs x.c).toNat
    let pages : Nat → Nat → Nat → List (Nat × Nat) → List Tlb → Prop := fun p n acc segs es =>
      s.translate s.cur (s.vdevOf s.cur) k.xlat.toNat k.level p n acc false = .ok segs es
    (s.issues h { level := 1 } = true → k.unresolved = none →
      (let w := (k.rs r).toNat
       let good := w < 2 ^ 12 ∧ (∀ i, i < 6 → bits w (2 * i + 1) (2 * i) ≠ 3) ∧ bits w 1 0 ≠ 1 ∧ bits w 3 2 ≠ 1
       (good → exec (.ovtld h r) s = .next ((s.setMe { k with ovt := (k.rs r).setWidth 12 }).goOn h)) ∧
       (¬ good → exec (.ovtld h r) s =
         s.trapOut { cause := 0x06, detail := 0, resume := k.pc, fpc := k.pc, va := 0, ipa := 0, jrn := none, async := false })) ∧
      (invSpecOk c = true → (bits c 60 58 = 0 ∨ bits c 60 58 = 2 → b < 2 ^ 48) →
        (bits c 60 58 < 2 → (s.part (s.partOf s.cur)).holdsAsid (bits c 13 0) = true) → (2 ≤ bits c 60 58 → 2 ≤ k.level) →
        k.invs.length < 8 →
        ∃ (t : State) (v : Inval), exec (.tlbinv h x) s = .next (t.goOn h) ∧ MemoryKept s t ∧ RegsKept [] k t.me ∧ v ∈ t.invals ∧
          v.seq = s.hub.invSeq + 1 ∧ v.seq ∈ t.me.invs ∧ v.scope = bits c 63 61 ∧ v.kind = bits c 60 58 ∧ v.addr = bits b 47 0 ∧
          v.core = s.cur ∧ v.asid = bits c 13 0 ∧ v.vdev = bits c 53 48 ∧
          (∀ d, invCovers v d = true → ∀ e ∈ (t.core d).l1, invMatches v e = false) ∧
          (∀ d, invCovers v d = true → ∀ e ∈ (t.cluster (clusterOf d)).l2, invMatches v e = false)) ∧
      ((∀ v ∈ s.invals, v.seq ∈ k.invs → s.invDone v = true) →
        ∃ t : State, exec (.tlbsync h) s = .next (t.goOn h) ∧ MemoryKept s t ∧ t.me = { k with invs := [] }) ∧
      ((∃ v ∈ s.invals, v.seq ∈ k.invs ∧ s.invDone v = false) → exec (.tlbsync h) s = .next s.held) ∧
      (∀ pkg, b / 2 ^ 48 = 0x1000 → b % 2 ^ 48 < 0x200000 → b % 65536 = 0 → c = 0 →
        s.openSlot s.cur (b % 2 ^ 48 / 65536) = .ok pkg → s.bankBusy s.cur .ls pkg = false →
        ∃ t : State, exec (.wipe h x) s = .next (t.goOn h) ∧ t.me = k ∧ t.mem = s.mem ∧
          (∀ a, t.banks.byte a = if a / 65536 = pkg then 0 else s.banks.byte a) ∧
          (∀ p g, g < 16 → t.tag p g = if p = pkg then 0 else s.tag p g)) ∧
      (∀ at_ e, b < 2 ^ 48 → b % 65536 = 0 → 1 ≤ c → c ≤ 65536 → k.ticket = none → s.coreQuiet s.cur = true →
        pages b 65536 1 [(at_, 65536)] [e] → e.kind < 2 → e.dirty = true → s.devOk at_ = true → s.devOk (at_ + 65535) = true →
        ∃ t : State, exec (.wipe h x) s = .next (if c = 1 then t.goOn h else t.begun h) ∧ t.banks = s.banks ∧
          (∀ a, t.mem.byte a = if at_ ≤ a ∧ a < at_ + 65536 then 0 else s.mem.byte a) ∧
          (x.b ≠ 0 → x.b ≠ x.c → t.me.rs x.b = BitVec.ofNat 64 (b + 65536)) ∧ t.me.rs x.c = BitVec.ofNat 64 (c - 1) ∧
          RegsKept [.s x.b.toNat, .s x.c.toNat] k t.me)) ∧
    (s.issues h { level := 2 } = true → k.unresolved = none →
      (∀ v t0 s0 e0 s1 e1, let p := (k.rs y.b).toNat
        p < 2 ^ 48 → p % 64 = 0 → pages p 64 0 s0 e0 → pages p 64 1 s1 e1 →
        (s.ownWaits p 64 0 = true → exec (.evpost h y) s = .next s.held) ∧
        (s.ownWaits p 64 0 = false → s.bulkRead s.self p 64 = .ok (v, t0) → t0.requestOk v = true → ∃ (t : State) (q : EvReq), exec (.evpost h y) s = .next (t.begun h) ∧ t.evicts = s.evicts ++ [q] ∧ q.bytes = v ∧
          q.core = some (s.cur, s.curCtx) ∧ q.addr = p ∧ q.reg = y.a.toNat ∧ q.post = s.time ∧ MemoryKept t0 t ∧ t.me.wait = .evict q.idx ∧
          RegsKept [] k t.me)) ∧
      (∀ p, b ≤ 191 → c = p → p < 256 → (s.cluster b).part = none →
        ∃ t : State, exec (.pmap h x) s = .next (t.goOn h) ∧ MemoryKept s t ∧ t.me = k ∧
          (t.cluster b).part = some p ∧ (t.cluster b).perm = 2 ^ b ∧ (t.cluster b).rings = [] ∧
          (∀ d, d ≠ b → t.cluster d = s.cluster d)) ∧
      (∀ p, b ≤ 191 → c = 2 ^ 63 + p → p < 256 → s.mayDetach b p = true →
        ∃ t : State, exec (.pmap h x) s = .next (t.goOn h) ∧ t.mem = s.mem ∧ (t.cluster b).part = none ∧
          (∀ d ∈ coresOf b, (t.core d).slots = [] ∧ ∀ y, (t.ctx d y).live = false) ∧
          (∀ a, t.banks.byte a = if a / 4194304 = b then 0 else s.banks.byte a)))

/-- `ctxsave` and `ctxload` (R294, R295), pre-emption and resumption (R318, R319): a context that may leave is written whole
to its area and is not live; one that may not yet is asked to stop, and the save waits, as it does for the issuer's own stores to the area
(R130); a valid area makes its context live
with its pc and registers; a requested core is saved once it rests, and comes back on a free core with its control context live and its registers, or
the request is refused. Rests on the model's choices of log entries 42, 51, 52, 87, 93, 110 and 114. -/
def Obligations.ContextsSavedAndLoaded : Prop :=
  (∀ (h : Hdr) (x : OpBC) (s : State), s.issues h { level := 1 } = true → s.me.unresolved = none →
    let n := (s.me.rs x.b).toNat
    let p := (s.me.rs x.c).toNat
    n < 16 → p < 2 ^ 48 → p % 4096 = 0 →
    (∀ segs es, n ≠ s.curCtx → (s.ctx s.cur n).live = true →
      let f := s.letGo s.cur n
      f.translate s.cur (s.vdevOf s.cur) s.me.xlat.toNat s.me.level p 0x3000 1 false = .ok segs es →
      (f.ownWaits p 0x3000 1 = true → exec (.ctxsave h x) s = .next s.held) ∧
      (f.ownWaits p 0x3000 1 = false → f.mayLeave s.cur n false = false →
        exec (.ctxsave h x) s = .next ((f.setCtx s.cur n { s.ctx s.cur n with stopReq := true }).begun h)) ∧
      (∀ t0, let u := f.settleLoads s.cur n
        f.ownWaits p 0x3000 1 = false → f.mayLeave s.cur n false = true →
        u.bulkWrite u.self p 0x3000 (u.area s.cur n false (s.ctx s.cur n).pc) = .ok t0 →
        ∃ t : State, exec (.ctxsave h x) s = .next (t.goOn h) ∧ t.mem = t0.mem ∧ t.banks = t0.banks ∧ (t.ctx s.cur n).live = false ∧
          RegsKept [] s.me t.me)) ∧
    (∀ segs es v t0, n ≠ s.curCtx → (s.ctx s.cur n).live = false →
      s.translate s.cur (s.vdevOf s.cur) s.me.xlat.toNat s.me.level p 0x3000 0 false = .ok segs es →
      s.ownWaits p 0x3000 0 = false → s.bulkRead s.self p 0x3000 = .ok (v, t0) → areaOk v n false = true → bit (fieldB v 0x90 8) 40 = false →
      ∃ t : State, exec (.ctxload h x) s = .next (t.goOn h) ∧ t.mem = t0.mem ∧ t.banks = t0.banks ∧ RegsKept [] s.me t.me ∧
        let k := t.ctx s.cur n
        k.live = true ∧ k.pc = fieldB v 0x40 8 % 2 ^ 48 ∧ k.level = fieldB v 0x48 8 % 4 ∧
        (∀ i : SReg, i ≠ 0 → k.rs i = BitVec.ofNat 64 (fieldB v (0x100 + 8 * i.toNat) 8)) ∧
        (∀ i : VReg, k.rv i = BitVec.ofNat 512 (fieldB v (0x200 + 64 * i.toNat) 64)) ∧
        (∀ i : PReg, i ≠ 7 → k.rp i = BitVec.ofNat 64 (fieldB v (0x600 + 8 * i.toNat) 8)))) ∧
  (∀ (c base : Nat) (s : State),
    ((s.core c).preempt = none → base % 2 ^ 21 = 0 → s.devRange base (2 ^ 21) = true →
      (∃ x ∈ Tab.keys (s.core c).ctxs, (s.ctx c x).live = true) →
      exec (.preemptRequest c base) s = .next (s.setCore c { s.core c with preempt := some base })) ∧
    ((s.core c).preempt = some base → s.mayPreempt c = true →
      ∃ t : State, exec (.preemptRequest c base) s = .next t ∧ t.banks = s.banks ∧ (t.core c).unit = none ∧ (t.core c).preempt = none ∧
        (∀ x, (t.ctx c x).live = false) ∧ (t.core c).mq = [] ∧
        (∀ l, s.launchOf c = some l → ∃ l' q, t.launch? (l.queue, l.seq) = some l' ∧ l'.parked = l.parked ++ [q] ∧ q.core = c ∧ q.base = base)) ∧
    (let v := s.mem.read base (areaBytes true)
     let from_ := fieldB v 6 2
     let saved := (s.core from_).out.filter (fun o => o.base == base)
     c < 1536 → s.freeCore (fieldB v 8 1) c = true → (s.core c).tilesBusy = false → s.banksCome from_ c v = true →
      (∀ o ∈ saved, o.ctx ≠ 0 → areaOk (s.mem.read (base + o.ctx * 0x20000) (areaBytes false)) o.ctx false = true) →
      (c = from_ ∨ ∀ o ∈ saved, Tab.get? (s.core from_).grantTable o.born = none) →
      (areaOk v 0 true = true → ∃ t : State, exec (.resumeRequest base c) s = .next t ∧ (t.ctx c 0).live = true ∧
        (∀ i : SReg, i ≠ 0 → (t.ctx c 0).rs i = BitVec.ofNat 64 (fieldB v (0x100 + 8 * i.toNat) 8)) ∧
        (∀ i : VReg, (t.ctx c 0).rv i = BitVec.ofNat 512 (fieldB v (0x200 + 64 * i.toNat) 64))) ∧
      (areaOk v 0 true = false → exec (.resumeRequest base c) s = .next s)))

/-- A saved context is the context (R294, R295, R320): the area that `ctxsave` writes is valid for its number, and the
context that `ctxload` makes of it has the same pc, level, flags, registers, queues, claims and trap registers, whose
reserved bits read as zero (R4). Rests on the model's choices of log entries 28, 52 and 110. -/
def Obligations.SaveAreaHoldsTheContext : Prop :=
  ∀ (s : State) (c x pc born : Nat), x < 16 → pc < 2 ^ 48 →
    let k := s.ctx c x
    (∀ i : Fin 4, k.q[i].length ≤ 16) → k.claims.length ≤ 32 →
    (∀ e ∈ k.claims, e.1 % 2 = 0 ∧ e.1 < 2 ^ 64) → k.irqs.length ≤ 16 →
    (∀ u ∈ k.irqs, u.xfer < 2 ^ 16 ∧ u.handler < 2 ^ 48) → k.level < 4 → k.tagCtr < 256 → k.fseq < 65536 →
    (∀ t, k.ticket = some t → t < 2 ^ 64) →
    let v := s.area c x false pc
    let l := ctxOf v born
    v < 256 ^ 0x3000 ∧ areaOk v x false = true ∧ l.live = true ∧ l.pc = pc ∧ l.level = k.level ∧ l.grant = k.grant ∧
    l.uiHold = k.uiHold ∧ l.ovt = k.ovt ∧ l.xlat = k.xlat &&& 0xFFFCFFFFFFFFF000#64 ∧ l.s = k.s ∧ l.v = k.v ∧ l.p = k.p ∧ l.q = k.q ∧
    l.tagCtr = k.tagCtr ∧ l.fseq = k.fseq ∧ l.claims = k.claims ∧ l.ticket = k.ticket ∧ l.irqs = k.irqs ∧
    l.uirqpc = k.uirqpc ∧ l.uirqxfer = k.uirqxfer &&& 0xFFFF#64 ∧ l.trapcause = k.trapcause &&& 0x8000000000000FFF#64 ∧ l.trappc = k.trappc ∧
    l.trapdetail = k.trapdetail ∧ l.trapjrn = k.trapjrn &&& 0x3F#64


/-! ### The hub -/

/-- Records and launches (R215 to R227, R230, R276). A doorbell makes a record of the Staging lines; the head is read whole and
checked, or refused with status 0x06; its dependence word is read again; only an eligible, placeable record is chosen; a
start gives every core of the placement its unit at the entry point with the argument slot in s1, its rank in s2 and the team size in
s3, once the record's argument lines are copied there; a preload hands the next unit's chain to its channel and runs the strand that the channel has chosen: the chain goes on, or
has run, where Next reads 0 once the strand has ended, and with the last unit's the team begins, or a failed strand fails the launch (its
translations walk first, R268); a completion writes the host word,
or the word in memory, counts the job and leaves; a cancellation leaves none of its records queued and none of its launches
running. Rests on the model's choices of log entries 43, 44, 45, 46, 82 and 97. -/
def Obligations.RecordsAndLaunches : Prop :=
  (∀ (vdev q : Nat) (value : BitVec 32) (s : State), s.hub.failure = 0 → s.ownsQueue vdev q = true →
    (value.toNat < 8 → (s.queue q).pending.length < 256 →
      ∃ (t : State) (r : PRec), exec (.doorbell vdev q value) s = .next t ∧ MemoryKept s t ∧ (t.queue q).pending = (s.queue q).pending ++ [r] ∧
        r.seq = (s.queue q).nextSeq ∧ r.n = value.toNat + 1 ∧ r.bytes = (s.queue q).staging.read 0 (64 * (value.toNat + 1)) ∧
        r.read = false ∧ (t.queue q).nextSeq = ((s.queue q).nextSeq + 1) % 2 ^ 32) ∧
    (value.toNat < 8 → 256 ≤ (s.queue q).pending.length →
      exec (.doorbell vdev q value) s = .next (s.setQueue q { s.queue q with overflow := true })) ∧
    (value.getLsbD 31 = true →
      exec (.queueStatusClear vdev q value) s = .next (s.setQueue q { s.queue q with overflow := false }))) ∧
  (∀ (q : Nat) (s : State) (r : PRec), s.headOf q = some r →
    let entry := fieldB r.bytes 0 8
    (s.mayRead q = true → (2 ^ 48 ≤ entry % 2 ^ 64 ∨ entry < 32) →
      ∃ t : State, exec (.recordRead q) s = .next t ∧ MemoryKept s t ∧ t.launches = s.launches ++ [closedLaunch q r 6] ∧
        ∀ e ∈ (t.queue q).pending, e.seq ≠ r.seq) ∧
    (∀ d t ps t1, s.mayRead q = true → entry < 2 ^ 48 → 32 ≤ entry → s.hubRead q (entry - 32) 32 4 = .ok (d, t) →
      fieldB d 0 4 = 0xA5C30001 → recPtr (fieldB d 16 8) 64 = true → fieldB d 24 8 = 0 →
      s.recordOk (s.queue q).part r.bytes (fieldB d 4 2) = true → t.arrivalSet q (fieldB r.bytes 56 8) = some (ps, t1) →
      fieldB r.bytes 32 8 = 0 →
      exec (.recordRead q) s = .next (t1.setRecord q { r with read := true, dep := some true, arrival := ps, chain := fieldB d 16 8 })) ∧
    (∀ n t, s.mayReread q = true → s.hubRead q (fieldB r.bytes 32 8) 4 0 = .ok (n, t) →
      exec (.dependenceReread q) s = .next (t.setRecord q { r with dep := some (n == 0) })) ∧
    (∀ cores t0, let u : State := { s with starting := none }
      let args := bits (s.queue q).args.toNat 47 15 * 32768 + r.seq % 64 * 512
      s.starting = some (q, r.seq) → u.placement (s.queue q).part r.bytes = some cores → u.isEligible q r = true → u.queueRoom q = true →
      (s.queue q).args.getLsbD 63 = true →
      (if r.n = 1 then t0 = u else u.bulkWrite (u.hubAgent q) args (64 * (r.n - 1)) (r.bytes / 256 ^ 64) = .ok t0) →
      ∃ (t : State) (l : Launch), exec (.launchStart q) s = .next t ∧ MemoryKept t0 t ∧ t.starting = none ∧ l ∈ t.launches ∧ l.queue = q ∧
        l.seq = r.seq ∧ l.cores = cores ∧ l.team = cores.length ∧ (∀ e ∈ (t.queue q).pending, e.seq ≠ r.seq) ∧
        (∀ i c, cores[i]? = some c → (t.core c).unit = some (q, r.seq) ∧ (r.chain = 0 →
          (t.ctx c 0).live = true ∧ (t.ctx c 0).pc = entry ∧ (t.ctx c 0).level = 0 ∧ (t.ctx c 0).rs 1 = BitVec.ofNat 64 args ∧
          (cores.Nodup → (t.ctx c 0).rs 2 = BitVec.ofNat 64 i) ∧ (t.ctx c 0).rs 3 = BitVec.ofNat 64 cores.length)))) ∧
  (∀ (p : Nat) (s : State), s.mayArbitrate p = true →
    ∃ t : State, exec (.launchArbitration p) s = .next t ∧ MemoryKept s t ∧
      ∀ q n, t.starting = some (q, n) → ∃ r, (q, r) ∈ (s.settle p).eligibles p ∧ r.seq = n ∧ ((s.settle p).placement p r.bytes).isSome = true) ∧
  (∀ (q n : Nat) (s : State) (l : Launch), s.launch? (q, n) = some l →
    (l.status = 0 →
      let run := exec (.preloadRun q n) s
      (∀ c, s.preloadOf l = none → l.cores[l.preload]? = some c → run = .next (s.startPreload l c)) ∧
      (∀ h, s.preloadOf l = some h → (s.runningChain h.chan).map (fun k => k.id) = some h.id → h.await = [] →
        let g := s.chainAgent h
        (s.mayBegin h = false → run = .next (s.unchoose h.chan)) ∧
        (s.mayBegin h = true → s.strandGoes h = true → s.unwalked g (s.strandRuns h) = [] → let y := s.endWalks g
          (∀ e, y.readStrand g h.cur = .error e → run = .next (y.endLaunch (q, n) 4)) ∧
          (∀ v u, y.readStrand g h.cur = .ok (v, u) →
            (strandOwn v = false → run = .next ((u.dropChain h).preloaded l)) ∧
            (strandOwn v = true → let w := u.chargeStrand h (cdiv (strandLen v) 64)
              (∀ e, w.strandCheck g false v = .error e → run = .next (w.endLaunch (q, n) 4)) ∧
              (∀ par w1, w.strandCheck g false v = .ok (par, w1) → bit (strandWord v) 21 = false → let r := w1.copyStrand g v par
                (r.1.st ≠ 1 → run = .next (r.2.2.endLaunch (q, n) 4)) ∧
                (∀ next z, r.1.st = 1 → r.2.2.bulkRead (r.2.2.chainAgent h) h.cur 8 = .ok (next, z) → next ≠ 0 →
                  ∃ (t : State) (k : Chain), run = .next t ∧ k.cur = next ∧ k.chan = h.chan ∧
                    t.chains = z.chains.map (fun e => if e.id == h.id then k else e)) ∧
                (∀ z, r.1.st = 1 → r.2.2.bulkRead (r.2.2.chainAgent h) h.cur 8 = .ok (0, z) → ∃ (t : State) (l' : Launch), run = .next t ∧ (∀ e ∈ t.chains, e.id ≠ h.id) ∧
                  t.launch? (q, n) = some l' ∧ l'.preload = l.preload + 1 ∧
                  (l.begun = false → (l'.begun = true ↔ l.preload + 1 = l.cores.length))))))))) ∧
    (s.mayFinish l = true →
      let p := fieldB l.bytes 48 8
      let k := s.queue q
      ∃ t : State, exec (.launchComplete q n) s = .next t ∧ (∀ e ∈ t.launches, ¬ (e.queue = q ∧ e.seq = n)) ∧
        (p / 2 ^ 48 = 0x3000 → p % 8 = 0 → Egress.write (p % 2 ^ 48) 8 ((if l.status = 0 then 1 else l.status) * 2 ^ 56 + n) false ∈ t.hub.egress) ∧
        (∀ t0, l.status = 0 → p ≠ 0 → p < 2 ^ 48 → p % 8 = 0 → fieldB l.bytes 40 8 = 0 →
          s.bulkWrite (s.hubAgent q) p 8 (2 ^ 56 + n) = .ok t0 → t.mem = t0.mem ∧ t.banks = t0.banks) ∧
        (bit (fieldB l.bytes 28 1) 0 = true → Egress.interrupt q ∈ t.hub.egress) ∧
        Tab.getD t.jobs (k.part * 2 ^ 32 + k.job) 0 = Tab.getD s.jobs (k.part * 2 ^ 32 + k.job) 0 + 1)) ∧
  (∀ (i : Nat) (s : State) (c : Cancel), s.cancels[i]? = some c →
    ∃ t : State, exec (.cancellation i) s = .next t ∧ t.cancels = s.cancels.eraseIdx i ∧ t.mem = s.mem ∧ t.banks = s.banks ∧
      (∀ q, ∀ r ∈ (t.queue q).pending, s.cancelHits c q r.seq r.bytes = false) ∧
      (∀ u l, s.launch? u = some l → s.cancelHits c l.queue l.seq l.bytes = true → l.status = 0 → ¬ (l.begun = true ∧ l.ended.length = l.team) →
        ∃ l', t.launch? u = some l' ∧ l'.status = 2))

/-- A branch that resolves (R71, R136, R238) leaves its context free to go on, and the commands held under it free to begin; a held
engine command leaves the commit buffer as it begins, in the core's issue order, and a launch leaves it to be issued again. The governor (R241) notes its
evaluation once per 1,024 ticks, and a core that a released unit has left goes to its heir: it runs a unit of that launch.
Rests on the model's choices of log entries 37 and 43. -/
def Obligations.BranchesResolveAndGovernor : Prop :=
  (∀ (c x : Nat) (s : State),
    (∀ v, (s.ctx c x).unresolved = some v →
      ∃ t : State, exec (.branchResolution c x) s = .next t ∧ MemoryKept s t ∧ RegsKept [] (s.ctx c x) (t.ctx c x) ∧
        (t.ctx c x).unresolved = none ∧ (t.ctx c x).pc = (s.ctx c x).pc ∧ (t.ctx c x).wait ≠ .branch ∧
        ∀ e ∈ (t.core c).commit, e.ctx = x → e.firm = true) ∧
    (∀ e, (s.ctx c x).unresolved = none → (s.core c).commit.head? = some e → e.firm = true → e.ctx = x →
      (∀ t0, (∀ h o, e.cmd ≠ .launch h o) → s.beginCmd c x e.cmd e.sv = some t0 →
        ∃ t : State, exec (.branchResolution c x) s = .next t ∧ (t.core c).commit.length + 1 = (t0.core c).commit.length ∧
          t.chains = t0.chains ∧ t.gathers = t0.gathers ∧ t.colls = t0.colls ∧ t.cancels = t0.cancels) ∧
      (∀ h o, e.cmd = .launch h o →
        ∃ t : State, exec (.branchResolution c x) s = .next t ∧ MemoryKept s t ∧ (t.core c).commit.length + 1 = (s.core c).commit.length ∧
          t.ctx c x = { s.ctx c x with wait := .none }))) ∧
  (∀ (die : Nat) (s : State), die < 4 → s.mayGovern die = true →
    ∃ t : State, exec (.governorEvaluation die) s = .next t ∧
      (s.hub.govAt.toList.getD die 0 < s.time / 1024 → t.hub.govAt.toList.getD die 0 = s.time / 1024) ∧
      (s.time / 1024 ≤ s.hub.govAt.toList.getD die 0 → (∀ e ∈ s.heirsReady die, (t.core e.1).heir = none) ∧
        ∀ c u l, s.heirsReady die = [(c, u)] → s.launch? u = some l → l.status = 0 →
          (s.setCore c { s.core c with heir := none }).banksFor [c] (recSlots l.bytes).length = true →
          (t.core c).unit = some u ∧ ∃ l', t.launch? u = some l' ∧ l'.cores = l.cores ++ [c] ∧ l'.team = l.team + 1))

/-- Eviction deadlines (R271, R300, R331 to R335). A request is posted or refused; a decision answers it: no while one is
pending, yes only where the queues it picks free what was asked by a last safe moment that is not past, and then every
picked queue is disabled; one that `evpost` posted has its answer in its result register and in bytes 24 to 31 of the request; at the last safe moment queues marked to run are stopped; a picked queue goes on from step to
step, or the deadline fails. Allowances are refilled up to twice the refill.
Rests on the model's choices of log entries 33, 49, 50, 87 and 115. -/
def Obligations.EvictionDeadlines : Prop :=
  (∀ (bs : List Byte) (s : State), let v := ofBytes (bs.take 64)
    (s.requestOk v = true → ∃ (t : State) (r : EvReq), exec (.bar2Evpost bs) s = .next t ∧ MemoryKept s t ∧ t.evicts = s.evicts ++ [r] ∧
      r.bytes = v ∧ r.core = none) ∧
    (s.requestOk v = false → ∃ t : State, exec (.bar2Evpost bs) s = .next t ∧ t.evicts = s.evicts ∧
      t.hub.evResult = s.hub.evResult ++ [(0x01, 0)])) ∧
  (∀ (idx : Nat) (s : State) (r : EvReq), s.evicts.find? (fun e => e.idx == idx) = some r → r.core = none →
    let u : State := { s with evicts := s.evicts.filter (fun e => e.idx != idx) }
    let p := fieldB r.bytes 16 1
    let pl := u.plan p (fieldB r.bytes 0 8) (fieldB r.bytes 8 8)
    ∃ t : State, exec (.evictionDecision idx) s = .next t ∧ t.evicts = u.evicts ∧ t.mem = s.mem ∧
      ((s.part p).deadline.isSome = true → t.parts = s.parts ∧ t.hub.evResult = s.hub.evResult ++ [(3 * 2 ^ 62, 0)]) ∧
      ((s.part p).deadline = none → pl.ok = false → t.parts = s.parts ∧ t.hub.evResult = s.hub.evResult ++ [(2 * 2 ^ 62, pl.soonest)]) ∧
      ((s.part p).deadline = none → pl.ok = true → (t.part p).evdl = fieldB r.bytes 0 8 ∧
        ((t.part p).evState = 1 ∨ (t.part p).evState = 2) ∧ t.hub.evResult = s.hub.evResult ++ [(2 ^ 62, pl.worst)] ∧
        ∀ c ∈ pl.picks, (t.queue c.1).enabled = false)) ∧
  (∀ (idx c x : Nat) (s : State) (r : EvReq), s.evicts.find? (fun e => e.idx == idx) = some r → r.core = some (c, x) →
    let u : State := { s with evicts := s.evicts.filter (fun e => e.idx != idx) }
    let p := fieldB r.bytes 16 1
    let pl := u.plan p (fieldB r.bytes 0 8) (fieldB r.bytes 8 8)
    let a : Nat × Nat := if (s.part p).deadline.isSome then (3, 0) else if pl.ok then (1, pl.worst) else (2, pl.soonest)
    let v := if a.1 = 1 then u.acceptDeadline p (fieldB r.bytes 0 8) pl else u
    let k := v.ctx c x
    let g : Agent := { stamp := v.nonce, core := c, part := v.partOf c, vdev := v.vdevOf c, xlat := k.xlat.toNat, level := k.level }
    ∀ t0, c < 1536 → k.live = true → k.wait = .evict idx → v.bulkWrite g (r.addr + 24) 8 a.2 = .ok t0 →
      ∃ t : State, exec (.evictionDecision idx) s = .next t ∧ MemoryKept t0 t ∧ t.parts = t0.parts ∧ t.queues = t0.queues ∧
        (t.ctx c x).rs (BitVec.ofNat 5 r.reg) = (if BitVec.ofNat 5 r.reg = 0 then 0 else BitVec.ofNat 64 (a.1 * 2 ^ 62)) ∧
        RegsKept [.s (r.reg % 32)] k (t.ctx c x) ∧ (t.ctx c x).wait = .none ∧ (t.ctx c x).pc = (k.pc + 12) % 2 ^ 48) ∧
  (∀ (s : State) (p deadline vac : Nat), let pl := s.plan p deadline vac
    pl.ok = true → vac / 65536 ≤ (pl.picks.map (fun c => (s.queue c.1).pages.length)).sum ∧ (s.time : Int) + 2000 ≤ pl.last) ∧
  (∀ (p q : Nat) (s : State) (d : Deadline), (s.part p).deadline = some d →
    (s.mayStop p = true →
      exec (.lastSafeMoment p) s = .next (s.setPart p { s.part p with deadline := some { d with stopped := true } })) ∧
    (s.moveFor p q = .start → ∃ (t : State) (k : Chain), exec (.deadlineChainStart p q) s = .next t ∧ MemoryKept s t ∧
      t.chains = s.chains ++ [k] ∧ k.mode = 3 ∧ k.queue = q ∧ k.part = p ∧ k.cur = (s.queue q).chainHead) ∧
    (s.moveFor p q = .finish → ∃ t : State, exec (.deadlineChainStart p q) s = .next t ∧ MemoryKept s t ∧
      (t.part p).freed = ((s.part p).freed + (s.queue q).pages.length) % 2 ^ 48) ∧
    (s.moveFor p q = .discard → ∃ t : State, exec (.deadlineChainStart p q) s = .next t ∧ MemoryKept s t ∧ (t.queue q).enabled = false ∧
      (t.part p).freed = ((s.part p).freed + (s.queue q).pages.length) % 2 ^ 48) ∧
    (s.moveFor p q = .preempt → ∃ t : State, exec (.deadlineChainStart p q) s = .next t ∧ MemoryKept s t ∧
      ∀ c, some c ∈ s.unitsOf q → (t.core c).preempt.isSome = true) ∧
    (s.moveFor p q = .fail → ∃ t : State, exec (.deadlineChainStart p q) s = .next t ∧ MemoryKept s t ∧
      (t.part p).deadline = none ∧ (t.part p).evState = 3 ∧ ∀ k ∈ t.chains, ¬ (2 ≤ k.mode ∧ k.part = p))) ∧
  (∀ (s : State), s.mayRefill = true → (Tab.keys s.parts).Nodup →
    ∃ t : State, exec .allowanceRefill s = .next t ∧ MemoryKept s t ∧ t.hub.refillAt = s.time / 1000 ∧
      ∀ p (i : Fin 6), let a := (s.part p).allow[i]
        (t.part p).allow[i] = { a with balance := min (a.balance + ((s.time / 1000 - s.hub.refillAt) * a.refill : Nat)) (2 * a.refill : Nat) })


/-! ### The host, firmware and the links -/

/-- What the host writes and reads (R152, R224, R239, R261, R264, R273, R274, R276, R284, R286, R310, R311, R330, R336): each
write changes what its rule names or nothing. An enabled ring keeps the ranges of R239; an accepted virtual-die map leaves no
entry in any TLB and comes into force once that invalidation is done and nothing refers to what it changes: no TLB holds an entry then,
and every byte of HBM stands under the virtual die that names its stack; the island's
point follows its limits; the host writes and reads device memory, a queue's Staging and its Status, which reads zero in
another function's window, a register of the host queue controls, the error log, and the boot status word, which alone answers after a
boot that failed (R221, R222, R275, R280, R281, R283); and a read of migration bits clears them. A chain that is registered is walked
first, which marks what it reads in the page tables (R267).
Rests on the model's choices of log entries 57, 59, 60, 71, 72 and 98. -/
def Obligations.HostRegisters : Prop :=
  (∀ (s : State) (cl r : Nat) (w : Word), cl < 192 → r < 32 →
    (∀ t, s.ringWrite cl r w = some t → exec (.ringcfgWrite cl r w) s = .next t ∧ MemoryKept s t ∧
      ((t.ring (cl * 32 + r)).enable = true → (t.ring (cl * 32 + r)).inRange = true) ∧
      ((s.ring (cl * 32 + r)).enable = true → (t.ring (cl * 32 + r)).items = (s.ring (cl * 32 + r)).items)) ∧
    (s.ringWrite cl r w = none → exec (.ringcfgWrite cl r w) s = .next s)) ∧
  (∀ (s : State) (q : Nat) (w : Word), q < 8192 → s.chosenQueue q = false →
    let d := s.disown q
    let walk := d.chainPages (d.hubAgent q) 4095 (bits w.toNat 47 6 * 64)
    ∃ t : State, exec (.wqchainWrite q w) s = .next t ∧ (t.queue q).chainHead = bits w.toNat 47 6 * 64 ∧
      ((w.getLsbD 63 = false ∨ walk = none) → MemoryKept s t ∧ (t.queue q).chainOn = false) ∧
      (∀ es u, w.getLsbD 63 = true → walk = some (es, u) → MemoryKept u t ∧
        ((t.queue q).chainOn = true → (t.queue q).pages = es.map (fun e => e.1) ∧ (t.queue q).ports = es.map (fun e => e.2))) ∧
      (w.getLsbD 63 = false → (t.queue q).chainOn = false ∧ (t.queue q).pages = [] ∧ ∀ e ∈ t.hub.owner, e.2 ≠ q) ∧
      ((t.queue q).chainOn = true → (t.queue q).pages ≠ [] ∧ ∀ p ∈ (t.queue q).pages, Tab.get? t.hub.owner p = some q ∧ p ∈ t.hub.ckpt)) ∧
  (∀ (s : State) (w : Word), let new := bits w.toNat 7 0
    let changed := (List.range 4).filter (fun d => stackOf new d != stackOf s.hub.vdiemap d)
    (s.hub.mapTo = none → mapOk new = true → (∀ d ∈ changed, s.references d = false) →
      ∃ t : State, exec (.vdiemapWrite w) s = .next t ∧ MemoryKept s t ∧ t.hub.vdiemap = s.hub.vdiemap ∧
        t.hub.mapTo = some (new, s.hub.invSeq + 1) ∧ (∀ c, (t.core c).l1 = []) ∧ (∀ r, (t.cluster r).l2 = [])) ∧
    (s.hub.mapTo = none → (mapOk new = false ∨ ∃ d ∈ changed, s.references d = true) → exec (.vdiemapWrite w) s = .next s) ∧
    (∀ q, s.hub.mapTo = some (new, q) →
      (s.mayRemap = true → ∃ t : State, exec (.vdiemapWrite w) s = .next t ∧ t.hub.vdiemap = new ∧ t.hub.mapTo = none ∧
        (∀ c, t.core c = { s.core c with l1 := [] }) ∧ (∀ r, (t.cluster r).l2 = []) ∧
        (mapOk new = true → mapOk s.hub.vdiemap = true → s.mem.wf = true →
          ∀ a, t.mem.byte (renameDie (stackFrom new s.hub.vdiemap) a) = s.mem.byte a)) ∧
      ((∃ v ∈ s.invals, v.seq = q ∧ s.invDone v = false) ∨ (∃ d ∈ changed, s.references d = true)
          ∨ (∃ h ∈ s.chains, dieOf h.core ∈ changed ∧ (h.await ≠ [] ∨ h.lane.isSome = true)) →
        exec (.vdiemapWrite w) s = .next s))) ∧
  (∀ (s : State) (p k : Nat) (w : Word), p < 256 →
    exec (.trapqWrite p k) s = .next (s.setPart p { s.part p with tqFatal := (s.part p).tqFatal.drop k }) ∧
    (w.getLsbD 63 = true → exec (.fatalClear p w) s = .next (s.setPart p { s.part p with fatal := (s.part p).fatal &&& 0x7FFFFFFFFFFFFFFF#64 }))) ∧
  (∀ (s : State) (v c x : Nat) (pc xlat w : Word),
    (v < 131072 → exec (.registerWrite (.dbidx v)) s = .next { s with hub := { s.hub with dbidx := v } }) ∧
    (∀ p cl q, p < 256 → cl < 192 → q < 8192 → exec (.registerWrite (.sys 0x183 p cl q w)) s =
      .next (s.setPart p { s.part p with chmask := bits w.toNat 39 0 })) ∧
    (c < 1536 → x < 16 → (s.ctx c x).live = false → (s.cluster (clusterOf c)).part ≠ none → dieOf c ∉ s.hub.absent →
      pc.toNat % 4 = 0 → pc.toNat < 2 ^ 48 →
      ∃ t : State, exec (.registerWrite (.startContext c x pc xlat)) s = .next t ∧ MemoryKept s t ∧ (t.ctx c x).live = true ∧
        (t.ctx c x).level = 2 ∧ (t.ctx c x).pc = pc.toNat ∧ (t.ctx c x).xlat = xlat &&& 0xFFFCFFFFFFFFF000#64 ∧
        (∀ i : SReg, (t.ctx c x).rs i = 0) ∧ ∀ y, y ≠ x → t.ctx c y = s.ctx c y)) ∧
  (∀ (s : State) (n : Nat) (w : Word) (temp : BitVec 8), n < 44 → let i := s.island n
    (∃ t : State, exec (.vfctlWrite n w) s = .next t ∧ MemoryKept s t ∧ (t.island n).request = bits w.toNat 2 0 ∧
      (t.island n).current = (if s.hub.ready then min (bits w.toNat 2 0) (min i.cap i.thermal) else 0)) ∧
    (∀ p, p < 8 → ∃ t : State, exec (.registerWrite (.cap n p)) s = .next t ∧ MemoryKept s t ∧ (t.island n).cap = p ∧
      (t.island n).current = (if s.hub.ready then min i.request (min p i.thermal) else 0)) ∧
    (i.busy ≠ 0 → i.busy ≤ s.time → ∃ t : State, exec (.pointChangeDone n) s = .next t ∧ MemoryKept s t ∧ t.island n = { i with busy := 0 }) ∧
    (∃ t : State, exec (.thermalStep n temp) s = .next t ∧ MemoryKept s t ∧ (t.island n).temp = temp.toNat ∧
      (t.island n).thermal = (if s.time / 1000000 ≤ i.thermAt then i.thermal else if 95 ≤ temp.toNat then i.thermal - 1
        else if temp.toNat ≤ 85 then min 7 (i.thermal + 1) else i.thermal))) ∧
  (∀ (s : State) (a n vdev q off : Nat) (bs : List Byte),
    let answers : HostPlace → Nat → Egress → Prop := fun p k e =>
      exec (.inboundRead p k) s = .next { s with hub := { s.hub with egress := s.hub.egress ++ [e] } }
    (s.hub.failure = 0 →
      (bs ≠ [] → s.devRange a bs.length = true →
        ∃ t : State, exec (.inboundPostedWrite (.device a bs)) s = .next t ∧ t.banks = s.banks ∧ t.cores = s.cores ∧
          t.mem = s.mem.write a bs.length (ofBytes bs)) ∧
      (s.ownsQueue vdev q = true → off + bs.length ≤ 512 →
        ∃ t : State, exec (.inboundPostedWrite (.staging vdev q off bs)) s = .next t ∧ MemoryKept s t ∧
          (t.queue q).staging = (s.queue q).staging.write off bs.length (ofBytes bs)) ∧
      (n ≠ 0 → s.devRange a n = true → answers (.device a) n (.readData a (bytesOf n (s.mem.read a n)))) ∧
      (vdev < 64 → s.ownsQueue vdev q = true →
        answers (.bar0 vdev (4096 * q + 0x808)) 4 (.barData vdev 0 (4096 * q + 0x808)
          (bytesOf 4 (b2n (s.queue q).overflow * 2 ^ 31 + (256 - (s.queue q).pending.length))))) ∧
      (vdev < 64 → q < 8192 → s.ownsQueue vdev q = false → n ≠ 0 → off + n ≤ 4096 →
        answers (.bar0 vdev (4096 * q + off)) n (.barData vdev 0 (4096 * q + off) (List.replicate n 0)))) ∧
    (∀ p cl k, p < 256 → cl < 192 → k < 8192 → answers (.control 0x194 p cl k) n (.control 0x194 p cl k (s.queue k).xlat.toNat)) ∧
    answers .errorLog n (.errorLog s.hub.log s.hub.corrected) ∧
    answers (.bar2 0) 8 (.barData 0 2 0 (bytesOf 8 (s.hub.failure * 2 ^ 8 + s.hub.life % 4 * 2 ^ 6 + s.hub.bootStep * 2 + b2n s.hub.ready))) ∧
    (s.hub.failure ≠ 0 → exec (.inboundPostedWrite (.device a bs)) s = .next s ∧
      exec (.inboundPostedWrite (.staging vdev q off bs)) s = .next s ∧ exec (.inboundRead (.device a) n) s = .next s ∧
      exec (.inboundRead (.bar0 vdev off) n) s = .next s)) ∧
  (∀ (s : State), let lo := 64 * s.hub.dbidx
    ∃ (t : State) (w : Nat), exec .dbword s = .next t ∧ MemoryKept s t ∧ t.hub.dbword = w ∧ t.hub.egress = s.hub.egress ++ [.dbword w] ∧
      (s.hub.migr.Nodup → ∀ i, i < 64 → w.testBit i = decide (lo + i ∈ s.hub.migr)) ∧
      ∀ p, p ∈ t.hub.migr ↔ (p ∈ s.hub.migr ∧ (p < lo ∨ lo + 64 ≤ p)))

/-- Links and measurements (R153, R279, R280, R283, R339): a flit in sequence, once forward error correction has mended up to four of
its bytes, moves the link on and frees what its credits name of the replay buffer; a peer's store is performed, and its load is
answered; a corrupt one counts a replay and one that fails after sixteen replays takes the link down with every unanswered access on it
refused; training brings it up afresh; a splice marker holds what follows; firmware returns the measurement registers, and each may be
extended only by its own. Rests on the model's choices of log entries 54, 68, 74 and 101. -/
def Obligations.LinksAndMeasurements : Prop :=
  (∀ (s : State) (n : Nat) (f : Flit) (job : BitVec 32), n < 8 → let l := s.link n
    let r := flitReceived f
    let u := (if flitWrong f = [] then s else s.repaired 4).setLink n
      { l with seq := (l.seq + 1) % 4096, replays := 0, replay := l.replay.drop (bits r.hdr.toNat 11 0) }
    (l.up = true → f.payload.length = 240 → f.parity.length = 8 →
      (flitOk r = true → bits r.hdr.toNat 23 12 ≠ l.seq → exec (.flitReceive n f) s = .next s) ∧
      (flitOk r = true → bits r.hdr.toNat 23 12 = l.seq → l.cut = none → bits r.hdr.toNat 31 28 ≠ 0xE →
        (f.use = .none → exec (.flitReceive n f) s = .next u) ∧
        (∀ a k, f.use = .store a k → k ≤ 240 → s.devRange a k = true →
          exec (.flitReceive n f) s = .next (u.devWrite a k (ofBytes (r.payload.take k)))) ∧
        (∀ a k, f.use = .load a k → k ≤ 240 → s.devRange a k = true → ∃ t : State, exec (.flitReceive n f) s = .next t ∧ MemoryKept s t ∧
          (t.link n).sendSeq = (l.sendSeq + 1) % 4096 ∧
          t.hub.egress = s.hub.egress ++ [.peerData n a (bytesOf k (s.mem.read a k))])) ∧
      (flitOk r = true → bits r.hdr.toNat 23 12 = l.seq → l.cut ≠ none →
        ∃ t : State, exec (.flitReceive n f) s = .next t ∧ MemoryKept s t ∧ (t.link n).heldFlits = l.heldFlits ++ [r] ∧ t.net = s.net) ∧
      (flitOk r = false → l.replays < 16 →
        exec (.flitReceive n f) s = .next ((s.setLink n { l with replays := l.replays + 1 }).repaired 4)) ∧
      (flitOk r = false → 16 ≤ l.replays → exec (.flitReceive n f) s = exec (.linkDown n) s)) ∧
    (∃ t : State, exec (.linkDown n) s = .next t ∧ MemoryKept s t ∧ (t.link n).up = false ∧
      ∀ a ∈ t.net, a.onLink n = true → a.crossDie = true → a.refused = some 0x11 ∧ a.performed = false) ∧
    (∃ t : State, exec (.linkRetrain n) s = .next t ∧ MemoryKept s t ∧ (t.link n).up = true ∧ (t.link n).replays = 0 ∧
      (t.link n).seq = 0 ∧ (t.link n).sendSeq = 0 ∧ (t.link n).replay = []) ∧
    (exec (.spliceMarkerReceive n job) s = .next (s.setLink n { l with cut := some job.toNat }))) ∧
  (∀ (s : State) (r : Nat) (v : List Byte), s.hub.failure = 0 →
    let ext := fun (t : State) => MemoryKept s t ∧
      t.hub.measure.toList.getD r 0 = sha384 (bytesOf 48 (s.hub.measure.toList.getD r 0) ++ v) ∧
      ∀ i, i ≠ r → t.hub.measure.toList.getD i 0 = s.hub.measure.toList.getD i 0
    (8 ≤ r → r < 24 → ∃ t : State, exec (.measurementExtend r v) s = .next t ∧ ext t) ∧
    (r < 8 → exec (.measurementExtend r v) s = .next s) ∧
    (4 ≤ r → r < 8 → ∃ t : State, exec (.firmwareUpdate r v) s = .next t ∧ ext t) ∧
    (8 ≤ r → exec (.firmwareUpdate r v) s = .next s) ∧
    (exec .getMeasurements s = .next { s with hub := { s.hub with egress := s.hub.egress ++ [.measurements s.hub.measure.toList] } }))

/-- Reset, dies, partitions, stops and cuts (R213, R261, R278, R280 to R282, R322, R337 to R339): a reset wipes everything but the CXL tier and
boots as its inputs let it, and no key that a slot has had comes again; a life cycle only advances, and wipes; a reset die is absent, runs nothing and homes no slice
until it comes back with its banks zero; a partition that is torn down has no cluster, zero pages and a new key; a stop
disables every queue; a restored image puts its queues back, and one that fails leaves no queue enabled.
Rests on the model's choices of log entries 8, 65, 67, 68, 70 and 73. -/
def Obligations.DeviceLife : Prop :=
  (∀ (s : State) (b : BootInput),
    let wiped := fun (t : State) => t.mem = s.mem.filter (fun e => inTier e.1) ∧ t.banks = [] ∧ t.tags = [] ∧ t.net = [] ∧ t.launches = [] ∧
      (∀ c x, (t.ctx c x).live = false) ∧ (∀ r, (t.cluster r).part = none) ∧ (∀ q, (t.queue q).enabled = false) ∧
      ∀ p, (t.part p).keyNo = (s.part p).keyNo + (if p ∈ Tab.keys s.parts then 1 else 0) ∧ (t.part p).pageCtr = 0
    (∃ t : State, exec (.deviceReset b) s = .next t ∧ wiped t ∧ t.time = 0 ∧
      (b.sigOk = false → t.hub.failure = 1 ∧ t.hub.ready = false) ∧
      (b.sigOk = true → b.fuseOk = false → t.hub.failure = 2 ∧ t.hub.ready = false) ∧
      (b.sigOk = true → b.fuseOk = true → b.trainOk = false → t.hub.failure = 3 ∧ t.hub.ready = false) ∧
      (b.sigOk = true → b.fuseOk = true → b.trainOk = true → t.hub.failure = 0 ∧ t.hub.ready = true ∧
        t.hub.vdiemap = (if mapOk b.vdiemap.toNat then b.vdiemap.toNat else 0xE4))) ∧
    (s.hub.life < 3 → ∃ t : State, exec (.lifeCycleAdvance true) s = .next t ∧ wiped t ∧ t.hub.life = s.hub.life + 1) ∧
    (exec (.lifeCycleAdvance false) s = .next s)) ∧
  (∀ (s : State) (d : Nat), d < 4 →
    (d ∉ s.hub.absent → ∃ t : State, exec (.dieReset d) s = .next t ∧ d ∈ t.hub.absent ∧ t.banks = (s.settleDie d).banks ∧
      (∀ c x, dieOf c = d → (t.ctx c x).live = false) ∧ (∀ e ∈ t.slices, onDie d e.addr = false) ∧
      (∀ c, dieOf c = d → (t.core c).mq = [])) ∧
    (s.mayComeBack d = true → ∃ t : State, exec (.dieResetComplete d) s = .next t ∧ d ∉ t.hub.absent ∧ d ∉ t.hub.failed ∧
      ((∀ h ∈ s.chains, h.done = true → dieOf h.core ≠ d) → t.mem = s.mem) ∧
      (∀ a, t.banks.byte a = if a / 4194304 / 48 = d then 0 else s.banks.byte a) ∧
      (∀ c, c < 1536 → dieOf c = d → (t.core c).slots = [] ∧ (t.core c).ctxs = []) ∧
      (∀ a ∈ t.net, dieOf a.core ≠ d ∨ ∃ k ∈ s.chains, a.id ∈ k.await))) ∧
  (∀ (s : State) (p v : Nat) (pages : List Nat), p < 256 →
    (∃ t : State, exec (.partitionTeardown p pages) s = .next t ∧ (∀ r, (t.cluster r).part ≠ some p) ∧
      (∀ a, a % 2 ^ 48 / 65536 ∈ pages → a % 2 ^ 48 < 2 ^ 39 → a / 2 ^ 48 < 5 → t.mem.byte a = 0) ∧
      (∀ a, a % 2 ^ 48 / 65536 ∉ pages → t.mem.byte a = s.mem.byte a) ∧
      (t.part p).keyNo = (s.part p).keyNo + 1 ∧ (t.part p).keyGen = ((s.part p).keyGen + 1) % 256 ∧ (t.part p).pageCtr = 0) ∧
    (v < 64 → exec (.partitionCreation p v) s = .next (s.setPart p { s.part p with
      keyNo := (s.part p).keyNo + 1, keyGen := ((s.part p).keyGen + 1) % 256, pageCtr := 0, vdev := v }))) ∧
  (∀ (s : State) (a : Nat) (job : BitVec 32), s.hub.stopping = none →
    (a % 4096 = 0 → s.devRange a 1 = true → s.mayBeStopped = true → ∃ t : State, exec (.migrationStop a) s = .next t ∧ MemoryKept s t ∧
      t.hub.stopping = some (a, none) ∧ t.hub.stopErr = false ∧ (∀ q, (t.queue q).enabled = false) ∧
      ∀ q, (t.queue q).pending = (s.queue q).pending) ∧
    (a % 4096 = 0 → s.devRange a 1 = true → s.mayBeStopped = false →
      exec (.migrationStop a) s = .next { s with hub := { s.hub with stopErr := true } }) ∧
    (s.mayBeStopped = true → ∃ t : State, exec (.jobCut job) s = .next t ∧ MemoryKept s t ∧
      t.hub.stopping = some (s.hub.stopAddr, some job.toNat) ∧ (∀ q, (t.queue q).enabled = false) ∧
      t.hub.egress = s.hub.egress ++ (s.jobLinks job.toNat).map (fun n => Egress.splice n job))) ∧
  (∀ (s : State) (a : Nat), a % 4096 = 0 → s.devRange a 1 = true →
    let hd := s.mem.read a 64
    let qs := (s.readQueues (fieldB hd 4 2) (a + 64)).1
    (fieldB hd 0 4 ≠ 0x56530001 → ∃ t : State, exec (.stopImageRestore a) s = .next t ∧ MemoryKept s t ∧ t.hub.restoreErr = true ∧
      ∀ q, (t.queue q).enabled = false) ∧
    (fieldB hd 0 4 = 0x56530001 → fieldB hd 6 2 = 0 → fieldB hd 8 2 = 0 → (qs.map (fun e => e.queue)).Nodup →
      ∃ t : State, exec (.stopImageRestore a) s = .next t ∧
        ((∀ e ∈ qs, bit (fieldB e.word 16 8) 63 = false) → (∀ n, n < 8 → (s.link n).heldFlits = []) → t.mem = s.mem) ∧ t.hub.restoreErr = false ∧ t.hub.stopping = none ∧
        ∀ e ∈ qs, (t.queue e.queue).enabled = bit (fieldB e.word 8 8) 63 ∧ (t.queue e.queue).nextSeq = fieldB e.word 4 4 ∧
          (t.queue e.queue).pending.map (fun r => (r.n, r.bytes)) = e.recs))


/-! ### The frame of the instructions that write registers only -/

/-- The instructions of classes 0x0, 0x1, 0x3 and 0x5 that write registers of their context and nothing else, and cannot
trap once they issue. -/
def registerOnly : Instr → Bool
  | .add .. | .sub .. | .mul .. | .mulh .. | .div .. | .rem .. | .and .. | .or .. | .xor .. | .shl .. | .shr ..
  | .sar .. | .min .. | .max .. | .sel .. | .li .. | .lui .. | .mov .. | .cmpEq .. | .cmpNe .. | .cmpLt ..
  | .cmpLe .. | .cmpGt .. | .cmpGe .. | .pspace .. | .powner .. | .poff .. | .fadd .. | .fsub .. | .fmul ..
  | .ffma .. | .fdiv .. | .fsqrt .. | .fmin .. | .fmax .. | .fcvt .. | .fcmpEq .. | .fcmpNe .. | .fcmpLt ..
  | .fcmpLe .. | .fcmpGt .. | .fcmpGe .. | .fcmpUn .. | .vadd .. | .vsub .. | .vmul .. | .vfma .. | .vmin ..
  | .vmax .. | .vand .. | .vor .. | .vxor .. | .vsel .. | .vcvt .. | .vred .. | .vbcast .. | .vshuf ..
  | .vcmpEq .. | .vcmpNe .. | .vcmpLt .. | .vcmpLe .. | .vcmpGt .. | .vcmpGe .. | .vcmpUn .. | .exp2 ..
  | .log2 .. | .exp .. | .log .. | .rcp .. | .rsqrt .. | .tanh .. | .sigm .. | .nop .. => true
  | _ => false

/-- The frame of those instructions (R59 to R68, R72, R75 to R80, R89): every register but the ones named keeps its value,
and everything but the issuing context's registers and place is as before: memory, every other context and core, the
distribution registers, tiles, queues and every special register. Rests on the model's choice of log entry 87. -/
def Obligations.RegisterOnlyFrame : Prop :=
  ∀ (i : Instr) (h : Hdr) (s : State), Instr.hdr? i = some h → registerOnly i = true → s.issues h (Instr.need i) = true →
    ∃ t, exec i s = .next t ∧ OnlyContextChanged s t ∧ MemoryKept s t ∧ RegsKept (regsWritten i) s.me t.me ∧
      t.me.pc = (s.me.pc + 12) % 2 ^ 48
end

