-- ==== Sys2Proof/Laws/Codec.lean ====
section
/-!
SUPPORT. The encoder's fields read back: one lemma for each kind of operand field (R22 to R27), for the header (R20), and
for each operand shape.
-/

namespace Sys2Proof

/-! ### Parts of joined fields -/

theorem bitB_boolBit (b : Bool) : bitB (boolBit b) = b := by cases b <;> rfl

theorem extract_high {v w n : Nat} (x : BitVec v) (y : BitVec w) (a l : Nat) (h : w ≤ a) (hn : v + w = n) :
    @BitVec.extractLsb' n a l ((x ++ y).cast hn) = x.extractLsb' (a - w) l := by
  subst hn; exact BitVec.extractLsb'_append_eq_of_le h

theorem extract_low {v w n : Nat} (x : BitVec v) (y : BitVec w) (a l : Nat) (h : a + l ≤ w) (hn : v + w = n) :
    @BitVec.extractLsb' n a l ((x ++ y).cast hn) = y.extractLsb' a l := by
  subst hn; exact BitVec.extractLsb'_append_eq_of_add_le h

theorem splitReg_joinReg (r : RegField) : splitReg (joinReg r) = r := by
  cases r with | mk k i t m s n l =>
  simp only [splitReg, joinReg, RegField.mk.injEq]
  refine ⟨?_, ?_, ?_, ?_, (congrArg bitB ?_).trans (bitB_boolBit s), (congrArg bitB ?_).trans (bitB_boolBit n), ?_⟩ <;>
  repeat (first | exact BitVec.extractLsb'_eq_self | refine (extract_low _ _ _ _ (by decide) rfl).trans ?_ | refine (extract_high _ _ _ _ (by decide) rfl).trans ?_)

@[simp] theorem ETy.ofCode_code (t : ETy) : ETy.ofCode t.code = some t := by cases t <;> rfl
@[simp] theorem RMode.ofCode_code (m : RMode) : RMode.ofCode m.code = m := by cases m <;> rfl
@[simp] theorem PClass.ofCode_code (p : PClass) : PClass.ofCode p.code = some p := by cases p <;> rfl
@[simp] theorem Scope.ofCode_code (c : Scope) : Scope.ofCode c.code = some c := by cases c <;> rfl
@[simp] theorem Path.ofCode_code (p : Path) : Path.ofCode p.code = some p := by cases p <;> rfl
@[simp] theorem Scope.ofCode_zero : Scope.ofCode 0#3 = none := rfl
@[simp] theorem Scope.code_ne_seven (c : Scope) : c.code ≠ 7#3 := by cases c <;> decide
@[simp] theorem Scope.code_ne_zero (c : Scope) : c.code ≠ 0#3 := by cases c <;> decide
@[simp] theorem RMode.code_rn : RMode.rn.code = 0#2 := rfl

/-! ### Register fields (R22, R23) -/

@[simp] theorem splitReg_regField (k : BitVec 3) (i : BitVec 5) (t : BitVec 4) (m : RMode) (sat neg : Bool) (low : BitVec 8) :
    splitReg (regField k i t m sat neg low) = { kind := k, idx := i, ty := t, rnd := m.code, sat := sat, neg := neg, low := low } :=
  splitReg_joinReg _

@[simp] theorem getDst_dstField (k : BitVec 3) (i : BitVec 5) (t : ETy) (m : RMode) (sat : Bool) (low : BitVec 8) :
    getDst k (dstField k i t m sat low) = some { idx := i, ty := t, rnd := m, sat := sat, low := low } := by
  simp [getDst, dstField]

@[simp] theorem getDst_dstField_other (k j : BitVec 3) (h : j ≠ k) (i : BitVec 5) (t : ETy) (m : RMode) (sat : Bool) (low : BitVec 8) :
    getDst k (dstField j i t m sat low) = none := by simp [getDst, dstField, h]

@[simp] theorem getDst0_dst0Field (k : BitVec 3) (i : BitVec 5) (t : ETy) :
    getDst0 k (dst0Field k i t) = some { idx := i, ty := t, neg := false } := by
  have h : getDst k (dst0Field k i t) = some { idx := i, ty := t, rnd := .rn, sat := false, low := 0 } :=
    getDst_dstField k i t .rn false 0
  simp [getDst0, h]

@[simp] theorem getSrc_srcField (k : BitVec 3) (i : BitVec 5) (t : ETy) (neg : Bool) :
    getSrc k (srcField k i t neg) = some { idx := i, ty := t, neg := neg } := by simp [getSrc, srcField]

@[simp] theorem getSrc_srcField_other (k j : BitVec 3) (h : j ≠ k) (i : BitVec 5) (t : ETy) (neg : Bool) :
    getSrc k (srcField j i t neg) = none := by simp [getSrc, srcField, h]

@[simp] theorem getSrcT_srcField (k : BitVec 3) (i : BitVec 5) (t : ETy) : getSrcT k t (srcField k i t false) = some i := by
  simp [getSrcT]

@[simp] theorem getSrcT_srcField_other (k j : BitVec 3) (h : j ≠ k) (i : BitVec 5) (t u : ETy) (neg : Bool) :
    getSrcT k u (srcField j i t neg) = none := by simp [getSrcT, h]

@[simp] theorem getDstT_dst0Field (k : BitVec 3) (i : BitVec 5) (t : ETy) : getDstT k t (dst0Field k i t) = some i := by
  simp [getDstT]

@[simp] theorem unused_zero : unused 0#24 = some () := rfl

@[simp] theorem idx4_wide4 (i : BitVec 4) : idx4 (wide4 i) = some i := by revert i; decide
@[simp] theorem idx3_wide3 (i : BitVec 3) : idx3 (wide3 i) = some i := by revert i; decide

/-! ### Immediates -/

@[simp] theorem getImm_immField (v : BitVec 21) : getImm (immField v) = some v := by
  have h1 : (immField v).extractLsb' 21 3 = 7#3 := (extract_high (7#3) v 21 3 (by decide) rfl).trans BitVec.extractLsb'_eq_self
  have h2 : (immField v).extractLsb' 0 21 = v := (extract_low (7#3) v 0 21 (by decide) rfl).trans BitVec.extractLsb'_eq_self
  simp [getImm, h1, h2]

theorem kind_regField (k : BitVec 3) (i : BitVec 5) (t : BitVec 4) (m : RMode) (sat neg : Bool) (low : BitVec 8) :
    (regField k i t m sat neg low).extractLsb' 21 3 = k := congrArg RegField.kind (splitReg_regField k i t m sat neg low)

@[simp] theorem getImm_srcField (k : BitVec 3) (h : k ≠ 7#3) (i : BitVec 5) (t : ETy) (neg : Bool) :
    getImm (srcField k i t neg) = none := by simp [getImm, srcField, kind_regField, h]

@[simp] theorem getSrc_immField (k : BitVec 3) (h : k ≠ 7#3) (v : BitVec 21) : getSrc k (immField v) = none := by
  have h1 : (splitReg (immField v)).kind = 7#3 := (extract_high (7#3) v 21 3 (by decide) rfl).trans BitVec.extractLsb'_eq_self
  simp [getSrc, h1, Ne.symm h]

@[simp] theorem getSmall_smallField (n : Nat) (hn : n ≤ 21) (v : BitVec n) : getSmall n (smallField v) = some v := by
  have h : v.toNat < 2 ^ 21 := Nat.lt_of_lt_of_le v.isLt (Nat.pow_le_pow_right (by decide) hn)
  have e : (BitVec.ofNat 21 v.toNat).toNat = v.toNat := Nat.mod_eq_of_lt h
  simp only [getSmall, smallField, getImm_immField]
  rw [e, if_pos v.isLt]
  exact congrArg some (BitVec.eq_of_toNat_eq (Nat.mod_eq_of_lt v.isLt))

@[simp] theorem getSmall_srcField (n : Nat) (k : BitVec 3) (h : k ≠ 7#3) (i : BitVec 5) (t : ETy) (neg : Bool) :
    getSmall n (srcField k i t neg) = none := by simp [getSmall, h]

@[simp] theorem getSI_siField (t : ETy) (c : SrcSI) : getSI t (siField t c) = some c := by
  cases c <;> simp [getSI, siField, kS]

@[simp] theorem getVSI_vsiField (t : ETy) (c : SrcVSI) (neg : Bool) (h : cnegOk c neg = true) :
    getVSI t (vsiField t c neg) = some (c, neg) := by
  cases c <;> simp_all [getVSI, vsiField, cnegOk, kS, kV]

@[simp] theorem getVSI_vsiField_plain (t : ETy) (c : SrcVSI) : getVSI t (vsiField t c false) = some (c, false) :=
  getVSI_vsiField t c false (by cases c <;> rfl)

@[simp] theorem getSV_svField (c : SrcSV) : getSV (svField c) = some c := by
  cases c <;> simp [getSV, svField, kS, kV]

/-! ### Memory operands (R26) and sweep operands (R27) -/

@[simp] theorem getMem_memField (sc : BitVec 3) (h : sc ≠ 7#3) (base : SReg) (t : ETy) (disp : BitVec 12) :
    getMem (memField sc base t disp) = some { sc := sc, base := base, ty := t, disp := disp } := by
  have h1 : (memField sc base t disp).extractLsb' 12 4 = t.code := by
    repeat (first | exact BitVec.extractLsb'_eq_self | refine (extract_low _ _ _ _ (by decide) rfl).trans ?_ | refine (extract_high _ _ _ _ (by decide) rfl).trans ?_)
  have h2 : (memField sc base t disp).extractLsb' 21 3 = sc := by
    repeat (first | exact BitVec.extractLsb'_eq_self | refine (extract_low _ _ _ _ (by decide) rfl).trans ?_ | refine (extract_high _ _ _ _ (by decide) rfl).trans ?_)
  have h3 : (memField sc base t disp).extractLsb' 16 5 = base := by
    repeat (first | exact BitVec.extractLsb'_eq_self | refine (extract_low _ _ _ _ (by decide) rfl).trans ?_ | refine (extract_high _ _ _ _ (by decide) rfl).trans ?_)
  have h4 : (memField sc base t disp).extractLsb' 0 12 = disp := by
    repeat (first | exact BitVec.extractLsb'_eq_self | refine (extract_low _ _ _ _ (by decide) rfl).trans ?_ | refine (extract_high _ _ _ _ (by decide) rfl).trans ?_)
  simp [getMem, h1, h2, h3, h4, h]

@[simp] theorem getMem0_memField (base : SReg) (t : ETy) (disp : BitVec 12) :
    getMem0 t (memField 0#3 base t disp) = some (base, disp) := by simp [getMem0]

@[simp] theorem getSw_swField (a : SwAddr) : getSw (swField a) = a := by
  cases a with | mk b st d =>
  simp only [getSw, swField, SwAddr.mk.injEq]
  refine ⟨?_, ?_, ?_⟩ <;>
  repeat (first | exact BitVec.extractLsb'_eq_self | refine (extract_low _ _ _ _ (by decide) rfl).trans ?_ | refine (extract_high _ _ _ _ (by decide) rfl).trans ?_)

@[simp] theorem getSwC_swCField (n : BitVec 12) (kind : BitVec 3) (mid : BitVec 5) (m : RMode) (sat : Bool) :
    getSwC (swCField n kind mid m sat) = some { n := n, kind := kind, mid := mid, rnd := m, sat := sat } := by
  have h0 : (swCField n kind mid m sat).extractLsb' 0 1 = 0#1 := by
    repeat (first | exact BitVec.extractLsb'_eq_self | refine (extract_low _ _ _ _ (by decide) rfl).trans ?_ | refine (extract_high _ _ _ _ (by decide) rfl).trans ?_)
  have h1 : (swCField n kind mid m sat).extractLsb' 12 12 = n := by
    repeat (first | exact BitVec.extractLsb'_eq_self | refine (extract_low _ _ _ _ (by decide) rfl).trans ?_ | refine (extract_high _ _ _ _ (by decide) rfl).trans ?_)
  have h2 : (swCField n kind mid m sat).extractLsb' 9 3 = kind := by
    repeat (first | exact BitVec.extractLsb'_eq_self | refine (extract_low _ _ _ _ (by decide) rfl).trans ?_ | refine (extract_high _ _ _ _ (by decide) rfl).trans ?_)
  have h3 : (swCField n kind mid m sat).extractLsb' 4 5 = mid := by
    repeat (first | exact BitVec.extractLsb'_eq_self | refine (extract_low _ _ _ _ (by decide) rfl).trans ?_ | refine (extract_high _ _ _ _ (by decide) rfl).trans ?_)
  have h4 : (swCField n kind mid m sat).extractLsb' 2 2 = m.code := by
    repeat (first | exact BitVec.extractLsb'_eq_self | refine (extract_low _ _ _ _ (by decide) rfl).trans ?_ | refine (extract_high _ _ _ _ (by decide) rfl).trans ?_)
  have h5 : (swCField n kind mid m sat).extractLsb' 1 1 = boolBit sat := by
    repeat (first | exact BitVec.extractLsb'_eq_self | refine (extract_low _ _ _ _ (by decide) rfl).trans ?_ | refine (extract_high _ _ _ _ (by decide) rfl).trans ?_)
  simp [getSwC, h0, h1, h2, h3, h4, h5, bitB_boolBit]

/-! ### Fields put together from parts -/

theorem predicate_low (neg : Bool) (p : BitVec 3) :
    (0#4 ++ boolBit neg ++ p : BitVec 8).extractLsb' 4 4 = 0#4 ∧
    bitB ((0#4 ++ boolBit neg ++ p : BitVec 8).extractLsb' 3 1) = neg ∧
    (0#4 ++ boolBit neg ++ p : BitVec 8).extractLsb' 0 3 = p := by
  cases neg <;> revert p <;> decide

theorem channel_identifier (ch : BitVec 8) (id : BitVec 16) :
    (ch ++ id : BitVec 24).extractLsb' 16 8 = ch ∧ (ch ++ id : BitVec 24).extractLsb' 0 16 = id :=
  ⟨(extract_high ch id 16 8 (by decide) rfl).trans BitVec.extractLsb'_eq_self,
   (extract_low ch id 0 16 (by decide) rfl).trans BitVec.extractLsb'_eq_self⟩

theorem system_number (n : BitVec 12) :
    (n ++ 0#12 : BitVec 24).extractLsb' 12 12 = n ∧ (n ++ 0#12 : BitVec 24).extractLsb' 0 12 = 0#12 :=
  ⟨(extract_high n 0#12 12 12 (by decide) rfl).trans BitVec.extractLsb'_eq_self,
   (extract_low n 0#12 0 12 (by decide) rfl).trans BitVec.extractLsb'_eq_self⟩

/-! ### The header (R20) -/

@[simp] theorem hdrOf_hdrBits (h : Hdr) : hdrOf (hdrBits h) = some h := by
  have e1 : (hdrBits h).extractLsb' 1 2 = h.phase.code := by
    repeat (first | exact BitVec.extractLsb'_eq_self | refine (extract_low _ _ _ _ (by decide) rfl).trans ?_ | refine (extract_high _ _ _ _ (by decide) rfl).trans ?_)
  have e2 : (hdrBits h).extractLsb' 11 1 = boolBit h.neg := by
    repeat (first | exact BitVec.extractLsb'_eq_self | refine (extract_low _ _ _ _ (by decide) rfl).trans ?_ | refine (extract_high _ _ _ _ (by decide) rfl).trans ?_)
  have e3 : (hdrBits h).extractLsb' 8 3 = h.guard := by
    repeat (first | exact BitVec.extractLsb'_eq_self | refine (extract_low _ _ _ _ (by decide) rfl).trans ?_ | refine (extract_high _ _ _ _ (by decide) rfl).trans ?_)
  have e4 : (hdrBits h).extractLsb' 4 4 = h.stall := by
    repeat (first | exact BitVec.extractLsb'_eq_self | refine (extract_low _ _ _ _ (by decide) rfl).trans ?_ | refine (extract_high _ _ _ _ (by decide) rfl).trans ?_)
  have e5 : (hdrBits h).extractLsb' 3 1 = boolBit h.yield := by
    repeat (first | exact BitVec.extractLsb'_eq_self | refine (extract_low _ _ _ _ (by decide) rfl).trans ?_ | refine (extract_high _ _ _ _ (by decide) rfl).trans ?_)
  have e6 : (hdrBits h).extractLsb' 0 1 = boolBit h.reuse := by
    repeat (first | exact BitVec.extractLsb'_eq_self | refine (extract_low _ _ _ _ (by decide) rfl).trans ?_ | refine (extract_high _ _ _ _ (by decide) rfl).trans ?_)
  simp [hdrOf, e1, e2, e3, e4, e5, e6, bitB_boolBit]

/-- A word's class, operation, header and fields read back (R18). -/
theorem assemble_fields (cls : BitVec 4) (op : BitVec 8) (h : Hdr) (f : Fields) :
    (assemble cls op h f).extractLsb' 92 4 = cls ∧ (assemble cls op h f).extractLsb' 84 8 = op ∧
    (assemble cls op h f).extractLsb' 72 12 = hdrBits h ∧ (assemble cls op h f).extractLsb' 48 24 = f.a ∧
    (assemble cls op h f).extractLsb' 24 24 = f.b ∧ (assemble cls op h f).extractLsb' 0 24 = f.c := by
  refine ⟨?_, ?_, ?_, ?_, ?_, ?_⟩ <;>
  repeat (first | exact BitVec.extractLsb'_eq_self | refine (extract_low _ _ _ _ (by decide) rfl).trans ?_ | refine (extract_high _ _ _ _ (by decide) rfl).trans ?_)

/-- Decoding a word that was assembled: its operation in its class, with its header and fields. -/
theorem decode_assemble (cls : BitVec 4) (op : BitVec 8) (h : Hdr) (f : Fields) :
    decode (assemble cls op h f) =
      (match instrOf cls.toNat op.toNat h f with
       | some i => if i.wf then some i else none
       | none => none) := by
  obtain ⟨h1, h2, h3, h4, h5, h6⟩ := assemble_fields cls op h f
  simp only [decode, h1, h2, h3, h4, h5, h6, hdrOf_hdrBits] <;> rfl

/-! ### Operand shapes -/

@[simp] theorem parseRRI_build (x : OpRRI) : parseRRI (buildRRI x) = some x := by
  simp [parseRRI, buildRRI, kS]

@[simp] theorem parseSel_build (x : OpSel) : parseSel (buildSel x) = some x := by
  obtain ⟨h1, h2, h3⟩ := predicate_low x.neg x.p
  simp [parseSel, buildSel, kS, h1, h2, h3]

@[simp] theorem parseImm24_build (x : OpImm) : parseImm24 (buildImm24 x) = some x := by
  simp [parseImm24, buildImm24, kS]

@[simp] theorem parseMov_build (x : OpMov) : parseMov (buildMov x) = some x := by
  simp [parseMov, buildMov, kS]

@[simp] theorem parseCmp_build (x : OpCmp) : parseCmp (buildCmp x) = some x := by
  simp [parseCmp, buildCmp, kS, kP]

@[simp] theorem parsePtr_build (x : OpPtr) : parsePtr (buildPtr x) = some x := by
  simp [parsePtr, buildPtr, kS]

@[simp] theorem parseRR_build (x : OpRR) : parseRR (buildRR x) = some x := by
  simp [parseRR, buildRR, kS]

@[simp] theorem parseFA_build (x : OpFA) : parseFA (buildFA x) = some x := by
  simp [parseFA, buildFA, kS]

@[simp] theorem parseFU_build (x : OpFU) : parseFU (buildFU x) = some x := by
  simp [parseFU, buildFU, kS]

@[simp] theorem parseCvt_build (x : OpCvt) : parseCvt (buildCvt x) = some x := by
  simp [parseCvt, buildCvt, kS]

@[simp] theorem parseFCmp_build (x : OpFCmp) : parseFCmp (buildFCmp x) = some x := by
  simp [parseFCmp, buildFCmp, kS, kP]

@[simp] theorem parseROff_build (x : OpROff) : parseROff (buildROff x) = some x := by
  simp [parseROff, buildROff, kS]

@[simp] theorem parseVA_build (x : OpVA) (h : cnegOk x.c x.cneg = true) : parseVA (buildVA x) = some x := by
  simp [parseVA, buildVA, kV, h]

@[simp] theorem parseVSel_build (x : OpVSel) : parseVSel (buildVSel x) = some x := by
  obtain ⟨h1, h2, h3⟩ := predicate_low x.neg x.p
  simp [parseVSel, buildVSel, kV, h1, h2, h3]

@[simp] theorem parseVShuf_build (x : OpVShuf) : parseVShuf (buildVShuf x) = some x := by
  simp [parseVShuf, buildVShuf, kV]

@[simp] theorem parseVCvt_build (x : OpVCvt) : parseVCvt (buildVCvt x) = some x := by
  simp [parseVCvt, buildVCvt, kV]

@[simp] theorem parseVRed_build (x : OpVRed) : parseVRed (buildVRed x) = some x := by
  simp [parseVRed, buildVRed, kS, kV]

@[simp] theorem parseVBc_build (x : OpVBc) : parseVBc (buildVBc x) = some x := by
  simp [parseVBc, buildVBc, kV]

@[simp] theorem parseVCmp_build (x : OpVCmp) : parseVCmp (buildVCmp x) = some x := by
  simp [parseVCmp, buildVCmp, kV, kP]

@[simp] theorem parseVLd_build (x : OpVMem) : parseVLd (buildVLd x) = some x := by
  simp [parseVLd, buildVLd, kV]

@[simp] theorem parseVSt_build (x : OpVMem) : parseVSt (buildVSt x) = some x := by
  simp [parseVSt, buildVSt, kV]

@[simp] theorem parseSfn_build (x : OpSfn) : parseSfn (buildSfn x) = some x := by
  cases x with | mk ty rnd sat r bneg =>
  cases r <;> simp [parseSfn, buildSfn, kS, kV]

@[simp] theorem parseMld_build (x : OpMld) : parseMld (buildMld x) = some x := by
  simp [parseMld, buildMld, kS]

@[simp] theorem parseMmac_build (x : OpMmac) : parseMmac (buildMmac x) = some x := by
  simp [parseMmac, buildMmac, kA]

@[simp] theorem parseMmacSp_build (x : OpMmacSp) : parseMmacSp (buildMmacSp x) = some x := by
  simp [parseMmacSp, buildMmacSp, kS, kA]

@[simp] theorem parseMscale_build (x : OpMscale) : parseMscale (buildMscale x) = some x := by
  simp [parseMscale, buildMscale, kV, kA]

@[simp] theorem parseMepi_build (x : OpMepi) : parseMepi (buildMepi x) = some x := by
  simp [parseMepi, buildMepi, kA]

@[simp] theorem parseMstat_build (x : OpMstat) : parseMstat (buildMstat x) = some x := by
  simp [parseMstat, buildMstat, kS, kA]

@[simp] theorem parseSCode_build (x : OpSCode) : parseSCode (buildSCode x) = some x := by
  simp [parseSCode, buildSCode, kS]

@[simp] theorem parseDLd_build (x : OpDMem) : parseDLd (buildDLd x) = some x := by
  simp [parseDLd, buildDLd, kD]

@[simp] theorem parseDSt_build (x : OpDMem) : parseDSt (buildDSt x) = some x := by
  simp [parseDSt, buildDSt, kD]

@[simp] theorem parseDpt_build (x : OpDpt) : parseDpt (buildDpt x) = some x := by
  simp [parseDpt, buildDpt, kD]

@[simp] theorem parseD3_build (x : OpD3) : parseD3 (buildD3 x) = some x := by
  simp [parseD3, buildD3, kD]

@[simp] theorem parseDmix_build (x : OpDmix) : parseDmix (buildDmix x) = some x := by
  simp [parseDmix, buildDmix, kS, kD]

@[simp] theorem parseDtag_build (x : OpDtag) : parseDtag (buildDtag x) = some x := by
  cases x with | mk a b =>
  cases b <;> simp [parseDtag, buildDtag, kS, kD]

@[simp] theorem parseDmom_build (x : OpDmom) : parseDmom (buildDmom x) = some x := by
  simp [parseDmom, buildDmom, kV, kD]

@[simp] theorem parseDqnt_build (x : OpDqnt) : parseDqnt (buildDqnt x) = some x := by
  simp [parseDqnt, buildDqnt, kS, kV, kD]

@[simp] theorem parseLd_build (x : OpLd) : parseLd (buildLd x) = some x := by
  simp [parseLd, buildLd, kS]

@[simp] theorem parseSt_build (x : OpLd) : parseSt (buildSt x) = some x := by
  simp [parseSt, buildSt, kS]

@[simp] theorem parseLdO_build (x : OpLdO) : parseLdO (buildLdO x) = some x := by
  simp [parseLdO, buildLdO, kS]

@[simp] theorem parseStO_build (x : OpLdO) : parseStO (buildStO x) = some x := by
  simp [parseStO, buildStO, kS]

@[simp] theorem parsePref_build (x : OpPref) : parsePref (buildPref x) = some x := by
  simp [parsePref, buildPref]

@[simp] theorem parseAtm_build (x : OpAtm) : parseAtm (buildAtm x) = some x := by
  cases x with | mk ty rnd a sc base disp c =>
  cases sc <;> simp [parseAtm, buildAtm, kS]

@[simp] theorem parseFencep_build (x : OpFencep) : parseFencep (buildFencep x) = some x := by
  cases x with | mk a b =>
  cases a <;> cases b <;> rfl

@[simp] theorem parseSlotC_build (x : OpSlotC) : parseSlotC (buildSlotC x) = some x := by
  simp [parseSlotC, buildSlotC, kS]

@[simp] theorem parseASlot_build (x : OpASlot) : parseASlot (buildASlot x) = some x := by
  simp [parseASlot, buildASlot, kS]

@[simp] theorem parseQGo_build (x : OpQGo) : parseQGo (buildQGo x) = some x := by
  obtain ⟨h1, h2⟩ := channel_identifier x.ch x.id
  simp [parseQGo, buildQGo, kS, kQ, h1, h2]

@[simp] theorem parseQPush_build (x : OpQPush) : parseQPush (buildQPush x) = some x := by
  simp [parseQPush, buildQPush, kQ]

@[simp] theorem parseQPop_build (x : OpQPop) : parseQPop (buildQPop x) = some x := by
  simp [parseQPop, buildQPop, kQ]

@[simp] theorem parseHStart_build (x : OpHStart) : parseHStart (buildHStart x) = some x := by
  simp [parseHStart, buildHStart, kS]

@[simp] theorem parseXsend_build (x : OpXsend) : parseXsend (buildXsend x) = some x := by
  simp [parseXsend, buildXsend, kS, kV]

@[simp] theorem parseXrecv_build (x : OpXrecv) : parseXrecv (buildXrecv x) = some x := by
  simp [parseXrecv, buildXrecv, kV]

@[simp] theorem parseRPop_build (x : OpRPop) : parseRPop (buildRPop x) = some x := by
  simp [parseRPop, buildRPop, kP]

@[simp] theorem parseSys_build (x : OpSys) : parseSys (buildSys x) = some x := by
  obtain ⟨h1, h2⟩ := system_number x.num
  simp [parseSys, buildSys, kS, h1, h2]

@[simp] theorem parseBC_build (x : OpBC) : parseBC (buildBC x) = some x := by
  simp [parseBC, buildBC, kS]

@[simp] theorem parseU_build : parseU (buildU) = some () := by
  simp [parseU, buildU]

@[simp] theorem parseOff_build (x : BitVec 24) : parseOff (buildOff x) = some x := by
  simp [parseOff, buildOff]

@[simp] theorem parseCode_build (x : BitVec 24) : parseCode (buildCode x) = some x := by
  simp [parseCode, buildCode]

@[simp] theorem parseB_build (x : SReg) : parseB (buildB x) = some x := by
  simp [parseB, buildB, kS]

@[simp] theorem parseA_build (x : SReg) : parseA (buildA x) = some x := by
  simp [parseA, buildA, kS]

@[simp] theorem parseTA_build (x : AReg) : parseTA (buildTA x) = some x := by
  simp [parseTA, buildTA, kA]

@[simp] theorem parseSlot_build (x : BitVec 5) : parseSlot (buildSlot x) = some x := by
  simp [parseSlot, buildSlot]

@[simp] theorem parseId_build (x : BitVec 16) : parseId (buildId x) = some x := by
  obtain ⟨h1, h2⟩ := channel_identifier 0#8 x
  simp [parseId, buildId, h1, h2]

@[simp] theorem parseRPush_build (x : SrcSV) : parseRPush (buildRPush x) = some x := by
  simp [parseRPush, buildRPush]

@[simp] theorem parseProg_build (x : SrcDS) : parseProg (buildProg x) = some x := by
  cases x <;> simp [parseProg, buildProg, kS, kD]

@[simp] theorem parseSw_build (x : OpSw) : parseSw x.ty (buildSw x) = some x := by
  cases x with | mk ty dst src n c rnd sat =>
  cases c <;> simp [parseSw, buildSw, getSwSrc, swSrcKind, swSrcMid]

@[simp] theorem parseSwCvt_build (x : OpSwCvt) : parseSwCvt x.dty (buildSwCvt x) = some x := by
  cases x with | mk dty sty dst src n rnd sat =>
  cases sty <;> simp [parseSwCvt, buildSwCvt] <;> rfl

@[simp] theorem parseSwV_build (x : OpSwV) : parseSwV x.ty (buildSwV x) = some x := by
  simp [parseSwV, buildSwV]

@[simp] theorem parseSwRed_build (x : OpSwRed) : parseSwRed x.ty (buildSwRed x) = some x := by
  simp [parseSwRed, buildSwRed]

@[simp] theorem parseSwCopy_build (x : OpSwCopy) : parseSwCopy x.ty (buildSwCopy x) = some x := by
  simp [parseSwCopy, buildSwCopy]

end Sys2Proof
end

