-- ==== Sys2Proof/Laws/State.lean ====
section
/-!
SUPPORT. What each update of the state leaves alone and what it changes: tables, cores, contexts and registers.
-/

namespace Sys2Proof.Machine

/-! ### Tables -/

@[simp] theorem Tab.get?_put_self {α : Type} (t : Tab α) (k : Nat) (a : α) : Tab.get? (Tab.put t k a) k = some a := by
  induction t with
  | nil => simp [Tab.put, Tab.get?]
  | cons e r ih =>
    obtain ⟨j, b⟩ := e
    simp only [Tab.put]
    split
    · simp [Tab.get?]
    · split
      · simp [Tab.get?]
      · rename_i h1 h2
        simp [Tab.get?, ih, Ne.symm h2]

@[simp] theorem Tab.get?_put_ne {α : Type} (t : Tab α) (k j : Nat) (a : α) (h : j ≠ k) :
    Tab.get? (Tab.put t k a) j = Tab.get? t j := by
  induction t with
  | nil => simp [Tab.put, Tab.get?, Ne.symm h]
  | cons e r ih =>
    obtain ⟨i, b⟩ := e
    simp only [Tab.put]
    split
    · simp [Tab.get?, Ne.symm h]
    · split
      · rename_i h1 h2
        subst h2
        simp [Tab.get?, Ne.symm h]
      · simp [Tab.get?, ih]

@[simp] theorem Tab.getD_put_self {α : Type} (t : Tab α) (k : Nat) (a d : α) : Tab.getD (Tab.put t k a) k d = a := by
  simp [Tab.getD]

@[simp] theorem Tab.getD_put_ne {α : Type} (t : Tab α) (k j : Nat) (a d : α) (h : j ≠ k) :
    Tab.getD (Tab.put t k a) j d = Tab.getD t j d := by simp [Tab.getD, h]

@[simp] theorem Tab.put_put {α : Type} (t : Tab α) (k : Nat) (a b : α) : Tab.put (Tab.put t k a) k b = Tab.put t k b := by
  induction t with
  | nil => simp [Tab.put]
  | cons e r ih =>
    obtain ⟨j, c⟩ := e
    rcases Nat.lt_trichotomy k j with h | h | h
    · simp [Tab.put, h]
    · simp [Tab.put, h]
    · have h1 : ¬ k < j := by omega
      have h2 : k ≠ j := by omega
      simp [Tab.put, h1, h2, ih]

/-! ### Cores and contexts -/

@[simp] theorem State.core_setCore_self (s : State) (c : Nat) (k : Core) : (s.setCore c k).core c = k := by
  simp [State.core, State.setCore]

@[simp] theorem State.core_setCore_ne (s : State) (c d : Nat) (k : Core) (h : d ≠ c) : (s.setCore c k).core d = s.core d := by
  simp [State.core, State.setCore, h]

@[simp] theorem State.setCore_setCore (s : State) (c : Nat) (k l : Core) : (s.setCore c k).setCore c l = s.setCore c l := by
  simp [State.setCore]

@[simp] theorem State.core_setCtx_self (s : State) (c x : Nat) (k : Ctx) :
    (s.setCtx c x k).core c = { s.core c with ctxs := Tab.put (s.core c).ctxs x k } := by simp [State.setCtx]

@[simp] theorem State.core_setCtx_ne (s : State) (c d x : Nat) (k : Ctx) (h : d ≠ c) : (s.setCtx c x k).core d = s.core d := by
  simp [State.setCtx, h]

@[simp] theorem State.ctx_setCtx_self (s : State) (c x : Nat) (k : Ctx) : (s.setCtx c x k).ctx c x = k := by
  simp [State.ctx]

@[simp] theorem State.ctx_setCtx_ne (s : State) (c x y : Nat) (k : Ctx) (h : y ≠ x) : (s.setCtx c x k).ctx c y = s.ctx c y := by
  simp [State.ctx, h]

@[simp] theorem State.ctx_setCtx_core_ne (s : State) (c d x y : Nat) (k : Ctx) (h : d ≠ c) :
    (s.setCtx c x k).ctx d y = s.ctx d y := by simp [State.ctx, h]

@[simp] theorem State.setCtx_setCtx (s : State) (c x : Nat) (k l : Ctx) : (s.setCtx c x k).setCtx c x l = s.setCtx c x l := by
  simp [State.setCtx]

@[simp] theorem State.me_setMe (s : State) (k : Ctx) : (s.setMe k).me = k := State.ctx_setCtx_self s s.cur s.curCtx k

@[simp] theorem State.setMe_setMe (s : State) (k l : Ctx) : (s.setMe k).setMe l = s.setMe l :=
  State.setCtx_setCtx s s.cur s.curCtx k l

@[simp] theorem State.ctx_setMe_ne (s : State) (k : Ctx) (y : Nat) (h : y ≠ s.curCtx) : (s.setMe k).ctx s.cur y = s.ctx s.cur y :=
  State.ctx_setCtx_ne s s.cur s.curCtx y k h

@[simp] theorem State.core_setMe_ne (s : State) (k : Ctx) (d : Nat) (h : d ≠ s.cur) : (s.setMe k).core d = s.core d :=
  State.core_setCtx_ne s s.cur d s.curCtx k h

@[simp] theorem State.core_setMe_self (s : State) (k : Ctx) :
    (s.setMe k).core s.cur = { s.core s.cur with ctxs := Tab.put (s.core s.cur).ctxs s.curCtx k } :=
  State.core_setCtx_self s s.cur s.curCtx k

@[simp] theorem State.me_advance (s : State) (h : Hdr) (pc : Nat) :
    (s.advance h pc).me = { s.me with pc := pc % 2 ^ 48, yieldNow := h.yield
                                      wait := if s.me.unresolved = some false then .branch else .none
                                      stall := (s.core s.cur).cc + 1 + h.stall.toNat, mid := none } := by simp [State.advance]

@[simp] theorem State.me_held (s : State) : s.held.me = { s.me with wait := .held } := by simp [State.held]

/-! ### Fields of the state under each update -/

@[simp] theorem State.time_setCore (s : State) (c : Nat) (k : Core) : (s.setCore c k).time = s.time := rfl
@[simp] theorem State.nonce_setCore (s : State) (c : Nat) (k : Core) : (s.setCore c k).nonce = s.nonce := rfl
@[simp] theorem State.cur_setCore (s : State) (c : Nat) (k : Core) : (s.setCore c k).cur = s.cur := rfl
@[simp] theorem State.curCtx_setCore (s : State) (c : Nat) (k : Core) : (s.setCore c k).curCtx = s.curCtx := rfl
@[simp] theorem State.agenda_setCore (s : State) (c : Nat) (k : Core) : (s.setCore c k).agenda = s.agenda := rfl
@[simp] theorem State.mem_setCore (s : State) (c : Nat) (k : Core) : (s.setCore c k).mem = s.mem := rfl
@[simp] theorem State.banks_setCore (s : State) (c : Nat) (k : Core) : (s.setCore c k).banks = s.banks := rfl
@[simp] theorem State.tags_setCore (s : State) (c : Nat) (k : Core) : (s.setCore c k).tags = s.tags := rfl
@[simp] theorem State.badBank_setCore (s : State) (c : Nat) (k : Core) : (s.setCore c k).badBank = s.badBank := rfl
@[simp] theorem State.badMem_setCore (s : State) (c : Nat) (k : Core) : (s.setCore c k).badMem = s.badMem := rfl
@[simp] theorem State.clusters_setCore (s : State) (c : Nat) (k : Core) : (s.setCore c k).clusters = s.clusters := rfl
@[simp] theorem State.parts_setCore (s : State) (c : Nat) (k : Core) : (s.setCore c k).parts = s.parts := rfl
@[simp] theorem State.queues_setCore (s : State) (c : Nat) (k : Core) : (s.setCore c k).queues = s.queues := rfl
@[simp] theorem State.launches_setCore (s : State) (c : Nat) (k : Core) : (s.setCore c k).launches = s.launches := rfl
@[simp] theorem State.starting_setCore (s : State) (c : Nat) (k : Core) : (s.setCore c k).starting = s.starting := rfl
@[simp] theorem State.net_setCore (s : State) (c : Nat) (k : Core) : (s.setCore c k).net = s.net := rfl
@[simp] theorem State.xnet_setCore (s : State) (c : Nat) (k : Core) : (s.setCore c k).xnet = s.xnet := rfl
@[simp] theorem State.chains_setCore (s : State) (c : Nat) (k : Core) : (s.setCore c k).chains = s.chains := rfl
@[simp] theorem State.running_setCore (s : State) (c : Nat) (k : Core) : (s.setCore c k).running = s.running := rfl
@[simp] theorem State.posts_setCore (s : State) (c : Nat) (k : Core) : (s.setCore c k).posts = s.posts := rfl
@[simp] theorem State.lanes_setCore (s : State) (c : Nat) (k : Core) : (s.setCore c k).lanes = s.lanes := rfl
@[simp] theorem State.gathers_setCore (s : State) (c : Nat) (k : Core) : (s.setCore c k).gathers = s.gathers := rfl
@[simp] theorem State.colls_setCore (s : State) (c : Nat) (k : Core) : (s.setCore c k).colls = s.colls := rfl
@[simp] theorem State.seqs_setCore (s : State) (c : Nat) (k : Core) : (s.setCore c k).seqs = s.seqs := rfl
@[simp] theorem State.slices_setCore (s : State) (c : Nat) (k : Core) : (s.setCore c k).slices = s.slices := rfl
@[simp] theorem State.submits_setCore (s : State) (c : Nat) (k : Core) : (s.setCore c k).submits = s.submits := rfl
@[simp] theorem State.releases_setCore (s : State) (c : Nat) (k : Core) : (s.setCore c k).releases = s.releases := rfl
@[simp] theorem State.walks_setCore (s : State) (c : Nat) (k : Core) : (s.setCore c k).walks = s.walks := rfl
@[simp] theorem State.cancels_setCore (s : State) (c : Nat) (k : Core) : (s.setCore c k).cancels = s.cancels := rfl
@[simp] theorem State.evicts_setCore (s : State) (c : Nat) (k : Core) : (s.setCore c k).evicts = s.evicts := rfl
@[simp] theorem State.invals_setCore (s : State) (c : Nat) (k : Core) : (s.setCore c k).invals = s.invals := rfl
@[simp] theorem State.jobs_setCore (s : State) (c : Nat) (k : Core) : (s.setCore c k).jobs = s.jobs := rfl
@[simp] theorem State.torn_setCore (s : State) (c : Nat) (k : Core) : (s.setCore c k).torn = s.torn := rfl
@[simp] theorem State.hub_setCore (s : State) (c : Nat) (k : Core) : (s.setCore c k).hub = s.hub := rfl

@[simp] theorem State.time_setCtx (s : State) (c x : Nat) (k : Ctx) : (s.setCtx c x k).time = s.time := rfl
@[simp] theorem State.nonce_setCtx (s : State) (c x : Nat) (k : Ctx) : (s.setCtx c x k).nonce = s.nonce := rfl
@[simp] theorem State.cur_setCtx (s : State) (c x : Nat) (k : Ctx) : (s.setCtx c x k).cur = s.cur := rfl
@[simp] theorem State.curCtx_setCtx (s : State) (c x : Nat) (k : Ctx) : (s.setCtx c x k).curCtx = s.curCtx := rfl
@[simp] theorem State.agenda_setCtx (s : State) (c x : Nat) (k : Ctx) : (s.setCtx c x k).agenda = s.agenda := rfl
@[simp] theorem State.mem_setCtx (s : State) (c x : Nat) (k : Ctx) : (s.setCtx c x k).mem = s.mem := rfl
@[simp] theorem State.banks_setCtx (s : State) (c x : Nat) (k : Ctx) : (s.setCtx c x k).banks = s.banks := rfl
@[simp] theorem State.tags_setCtx (s : State) (c x : Nat) (k : Ctx) : (s.setCtx c x k).tags = s.tags := rfl
@[simp] theorem State.badBank_setCtx (s : State) (c x : Nat) (k : Ctx) : (s.setCtx c x k).badBank = s.badBank := rfl
@[simp] theorem State.badMem_setCtx (s : State) (c x : Nat) (k : Ctx) : (s.setCtx c x k).badMem = s.badMem := rfl
@[simp] theorem State.clusters_setCtx (s : State) (c x : Nat) (k : Ctx) : (s.setCtx c x k).clusters = s.clusters := rfl
@[simp] theorem State.parts_setCtx (s : State) (c x : Nat) (k : Ctx) : (s.setCtx c x k).parts = s.parts := rfl
@[simp] theorem State.queues_setCtx (s : State) (c x : Nat) (k : Ctx) : (s.setCtx c x k).queues = s.queues := rfl
@[simp] theorem State.launches_setCtx (s : State) (c x : Nat) (k : Ctx) : (s.setCtx c x k).launches = s.launches := rfl
@[simp] theorem State.starting_setCtx (s : State) (c x : Nat) (k : Ctx) : (s.setCtx c x k).starting = s.starting := rfl
@[simp] theorem State.net_setCtx (s : State) (c x : Nat) (k : Ctx) : (s.setCtx c x k).net = s.net := rfl
@[simp] theorem State.xnet_setCtx (s : State) (c x : Nat) (k : Ctx) : (s.setCtx c x k).xnet = s.xnet := rfl
@[simp] theorem State.chains_setCtx (s : State) (c x : Nat) (k : Ctx) : (s.setCtx c x k).chains = s.chains := rfl
@[simp] theorem State.running_setCtx (s : State) (c x : Nat) (k : Ctx) : (s.setCtx c x k).running = s.running := rfl
@[simp] theorem State.posts_setCtx (s : State) (c x : Nat) (k : Ctx) : (s.setCtx c x k).posts = s.posts := rfl
@[simp] theorem State.lanes_setCtx (s : State) (c x : Nat) (k : Ctx) : (s.setCtx c x k).lanes = s.lanes := rfl
@[simp] theorem State.gathers_setCtx (s : State) (c x : Nat) (k : Ctx) : (s.setCtx c x k).gathers = s.gathers := rfl
@[simp] theorem State.colls_setCtx (s : State) (c x : Nat) (k : Ctx) : (s.setCtx c x k).colls = s.colls := rfl
@[simp] theorem State.seqs_setCtx (s : State) (c x : Nat) (k : Ctx) : (s.setCtx c x k).seqs = s.seqs := rfl
@[simp] theorem State.slices_setCtx (s : State) (c x : Nat) (k : Ctx) : (s.setCtx c x k).slices = s.slices := rfl
@[simp] theorem State.submits_setCtx (s : State) (c x : Nat) (k : Ctx) : (s.setCtx c x k).submits = s.submits := rfl
@[simp] theorem State.releases_setCtx (s : State) (c x : Nat) (k : Ctx) : (s.setCtx c x k).releases = s.releases := rfl
@[simp] theorem State.walks_setCtx (s : State) (c x : Nat) (k : Ctx) : (s.setCtx c x k).walks = s.walks := rfl
@[simp] theorem State.cancels_setCtx (s : State) (c x : Nat) (k : Ctx) : (s.setCtx c x k).cancels = s.cancels := rfl
@[simp] theorem State.evicts_setCtx (s : State) (c x : Nat) (k : Ctx) : (s.setCtx c x k).evicts = s.evicts := rfl
@[simp] theorem State.invals_setCtx (s : State) (c x : Nat) (k : Ctx) : (s.setCtx c x k).invals = s.invals := rfl
@[simp] theorem State.jobs_setCtx (s : State) (c x : Nat) (k : Ctx) : (s.setCtx c x k).jobs = s.jobs := rfl
@[simp] theorem State.torn_setCtx (s : State) (c x : Nat) (k : Ctx) : (s.setCtx c x k).torn = s.torn := rfl
@[simp] theorem State.hub_setCtx (s : State) (c x : Nat) (k : Ctx) : (s.setCtx c x k).hub = s.hub := rfl

@[simp] theorem State.time_setMe (s : State) (k : Ctx) : (s.setMe k).time = s.time := rfl
@[simp] theorem State.nonce_setMe (s : State) (k : Ctx) : (s.setMe k).nonce = s.nonce := rfl
@[simp] theorem State.cur_setMe (s : State) (k : Ctx) : (s.setMe k).cur = s.cur := rfl
@[simp] theorem State.curCtx_setMe (s : State) (k : Ctx) : (s.setMe k).curCtx = s.curCtx := rfl
@[simp] theorem State.agenda_setMe (s : State) (k : Ctx) : (s.setMe k).agenda = s.agenda := rfl
@[simp] theorem State.mem_setMe (s : State) (k : Ctx) : (s.setMe k).mem = s.mem := rfl
@[simp] theorem State.banks_setMe (s : State) (k : Ctx) : (s.setMe k).banks = s.banks := rfl
@[simp] theorem State.tags_setMe (s : State) (k : Ctx) : (s.setMe k).tags = s.tags := rfl
@[simp] theorem State.badBank_setMe (s : State) (k : Ctx) : (s.setMe k).badBank = s.badBank := rfl
@[simp] theorem State.badMem_setMe (s : State) (k : Ctx) : (s.setMe k).badMem = s.badMem := rfl
@[simp] theorem State.clusters_setMe (s : State) (k : Ctx) : (s.setMe k).clusters = s.clusters := rfl
@[simp] theorem State.parts_setMe (s : State) (k : Ctx) : (s.setMe k).parts = s.parts := rfl
@[simp] theorem State.queues_setMe (s : State) (k : Ctx) : (s.setMe k).queues = s.queues := rfl
@[simp] theorem State.launches_setMe (s : State) (k : Ctx) : (s.setMe k).launches = s.launches := rfl
@[simp] theorem State.starting_setMe (s : State) (k : Ctx) : (s.setMe k).starting = s.starting := rfl
@[simp] theorem State.net_setMe (s : State) (k : Ctx) : (s.setMe k).net = s.net := rfl
@[simp] theorem State.xnet_setMe (s : State) (k : Ctx) : (s.setMe k).xnet = s.xnet := rfl
@[simp] theorem State.chains_setMe (s : State) (k : Ctx) : (s.setMe k).chains = s.chains := rfl
@[simp] theorem State.running_setMe (s : State) (k : Ctx) : (s.setMe k).running = s.running := rfl
@[simp] theorem State.posts_setMe (s : State) (k : Ctx) : (s.setMe k).posts = s.posts := rfl
@[simp] theorem State.lanes_setMe (s : State) (k : Ctx) : (s.setMe k).lanes = s.lanes := rfl
@[simp] theorem State.gathers_setMe (s : State) (k : Ctx) : (s.setMe k).gathers = s.gathers := rfl
@[simp] theorem State.colls_setMe (s : State) (k : Ctx) : (s.setMe k).colls = s.colls := rfl
@[simp] theorem State.seqs_setMe (s : State) (k : Ctx) : (s.setMe k).seqs = s.seqs := rfl
@[simp] theorem State.slices_setMe (s : State) (k : Ctx) : (s.setMe k).slices = s.slices := rfl
@[simp] theorem State.submits_setMe (s : State) (k : Ctx) : (s.setMe k).submits = s.submits := rfl
@[simp] theorem State.releases_setMe (s : State) (k : Ctx) : (s.setMe k).releases = s.releases := rfl
@[simp] theorem State.walks_setMe (s : State) (k : Ctx) : (s.setMe k).walks = s.walks := rfl
@[simp] theorem State.cancels_setMe (s : State) (k : Ctx) : (s.setMe k).cancels = s.cancels := rfl
@[simp] theorem State.evicts_setMe (s : State) (k : Ctx) : (s.setMe k).evicts = s.evicts := rfl
@[simp] theorem State.invals_setMe (s : State) (k : Ctx) : (s.setMe k).invals = s.invals := rfl
@[simp] theorem State.jobs_setMe (s : State) (k : Ctx) : (s.setMe k).jobs = s.jobs := rfl
@[simp] theorem State.torn_setMe (s : State) (k : Ctx) : (s.setMe k).torn = s.torn := rfl
@[simp] theorem State.hub_setMe (s : State) (k : Ctx) : (s.setMe k).hub = s.hub := rfl

@[simp] theorem State.time_setMycore (s : State) (k : Core) : (s.setMycore k).time = s.time := rfl
@[simp] theorem State.nonce_setMycore (s : State) (k : Core) : (s.setMycore k).nonce = s.nonce := rfl
@[simp] theorem State.cur_setMycore (s : State) (k : Core) : (s.setMycore k).cur = s.cur := rfl
@[simp] theorem State.curCtx_setMycore (s : State) (k : Core) : (s.setMycore k).curCtx = s.curCtx := rfl
@[simp] theorem State.agenda_setMycore (s : State) (k : Core) : (s.setMycore k).agenda = s.agenda := rfl
@[simp] theorem State.mem_setMycore (s : State) (k : Core) : (s.setMycore k).mem = s.mem := rfl
@[simp] theorem State.banks_setMycore (s : State) (k : Core) : (s.setMycore k).banks = s.banks := rfl
@[simp] theorem State.tags_setMycore (s : State) (k : Core) : (s.setMycore k).tags = s.tags := rfl
@[simp] theorem State.badBank_setMycore (s : State) (k : Core) : (s.setMycore k).badBank = s.badBank := rfl
@[simp] theorem State.badMem_setMycore (s : State) (k : Core) : (s.setMycore k).badMem = s.badMem := rfl
@[simp] theorem State.clusters_setMycore (s : State) (k : Core) : (s.setMycore k).clusters = s.clusters := rfl
@[simp] theorem State.parts_setMycore (s : State) (k : Core) : (s.setMycore k).parts = s.parts := rfl
@[simp] theorem State.queues_setMycore (s : State) (k : Core) : (s.setMycore k).queues = s.queues := rfl
@[simp] theorem State.launches_setMycore (s : State) (k : Core) : (s.setMycore k).launches = s.launches := rfl
@[simp] theorem State.starting_setMycore (s : State) (k : Core) : (s.setMycore k).starting = s.starting := rfl
@[simp] theorem State.net_setMycore (s : State) (k : Core) : (s.setMycore k).net = s.net := rfl
@[simp] theorem State.xnet_setMycore (s : State) (k : Core) : (s.setMycore k).xnet = s.xnet := rfl
@[simp] theorem State.chains_setMycore (s : State) (k : Core) : (s.setMycore k).chains = s.chains := rfl
@[simp] theorem State.running_setMycore (s : State) (k : Core) : (s.setMycore k).running = s.running := rfl
@[simp] theorem State.posts_setMycore (s : State) (k : Core) : (s.setMycore k).posts = s.posts := rfl
@[simp] theorem State.lanes_setMycore (s : State) (k : Core) : (s.setMycore k).lanes = s.lanes := rfl
@[simp] theorem State.gathers_setMycore (s : State) (k : Core) : (s.setMycore k).gathers = s.gathers := rfl
@[simp] theorem State.colls_setMycore (s : State) (k : Core) : (s.setMycore k).colls = s.colls := rfl
@[simp] theorem State.seqs_setMycore (s : State) (k : Core) : (s.setMycore k).seqs = s.seqs := rfl
@[simp] theorem State.slices_setMycore (s : State) (k : Core) : (s.setMycore k).slices = s.slices := rfl
@[simp] theorem State.submits_setMycore (s : State) (k : Core) : (s.setMycore k).submits = s.submits := rfl
@[simp] theorem State.releases_setMycore (s : State) (k : Core) : (s.setMycore k).releases = s.releases := rfl
@[simp] theorem State.walks_setMycore (s : State) (k : Core) : (s.setMycore k).walks = s.walks := rfl
@[simp] theorem State.cancels_setMycore (s : State) (k : Core) : (s.setMycore k).cancels = s.cancels := rfl
@[simp] theorem State.evicts_setMycore (s : State) (k : Core) : (s.setMycore k).evicts = s.evicts := rfl
@[simp] theorem State.invals_setMycore (s : State) (k : Core) : (s.setMycore k).invals = s.invals := rfl
@[simp] theorem State.jobs_setMycore (s : State) (k : Core) : (s.setMycore k).jobs = s.jobs := rfl
@[simp] theorem State.torn_setMycore (s : State) (k : Core) : (s.setMycore k).torn = s.torn := rfl
@[simp] theorem State.hub_setMycore (s : State) (k : Core) : (s.setMycore k).hub = s.hub := rfl

@[simp] theorem State.time_advance (s : State) (h : Hdr) (pc : Nat) : (s.advance h pc).time = s.time := rfl
@[simp] theorem State.nonce_advance (s : State) (h : Hdr) (pc : Nat) : (s.advance h pc).nonce = s.nonce := rfl
@[simp] theorem State.cur_advance (s : State) (h : Hdr) (pc : Nat) : (s.advance h pc).cur = s.cur := rfl
@[simp] theorem State.curCtx_advance (s : State) (h : Hdr) (pc : Nat) : (s.advance h pc).curCtx = s.curCtx := rfl
@[simp] theorem State.agenda_advance (s : State) (h : Hdr) (pc : Nat) : (s.advance h pc).agenda = s.agenda := rfl
@[simp] theorem State.mem_advance (s : State) (h : Hdr) (pc : Nat) : (s.advance h pc).mem = s.mem := rfl
@[simp] theorem State.banks_advance (s : State) (h : Hdr) (pc : Nat) : (s.advance h pc).banks = s.banks := rfl
@[simp] theorem State.tags_advance (s : State) (h : Hdr) (pc : Nat) : (s.advance h pc).tags = s.tags := rfl
@[simp] theorem State.badBank_advance (s : State) (h : Hdr) (pc : Nat) : (s.advance h pc).badBank = s.badBank := rfl
@[simp] theorem State.badMem_advance (s : State) (h : Hdr) (pc : Nat) : (s.advance h pc).badMem = s.badMem := rfl
@[simp] theorem State.clusters_advance (s : State) (h : Hdr) (pc : Nat) : (s.advance h pc).clusters = s.clusters := rfl
@[simp] theorem State.parts_advance (s : State) (h : Hdr) (pc : Nat) : (s.advance h pc).parts = s.parts := rfl
@[simp] theorem State.queues_advance (s : State) (h : Hdr) (pc : Nat) : (s.advance h pc).queues = s.queues := rfl
@[simp] theorem State.launches_advance (s : State) (h : Hdr) (pc : Nat) : (s.advance h pc).launches = s.launches := rfl
@[simp] theorem State.starting_advance (s : State) (h : Hdr) (pc : Nat) : (s.advance h pc).starting = s.starting := rfl
@[simp] theorem State.net_advance (s : State) (h : Hdr) (pc : Nat) : (s.advance h pc).net = s.net := rfl
@[simp] theorem State.xnet_advance (s : State) (h : Hdr) (pc : Nat) : (s.advance h pc).xnet = s.xnet := rfl
@[simp] theorem State.chains_advance (s : State) (h : Hdr) (pc : Nat) : (s.advance h pc).chains = s.chains := rfl
@[simp] theorem State.running_advance (s : State) (h : Hdr) (pc : Nat) : (s.advance h pc).running = s.running := rfl
@[simp] theorem State.posts_advance (s : State) (h : Hdr) (pc : Nat) : (s.advance h pc).posts = s.posts := rfl
@[simp] theorem State.lanes_advance (s : State) (h : Hdr) (pc : Nat) : (s.advance h pc).lanes = s.lanes := rfl
@[simp] theorem State.gathers_advance (s : State) (h : Hdr) (pc : Nat) : (s.advance h pc).gathers = s.gathers := rfl
@[simp] theorem State.colls_advance (s : State) (h : Hdr) (pc : Nat) : (s.advance h pc).colls = s.colls := rfl
@[simp] theorem State.seqs_advance (s : State) (h : Hdr) (pc : Nat) : (s.advance h pc).seqs = s.seqs := rfl
@[simp] theorem State.slices_advance (s : State) (h : Hdr) (pc : Nat) : (s.advance h pc).slices = s.slices := rfl
@[simp] theorem State.submits_advance (s : State) (h : Hdr) (pc : Nat) : (s.advance h pc).submits = s.submits := rfl
@[simp] theorem State.releases_advance (s : State) (h : Hdr) (pc : Nat) : (s.advance h pc).releases = s.releases := rfl
@[simp] theorem State.walks_advance (s : State) (h : Hdr) (pc : Nat) : (s.advance h pc).walks = s.walks := rfl
@[simp] theorem State.cancels_advance (s : State) (h : Hdr) (pc : Nat) : (s.advance h pc).cancels = s.cancels := rfl
@[simp] theorem State.evicts_advance (s : State) (h : Hdr) (pc : Nat) : (s.advance h pc).evicts = s.evicts := rfl
@[simp] theorem State.invals_advance (s : State) (h : Hdr) (pc : Nat) : (s.advance h pc).invals = s.invals := rfl
@[simp] theorem State.jobs_advance (s : State) (h : Hdr) (pc : Nat) : (s.advance h pc).jobs = s.jobs := rfl
@[simp] theorem State.torn_advance (s : State) (h : Hdr) (pc : Nat) : (s.advance h pc).torn = s.torn := rfl
@[simp] theorem State.hub_advance (s : State) (h : Hdr) (pc : Nat) : (s.advance h pc).hub = s.hub := rfl

@[simp] theorem State.time_setCluster (s : State) (r : Nat) (k : Cluster) : (s.setCluster r k).time = s.time := rfl
@[simp] theorem State.nonce_setCluster (s : State) (r : Nat) (k : Cluster) : (s.setCluster r k).nonce = s.nonce := rfl
@[simp] theorem State.cur_setCluster (s : State) (r : Nat) (k : Cluster) : (s.setCluster r k).cur = s.cur := rfl
@[simp] theorem State.curCtx_setCluster (s : State) (r : Nat) (k : Cluster) : (s.setCluster r k).curCtx = s.curCtx := rfl
@[simp] theorem State.agenda_setCluster (s : State) (r : Nat) (k : Cluster) : (s.setCluster r k).agenda = s.agenda := rfl
@[simp] theorem State.mem_setCluster (s : State) (r : Nat) (k : Cluster) : (s.setCluster r k).mem = s.mem := rfl
@[simp] theorem State.banks_setCluster (s : State) (r : Nat) (k : Cluster) : (s.setCluster r k).banks = s.banks := rfl
@[simp] theorem State.tags_setCluster (s : State) (r : Nat) (k : Cluster) : (s.setCluster r k).tags = s.tags := rfl
@[simp] theorem State.badBank_setCluster (s : State) (r : Nat) (k : Cluster) : (s.setCluster r k).badBank = s.badBank := rfl
@[simp] theorem State.badMem_setCluster (s : State) (r : Nat) (k : Cluster) : (s.setCluster r k).badMem = s.badMem := rfl
@[simp] theorem State.cores_setCluster (s : State) (r : Nat) (k : Cluster) : (s.setCluster r k).cores = s.cores := rfl
@[simp] theorem State.parts_setCluster (s : State) (r : Nat) (k : Cluster) : (s.setCluster r k).parts = s.parts := rfl
@[simp] theorem State.queues_setCluster (s : State) (r : Nat) (k : Cluster) : (s.setCluster r k).queues = s.queues := rfl
@[simp] theorem State.launches_setCluster (s : State) (r : Nat) (k : Cluster) : (s.setCluster r k).launches = s.launches := rfl
@[simp] theorem State.starting_setCluster (s : State) (r : Nat) (k : Cluster) : (s.setCluster r k).starting = s.starting := rfl
@[simp] theorem State.net_setCluster (s : State) (r : Nat) (k : Cluster) : (s.setCluster r k).net = s.net := rfl
@[simp] theorem State.xnet_setCluster (s : State) (r : Nat) (k : Cluster) : (s.setCluster r k).xnet = s.xnet := rfl
@[simp] theorem State.chains_setCluster (s : State) (r : Nat) (k : Cluster) : (s.setCluster r k).chains = s.chains := rfl
@[simp] theorem State.running_setCluster (s : State) (r : Nat) (k : Cluster) : (s.setCluster r k).running = s.running := rfl
@[simp] theorem State.posts_setCluster (s : State) (r : Nat) (k : Cluster) : (s.setCluster r k).posts = s.posts := rfl
@[simp] theorem State.lanes_setCluster (s : State) (r : Nat) (k : Cluster) : (s.setCluster r k).lanes = s.lanes := rfl
@[simp] theorem State.gathers_setCluster (s : State) (r : Nat) (k : Cluster) : (s.setCluster r k).gathers = s.gathers := rfl
@[simp] theorem State.colls_setCluster (s : State) (r : Nat) (k : Cluster) : (s.setCluster r k).colls = s.colls := rfl
@[simp] theorem State.seqs_setCluster (s : State) (r : Nat) (k : Cluster) : (s.setCluster r k).seqs = s.seqs := rfl
@[simp] theorem State.slices_setCluster (s : State) (r : Nat) (k : Cluster) : (s.setCluster r k).slices = s.slices := rfl
@[simp] theorem State.submits_setCluster (s : State) (r : Nat) (k : Cluster) : (s.setCluster r k).submits = s.submits := rfl
@[simp] theorem State.releases_setCluster (s : State) (r : Nat) (k : Cluster) : (s.setCluster r k).releases = s.releases := rfl
@[simp] theorem State.walks_setCluster (s : State) (r : Nat) (k : Cluster) : (s.setCluster r k).walks = s.walks := rfl
@[simp] theorem State.cancels_setCluster (s : State) (r : Nat) (k : Cluster) : (s.setCluster r k).cancels = s.cancels := rfl
@[simp] theorem State.evicts_setCluster (s : State) (r : Nat) (k : Cluster) : (s.setCluster r k).evicts = s.evicts := rfl
@[simp] theorem State.invals_setCluster (s : State) (r : Nat) (k : Cluster) : (s.setCluster r k).invals = s.invals := rfl
@[simp] theorem State.jobs_setCluster (s : State) (r : Nat) (k : Cluster) : (s.setCluster r k).jobs = s.jobs := rfl
@[simp] theorem State.torn_setCluster (s : State) (r : Nat) (k : Cluster) : (s.setCluster r k).torn = s.torn := rfl
@[simp] theorem State.hub_setCluster (s : State) (r : Nat) (k : Cluster) : (s.setCluster r k).hub = s.hub := rfl

@[simp] theorem State.time_setHitch (s : State) (b : Nat) (h : Hitch) : (s.setHitch b h).time = s.time := rfl
@[simp] theorem State.nonce_setHitch (s : State) (b : Nat) (h : Hitch) : (s.setHitch b h).nonce = s.nonce := rfl
@[simp] theorem State.cur_setHitch (s : State) (b : Nat) (h : Hitch) : (s.setHitch b h).cur = s.cur := rfl
@[simp] theorem State.curCtx_setHitch (s : State) (b : Nat) (h : Hitch) : (s.setHitch b h).curCtx = s.curCtx := rfl
@[simp] theorem State.agenda_setHitch (s : State) (b : Nat) (h : Hitch) : (s.setHitch b h).agenda = s.agenda := rfl
@[simp] theorem State.mem_setHitch (s : State) (b : Nat) (h : Hitch) : (s.setHitch b h).mem = s.mem := rfl
@[simp] theorem State.banks_setHitch (s : State) (b : Nat) (h : Hitch) : (s.setHitch b h).banks = s.banks := rfl
@[simp] theorem State.tags_setHitch (s : State) (b : Nat) (h : Hitch) : (s.setHitch b h).tags = s.tags := rfl
@[simp] theorem State.badBank_setHitch (s : State) (b : Nat) (h : Hitch) : (s.setHitch b h).badBank = s.badBank := rfl
@[simp] theorem State.badMem_setHitch (s : State) (b : Nat) (h : Hitch) : (s.setHitch b h).badMem = s.badMem := rfl
@[simp] theorem State.cores_setHitch (s : State) (b : Nat) (h : Hitch) : (s.setHitch b h).cores = s.cores := rfl
@[simp] theorem State.parts_setHitch (s : State) (b : Nat) (h : Hitch) : (s.setHitch b h).parts = s.parts := rfl
@[simp] theorem State.queues_setHitch (s : State) (b : Nat) (h : Hitch) : (s.setHitch b h).queues = s.queues := rfl
@[simp] theorem State.launches_setHitch (s : State) (b : Nat) (h : Hitch) : (s.setHitch b h).launches = s.launches := rfl
@[simp] theorem State.starting_setHitch (s : State) (b : Nat) (h : Hitch) : (s.setHitch b h).starting = s.starting := rfl
@[simp] theorem State.net_setHitch (s : State) (b : Nat) (h : Hitch) : (s.setHitch b h).net = s.net := rfl
@[simp] theorem State.xnet_setHitch (s : State) (b : Nat) (h : Hitch) : (s.setHitch b h).xnet = s.xnet := rfl
@[simp] theorem State.chains_setHitch (s : State) (b : Nat) (h : Hitch) : (s.setHitch b h).chains = s.chains := rfl
@[simp] theorem State.running_setHitch (s : State) (b : Nat) (h : Hitch) : (s.setHitch b h).running = s.running := rfl
@[simp] theorem State.posts_setHitch (s : State) (b : Nat) (h : Hitch) : (s.setHitch b h).posts = s.posts := rfl
@[simp] theorem State.lanes_setHitch (s : State) (b : Nat) (h : Hitch) : (s.setHitch b h).lanes = s.lanes := rfl
@[simp] theorem State.gathers_setHitch (s : State) (b : Nat) (h : Hitch) : (s.setHitch b h).gathers = s.gathers := rfl
@[simp] theorem State.colls_setHitch (s : State) (b : Nat) (h : Hitch) : (s.setHitch b h).colls = s.colls := rfl
@[simp] theorem State.seqs_setHitch (s : State) (b : Nat) (h : Hitch) : (s.setHitch b h).seqs = s.seqs := rfl
@[simp] theorem State.slices_setHitch (s : State) (b : Nat) (h : Hitch) : (s.setHitch b h).slices = s.slices := rfl
@[simp] theorem State.submits_setHitch (s : State) (b : Nat) (h : Hitch) : (s.setHitch b h).submits = s.submits := rfl
@[simp] theorem State.releases_setHitch (s : State) (b : Nat) (h : Hitch) : (s.setHitch b h).releases = s.releases := rfl
@[simp] theorem State.walks_setHitch (s : State) (b : Nat) (h : Hitch) : (s.setHitch b h).walks = s.walks := rfl
@[simp] theorem State.cancels_setHitch (s : State) (b : Nat) (h : Hitch) : (s.setHitch b h).cancels = s.cancels := rfl
@[simp] theorem State.evicts_setHitch (s : State) (b : Nat) (h : Hitch) : (s.setHitch b h).evicts = s.evicts := rfl
@[simp] theorem State.invals_setHitch (s : State) (b : Nat) (h : Hitch) : (s.setHitch b h).invals = s.invals := rfl
@[simp] theorem State.jobs_setHitch (s : State) (b : Nat) (h : Hitch) : (s.setHitch b h).jobs = s.jobs := rfl
@[simp] theorem State.torn_setHitch (s : State) (b : Nat) (h : Hitch) : (s.setHitch b h).torn = s.torn := rfl
@[simp] theorem State.hub_setHitch (s : State) (b : Nat) (h : Hitch) : (s.setHitch b h).hub = s.hub := rfl

@[simp] theorem State.time_setPart (s : State) (p : Nat) (k : Part) : (s.setPart p k).time = s.time := rfl
@[simp] theorem State.nonce_setPart (s : State) (p : Nat) (k : Part) : (s.setPart p k).nonce = s.nonce := rfl
@[simp] theorem State.cur_setPart (s : State) (p : Nat) (k : Part) : (s.setPart p k).cur = s.cur := rfl
@[simp] theorem State.curCtx_setPart (s : State) (p : Nat) (k : Part) : (s.setPart p k).curCtx = s.curCtx := rfl
@[simp] theorem State.agenda_setPart (s : State) (p : Nat) (k : Part) : (s.setPart p k).agenda = s.agenda := rfl
@[simp] theorem State.mem_setPart (s : State) (p : Nat) (k : Part) : (s.setPart p k).mem = s.mem := rfl
@[simp] theorem State.banks_setPart (s : State) (p : Nat) (k : Part) : (s.setPart p k).banks = s.banks := rfl
@[simp] theorem State.tags_setPart (s : State) (p : Nat) (k : Part) : (s.setPart p k).tags = s.tags := rfl
@[simp] theorem State.badBank_setPart (s : State) (p : Nat) (k : Part) : (s.setPart p k).badBank = s.badBank := rfl
@[simp] theorem State.badMem_setPart (s : State) (p : Nat) (k : Part) : (s.setPart p k).badMem = s.badMem := rfl
@[simp] theorem State.cores_setPart (s : State) (p : Nat) (k : Part) : (s.setPart p k).cores = s.cores := rfl
@[simp] theorem State.clusters_setPart (s : State) (p : Nat) (k : Part) : (s.setPart p k).clusters = s.clusters := rfl
@[simp] theorem State.queues_setPart (s : State) (p : Nat) (k : Part) : (s.setPart p k).queues = s.queues := rfl
@[simp] theorem State.launches_setPart (s : State) (p : Nat) (k : Part) : (s.setPart p k).launches = s.launches := rfl
@[simp] theorem State.starting_setPart (s : State) (p : Nat) (k : Part) : (s.setPart p k).starting = s.starting := rfl
@[simp] theorem State.net_setPart (s : State) (p : Nat) (k : Part) : (s.setPart p k).net = s.net := rfl
@[simp] theorem State.xnet_setPart (s : State) (p : Nat) (k : Part) : (s.setPart p k).xnet = s.xnet := rfl
@[simp] theorem State.chains_setPart (s : State) (p : Nat) (k : Part) : (s.setPart p k).chains = s.chains := rfl
@[simp] theorem State.running_setPart (s : State) (p : Nat) (k : Part) : (s.setPart p k).running = s.running := rfl
@[simp] theorem State.posts_setPart (s : State) (p : Nat) (k : Part) : (s.setPart p k).posts = s.posts := rfl
@[simp] theorem State.lanes_setPart (s : State) (p : Nat) (k : Part) : (s.setPart p k).lanes = s.lanes := rfl
@[simp] theorem State.gathers_setPart (s : State) (p : Nat) (k : Part) : (s.setPart p k).gathers = s.gathers := rfl
@[simp] theorem State.colls_setPart (s : State) (p : Nat) (k : Part) : (s.setPart p k).colls = s.colls := rfl
@[simp] theorem State.seqs_setPart (s : State) (p : Nat) (k : Part) : (s.setPart p k).seqs = s.seqs := rfl
@[simp] theorem State.slices_setPart (s : State) (p : Nat) (k : Part) : (s.setPart p k).slices = s.slices := rfl
@[simp] theorem State.submits_setPart (s : State) (p : Nat) (k : Part) : (s.setPart p k).submits = s.submits := rfl
@[simp] theorem State.releases_setPart (s : State) (p : Nat) (k : Part) : (s.setPart p k).releases = s.releases := rfl
@[simp] theorem State.walks_setPart (s : State) (p : Nat) (k : Part) : (s.setPart p k).walks = s.walks := rfl
@[simp] theorem State.cancels_setPart (s : State) (p : Nat) (k : Part) : (s.setPart p k).cancels = s.cancels := rfl
@[simp] theorem State.evicts_setPart (s : State) (p : Nat) (k : Part) : (s.setPart p k).evicts = s.evicts := rfl
@[simp] theorem State.invals_setPart (s : State) (p : Nat) (k : Part) : (s.setPart p k).invals = s.invals := rfl
@[simp] theorem State.jobs_setPart (s : State) (p : Nat) (k : Part) : (s.setPart p k).jobs = s.jobs := rfl
@[simp] theorem State.torn_setPart (s : State) (p : Nat) (k : Part) : (s.setPart p k).torn = s.torn := rfl
@[simp] theorem State.hub_setPart (s : State) (p : Nat) (k : Part) : (s.setPart p k).hub = s.hub := rfl

@[simp] theorem State.time_setQueue (s : State) (q : Nat) (k : WQueue) : (s.setQueue q k).time = s.time := rfl
@[simp] theorem State.nonce_setQueue (s : State) (q : Nat) (k : WQueue) : (s.setQueue q k).nonce = s.nonce := rfl
@[simp] theorem State.cur_setQueue (s : State) (q : Nat) (k : WQueue) : (s.setQueue q k).cur = s.cur := rfl
@[simp] theorem State.curCtx_setQueue (s : State) (q : Nat) (k : WQueue) : (s.setQueue q k).curCtx = s.curCtx := rfl
@[simp] theorem State.agenda_setQueue (s : State) (q : Nat) (k : WQueue) : (s.setQueue q k).agenda = s.agenda := rfl
@[simp] theorem State.mem_setQueue (s : State) (q : Nat) (k : WQueue) : (s.setQueue q k).mem = s.mem := rfl
@[simp] theorem State.banks_setQueue (s : State) (q : Nat) (k : WQueue) : (s.setQueue q k).banks = s.banks := rfl
@[simp] theorem State.tags_setQueue (s : State) (q : Nat) (k : WQueue) : (s.setQueue q k).tags = s.tags := rfl
@[simp] theorem State.badBank_setQueue (s : State) (q : Nat) (k : WQueue) : (s.setQueue q k).badBank = s.badBank := rfl
@[simp] theorem State.badMem_setQueue (s : State) (q : Nat) (k : WQueue) : (s.setQueue q k).badMem = s.badMem := rfl
@[simp] theorem State.cores_setQueue (s : State) (q : Nat) (k : WQueue) : (s.setQueue q k).cores = s.cores := rfl
@[simp] theorem State.clusters_setQueue (s : State) (q : Nat) (k : WQueue) : (s.setQueue q k).clusters = s.clusters := rfl
@[simp] theorem State.parts_setQueue (s : State) (q : Nat) (k : WQueue) : (s.setQueue q k).parts = s.parts := rfl
@[simp] theorem State.launches_setQueue (s : State) (q : Nat) (k : WQueue) : (s.setQueue q k).launches = s.launches := rfl
@[simp] theorem State.starting_setQueue (s : State) (q : Nat) (k : WQueue) : (s.setQueue q k).starting = s.starting := rfl
@[simp] theorem State.net_setQueue (s : State) (q : Nat) (k : WQueue) : (s.setQueue q k).net = s.net := rfl
@[simp] theorem State.xnet_setQueue (s : State) (q : Nat) (k : WQueue) : (s.setQueue q k).xnet = s.xnet := rfl
@[simp] theorem State.chains_setQueue (s : State) (q : Nat) (k : WQueue) : (s.setQueue q k).chains = s.chains := rfl
@[simp] theorem State.running_setQueue (s : State) (q : Nat) (k : WQueue) : (s.setQueue q k).running = s.running := rfl
@[simp] theorem State.posts_setQueue (s : State) (q : Nat) (k : WQueue) : (s.setQueue q k).posts = s.posts := rfl
@[simp] theorem State.lanes_setQueue (s : State) (q : Nat) (k : WQueue) : (s.setQueue q k).lanes = s.lanes := rfl
@[simp] theorem State.gathers_setQueue (s : State) (q : Nat) (k : WQueue) : (s.setQueue q k).gathers = s.gathers := rfl
@[simp] theorem State.colls_setQueue (s : State) (q : Nat) (k : WQueue) : (s.setQueue q k).colls = s.colls := rfl
@[simp] theorem State.seqs_setQueue (s : State) (q : Nat) (k : WQueue) : (s.setQueue q k).seqs = s.seqs := rfl
@[simp] theorem State.slices_setQueue (s : State) (q : Nat) (k : WQueue) : (s.setQueue q k).slices = s.slices := rfl
@[simp] theorem State.submits_setQueue (s : State) (q : Nat) (k : WQueue) : (s.setQueue q k).submits = s.submits := rfl
@[simp] theorem State.releases_setQueue (s : State) (q : Nat) (k : WQueue) : (s.setQueue q k).releases = s.releases := rfl
@[simp] theorem State.walks_setQueue (s : State) (q : Nat) (k : WQueue) : (s.setQueue q k).walks = s.walks := rfl
@[simp] theorem State.cancels_setQueue (s : State) (q : Nat) (k : WQueue) : (s.setQueue q k).cancels = s.cancels := rfl
@[simp] theorem State.evicts_setQueue (s : State) (q : Nat) (k : WQueue) : (s.setQueue q k).evicts = s.evicts := rfl
@[simp] theorem State.invals_setQueue (s : State) (q : Nat) (k : WQueue) : (s.setQueue q k).invals = s.invals := rfl
@[simp] theorem State.jobs_setQueue (s : State) (q : Nat) (k : WQueue) : (s.setQueue q k).jobs = s.jobs := rfl
@[simp] theorem State.torn_setQueue (s : State) (q : Nat) (k : WQueue) : (s.setQueue q k).torn = s.torn := rfl
@[simp] theorem State.hub_setQueue (s : State) (q : Nat) (k : WQueue) : (s.setQueue q k).hub = s.hub := rfl

@[simp] theorem State.time_setLaunch (s : State) (l : Launch) : (s.setLaunch l).time = s.time := rfl
@[simp] theorem State.nonce_setLaunch (s : State) (l : Launch) : (s.setLaunch l).nonce = s.nonce := rfl
@[simp] theorem State.cur_setLaunch (s : State) (l : Launch) : (s.setLaunch l).cur = s.cur := rfl
@[simp] theorem State.curCtx_setLaunch (s : State) (l : Launch) : (s.setLaunch l).curCtx = s.curCtx := rfl
@[simp] theorem State.agenda_setLaunch (s : State) (l : Launch) : (s.setLaunch l).agenda = s.agenda := rfl
@[simp] theorem State.mem_setLaunch (s : State) (l : Launch) : (s.setLaunch l).mem = s.mem := rfl
@[simp] theorem State.banks_setLaunch (s : State) (l : Launch) : (s.setLaunch l).banks = s.banks := rfl
@[simp] theorem State.tags_setLaunch (s : State) (l : Launch) : (s.setLaunch l).tags = s.tags := rfl
@[simp] theorem State.badBank_setLaunch (s : State) (l : Launch) : (s.setLaunch l).badBank = s.badBank := rfl
@[simp] theorem State.badMem_setLaunch (s : State) (l : Launch) : (s.setLaunch l).badMem = s.badMem := rfl
@[simp] theorem State.cores_setLaunch (s : State) (l : Launch) : (s.setLaunch l).cores = s.cores := rfl
@[simp] theorem State.clusters_setLaunch (s : State) (l : Launch) : (s.setLaunch l).clusters = s.clusters := rfl
@[simp] theorem State.parts_setLaunch (s : State) (l : Launch) : (s.setLaunch l).parts = s.parts := rfl
@[simp] theorem State.queues_setLaunch (s : State) (l : Launch) : (s.setLaunch l).queues = s.queues := rfl
@[simp] theorem State.starting_setLaunch (s : State) (l : Launch) : (s.setLaunch l).starting = s.starting := rfl
@[simp] theorem State.net_setLaunch (s : State) (l : Launch) : (s.setLaunch l).net = s.net := rfl
@[simp] theorem State.xnet_setLaunch (s : State) (l : Launch) : (s.setLaunch l).xnet = s.xnet := rfl
@[simp] theorem State.chains_setLaunch (s : State) (l : Launch) : (s.setLaunch l).chains = s.chains := rfl
@[simp] theorem State.running_setLaunch (s : State) (l : Launch) : (s.setLaunch l).running = s.running := rfl
@[simp] theorem State.posts_setLaunch (s : State) (l : Launch) : (s.setLaunch l).posts = s.posts := rfl
@[simp] theorem State.lanes_setLaunch (s : State) (l : Launch) : (s.setLaunch l).lanes = s.lanes := rfl
@[simp] theorem State.gathers_setLaunch (s : State) (l : Launch) : (s.setLaunch l).gathers = s.gathers := rfl
@[simp] theorem State.colls_setLaunch (s : State) (l : Launch) : (s.setLaunch l).colls = s.colls := rfl
@[simp] theorem State.seqs_setLaunch (s : State) (l : Launch) : (s.setLaunch l).seqs = s.seqs := rfl
@[simp] theorem State.slices_setLaunch (s : State) (l : Launch) : (s.setLaunch l).slices = s.slices := rfl
@[simp] theorem State.submits_setLaunch (s : State) (l : Launch) : (s.setLaunch l).submits = s.submits := rfl
@[simp] theorem State.releases_setLaunch (s : State) (l : Launch) : (s.setLaunch l).releases = s.releases := rfl
@[simp] theorem State.walks_setLaunch (s : State) (l : Launch) : (s.setLaunch l).walks = s.walks := rfl
@[simp] theorem State.cancels_setLaunch (s : State) (l : Launch) : (s.setLaunch l).cancels = s.cancels := rfl
@[simp] theorem State.evicts_setLaunch (s : State) (l : Launch) : (s.setLaunch l).evicts = s.evicts := rfl
@[simp] theorem State.invals_setLaunch (s : State) (l : Launch) : (s.setLaunch l).invals = s.invals := rfl
@[simp] theorem State.jobs_setLaunch (s : State) (l : Launch) : (s.setLaunch l).jobs = s.jobs := rfl
@[simp] theorem State.torn_setLaunch (s : State) (l : Launch) : (s.setLaunch l).torn = s.torn := rfl
@[simp] theorem State.hub_setLaunch (s : State) (l : Launch) : (s.setLaunch l).hub = s.hub := rfl

/-! ### Registers of a context -/

@[simp] theorem Ctx.live_ws (k : Ctx) (i : SReg) (w : Word) : (k.ws i w).live = k.live := by unfold Ctx.ws; split <;> rfl
@[simp] theorem Ctx.born_ws (k : Ctx) (i : SReg) (w : Word) : (k.ws i w).born = k.born := by unfold Ctx.ws; split <;> rfl
@[simp] theorem Ctx.pc_ws (k : Ctx) (i : SReg) (w : Word) : (k.ws i w).pc = k.pc := by unfold Ctx.ws; split <;> rfl
@[simp] theorem Ctx.level_ws (k : Ctx) (i : SReg) (w : Word) : (k.ws i w).level = k.level := by unfold Ctx.ws; split <;> rfl
@[simp] theorem Ctx.grant_ws (k : Ctx) (i : SReg) (w : Word) : (k.ws i w).grant = k.grant := by unfold Ctx.ws; split <;> rfl
@[simp] theorem Ctx.uiHold_ws (k : Ctx) (i : SReg) (w : Word) : (k.ws i w).uiHold = k.uiHold := by unfold Ctx.ws; split <;> rfl
@[simp] theorem Ctx.v_ws (k : Ctx) (i : SReg) (w : Word) : (k.ws i w).v = k.v := by unfold Ctx.ws; split <;> rfl
@[simp] theorem Ctx.p_ws (k : Ctx) (i : SReg) (w : Word) : (k.ws i w).p = k.p := by unfold Ctx.ws; split <;> rfl
@[simp] theorem Ctx.q_ws (k : Ctx) (i : SReg) (w : Word) : (k.ws i w).q = k.q := by unfold Ctx.ws; split <;> rfl
@[simp] theorem Ctx.ovt_ws (k : Ctx) (i : SReg) (w : Word) : (k.ws i w).ovt = k.ovt := by unfold Ctx.ws; split <;> rfl
@[simp] theorem Ctx.tagCtr_ws (k : Ctx) (i : SReg) (w : Word) : (k.ws i w).tagCtr = k.tagCtr := by unfold Ctx.ws; split <;> rfl
@[simp] theorem Ctx.fseq_ws (k : Ctx) (i : SReg) (w : Word) : (k.ws i w).fseq = k.fseq := by unfold Ctx.ws; split <;> rfl
@[simp] theorem Ctx.tokens_ws (k : Ctx) (i : SReg) (w : Word) : (k.ws i w).tokens = k.tokens := by unfold Ctx.ws; split <;> rfl
@[simp] theorem Ctx.claims_ws (k : Ctx) (i : SReg) (w : Word) : (k.ws i w).claims = k.claims := by unfold Ctx.ws; split <;> rfl
@[simp] theorem Ctx.ticket_ws (k : Ctx) (i : SReg) (w : Word) : (k.ws i w).ticket = k.ticket := by unfold Ctx.ws; split <;> rfl
@[simp] theorem Ctx.grants_ws (k : Ctx) (i : SReg) (w : Word) : (k.ws i w).grants = k.grants := by unfold Ctx.ws; split <;> rfl
@[simp] theorem Ctx.lastGrant_ws (k : Ctx) (i : SReg) (w : Word) : (k.ws i w).lastGrant = k.lastGrant := by unfold Ctx.ws; split <;> rfl
@[simp] theorem Ctx.txOpen_ws (k : Ctx) (i : SReg) (w : Word) : (k.ws i w).txOpen = k.txOpen := by unfold Ctx.ws; split <;> rfl
@[simp] theorem Ctx.lostDies_ws (k : Ctx) (i : SReg) (w : Word) : (k.ws i w).lostDies = k.lostDies := by unfold Ctx.ws; split <;> rfl
@[simp] theorem Ctx.xlat_ws (k : Ctx) (i : SReg) (w : Word) : (k.ws i w).xlat = k.xlat := by unfold Ctx.ws; split <;> rfl
@[simp] theorem Ctx.sel_ws (k : Ctx) (i : SReg) (w : Word) : (k.ws i w).sel = k.sel := by unfold Ctx.ws; split <;> rfl
@[simp] theorem Ctx.uirqpc_ws (k : Ctx) (i : SReg) (w : Word) : (k.ws i w).uirqpc = k.uirqpc := by unfold Ctx.ws; split <;> rfl
@[simp] theorem Ctx.uirqxfer_ws (k : Ctx) (i : SReg) (w : Word) : (k.ws i w).uirqxfer = k.uirqxfer := by unfold Ctx.ws; split <;> rfl
@[simp] theorem Ctx.trapcause_ws (k : Ctx) (i : SReg) (w : Word) : (k.ws i w).trapcause = k.trapcause := by unfold Ctx.ws; split <;> rfl
@[simp] theorem Ctx.trappc_ws (k : Ctx) (i : SReg) (w : Word) : (k.ws i w).trappc = k.trappc := by unfold Ctx.ws; split <;> rfl
@[simp] theorem Ctx.trapdetail_ws (k : Ctx) (i : SReg) (w : Word) : (k.ws i w).trapdetail = k.trapdetail := by unfold Ctx.ws; split <;> rfl
@[simp] theorem Ctx.trapjrn_ws (k : Ctx) (i : SReg) (w : Word) : (k.ws i w).trapjrn = k.trapjrn := by unfold Ctx.ws; split <;> rfl
@[simp] theorem Ctx.irqs_ws (k : Ctx) (i : SReg) (w : Word) : (k.ws i w).irqs = k.irqs := by unfold Ctx.ws; split <;> rfl
@[simp] theorem Ctx.stall_ws (k : Ctx) (i : SReg) (w : Word) : (k.ws i w).stall = k.stall := by unfold Ctx.ws; split <;> rfl
@[simp] theorem Ctx.yieldNow_ws (k : Ctx) (i : SReg) (w : Word) : (k.ws i w).yieldNow = k.yieldNow := by unfold Ctx.ws; split <;> rfl
@[simp] theorem Ctx.wait_ws (k : Ctx) (i : SReg) (w : Word) : (k.ws i w).wait = k.wait := by unfold Ctx.ws; split <;> rfl
@[simp] theorem Ctx.traps_ws (k : Ctx) (i : SReg) (w : Word) : (k.ws i w).traps = k.traps := by unfold Ctx.ws; split <;> rfl
@[simp] theorem Ctx.unresolved_ws (k : Ctx) (i : SReg) (w : Word) : (k.ws i w).unresolved = k.unresolved := by unfold Ctx.ws; split <;> rfl
@[simp] theorem Ctx.invs_ws (k : Ctx) (i : SReg) (w : Word) : (k.ws i w).invs = k.invs := by unfold Ctx.ws; split <;> rfl
@[simp] theorem Ctx.trapSlot_ws (k : Ctx) (i : SReg) (w : Word) : (k.ws i w).trapSlot = k.trapSlot := by unfold Ctx.ws; split <;> rfl
@[simp] theorem Ctx.rbTrap_ws (k : Ctx) (i : SReg) (w : Word) : (k.ws i w).rbTrap = k.rbTrap := by unfold Ctx.ws; split <;> rfl
@[simp] theorem Ctx.finish_ws (k : Ctx) (i : SReg) (w : Word) : (k.ws i w).finish = k.finish := by unfold Ctx.ws; split <;> rfl
@[simp] theorem Ctx.stopReq_ws (k : Ctx) (i : SReg) (w : Word) : (k.ws i w).stopReq = k.stopReq := by unfold Ctx.ws; split <;> rfl
@[simp] theorem Ctx.inUnit_ws (k : Ctx) (i : SReg) (w : Word) : (k.ws i w).inUnit = k.inUnit := by unfold Ctx.ws; split <;> rfl
@[simp] theorem Ctx.code_ws (k : Ctx) (i : SReg) (w : Word) : (k.ws i w).code = k.code := by unfold Ctx.ws; split <;> rfl
@[simp] theorem Ctx.fenced_ws (k : Ctx) (i : SReg) (w : Word) : (k.ws i w).fenced = k.fenced := by unfold Ctx.ws; split <;> rfl
@[simp] theorem Ctx.mid_ws (k : Ctx) (i : SReg) (w : Word) : (k.ws i w).mid = k.mid := by unfold Ctx.ws; split <;> rfl

@[simp] theorem Ctx.live_wv (k : Ctx) (i : VReg) (w : Vec) : (k.wv i w).live = k.live := rfl
@[simp] theorem Ctx.born_wv (k : Ctx) (i : VReg) (w : Vec) : (k.wv i w).born = k.born := rfl
@[simp] theorem Ctx.pc_wv (k : Ctx) (i : VReg) (w : Vec) : (k.wv i w).pc = k.pc := rfl
@[simp] theorem Ctx.level_wv (k : Ctx) (i : VReg) (w : Vec) : (k.wv i w).level = k.level := rfl
@[simp] theorem Ctx.grant_wv (k : Ctx) (i : VReg) (w : Vec) : (k.wv i w).grant = k.grant := rfl
@[simp] theorem Ctx.uiHold_wv (k : Ctx) (i : VReg) (w : Vec) : (k.wv i w).uiHold = k.uiHold := rfl
@[simp] theorem Ctx.s_wv (k : Ctx) (i : VReg) (w : Vec) : (k.wv i w).s = k.s := rfl
@[simp] theorem Ctx.p_wv (k : Ctx) (i : VReg) (w : Vec) : (k.wv i w).p = k.p := rfl
@[simp] theorem Ctx.q_wv (k : Ctx) (i : VReg) (w : Vec) : (k.wv i w).q = k.q := rfl
@[simp] theorem Ctx.ovt_wv (k : Ctx) (i : VReg) (w : Vec) : (k.wv i w).ovt = k.ovt := rfl
@[simp] theorem Ctx.tagCtr_wv (k : Ctx) (i : VReg) (w : Vec) : (k.wv i w).tagCtr = k.tagCtr := rfl
@[simp] theorem Ctx.fseq_wv (k : Ctx) (i : VReg) (w : Vec) : (k.wv i w).fseq = k.fseq := rfl
@[simp] theorem Ctx.tokens_wv (k : Ctx) (i : VReg) (w : Vec) : (k.wv i w).tokens = k.tokens := rfl
@[simp] theorem Ctx.claims_wv (k : Ctx) (i : VReg) (w : Vec) : (k.wv i w).claims = k.claims := rfl
@[simp] theorem Ctx.ticket_wv (k : Ctx) (i : VReg) (w : Vec) : (k.wv i w).ticket = k.ticket := rfl
@[simp] theorem Ctx.grants_wv (k : Ctx) (i : VReg) (w : Vec) : (k.wv i w).grants = k.grants := rfl
@[simp] theorem Ctx.lastGrant_wv (k : Ctx) (i : VReg) (w : Vec) : (k.wv i w).lastGrant = k.lastGrant := rfl
@[simp] theorem Ctx.txOpen_wv (k : Ctx) (i : VReg) (w : Vec) : (k.wv i w).txOpen = k.txOpen := rfl
@[simp] theorem Ctx.lostDies_wv (k : Ctx) (i : VReg) (w : Vec) : (k.wv i w).lostDies = k.lostDies := rfl
@[simp] theorem Ctx.xlat_wv (k : Ctx) (i : VReg) (w : Vec) : (k.wv i w).xlat = k.xlat := rfl
@[simp] theorem Ctx.sel_wv (k : Ctx) (i : VReg) (w : Vec) : (k.wv i w).sel = k.sel := rfl
@[simp] theorem Ctx.uirqpc_wv (k : Ctx) (i : VReg) (w : Vec) : (k.wv i w).uirqpc = k.uirqpc := rfl
@[simp] theorem Ctx.uirqxfer_wv (k : Ctx) (i : VReg) (w : Vec) : (k.wv i w).uirqxfer = k.uirqxfer := rfl
@[simp] theorem Ctx.trapcause_wv (k : Ctx) (i : VReg) (w : Vec) : (k.wv i w).trapcause = k.trapcause := rfl
@[simp] theorem Ctx.trappc_wv (k : Ctx) (i : VReg) (w : Vec) : (k.wv i w).trappc = k.trappc := rfl
@[simp] theorem Ctx.trapdetail_wv (k : Ctx) (i : VReg) (w : Vec) : (k.wv i w).trapdetail = k.trapdetail := rfl
@[simp] theorem Ctx.trapjrn_wv (k : Ctx) (i : VReg) (w : Vec) : (k.wv i w).trapjrn = k.trapjrn := rfl
@[simp] theorem Ctx.irqs_wv (k : Ctx) (i : VReg) (w : Vec) : (k.wv i w).irqs = k.irqs := rfl
@[simp] theorem Ctx.stall_wv (k : Ctx) (i : VReg) (w : Vec) : (k.wv i w).stall = k.stall := rfl
@[simp] theorem Ctx.yieldNow_wv (k : Ctx) (i : VReg) (w : Vec) : (k.wv i w).yieldNow = k.yieldNow := rfl
@[simp] theorem Ctx.wait_wv (k : Ctx) (i : VReg) (w : Vec) : (k.wv i w).wait = k.wait := rfl
@[simp] theorem Ctx.traps_wv (k : Ctx) (i : VReg) (w : Vec) : (k.wv i w).traps = k.traps := rfl
@[simp] theorem Ctx.unresolved_wv (k : Ctx) (i : VReg) (w : Vec) : (k.wv i w).unresolved = k.unresolved := rfl
@[simp] theorem Ctx.invs_wv (k : Ctx) (i : VReg) (w : Vec) : (k.wv i w).invs = k.invs := rfl
@[simp] theorem Ctx.trapSlot_wv (k : Ctx) (i : VReg) (w : Vec) : (k.wv i w).trapSlot = k.trapSlot := rfl
@[simp] theorem Ctx.rbTrap_wv (k : Ctx) (i : VReg) (w : Vec) : (k.wv i w).rbTrap = k.rbTrap := rfl
@[simp] theorem Ctx.finish_wv (k : Ctx) (i : VReg) (w : Vec) : (k.wv i w).finish = k.finish := rfl
@[simp] theorem Ctx.stopReq_wv (k : Ctx) (i : VReg) (w : Vec) : (k.wv i w).stopReq = k.stopReq := rfl
@[simp] theorem Ctx.inUnit_wv (k : Ctx) (i : VReg) (w : Vec) : (k.wv i w).inUnit = k.inUnit := rfl
@[simp] theorem Ctx.code_wv (k : Ctx) (i : VReg) (w : Vec) : (k.wv i w).code = k.code := rfl
@[simp] theorem Ctx.fenced_wv (k : Ctx) (i : VReg) (w : Vec) : (k.wv i w).fenced = k.fenced := rfl
@[simp] theorem Ctx.mid_wv (k : Ctx) (i : VReg) (w : Vec) : (k.wv i w).mid = k.mid := rfl

@[simp] theorem Ctx.live_wp (k : Ctx) (i : PReg) (w : Word) : (k.wp i w).live = k.live := by unfold Ctx.wp; split <;> rfl
@[simp] theorem Ctx.born_wp (k : Ctx) (i : PReg) (w : Word) : (k.wp i w).born = k.born := by unfold Ctx.wp; split <;> rfl
@[simp] theorem Ctx.pc_wp (k : Ctx) (i : PReg) (w : Word) : (k.wp i w).pc = k.pc := by unfold Ctx.wp; split <;> rfl
@[simp] theorem Ctx.level_wp (k : Ctx) (i : PReg) (w : Word) : (k.wp i w).level = k.level := by unfold Ctx.wp; split <;> rfl
@[simp] theorem Ctx.grant_wp (k : Ctx) (i : PReg) (w : Word) : (k.wp i w).grant = k.grant := by unfold Ctx.wp; split <;> rfl
@[simp] theorem Ctx.uiHold_wp (k : Ctx) (i : PReg) (w : Word) : (k.wp i w).uiHold = k.uiHold := by unfold Ctx.wp; split <;> rfl
@[simp] theorem Ctx.s_wp (k : Ctx) (i : PReg) (w : Word) : (k.wp i w).s = k.s := by unfold Ctx.wp; split <;> rfl
@[simp] theorem Ctx.v_wp (k : Ctx) (i : PReg) (w : Word) : (k.wp i w).v = k.v := by unfold Ctx.wp; split <;> rfl
@[simp] theorem Ctx.q_wp (k : Ctx) (i : PReg) (w : Word) : (k.wp i w).q = k.q := by unfold Ctx.wp; split <;> rfl
@[simp] theorem Ctx.ovt_wp (k : Ctx) (i : PReg) (w : Word) : (k.wp i w).ovt = k.ovt := by unfold Ctx.wp; split <;> rfl
@[simp] theorem Ctx.tagCtr_wp (k : Ctx) (i : PReg) (w : Word) : (k.wp i w).tagCtr = k.tagCtr := by unfold Ctx.wp; split <;> rfl
@[simp] theorem Ctx.fseq_wp (k : Ctx) (i : PReg) (w : Word) : (k.wp i w).fseq = k.fseq := by unfold Ctx.wp; split <;> rfl
@[simp] theorem Ctx.tokens_wp (k : Ctx) (i : PReg) (w : Word) : (k.wp i w).tokens = k.tokens := by unfold Ctx.wp; split <;> rfl
@[simp] theorem Ctx.claims_wp (k : Ctx) (i : PReg) (w : Word) : (k.wp i w).claims = k.claims := by unfold Ctx.wp; split <;> rfl
@[simp] theorem Ctx.ticket_wp (k : Ctx) (i : PReg) (w : Word) : (k.wp i w).ticket = k.ticket := by unfold Ctx.wp; split <;> rfl
@[simp] theorem Ctx.grants_wp (k : Ctx) (i : PReg) (w : Word) : (k.wp i w).grants = k.grants := by unfold Ctx.wp; split <;> rfl
@[simp] theorem Ctx.lastGrant_wp (k : Ctx) (i : PReg) (w : Word) : (k.wp i w).lastGrant = k.lastGrant := by unfold Ctx.wp; split <;> rfl
@[simp] theorem Ctx.txOpen_wp (k : Ctx) (i : PReg) (w : Word) : (k.wp i w).txOpen = k.txOpen := by unfold Ctx.wp; split <;> rfl
@[simp] theorem Ctx.lostDies_wp (k : Ctx) (i : PReg) (w : Word) : (k.wp i w).lostDies = k.lostDies := by unfold Ctx.wp; split <;> rfl
@[simp] theorem Ctx.xlat_wp (k : Ctx) (i : PReg) (w : Word) : (k.wp i w).xlat = k.xlat := by unfold Ctx.wp; split <;> rfl
@[simp] theorem Ctx.sel_wp (k : Ctx) (i : PReg) (w : Word) : (k.wp i w).sel = k.sel := by unfold Ctx.wp; split <;> rfl
@[simp] theorem Ctx.uirqpc_wp (k : Ctx) (i : PReg) (w : Word) : (k.wp i w).uirqpc = k.uirqpc := by unfold Ctx.wp; split <;> rfl
@[simp] theorem Ctx.uirqxfer_wp (k : Ctx) (i : PReg) (w : Word) : (k.wp i w).uirqxfer = k.uirqxfer := by unfold Ctx.wp; split <;> rfl
@[simp] theorem Ctx.trapcause_wp (k : Ctx) (i : PReg) (w : Word) : (k.wp i w).trapcause = k.trapcause := by unfold Ctx.wp; split <;> rfl
@[simp] theorem Ctx.trappc_wp (k : Ctx) (i : PReg) (w : Word) : (k.wp i w).trappc = k.trappc := by unfold Ctx.wp; split <;> rfl
@[simp] theorem Ctx.trapdetail_wp (k : Ctx) (i : PReg) (w : Word) : (k.wp i w).trapdetail = k.trapdetail := by unfold Ctx.wp; split <;> rfl
@[simp] theorem Ctx.trapjrn_wp (k : Ctx) (i : PReg) (w : Word) : (k.wp i w).trapjrn = k.trapjrn := by unfold Ctx.wp; split <;> rfl
@[simp] theorem Ctx.irqs_wp (k : Ctx) (i : PReg) (w : Word) : (k.wp i w).irqs = k.irqs := by unfold Ctx.wp; split <;> rfl
@[simp] theorem Ctx.stall_wp (k : Ctx) (i : PReg) (w : Word) : (k.wp i w).stall = k.stall := by unfold Ctx.wp; split <;> rfl
@[simp] theorem Ctx.yieldNow_wp (k : Ctx) (i : PReg) (w : Word) : (k.wp i w).yieldNow = k.yieldNow := by unfold Ctx.wp; split <;> rfl
@[simp] theorem Ctx.wait_wp (k : Ctx) (i : PReg) (w : Word) : (k.wp i w).wait = k.wait := by unfold Ctx.wp; split <;> rfl
@[simp] theorem Ctx.traps_wp (k : Ctx) (i : PReg) (w : Word) : (k.wp i w).traps = k.traps := by unfold Ctx.wp; split <;> rfl
@[simp] theorem Ctx.unresolved_wp (k : Ctx) (i : PReg) (w : Word) : (k.wp i w).unresolved = k.unresolved := by unfold Ctx.wp; split <;> rfl
@[simp] theorem Ctx.invs_wp (k : Ctx) (i : PReg) (w : Word) : (k.wp i w).invs = k.invs := by unfold Ctx.wp; split <;> rfl
@[simp] theorem Ctx.trapSlot_wp (k : Ctx) (i : PReg) (w : Word) : (k.wp i w).trapSlot = k.trapSlot := by unfold Ctx.wp; split <;> rfl
@[simp] theorem Ctx.rbTrap_wp (k : Ctx) (i : PReg) (w : Word) : (k.wp i w).rbTrap = k.rbTrap := by unfold Ctx.wp; split <;> rfl
@[simp] theorem Ctx.finish_wp (k : Ctx) (i : PReg) (w : Word) : (k.wp i w).finish = k.finish := by unfold Ctx.wp; split <;> rfl
@[simp] theorem Ctx.stopReq_wp (k : Ctx) (i : PReg) (w : Word) : (k.wp i w).stopReq = k.stopReq := by unfold Ctx.wp; split <;> rfl
@[simp] theorem Ctx.inUnit_wp (k : Ctx) (i : PReg) (w : Word) : (k.wp i w).inUnit = k.inUnit := by unfold Ctx.wp; split <;> rfl
@[simp] theorem Ctx.code_wp (k : Ctx) (i : PReg) (w : Word) : (k.wp i w).code = k.code := by unfold Ctx.wp; split <;> rfl
@[simp] theorem Ctx.fenced_wp (k : Ctx) (i : PReg) (w : Word) : (k.wp i w).fenced = k.fenced := by unfold Ctx.wp; split <;> rfl
@[simp] theorem Ctx.mid_wp (k : Ctx) (i : PReg) (w : Word) : (k.wp i w).mid = k.mid := by unfold Ctx.wp; split <;> rfl

@[simp] theorem Ctx.rs_zero (k : Ctx) : k.rs 0#5 = 0 := rfl

@[simp] theorem Ctx.ws_zero (k : Ctx) (w : Word) : k.ws 0#5 w = k := rfl

@[simp] theorem Ctx.rs_ws_self (k : Ctx) (i : SReg) (w : Word) (h : i ≠ 0) : (k.ws i w).rs i = w := by
  unfold Ctx.rs Ctx.ws; rw [if_neg h, if_neg h]; simp

@[simp] theorem Ctx.rs_ws_ne (k : Ctx) (i j : SReg) (w : Word) (h : j ≠ i) : (k.ws i w).rs j = k.rs j := by
  have hn : i.toNat ≠ j.toNat := fun e => h (BitVec.eq_of_toNat_eq e.symm)
  unfold Ctx.rs Ctx.ws
  split
  · rfl
  · split
    · rfl
    · simp [hn]

@[simp] theorem Ctx.rv_wv_self (k : Ctx) (i : VReg) (w : Vec) : (k.wv i w).rv i = w := by simp [Ctx.rv, Ctx.wv]

@[simp] theorem Ctx.rv_wv_ne (k : Ctx) (i j : VReg) (w : Vec) (h : j ≠ i) : (k.wv i w).rv j = k.rv j := by
  have hn : i.toNat ≠ j.toNat := fun e => h (BitVec.eq_of_toNat_eq e.symm)
  simp [Ctx.rv, Ctx.wv, hn]

@[simp] theorem Ctx.rp_seven (k : Ctx) : k.rp 7#3 = BitVec.allOnes 64 := rfl

@[simp] theorem Ctx.wp_seven (k : Ctx) (w : Word) : k.wp 7#3 w = k := rfl

@[simp] theorem Ctx.rp_wp_self (k : Ctx) (i : PReg) (w : Word) (h : i ≠ 7) : (k.wp i w).rp i = w := by
  unfold Ctx.rp Ctx.wp; rw [if_neg h, if_neg h]; simp

@[simp] theorem Ctx.rp_wp_ne (k : Ctx) (i j : PReg) (w : Word) (h : j ≠ i) : (k.wp i w).rp j = k.rp j := by
  have hn : i.toNat ≠ j.toNat := fun e => h (BitVec.eq_of_toNat_eq e.symm)
  unfold Ctx.rp Ctx.wp
  split
  · rfl
  · split
    · rfl
    · simp [hn]

@[simp] theorem Ctx.rs_wv (k : Ctx) (i : VReg) (w : Vec) (j : SReg) : (k.wv i w).rs j = k.rs j := rfl
@[simp] theorem Ctx.rp_wv (k : Ctx) (i : VReg) (w : Vec) (j : PReg) : (k.wv i w).rp j = k.rp j := rfl
@[simp] theorem Ctx.rv_ws (k : Ctx) (i : SReg) (w : Word) (j : VReg) : (k.ws i w).rv j = k.rv j := by simp [Ctx.rv]
@[simp] theorem Ctx.rp_ws (k : Ctx) (i : SReg) (w : Word) (j : PReg) : (k.ws i w).rp j = k.rp j := by simp [Ctx.rp]
@[simp] theorem Ctx.rs_wp (k : Ctx) (i : PReg) (w : Word) (j : SReg) : (k.wp i w).rs j = k.rs j := by simp [Ctx.rs]
@[simp] theorem Ctx.rv_wp (k : Ctx) (i : PReg) (w : Word) (j : VReg) : (k.wp i w).rv j = k.rv j := by simp [Ctx.rv]

end Sys2Proof.Machine
end

