-- ==== Sys2Proof/Laws/Issue.lean ====
section
/-!
SUPPORT. The issue of an instruction said once: every instruction word's meaning is an issue with its header and its
need, and what an issue answers at each of the checks of R31.
-/

namespace Sys2Proof.Machine

open Sys2Proof

set_option maxHeartbeats 1000000 in
/-- Every instruction but `yield` is issued with its own header and need. -/
theorem exec_issue (i : Instr) (h : Hdr) (hh : Instr.hdr? i = some h) (hy : ∀ k, i ≠ .yield k) :
    ∃ body, ∀ s, exec i s = issue h (fun _ => Instr.need i) body s := by
  cases i
  case prog k b => cases b <;> cases hh <;> exact ⟨_, fun s => rfl⟩
  all_goals first
    | exact absurd rfl (hy _)
    | (cases hh <;> exact ⟨_, fun s => rfl⟩)

/-- Under a false guard an issue only goes on with its hints (R15). -/
theorem issue_false (h : Hdr) (n : State → Need) (body : State → Res) (s : State) (hg : guardTrue s.me h = false) :
    issue h n body s = .next (s.goOn h) := by simp [issue, hg, State.goOn]

/-- A context below the level traps with PRIV (R31). -/
theorem issue_priv (h : Hdr) (n : State → Need) (body : State → Res) (s : State) (hg : guardTrue s.me h = true)
    (hl : s.me.level < (n s).level) : issue h n body s = (s.raise .priv).out h s := by simp [issue, hg, hl]

/-- What issues runs its own effect. -/
theorem issue_issues (h : Hdr) (n : State → Need) (body : State → Res) (s : State) (hi : s.issues h (n s) = true) :
    issue h n body s = (body s).out h s := by
  simp only [State.issues, Bool.and_eq_true, Bool.not_eq_true', decide_eq_true_eq] at hi
  obtain ⟨⟨⟨⟨⟨h1, h2⟩, h3⟩, h4⟩, h5⟩, -⟩ := hi
  have h2' : ¬ s.me.level < (n s).level := Nat.not_lt.mpr h2
  simp [issue, h1, h2', h3, h4, h5]

end Sys2Proof.Machine
end

