-- ==== Sys2Proof/Laws/Memory.lean ====
section
/-!
SUPPORT. Laws of the memories: what a byte reads as after each operation, and that each keeps the canonical form.
-/

namespace Sys2Proof.Machine

/-- The canonical form of a list: its first entry is good and stands before the rest, which is canonical. -/
theorem Memory.wf_cons (c : Host.Cell) (m : Memory) :
    Memory.wf (c :: m) = true ↔ c.2 ≠ 0 ∧ (∀ d ∈ m, c.1 < d.1) ∧ Memory.wf m = true := by
  induction m generalizing c with
  | nil => simp [Memory.wf]
  | cons d m ih =>
    have e : Memory.wf (c :: d :: m) = true ↔ (c.2 ≠ 0 ∧ c.1 < d.1) ∧ Memory.wf (d :: m) = true := by
      simp [Memory.wf]
    rw [e]
    constructor
    · rintro ⟨⟨h0, h1⟩, hw⟩
      refine ⟨h0, ?_, hw⟩
      intro x hx
      rcases List.mem_cons.mp hx with rfl | hx
      · exact h1
      · exact Nat.lt_trans h1 (((ih d).mp hw).2.1 x hx)
    · rintro ⟨h0, h1, hw⟩
      exact ⟨⟨h0, h1 d (List.mem_cons_self ..)⟩, hw⟩

/-- Every address that a write leaves listed was listed, or is the one written. -/
theorem Memory.mem_set (m : Memory) (a : Nat) (v : Byte) (d : Host.Cell) (h : d ∈ m.set a v) : d ∈ m ∨ d.1 = a := by
  induction m with
  | nil =>
    unfold Memory.set at h
    split at h
    · simp at h
    · simp at h; right; simp [h]
  | cons c m ih =>
    unfold Memory.set at h
    split at h
    · split at h
      · exact .inl h
      · rcases List.mem_cons.mp h with rfl | h
        · exact .inr rfl
        · exact .inl h
    · split at h
      · split at h
        · exact .inl (List.mem_cons_of_mem _ h)
        · rcases List.mem_cons.mp h with rfl | h
          · exact .inr rfl
          · exact .inl (List.mem_cons_of_mem _ h)
      · rcases List.mem_cons.mp h with rfl | h
        · exact .inl (List.mem_cons_self ..)
        · rcases ih h with h | h
          · exact .inl (List.mem_cons_of_mem _ h)
          · exact .inr h

/-- Writing a byte keeps the canonical form. -/
theorem Memory.set_wf (m : Memory) (a : Nat) (v : Byte) (h : m.wf = true) : (m.set a v).wf = true := by
  induction m with
  | nil =>
    unfold Memory.set
    split
    · rfl
    · rename_i hv; simpa [Memory.wf, Memory.unlisted] using hv
  | cons c m ih =>
    obtain ⟨h0, h1, h2⟩ := (Memory.wf_cons c m).mp h
    unfold Memory.set
    split
    · rename_i ha
      split
      · exact h
      · rename_i hv
        refine (Memory.wf_cons _ _).mpr ⟨hv, ?_, h⟩
        intro d hd
        rcases List.mem_cons.mp hd with rfl | hd
        · exact ha
        · exact Nat.lt_trans ha (h1 d hd)
    · split
      · rename_i ha
        split
        · exact h2
        · rename_i hv
          exact (Memory.wf_cons _ _).mpr ⟨hv, fun d hd => ha ▸ h1 d hd, h2⟩
      · rename_i ha hb
        refine (Memory.wf_cons _ _).mpr ⟨h0, ?_, ih h2⟩
        intro d hd
        rcases Memory.mem_set m a v d hd with hd | hd
        · exact h1 d hd
        · omega

/-- Writing a value keeps the canonical form. -/
theorem Memory.write_wf (m : Memory) (a n v : Nat) (h : m.wf = true) : (m.write a n v).wf = true := by
  induction n generalizing m a v with
  | zero => exact h
  | succ n ih => exact ih _ _ _ (Memory.set_wf m a _ h)

/-- Wiping a range keeps the canonical form. -/
theorem Memory.wipe_wf (m : Memory) (a n : Nat) (h : m.wf = true) : (m.wipe a n).wf = true := by
  induction m with
  | nil => rfl
  | cons c m ih =>
    obtain ⟨h0, h1, h2⟩ := (Memory.wf_cons c m).mp h
    by_cases hc : (decide (c.1 < a) || decide (a + n ≤ c.1)) = true
    · have e : Memory.wipe (c :: m) a n = c :: Memory.wipe m a n := List.filter_cons_of_pos hc
      rw [e]
      exact (Memory.wf_cons _ _).mpr ⟨h0, fun d hd => h1 d (List.mem_of_mem_filter hd), ih h2⟩
    · have e : Memory.wipe (c :: m) a n = Memory.wipe m a n := List.filter_cons_of_neg hc
      rw [e]
      exact ih h2

/-- The memories of the machine after reset are canonical. -/
theorem reset_memories_wf : State.reset.mem.wf = true ∧ State.reset.banks.wf = true := ⟨rfl, rfl⟩

/-- What is listed nowhere reads as the unlisted byte. -/
theorem Memory.byte_of_lt (m : Memory) (a : Nat) (h : ∀ d ∈ m, a < d.1) : m.byte a = Memory.unlisted := by
  induction m with
  | nil => rfl
  | cons c m ih =>
    have hc := h c (List.mem_cons_self ..)
    unfold Memory.byte
    rw [if_neg (by omega)]
    exact ih (fun d hd => h d (List.mem_cons_of_mem _ hd))

/-- A byte written is read back, and every other byte is as before. -/
theorem Memory.byte_set (m : Memory) (a b : Nat) (v : Byte) (h : m.wf = true) :
    (m.set a v).byte b = if b = a then v else m.byte b := by
  induction m with
  | nil =>
    unfold Memory.set
    split
    · rename_i hv; subst hv; simp [Memory.byte]
    · simp only [Memory.byte]
      by_cases hb : b = a
      · simp [hb]
      · rw [if_neg (fun e => hb e.symm), if_neg hb]
  | cons c m ih =>
    obtain ⟨h0, h1, h2⟩ := (Memory.wf_cons c m).mp h
    unfold Memory.set
    split
    · rename_i ha
      have hl : Memory.byte (c :: m) a = Memory.unlisted := Memory.byte_of_lt _ _ (fun d hd => by
        rcases List.mem_cons.mp hd with rfl | hd
        · exact ha
        · exact Nat.lt_trans ha (h1 d hd))
      split
      · rename_i hv
        by_cases hb : b = a
        · rw [if_pos hb, hb, hl, hv]
        · rw [if_neg hb]
      · by_cases hb : b = a
        · rw [if_pos hb, hb]; simp [Memory.byte]
        · rw [if_neg hb]
          conv => lhs; unfold Memory.byte
          rw [if_neg (fun e => hb e.symm)]
    · split
      · rename_i ha
        have hl : Memory.byte m a = Memory.unlisted := Memory.byte_of_lt _ _ (fun d hd => ha ▸ h1 d hd)
        split
        · rename_i hv
          by_cases hb : b = a
          · rw [if_pos hb, hb, hl, hv]
          · rw [if_neg hb]
            conv => rhs; unfold Memory.byte
            rw [if_neg (by omega)]
        · by_cases hb : b = a
          · rw [if_pos hb, hb]; simp [Memory.byte]
          · rw [if_neg hb]
            conv => lhs; unfold Memory.byte
            conv => rhs; unfold Memory.byte
            rw [if_neg (fun e => hb e.symm), if_neg (by omega)]
      · rename_i ha hb'
        conv => lhs; unfold Memory.byte
        conv => rhs; rhs; unfold Memory.byte
        by_cases hb : b = a
        · rw [if_pos hb, if_neg (by omega), ih h2, if_pos hb]
        · rw [if_neg hb]
          by_cases hc : c.1 = b
          · rw [if_pos hc, if_pos hc]
          · rw [if_neg hc, if_neg hc, ih h2, if_neg hb]

/-- A byte outside what a write stores is as before. -/
theorem Memory.byte_write_of_not (m : Memory) (a n v b : Nat) (h : m.wf = true) (hb : b < a ∨ a + n ≤ b) :
    (m.write a n v).byte b = m.byte b := by
  induction n generalizing m a v with
  | zero => rfl
  | succ n ih =>
    unfold Memory.write
    rw [ih _ _ _ (Memory.set_wf m a _ h) (by omega), Memory.byte_set m a b _ h, if_neg (by omega)]

/-- A byte after a wipe of a range. -/
theorem Memory.byte_wipe (m : Memory) (a n b : Nat) (h : m.wf = true) :
    (m.wipe a n).byte b = if a ≤ b ∧ b < a + n then Memory.unlisted else m.byte b := by
  induction m with
  | nil => simp [Memory.wipe, Memory.byte]
  | cons c m ih =>
    obtain ⟨h0, h1, h2⟩ := (Memory.wf_cons c m).mp h
    by_cases hc : (decide (c.1 < a) || decide (a + n ≤ c.1)) = true
    · have e : Memory.wipe (c :: m) a n = c :: Memory.wipe m a n := List.filter_cons_of_pos hc
      rw [e]
      unfold Memory.byte
      simp only [Bool.or_eq_true, decide_eq_true_eq] at hc
      by_cases hb : c.1 = b
      · rw [if_pos hb, if_pos hb, if_neg (by omega)]
      · rw [if_neg hb, if_neg hb, ih h2]
    · have e : Memory.wipe (c :: m) a n = Memory.wipe m a n := List.filter_cons_of_neg hc
      rw [e, ih h2]
      simp only [Bool.or_eq_true, decide_eq_true_eq, not_or, Nat.not_lt, Nat.not_le] at hc
      by_cases hb : c.1 = b
      · rw [if_pos (by omega), if_pos (by omega)]
      · conv => rhs; unfold Memory.byte
        rw [if_neg hb]

end Sys2Proof.Machine
end

