-- ==== Sys2Proof/Laws/Outcome.lean ====
section
/-!
SUPPORT. What the shared ways of ending answer, said once: taking a trap, the end of an effect, the issue of an
instruction, and an event.
-/

namespace Sys2Proof.Machine

open Sys2Proof

/-- Taking a trap answers a next state: the trap entered, or the context held while every slot of the queue is (R309). -/
theorem trapOut_next (s : State) (t : Trap) :
    s.trapOut t = .next ((s.takeTrap s.cur s.curCtx t).getD s.held) := by
  unfold State.trapOut
  cases s.takeTrap s.cur s.curCtx t <;> rfl

/-- The end of each kind of effect. -/
theorem out_done (h : Hdr) (s t : State) : (Res.done t).out h s = .next (t.goOn h) := rfl
theorem out_goto (h : Hdr) (s t : State) (pc : Nat) : (Res.goto t pc).out h s = .next (t.land.advance h pc) := rfl
theorem out_more (h : Hdr) (s t : State) : (Res.more t).out h s = .next t := rfl
theorem out_trap (h : Hdr) (s t : State) (r : Trap) : (Res.trap t r).out h s = t.trapOut r := rfl
theorem out_hold (h : Hdr) (s : State) : Res.hold.out h s = .next s.held := rfl
theorem out_wait (h : Hdr) (s t : State) : (Res.wait t).out h s = .next (t.begun h) := rfl
theorem out_stop (h : Hdr) (s : State) (f : Fault) : (Res.stop f).out h s = .fault f := rfl

/-- An effect ends in a next state, or in a fault where an address does not exist; it is never refused. -/
theorem out_not_refused (h : Hdr) (s : State) (r : Res) (e : Refusal) : r.out h s ≠ .refused e := by
  cases r <;> simp [Res.out, trapOut_next]

/-- An effect that does not stop ends in a next state. -/
theorem out_next (h : Hdr) (s : State) (r : Res) (hr : ∀ f, r ≠ .stop f) : ∃ t, r.out h s = .next t := by
  cases r with
  | stop f => exact absurd rfl (hr f)
  | trap t r => exact ⟨_, trapOut_next t r⟩
  | done t => exact ⟨_, rfl⟩
  | goto t pc => exact ⟨_, rfl⟩
  | hold => exact ⟨_, rfl⟩
  | more t => exact ⟨_, rfl⟩
  | wait t => exact ⟨_, rfl⟩

/-- An issue is never refused. -/
theorem issue_not_refused (h : Hdr) (n : State → Need) (body : State → Res) (s : State) (e : Refusal) :
    issue h n body s ≠ .refused e := by
  unfold issue
  split
  · simp
  · repeat' split
    all_goals exact out_not_refused _ _ _ _

/-- An event that applies has its effect, and one that does not has none. -/
theorem event_next (s : State) (b : Bool) (t : State) : event s b t = .next (if b then t else s) := by
  cases b <;> rfl

end Sys2Proof.Machine
end

