-- ==== Sys2Proof/Laws/Regs.lean ====
section
/-!
SUPPORT. Laws of the registers: what a register reads as after each write, and that a write changes nothing else.
-/

namespace Sys2Proof.Machine

open Sys2Proof

/-- Writing a scalar register changes nothing else of the context. -/
theorem Ctx.ws_kept (k : Ctx) (a : SReg) (w : Word) : RegsKept [.s a.toNat] k (k.ws a w) ∧ (k.ws a w).beside = k.beside := by
  by_cases ha : a = 0
  · rw [show k.ws a w = k from if_pos ha]; exact ⟨⟨fun _ _ => rfl, fun _ _ => rfl, fun _ _ => rfl⟩, rfl⟩
  · rw [show k.ws a w = { k with s := k.s.set a.toNat w } from if_neg ha]
    refine ⟨⟨fun i hi => ?_, fun _ _ => rfl, fun _ _ => rfl⟩, rfl⟩
    have : a.toNat ≠ i.toNat := fun e => hi (by simp [e])
    simp [Ctx.rs, Vector.getElem_set_ne, this]

/-- Writing a vector register changes nothing else of the context. -/
theorem Ctx.wv_kept (k : Ctx) (a : VReg) (w : Vec) : RegsKept [.v a.toNat] k (k.wv a w) ∧ (k.wv a w).beside = k.beside := by
  refine ⟨⟨fun _ _ => rfl, fun i hi => ?_, fun _ _ => rfl⟩, rfl⟩
  have : a.toNat ≠ i.toNat := fun e => hi (by simp [e])
  simp [Ctx.rv, Ctx.wv, Vector.getElem_set_ne, this]

/-- Writing a predicate register changes nothing else of the context. -/
theorem Ctx.wp_kept (k : Ctx) (a : PReg) (w : Word) : RegsKept [.p a.toNat] k (k.wp a w) ∧ (k.wp a w).beside = k.beside := by
  by_cases ha : a = 7
  · rw [show k.wp a w = k from if_pos ha]; exact ⟨⟨fun _ _ => rfl, fun _ _ => rfl, fun _ _ => rfl⟩, rfl⟩
  · rw [show k.wp a w = { k with p := k.p.set a.toNat w } from if_neg ha]
    refine ⟨⟨fun _ _ => rfl, fun _ _ => rfl, fun i hi => ?_⟩, rfl⟩
    have : a.toNat ≠ i.toNat := fun e => hi (by simp [e])
    simp [Ctx.rp, Vector.getElem_set_ne, this]

/-- A context keeps itself. -/
theorem Ctx.kept_refl (k : Ctx) : RegsKept [] k k ∧ k.beside = k.beside := ⟨⟨fun _ _ => rfl, fun _ _ => rfl, fun _ _ => rfl⟩, rfl⟩

/-- A scalar register after a write: s0 stays zero (R56). -/
theorem Ctx.rs_ws (k : Ctx) (a b : SReg) (w : Word) : (k.ws a w).rs b = if b = 0 then 0 else if b = a then w else k.rs b := by
  by_cases ha : a = 0
  · rw [show k.ws a w = k from if_pos ha]
    by_cases hb : b = 0
    · simp [Ctx.rs, hb]
    · rw [if_neg hb, if_neg (fun e => hb (e.trans ha))]
  · rw [show k.ws a w = { k with s := k.s.set a.toNat w } from if_neg ha]
    by_cases hb : b = 0
    · simp [Ctx.rs, hb]
    · by_cases hab : b = a
      · subst hab; simp [Ctx.rs]
      · have : a.toNat ≠ b.toNat := fun e => hab (BitVec.eq_of_toNat_eq e.symm)
        rw [if_neg hb, if_neg hab]
        simp only [Ctx.rs, if_neg hb]
        simp [Vector.getElem_set_ne, this]

/-- A vector register after a write. -/
theorem Ctx.rv_wv (k : Ctx) (a b : VReg) (w : Vec) : (k.wv a w).rv b = if b = a then w else k.rv b := by
  by_cases hab : b = a
  · subst hab; simp [Ctx.rv, Ctx.wv]
  · have : a.toNat ≠ b.toNat := fun e => hab (BitVec.eq_of_toNat_eq e.symm)
    simp [Ctx.rv, Ctx.wv, hab, Vector.getElem_set_ne, this]

/-- A predicate register after a write: p7 stays all ones (R15). -/
theorem Ctx.rp_wp (k : Ctx) (a b : PReg) (w : Word) :
    (k.wp a w).rp b = if b = 7 then BitVec.allOnes 64 else if b = a then w else k.rp b := by
  by_cases ha : a = 7
  · rw [show k.wp a w = k from if_pos ha]
    by_cases hb : b = 7
    · simp [Ctx.rp, hb]
    · rw [if_neg hb, if_neg (fun e => hb (e.trans ha))]
  · rw [show k.wp a w = { k with p := k.p.set a.toNat w } from if_neg ha]
    by_cases hb : b = 7
    · simp [Ctx.rp, hb]
    · by_cases hab : b = a
      · subst hab; simp [Ctx.rp]
      · have : a.toNat ≠ b.toNat := fun e => hab (BitVec.eq_of_toNat_eq e.symm)
        rw [if_neg hb, if_neg hab]
        simp only [Ctx.rp, if_neg hb]
        simp [Vector.getElem_set_ne, this]

end Sys2Proof.Machine
end

