-- ==== Sys2Proof/Tests/Slice0.lean ====
section
/-!
SUPPORT. Tests: ill-formed terms that WellFormed refuses, words written out from the spec's formats, one instruction on
small states with results worked out from the spec's rules, and a witness for the hypotheses of each statement.
-/

namespace Sys2Proof.Tests

open Sys2Proof Sys2Proof.Machine

set_option Elab.async false

/-! ### Small states -/

/-- A header with no hint and guard p7, which reads all ones (R15). -/
def hd : Hdr := { neg := false, guard := 7, stall := 0, yield := false, phase := .any, reuse := false }

/-- The same header under a false guard. -/
def hdOff : Hdr := { hd with neg := true }

/-- Context 0 of core 0 live at 0x10000 on a `nop`; its page translates to device address 0x10000. -/
def s0 : State := State.reset.withFetchWord 96 0x200700000000000000000000

/-- The translation of that page. -/
def e0 : Tlb := (s0.core 0).l1.headD
  { asid := 0, vdev := 0, va := 0, size := 0, base := 0, ipa := 0, kind := 0, die := 0, peer := 0, user := false, r := false
    w := false, x := false, rights1 := 0, leaves := [], dirty := false }

/-- The issuing context changed. -/
def me (s : State) (f : Ctx → Ctx) : State := s.setMe (f s.me)

/-- A scalar register of the issuing context set. -/
def sreg (s : State) (i : SReg) (w : Word) : State := s.setMe (s.me.ws i w)

/-- A vector register of the issuing context set. -/
def vreg (s : State) (i : VReg) (n : Nat) : State := s.setMe (s.me.wv i (BitVec.ofNat 512 n))

/-- The issuing context at L1 and at L2. -/
def s1 : State := me s0 (fun k => { k with level := 1 })
def s2 : State := me s0 (fun k => { k with level := 2 })

/-- Bank 5 in slot 0 of core 0. -/
def sBank : State :=
  let t := s0.setHitch 5 { Hitch.reset with st := .hitched }
  t.setCore 0 { t.core 0 with slots := [(0, 5)] }

/-- A launch of queue 0 on cores 0 and 1. -/
def launch0 : Launch :=
  { queue := 0, seq := 0, bytes := 0, chain := 0, cores := [0, 1], team := 2, ended := [], begun := true, preload := 2, xlat := 0, args := 0
    parked := [], phase := 1, t0 := 0, start := 0, noRoll := false, replayed := false, rbPending := false, lastArr := 0, status := 0 }

/-- Core 0 running rank 0 of that launch, in the exchange step. -/
def sUnit : State :=
  { (me s0 (fun k => { k with inUnit := true })).setMycore { s0.mycore with
      ctxs := (me s0 (fun k => { k with inUnit := true })).mycore.ctxs, unit := some (0, 0), team := 2 } with launches := [launch0] }

/-- A field of the next state. -/
def after {α : Type} (o : Out) (f : State → α) : Option α := match o with | .next t => some (f t) | _ => none

/-- Whether a computation succeeds with a value of which something holds. -/
def okIs {ε α : Type} (r : Except ε α) (f : α → Bool) : Bool := match r with | .ok a => f a | .error _ => false

/-! ### Ill-formed terms, one for each check of WellFormed -/

theorem test_wf_types :
    (Instr.add hd { ty := .f32, sat := false, a := 1, b := 2, c := .imm 0 }).wf = false ∧
    (Instr.li hd { ty := .i32, a := 1, imm := 0 }).wf = false ∧
    (Instr.mov hd { ty := .f32, a := 1, b := .s 2 }).wf = false ∧
    (Instr.cmpLt hd { ty := .bf16, p := 1, b := 2, c := .s 3 }).wf = false ∧
    (Instr.fadd hd { ty := .bf16, rnd := .rn, sat := false, a := 1, b := 2, bneg := false, c := 3, cneg := false }).wf = false ∧
    (Instr.fcmpUn hd { ty := .i32, p := 1, b := 2, c := 3 }).wf = false ∧
    (Instr.fcvt hd { dty := .e2m1, sty := .f32, rnd := .rn, sat := false, a := 1, b := 2 }).wf = false ∧
    (Instr.vadd hd { ty := .f64, rnd := .rn, sat := false, a := 1, b := 2, bneg := false, c := .v 3, cneg := false }).wf = false ∧
    (Instr.vcmpUn hd { ty := .i32, p := 1, b := 2, c := .v 3 }).wf = false ∧
    (Instr.vld hd { ty := .f64, v := 1, base := 2, disp := 0 }).wf = false ∧
    (Instr.ld hd { ty := .e2m1, r := 1, base := 2, disp := 0 }).wf = false ∧
    (Instr.atmAdd hd { ty := .i8, rnd := .rn, a := 1, sc := none, base := 2, disp := 0, c := 3 }).wf = false ∧
    (Instr.atmFadd hd { ty := .i32, rnd := .rn, a := 1, sc := none, base := 2, disp := 0, c := 3 }).wf = false ∧
    (Instr.mmac hd { ty := .f32, a := 1 }).wf = false ∧
    (Instr.mepi hd { ty := .n64, rnd := .rn, sat := false, a := 0, base := 1, disp := 0 }).wf = false := by decide

theorem test_wf_modifiers :
    (Instr.mulh hd { ty := .i32, sat := true, a := 1, b := 2, c := .imm 0 }).wf = false ∧
    (Instr.fmin hd { ty := .f32, rnd := .rz, sat := false, a := 1, b := 2, bneg := false, c := 3, cneg := false }).wf = false ∧
    (Instr.vadd hd { ty := .i32, rnd := .ru, sat := false, a := 1, b := 2, bneg := false, c := .v 3, cneg := false }).wf = false ∧
    (Instr.vadd hd { ty := .i32, rnd := .rn, sat := false, a := 1, b := 2, bneg := true, c := .v 3, cneg := false }).wf = false ∧
    (Instr.vmul hd { ty := .f32, rnd := .rn, sat := false, a := 1, b := 2, bneg := false, c := .imm 3, cneg := true }).wf = false ∧
    (Instr.vand hd { ty := .n32, rnd := .rn, sat := true, a := 1, b := 2, bneg := false, c := .v 3, cneg := false }).wf = false ∧
    (Instr.atmAdd hd { ty := .i32, rnd := .ru, a := 1, sc := none, base := 2, disp := 0, c := 3 }).wf = false := by decide

/-- Odd registers of pairs, a count of no segments, a channel of another engine, equal paths, a number of no register. -/
theorem test_wf_operands :
    (Instr.vcvt hd { dty := .e2m1, sty := .f32, rnd := .rn, sat := false, a := 1, b := 3 }).wf = false ∧
    (Instr.wadd hd { ty := .i32, dst := ⟨1, 64, 0⟩, src := ⟨2, 64, 0⟩, n := 0, c := .imm 1, rnd := .rn, sat := false }).wf = false ∧
    (Instr.wcvt hd { dty := .i8, sty := .i64, dst := ⟨1, 64, 0⟩, src := ⟨2, 64, 0⟩, n := 1, rnd := .rn, sat := false }).wf = false ∧
    (Instr.exp2 hd { ty := .f64, rnd := .rn, sat := false, r := .v 1 2, bneg := false }).wf = false ∧
    (Instr.mscale hd { a := 0, b := 1, c := 5 }).wf = false ∧ (Instr.dmom hd { a := 3, b := 0 }).wf = false ∧
    (Instr.atmCas hd { ty := .i32, rnd := .rn, a := 1, sc := none, base := 2, disp := 0, c := 3 }).wf = false ∧
    (Instr.fencep hd { src := .ls, dst := .ls }).wf = false ∧
    (Instr.cpgo hd { q := 5, b := 4, ch := 4, id := 0 }).wf = false ∧ (Instr.swgo hd { q := 5, b := 4, ch := 8, id := 0 }).wf = false ∧
    (Instr.gath hd { q := 5, b := 4, ch := 1, id := 0 }).wf = false := by decide

theorem test_wf_events :
    (Instr.matrixCommandExecute 1536).wf = false ∧ (Instr.epilogueRowFault 0 24).wf = false ∧ (Instr.trapEntry 0 16).wf = false ∧
    (Instr.batchClose 4).wf = false ∧ (Instr.bankReturn 12288).wf = false ∧ (Instr.recordRead 8192).wf = false ∧
    (Instr.launchArbitration 256).wf = false ∧ (Instr.vfctlWrite 44 0).wf = false ∧ (Instr.linkDown 8).wf = false ∧
    (Instr.ringcfgWrite 192 0 0).wf = false ∧ (Instr.ringcfgWrite 0 32 0).wf = false ∧ (Instr.doorbell 64 0 0).wf = false := by decide

/-! ### Decoding: the words that the spec writes out, each format's fields worked by R18, R22, R26 and R27 (the tables at the
end of R29, R48, R81, R107, R115, R155, R203, R259, R302 and of the program chapters) -/

/-- Guard p1; the exchange and the compute class. -/
def hd1 : Hdr := { hd with guard := 1 }
def hdX : Hdr := { hd with phase := .exchange }
def hdC : Hdr := { hd with phase := .compute }

/-- `p1? add.i64 s7, s7, 1`; `sel s15, p1, s14, 0` -/
theorem test_decode_scalar :
    decode 0x000100273000273000E00001#96 = some (.add hd1 { ty := .i64, sat := false, a := 7, b := 7, c := .imm 1 }) ∧
    decode 0x00E7002F70012E7000E00000#96 = some (.sel hd { ty := .n64, a := 15, neg := false, p := 1, b := 14, c := .imm 0 }) := by decide +kernel

/-- `p1? fcmp.le.f32 p1, s13, s9` -/
theorem test_decode_float :
    decode 0x11310061D0002DD00029D000#96 = some (.fcmpLe hd1 { ty := .f32, p := 1, b := 13, c := 9 }) := by decide +kernel

/-- `br next`; `loop s9, kloop`; `p1? br spin` -/
theorem test_decode_control :
    decode 0x201700000000000000FFFFF4#96 = some (.br hd 0xFFFFF4) ∧
    decode 0x207700290000000000FFFFEB#96 = some (.loop hd { a := 9, off := 0xFFFFEB }) ∧
    decode 0x201100000000000000FFFFFA#96 = some (.br hd1 0xFFFFFA) := by decide +kernel

/-- `vfma.f32.rn v1, v2, s4`; `vcvt.bf16.e2m1.rn v1, v6`; `p2? vfma.bf16.rn v1, v2, s8` -/
theorem test_decode_vector :
    decode 0x30370041D00042D00024D000#96 = some (.vfma hd { ty := .f32, rnd := .rn, sat := false, a := 1, b := 2, bneg := false, c := .s 4, cneg := false }) ∧
    decode 0x30A70241B000468000000000#96 = some (.vcvt hdC { dty := .bf16, sty := .e2m1, rnd := .rn, sat := false, a := 1, b := 6 }) ∧
    decode 0x30320241B00042B00028B000#96 = some (.vfma { hdC with guard := 2 } { ty := .bf16, rnd := .rn, sat := false, a := 1, b := 2, bneg := false, c := .s 8, cneg := false }) := by decide +kernel

/-- `wmul.i16.sat [s5 + 0 : 64], [s5 + 0 : 64], s6, n=8`; `wmul.i16.sat [s5 + 0 : 64], [s5 + 0 : 64], 3, n=1`; `wclamp.i16 [s5 + 0 : 64], [s5 + 0 : 64], v2, n=1` -/
theorem test_decode_sweep :
    decode 0x4217002A00002A0000008262#96 = some (.wmul hd { ty := .i16, dst := ⟨5, 64, 0⟩, src := ⟨5, 64, 0⟩, n := 8, c := .s 6, rnd := .rn, sat := true }) ∧
    decode 0x4217002A00002A0000001E32#96 = some (.wmul hd { ty := .i16, dst := ⟨5, 64, 0⟩, src := ⟨5, 64, 0⟩, n := 1, c := .imm 3, rnd := .rn, sat := true }) ∧
    decode 0x4717002A00002A0000001420#96 = some (.wclamp hd { ty := .i16, dst := ⟨5, 64, 0⟩, src := ⟨5, 64, 0⟩, n := 1, c := 2 }) := by decide +kernel

/-- `mld.a [s10], s12`; `mmac.e2m1 a1`; `mepi.bf16.rn [s15], a0`; `mscale a0, a1, v4, v5`; `mmac.e4m3 a0`; `mepi.f32 [s8], a0` -/
theorem test_decode_matrix :
    decode 0x6007000A00002C0000000000#96 = some (.mldA hd { base := 10, disp := 0, sh := 12 }) ∧
    decode 0x603700818000000000000000#96 = some (.mmac hd { ty := .e2m1, a := 1 }) ∧
    decode 0x60670080B0000FB000000000#96 = some (.mepi hd { ty := .bf16, rnd := .rn, sat := false, a := 0, base := 15, disp := 0 }) ∧
    decode 0x605702800000810000440000#96 = some (.mscale hdC { a := 0, b := 1, c := 4 }) ∧
    decode 0x603700809000000000000000#96 = some (.mmac hd { ty := .e4m3, a := 0 }) ∧
    decode 0x60670080D00008D000000000#96 = some (.mepi hd { ty := .f32, rnd := .rn, sat := false, a := 0, base := 8, disp := 0 }) := by decide +kernel

/-- `dadd d2, d0, d1`; `dqnt v4, d1, s6`; `dld d0, [s5]`; `dld d1, [s4 + 512]`; `dtag d3, 1`; `dmax d4, d2, d3`; `dmom v4, d4` -/
theorem test_decode_distribution :
    decode 0x703700A20000A00000A10000#96 = some (.dadd hd { a := 2, b := 0, c := 1 }) ∧
    decode 0x70B700440000A10000260000#96 = some (.dqnt hd { a := 4, b := 1, c := 6 }) ∧
    decode 0x700700A00000050000000000#96 = some (.dld hd { d := 0, base := 5, disp := 0 }) ∧
    decode 0x700700A10000040200000000#96 = some (.dld hd { d := 1, base := 4, disp := 512 }) ∧
    decode 0x709700A30000E00001000000#96 = some (.dtag hd { a := 3, b := .imm 1 }) ∧
    decode 0x706700A40000A20000A30000#96 = some (.dmax hd { a := 4, b := 2, c := 3 }) ∧
    decode 0x70A700440000A40000000000#96 = some (.dmom hd { a := 4, b := 4 }) := by decide +kernel

/-- `ld.n64 s4, [s1 + 8]`; `st.rel.die.n32 [s9 + 4], s10`; `st.i16 [s6 + 0], s8` -/
theorem test_decode_memory :
    decode 0x800700247000017001000000#96 = some (.ld hd { ty := .n64, r := 4, base := 1, disp := 1 }) ∧
    decode 0x8037008960012A6000000000#96 = some (.stRel hd { ty := .n32, r := 10, sc := .die, base := 9, disp := 1 }) ∧
    decode 0x802700061000281000000000#96 = some (.st hd { ty := .i16, r := 8, base := 6, disp := 0 }) := by decide +kernel

/-- `atm.incb.n64 s8, [s5 + 0], s9`; `atm.incb.n64 s24, [s23 + 192], s19` -/
theorem test_decode_atomic :
    decode 0x909700287000057000297000#96 = some (.atmIncb hd { ty := .n64, rnd := .rn, a := 8, sc := none, base := 5, disp := 0, c := 9 }) ∧
    decode 0x909704387000177018337000#96 = some (.atmIncb hdX { ty := .n64, rnd := .rn, a := 24, sc := none, base := 23, disp := 24, c := 19 }) := by decide +kernel

/-- `fiss s6`; `fwait s6`; `fence.pkg`; `fencep.ls.cp`; `txdecl s4, w`; `txdecl s5, r`; `txsub s10`; `txend s10` -/
theorem test_decode_fence :
    decode 0xA09700260000000000000000#96 = some (.fiss hd 6) ∧
    decode 0xA0A700000000260000000000#96 = some (.fwait hd 6) ∧
    decode 0xA05700000000000000000000#96 = some (.fencePkg hd) ∧
    decode 0xA08700000000000000000002#96 = some (.fencep hd { src := .ls, dst := .cp }) ∧
    decode 0xA11700000000240000000000#96 = some (.txdeclW hd 4) ∧
    decode 0xA10700000000250000000000#96 = some (.txdeclR hd 5) ∧
    decode 0xA127002A0000000000000000#96 = some (.txsub hd 10) ∧
    decode 0xA147000000002A0000000000#96 = some (.txend hd 10) := by decide +kernel

/-- `bhand 2, s7`; `bhand 0, s7`; `bwait 0` -/
theorem test_decode_bank :
    decode 0xB00700000000E00002270000#96 = some (.bhand hd { slot := 2, c := 7 }) ∧
    decode 0xB00700000000E00000270000#96 = some (.bhand hd { slot := 0, c := 7 }) ∧
    decode 0xB01700000000E00000000000#96 = some (.bwait hd 0) := by decide +kernel

/-- `cpgo q5, s4, 0x0011`; `swgo q5, s4, 0x0101`; `qpop s9, q5` -/
theorem test_decode_engine :
    decode 0xC00700C50000240000000011#96 = some (.cpgo hd { q := 5, b := 4, ch := 0, id := 0x11 }) ∧
    decode 0xC02700C50000240000000101#96 = some (.swgo hd { q := 5, b := 4, ch := 0, id := 0x101 }) ∧
    decode 0xC06700290000C50000000000#96 = some (.qpop hd { a := .s 9, q := 5 }) := by decide +kernel

/-- `hstart s20, work, s21`; `launch s5, s6`; `cancel.launch s4`; `bar`; `xsend s9, v3, cyc=12`; `rpop p1, v4`; `p1? xsend s26, v6, cyc=16`; `hstart s21, role, s20`; `prog s9` -/
theorem test_decode_context :
    decode 0xD00700340000350000000006#96 = some (.hstart hd { a := 20, b := 21, off := 6 }) ∧
    decode 0xD03700250000260000000000#96 = some (.launch hd { a := 5, b := 6 }) ∧
    decode 0xD05700000000240000000000#96 = some (.cancelLaunch hd 4) ∧
    decode 0xD09700000000000000000000#96 = some (.bar hd) ∧
    decode 0xD0A704290000430000E0000C#96 = some (.xsend hdX { a := 9, b := 3, cyc := 12 }) ∧
    decode 0xD0D700610000440000000000#96 = some (.rpop hd { p := 1, b := .v 4 }) ∧
    decode 0xD0A1043A0000460000E00010#96 = some (.xsend { hdX with guard := 1 } { a := 26, b := 6, cyc := 16 }) ∧
    decode 0xD00700350000340000000003#96 = some (.hstart hd { a := 21, b := 20, off := 3 }) ∧
    decode 0xD0F700000000290000000000#96 = some (.prog hd (.s 9)) := by decide +kernel

/-- `ovtld s4`; `sysr s4, sr.coord`; `sysw sr.cctl, s5`; `tlbinv s6, s7`; `hcall 1`; `sysr s9, sr.time`; `sysr s20, sr.uirqxfer` -/
theorem test_decode_system :
    decode 0xE02700000000240000000000#96 = some (.ovtld hd 4) ∧
    decode 0xE00700000000240000000000#96 = some (.sysr hd { num := 0, b := 4 }) ∧
    decode 0xE01700001000250000000000#96 = some (.sysw hd { num := 1, b := 5 }) ∧
    decode 0xE05700000000260000270000#96 = some (.tlbinv hd { b := 6, c := 7 }) ∧
    decode 0xE07700000000000000000001#96 = some (.hcall hd 1) ∧
    decode 0xE00700002000290000000000#96 = some (.sysr hd { num := 2, b := 9 }) ∧
    decode 0xE00700009000340000000000#96 = some (.sysr hd { num := 9, b := 20 }) := by decide +kernel
/-- `exp2.f32 s1, s2`: class 0x5, operation 0, guard 7, A 0x21_D000, B 0x22_D000 (R18, R22, R29). -/
theorem test_decode_special : decode 0x50070021D00022D000000000#96 =
    some (.exp2 hd { ty := .f32, rnd := .rn, sat := false, r := .s 1 2, bneg := false }) := by decide

/-- Words that name no instruction: an unassigned operation, element type 15, a nonzero reserved bit, phase class 11 (R20, R22
to R24). -/
theorem test_decode_refuses :
    decode 0x01D700000000000000000000#96 = none ∧
    decode 0x00070021F00022F00023F000#96 = none ∧ decode 0x200700000000000000000001#96 = none ∧
    decode 0x200706000000000000000000#96 = none := by decide

/-! ### Witnesses: reset, the step, the encoding, the order of checks -/

/-- The `nop` fetched: no instruction under way, no register awaited or holding an error. -/
theorem wit_StepRunsDecoded :
    s0.agenda = [] ∧ chooseAction s0.nonce s0.actions = some (.cycle 0) ∧
    (let u := (s0.setCore 0 { s0.core 0 with cc := (s0.core 0).cc + 1 }).returnDue 0
     0 = ((u.core 0).last + 1 + 0) % 16 ∧ u.canTry 0 0 = true ∧ (u.ctx 0 0).yieldNow = false) ∧
    (s0.issuing 0 0).me.mid = none ∧ okIs (s0.issuing 0 0).fetch (fun p => p.1 = 0x200700000000000000000000#96 &&
      !p.2.interlocked 0 0 (.nop hd) && p.2.poisoned (.nop hd) = none &&
      after (exec (.nop hd) p.2) (fun t => ((p.2.keep (.nop hd) (p.2.unpoison (.nop hd) (p.2.counted (.nop hd) t))).ctx 0 0).wait)
        = some .none) = true ∧
    decode 0x200700000000000000000000#96 = some (.nop hd) := by
  refine ⟨by decide, by rfl, by decide, by decide, by decide, by decide⟩

/-- Core 0's context 0 with a `nop` under way. -/
def sMid : State := s0.setCtx 0 0 { s0.ctx 0 0 with mid := some { cmd := some (.nop hd), done := 0, stamp := 0, got := 0 } }

theorem wit_StepGoesOn :
    sMid.agenda = [] ∧ chooseAction sMid.nonce sMid.actions = some (.cycle 0) ∧
    ((sMid.setCore 0 { sMid.core 0 with cc := (sMid.core 0).cc + 1 }).returnDue 0).canTry 0 0 = true ∧
    (let v := sMid.issuing 0 0
     v.me.mid.bind (fun m => m.cmd) = some (.nop hd) ∧ after (exec (.nop hd) v)
      (fun t => ((v.keep (.nop hd) (v.unpoison (.nop hd) (v.counted (.nop hd) t))).ctx 0 0).wait) = some .none) := by
  refine ⟨by decide, by rfl, by decide, by decide⟩

theorem wit_ChecksAtIssue :
    (s0.withFetchWord 96 0).me.mid = none ∧ okIs (s0.withFetchWord 96 0).fetch (fun p => p.1 = 0) = true ∧ decode 0 = none ∧
    guardTrue s0.me hd = true ∧ s0.me.level < (Instr.need (.tlbsync hd)).level ∧
    ((Instr.need (.add hd { ty := .i8, sat := false, a := 1, b := 1, c := .imm 0 })).level ≤ sUnit.me.level ∧ sUnit.phase = 1) ∧
    (let h : State := { s0 with curCtx := 1 }
     guardTrue h.me hd = true ∧ (Instr.need (.reos hd)).helper = false ∧ h.curCtx ≠ 0 ∧ phaseOk h .any = true) ∧
    (Instr.need (.hend hd)).control = false ∧ s0.curCtx = 0 ∧ (Instr.need (.bar hd)).unit = true ∧ s0.mycore.unit = none ∧
    sUnit.mycore.unit.isSome = true ∧ ({ sUnit with launches := [{ launch0 with phase := 2 }] } : State).phase = 2 := by
  refine ⟨by rfl, by decide, by decide, by decide, by decide, by decide, by decide, by decide, by decide, by decide, by decide, by decide⟩

theorem wit_Encoding :
    (Instr.ld hd { ty := .i16, r := 31, base := 31, disp := 0xFFF }).wf = true ∧ (Instr.uend hd).isEvent = false ∧
    Instr.isEvent .illegalWord = true ∧ (decode 0x200700000000000000000000#96).isSome = true := by decide

theorem wit_StepKeepsMemoryForm : s0.MemWf ∧ after (step s0) (fun t => t.nonce) = some 1 := by
  refine ⟨⟨by decide, by decide, by intro e he; cases he⟩, by decide⟩

theorem wit_MemoryReadsBack : Memory.wf [(0, 1), (5, 255)] = true ∧ 256 ^ 8 - 1 < 256 ^ 8 := by decide

theorem wit_FalseGuardOnlyHints : Instr.hdr? (.trapi hdOff 0) = some hdOff ∧ guardTrue s0.me hdOff = false := by decide

/-! ### Witnesses: scalar instructions -/

/-- What every statement about an instruction asks: it issues, here with its own need at its own level. -/
theorem wit_issues : s0.issues hd {} = true ∧ s1.issues hd { level := 1 } = true ∧ s2.issues hd { level := 2 } = true ∧
    s0.issues hd { helper := false } = true ∧ sUnit.issues hd { unit := true } = true ∧
    sUnit.issues hd { helper := false, unit := true, exchange := true } = true ∧
    ({ s0 with curCtx := 1 } : State).issues hd { control := false } = true := by decide

/-- A nonzero divisor and zero, both in i8; the least number by −1, the one quotient out of range. -/
theorem wit_IntegerDivision :
    (let s := sreg (sreg s0 2 0x80) 3 0xFF
     s.issues hd {} = true ∧ ETy.i8.isInt = true ∧ intOf .i8 (srcSI s.me .i8 (.s 3)) = -1 ∧ intOf .i8 (codeS s.me .i8 2) = -128) ∧
    (s0.issues hd {} = true ∧ intOf .i8 (srcSI s0.me .i8 (.imm 0)) = 0) := by decide

/-- Shift amounts of w − 1 and w. -/
theorem wit_BitwiseShiftsAndExtremes :
    s0.issues hd {} = true ∧ ETy.n16.isInt = true ∧ srcSI s0.me .n16 (.imm 15) = 15 ∧ srcSI s0.me .n16 (.imm 16) = 16 := by decide

/-- The tag 0x5000 names no space, 0x4FFF does; an offset moves to 2^48 − 1 and beyond. -/
theorem wit_PointerParts :
    s0.issues hd {} = true ∧ 5 ≤ (src64 s0.me (.imm 0x5000)).toNat / 2 ^ 12 ∧
    (let c := (src64 s0.me (.imm 0x4FFF)).toNat
     ¬ (2 ^ 16 ≤ c ∨ 5 ≤ c / 2 ^ 12 ∨ (c / 2 ^ 12 = 0 ∧ c ≠ 0) ∨ (c / 2 ^ 12 = 2 ∧ c % 2 = 1))) ∧
    (let s := sreg s0 2 0x0000FFFFFFFFFFFF
     let b := (s.me.rs 2).toNat
     (b % 2 ^ 48 : Nat) + (src64 s.me (.imm 0)).toInt = 2 ^ 48 - 1 ∧ (b % 2 ^ 48 : Nat) + (src64 s.me (.imm 1)).toInt = 2 ^ 48) := by decide

/-- 3/2·2^0 in f16, and the code of 1: each directed mode and the nearest one. -/
theorem wit_FloatRounding :
    ETy.f16.isFloat = true ∧ 0 < 3 ∧ 0 < 2 ∧ (RMode.rd = .rz ∨ (RMode.rd = .rd ∧ false = false) ∨ (RMode.rd = .ru ∧ false = true)) ∧
    ((RMode.rd = .rd ∧ true = true) ∨ (RMode.rd = .ru ∧ true = false)) ∧
    (1024 ≤ 2 ^ (ETy.f16.man + 1) ∧ 1 - (ETy.f16.bias : Int) - ETy.f16.man ≤ -10 ∧ 2 ^ ETy.f16.man ≤ 1024 ∧ overF .f16 1024 (-10) = false) := by
  decide

/-- Two NaNs, of which the first is chosen. -/
theorem wit_ScalarFloatResults : s0.issues hd {} = true ∧ chooseNaN .f16 [0x7E01, 0x7E02] = some 0x7E01 ∧
    ETy.i32.isInt = true ∧ ETy.f32.isFloat = true ∧ ETy.f16.isFloat = true ∧ isNaN .f32 0x7FC00000 = true := by decide

theorem wit_FloatCompares :
    s0.issues hd {} = true ∧ isNaN .f32 0x7FC00000 = true := by decide

/-- A target of 2^48, one off the grid, and one on it. -/
theorem wit_ControlFlow :
    (let s := sreg s0 2 0x1000000000000
     s.issues hd {} = true ∧ 2 ^ 48 ≤ (s.me.rs 2).toNat) ∧
    (let s := sreg s0 2 0xFFFFFFFFFFFE
     s.issues hd {} = true ∧ (s.me.rs 2).toNat < 2 ^ 48 ∧ (s.me.rs 2).toNat % 4 ≠ 0) ∧
    (let s := sreg s0 2 0xFFFFFFFFFFFC
     s.issues hd {} = true ∧ (s.me.rs 2).toNat < 2 ^ 48 ∧ (s.me.rs 2).toNat % 4 = 0) := by decide

theorem wit_RegisterOnlyFrame :
    (let i : Instr := .vshuf hd { ty := .i8, a := 1, b := 2, c := 3 }
     Instr.hdr? i = some hd ∧ registerOnly i = true ∧ s0.issues hd (Instr.need i) = true) := by decide

/-! ### Witnesses: vectors and sweeps -/

theorem wit_Vectors : s0.issues hd {} = true ∧ ETy.i8.isVec = true ∧ ETy.f32.isVec = true ∧ ETy.i8.isInt = true ∧ ETy.f32.isFloat = true ∧
    sfnTyOk .f32 (.s 1 2) = true ∧ sfnTyOk .bf16 (.v 1 2) = true ∧ isNaN .f32 (negIf .f32 false (codeS (sreg s0 2 0x7FC00000).me .f32 2)) = true := by
  decide

/-- Bank 5 under the window: segments 0 and 64 read, 128 and 192 written. -/
def sSweep : State := sreg (sreg sBank 2 0x1000000000000000) 3 0x1000000000000080

theorem wit_SweepsRun :
    sSweep.issues hd {} = true ∧ sSweep.me.unresolved = none ∧
    segOffs sSweep.me { base := 3, step := 64, disp := 0 } 2 = some [128, 192] ∧
    segOffs sSweep.me { base := 2, step := 64, disp := 0 } 2 = some [0, 64] ∧
    sweepFault sSweep [([128, 192], 64, 4), ([0, 64], 64, 4)] = none ∧ sweepBusy sSweep ([128, 192] ++ [0, 64]) = false ∧
    (∀ o ∈ [0, 64], okIs (sSweep.winByte sSweep.nonce o) (fun b => b = winAt sSweep o && !sSweep.bankBad b.1 b.2 64) = true) ∧
    (∀ o ∈ [128, 192], okIs (sSweep.winByte sSweep.nonce o) (fun b => b = winAt sSweep o && !sSweep.bankBad b.1 b.2 64) = true) ∧
    sweepFault sSweep [([0, 64], 64, 4)] = none ∧ sweepBusy sSweep [0, 64] = false := by decide

/-- The last 64 bytes of a slot. -/
theorem wit_BankWrites : 0 < 64 ∧ 64 ≤ 64 ∧ 65472 + 64 ≤ 65536 := by decide

/-! ### Witnesses: the matrix unit and the distribution registers -/

/-- A panel of one i8 line of six elements. -/
def panel6 : Panel := { fmt := .i8, k := 6, lines := [0x010203040506], hdrs := [], ptr := 0, shape := 0 }

/-- Name 0 on physical tile 0, unset, and current buffers of one K-step. -/
def sMat : State :=
  s0.setCore 0 { s0.core 0 with
    tiles := (s0.core 0).tiles.set 0 { valid := true, dirty := false, phys := 0, ty := 0 }
    phys := [(0, { elems := List.replicate 1024 0, kidx := 0 })], bufs := #v[none, some panel6, none, some panel6] }

/-- A faulted epilogue of tile 0 with its trap not yet given. -/
def epi0 : Epi :=
  { ctx := 0, born := 0, dst := 0x10000, row := 3, ty := .i32, tileTy := 2, mode := .rn, sat := false, ovt := 0, pc := 0x10000, xlat := 0
    level := 0, faulted := true, trapped := none }

/-- A trap of the replayable class and one of the fatal class, both asynchronous. -/
def trap (c : Nat) : Trap := { cause := c, detail := 0, resume := 0, fpc := 0, va := 0, ipa := 0, jrn := none, async := true }

theorem wit_MatrixCommandsQueue :
    sMat.issues hd {} = true ∧ sMat.me.unresolved = none ∧ sMat.mycore.mqFull = false ∧ sMat.mycore.freeTile = some 1 ∧
    mmacCheck sMat.mycore .i8 0 = some ({ valid := true, dirty := false, phys := 0, ty := 0 }, 6, 1, 6) ∧
    (let t := sMat.setMycore { sMat.mycore with tiles := sMat.mycore.tiles.set 1 { valid := true, dirty := true, phys := 1, ty := 1 } }
     t.mycore.tiles[0].valid = true ∧ t.mycore.tiles[1].valid = true ∧ t.mycore.tiles[1].ty = 1 ∧ t.mycore.tiles[0].ty = 0) ∧
    (let t := sreg sMat 2 0x1000
     storeOk 0 .f32 = true ∧ displace (t.me.rs 2).toNat (dispBytes .f32 0) = some 0x1000 ∧ [0, 1, 2].contains (bits 0x1000 63 60) = true ∧
     (t.resolve t.cur 0x1000).isSome = true) := by decide

/-- A shape record at 0x10100: i8, K 4, one line. -/
def sShape : State :=
  sreg (sreg { s0 with mem := s0.mem.write 0x10100 32 (0x100040400 + 64 * 256 ^ 14) } 2 0x10200) 3 0x10100

theorem wit_MatrixWaits :
    sMat.mycore.inFlight 0 = false ∧
    (((sreg sMat 2 0x80000017).me.rs 2).toNat = 2 ^ 31 + 23 ∧ ((sreg sMat 2 0).me.rs 2).toNat = 0 + 0 ∧ 24 ≤ ((sreg sMat 2 24).me.rs 2).toNat % 32) ∧
    okIs (sBank.mswzAt 0 0x1000000000000000) (fun r => r == (5, 0)) = true ∧
    (let b : Panel := { panel6 with k := 12, lines := [0] }
     let t := sreg (sMat.setMycore { sMat.mycore with bufs := #v[none, some panel6, none, some b] }) 2 0x10200
     mmacCheck t.mycore .i8 0 = some ({ valid := true, dirty := false, phys := 0, ty := 0 }, 6, 1, 12) ∧
     (let u : State := { t with mem := t.mem.write 0x10200 3 0x543210 }
      let v := u.dropWalks u.cur u.curCtx
      okIs (v.bulkRead v.self 0x10200 3) (fun r => r.1 == 0x543210 && metaOk r.1) = true)) := by decide +kernel

/-- The pages under a panel and its record are translated. -/
theorem wit_PanelLoad :
    sShape.issues hd {} = true ∧ sShape.me.unresolved = none ∧ sShape.mycore.mqFull = false ∧
    displace (sShape.me.rs 2).toNat 0 = some 0x10200 ∧ (sShape.resolve sShape.cur 0x10200).isSome = true ∧
    HoldsPages sShape [((sShape.me.rs 3).toNat, 32)] ∧
    (let u := sShape.dropWalks sShape.cur sShape.curCtx
     okIs (u.readShape u.self (sShape.me.rs 3).toNat) (fun r =>
      decide (r.2.mycore = sShape.mycore) && decide (r.2.me = sShape.me) && decide (r.2.banks = sShape.banks)
        && (match shapeOf r.1 with
          | some g =>
            let v := r.2.dropWalks r.2.cur r.2.curCtx
            g.k == 4 && okIs (v.panelAt v.self g 0x10200) (fun _ => true)
              && ((g.runs 0x10200).getD []).all (fun r => bits r.1 63 48 == 0 && (pagesOf (bits r.1 47 0) r.2 (r.2 / 65536 + 2)).all
                (fun q => (v.lookup v.cur (xlatAsid v.me.xlat.toNat) q.1).isSome))
          | none => false)) = true) := by
  unfold HoldsPages; decide +kernel

/-- A command at the head of the queue. -/
def cmd (op : MOp) : MCmd := { id := 7, ctx := 0, born := 0, pc := 0x10000, word := 0, ops := 0, op := op }

/-- That command queued on core 0. -/
def sCmd (op : MOp) : State := sMat.setMycore { sMat.mycore with mq := [cmd op] }

/-- The unit of core 0 runs its head command now. -/
def runsNow (t : State) (op : MOp) : Bool :=
  t.matrixReady 0 && (t.unwalked (t.matrixRuns 0 (cmd op)).1 (t.matrixRuns 0 (cmd op)).2).isEmpty

theorem wit_MatrixUnit :
    ((sCmd (.mmac 0 .i8 1 3 none 0)).core 0).mq = [cmd (.mmac 0 .i8 1 3 none 0)] ∧
    runsNow (sCmd (.mmac 0 .i8 1 3 none 0)) (.mmac 0 .i8 1 3 none 0) = true ∧
    (sMat.core 0).bufs.toList.getD 1 none = some panel6 ∧ 0 < cdiv panel6.k (groupSize .i8) ∧
    runsNow (sCmd (.mzero 0 Tile.reset 0)) (.mzero 0 Tile.reset 0) = true ∧
    runsNow (sCmd (.mscale 0 1 [] [])) (.mscale 0 1 [] []) = true ∧
    (let w := 0x100040400 + 64 * 256 ^ 14
     let op : MOp := .mld true 1 0x10200 0x10100 w 0 0
     let t := sCmd op
     let t := me { t with mem := t.mem.write 0x10100 32 w } (fun k => { k with wait := .matrix 7 })
     let u := t.endWalks (t.matrixRuns 0 (cmd op)).1
     runsNow t op = true ∧ (t.ctx 0 0).wait = .matrix 7 ∧
     (shapeOf w).any (fun g => okIs (u.readPanel { stamp := 7, core := 0, part := t.partOf 0, vdev := t.vdevOf 0, xlat := 0, level := 0, path := .mx }
       g 0x10200 0x10100) (fun _ => true)) = true) ∧
    (let t := sCmd (.mrepl 0 true)
     let t := me (t.setMycore { t.mycore with epis := [(0, epi0)] }) (fun k => { k with wait := .matrix 7 })
     runsNow t (.mrepl 0 true) = true ∧ (t.core 0).epis.filter (fun f => f.1 % 32 == 0) = [(0, epi0)] ∧ (t.ctx 0 0).wait = .matrix 7) ∧
    (let op : MOp := .mswz 5 0 2
     let t := me (sBank.setMycore { sBank.mycore with mq := [cmd op] }) (fun k => { k with wait := .matrix 7 })
     runsNow t op = true ∧ okIs (t.bankFor 0 0 (bits (0 % 2 ^ 64) 20 16) 7) (· == 5) = true ∧ 7 ∉ t.torn ∧ t.tag 5 0 ≠ 15 ∧
     t.bankBad 5 0 4096 = false) ∧
    (runsNow (sCmd (.mstat 4 Tile.reset)) (.mstat 4 Tile.reset) = true ∧
     ((sCmd (.mstat 4 Tile.reset)).ctx 0 0).born = (cmd (.mstat 4 Tile.reset)).born) ∧
    2 ^ 32 - 1 < 2 ^ 32 ∧ (∀ p ∈ [((-128 : Int), (128 : Int))], |p.1| ≤ 128 ∧ |p.2| ≤ 128) := by
  decide +kernel

/-- An epilogue of tile 0 into slot 0: its last row next. -/
def epiL : Epi := { epi0 with dst := 0x100000000000E000, row := 31, ty := .i8, faulted := false }

/-- That epilogue's row on its way elsewhere, in group 4. -/
def epiS : Epi := { epiL with row := 30, sent := some 4 }

/-- Slot 0 of core 0 with bank 5 and the unit with a command at its head. -/
def sRow (op : MOp) (es : List (Nat × Epi)) (w : Wait) : State :=
  let t := sBank.setCore 0 { sBank.core 0 with phys := [(0, { elems := List.replicate 1024 0, kidx := 0 })], mq := [cmd op], epis := es }
  me t (fun k => { k with wait := w })

/-- A row's access of group 4, refused at its home. -/
def rowNet : Access :=
  { id := 3, core := 0, ctx := 0, born := 0, path := .mx, kind := .store, dest := .slot 192 0 0, size := 32, data := 0, jrn := none
    pc := 0, va := 0, crossDie := true, performed := false, value := 0, refused := some 9, release := false, part := 0, asid := 0, since := 0
    group := 4, at_ := 0, got := 0, bridged := none, told := false }

theorem wit_EpilogueRows :
    (let rowAt : State → Epi → Bool := fun t e => decide (e.dst / 2 ^ 48 = 0x1000 ∧ e.dst % 2 ^ 48 < 0x200000 ∧ e.dst % 64 = 0 ∧
       e.dst % 65536 + 1024 * e.ty.size ≤ 65536 ∧ e.row < 32 ∧ storeOk e.tileTy e.ty = true ∧ 7 ∉ t.torn) &&
       okIs (t.bankFor 0 0 (e.dst % 2 ^ 48 / 65536) 7) (· == 5)
     (let t := sRow (.mepi 0 epiL) [] .none
      runsNow t (.mepi 0 epiL) = true ∧ rowAt t epiL = true) ∧
     (let f : Epi := { epiL with faulted := true }
      let t := sRow (.mrepl 0 false) [(0, f)] (.matrix 7)
      runsNow t (.mrepl 0 false) = true ∧ Tab.get? (t.core 0).epis 0 = some f ∧ f.sent = none ∧ rowAt t f = true ∧
      (t.core 0).epis.filter (fun f => f.1 % 32 == 0) = [(0, f)] ∧ (t.ctx 0 0).wait = .matrix 7)) ∧
    (let t := sRow (.mepi 0 epiS) [] .none
     runsNow t (.mepi 0 epiS) = true ∧ (∀ a ∈ t.net, a.group ≠ 4)) ∧
    (let t : State := { sRow (.mepi 0 epiS) [] .none with net := [rowNet] }
     runsNow t (.mepi 0 epiS) = true ∧ (∃ a ∈ t.net, a.group = 4)) := by
  decide +kernel

theorem wit_MatrixEvents :
    (let t := sMat.setMycore { sMat.mycore with epis := [(0, { epi0 with faulted := false, trapped := some (trap 0x10) })] }
     (Tab.get? (t.core 0).epis 0).bind (·.trapped) = some (trap 0x10)) ∧
    (let t := sCmd (.mzero 0 Tile.reset 0)
     (t.core 0).parity < 2 ∧ 2 ≤ ({ t.core 0 with parity := 2 } : Core).parity) ∧
    (let t : State := { s0 with net := [{ rowNet with refused := none }] }
     t.access? 3 = some { rowNet with refused := none }) ∧ 3 < 4 ∧
    (let t := s0.setMycore { s0.mycore with refetch := true }
     let g := t.refetchAgent 0
     t.refetchReady 0 = true ∧ t.unwalked g (t.refetchRuns 0) = [] ∧ okIs ((t.endWalks g).refetchAll 0 g) (fun _ => true) = true) := by
  decide +kernel

/-- One tag, 9, in two registers, and tag 0 in another. -/
theorem wit_Distributions :
    s0.issues hd { helper := false } = true ∧
    (let t := s0.setMycore { s0.mycore with d := ((s0.mycore.d.set 1 { Dist.reset with tag := 9 }).set 2 { Dist.reset with tag := 9 }) }
     t.mycore.d[1].tag = t.mycore.d[2].tag ∧ t.mycore.d[1].tag ≠ 0 ∧ t.mycore.d[0].tag = 0) := by decide

/-- The last 512 bytes of slot 0. -/
theorem wit_DistributionImages :
    (let t := sreg sBank 2 0x100000000000FE00
     t.issues hd { helper := false } = true ∧ displace (t.me.rs 2).toNat 0 = some 0x100000000000FE00 ∧
     okIs (t.openSlot t.cur 0) (· == 5) = true ∧ t.me.unresolved = none) := by decide +kernel

/-! ### Witnesses: traps and contexts -/

/-- Partition 0 with a handler and an enabled trap queue at 0x100000. -/
def sTrap : State :=
  sreg (s0.setPart 0 { s0.part 0 with trapvec := 0x8000, tqOn := true, tqBase := 0x100000 }) 24 0x1122334455667788

theorem wit_SoftwareTraps :
    sTrap.MemWf ∧ sTrap.issues hd {} = true ∧ sTrap.me.level = 0 ∧ sTrap.me.unresolved = none ∧
    sTrap.trapStalls (sTrap.partOf sTrap.cur) = false ∧ sTrap.settled sTrap.cur sTrap.curCtx = true ∧ sTrap.storesDone sTrap.cur sTrap.curCtx = true ∧ after (exec (.trapi hd 5) sTrap) (fun t => (t.me.level, t.me.pc)) = some (1, 0x8000) ∧
    s1.issues hd {} = true ∧ 1 ≤ s1.me.level := by
  refine ⟨⟨by decide, by decide, by intro e he; cases he⟩, by decide, by decide, by decide, by decide, by decide, by decide, by decide, by decide, by decide⟩

/-- A handler at L1 with the valid flag set. -/
theorem wit_TrapReturnRestores :
    (let t := me s1 (fun k => { k with trapcause := 0x8000000000000216 })
     t.issues hd { level := 1 } = true ∧ t.me.trapcause.getLsbD 63 = true ∧ t.me.unresolved = none ∧ t.me.rbTrap = false ∧ t.settled t.cur t.curCtx = true) ∧
    s1.issues hd { level := 1 } = true ∧ s1.me.trapcause.getLsbD 63 = false := by decide

/-- An access of core 0. -/
def acc0 (k : AKind) (d : Dest) (j : Option Nat) : Access :=
  { id := 7, core := 0, ctx := 0, born := 0, path := .ls, kind := k, dest := d, size := 4, data := 9, jrn := j, pc := 0x10000
    va := 0, crossDie := false, performed := false, value := 0, refused := none, release := false, part := 0, asid := 0, since := 0
    group := 7, at_ := 0, got := 0, bridged := none, told := false }

/-- A posted store of context 0 on its way. -/
def storeOut : Access := acc0 .store (.dev [(0x200, 4)] [0]) (some 0)

theorem wit_TrapsFromEvents :
    (let t := me sTrap (fun k => { k with traps := [trap 0x0F], wait := .none })
     (t.ctx 0 0).traps = [trap 0x0F] ∧ (t.ctx 0 0).atBoundary = true ∧ (t.ctx 0 0).level = 0 ∧ (trap 0x0F).replays = true ∧ t.storesDone 0 0 = true ∧
     t.trapStalls (t.partOf 0) = false ∧ t.settled 0 0 = true) ∧
    (let t := me sTrap (fun k => { k with traps := [trap 0x11] })
     (t.ctx 0 0).traps = [trap 0x11] ∧ (t.ctx 0 0).atBoundary = true ∧ (trap 0x11).replays = false ∧ t.storesDone 0 0 = true ∧ t.net = [] ∧ t.xnet = [] ∧ t.launchOf 0 = none ∧
     (t.part 0).halted = false ∧ freeSlot ((t.part 0).tqHeld ++ (t.part 0).tqFatal) 248 8 = some 248) ∧
    (let t := me { sTrap with net := [storeOut] } (fun k => { k with traps := [trap 0x0F] })
     (t.ctx 0 0).level < 2 ∧ t.storesDone 0 0 = false) ∧
    (let t := me s0 (fun k => { k with stall := 1 })
     let u := t.setCore 0 { t.core 0 with cc := 1 }
     (u.ctx 0 0).stall ≠ 0 ∧ (u.ctx 0 0).stall ≤ (u.core 0).cc) := by decide

theorem wit_ContextsStartAndEnd :
    s0.issues hd { helper := false } = true ∧ s0.me.unresolved = none ∧ s0.freeCtx s0.cur = some 1 ∧ s0.unitQuiet s0.cur = true ∧
    (let t := s0.setMycore { s0.mycore with unit := some (0, 0), team := 3 }
     t.issues hd { helper := false } = true ∧ t.me.unresolved = none ∧ t.freeCtx t.cur = some 1 ∧ t.mycore.unit.isSome = true ∧ t.me.inUnit = false) ∧
    (sUnit.me.inUnit = true ∧ sUnit.launchOf sUnit.cur = some launch0 ∧ sUnit.unitQuiet sUnit.cur = true) ∧
    (let t : State := { (s0.setCtx 0 15 { s0.me with born := 1 }) with curCtx := 15 }
     t.issues hd { control := false } = true ∧ t.me.ticket = none ∧ t.ctxDrained t.cur t.curCtx = true ∧ t.mycore.loads = []) ∧
    (let t := sreg s0 2 15
     1 ≤ (t.me.rs 2).toNat ∧ (t.me.rs 2).toNat < 16 ∧ (t.me.rs 2).toNat ≠ t.curCtx) := by decide

/-! ### Witnesses: memory -/

/-- The last word of slot 0, and the first byte that a word there does not hold. -/
theorem wit_LocalWindowAccesses :
    (let t := sreg sBank 2 0x100000000000FFFC
     t.issues hd {} = true ∧ t.me.unresolved = none ∧ displace (t.me.rs 2).toNat (dispBytes .n32 0) = some 0x100000000000FFFC ∧
     0x100000000000FFFC % 65536 + ETy.n32.size ≤ 65536 ∧ okIs (t.openSlot t.cur 0) (· == 5) = true ∧ t.bankBusy t.cur .ls 5 = false ∧
     t.bankBad 5 0xFFFC 4 = false ∧ 0xFFFC % ETy.n32.size = 0 ∧ 0xFFFD % ETy.n32.size ≠ 0 ∧ t.quiet t.cur t.curCtx = true) ∧
    (let t := sreg sBank 2 0x1000000000000FFE
     displace (t.me.rs 2).toNat (dispBytes .n32 0) = some 0x1000000000000FFE ∧ 0xFFE % ETy.n32.size ≠ 0 ∧ 0xFFE + ETy.n32.size ≤ 65536 ∧
     t.bankBad 5 0xFFE 4 = false ∧ (∀ d ∈ t.drains t.cur 0, d.1 ≤ t.nonce)) ∧
    (let t := sreg sBank 2 0x100000000000FFC0
     displace (t.me.rs 2).toNat (dispBytes .n32 0) = some 0x100000000000FFC0 ∧ 0xFFC0 % 64 = 0 ∧ t.bankBad 5 0xFFC0 64 = false) ∧
    (let l : Load := { id := 3, ctx := 0, reg := .s 4, ty := .n32, val := some 7, due := 4, exposed := true }
     let t := s0.setCore 0 { s0.core 0 with loads := [l], cc := 4 }
     (t.core 0).loads = [l] ∧ l.exposed = true ∧ l.due ≤ (t.core 0).cc ∧ (t.ctx 0 l.ctx).mid = none) := by decide

theorem wit_GlobalAndHostAccesses :
    (let t := sreg s0 2 0x1FFC0
     t.issues hd {} = true ∧ t.me.unresolved = none ∧ displace (t.me.rs 2).toNat (dispBytes .n32 0) = some 0x1FFC0 ∧
     t.quiet t.cur t.curCtx = true ∧ ({ t with net := [storeOut] } : State).quiet t.cur t.curCtx = false ∧
     t.journalSlot t.cur = some 0 ∧ (t.lookup t.cur 0 0x1FFC0).isSome = true ∧ t.lookup t.cur 0 0x20000 = none ∧
     t.me.ticket = none ∧ t.hub.absent = [] ∧ t.devOk 0x1FFC0 = true ∧ t.memBad 0x1FFC0 64 = false ∧ e0.kind ≠ 3 ∧ e0.dirty = true ∧
     t.hostOk t.cur = (t.cluster 0).perm.testBit 192) ∧
    (let t := s0.setCluster 0 { s0.cluster 0 with perm := 2 ^ 192 + 1 }
     t.hostOk t.cur = true ∧ t.resolve t.cur 0x3000000000000000 = some (.host 0)) ∧
    s0.resolve 0 0x2002000000000000 = some (.rem 1 0 0) ∧ s0.reaches 0 (clusterOf 1) = true ∧
    (let t : State := { sUnit with launches := [{ launch0 with bytes := 0x1000 * 2 ^ 128 + 0x10000 * 2 ^ 64 }] }
     t.resolve 0 0x4000000000000FC0 = some (.shape 0xFC0) ∧ bits (fieldB (t.recordOf 0) 8 8) 47 0 + 0xFC0 = 0x10FC0) := by decide

/-- The translation of those bytes for a load and a store. -/
theorem wit_bytesAt : ∀ acc, acc < 3 → bytesAt (sreg s0 2 0x1FFC0) 0x1FFC0 64 0 acc 0x1FFC0 e0 := by
  intro acc h
  match acc, h with
  | 0, _ => exact ⟨by decide, by decide, by decide, by decide, by rfl, by decide, by decide, by decide, by decide⟩
  | 1, _ => exact ⟨by decide, by decide, by decide, by decide, by rfl, by decide, by decide, by decide, by decide⟩
  | 2, _ => exact ⟨by decide, by decide, by decide, by decide, by rfl, by decide, by decide, by decide, by decide⟩

/-- That access alone in the network. -/
def sNet (a : Access) : State := { s0 with net := [a] }

theorem wit_AccessEvents :
    (let a := acc0 .store (.dev [(0x200, 4)] [0]) (some 0)
     (sNet a).access? 7 = some a ∧ (sNet a).mayArrive a = true ∧ (sNet a).hub.absent = [] ∧ (sNet a).cutOff a = false ∧
     ({ a with performed := true } : Access).acked = true ∧
     (let t : State := { sNet a with net := [a, { a with id := 8 }] }
      ((t.dropAccess 7).net.find? (·.group == 7)).isSome = true)) ∧
    (let a := { acc0 .store (.slot 384 0 0) (some 0) with crossDie := true, bridged := some 3 }
     let t : State := { sNet a with hub := { s0.hub with failed := [1] } }
     t.mayArrive a = true ∧ t.cutOff a = true ∧ (sNet a).cutOff a = false) ∧
    (let a := acc0 .store (.slot 0 0 65532) (some 0)
     (sNet a).mayArrive a = true ∧ okIs (({ sBank with net := [a] } : State).bankFor 0 0 0 7) (· == 5) = true ∧
     okIs ((sNet a).bankFor 0 0 0 7) (fun _ => true) = false) ∧
    (let a := { acc0 .load (.dev [(0x200, 4)] [0]) none with performed := true }
     let l : Load := { id := 7, ctx := 0, reg := .s 4, ty := .n32, val := none, due := 0, exposed := false }
     let t := (sNet a).setCore 0 { s0.core 0 with loads := [l] }
     t.mayGive a = true ∧ a.refused = none ∧ (t.core 0).loads.find? (·.id == 7) = some l ∧ t.aliveFor a = true ∧
     (t.dropAccess 7).net.find? (·.group == 7) = none ∧
     (({ t with net := [a, { a with id := 8 }] } : State).dropAccess 7).net.find? (·.group == 7) = some { a with id := 8 } ∧
     ((me t (fun k => { k with wait := .access 7 })).ctx 0 0).wait = .access 7) ∧
    (let a := { acc0 .load (.slot 192 0 0) none with crossDie := true }
     let b := { acc0 .store (.slot 192 0 0) (some 0) with id := 6, group := 6, crossDie := true, bridged := some 3 }
     let t := sNet a
     let u : State := { s0 with net := [b, a] }
     t.mayEnter a = true ∧ t.bridgeStores a = [] ∧ u.mayEnter a = true ∧ youngest (u.bridgeStores a) = some b ∧ forwardFrom a b = some 9 ∧
     (let c := { b with kind := .atomic .add .n32 .rn 1 0 }
      let v : State := { s0 with net := [c, a] }
      v.mayEnter a = true ∧ youngest (v.bridgeStores a) = some c ∧ forwardFrom a c = none)) ∧
    (let a := { acc0 .load (.host 0) none with performed := true }
     a.atHost = true ∧ a.jrn = none ∧ (sNet a).time < a.since + 50000 ∧ a.since + 50000 ≤ ({ sNet a with time := 50000 } : State).time ∧
     (((me (sNet a) (fun k => { k with wait := .access 7 })).refuseWaiting a 0x11 1).isSome = true)) ∧
    (let a := { acc0 .store (.slot 0 0 0) (some 0) with refused := some 9 }
     (sNet a).aliveFor a = true ∧ (sNet a).rollingBack 0 = false ∧ a.told = false) := by decide

/-- The last line of an image has come: zeros, and with a bit in its tail; a trap can be taken of it. -/
theorem wit_ImageArrives :
    (let a := { acc0 .load (.slot 0 0 0xFFC0) none with size := 64, at_ := 448, performed := true }
     let l : Load := { id := 7, ctx := 0, reg := .d 3, ty := .n64, val := none, due := 0, exposed := false }
     let t := me ((sNet a).setCore 0 { s0.core 0 with loads := [l] }) (fun k => { k with wait := .access 7 })
     let u := (t.dropAccess 7).dropLoad 0 7
     t.access? 7 = some a ∧ a.refused = none ∧ t.mayGive a = true ∧ t.net.filter (·.group == a.group) = [a] ∧ t.aliveFor a = true ∧
     (t.core 0).loads.find? (·.id == 7) = some l ∧ (t.ctx 0 0).wait = .access 7 ∧
     a.got + a.value * 256 ^ a.at_ = 0 ∧ (distOf 0).sorted = true ∧ 256 ^ 448 / 256 ^ 385 ≠ 0 ∧
     (u.trapWaiting 0 0 0x01 0 0 0).isSome = true ∧ (u.trapWaiting 0 0 0x11 0 0 0).isSome = true) := by decide +kernel

/-- Another context's posted store on its way while a fatal trap is taken. -/
theorem wit_FatalDrains :
    (let a := { acc0 .store (.dev [(0x200, 4)] [0]) (some 0) with ctx := 1 }
     let t := me { sTrap with net := [a] } (fun k => { k with traps := [trap 0x11] })
     t.storesDone 0 0 = true ∧ (t.ctx 0 0).atBoundary = true ∧ a ∈ t.net ∧ a.core = 0) := by decide +kernel

/-- A walk that meets an invalid entry, and one that ends on a 1 GiB leaf. -/
theorem wit_PageWalk :
    (let w : Walk := { id := 1, core := 0, ctx := 0, born := 0, asid := 0, root := 0x1000, va := 0x20000, part := 0, seq := 0
                       fetch := false, fault := none, pref := false, taken := true }
     let t : State := { s0 with walks := [w] }
     let u : State := { t with mem := (t.mem.write 0x1000 8 0x2001).write 0x2000 8 0x3F }
     t.walks[0]? = some w ∧ w.fault = none ∧ w.taken = true ∧ t.walkStale w = false ∧ w.pref = false ∧
     okIs (walkBoth t 0 0 0x1000 0x20000) (fun _ => true) = false ∧
     okIs (walkBoth u 0 0 0x1000 0x20000) (fun r => r.1.base == 0 && r.1.size == 2 ^ 30 && r.1.user && r.1.x) = true) := by decide

theorem wit_BankAtomics :
    (let t := sreg sBank 2 0x100000000000FFFC
     t.issues hd {} = true ∧ t.me.unresolved = none ∧ displace (t.me.rs 2).toNat (dispBytes .n32 0) = some 0x100000000000FFFC ∧
     0xFFFC % ETy.n32.size = 0 ∧ okIs (t.openSlot t.cur 0) (· == 5) = true ∧ t.bankBusy t.cur .ls 5 = false ∧ t.bankBad 5 0xFFFC 4 = false ∧
     t.quiet t.cur t.curCtx = true ∧ ETy.n32.isAtm = true ∧ ETy.f32.isAtmF = true) := by decide

theorem wit_Fences :
    s0.issues hd {} = true ∧ s0.me.unresolved = none ∧ s0.me.grant = false ∧ (me s0 (fun k => { k with grant := true })).me.grant = true ∧
    s0.openTokens.length < 4 ∧
    ((me s0 (fun k => { k with fenced := true })).me.fenced = true ∧ branchTo s0.me.pc 2 ≠ s0.me.pc + 12) ∧
    (let t := sreg (me s0 (fun k => { k with fseq := 1 })) 2 0x8000000000000001
     t.me.rs 2 = BitVec.ofNat 64 (2 ^ 63 + 1) ∧ t.me.fseq < 65536 ∧ (1 + 65536 - t.me.fseq) % 65536 = 0) ∧
    (let t := me s0 (fun k => { k with wait := .marker 0 [0, 1] })
     (t.ctx 0 0).wait = .marker 0 [0, 1] ∧ t.mayReply 0 0 0 = true) := by decide

/-! ### One instruction on a small state, its result worked out by hand from the rule -/

/-- 127 + 1 in i8 wraps to −128, or saturates to 127 (R58, R59); a scalar result is sign-extended (R57). -/
theorem test_add :
    after (exec (.add hd { ty := .i8, sat := false, a := 1, b := 2, c := .imm 1 }) (sreg s0 2 127)) (fun t => t.me.rs 1) = some 0xFFFFFFFFFFFFFF80 ∧
    after (exec (.add hd { ty := .i8, sat := true, a := 1, b := 2, c := .imm 1 }) (sreg s0 2 127)) (fun t => t.me.rs 1) = some 127 := by decide

/-- A source that is also the destination; a write of s0 is lost (R56). -/
theorem test_sub :
    after (exec (.sub hd { ty := .n8, sat := false, a := 2, b := 2, c := .s 2 }) (sreg s0 2 9)) (fun t => t.me.rs 2) = some 0 ∧
    after (exec (.sub hd { ty := .i64, sat := false, a := 0, b := 2, c := .imm 1 }) (sreg s0 2 9)) (fun t => t.me.rs 0) = some 0 := by decide

/-- The high halves of −1 × 2 and of 255 × 255 (R60). -/
theorem test_mulh :
    after (exec (.mulh hd { ty := .i8, sat := false, a := 1, b := 2, c := .imm 2 }) (sreg s0 2 0xFF)) (fun t => t.me.rs 1) = some 0xFFFFFFFFFFFFFFFF ∧
    after (exec (.mulh hd { ty := .n8, sat := false, a := 1, b := 2, c := .imm 255 }) (sreg s0 2 0xFF)) (fun t => t.me.rs 1) = some 0xFE := by decide

/-- −7 by 2: quotient −3 towards zero, remainder −1 (R60). -/
theorem test_div :
    after (exec (.div hd { ty := .i8, sat := false, a := 1, b := 2, c := .imm 2 }) (sreg s0 2 0xF9)) (fun t => (t.me.rs 1).toInt) = some (-3) ∧
    after (exec (.rem hd { ty := .i8, sat := false, a := 1, b := 2, c := .imm 2 }) (sreg s0 2 0xF9)) (fun t => (t.me.rs 1).toInt) = some (-1) := by decide

/-- −128 >> 7 arithmetically, and logically in n8 (R61). -/
theorem test_shifts :
    after (exec (.sar hd { ty := .i8, sat := false, a := 1, b := 2, c := .imm 7 }) (sreg s0 2 0x80)) (fun t => (t.me.rs 1).toInt) = some (-1) ∧
    after (exec (.shr hd { ty := .n8, sat := false, a := 1, b := 2, c := .imm 7 }) (sreg s0 2 0x80)) (fun t => t.me.rs 1) = some 1 := by decide

/-- A predicate in each sense; −1 is below 0 as i8 and above as n8 (R62, R63). -/
theorem test_predicates :
    after (exec (.sel hd { ty := .i64, a := 1, neg := true, p := 7, b := 2, c := .imm 5 }) (sreg s0 2 9)) (fun t => t.me.rs 1) = some 5 ∧
    after (exec (.cmpLt hd { ty := .i8, p := 1, b := 2, c := .imm 0 }) (sreg s0 2 0xFF)) (fun t => t.me.rp 1) = some (BitVec.allOnes 64) ∧
    after (exec (.cmpLt hd { ty := .n8, p := 1, b := 2, c := .imm 0 }) (sreg s0 2 0xFF)) (fun t => t.me.rp 1) = some 0 := by decide

/-- 1 + 1 in f32, and −(1) + 1 = +0 (R65). -/
theorem test_fadd :
    after (exec (.fadd hd { ty := .f32, rnd := .rn, sat := false, a := 1, b := 2, bneg := false, c := 2, cneg := false }) (sreg s0 2 0x3F800000))
      (fun t => t.me.rs 1) = some 0x40000000 ∧
    after (exec (.fadd hd { ty := .f32, rnd := .rn, sat := false, a := 1, b := 2, bneg := true, c := 2, cneg := false }) (sreg s0 2 0x3F800000))
      (fun t => t.me.rs 1) = some 0 := by decide +kernel

/-- 65,520 halfway to 2^16 overflows f16 to +∞, or saturates to 65,504 (R45, R68). -/
theorem test_fcvt :
    after (exec (.fcvt hd { dty := .f16, sty := .f32, rnd := .rn, sat := false, a := 1, b := 2 }) (sreg s0 2 0x477FF000)) (fun t => t.me.rs 1) = some 0x7C00 ∧
    after (exec (.fcvt hd { dty := .f16, sty := .f32, rnd := .rn, sat := true, a := 1, b := 2 }) (sreg s0 2 0x477FF000)) (fun t => t.me.rs 1) = some 0x7BFF := by
  decide +kernel

/-- A call 4 × 3 ahead links the next instruction; a branch 4 back (R28, R69). -/
theorem test_control :
    after (exec (.call hd { a := 31, off := 3 }) s0) (fun t => (t.me.pc, t.me.rs 31)) = some (0x1000C, 0x1000C) ∧
    after (exec (.br hd 0xFFFFFF) s0) (fun t => t.me.pc) = some 0xFFFC ∧
    after (exec (.bcNz hdOff { a := 2, off := 0xFFFFFF }) s0) (fun t => t.me.pc) = some 0x1000C := by decide

/-- Lanes do not carry into each other (R76). -/
theorem test_vadd :
    after (exec (.vadd hd { ty := .n8, rnd := .rn, sat := false, a := 1, b := 2, bneg := false, c := .imm 1, cneg := false }) (vreg s0 2 0xFF))
      (fun t => (t.me.rv 1).toNat % 65536) = some 0x0100 := by decide +kernel

/-- A store of −2 to a word of slot 0 and the bytes that it leaves in the bank (R3, R126, R176). -/
theorem test_st :
    after (exec (.st hd { ty := .i16, r := 3, base := 2, disp := 1 }) (sreg (sreg sBank 2 0x1000000000000010) 3 0xFFFE))
      (fun t => (t.banks.byte (5 * 65536 + 0x12), t.banks.byte (5 * 65536 + 0x13), t.banks.byte (5 * 65536 + 0x14))) = some (0xFE, 0xFF, 0) := by
  decide +kernel

/-- An atomic addition takes its turn at its home; an increment below its limit (R183, R184). -/
theorem test_atomics : atmNew .incb .n32 .rn 5 6 0 = 6 ∧ atmNew .add .n32 .rn 0xFFFFFFFF 1 0 = 0 ∧ atmNew .min .i32 .rn 0xFFFFFFFF 1 0 = 0xFFFFFFFF := by
  decide +kernel

/-- SW_TRAP enters the handler at L1 with the pc after the instruction saved in sr.trappc and the code as its detail (R304, R305). -/
theorem test_trapi :
    after (exec (.trapi hd 5) sTrap) (fun t => (t.me.level, t.me.pc, t.me.trappc, (t.part 0).tqHeld)) = some (1, 0x8000, 0x1000C, [0]) := by
  decide +kernel

/-! ### Witnesses: transactions and banks -/

/-- A ticketed context with one granted slice; the claim of the slice of device address 0x10100. -/
def sTx : State := me s0 (fun k => { k with ticket := some 0x8000000000000000, claims := [(0x10100, true)], grants := [0x10100] })

theorem wit_Transactions :
    (let t := sreg s0 2 0x1FF00
     t.issues hd {} = true ∧ (t.me.rs 2).toNat < 2 ^ 48 ∧ (t.me.rs 2).toNat % 256 = 0 ∧ t.me.ticket = none ∧ t.me.claims.length < 32 ∧
     e0.kind < 2 ∧ t.devOk 0x1FF00 = true ∧ t.me.unresolved = none) ∧
    (me s0 (fun k => { k with claims := [(0x10100, true)] })).me.claims ≠ [] ∧
    (let t := sreg sTx 2 0x8000000000000000
     t.issues hd {} = true ∧ t.me.ticket = some (t.me.rs 2).toNat ∧ t.me.lostDies = [] ∧ t.me.wanting = [] ∧ t.quiet t.cur t.curCtx = true) ∧
    (let t : State := { me s0 (fun k => { k with wait := .submit 4 }) with submits := [(0, 0)] }
     (t.ctx 0 0).wait = .submit 4 ∧ (t.ctx 0 0).live = true ∧ (0, 0) ∈ t.submits ∧ dieOf 0 ∉ t.hub.failed ∧
     dieOf 0 ∈ ({ t with hub := { t.hub with failed := [0] } } : State).hub.failed) := by decide +kernel

/-- The translation that a declaration asks for. -/
theorem wit_Declared : (sreg s0 2 0x1FF00).translate 0 0 0 0 0x1FF00 1 1 false = .ok [(0x1FF00, 1)] [e0] := by rfl

/-- A submission in beat 0, at the tick 128 of beat 1, and with every sequencer's batch closed. -/
def sBeat : State :=
  { s0 with time := 128, seqs := s0.seqs.set 0 { (s0.seqOf 0) with open_ := [{ beat := 0, die := 0, core := 0, ctx := 0, born := 0, ticket := 0x8000000000000000, slices := [(0x10100, true)] }] } }

theorem wit_SequencersAndSlices :
    sBeat.mayClose 0 = true ∧
    (let t : State := { sBeat with seqs := sBeat.seqs.map (fun q => { q with closed := 1 }) }
     t.nextBeat 3 = some 0 ∧ t.mayApply 3 = true ∧ t.hub.absent = [] ∧ t.slices.length + 1 ≤ 256) ∧
    (let e : Slice := { addr := 0x10100, write := true, core := 0, ctx := 0, born := 0, ticket := 0x8000000000000000, granted := false }
     let t : State := { sTx with seqs := sTx.seqs.set 0 { (sTx.seqOf 0) with rest := [e] }, slices := [e], releases := [e] }
     (t.seqOf 0).rest = e :: [] ∧ t.sliceRoom e = true ∧ t.slices[0]? = some e ∧ t.mayGrant 0 = true ∧ t.releases[0]? = some e ∧ t.mayRelease 0 = true ∧ (t.ctx 0 0).ticket = some e.ticket ∧
     (t.ctx 0 0).born = e.born) ∧
    (let e : Slice := { addr := 0x10100, write := true, core := 0, ctx := 0, born := 0, ticket := 0x8000000000000000, granted := false }
     let t : State := { s0 with slices := [{ e with write := false }, { e with addr := 0x10200 }] }
     t.slices[1]? = some { e with addr := 0x10200 } ∧ t.mayGrant 1 = true) ∧
    (let t := sTx.setCore 0 { sTx.core 0 with cc := 65536 }
     t.mayHold 0 0 = true) := by decide +kernel

theorem wit_BanksChangeHands :
    (let t := sreg s0 2 59
     t.issues hd {} = true ∧ t.me.unresolved = none ∧ (t.me.rs 2).toNat < 60 ∧ t.slotBank t.cur 31 = none ∧ (t.hitch 59).st = .free) ∧
    (let t := sreg sBank 2 1
     t.issues hd {} = true ∧ okIs (t.openSlot t.cur 0) (· == 5) = true ∧ (t.me.rs 2).toNat ≠ t.cur ∧
     (t.cluster (clusterOf 1)).part = (t.cluster (clusterOf t.cur)).part ∧ t.reaches t.cur (clusterOf 1) = true ∧ reachable 5 1 = true ∧
     (t.slotBank t.cur 0).isSome = true ∧ t.waiting t.cur 1 = none) ∧
    (let t := s0.setHitch 5 { Hitch.reset with st := .transit, holder := 1, slot := 0, target := 0 }
     t.slotBank t.cur 0 = none ∧ t.waiting t.cur 0 = some 5) ∧
    (let t := sreg sBank 2 0x100000000000F000
     (t.me.rs 2).toNat / 2 ^ 48 = 0x1000 ∧ (t.me.rs 2).toNat % 4096 = 0 ∧ t.bankBusy t.cur .ls 5 = false) ∧
    (let t := sreg (me sBank (fun k => { k with level := 1 })) 2 5
     t.issues hd {} = true ∧ 1 ≤ t.me.level ∧ (t.cluster ((t.me.rs 2).toNat / 64)).part = (t.cluster (clusterOf t.cur)).part) ∧
    (let t := s0.setHitch 5 { Hitch.reset with st := .draining, holder := 0, slot := 0, target := 1, order := 9 }
     t.mayHandOver 5 = true ∧ (t.hitch 5).doomed = false ∧ (t.core 1).dead = false ∧
     (t.setHitch 5 { t.hitch 5 with doomed := true }).mayHandOver 5 = true ∧ ((t.setHitch 5 { t.hitch 5 with doomed := true }).hitch 5).doomed = true) ∧
    (let t := s0.setHitch 5 { Hitch.reset with st := .returning, holder := 0, slot := 0 }
     t.mayReturn 5 = true ∧ (t.core 0).dead = false ∧ t.senderAway 5 = none ∧ t.slotBank 0 0 = none) ∧
    ((s0.setHitch 5 { Hitch.reset with st := .wiping }).hitch 5).st = .wiping := by decide +kernel

/-! ### Witnesses: engines -/

/-- A strand of a swap channel or a copy channel at 0x10100: 64 bytes from 0x10200 to 0x10300, identifier 7. -/
def strand (word : Nat) : Nat := 0x10200 * 2 ^ 64 + 0x10300 * 2 ^ 128 + word * 2 ^ 256 + 7 * 2 ^ 288

/-- That strand in memory, with the pointer to it in s2 and the swap channel 0 held. -/
def sStrand (word : Nat) : State :=
  let t := sreg s0 2 0x10100
  { t.setPart 0 { t.part 0 with chmask := 2 ^ 32 } with mem := t.mem.write 0x10100 64 (strand word) }

/-- The start of channel 0 with identifier 7 into q5. -/
def start : OpQGo := { q := 5, ch := 0, id := 7, b := 2 }

/-- Its chain. -/
def chain0 (ch : Nat) : Chain :=
  { id := 4, chan := ch, core := 0, ctx := 0, born := 0, part := 0, q := 5, ident := 7, cur := 0x10100, prev := 0, first := true
    begun := false, lane := none, stamp := 4, cancelled := false, xlat := 0, level := 0, unit := none, mode := 0, queue := 0
    rank := 0, again := false }

/-- The chain at its channel. -/
def sChain (word ch : Nat) : State := { sStrand word with chains := [chain0 ch], running := [(ch, 4)] }

/-- What `findStrand` answered. -/
def plainly (f : Found) : Option Nat := match f with | .plain v _ => some v | _ => none

theorem wit_Starts :
    let t := sStrand 0x80000040
    t.issues hd {} = true ∧ t.startChecks (copyChan t.cur 0) start = none ∧ t.startChecks (swapChan 0) start = none ∧
    t.me.unresolved = none ∧ (∀ e ∈ t.mycore.commit, e.ctx ≠ t.curCtx) ∧ t.chains = [] ∧
    (recordArrivals (t.part (t.partOf t.cur)).residence (t.arrivals t.self [] allStrands 0x10100).1).length ≤ 4096 := by decide +kernel

theorem wit_StartsBuffered :
    let t := me (sStrand 0x80000040) (fun k => { k with unresolved := some true })
    t.issues hd {} = true ∧ t.startChecks 0 start = none ∧ t.me.unresolved ≠ none ∧ t.mycore.commit.length < 16 := by decide +kernel

theorem wit_CollectiveStarts :
    let t := sreg sUnit 2 0x10100
    t.issues hd {} = true ∧ t.startChecks 0 start = none ∧ t.me.inUnit = true ∧ t.mycore.unit ≠ none ∧ t.me.unresolved = none := by decide +kernel

theorem wit_QueueInstructions :
    let it : QItem := { wide := true, val := 9 }
    let t := me s0 (fun k => { k with q := k.q.setIfInBounds 2 [it] })
    t.issues hd {} = true ∧ t.me.q.toList.getD (6 - 4) [] = it :: [] ∧ 5 ≤ 6 ∧ ({ it with wide := false } : QItem).wide = false ∧ t.me.q.toList.getD (7 - 4) [] = [] ∧
    16 ≤ ((me s0 (fun k => { k with q := k.q.setIfInBounds 3 (List.replicate 16 it) })).me.q.toList.getD (7 - 4) []).length := by decide +kernel

theorem wit_UserInterrupts :
    let u : UIrq := { xfer := 7, handler := 0x40000 }
    let t := me s0 (fun k => { k with irqs := [u] })
    t.mayInterrupt 0 0 = true ∧ (t.ctx 0 0).irqs = u :: [] ∧ (me s0 (fun k => { k with uiHold := true })).me.uiHold = true := by decide +kernel

theorem wit_ChannelsChoose :
    (let t : State := { sChain 0x80000040 0 with running := [] }
     t.handOut 0 = none ∧ t.chosenChain 0 = some (chain0 0) ∧ t.mayChoose 0 = true) ∧
    (let d : Deadline := { deadline := 0, need := 1, last := 0, worst := 0, chans := [0x2000], ports := [], order := 0
                           picks := [(0, .checkpoint, 1)], stopped := false }
     let k : Chain := { chain0 0x4000 with mode := 3 }
     let t := sStrand 0x80810000
     let t : State := { t.setPart 0 { t.part 0 with deadline := some d } with chains := [k] }
     t.handOut 0x2000 = some (k, strand 0x80810000) ∧ t.mayChoose 0x2000 = true) := by decide +kernel

theorem wit_StrandsRun :
    let t := sChain 0x80000040 0
    t.movesOf 0 = [] ∧ t.runningChain 0 = some (chain0 0) ∧ (chain0 0).mode = 0 ∧ (chain0 0).await = [] ∧
    t.mayBegin (chain0 0) = true ∧ t.strandGoes (chain0 0) = true ∧ t.unwalked (t.chainAgent (chain0 0)) (t.strandRuns (chain0 0)) = [] ∧
    plainly ((t.endWalks (t.chainAgent (chain0 0))).findStrand (chain0 0)) = some (strand 0x80000040) ∧ bit (strandWord (strand 0x80000040)) 21 = false ∧
    (let p : Post := { id := 3, core := 0, ctx := 0, born := 0, q := 5, item := some 7, irq := none, chan := 0, unit := none, ident := some 7
                       asid := 0, part := 0, atCore := false }
     ({ t with posts := [p] } : State).movesOf 0 ≠ []) := by decide +kernel

/-- A swap strand whose headers name the page at 0x10000. -/
def sSwap (word : Nat) : State :=
  let t := sChain word 0x2000
  { t with mem := (t.mem.write 0x10218 8 0x10000).write 0x10318 8 0x10000 }

theorem wit_SwapsRun :
    (let t := sSwap 0x80810000
     let k := chain0 0x2000
     k.mode = 0 ∧ t.mayBegin k = true ∧ t.strandGoes k = true ∧ t.unwalked (t.chainAgent k) (t.strandRuns k) = []) ∧
    (let t := sSwap 0x80410000
     let k := chain0 0x2000
     t.mayBegin k = true ∧ t.strandGoes k = true ∧ t.unwalked (t.chainAgent k) (t.strandRuns k) = []) ∧
    (sSwap 0x80810000).mayRunSwap 0x2000 true = some (chain0 0x2000, strand 0x80810000) ∧
    (sSwap 0x80410000).mayRunSwap 0x2000 false = some (chain0 0x2000, strand 0x80410000) := by decide +kernel

theorem wit_Copies :
    let t := sStrand 0x80000040
    let v := strand 0x80000040
    okIs (t.place t.self (fieldB v 8 8) (strandLen v) 0) (fun sp => sp.1.all (fun p => !t.pieceBad p)) = true ∧
    okIs (t.place t.self (fieldB v 16 8) (strandLen v) 1) (fun _ => true) = true ∧ bit (strandWord v) 21 = false ∧
    okIs (t.place t.self 0x20000 64 0) (fun _ => true) = false := by decide +kernel

/-- A copy into slot 0, and the places of its first and last byte under swizzle code 0. -/
theorem wit_CopyToABank :
    let w := 0x80000040
    let v := 0x10200 * 2 ^ 64 + 0x1000000000000040 * 2 ^ 128 + w * 2 ^ 256
    okIs (sBank.place sBank.self (fieldB v 8 8) (strandLen v) 0) (fun sp => sp.1.all (fun p => !sBank.pieceBad p)) = true ∧
    okIs (sBank.place sBank.self (fieldB v 16 8) (strandLen v) 1) (fun dp =>
      let ds := swzPieces (bits (strandWord v) 27 24) dp.1
      placeOf ds 0 == some (true, 5 * 65536 + 64) && placeOf ds 63 == some (true, 5 * 65536 + 127) && placeOf ds 64 == none) = true ∧
    bit (strandWord v) 21 = false := by decide +kernel

/-- A multicast whose only receiver is another partition's cluster, which the permission table bars, and one whose receiver has no
translation. -/
theorem wit_Receivers :
    let w := 0x80200040
    let v := 0x10200 * 2 ^ 64 + 0x1000000000000040 * 2 ^ 128 + 0x10400 * 2 ^ 192 + w * 2 ^ 256
    let par : Nat → Nat := fun p => 256 ^ 8 + p * 256 ^ 16
    let rs : Nat → List Nat := fun p => (List.range (fieldB (par p) 8 1)).map (fun i => fieldB (par p) (16 + 8 * i) 8)
    let bad : Nat → Bool := fun p => match sBank.receiver sBank.self (strandLen v) p with | .error _ => true | .ok _ => false
    bit (strandWord v) 21 = true ∧ rs 0x2180000000000000 = [0x2180000000000000] ∧ bad 0x2180000000000000 = true ∧
    sBank.barred sBank.self 0x2180000000000000 64 = true ∧ rs 0x30000 = [0x30000] ∧ bad 0x30000 = true ∧
    sBank.barred sBank.self 0x30000 64 = false := by decide +kernel

/-- Work of core 0 that its unit started. -/
def work0 (core : Nat) : Work :=
  { id := core, core := core, ctx := 0, born := 0, part := 0, q := 5, ident := 7, desc := 0x10100, bad := none, xlat := 0, level := 0
    unit := some (0, 0) }

theorem wit_WorkFinishes :
    (let t : State := { sUnit with gathers := [work0 0] }
     t.gathers[0]? = some (work0 0) ∧ t.mayGather 0 (work0 0) = true ∧ t.unwalked (t.workAgent (work0 0) .ga) (t.gatherRuns (work0 0)) = []) ∧
    (let t : State := { sUnit.setCore 1 { sUnit.core 1 with l1 := [e0] } with colls := [work0 0, work0 1] }
     t.badColls 0 0 7 = [] ∧ t.launch? (0, 0) = some launch0 ∧ t.collParts launch0 7 = some [work0 0, work0 1] ∧
     t.mayColl [work0 0, work0 1] = true ∧ t.collMisses [work0 0, work0 1] = []) := by decide +kernel

/-- A swap-out strand of channel 0 whose tier slot, at virtual 0x200000, lies on expander 0. -/
def sLane : State :=
  let v := strand 0x80810000 % 2 ^ 128 + 0x200000 * 2 ^ 128 + strand 0x80810000 / 2 ^ 192 * 2 ^ 192
  let e : Tlb := { e0 with va := 0x200000, size := 2 ^ 21, base := 0xC00000000000, ipa := 0xC00000000000, kind := 2 }
  let t := sChain 0x80810000 0x2000
  { t.setCore 0 { t.core 0 with l1 := e :: (t.core 0).l1 } with
    mem := t.mem.write 0x10100 64 v, hub := { t.hub with gib := t.hub.gib.setIfInBounds 0 1 } }

theorem wit_LaneGranted : (sLane.mayLane 0x2000).map (fun r => r.2) = some 0 ∧ sLane.mayBegin (chain0 0x2000) = true ∧ sLane.lanes = [] := by decide +kernel

/-! ### Witnesses: launches and the team -/

theorem wit_LaunchInstructions :
    (let t := sreg sUnit 2 0x10100
     t.issues hd {} = true ∧ t.me.inUnit = true ∧ t.mycore.unit ≠ none ∧ t.buffers = false ∧ bits (t.me.rs 2).toNat 5 3 = 0 ∧
     t.ctxDrained t.cur t.curCtx = true ∧ okIs (t.bulkRead t.self 0x10100 64) (fun r => decide (r.2.me = t.me)) = true ∧
     (t.queue 0).pending.length < 256 ∧
     (let u := me t (fun k => { k with unresolved := some true })
      u.buffers = true ∧ u.me.unresolved ≠ none ∧ u.mycore.commit.length < 16)) ∧
    (let t := sreg s0 2 0x2000000000000005
     let w := (t.me.rs 2).toNat
     handleOk w = true ∧ handleLevel w = 1 ∧ (t.queue (handleQueue w)).part = t.partOf t.cur ∧
     (let u := t.setQueue 0 { t.queue 0 with nextSeq := 6 }
      2 ^ 31 ≤ (handleName w + 2 ^ 32 - (u.queue 0).nextSeq) % 2 ^ 32 ∧ ((u.queue 0).nextSeq + 2 ^ 32 - handleName w) % 2 ^ 32 ≤ 4096)) ∧
    (handleOk 0x4000000000000005 = true ∧ handleLevel 0x4000000000000005 = 2 ∧ handleName 0x4000000000000005 = 5) ∧
    (handleOk 0x6000000000000000 = true ∧ handleLevel 0x6000000000000000 = 3) ∧
    (handleOk 0x80000000FFFFFFFF = true ∧ handleLevel 0x80000000FFFFFFFF = 4) := by decide +kernel

theorem wit_LaunchTranslates :
    (sreg sUnit 2 0x10100).translate 0 0 0 0 0x10100 64 0 false = .ok [(0x10100, 64)] [e0] := by rfl

/-- The exchange step at its first cycle. -/
def sX : State := sreg sUnit 2 0x200200000000FFC0

theorem wit_TeamInstructions :
    sX.issues hd { helper := false, unit := true } = true ∧ sX.me.unresolved = none ∧ sX.mycore.barDone = false ∧
    sX.mycore.arrived = false ∧ sX.mayArriveAt sX.cur = true ∧ sX.phase = 1 ∧ hd.phase ≠ .compute ∧
    okIs (sX.xTarget (sX.me.rs 2).toNat) (fun e => e == (1, some 0xFFC0)) = true ∧ sX.reaches 0 (clusterOf 1) = true ∧
    sX.cycleOk 0 = true ∧ sX.journalSlot 0 = some 0 ∧ sX.me.q.toList.getD 0 [] = [] ∧
    (sUnit.setMycore { sUnit.mycore with barDone := true }).mycore.barDone = true ∧
    (sUnit.setMycore { sUnit.mycore with arrived := true }).mycore.arrived = true ∧
    ({ sUnit with xnet := [{ id := 1, src := 0, ctx := 0, jrn := 0, target := 1, line := none, unit := none, val := 0, pc := 0, va := 0, stage := 0 }] } : State).mayArriveAt 0 = false := by decide +kernel

theorem wit_Rings :
    let g : Ring := { sUnit.ring 3 with enable := true, wide := true, cap := 2, prods := 1 }
    let t := (sUnit.setMycore { sUnit.mycore with ringIn := some 3, ringOut := some 3 }).setRing 3 g
    t.mycore.ringOut = some 3 ∧ t.mycore.ringIn = some 3 ∧ t.mycore.reos = false ∧ t.mycore.released = false ∧ (t.setMycore { t.mycore with released := true }).mycore.released = true ∧ (t.ring 3).enable = true ∧
    (t.ring 3).items.length < (t.ring 3).cap ∧ (t.ring 3).items = [] ∧ (t.ring 3).ended = false ∧
    ((t.setRing 3 { g with ended := true }).ring 3).ended = true ∧ ((t.setRing 3 { g with items := [1] }).ring 3).items = [1] := by
  decide +kernel

/-- Both units at the barrier, the last arrival at tick 64: T0 is 192. -/
theorem wit_BarrierCompletes :
    let l : Launch := { launch0 with lastArr := 64, cores := [0], team := 1 }
    let t : State := { me sUnit (fun k => { k with wait := .bar }) with launches := [l], time := 192 }
    let u := t.setCore 0 { t.core 0 with arrived := true }
    u.launch? (0, 0) = some l ∧ u.mayComplete l = true ∧ (l.lastArr + 128 + 63) / 64 * 64 = 192 ∧ (u.ctx 0 0).live = true ∧
    (u.ctx 0 0).wait = .bar ∧ 0 ∈ u.teamCores l ∧
    ({ u with time := 191 } : State).mayComplete l = false := by decide +kernel

theorem wit_Deliveries :
    let m : XMsg := { id := 3, src := 1, ctx := 0, jrn := 0, target := 0, line := some 0xFFC0, unit := none, val := 9, pc := 0x10000
                      va := 0, stage := 0 }
    let t : State := { sBank with xnet := [m] }
    let u : State := { sBank with xnet := [{ m with line := none }] }
    t.xnet.find? (fun m => m.id == 3) = some m ∧ t.mayDeliver m = true ∧ dieOf m.target ∉ t.hub.absent ∧
    3 ∉ t.torn ∧ okIs (t.bankForUnit (m.by_.or (t.core 1).unit) 1 0 (0xFFC0 / 65536) 3) (· == 5) = true ∧
    okIs (({ s0 with xnet := [m] } : State).bankForUnit none 1 0 (0xFFC0 / 65536) 3) (fun _ => true) = false ∧
    u.mayDeliver { m with line := none } = true ∧ u.controlOf 0 none = .here 0 ∧ (u.ctx 0 0).takesItem = true ∧
    (let o : Away := { ctx := 0, born := 0, slot := none, unit := none, invs := [], base := 0 }
     let w := (u.setCtx 0 0 { u.ctx 0 0 with live := false }).setCore 0 { (u.setCtx 0 0 { u.ctx 0 0 with live := false }).core 0 with out := [o] }
     w.mayDeliver { m with line := none } = true ∧ w.controlOf 0 none = .away 0 ∧ w.atInterface 0 (.away 0) < 4) := by
  decide +kernel

/-! ### Witnesses: the system -/

theorem wit_SystemRegisters :
    s0.issues hd {} = true ∧ s1.issues hd {} = true ∧ s2.issues hd {} = true ∧ s0.me.level = 0 ∧ 1 ≤ s1.me.level ∧ 2 ≤ s2.me.level ∧
    s0.me.unresolved = none ∧ (s1.queue s1.selQueue).part = s1.partOf s1.cur ∧
    (let t := sreg s2 2 0x8000000000000400
     bits (t.me.rs 2).toNat 11 10 ≤ t.me.level ∧ (t.me.rs 2).getLsbD 63 = true) := by decide +kernel

theorem wit_OverflowTable : s1.issues hd { level := 1 } = true ∧
    (∀ i, i < 6 → bits 0x558 (2 * i + 1) (2 * i) ≠ 3) ∧ bits 0x558 1 0 ≠ 1 ∧ bits 0x558 3 2 ≠ 1 ∧ bits 0x003 1 0 = 3 := by decide +kernel

theorem wit_Invalidations :
    let c : Nat := 0x4000000000000000
    let p : Part := { s1.part 0 with asidCount := 1 }
    let t := s1.setPart 0 p
    t.issues hd { level := 1 } = true ∧ invSpecOk c = true ∧ bits c 60 58 = 0 ∧ (t.part (t.partOf t.cur)).holdsAsid (bits c 13 0) = true ∧
    t.me.invs.length < 8 ∧ (∀ v ∈ t.invals, v.seq ∈ t.me.invs → t.invDone v = true) ∧
    (let v : Inval := { seq := 1, scope := 2, core := 0, kind := 0, addr := 0, vdev := 0, asid := 0, waits := [4] }
     let a : Access := { id := 4, core := 0, ctx := 0, born := 0, path := .ls, kind := .store, dest := .slot 1 0 0, size := 1, data := 0, jrn := some 0
                         pc := 0, va := 0, crossDie := false, performed := false, value := 0, refused := none, release := false, part := 0, asid := 0, since := 0
                         group := 4, at_ := 0, got := 0, bridged := none, told := false }
     let u : State := { (me s1 (fun k => { k with invs := [1] })) with invals := [v], net := [a] }
     v ∈ u.invals ∧ v.seq ∈ u.me.invs ∧ u.invDone v = false) := by decide +kernel

theorem wit_Wipes :
    (let t := sreg { (me sBank (fun k => { k with level := 1 })) with nonce := 9 } 2 0x1000000000000000
     let b := (t.me.rs 2).toNat
     b / 2 ^ 48 = 0x1000 ∧ b % 2 ^ 48 < 0x200000 ∧ b % 65536 = 0 ∧ okIs (t.openSlot t.cur (b % 2 ^ 48 / 65536)) (· == 5) = true ∧
     t.bankBusy t.cur .ls 5 = false) ∧
    s1.me.ticket = none ∧ s1.coreQuiet s1.cur = true ∧ e0.kind < 2 ∧ e0.dirty = true ∧ s1.devOk 0x10000 = true ∧
    s1.devOk (0x10000 + 65535) = true := by decide +kernel

theorem wit_WipeTranslates : s1.translate 0 0 0 1 0x10000 65536 1 false = .ok [(0x10000, 65536)] [e0] := by rfl

/-- A request of partition 0: vacate one page by tick 10,000,000. -/
def ask : Nat := 10000000 + 65536 * 2 ^ 64

theorem wit_EvictionPosts :
    let t : State := { sreg s2 2 0x10100 with mem := s2.mem.write 0x10100 64 ask }
    t.issues hd { level := 2 } = true ∧ okIs (t.bulkRead t.self 0x10100 64) (fun r => r.1 == ask && r.2.requestOk r.1) = true ∧
    t.ownWaits 0x10100 64 0 = false ∧ ({ t with net := [acc0 .store (.dev [(0x10100, 4)] [0]) (some 0)] } : State).ownWaits 0x10100 64 0 = true := by
  decide +kernel

theorem wit_Clusters :
    (s2.cluster 191).part = none ∧ (191 : Nat) ≤ 191 ∧ (255 : Nat) < 256 ∧
    (let t := s2.setCluster 5 { s2.cluster 5 with part := some 3 }
     t.mayDetach 5 3 = true) := by decide +kernel

/-- Context 3 live and stopped in a branch, and at a boundary. -/
theorem wit_Saves :
    (let t := s1.setCtx 0 3 { s1.me with level := 0, unresolved := some true }
     t.issues hd { level := 1 } = true ∧ (3 : Nat) ≠ t.curCtx ∧ (t.ctx t.cur 3).live = true ∧ (t.letGo t.cur 3).mayLeave t.cur 3 false = false ∧
     (t.letGo t.cur 3).ownWaits 0x10000 0x3000 1 = false ∧
     ({ t with net := [acc0 .store (.dev [(0x12FFC, 4)] [0]) (some 0)] } : State).ownWaits 0x10000 0x3000 1 = true) ∧
    (let t := s1.setCtx 0 3 { s1.me with level := 0 }
     let f := t.letGo t.cur 3
     let u := f.settleLoads f.cur 3
     f.mayLeave f.cur 3 false = true ∧ f.ownWaits 0x10000 0x3000 1 = false ∧
     okIs (u.bulkWrite u.self 0x10000 0x3000 0) (fun _ => true) = true ∧ (s1.ctx 0 3).live = false ∧ s1.ownWaits 0x10000 0x3000 0 = false) := by decide +kernel

theorem wit_SaveTranslates : (s1.letGo 0 3).translate 0 0 0 1 0x10000 0x3000 1 false = .ok [(0x10000, 0x3000)] [e0] ∧
    s1.translate 0 0 0 1 0x10000 0x3000 0 false = .ok [(0x10000, 0x3000)] [e0] := ⟨by rfl, by rfl⟩

theorem wit_Preemptions :
    (s0.core 0).preempt = none ∧ 0x200000 % 2 ^ 21 = 0 ∧ s0.devRange 0x200000 (2 ^ 21) = true ∧
    (∃ x ∈ Tab.keys (s0.core 0).ctxs, (s0.ctx 0 x).live = true) ∧
    (let t := s0.setCore 0 { s0.core 0 with preempt := some 0x200000 }
     t.mayPreempt 0 = true) := by decide +kernel

theorem wit_SaveArea :
    (∀ i : Fin 4, (s0.ctx 0 0).q[i].length ≤ 16) ∧ (s0.ctx 0 0).claims.length ≤ 32 ∧ (s0.ctx 0 0).irqs.length ≤ 16 ∧
    (s0.ctx 0 0).level < 4 ∧ (s0.ctx 0 0).tagCtr < 256 ∧ (s0.ctx 0 0).fseq < 65536 := by decide +kernel

/-! ### Witnesses: the hub -/

/-- A record of one unit at entry 0x10200. -/
def rec0 : Nat := 0x10200 + 2 ^ 160

/-- Its entry in a queue, not read yet. -/
def prec0 : PRec := { seq := 0, n := 1, bytes := rec0, read := false, dep := none, eligible := none, arrival := [], chain := 0 }

/-- Queue 0 of partition 0 enabled with a record at its head; the program's descriptor stands before its entry point. -/
def sQueue (r : PRec) : State :=
  let t := s0.setQueue 0 { s0.queue 0 with enabled := true, pending := [r], nextSeq := 1, args := 0x8000000000100000 }
  let t := t.setCore 1536 { t.core 1536 with l1 := [e0] }
  { t with mem := t.mem.write (0x10200 - 32) 32 (0xA5C30001 + 8 * 2 ^ 32) }

theorem wit_Records :
    s0.hub.failure = 0 ∧ s0.ownsQueue 0 8191 = true ∧ (s0.queue 8191).pending.length < 256 ∧ (0x80000000 : BitVec 32).getLsbD 31 = true ∧
    256 ≤ ((s0.setQueue 0 { s0.queue 0 with pending := List.replicate 256 prec0 }).queue 0).pending.length ∧
    (sQueue prec0).headOf 0 = some prec0 ∧ (sQueue prec0).mayRead 0 = true ∧
    okIs ((sQueue prec0).hubRead 0 (0x10200 - 32) 32 4) (fun d => fieldB d.1 0 4 == 0xA5C30001 && recPtr (fieldB d.1 16 8) 64
      && fieldB d.1 24 8 == 0 && (sQueue prec0).recordOk 0 rec0 (fieldB d.1 4 2)) = true ∧
    okIs ((sQueue prec0).hubRead 0 (0x10200 - 32) 32 4) (fun d => ((d.2.arrivalSet 0 (fieldB rec0 56 8)).map (fun r => r.1)) == some []) = true ∧
    fieldB rec0 32 8 = 0 ∧
    (sQueue { prec0 with bytes := 31 }).mayRead 0 = true ∧ fieldB 31 0 8 < 32 ∧ 2 ^ 48 ≤ fieldB (2 ^ 48) 0 8 % 2 ^ 64 ∧
    (let r : PRec := { prec0 with bytes := rec0 + 0x10300 * 2 ^ 256, read := true, dep := some false }
     (sQueue r).mayReread 0 = true ∧ okIs ((sQueue r).hubRead 0 (fieldB r.bytes 32 8) 4 0) (fun n => n.1 == 0) = true) := by
  decide +kernel

/-- A read record that no dependence holds, chosen. -/
def ready0 : PRec := { prec0 with read := true, dep := some true }

theorem wit_LaunchStarts :
    (let t : State := { sQueue ready0 with starting := some (0, 0) }
     t.headOf 0 = some ready0 ∧ t.starting = some (0, ready0.seq) ∧
     (let u : State := { t with starting := none }
      u.isEligible 0 ready0 = true ∧ u.queueRoom 0 = true) ∧ (t.queue 0).args.getLsbD 63 = true ∧ ready0.n = 1 ∧ s0.freeCore 0 1 = true) ∧
    (let r : PRec := { ready0 with n := 8, bytes := rec0 + 5 * 256 ^ 64 }
     let t : State := { sQueue r with starting := some (0, 0) }
     let t := t.setQueue 0 { t.queue 0 with args := 0x8000000000010000 }
     let u : State := { t with starting := none }
     t.headOf 0 = some r ∧ r.n ≠ 1 ∧ (u.placement (t.queue 0).part r.bytes).isSome = true ∧ u.isEligible 0 r = true ∧ u.queueRoom 0 = true ∧
     bits (t.queue 0).args.toNat 47 15 * 32768 + r.seq % 64 * 512 = 0x10000 ∧
     okIs (u.bulkWrite (u.hubAgent 0) 0x10000 (64 * 7) (r.bytes / 256 ^ 64)) (fun _ => true) = true) := by decide +kernel

theorem wit_Arbitration : (sQueue { ready0 with eligible := some 0 }).mayArbitrate 0 = true := by decide +kernel

/-- The chain of core 0's preload on its channel, and the strand of it that runs next. -/
def sPreload (word : Nat) (l : Launch) : State :=
  { sStrand word with launches := [l], chains := [{ chain0 0 with mode := 1, unit := some (0, 0) }], running := [(0, 4)] }

theorem wit_Preloads :
    let l : Launch := { launch0 with begun := false, preload := 0, chain := 0x10100, cores := [0], team := 1 }
    let h : Chain := { chain0 0 with mode := 1, unit := some (0, 0) }
    let t := sPreload 0x80000040 l
    let g := t.chainAgent h
    let y := t.endWalks g
    l.status = 0 ∧ t.launch? (0, 0) = some l ∧ ({ t with chains := [] } : State).preloadOf l = none ∧ l.cores[l.preload]? = some 0 ∧
    t.preloadOf l = some h ∧ (t.runningChain h.chan).map (fun k => k.id) = some h.id ∧ h.await = [] ∧ t.mayBegin h = true ∧
    t.strandGoes h = true ∧ t.unwalked g (t.strandRuns h) = [] ∧
    okIs (y.readStrand g 0x10100) (fun r => strandOwn r.1 && bit (strandWord r.1) 21 == false &&
      okIs ((r.2.chargeStrand h 1).strandCheck g false r.1) (fun p =>
        let c := p.2.copyStrand g r.1 p.1
        c.1.st == 1 && okIs (c.2.2.bulkRead (c.2.2.chainAgent h) 0x10100 8) (fun n => n.1 == 0))) = true ∧
    (let u : State := { t with mem := t.mem.write 0x10100 8 0x10140 }
     okIs (u.bulkRead g 0x10100 8) (fun n => n.1 == 0x10140) = true) ∧
    (let u := sPreload 0x40 l
     u.strandGoes h = true ∧ u.unwalked g (u.strandRuns h) = [] ∧ okIs (u.readStrand g 0x10100) (fun r => !strandOwn r.1) = true) ∧
    (let u := sPreload 0x80020040 l
     u.strandGoes h = true ∧ u.unwalked g (u.strandRuns h) = [] ∧ okIs (u.readStrand g 0x10100) (fun r => strandOwn r.1 &&
       !okIs ((r.2.chargeStrand h 1).strandCheck g false r.1) (fun _ => true)) = true) ∧
    okIs (t.readStrand g 0x10101) (fun _ => true) = false ∧
    l.preload + 1 = l.cores.length := by decide +kernel

theorem wit_Completions :
    let l : Launch := { launch0 with ended := [0, 1], bytes := 0x3000000000001000 * 2 ^ 384 + 2 ^ 224 }
    s0.mayFinish l = true ∧ fieldB l.bytes 48 8 / 2 ^ 48 = 0x3000 ∧ bit (fieldB l.bytes 28 1) 0 = true := by decide +kernel

theorem wit_Cancellations :
    let c : Cancel := { level := 3, queue := 0, name := 0, part := 0 }
    let t : State := { sUnit with cancels := [c] }
    t.cancels[0]? = some c ∧ t.launch? (0, 0) = some launch0 ∧ t.cancelHits c 0 0 0 = true ∧ launch0.status = 0 ∧
    ¬ (launch0.begun = true ∧ launch0.ended.length = launch0.team) := by decide +kernel

theorem wit_Branches :
    (let t := me s0 (fun k => { k with unresolved := some false, wait := .branch })
     (t.ctx 0 0).unresolved = some false) ∧
    (let e : Held := { ctx := 0, cmd := .gath hd start, sv := 0x10100, pc := 0x10000, firm := true }
     let t := s0.setCore 0 { s0.core 0 with commit := [e] }
     (t.ctx 0 0).unresolved = none ∧ (t.core 0).commit.head? = some e ∧ e.firm = true ∧ (t.beginCmd 0 0 e.cmd e.sv).isSome = true ∧
     (t.setCore 0 { t.core 0 with commit := [{ e with cmd := .launch hd { a := 1, b := 2 } }] }).nextHeld 0 =
       some { e with cmd := .launch hd { a := 1, b := 2 } }) := by decide +kernel

theorem wit_Governor :
    (let t : State := { (s0.setRing 3 { s0.ring 3 with enable := true }) with time := 1024 }
     t.mayGovern 0 = true ∧ t.hub.govAt.toList.getD 0 0 < t.time / 1024) ∧
    (let t := s0.setCore 1 { s0.core 1 with heir := some (0, 0) }
     t.mayGovern 0 = true ∧ t.time / 1024 ≤ t.hub.govAt.toList.getD 0 0 ∧ t.heirsReady 0 = [(1, (0, 0))] ∧
     (let u : State := { t with launches := [{ launch0 with cores := [0] }] }
      u.launch? (0, 0) = some { launch0 with cores := [0] } ∧ u.heirsReady 0 = [(1, (0, 0))] ∧
      (u.setCore 1 { u.core 1 with heir := none }).banksFor [1] (recSlots launch0.bytes).length = true)) := by decide +kernel

/-- A queue with one page, its checkpoint chain, and one swap channel to reserve. -/
def sDeadline : State :=
  let t := s0.setPart 0 { s0.part 0 with chmask := 2 ^ 32 }
  let t := t.setQueue 0 { t.queue 0 with discard := true, chainOn := true, chainHead := 0x10100, pages := [2] }
  { t with hub := { t.hub with owner := [(2, 0)] } }

theorem wit_Deadlines :
    sDeadline.requestOk ask = true ∧ sDeadline.requestOk 0 = false ∧
    (let r : EvReq := { idx := 4, bytes := ask, core := none, addr := 0, reg := 0, post := 0 }
     let t : State := { sDeadline with evicts := [r] }
     t.evicts.find? (fun e => e.idx == 4) = some r ∧ (t.part 0).deadline = none) ∧
    (let r : EvReq := { idx := 4, bytes := ask, core := some (0, 0), addr := 0x10100, reg := 5, post := 0 }
     let t : State := { me sDeadline (fun k => { k with wait := .evict 4 }) with evicts := [r] }
     let u : State := { t with evicts := [] }
     let pl := u.plan 0 10000000 65536
     let v := u.acceptDeadline 0 10000000 pl
     let k := v.ctx 0 0
     let g : Agent := { stamp := v.nonce, core := 0, part := v.partOf 0, vdev := v.vdevOf 0, xlat := k.xlat.toNat, level := k.level }
     t.evicts.find? (fun e => e.idx == 4) = some r ∧ pl.ok = true ∧ k.live = true ∧ k.wait = .evict 4 ∧
     okIs (v.bulkWrite g (0x10100 + 24) 8 pl.worst) (fun _ => true) = true ∧
     (u.plan 0 0 65536).ok = false ∧ okIs (u.bulkWrite g (0x10100 + 24) 8 3) (fun _ => true) = true) := by decide +kernel

theorem wit_DeadlineMoves :
    let d : Deadline := { deadline := 10000000, need := 1, last := 0, worst := 0, chans := [0x2000], ports := [], order := 0
                          picks := [(0, .checkpoint, 0)], stopped := false }
    let on (k : Deadline) : State := sDeadline.setPart 0 { sDeadline.part 0 with deadline := some k }
    (on d).mayStop 0 = true ∧ (on d).moveFor 0 0 = .start ∧
    ((on d).setQueue 0 { sDeadline.queue 0 with chainOn := false }).moveFor 0 0 = .fail ∧
    (let t : State := { on d with launches := [{ launch0 with cores := [0], team := 1 }] }
     let t := t.setCore 0 { t.core 0 with unit := some (0, 0) }
     t.moveFor 0 0 = .discard ∧ (t.setQueue 0 { t.queue 0 with saveOn := true }).moveFor 0 0 = .preempt) ∧
    ({ s0 with time := 1000 } : State).mayRefill = true ∧ (Tab.keys sDeadline.parts).Nodup := by decide +kernel

theorem wit_Placement :
    let t : State := { sQueue ready0 with starting := some (0, 0) }
    t.placement 0 rec0 = some [1] := by decide +kernel

theorem wit_Plan : (sDeadline.plan 0 10000000 65536).ok = true := by decide +kernel

theorem wit_Finish :
    let d : Deadline := { deadline := 10000000, need := 1, last := 0, worst := 0, chans := [0x2000], ports := [], order := 0
                          picks := [(0, .checkpoint, 1)], stopped := false }
    let t := sDeadline.setPart 0 { sDeadline.part 0 with deadline := some d }
    ({ t with chains := [{ chain0 0x2000 with mode := 3, cur := 0 }] } : State).moveFor 0 0 = .finish := by decide +kernel

/-! ### Witnesses: the host, firmware and the links -/

/-- A ring word: enabled, capacity 2, high 2, low 1, between 1 and 8 units. -/
def ringWord : Word := BitVec.ofNat 64 (2 ^ 63 + 2 * 2 ^ 55 + 2 * 2 ^ 48 + 2 ^ 41 + 2 ^ 37 + 8 * 2 ^ 33)

theorem wit_RingWrites :
    (s0.ringWrite 191 31 ringWord).isSome = true ∧ s0.ringWrite 191 31 0x8000000000000000 = none ∧
    (match s0.ringWrite 191 31 ringWord with | some t => (t.ring (191 * 32 + 31)).enable | none => false) = true := by decide +kernel

/-- A chain of one checkpoint strand at 0x10100: the page at 0x10000 to a tier slot of expander 0. -/
def sChained : State :=
  let v := strand 0x80810000 % 2 ^ 128 + 0x200000 * 2 ^ 128 + strand 0x80810000 / 2 ^ 192 * 2 ^ 192
  let e : Tlb := { e0 with va := 0x200000, size := 2 ^ 21, base := 0xC00000000000, ipa := 0xC00000000000, kind := 2 }
  { s0.setCore 1536 { s0.core 1536 with l1 := [e0, e] } with
    mem := (s0.mem.write 0x10100 64 v).write 0x10200 64 (0x56460001 + 8 * 2 ^ 32 + 0x10000 * 2 ^ 192)
    hub := { s0.hub with gib := s0.hub.gib.setIfInBounds 0 1 } }

theorem wit_ChainRegistered :
    (let d := sChained.disown 0
     (d.chainPages (d.hubAgent 0) 4095 (bits 0x8000000000010100 47 6 * 64)).map (fun r => r.1) = some [(1, 0)] ∧
     d.chainPages (d.hubAgent 0) 4095 0x10108 = none) ∧ sChained.chosenQueue 0 = false := by decide +kernel

theorem wit_MapBlocked :
    (let w : Inval := { seq := 3, scope := 4, core := 0, kind := 3, addr := 0, vdev := 0, asid := 0, waits := [7] }
     let t : State := { s0 with hub := { s0.hub with mapTo := some (0xE1, 3) } }
     (let u : State := { t with invals := [w], net := [acc0 .store (.dev [(0x200, 4)] [0]) (some 0)] }
      ∃ v ∈ u.invals, v.seq = 3 ∧ u.invDone v = false) ∧
     t.references 0 = true ∧ stackOf 0xE1 0 ≠ stackOf t.hub.vdiemap 0 ∧ mapOk 0xE1 = true ∧
     (let u : State := { t with chains := [{ chain0 0 with await := [9] }] }
      ∃ h ∈ u.chains, dieOf h.core = 0 ∧ h.await ≠ []) ∧
     (let u : State := { State.reset with hub := { State.reset.hub with mapTo := some (0xE1, 3) } }
      u.mayRemap = true)) := by decide +kernel

theorem wit_HostRegisters :
    s0.chosenQueue 8191 = false ∧ s0.hub.mapTo = none ∧ mapOk 0xE4 = true ∧ mapOk 0 = false ∧ (∀ d ∈ [1, 2, 3], s0.references d = false) ∧ s0.references 0 = true ∧
    (s0.ctx 3 5).live = false ∧ ((s0.setCluster 0 { s0.cluster 0 with part := some 0 }).cluster (clusterOf 3)).part ≠ none ∧
    dieOf 3 ∉ s0.hub.absent ∧ s0.devRange (2 ^ 39 - 1) 1 = true ∧ s0.devRange (2 ^ 39) 1 = false ∧ s0.hub.failure = 0 ∧ s0.ownsQueue 1 0 = false ∧
    (let t : State := { s0 with hub := { s0.hub with mapTo := some (0xE4, 3) } }
     t.hub.mapTo = some (0xE4, 3) ∧ t.mayRemap = true) ∧ s0.hub.mapTo ≠ some (0xE4, 3) ∧ s0.ownsQueue 0 0 = true ∧
    (let t := s0.setIsland 43 { s0.island 43 with busy := 5 }
     (t.island 43).busy ≠ 0 ∧ (t.island 43).busy ≤ ({ t with time := 5 } : State).time) ∧ s0.hub.migr.Nodup := by decide +kernel

/-- A flit of zeros with its CRC, and one that fails its check. -/
def flit0 : Flit :=
  { hdr := 0, payload := List.replicate 240 0, crc := BitVec.ofNat 32 (crc32c (bytesOf 4 0 ++ List.replicate 240 0)), parity := List.replicate 8 0
    errs := [], use := .none }

/-- A flit whose sequence number is 1, with its CRC. -/
def flit1 : Flit :=
  { flit0 with hdr := 0x1000, crc := BitVec.ofNat 32 (crc32c (bytesOf 4 0x1000 ++ List.replicate 240 0)) }

/-- The first with four of its bytes wrong, and with five. -/
def flit4 : Flit := { flit0 with errs := [(0, 1), (9, 2), (243, 3), (255, 4)] }
def flit5 : Flit := { flit0 with errs := [(0, 1), (9, 2), (243, 3), (255, 4), (10, 5)] }

theorem wit_Links :
    (s0.link 7).up = true ∧ flitOk (flitReceived flit0) = true ∧ flitOk (flitReceived flit4) = true ∧ flitWrong flit4 ≠ [] ∧
    flit0.payload.length = 240 ∧ flit0.parity.length = 8 ∧ flitOk (flitReceived flit1) = true ∧ bits (flitReceived flit1).hdr.toNat 23 12 ≠ (s0.link 7).seq ∧
    flitOk (flitReceived flit5) = false ∧ s0.devRange 0x10000 240 = true ∧ bits flit0.hdr.toNat 23 12 = (s0.link 7).seq ∧ (s0.link 7).cut = none ∧
    bits flit0.hdr.toNat 31 28 ≠ 0xE ∧ (s0.link 7).replays < 16 ∧
    ((s0.setLink 7 { s0.link 7 with replays := 16, cut := some 3 }).link 7).cut ≠ none ∧ s0.hub.failure = 0 := by decide +kernel

theorem wit_DeviceLife :
    ({ s0 with hub := { s0.hub with life := 2 } } : State).hub.life < 3 ∧ 3 ∉ s0.hub.absent ∧ (({ s0 with hub := { s0.hub with absent := [3] } } : State).mayComeBack 3 = true) ∧
    s0.hub.stopping = none ∧ s0.devRange 0x2000 1 = true ∧ s0.mayBeStopped = true ∧ sUnit.mayBeStopped = true ∧
    (sUnit.setQueue 0 { sUnit.queue 0 with weight := 2 }).mayBeStopped = false ∧
    fieldB (s0.mem.read 0x2000 64) 0 4 ≠ 0x56530001 ∧
    (let t : State := { s0 with mem := s0.mem.write 0x2000 64 0x56530001 }
     fieldB (t.mem.read 0x2000 64) 0 4 = 0x56530001 ∧ fieldB (t.mem.read 0x2000 64) 6 2 = 0 ∧ fieldB (t.mem.read 0x2000 64) 8 2 = 0 ∧
     ((t.readQueues (fieldB (t.mem.read 0x2000 64) 4 2) (0x2000 + 64)).1.map (fun e => e.queue)).Nodup) := by decide +kernel

/-! ### Witnesses: a valid save area (R295, R319, R320) -/

/-- What the first 60 bytes of the area of context n hold, for core 0, without or with a core part. -/
def areaHead (n : Nat) (core : Bool) : Nat := 0x56430001 + n * 2 ^ 32 + b2n core * 2 ^ 40

/-- Its CRC. -/
def areaCrc (n : Nat) (core : Bool) : Nat := crc32c (bytesOf (areaBytes core) (areaHead n core))

/-- The bytes of such an area whose CRC is c: all others of it read 0. -/
def areaCells (n : Nat) (core : Bool) (c : Nat) : Memory :=
  [(0, 1), (2, 0x43), (3, 0x56), (4, BitVec.ofNat 8 n), (5, BitVec.ofNat 8 (b2n core)), (60, BitVec.ofNat 8 c),
    (61, BitVec.ofNat 8 (c / 256)), (62, BitVec.ofNat 8 (c / 256 / 256)), (63, BitVec.ofNat 8 (c / 256 / 256 / 256))]

/-- A memory moved up by a. -/
def moved (a : Nat) (m : Memory) : Memory := m.map (fun c => (a + c.1, c.2))

/-- Such an area at an address. -/
def areaMem (a n : Nat) (core : Bool) : Memory := moved a (areaCells n core (areaCrc n core))

theorem crcBit_lt {c : Nat} (h : c < 2 ^ 32) : crcBit c < 2 ^ 32 := by
  unfold crcBit
  split
  · exact Nat.xor_lt_two_pow (by omega) (by decide)
  · omega

theorem crcBits_lt (n : Nat) {c : Nat} (h : c < 2 ^ 32) : crcBits n c < 2 ^ 32 := by
  induction n generalizing c with
  | zero => exact h
  | succ n ih => exact ih (crcBit_lt h)

theorem crc32c_lt (bs : List Byte) : crc32c bs < 2 ^ 32 := by
  have go : ∀ (bs : List Byte) (c : Nat), c < 2 ^ 32 → bs.foldl (fun c b => crcBits 8 (c ^^^ b.toNat)) c < 2 ^ 32 := by
    intro bs
    induction bs with
    | nil => intro c h; exact h
    | cons b bs ih =>
      intro c h
      exact ih _ (crcBits_lt 8 (Nat.xor_lt_two_pow h (lt_trans b.isLt (by decide))))
  exact Nat.xor_lt_two_pow (go bs _ (by decide)) (by decide)

theorem read_add (m : Memory) (a j k : Nat) : m.read a (j + k) = m.read a j + 256 ^ j * m.read (a + j) k := by
  induction j generalizing a with
  | zero => simp [Memory.read]
  | succ j ih =>
    rw [Nat.add_right_comm, Memory.read, Memory.read, ih, Nat.add_assoc a 1 j, Nat.add_comm 1 j, Nat.pow_succ]
    ring

theorem read_gap (m : Memory) (a k : Nat) (h : ∀ c ∈ m, c.1 < a ∨ a + k ≤ c.1) : m.read a k = 0 := by
  induction k generalizing a with
  | zero => rfl
  | succ k ih =>
    have hb : m.byte a = 0 := by
      clear ih
      induction m with
      | nil => rfl
      | cons c m ih =>
        have hc := h c (by simp)
        rw [Memory.byte, if_neg (by omega)]
        exact ih (fun d hd => h d (by simp [hd]))
    rw [Memory.read, hb, ih (a + 1) (fun c hc => by have := h c hc; omega)]
    rfl

/-- The value of such an area. -/
def areaVal (n : Nat) (core : Bool) : Nat := areaHead n core + areaCrc n core * 256 ^ 60

theorem moved_byte (a k : Nat) (m : Memory) : (moved a m).byte (a + k) = m.byte k := by
  induction m with
  | nil => rfl
  | cons c m ih =>
    rw [moved, List.map_cons, Memory.byte, Memory.byte, ← moved, ih]
    simp

theorem moved_read (a k j : Nat) (m : Memory) : (moved a m).read (a + k) j = m.read k j := by
  induction j generalizing k with
  | zero => rfl
  | succ j ih => rw [Memory.read, Memory.read, moved_byte, Nat.add_assoc, ih]

theorem areaHead_lt (n : Nat) (core : Bool) (hn : n < 16) : areaHead n core < 256 ^ 6 := by
  have : b2n core < 2 := by cases core <;> decide
  unfold areaHead
  omega

theorem areaCrc_lt (n : Nat) (core : Bool) : areaCrc n core < 2 ^ 32 := crc32c_lt _

theorem areaCells_read (n c k : Nat) (core : Bool) (hn : n < 16) (hc : c < 2 ^ 32) :
    (areaCells n core c).read 0 (64 + k) = areaHead n core + c * 256 ^ 60 := by
  have hz : (areaCells n core c).read 64 k = 0 := read_gap _ _ _ (by simp [areaCells])
  have h6 : (areaCells n core c).read 0 6 = areaHead n core := by
    have hb : b2n core < 2 := by cases core <;> decide
    simp [Memory.read, Memory.byte, areaCells, Memory.unlisted, areaHead]
    omega
  have hm : (areaCells n core c).read 6 54 = 0 := read_gap _ _ _ (by simp [areaCells])
  have h4 : (areaCells n core c).read 60 4 = c := by
    simp [Memory.read, Memory.byte, areaCells]
    omega
  rw [read_add _ 0 64 k, hz, show (64 : Nat) = 6 + (54 + 4) from rfl, read_add _ 0 6, h6, read_add _ 6 54, hm, h4]
  ring

theorem areaMem_read (a n k : Nat) (core : Bool) (hn : n < 16) : (areaMem a n core).read a (64 + k) = areaVal n core := by
  have := moved_read a 0 (64 + k) (areaCells n core (areaCrc n core))
  rw [Nat.add_zero] at this
  rw [areaMem, this, areaCells_read _ _ _ _ hn (areaCrc_lt n core), areaVal]

theorem areaVal_field (n o k : Nat) (core : Bool) (h : o + k ≤ 60) : fieldB (areaVal n core) o k = fieldB (areaHead n core) o k := by
  obtain ⟨j, hj⟩ := Nat.exists_eq_add_of_le h
  unfold fieldB areaVal
  rw [hj, Nat.pow_add, Nat.pow_add, show areaCrc n core * (256 ^ o * 256 ^ k * 256 ^ j) = 256 ^ o * (areaCrc n core * 256 ^ j * 256 ^ k) by ring,
    Nat.add_mul_div_left _ _ (by positivity), Nat.add_mul_mod_self_right]

theorem areaVal_lt (n : Nat) (core : Bool) (hn : n < 16) : areaVal n core < 256 ^ 64 := by
  have hc := areaCrc_lt n core
  have hh := areaHead_lt n core hn
  rw [areaVal]
  generalize areaCrc n core = c at hc
  generalize areaHead n core = d at hh
  omega

theorem areaVal_above (n o k : Nat) (core : Bool) (hn : n < 16) (h : 64 ≤ o) : fieldB (areaVal n core) o k = 0 := by
  unfold fieldB
  rw [Nat.div_eq_of_lt (lt_of_lt_of_le (areaVal_lt n core hn) (Nat.pow_le_pow_right (by decide) h)), Nat.zero_mod]

theorem areaVal_ok (n : Nat) (core : Bool) (hn : n < 16) : areaOk (areaVal n core) n core = true := by
  have hc := crc32c_lt (bytesOf (areaBytes core) (areaHead n core))
  have hb : b2n core < 2 := by cases core <;> decide
  have hh := areaHead_lt n core hn
  have hl := areaVal_lt n core hn
  have h60 : fieldB (areaVal n core) 60 4 = areaCrc n core := by
    rw [fieldB, areaVal, Nat.add_mul_div_right _ _ (by decide), Nat.div_eq_of_lt (lt_trans hh (by decide)), Nat.zero_add,
      Nat.mod_eq_of_lt (lt_of_lt_of_le (areaCrc_lt n core) (by decide))]
  have hm : areaVal n core % 256 ^ areaBytes core - areaCrc n core * 256 ^ 60 = areaHead n core := by
    rw [Nat.mod_eq_of_lt (lt_of_lt_of_le hl (Nat.pow_le_pow_right (by decide) (by cases core <;> decide))), areaVal, Nat.add_sub_cancel]
  have h0 : fieldB (areaHead n core) 0 4 = 0x56430001 := by unfold fieldB areaHead; omega
  have h4 : fieldB (areaHead n core) 4 1 = n := by unfold fieldB areaHead; omega
  have h5 : fieldB (areaHead n core) 5 1 = b2n core := by unfold fieldB areaHead; omega
  have hA : fieldB (areaHead n core) 0xA 6 = 0 := by unfold fieldB areaHead; omega
  have h18 : fieldB (areaHead n core) 0x18 36 = 0 := by unfold fieldB areaHead; omega
  unfold areaOk
  simp only [areaVal_field _ _ _ _ (show 0 + 4 ≤ 60 by decide), areaVal_field _ _ _ _ (show 4 + 1 ≤ 60 by decide),
    areaVal_field _ _ _ _ (show 5 + 1 ≤ 60 by decide), areaVal_field _ _ _ _ (show 0xA + 6 ≤ 60 by decide),
    areaVal_field _ _ _ _ (show 0x18 + 36 ≤ 60 by decide), areaVal_above _ _ _ _ hn (show 64 ≤ 0xB8 by decide),
    areaVal_above _ _ _ _ hn (show 64 ≤ 0x7C0 by decide), areaVal_above _ _ _ _ hn (show 64 ≤ 0x1900 by decide),
    areaVal_above _ _ _ _ hn (show 64 ≤ 0x2000 by decide), areaVal_above _ _ _ _ hn (show 64 ≤ 0x3050 by decide),
    areaVal_above _ _ _ _ hn (show 64 ≤ 0x30C0 by decide), areaVal_above _ _ _ _ hn (show 64 ≤ 0x3D00 by decide),
    h60, hm, h0, h4, h5, hA, h18]
  simp [areaCrc]

theorem areaVal_slots (n : Nat) (core : Bool) (hn : n < 16) : areaSlots (areaVal n core) = [] := by
  rw [areaSlots, List.map_eq_nil_iff, List.filter_eq_nil_iff]
  intro i hi
  rw [areaVal_above _ _ _ _ hn (by omega)]
  decide

/-- Context 1 of core 0 not live, and its area in the page of core 0. -/
def sLoad : State := { s1 with mem := areaMem 0x10000 1 false }

/-- Where that area stands. -/
def pLoad : List Piece := [.dev 0x10000 0x2000 1, .dev 0x12000 0x1000 65]

theorem pLoad_read : sLoad.readPieces pLoad = areaVal 1 false := by
  have h1 : sLoad.pieceRead (.dev 0x10000 0x2000 1) = areaVal 1 false :=
    areaMem_read 0x10000 1 8128 false (by decide)
  have h2 : sLoad.pieceRead (.dev 0x12000 0x1000 65) = 0 := read_gap _ _ _ (by simp [sLoad, areaMem, moved, areaCells])
  rw [pLoad, State.readPieces, State.readPieces, State.readPieces, h1, h2, Nat.mul_zero, Nat.add_zero, Nat.mul_zero, Nat.add_zero]

theorem pLoad_place : sLoad.place sLoad.self 0x10000 0x3000 0 = .ok (pLoad, [e0]) := by rfl

theorem wit_Loads :
    (1 : Nat) ≠ sLoad.curCtx ∧ (sLoad.ctx sLoad.cur 1).live = false ∧
    (∃ t0, sLoad.bulkRead sLoad.self 0x10000 0x3000 = .ok (areaVal 1 false, t0)) ∧ areaOk (areaVal 1 false) 1 false = true ∧
    bit (fieldB (areaVal 1 false) 0x90 8) 40 = false := by
  refine ⟨by decide +kernel, by decide +kernel, ⟨(sLoad.touchPtr sLoad.self 0x10000 0x3000).chargePieces sLoad.self.part pLoad, ?_⟩,
    areaVal_ok 1 false (by decide), ?_⟩
  · rw [State.bulkRead, pLoad_place]
    simp only [show pLoad.any sLoad.pieceBad = false by decide +kernel, pLoad_read]
    rfl
  · rw [areaVal_above _ _ _ _ (by decide) (by decide)]
    decide

/-- An area of context 0 and its core at 0x200000. -/
def sResume : State := { s0 with mem := areaMem 0x200000 0 true }

theorem sResume_area : sResume.mem.read 0x200000 (areaBytes true) = areaVal 0 true :=
  by
  rw [show areaBytes true = 64 + 116672 from rfl]
  exact areaMem_read 0x200000 0 116672 true (by decide)

theorem wit_Resumes :
    let v := sResume.mem.read 0x200000 (areaBytes true)
    (1 : Nat) < 1536 ∧ sResume.freeCore (fieldB v 8 1) 1 = true ∧ (sResume.core 1).tilesBusy = false ∧
    sResume.banksCome (fieldB v 6 2) 1 v = true ∧ (sResume.core (fieldB v 6 2)).out.filter (fun o => o.base == 0x200000) = [] ∧
    areaOk v 0 true = true := by
  rw [sResume_area]
  dsimp only
  rw [areaVal_field _ _ _ _ (by decide), areaVal_field _ _ _ _ (by decide)]
  refine ⟨by decide, by decide +kernel, by decide +kernel, ?_, by decide +kernel, areaVal_ok 0 true (by decide)⟩
  rw [State.banksCome, areaVal_slots _ _ (by decide)]
  rfl

end Sys2Proof.Tests
end

section
/-!
O11: an instruction under a false guard has only its hints (R15). Here stand the value of a guard, the frame of an update of the
issuing context, and the answer of every instruction whose guard is false.
-/

namespace Sys2Proof.Machine

open Sys2Proof

/-! ### The value of a guard -/

/-- A guard is bit 0 of its predicate after the negate bit (R15). -/
theorem guardTrue_iff (k : Ctx) (h : Hdr) : guardTrue k h = true ↔ (k.rp h.guard).getLsbD 0 ≠ h.neg := bne_iff_ne

/-- The guard p7 is decided by the negate bit alone, as p7 reads all ones (R57). -/
theorem guardTrue_p7 (k : Ctx) (h : Hdr) (h7 : h.guard = 7) : guardTrue k h = !h.neg := by
  simp [guardTrue, Ctx.rp, h7]

/-! ### The frame of the issuing context -/

/-- An update of the issuing context writes no memory, bank or tag. -/
theorem State.setMe_memoryKept (s : State) (k : Ctx) : MemoryKept s (s.setMe k) := ⟨fun _ => rfl, fun _ => rfl, rfl⟩

/-- An update of the issuing context reaches nothing else, where it keeps what stands beside its registers and place. -/
theorem State.setMe_onlyContextChanged (s : State) (k : Ctx) (hk : k.beside = s.me.beside) : OnlyContextChanged s (s.setMe k) := by
  refine ⟨rfl, fun c hc => s.core_setMe_ne k c hc, fun x hx => s.ctx_setMe_ne k x hx, ?_, ?_⟩
  · rw [State.core_setMe_self]
  · rw [State.me_setMe, hk]

/-- Going on writes no register. -/
theorem State.goOn_regsKept (s : State) (h : Hdr) : RegsKept [] s.me (s.goOn h).me := by
  rw [State.goOn, State.me_advance]
  exact ⟨fun _ _ => rfl, fun _ _ => rfl, fun _ _ => rfl⟩

/-- Going on writes no memory. -/
theorem State.goOn_memoryKept (s : State) (h : Hdr) : MemoryKept s (s.goOn h) := s.setMe_memoryKept _

/-- Going on moves the place of the issuing context and nothing else. -/
theorem State.goOn_onlyContextChanged (s : State) (h : Hdr) : OnlyContextChanged s (s.goOn h) :=
  s.setMe_onlyContextChanged _ rfl

/-! ### A false guard -/

/-- `yield` adds its own yield hint under a true guard only, so under a false one it goes on with the hints of its word (R258). -/
theorem execYield_false (h : Hdr) (s : State) (hg : guardTrue s.me h = false) : execYield h s = .next (s.goOn h) := by
  have hh : (if guardTrue s.me h then { h with yield := true } else h) = h := by simp [hg]
  rw [execYield, hh]
  exact issue_false h _ _ s hg

/-- Under a false guard every instruction goes on with its hints: `yield` as it adds none there, and every other one by its issue. -/
theorem exec_false (i : Instr) (h : Hdr) (s : State) (hh : Instr.hdr? i = some h) (hg : guardTrue s.me h = false) :
    exec i s = .next (s.goOn h) := by
  by_cases hy : ∃ k, i = .yield k
  · obtain ⟨k, rfl⟩ := hy
    obtain rfl : k = h := Option.some.inj hh
    exact execYield_false k s hg
  · obtain ⟨body, hbody⟩ := exec_issue i h hh (fun k hk => hy ⟨k, hk⟩)
    rw [hbody]
    exact issue_false h _ body s hg

/-- Settles O11: the guard's value by its definition, the answer by `exec_false`, and the frame of going on. -/
theorem falseGuardOnlyHints : Obligations.FalseGuardOnlyHints := by
  unfold Obligations.FalseGuardOnlyHints
  exact ⟨fun k h => ⟨guardTrue_iff k h, guardTrue_p7 k h⟩, fun i h s hh hg =>
    ⟨exec_false i h s hh hg, s.goOn_regsKept h, s.goOn_memoryKept h, s.goOn_onlyContextChanged h⟩⟩

end Sys2Proof.Machine
end

section
/-!
Integer codes: a code of w bits as a signed number, an integer brought into a type, and the range of a type (R38, R56, R61). The
statements about scalar and vector integer instructions rest on these.
-/

namespace Sys2Proof.Machine

open Sys2Proof

/-! ### Widths -/

theorem ETy.w_pos (t : ETy) : 0 < ETy.w t := by cases t <;> decide

theorem two_pow_double_half {w : Nat} (hw : 0 < w) : 2 ^ w = 2 * 2 ^ (w - 1) := (mul_pow_sub_one hw.ne' 2).symm

/-! ### Signed numbers of w bits -/

/-- A signed number of w bits is the balanced remainder modulo 2^w. -/
theorem sgn_eq_bmod {w : Nat} (hw : 0 < w) (v : Nat) : sgn w v = Int.bmod v (2 ^ w) := by
  rw [sgn, Int.bmod_def, two_pow_double_half hw]
  generalize 2 ^ (w - 1) = m
  split <;> split <;> omega

theorem sgn_bounds {w : Nat} (hw : 0 < w) (v : Nat) : -(2 ^ (w - 1) : Nat) ≤ sgn w v ∧ sgn w v < (2 ^ (w - 1) : Nat) := by
  have hv : v % 2 ^ w < 2 ^ w := Nat.mod_lt _ (Nat.two_pow_pos w)
  rw [sgn]
  rw [two_pow_double_half hw] at hv ⊢
  split <;> omega

/-! ### Numbers modulo 2^w -/

theorem coe_wrapN (w : Nat) (x : Int) : (wrapN w x : Int) = x % (2 ^ w : Nat) :=
  Int.toNat_of_nonneg (Int.emod_nonneg x (by positivity))

theorem wrapN_lt (w : Nat) (x : Int) : wrapN w x < 2 ^ w := by
  have h : (wrapN w x : Int) < (2 ^ w : Nat) := coe_wrapN w x ▸ Int.emod_lt_of_pos x (by positivity)
  exact_mod_cast h

/-- Minus one is all ones. -/
theorem wrapN_neg_one (w : Nat) : wrapN w (-1) = 2 ^ w - 1 := by
  have hp : 0 < 2 ^ w := Nat.two_pow_pos w
  have h : (wrapN w (-1) : Int) = (2 ^ w : Nat) - 1 := by
    rw [coe_wrapN, Int.emod_eq_add_self_emod, Int.emod_eq_of_lt] <;> omega
  omega

theorem sgn_wrapN_eq_bmod {w : Nat} (hw : 0 < w) (x : Int) : sgn w (wrapN w x) = Int.bmod x (2 ^ w) := by
  rw [sgn_eq_bmod hw, coe_wrapN, Int.emod_bmod]

theorem sgn_wrapN {w : Nat} (hw : 0 < w) {x : Int} (h1 : -(2 ^ (w - 1) : Nat) ≤ x) (h2 : x < (2 ^ (w - 1) : Nat)) :
    sgn w (wrapN w x) = x := by
  rw [sgn_wrapN_eq_bmod hw, two_pow_double_half hw]
  exact Int.bmod_eq_of_le (by omega) (by omega)

/-! ### The range of an integer type (R38) -/

theorem intOf_bounds (t : ETy) (c : Nat) : intMin t ≤ intOf t c ∧ intOf t c ≤ intMax t := by
  unfold intMin intMax intOf
  split
  · have := sgn_bounds (ETy.w_pos t) c
    omega
  · have : c % 2 ^ ETy.w t < 2 ^ ETy.w t := Nat.mod_lt _ (Nat.two_pow_pos _)
    omega

theorem intMin_le_zero (t : ETy) : intMin t ≤ 0 := by
  unfold intMin
  split
  · exact neg_nonpos.mpr (Int.natCast_nonneg _)
  · exact le_rfl

theorem intMax_nonneg (t : ETy) : 0 ≤ intMax t := by
  have h1 : 0 < 2 ^ (ETy.w t - 1) := Nat.two_pow_pos _
  have h2 : 0 < 2 ^ ETy.w t := Nat.two_pow_pos _
  unfold intMax
  split <;> omega

/-- A number within the range of a type is what its code stands for. -/
theorem intOf_wrapN (t : ETy) {x : Int} (h1 : intMin t ≤ x) (h2 : x ≤ intMax t) : intOf t (wrapN (ETy.w t) x) = x := by
  unfold intMin at h1
  unfold intMax at h2
  unfold intOf
  split <;> rename_i hs
  · rw [if_pos hs] at h1 h2
    exact sgn_wrapN (ETy.w_pos t) h1 (by omega)
  · rw [if_neg hs] at h1 h2
    rw [Nat.mod_eq_of_lt (wrapN_lt _ x), coe_wrapN]
    exact Int.emod_eq_of_lt h1 (by omega)

/-- What a wrapped number's code stands for differs from the number by a multiple of 2^w. -/
theorem dvd_intOf_wrapN_sub (t : ETy) (x : Int) : (2 ^ ETy.w t : Int) ∣ intOf t (wrapN (ETy.w t) x) - x := by
  have he : (2 ^ ETy.w t : Int) = ((2 ^ ETy.w t : Nat) : Int) := by push_cast; rfl
  rw [he, intOf]
  split
  · rw [sgn_wrapN_eq_bmod (ETy.w_pos t)]
    exact Int.dvd_bmod_sub_self
  · rw [Nat.mod_eq_of_lt (wrapN_lt _ x), coe_wrapN]
    exact Int.dvd_emod_sub_self

theorem intOf_mod (t : ETy) (c : Nat) : intOf t (c % 2 ^ ETy.w t) = intOf t c := by simp [intOf, sgn]

/-- The code that `fitI` gives is that of the number wrapped, or clamped (R38). -/
theorem intResult_fitI (t : ETy) (sat : Bool) (x : Int) : IntResult t sat x (fitI t sat x) := by
  refine ⟨wrapN_lt _ _, ?_⟩
  cases sat with
  | false => exact dvd_intOf_wrapN_sub t x
  | true =>
    have h1 := intMin_le_zero t
    have h2 := intMax_nonneg t
    exact intOf_wrapN t (le_max_left _ _) (max_le (h1.trans h2) (min_le_left _ _))

/-! ### Quotient, remainder and high half (R59, R60) -/

/-- The remainder lies between zero and the dividend, so it is within the type whenever the dividend is. -/
theorem tmod_within {lo hi x : Int} (y : Int) (hlo : lo ≤ 0) (hhi : 0 ≤ hi) (h1 : lo ≤ x) (h2 : x ≤ hi) :
    lo ≤ x.tmod y ∧ x.tmod y ≤ hi := by
  have habs : (x.tmod y).natAbs ≤ x.natAbs := by
    rw [Int.natAbs_tmod]; exact Nat.mod_le _ _
  rcases le_total 0 x with hx | hx
  · have := Int.tmod_nonneg y hx
    omega
  · have := Int.tmod_nonneg y (neg_nonneg.mpr hx)
    rw [Int.neg_tmod] at this
    omega

theorem divI_zero (t : ETy) (sat : Bool) (b : Nat) {c : Nat} (hc : intOf t c = 0) : divI t sat b c = 2 ^ ETy.w t - 1 := by
  simp [divI, hc, wrapN_neg_one]

theorem divI_ne_zero (t : ETy) (sat : Bool) (b : Nat) {c : Nat} (hc : intOf t c ≠ 0) :
    divI t sat b c = fitI t sat (Int.tdiv (intOf t b) (intOf t c)) := by
  simp [divI, hc]

theorem intOf_remI_zero (t : ETy) (b : Nat) {c : Nat} (hc : intOf t c = 0) : intOf t (remI t b c) = intOf t b := by
  simp [remI, hc, intOf_mod]

theorem intOf_remI_ne_zero (t : ETy) (b : Nat) {c : Nat} (hc : intOf t c ≠ 0) :
    intOf t (remI t b c) = intOf t b - intOf t c * Int.tdiv (intOf t b) (intOf t c) := by
  obtain ⟨h1, h2⟩ := intOf_bounds t b
  obtain ⟨h3, h4⟩ := tmod_within (intOf t c) (intMin_le_zero t) (intMax_nonneg t) h1 h2
  rw [Int.tmod_def] at h3 h4
  simp only [remI, hc, if_false, fitI]
  exact intOf_wrapN t h3 h4

theorem divI_lt (t : ETy) (sat : Bool) (b c : Nat) : divI t sat b c < 2 ^ ETy.w t := by
  unfold divI; dsimp only; split <;> exact wrapN_lt _ _

theorem remI_lt (t : ETy) (b c : Nat) : remI t b c < 2 ^ ETy.w t := by
  unfold remI; dsimp only; split
  · exact Nat.mod_lt _ (Nat.two_pow_pos _)
  · exact wrapN_lt _ _

/-- The product of two numbers of a type lies within 2^w times the type's range. -/
theorem intOf_mul_bounds (t : ETy) (b c : Nat) :
    intMin t * (2 ^ ETy.w t : Nat) ≤ intOf t b * intOf t c ∧
      intOf t b * intOf t c < (intMax t + 1) * (2 ^ ETy.w t : Nat) := by
  unfold intMin intMax intOf
  split
  · obtain ⟨hb1, hb2⟩ := sgn_bounds (ETy.w_pos t) b
    obtain ⟨hc1, hc2⟩ := sgn_bounds (ETy.w_pos t) c
    have hm : 0 < 2 ^ (ETy.w t - 1) := Nat.two_pow_pos _
    rw [two_pow_double_half (ETy.w_pos t)]
    generalize 2 ^ (ETy.w t - 1) = m at *
    have habs : |sgn (ETy.w t) b * sgn (ETy.w t) c| ≤ m * m := by
      rw [abs_mul]
      exact mul_le_mul (abs_le.mpr ⟨hb1, hb2.le⟩) (abs_le.mpr ⟨hc1, hc2.le⟩) (abs_nonneg _) (by positivity)
    obtain ⟨h1, h2⟩ := abs_le.mp habs
    have hmm : 0 < (m * m : Int) := by positivity
    push_cast
    constructor <;> nlinarith
  · have hb : b % 2 ^ ETy.w t < 2 ^ ETy.w t := Nat.mod_lt _ (Nat.two_pow_pos _)
    have hc : c % 2 ^ ETy.w t < 2 ^ ETy.w t := Nat.mod_lt _ (Nat.two_pow_pos _)
    have h := Nat.mul_lt_mul'' hb hc
    constructor
    · rw [zero_mul]; positivity
    · rw [sub_add_cancel]; exact_mod_cast h

theorem intOf_mulhI (t : ETy) (b c : Nat) : intOf t (mulhI t b c) = intOf t b * intOf t c / (2 ^ ETy.w t : Nat) := by
  have hp : (0 : Int) < (2 ^ ETy.w t : Nat) := by positivity
  obtain ⟨h1, h2⟩ := intOf_mul_bounds t b c
  exact intOf_wrapN t ((Int.le_ediv_iff_mul_le hp).mpr h1) (Int.le_of_lt_add_one ((Int.ediv_lt_iff_lt_mul hp).mpr h2))

/-! ### Shifts (R61) -/

theorem shlI_of_lt (t : ETy) (b : Nat) {c : Nat} (hc : c < 2 ^ ETy.w t) :
    shlI t b c = if ETy.w t ≤ c then 0 else b * 2 ^ c % 2 ^ ETy.w t := by
  simp only [shlI, Nat.mod_eq_of_lt hc]

theorem shrI_of_lt (t : ETy) {b c : Nat} (hb : b < 2 ^ ETy.w t) (hc : c < 2 ^ ETy.w t) :
    shrI t b c = if ETy.w t ≤ c then 0 else b / 2 ^ c := by
  simp only [shrI, Nat.mod_eq_of_lt hb, Nat.mod_eq_of_lt hc]

/-- A quotient by a positive number stays within a range about zero. -/
theorem ediv_within {x m k : Int} (hk : 0 < k) (hm : 0 ≤ m) (h1 : -m ≤ x) (h2 : x < m) : -m ≤ x / k ∧ x / k < m := by
  have hmk : m * 1 ≤ m * k := mul_le_mul_of_nonneg_left hk hm
  constructor
  · exact (Int.le_ediv_iff_mul_le hk).mpr (by linarith)
  · exact (Int.ediv_lt_iff_lt_mul hk).mpr (by linarith)

/-- Divided by 2^w, a signed number of w bits leaves its sign everywhere. -/
theorem sgn_ediv_two_pow {w : Nat} (hw : 0 < w) (b : Nat) :
    sgn w b / (2 ^ w : Nat) = if sgn w b < 0 then -1 else 0 := by
  obtain ⟨h1, h2⟩ := sgn_bounds hw b
  have hd := two_pow_double_half hw
  split
  · exact Int.ediv_eq_neg_one_of_neg_of_le ‹_› (by omega)
  · exact Int.ediv_eq_zero_of_lt (by omega) (by omega)

theorem sgn_sarI (t : ETy) (b : Nat) {c : Nat} (hc : c < 2 ^ ETy.w t) :
    sgn (ETy.w t) (sarI t b c) = if ETy.w t ≤ c then (if sgn (ETy.w t) b < 0 then -1 else 0)
      else sgn (ETy.w t) b / 2 ^ c := by
  have hw := ETy.w_pos t
  obtain ⟨h1, h2⟩ := sgn_bounds hw b
  have hr : sgn (ETy.w t) (sarI t b c) = sgn (ETy.w t) b / (2 ^ min c (ETy.w t) : Nat) := by
    obtain ⟨h3, h4⟩ := ediv_within (k := (2 ^ min c (ETy.w t) : Nat)) (by positivity) (by positivity) h1 h2
    simp only [sarI, Nat.mod_eq_of_lt hc]
    exact sgn_wrapN hw h3 h4
  rw [hr]
  split <;> rename_i hwc
  · rw [min_eq_right hwc, sgn_ediv_two_pow hw]
  · rw [min_eq_left (not_le.mp hwc).le, Nat.cast_pow, Nat.cast_ofNat]

/-! ### Minimum and maximum (R59) -/

theorem minE_int {t : ETy} (ht : t.isInt = true) (b c : Nat) :
    minE t b c = if intOf t c < intOf t b then c else b := by simp [minE, ht]

theorem maxE_int {t : ETy} (ht : t.isInt = true) (b c : Nat) :
    maxE t b c = if intOf t b < intOf t c then c else b := by simp [maxE, ht]

/-! ### Source codes (R56) -/

theorem codeS_lt (k : Ctx) (t : ETy) (r : SReg) : codeS k t r < 2 ^ ETy.w t := Nat.mod_lt _ (Nat.two_pow_pos _)

theorem srcSI_lt (k : Ctx) (t : ETy) (c : SrcSI) : srcSI k t c < 2 ^ ETy.w t := by
  cases c with
  | s r => exact codeS_lt k t r
  | imm v => exact wrapN_lt _ _

end Sys2Proof.Machine
end

section
/-!
O13, O14, O16, O20: the scalar integer instructions and the scalar compares. First what an issued instruction of each of these shapes
answers, then each statement from the laws of its operation.
-/

namespace Sys2Proof.Machine

open Sys2Proof

/-! ### What the shapes answer -/

/-- An issued instruction of L0 whose effect completes goes on from the state that its effect left. -/
theorem issue_done {h : Hdr} {body : State → Res} {s t : State} (hi : s.issues h {} = true) (hdone : body s = .done t) :
    issue h plain body s = .next (t.goOn h) := by
  rw [issue_issues h plain body s hi, hdone, out_done]

/-- A two-source integer instruction that issues writes its result (R56, R59). -/
theorem issue_intOp (h : Hdr) (x : OpRRI) (f : Nat → Nat → Nat) (s : State) (hi : s.issues h {} = true) :
    issue h plain (intOp x f) s =
      .next (s.wroteS h x.a (widen x.ty (f (codeS s.me x.ty x.b) (srcSI s.me x.ty x.c)))) :=
  issue_done hi rfl

/-- An integer compare that issues writes its condition on the difference of the sources (R57, R63). -/
theorem issue_cmpOp (h : Hdr) (c : Cond) (x : OpCmp) (s : State) (hi : s.issues h {} = true) :
    issue h plain (cmpOp c x) s = .next (s.wroteP h x.p
      (predAll (c.holds (intOf x.ty (codeS s.me x.ty x.b) - intOf x.ty (srcSI s.me x.ty x.c))))) :=
  issue_done hi rfl

/-- A float compare that issues writes its condition (R57, R67). -/
theorem issue_fcmpOp (h : Hdr) (c : Cond) (x : OpFCmp) (s : State) (hi : s.issues h {} = true) :
    issue h plain (fcmpOp c x) s = .next (s.wroteP h x.p
      (predAll (cmpF c x.ty (codeS s.me x.ty x.b) (codeS s.me x.ty x.c)))) :=
  issue_done hi rfl

/-! ### Integer division, bitwise operations and shifts -/

/-- Settles O13: the values of `divI`, `remI` and `mulhI`, each written by its instruction. -/
theorem integerDivision : Obligations.IntegerDivision := by
  unfold Obligations.IntegerDivision
  intro h x s hi _ w b c
  refine ⟨divI x.ty x.sat (codeS s.me x.ty x.b) (srcSI s.me x.ty x.c), remI x.ty (codeS s.me x.ty x.b) (srcSI s.me x.ty x.c),
    mulhI x.ty (codeS s.me x.ty x.b) (srcSI s.me x.ty x.c), divI_lt .., remI_lt .., wrapN_lt _ _,
    fun hc => ⟨divI_zero _ _ _ hc, intOf_remI_zero _ _ hc⟩, fun hc => ⟨?_, intOf_remI_ne_zero _ _ hc⟩, ?_,
    issue_intOp h x _ s hi, issue_intOp h x _ s hi, issue_intOp h x _ s hi⟩
  · rw [divI_ne_zero _ _ _ hc]
    exact intResult_fitI _ _ _
  · rw [intOf_mulhI, Nat.cast_pow, Nat.cast_ofNat]

/-- Settles O14: each instruction writes its operation on the sources, both of which are below 2^w. -/
theorem bitwiseShiftsAndExtremes : Obligations.BitwiseShiftsAndExtremes := by
  unfold Obligations.BitwiseShiftsAndExtremes
  intro h x s hi hint w b c answers
  have hb : b < 2 ^ w := codeS_lt _ _ _
  have hc : c < 2 ^ w := srcSI_lt _ _ _
  have writes (i : Instr) (f : Nat → Nat → Nat) (hexec : exec i s = issue h plain (intOp x f) s) {r : Nat} (hr : f b c = r) :
      answers i r := hr ▸ hexec.trans (issue_intOp h x f s hi)
  exact ⟨writes (.and h x) _ rfl rfl, writes (.or h x) _ rfl rfl, writes (.xor h x) _ rfl rfl,
    writes (.shl h x) _ rfl (shlI_of_lt _ _ hc), writes (.shr h x) _ rfl (shrI_of_lt _ hb hc),
    ⟨sarI x.ty b c, wrapN_lt _ _, writes (.sar h x) _ rfl rfl, sgn_sarI _ _ hc⟩,
    writes (.min h x) _ rfl (minE_int hint _ _), writes (.max h x) _ rfl (maxE_int hint _ _)⟩

/-! ### Compares -/

/-- The sign of a difference is the order of its terms, in each condition. -/
theorem Cond.holds_sub (b c : Int) :
    Cond.holds .eq (b - c) = decide (b = c) ∧ Cond.holds .ne (b - c) = decide (b ≠ c) ∧
    Cond.holds .lt (b - c) = decide (b < c) ∧ Cond.holds .le (b - c) = decide (b ≤ c) ∧
    Cond.holds .gt (b - c) = decide (b > c) ∧ Cond.holds .ge (b - c) = decide (b ≥ c) := by
  simp [Cond.holds, sub_eq_zero, bne, Bool.beq_eq_decide_eq]

/-- Settles O16: each compare writes its condition on the difference of the sources, which is their order. -/
theorem integerCompares : Obligations.IntegerCompares := by
  unfold Obligations.IntegerCompares
  intro h x s hi _ b c flag
  have writes (i : Instr) (k : Cond) (hexec : exec i s = issue h plain (cmpOp k x) s) {f : Bool} (hf : k.holds (b - c) = f) :
      flag i f := hf ▸ hexec.trans (issue_cmpOp h k x s hi)
  obtain ⟨heq, hne, hlt, hle, hgt, hge⟩ := Cond.holds_sub b c
  exact ⟨writes (.cmpEq h x) .eq rfl heq, writes (.cmpNe h x) .ne rfl hne, writes (.cmpLt h x) .lt rfl hlt,
    writes (.cmpLe h x) .le rfl hle, writes (.cmpGt h x) .gt rfl hgt, writes (.cmpGe h x) .ge rfl hge⟩

/-- With a NaN only ne and un hold (R67). -/
theorem cmpF_nan (c : Cond) {t : ETy} {a b : Nat} (hn : (isNaN t a || isNaN t b) = true) :
    cmpF c t a b = (c == .ne || c == .un) := if_pos hn

/-- Without a NaN a condition is one on the order of the values (R67). -/
theorem cmpF_not_nan (c : Cond) {t : ETy} {a b : Nat} (hn : (isNaN t a || isNaN t b) = false) :
    cmpF c t a b = c.holds (cmpV (decodeF t a) (decodeF t b)) := if_neg (by simp [hn])

/-- Each float condition by whether a source is a NaN and by the order of the values (R67). -/
theorem cmpF_cases (t : ETy) (a b : Nat) :
    let nan := isNaN t a || isNaN t b
    let d := cmpV (decodeF t a) (decodeF t b)
    cmpF .eq t a b = (!nan && decide (d = 0)) ∧ cmpF .ne t a b = (nan || decide (d ≠ 0)) ∧
    cmpF .lt t a b = (!nan && decide (d < 0)) ∧ cmpF .le t a b = (!nan && decide (d ≤ 0)) ∧
    cmpF .gt t a b = (!nan && decide (0 < d)) ∧ cmpF .ge t a b = (!nan && decide (0 ≤ d)) ∧ cmpF .un t a b = nan := by
  intro nan d
  cases hn : nan with
  | true => simp [cmpF_nan _ hn]
  | false => simp [cmpF_not_nan _ hn, Cond.holds, d, bne, Bool.beq_eq_decide_eq]

/-- Settles O20: each compare writes its condition, read by `cmpF_cases`. -/
theorem floatCompares : Obligations.FloatCompares := by
  unfold Obligations.FloatCompares
  intro h x s hi b c nan d flag
  have writes (i : Instr) (k : Cond) (hexec : exec i s = issue h plain (fcmpOp k x) s) {f : Bool} (hf : cmpF k x.ty b c = f) :
      flag i f := hf ▸ hexec.trans (issue_fcmpOp h k x s hi)
  obtain ⟨heq, hne, hlt, hle, hgt, hge, hun⟩ := cmpF_cases x.ty b c
  exact ⟨writes (.fcmpEq h x) .eq rfl heq, writes (.fcmpNe h x) .ne rfl hne, writes (.fcmpLt h x) .lt rfl hlt,
    writes (.fcmpLe h x) .le rfl hle, writes (.fcmpGt h x) .gt rfl hgt, writes (.fcmpGe h x) .ge rfl hge,
    writes (.fcmpUn h x) .un rfl hun⟩

end Sys2Proof.Machine
end

section
/-!
O24: lanes of a vector taken from it and put together (R75), and the vector selection, broadcast, shuffle and reduction (R77, R78).
-/

namespace Sys2Proof.Machine

open Sys2Proof

/-! ### Lanes (R75) -/

theorem laneCount_mul_w (t : ETy) : ETy.w t * laneCount t = 512 := by cases t <;> rfl

theorem lane_lt (t : ETy) (v l : Nat) : lane t v l < 2 ^ ETy.w t := Nat.mod_lt _ (Nat.two_pow_pos _)

@[simp] theorem length_lanesOf (t : ETy) (v : Nat) : (lanesOf t v).length = laneCount t := by simp [lanesOf]

@[simp] theorem getElem_lanesOf (t : ETy) (v l : Nat) (hl : l < (lanesOf t v).length) : (lanesOf t v)[l] = lane t v l := by
  simp [lanesOf]

@[simp] theorem lane_mod (t : ETy) (v l : Nat) : lane t v l % 2 ^ ETy.w t = lane t v l := Nat.mod_mod _ _

theorem ofLanes_cons (t : ETy) (x : Nat) (xs : List Nat) : ofLanes t (x :: xs) = x % 2 ^ ETy.w t + 2 ^ ETy.w t * ofLanes t xs := rfl

theorem ofLanes_lt_pow (t : ETy) (xs : List Nat) : ofLanes t xs < 2 ^ (ETy.w t * xs.length) := by
  induction xs with
  | nil => simp [ofLanes]
  | cons x xs ih =>
    have hx : x % 2 ^ ETy.w t < 2 ^ ETy.w t := Nat.mod_lt _ (Nat.two_pow_pos _)
    rw [ofLanes_cons, List.length_cons, Nat.mul_succ, Nat.add_comm (_ * _), pow_add]
    calc x % 2 ^ ETy.w t + 2 ^ ETy.w t * ofLanes t xs
        < 2 ^ ETy.w t + 2 ^ ETy.w t * ofLanes t xs := Nat.add_lt_add_right hx _
      _ = 2 ^ ETy.w t * (ofLanes t xs + 1) := by ring
      _ ≤ 2 ^ ETy.w t * 2 ^ (ETy.w t * xs.length) := Nat.mul_le_mul_left _ ih

/-- A vector of as many lanes as its type has fills its register and no more. -/
theorem ofLanes_lt {t : ETy} {xs : List Nat} (hlen : xs.length = laneCount t) : ofLanes t xs < 2 ^ 512 := by
  have h := ofLanes_lt_pow t xs
  rwa [hlen, laneCount_mul_w] at h

/-- A lane of a vector put together is the value put there, in the type's bits. -/
theorem lane_ofLanes (t : ETy) (xs : List Nat) (l : Nat) (hl : l < xs.length) : lane t (ofLanes t xs) l = xs[l] % 2 ^ ETy.w t := by
  induction xs generalizing l with
  | nil => cases hl
  | cons x xs ih =>
    have hx : x % 2 ^ ETy.w t < 2 ^ ETy.w t := Nat.mod_lt _ (Nat.two_pow_pos _)
    cases l with
    | zero => simp [lane, ofLanes_cons]
    | succ l =>
      have hrest : ofLanes t (x :: xs) / 2 ^ ETy.w t = ofLanes t xs := by
        rw [ofLanes_cons, Nat.add_mul_div_left _ _ (Nat.two_pow_pos _), Nat.div_eq_of_lt hx, Nat.zero_add]
      rw [List.getElem_cons_succ, ← ih l (Nat.lt_of_succ_lt_succ hl), lane, lane, Nat.succ_mul, Nat.add_comm, pow_add,
        ← Nat.div_div_eq_div_mul, hrest]

/-- An instruction that writes a vector of lanes has written a register whose lanes are those. -/
theorem wroteV_lanes {i : Instr} {h : Hdr} {a : VReg} {s : State} {t : ETy} {xs : List Nat} {f : Nat → Nat}
    (hexec : exec i s = .next (s.wroteV h a (ofLanes t xs))) (hlen : xs.length = laneCount t)
    (hf : ∀ l (hl : l < xs.length), xs[l] % 2 ^ ETy.w t = f l) :
    ∃ r, r < 2 ^ 512 ∧ exec i s = .next (s.wroteV h a r) ∧ ∀ l, l < laneCount t → lane t r l = f l :=
  ⟨_, ofLanes_lt hlen, hexec, fun l hl => (lane_ofLanes t xs l (hlen ▸ hl)).trans (hf l (hlen ▸ hl))⟩

/-! ### Selection, broadcast and shuffle (R77) -/

theorem vsel_lanes (h : Hdr) (x : OpVSel) (s : State) (hi : s.issues h {} = true) :
    ∃ r, r < 2 ^ 512 ∧ exec (.vsel h x) s = .next (s.wroteV h x.a r) ∧ ∀ l, l < laneCount x.ty →
      lane x.ty r l = if (s.me.rp x.p).getLsbD l ≠ x.neg then lane x.ty (s.me.rv x.b).toNat l
        else lane x.ty (s.me.rv x.c).toNat l := by
  have hexec : exec (.vsel h x) s = .next (s.wroteV h x.a (ofLanes x.ty
      (((lanesOf x.ty (s.me.rv x.b).toNat).zip (lanesOf x.ty (s.me.rv x.c).toNat)).zipIdx.map
        fun p => if predBit s.me x.p x.neg p.2 then p.1.1 else p.1.2))) := show execVsel h x s = _ from issue_done hi rfl
  refine wroteV_lanes hexec (by simp) fun l hl => ?_
  simp only [List.getElem_map, List.getElem_zipIdx, List.getElem_zip, getElem_lanesOf, Nat.zero_add, predBit, bne_iff_ne]
  split <;> exact lane_mod _ _ _

/-- A vector with one code in every lane. -/
theorem lanes_replicate {i : Instr} {h : Hdr} {a : VReg} {s : State} {t : ETy} {c : Nat}
    (hexec : exec i s = .next (s.wroteV h a (ofLanes t (List.replicate (laneCount t) c)))) :
    ∃ r, r < 2 ^ 512 ∧ exec i s = .next (s.wroteV h a r) ∧ ∀ l, l < laneCount t → lane t r l = c % 2 ^ ETy.w t :=
  wroteV_lanes hexec List.length_replicate fun l hl => by rw [List.getElem_replicate]

theorem vshuf_lanes (h : Hdr) (x : OpVShuf) (s : State) (hi : s.issues h {} = true) :
    ∃ r, r < 2 ^ 512 ∧ exec (.vshuf h x) s = .next (s.wroteV h x.a r) ∧ ∀ l, l < laneCount x.ty →
      lane x.ty r l = if lane x.ty (s.me.rv x.c).toNat l < laneCount x.ty
        then lane x.ty (s.me.rv x.b).toNat (lane x.ty (s.me.rv x.c).toNat l) else 0 := by
  have hexec : exec (.vshuf h x) s = .next (s.wroteV h x.a (ofLanes x.ty ((lanesOf x.ty (s.me.rv x.c).toNat).map
      fun j => if j < laneCount x.ty then lane x.ty (s.me.rv x.b).toNat j else 0))) :=
    show execVshuf h x s = _ from issue_done hi rfl
  refine wroteV_lanes hexec (by simp) fun l hl => ?_
  rw [List.getElem_map, getElem_lanesOf]
  split
  · exact lane_mod _ _ _
  · exact Nat.zero_mod _

/-! ### Reduction (R78) -/

/-- The sum of integer codes is exact, and wrapped or clamped once. -/
theorem intResult_sumE {t : ETy} (ht : t.isInt = true) (r : Rnd) (xs : List Nat) :
    IntResult t r.sat (xs.map (intOf t)).sum (sumE t r xs) := by
  rw [sumE, if_pos ht, List.sum_eq_foldl, List.foldl_map]
  exact intResult_fitI t r.sat _

theorem exec_vred (h : Hdr) (x : OpVRed) (s : State) (hi : s.issues h {} = true) :
    exec (.vred h x) s = .next (s.wroteS h x.a (widen x.ty
      (sumE x.ty (rndOf s.me x.rnd x.sat) (lanesOf x.ty (s.me.rv x.b).toNat)))) :=
  show execVred h x s = _ from issue_done hi rfl

/-- Settles O24: the lanes of each vector written, and the sum of the lanes. -/
theorem vectorMoves : Obligations.VectorMoves := by
  unfold Obligations.VectorMoves
  intro h x y z u s hi _ _ _ _
  refine ⟨vsel_lanes h x s hi, ?_, vshuf_lanes h z s hi, _, exec_vred h u s hi, fun hu => ?_, fun _ => rfl⟩
  · obtain ⟨t, a, b⟩ := y
    cases b with
    | s b => exact lanes_replicate (show execVbcast h _ s = _ from issue_done hi rfl)
    | imm i => exact lanes_replicate (show execVbcast h _ s = _ from issue_done hi rfl)
  · have hsum := intResult_sumE hu (rndOf s.me u.rnd u.sat) (lanesOf u.ty (s.me.rv u.b).toNat)
    rwa [lanesOf, List.map_map] at hsum

end Sys2Proof.Machine
end

section
/-!
O31: the elementwise operations on distribution registers (R118 to R122). First the lanes of a register put together and what a
condensed lane looks like, then the tag drawn afresh, then what a written register leaves alone, then the statement.
-/

namespace Sys2Proof.Machine

open Sys2Proof

/-! ### Lanes (R112) -/

/-- Of blocks of one length put one after another, the block at its place is the one put there. -/
theorem take_drop_flatMap {α β : Type} {f : α → List β} {n : Nat} {xs : List α} (hf : ∀ x ∈ xs, (f x).length = n) (i : Nat)
    (hi : i < xs.length) : ((xs.flatMap f).drop (n * i)).take n = f xs[i] := by
  induction xs generalizing i with
  | nil => cases hi
  | cons x xs ih =>
    have hx : (f x).length = n := hf x List.mem_cons_self
    cases i with
    | zero => rw [List.flatMap_cons, Nat.mul_zero, List.drop_zero, List.take_left' hx, List.getElem_cons_zero]
    | succ i =>
      rw [List.flatMap_cons, Nat.mul_succ, Nat.add_comm, ← List.drop_drop, List.drop_left' hx, List.getElem_cons_succ]
      exact ih (fun y hy => hf y (List.mem_cons_of_mem _ hy)) i (Nat.lt_of_succ_lt_succ hi)

/-- A lane of a register put together from eight lanes of eight points is the lane put there. -/
theorem Dist.lane_flatMap {f : Nat → List (Nat × Nat)} (hf : ∀ l, (f l).length = 8) (tag l : Nat) (hl : l < 8) :
    Dist.lane { pts := (List.range 8).flatMap f, tag := tag } l = f l := by
  have h := take_drop_flatMap (xs := List.range 8) (fun x _ => hf x) l (by simpa using hl)
  rwa [List.getElem_range] at h

/-- Eight lanes of eight points are 64 points. -/
theorem length_lanes {f : Nat → List (Nat × Nat)} (hf : ∀ l, (f l).length = 8) : ((List.range 8).flatMap f).length = 64 := by
  simp [List.length_flatMap, hf]

/-! ### Condensation (R122) -/

@[simp] theorem length_condense (ps : List (Nat × Nat)) : (condense ps).length = 8 := by
  unfold condense
  split
  · exact List.length_replicate
  · simp

/-- Every point of a condensed lane has weight 8,192. -/
theorem weight_condense {ps : List (Nat × Nat)} {p : Nat × Nat} (hp : p ∈ condense ps) : p.2 = 8192 := by
  unfold condense at hp
  split at hp
  · rw [List.eq_of_mem_replicate hp]
  · obtain ⟨k, -, rfl⟩ := List.mem_map.mp hp
    rfl

/-! ### Fresh tags (R119) -/

/-- The counter after m values tried is what the next try starts from. -/
theorem tagTry_succ (c m : Nat) : (c % 255 + 1 + m) % 255 + 1 = (c + (m + 1)) % 255 + 1 := by omega

/-- The search ends on the first value tried that no register holds, if that is among the tries allowed. -/
theorem freshTagFrom_eq {tags : List Nat} {n c m : Nat} (hmn : m < n) (hfree : (c + m) % 255 + 1 ∉ tags)
    (hheld : ∀ j, j < m → (c + j) % 255 + 1 ∈ tags) : freshTagFrom tags n c = (c + m) % 255 + 1 := by
  induction n generalizing c m with
  | zero => cases hmn
  | succ n ih =>
    cases m with
    | zero => exact if_neg fun hc => hfree (List.contains_iff_mem.mp hc)
    | succ m =>
      have hc : tags.contains (c % 255 + 1) = true := List.contains_iff_mem.mpr (hheld 0 m.succ_pos)
      rw [freshTagFrom, if_pos hc, ← tagTry_succ]
      refine ih (Nat.lt_of_succ_lt_succ hmn) (by rwa [tagTry_succ]) fun j hj => ?_
      rw [tagTry_succ]
      exact hheld (j + 1) (Nat.succ_lt_succ hj)

/-- Fewer than 255 registers cannot hold all the values that 255 tries meet. -/
theorem exists_tag_free {tags : List Nat} (hlen : tags.length < 255) (c : Nat) : ∃ m < 255, (c + m) % 255 + 1 ∉ tags := by
  by_contra hall
  push Not at hall
  have hinj : ((List.range 255).map fun m => (c + m) % 255 + 1).Nodup := by
    refine List.nodup_range.map_on fun a ha b hb hab => ?_
    rw [List.mem_range] at ha hb
    omega
  have hsub : ((List.range 255).map fun m => (c + m) % 255 + 1) ⊆ tags := by
    intro t ht
    obtain ⟨m, hm, rfl⟩ := List.mem_map.mp ht
    exact hall m (List.mem_range.mp hm)
  have hle := (List.subperm_of_subset hinj hsub).length_le
  rw [List.length_map, List.length_range] at hle
  omega

/-- Among fewer than 255 tags the search answers the first value after the counter that is none of them. -/
theorem freshTagFrom_first {tags : List Nat} (hlen : tags.length < 255) (c : Nat) :
    ∃ m, freshTagFrom tags 255 c = (c + m) % 255 + 1 ∧ (c + m) % 255 + 1 ∉ tags ∧
      ∀ j, j < m → (c + j) % 255 + 1 ∈ tags := by
  have hex := exists_tag_free hlen c
  obtain ⟨hlt, hfree⟩ := Nat.find_spec hex
  have hheld : ∀ j, j < Nat.find hex → (c + j) % 255 + 1 ∈ tags := fun j hj => by
    by_contra hj'
    exact Nat.find_min hex hj ⟨hj.trans hlt, hj'⟩
  exact ⟨_, freshTagFrom_eq hlt hfree hheld, hfree, hheld⟩

/-- The tags of the eight registers. -/
theorem mem_tags_iff (k : Core) (c : Nat) : c ∈ k.d.toList.map (·.tag) ↔ ∃ d : DReg, k.d[d.toNat].tag = c := by
  simp only [List.mem_map, Vector.mem_toList_iff, Vector.mem_iff_getElem]
  constructor
  · rintro ⟨_, ⟨i, hi, rfl⟩, rfl⟩
    exact ⟨BitVec.ofNat 3 i, by simp [Nat.mod_eq_of_lt hi]⟩
  · rintro ⟨d, rfl⟩
    exact ⟨_, ⟨d.toNat, d.isLt, rfl⟩, rfl⟩

/-- The tag drawn is the counter's next value that no register holds. -/
theorem State.freshTag_fresh (s : State) : freshTagOf s s.freshTag.1 := by
  obtain ⟨m, htag, hfree, hheld⟩ := freshTagFrom_first (tags := s.mycore.d.toList.map (·.tag)) (by simp) s.me.tagCtr
  have htag : s.freshTag.1 = (s.me.tagCtr + m) % 255 + 1 := htag
  simp only [mem_tags_iff] at hfree hheld
  rw [htag]
  exact ⟨by omega, by omega, fun d hd => hfree ⟨d, hd⟩, m, rfl, hheld⟩

/-! ### What a drawn tag and a written register leave alone -/

@[simp] theorem State.mycore_setMycore (s : State) (k : Core) : (s.setMycore k).mycore = k := s.core_setCore_self s.cur k

@[simp] theorem State.me_wd (s : State) (a : DReg) (r : Dist) : (s.wd a r).me = s.me := by
  simp [State.wd, State.me, State.ctx, State.setMycore, State.mycore]

@[simp] theorem State.d_wd_self (s : State) (a : DReg) (r : Dist) : (s.wd a r).mycore.d[a.toNat] = r := by
  simp [State.wd]

@[simp] theorem State.d_wd_ne (s : State) (a d : DReg) (r : Dist) (hd : d ≠ a) :
    (s.wd a r).mycore.d[d.toNat] = s.mycore.d[d.toNat] := by
  have hn : a.toNat ≠ d.toNat := fun e => hd (BitVec.eq_of_toNat_eq e.symm)
  simp [State.wd, hn]

@[simp] theorem State.d_freshTag (s : State) : s.freshTag.2.mycore.d = s.mycore.d := by
  simp [State.freshTag, State.mycore]

@[simp] theorem State.me_freshTag (s : State) : s.freshTag.2.me = { s.me with tagCtr := s.freshTag.1 } := s.me_setMe _

/-! ### The elementwise operations (R118, R120) -/

/-- What R118 makes of a coupling's tag: the common tag and the counter as it stood, or a fresh tag and the counter on it. -/
def coupled (one : Bool) (tag : Nat) (s : State) : Nat × State := if one then (tag, s) else s.freshTag

theorem coupled_one {one : Prop} [Decidable one] (hone : one) (tag : Nat) (s : State) :
    (coupled (decide one) tag s).1 = tag ∧ (coupled (decide one) tag s).2.me.tagCtr = s.me.tagCtr := by
  simp [coupled, hone]

theorem coupled_fresh {one : Prop} [Decidable one] (hone : ¬ one) (tag : Nat) (s : State) :
    (coupled (decide one) tag s).2.me.tagCtr = (coupled (decide one) tag s).1 ∧
      freshTagOf s (coupled (decide one) tag s).1 := by
  simpa [coupled, hone] using s.freshTag_fresh

/-- Whatever the coupling, the state left to write in has the memory and the registers of before. -/
theorem coupled_kept (one : Bool) (tag : Nat) (s : State) :
    (coupled one tag s).2.mem = s.mem ∧ (coupled one tag s).2.banks = s.banks ∧ (coupled one tag s).2.mycore.d = s.mycore.d ∧
      RegsKept [] s.me (coupled one tag s).2.me := by
  cases one with
  | true => exact ⟨rfl, rfl, rfl, s.me.kept_refl.1⟩
  | false =>
    refine ⟨rfl, rfl, s.d_freshTag, ?_⟩
    simp only [coupled, Bool.false_eq_true, if_false, State.me_freshTag]
    exact ⟨fun _ _ => rfl, fun _ _ => rfl, fun _ _ => rfl⟩

/-- An instruction of class 0x7 that issues and whose effect completes goes on from the state that its effect left. -/
theorem issue_control_done {h : Hdr} {body : State → Res} {s t : State} (hi : s.issues h { helper := false } = true)
    (hdone : body s = .done t) : issue h control body s = .next (t.goOn h) := by
  rw [issue_issues h control body s hi, hdone, out_done]

/-- The condensed lanes of an elementwise operation. -/
def coupledPts (f : Nat → Nat → Nat) (one : Bool) (b c : Dist) : List (Nat × Nat) :=
  (List.range 8).flatMap fun l => condense (pairPts f one (b.lane l) (c.lane l))

theorem length_coupledPts (f : Nat → Nat → Nat) (one : Bool) (b c : Dist) : (coupledPts f one b c).length = 64 :=
  length_lanes fun _ => length_condense _

theorem weight_coupledPts {f : Nat → Nat → Nat} {one : Bool} {b c : Dist} : ∀ p ∈ coupledPts f one b c, p.2 = 8192 := by
  intro p hp
  obtain ⟨l, -, hl⟩ := List.mem_flatMap.mp hp
  exact weight_condense hl

theorem lane_coupledPts (f : Nat → Nat → Nat) (one : Bool) (b c : Dist) (tag : Nat) {l : Nat} (hl : l < 8) :
    Dist.lane { pts := coupledPts f one b c, tag := tag } l = condense (pairPts f one (b.lane l) (c.lane l)) :=
  Dist.lane_flatMap (fun _ => length_condense _) tag l hl

/-- What an elementwise operation leaves: the condensed lanes with the coupling's tag in its destination. -/
theorem distOp_eq (f : Nat → Nat → Nat) (x : OpD3) (s : State) :
    let b := s.mycore.d[x.b.toNat]
    let c := s.mycore.d[x.c.toNat]
    let one := decide (b.tag = c.tag ∧ b.tag ≠ 0)
    let r := coupled one b.tag s
    distOp f x s = .done (r.2.wd x.a { pts := coupledPts f one b c, tag := r.1 }) := by
  intro b c one r
  have hone : (b.tag == c.tag && b.tag != 0) = one := by simp [one, bne, Bool.beq_eq_decide_eq]
  simp only [distOp, State.rd, coupledPts, r, coupled, ← hone]
  rfl

/-- Settles O31: the effect by `distOp_eq`, its lanes and weights by condensation, its tag by the coupling. -/
theorem distributionArithmetic : Obligations.DistributionArithmetic := by
  unfold Obligations.DistributionArithmetic
  intro h x s hi b c one m does
  have completes (i : Instr) (f : Nat → Nat → Nat) (hexec : exec i s = issue h control (distOp f x) s) : does i f := by
    obtain ⟨hmem, hbanks, hd, hregs⟩ := coupled_kept (decide one) b.tag s
    refine ⟨_, hexec.trans (issue_control_done hi (distOp_eq f x s)), hmem, hbanks, fun d hda => ?_, ?_, ?_⟩
    · exact (State.d_wd_ne _ _ _ _ hda).trans (congrArg (fun ds => ds[d.toNat]) hd)
    · rwa [State.me_wd]
    · intro r
      have hr : r = _ := State.d_wd_self _ _ _
      rw [hr, State.me_wd]
      exact ⟨length_coupledPts f _ b c, weight_coupledPts, fun l hl => lane_coupledPts f _ b c _ hl,
        fun hone => coupled_one hone b.tag s, fun hone => coupled_fresh hone b.tag s⟩
  exact ⟨completes (.dadd h x) _ rfl, completes (.dsub h x) _ rfl, completes (.dmul h x) _ rfl,
    completes (.dmax h x) _ rfl, completes (.dmin h x) _ rfl⟩

end Sys2Proof.Machine
end

section
/-!
The encoding (R18 to R30). Every operand field, shape and row of the opcode map read back in both directions: what was built parses to
its operands, and what was parsed is what its operands build. So decoding and encoding undo each other on accepted words.
-/

namespace Sys2Proof

/-! ### Parts joined again -/

theorem boolBit_bitB (b : BitVec 1) : boolBit (bitB b) = b := by revert b; decide

theorem joinReg_splitReg (f : BitVec 24) : joinReg (splitReg f) = f := by
  simp only [joinReg, splitReg, boolBit_bitB]
  ext i hi
  simp only [BitVec.getElem_append, BitVec.getElem_extractLsb']
  grind

@[simp] theorem ETy.ofCode_eq_some {c : BitVec 4} {t : ETy} : ETy.ofCode c = some t ↔ c = t.code := by
  refine ⟨fun h => ?_, fun h => h ▸ t.ofCode_code⟩
  have code_of : ∀ c : BitVec 4, ∀ t ∈ ETy.ofCode c, c = t.code := by decide
  exact code_of c t h

theorem RMode.code_ofCode (c : BitVec 2) : (RMode.ofCode c).code = c := by revert c; decide

@[simp] theorem PClass.ofCode_eq_some {c : BitVec 2} {p : PClass} : PClass.ofCode c = some p ↔ c = p.code := by
  refine ⟨fun h => ?_, fun h => h ▸ p.ofCode_code⟩
  have code_of : ∀ c : BitVec 2, ∀ p ∈ PClass.ofCode c, c = p.code := by decide
  exact code_of c p h

@[simp] theorem Scope.ofCode_eq_some {c : BitVec 3} {p : Scope} : Scope.ofCode c = some p ↔ c = p.code := by
  refine ⟨fun h => ?_, fun h => h ▸ p.ofCode_code⟩
  have code_of : ∀ c : BitVec 3, ∀ p ∈ Scope.ofCode c, c = p.code := by decide
  exact code_of c p h

@[simp] theorem Path.ofCode_eq_some {c : BitVec 3} {p : Path} : Path.ofCode c = some p ↔ c = p.code := by
  refine ⟨fun h => ?_, fun h => h ▸ p.ofCode_code⟩
  have code_of : ∀ c : BitVec 3, ∀ p ∈ Path.ofCode c, c = p.code := by decide
  exact code_of c p h

/-! ### Register fields -/

/-- A field in the register format is the field of its parts (R22). -/
theorem regField_splitReg (f : BitVec 24) : f = regField (splitReg f).kind (splitReg f).idx (splitReg f).ty (RMode.ofCode (splitReg f).rnd)
    (splitReg f).sat (splitReg f).neg (splitReg f).low := by
  simp only [regField, RMode.code_ofCode]
  exact (joinReg_splitReg f).symm

@[simp] theorem getDst_eq_some {k : BitVec 3} {f : BitVec 24} {d : DstF} :
    getDst k f = some d ↔ f = dstField k d.idx d.ty d.rnd d.sat d.low := by
  refine ⟨fun h => ?_, fun h => h ▸ getDst_dstField k d.idx d.ty d.rnd d.sat d.low⟩
  simp only [getDst] at h
  split at h
  next hk =>
    split at h
    next t ht =>
      cases h
      rw [ETy.ofCode_eq_some] at ht
      conv => lhs; rw [regField_splitReg f]
      rw [ht, hk.1, hk.2, dstField]
    next => cases h
  next => cases h

@[simp] theorem getSrc_eq_some {k : BitVec 3} {f : BitVec 24} {r : SrcF} : getSrc k f = some r ↔ f = srcField k r.idx r.ty r.neg := by
  refine ⟨fun h => ?_, fun h => h ▸ getSrc_srcField k r.idx r.ty r.neg⟩
  simp only [getSrc] at h
  split at h
  next hk =>
    obtain ⟨hk, hr, hs, hl⟩ := hk
    split at h
    next t ht =>
      cases h
      rw [ETy.ofCode_eq_some] at ht
      conv => lhs; rw [regField_splitReg f]
      rw [ht, hk, hr, hs, hl, srcField]
      rfl
    next => cases h
  next => cases h

@[simp] theorem getDst0_eq_some {k : BitVec 3} {f : BitVec 24} {r : SrcF} :
    getDst0 k f = some r ↔ f = dst0Field k r.idx r.ty ∧ r.neg = false := by
  refine ⟨fun h => ?_, fun h => ?_⟩
  · unfold getDst0 at h
    split at h
    next d hd =>
      split at h
      next hp =>
        cases h
        rw [getDst_eq_some, hp.1, hp.2.1, hp.2.2] at hd
        exact ⟨hd, rfl⟩
      next => cases h
    next => cases h
  · rw [h.1, getDst0_dst0Field, ← h.2]

@[simp] theorem getSrcT_eq_some {k : BitVec 3} {t : ETy} {f : BitVec 24} {i : BitVec 5} : getSrcT k t f = some i ↔ f = srcField k i t false := by
  refine ⟨fun h => ?_, fun h => h ▸ getSrcT_srcField k i t⟩
  unfold getSrcT at h
  split at h
  next r hr =>
    split at h
    next hp =>
      cases h
      rwa [getSrc_eq_some, hp.1, hp.2] at hr
    next => cases h
  next => cases h

@[simp] theorem getDstT_eq_some {k : BitVec 3} {t : ETy} {f : BitVec 24} {i : BitVec 5} : getDstT k t f = some i ↔ f = dst0Field k i t := by
  refine ⟨fun h => ?_, fun h => h ▸ getDstT_dst0Field k i t⟩
  unfold getDstT at h
  split at h
  next r hr =>
    split at h
    next hp =>
      cases h
      rw [getDst0_eq_some, hp] at hr
      exact hr.1
    next => cases h
  next => cases h

@[simp] theorem unused_eq_some {f : BitVec 24} {u : Unit} : unused f = some u ↔ f = 0 := by simp [unused]

@[simp] theorem idx4_eq_some {i : BitVec 5} {j : BitVec 4} : idx4 i = some j ↔ i = wide4 j := by revert i j; decide

@[simp] theorem idx3_eq_some {i : BitVec 5} {j : BitVec 3} : idx3 i = some j ↔ i = wide3 j := by revert i j; decide

/-! ### Immediates and sources of several kinds -/

@[simp] theorem getImm_eq_some {f : BitVec 24} {v : BitVec 21} : getImm f = some v ↔ f = immField v := by
  refine ⟨fun h => ?_, fun h => h ▸ getImm_immField v⟩
  have parts : f.extractLsb' 21 3 ++ f.extractLsb' 0 21 = f := by
    ext i hi
    simp only [BitVec.getElem_append, BitVec.getElem_extractLsb']
    grind
  unfold getImm at h
  split at h
  next hk =>
    cases h
    rw [immField, ← hk]
    exact parts.symm
  next => cases h

@[simp] theorem getSmall_eq_some {n : Nat} (hn : n ≤ 21) {f : BitVec 24} {v : BitVec n} : getSmall n f = some v ↔ f = smallField v := by
  refine ⟨fun h => ?_, fun h => h ▸ getSmall_smallField n hn v⟩
  unfold getSmall at h
  split at h
  next w hw =>
    split at h
    next hlt =>
      cases h
      rw [getImm_eq_some.mp hw, smallField, BitVec.toNat_ofNat, Nat.mod_eq_of_lt hlt, BitVec.ofNat_toNat, BitVec.setWidth_eq]
    next => cases h
  next => cases h

@[simp] theorem getSI_eq_some {t : ETy} {f : BitVec 24} {c : SrcSI} : getSI t f = some c ↔ f = siField t c := by
  refine ⟨fun h => ?_, fun h => h ▸ getSI_siField t c⟩
  unfold getSI at h
  split at h
  next v hv => cases h; exact getImm_eq_some.mp hv
  next =>
    obtain ⟨r, hr, rfl⟩ := Option.map_eq_some_iff.mp h
    exact getSrcT_eq_some.mp hr

@[simp] theorem getVSI_eq_some {t : ETy} {f : BitVec 24} {c : SrcVSI × Bool} :
    getVSI t f = some c ↔ f = vsiField t c.1 c.2 ∧ cnegOk c.1 c.2 = true := by
  refine ⟨fun h => ?_, fun h => h.1 ▸ getVSI_vsiField t c.1 c.2 h.2⟩
  unfold getVSI at h
  split at h
  next v hv => cases h; exact ⟨getImm_eq_some.mp hv, rfl⟩
  next =>
    split at h
    next r hr =>
      split at h
      next ht =>
        obtain ⟨i, hi, rfl⟩ := Option.map_eq_some_iff.mp h
        rw [getSrc_eq_some, ht, idx4_eq_some.mp hi] at hr
        exact ⟨hr, rfl⟩
      next => cases h
    next =>
      split at h
      next r hr =>
        split at h
        next ht =>
          cases h
          rw [getSrc_eq_some, ht] at hr
          exact ⟨hr, rfl⟩
        next => cases h
      next => cases h

@[simp] theorem getSV_eq_some {f : BitVec 24} {c : SrcSV} : getSV f = some c ↔ f = svField c := by
  refine ⟨fun h => ?_, fun h => h ▸ getSV_svField c⟩
  unfold getSV at h
  split at h
  next r hr => cases h; exact getSrcT_eq_some.mp hr
  next =>
    obtain ⟨i, hi, rfl⟩ := Option.map_eq_some_iff.mp h
    obtain ⟨r, hr, hi⟩ := Option.bind_eq_some_iff.mp hi
    rw [getSrcT_eq_some, idx4_eq_some.mp hi] at hr
    exact hr

/-! ### Memory and sweep operands -/

@[simp] theorem getMem_eq_some {f : BitVec 24} {m : MemF} : getMem f = some m ↔ f = memField m.sc m.base m.ty m.disp ∧ m.sc ≠ 7#3 := by
  refine ⟨fun h => ?_, fun h => h.1 ▸ getMem_memField m.sc h.2 m.base m.ty m.disp⟩
  have parts : f.extractLsb' 21 3 ++ f.extractLsb' 16 5 ++ f.extractLsb' 12 4 ++ f.extractLsb' 0 12 = f := by
    ext i hi
    simp only [BitVec.getElem_append, BitVec.getElem_extractLsb']
    grind
  unfold getMem at h
  split at h
  next t ht =>
    split at h
    next => cases h
    next hk =>
      cases h
      rw [memField, ← ETy.ofCode_eq_some.mp ht]
      exact ⟨parts.symm, hk⟩
  next => cases h

@[simp] theorem getMem0_eq_some {t : ETy} {f : BitVec 24} {m : SReg × BitVec 12} : getMem0 t f = some m ↔ f = memField 0 m.1 t m.2 := by
  refine ⟨fun h => ?_, fun h => h ▸ getMem0_memField m.1 t m.2⟩
  unfold getMem0 at h
  split at h
  next r hr =>
    split at h
    next hp =>
      cases h
      rw [getMem_eq_some, hp.1, hp.2] at hr
      exact hr.1
    next => cases h
  next => cases h

@[simp] theorem swField_getSw (f : BitVec 24) : swField (getSw f) = f := by
  simp only [swField, getSw]
  ext i hi
  simp only [BitVec.getElem_append, BitVec.getElem_extractLsb']
  grind

@[simp] theorem getSwC_eq_some {f : BitVec 24} {c : SwC} : getSwC f = some c ↔ f = swCField c.n c.kind c.mid c.rnd c.sat := by
  refine ⟨fun h => ?_, fun h => h ▸ getSwC_swCField c.n c.kind c.mid c.rnd c.sat⟩
  have parts : f.extractLsb' 12 12 ++ f.extractLsb' 9 3 ++ f.extractLsb' 4 5 ++ f.extractLsb' 2 2 ++ f.extractLsb' 1 1 ++
      f.extractLsb' 0 1 = f := by
    ext i hi
    simp only [BitVec.getElem_append, BitVec.getElem_extractLsb']
    grind
  unfold getSwC at h
  split at h
  next h0 =>
    cases h
    rw [swCField, RMode.code_ofCode, boolBit_bitB, ← h0]
    exact parts.symm
  next => cases h

@[simp] theorem getSwSrc_eq_some {c : SwC} {s : SwSrc} : getSwSrc c = some s ↔ c.kind = swSrcKind s ∧ c.mid = swSrcMid s := by
  refine ⟨fun h => ?_, fun h => ?_⟩
  · unfold getSwSrc at h
    split at h
    next hk => cases h; exact ⟨BitVec.eq_of_toNat_eq hk, rfl⟩
    next hk =>
      obtain ⟨i, hi, rfl⟩ := Option.map_eq_some_iff.mp h
      exact ⟨BitVec.eq_of_toNat_eq hk, idx4_eq_some.mp hi⟩
    next hk => cases h; exact ⟨BitVec.eq_of_toNat_eq hk, rfl⟩
    next => cases h
  · cases s <;> simp [getSwSrc, h, swSrcKind, swSrcMid]

/-! ### Fields put together from parts -/

theorem predicate_low_eq {b : BitVec 8} (h : b.extractLsb' 4 4 = 0#4) :
    0#4 ++ boolBit (bitB (b.extractLsb' 3 1)) ++ b.extractLsb' 0 3 = b := by revert b; decide

@[simp] theorem hdrOf_eq_some {b : BitVec 12} {h : Hdr} : hdrOf b = some h ↔ b = hdrBits h := by
  refine ⟨fun hb => ?_, fun hb => hb ▸ hdrOf_hdrBits h⟩
  have parts : b.extractLsb' 11 1 ++ b.extractLsb' 8 3 ++ b.extractLsb' 4 4 ++ b.extractLsb' 3 1 ++ b.extractLsb' 1 2 ++
      b.extractLsb' 0 1 = b := by
    ext i hi
    simp only [BitVec.getElem_append, BitVec.getElem_extractLsb']
    grind
  obtain ⟨p, hp, rfl⟩ := Option.map_eq_some_iff.mp hb
  simp only [hdrBits, boolBit_bitB, ← PClass.ofCode_eq_some.mp hp]
  exact parts.symm

/-- A word is what its class, operation, header and fields are assembled to (R18). -/
theorem assemble_parts (w : BitVec 96) {h : Hdr} (hh : hdrOf (w.extractLsb' 72 12) = some h) :
    assemble (w.extractLsb' 92 4) (w.extractLsb' 84 8) h ⟨w.extractLsb' 48 24, w.extractLsb' 24 24, w.extractLsb' 0 24⟩ = w := by
  rw [assemble, ← hdrOf_eq_some.mp hh]
  ext i hi
  simp only [BitVec.getElem_append, BitVec.getElem_extractLsb']
  grind


theorem scopeField_ofCode {c : BitVec 3} (h : c ≠ 7#3) :
    (match Scope.ofCode c with | none => 0#3 | some sc => sc.code) = c := by revert c; decide

theorem channel_append_identifier (c : BitVec 24) : (c.extractLsb' 16 8 ++ c.extractLsb' 0 16 : BitVec 24) = c := by
  ext i hi
  simp only [BitVec.getElem_append, BitVec.getElem_extractLsb']
  grind

theorem number_append_low (c : BitVec 24) : (c.extractLsb' 12 12 ++ c.extractLsb' 0 12 : BitVec 24) = c := by
  ext i hi
  simp only [BitVec.getElem_append, BitVec.getElem_extractLsb']
  grind

theorem paths_append (c : BitVec 24) : (c.extractLsb' 6 18 ++ c.extractLsb' 3 3 ++ c.extractLsb' 0 3 : BitVec 24) = c := by
  ext i hi
  simp only [BitVec.getElem_append, BitVec.getElem_extractLsb']
  grind

theorem source_type_append (c : BitVec 5) : (c.extractLsb' 4 1 ++ c.extractLsb' 0 4 : BitVec 5) = c := by revert c; decide

/-! ### Operand shapes: what was parsed is what the shape builds -/

theorem buildRRI_of_parse {f : Fields} {x : OpRRI} (h : parseRRI f = some x) : buildRRI x = f := by
  cases f
  simp [parseRRI, Option.bind_eq_some_iff] at h
  grind [buildRRI, dst0Field, dstField]

theorem buildSel_of_parse {f : Fields} {x : OpSel} (h : parseSel f = some x) : buildSel x = f := by
  cases f
  simp [parseSel, Option.bind_eq_some_iff] at h
  grind [buildSel, predicate_low_eq]

theorem buildImm24_of_parse {f : Fields} {x : OpImm} (h : parseImm24 f = some x) : buildImm24 x = f := by
  cases f
  simp [parseImm24, Option.bind_eq_some_iff] at h
  grind [buildImm24, dst0Field, dstField]

theorem buildMov_of_parse {f : Fields} {x : OpMov} (h : parseMov f = some x) : buildMov x = f := by
  cases f
  simp [parseMov, Option.bind_eq_some_iff] at h
  grind [buildMov, dst0Field, dstField]

theorem buildCmp_of_parse {f : Fields} {x : OpCmp} (h : parseCmp f = some x) : buildCmp x = f := by
  cases f
  simp [parseCmp, Option.bind_eq_some_iff] at h
  grind [buildCmp, dst0Field, dstField]

theorem buildPtr_of_parse {f : Fields} {x : OpPtr} (h : parsePtr f = some x) : buildPtr x = f := by
  cases f
  simp [parsePtr, Option.bind_eq_some_iff] at h
  grind [buildPtr, dst0Field, dstField]

theorem buildRR_of_parse {f : Fields} {x : OpRR} (h : parseRR f = some x) : buildRR x = f := by
  cases f
  simp [parseRR, Option.bind_eq_some_iff] at h
  grind [buildRR, dst0Field, dstField]

theorem buildFA_of_parse {f : Fields} {x : OpFA} (h : parseFA f = some x) : buildFA x = f := by
  cases f
  simp [parseFA, Option.bind_eq_some_iff] at h
  grind [buildFA, dst0Field, dstField]

theorem buildFU_of_parse {f : Fields} {x : OpFU} (h : parseFU f = some x) : buildFU x = f := by
  cases f
  simp [parseFU, Option.bind_eq_some_iff] at h
  grind [buildFU, dst0Field, dstField]

theorem buildCvt_of_parse {f : Fields} {x : OpCvt} (h : parseCvt f = some x) : buildCvt x = f := by
  cases f
  simp [parseCvt, Option.bind_eq_some_iff] at h
  grind [buildCvt, dst0Field, dstField]

theorem buildFCmp_of_parse {f : Fields} {x : OpFCmp} (h : parseFCmp f = some x) : buildFCmp x = f := by
  cases f
  simp [parseFCmp, Option.bind_eq_some_iff] at h
  grind [buildFCmp, dst0Field, dstField]

theorem buildROff_of_parse {f : Fields} {x : OpROff} (h : parseROff f = some x) : buildROff x = f := by
  cases f
  simp [parseROff, Option.bind_eq_some_iff] at h
  grind [buildROff, dst0Field, dstField]

theorem buildVA_of_parse {f : Fields} {x : OpVA} (h : parseVA f = some x) : buildVA x = f := by
  cases f
  simp [parseVA, Option.bind_eq_some_iff] at h
  grind [buildVA, dst0Field, dstField]

theorem buildVSel_of_parse {f : Fields} {x : OpVSel} (h : parseVSel f = some x) : buildVSel x = f := by
  cases f
  simp [parseVSel, Option.bind_eq_some_iff] at h
  grind [buildVSel, predicate_low_eq]

theorem buildVShuf_of_parse {f : Fields} {x : OpVShuf} (h : parseVShuf f = some x) : buildVShuf x = f := by
  cases f
  simp [parseVShuf, Option.bind_eq_some_iff] at h
  grind [buildVShuf, dst0Field, dstField]

theorem buildVCvt_of_parse {f : Fields} {x : OpVCvt} (h : parseVCvt f = some x) : buildVCvt x = f := by
  cases f
  simp [parseVCvt, Option.bind_eq_some_iff] at h
  grind [buildVCvt, dst0Field, dstField]

theorem buildVRed_of_parse {f : Fields} {x : OpVRed} (h : parseVRed f = some x) : buildVRed x = f := by
  cases f
  simp [parseVRed, Option.bind_eq_some_iff] at h
  grind [buildVRed, dst0Field, dstField]

theorem buildVBc_of_parse {f : Fields} {x : OpVBc} (h : parseVBc f = some x) : buildVBc x = f := by
  cases f
  simp [parseVBc, Option.bind_eq_some_iff] at h
  grind [buildVBc, dst0Field, dstField]

theorem buildVCmp_of_parse {f : Fields} {x : OpVCmp} (h : parseVCmp f = some x) : buildVCmp x = f := by
  cases f
  simp [parseVCmp, Option.bind_eq_some_iff] at h
  grind [buildVCmp, dst0Field, dstField]

theorem buildVLd_of_parse {f : Fields} {x : OpVMem} (h : parseVLd f = some x) : buildVLd x = f := by
  cases f
  simp [parseVLd, Option.bind_eq_some_iff] at h
  grind [buildVLd, dst0Field, dstField]

theorem buildVSt_of_parse {f : Fields} {x : OpVMem} (h : parseVSt f = some x) : buildVSt x = f := by
  cases f
  simp [parseVSt, Option.bind_eq_some_iff] at h
  grind [buildVSt, dst0Field, dstField]

theorem buildSfn_of_parse {f : Fields} {x : OpSfn} (h : parseSfn f = some x) : buildSfn x = f := by
  cases f
  simp only [parseSfn] at h
  split at h
  next d b u hd hb hc =>
    simp only [getDst_eq_some, getSrc_eq_some, unused_eq_some] at hd hb hc
    grind [buildSfn]
  next =>
    simp [Option.bind_eq_some_iff] at h
    grind [buildSfn]

theorem buildMld_of_parse {f : Fields} {x : OpMld} (h : parseMld f = some x) : buildMld x = f := by
  cases f
  simp [parseMld, Option.bind_eq_some_iff] at h
  grind [buildMld, dst0Field, dstField]

theorem buildMmac_of_parse {f : Fields} {x : OpMmac} (h : parseMmac f = some x) : buildMmac x = f := by
  cases f
  simp [parseMmac, Option.bind_eq_some_iff] at h
  grind [buildMmac, dst0Field, dstField]

theorem buildMmacSp_of_parse {f : Fields} {x : OpMmacSp} (h : parseMmacSp f = some x) : buildMmacSp x = f := by
  cases f
  simp [parseMmacSp, Option.bind_eq_some_iff] at h
  grind [buildMmacSp, dst0Field, dstField]

theorem buildMscale_of_parse {f : Fields} {x : OpMscale} (h : parseMscale f = some x) : buildMscale x = f := by
  cases f
  simp [parseMscale, Option.bind_eq_some_iff] at h
  grind [buildMscale, dst0Field, dstField]

theorem buildMepi_of_parse {f : Fields} {x : OpMepi} (h : parseMepi f = some x) : buildMepi x = f := by
  cases f
  simp [parseMepi, Option.bind_eq_some_iff] at h
  grind [buildMepi, dst0Field, dstField]

theorem buildMstat_of_parse {f : Fields} {x : OpMstat} (h : parseMstat f = some x) : buildMstat x = f := by
  cases f
  simp [parseMstat, Option.bind_eq_some_iff] at h
  grind [buildMstat, dst0Field, dstField]

theorem buildSCode_of_parse {f : Fields} {x : OpSCode} (h : parseSCode f = some x) : buildSCode x = f := by
  cases f
  simp [parseSCode, Option.bind_eq_some_iff] at h
  grind [buildSCode, dst0Field, dstField]

theorem buildDLd_of_parse {f : Fields} {x : OpDMem} (h : parseDLd f = some x) : buildDLd x = f := by
  cases f
  simp [parseDLd, Option.bind_eq_some_iff] at h
  grind [buildDLd, dst0Field, dstField]

theorem buildDSt_of_parse {f : Fields} {x : OpDMem} (h : parseDSt f = some x) : buildDSt x = f := by
  cases f
  simp [parseDSt, Option.bind_eq_some_iff] at h
  grind [buildDSt, dst0Field, dstField]

theorem buildDpt_of_parse {f : Fields} {x : OpDpt} (h : parseDpt f = some x) : buildDpt x = f := by
  cases f
  simp [parseDpt, Option.bind_eq_some_iff] at h
  grind [buildDpt, dst0Field, dstField]

theorem buildD3_of_parse {f : Fields} {x : OpD3} (h : parseD3 f = some x) : buildD3 x = f := by
  cases f
  simp [parseD3, Option.bind_eq_some_iff] at h
  grind [buildD3, dst0Field, dstField]

theorem buildDmix_of_parse {f : Fields} {x : OpDmix} (h : parseDmix f = some x) : buildDmix x = f := by
  cases f
  simp [parseDmix, Option.bind_eq_some_iff] at h
  grind [buildDmix, dst0Field, dstField]

theorem buildDtag_of_parse {f : Fields} {x : OpDtag} (h : parseDtag f = some x) : buildDtag x = f := by
  cases f
  simp [parseDtag, Option.bind_eq_some_iff] at h
  obtain ⟨a, ⟨i, ha, hi⟩, hc, h⟩ := h
  split at h
  next v hv =>
    simp only [getSmall_eq_some (by decide : 8 ≤ 21)] at hv
    grind [buildDtag]
  next =>
    simp at h
    grind [buildDtag]

theorem buildDmom_of_parse {f : Fields} {x : OpDmom} (h : parseDmom f = some x) : buildDmom x = f := by
  cases f
  simp [parseDmom, Option.bind_eq_some_iff] at h
  grind [buildDmom, dst0Field, dstField]

theorem buildDqnt_of_parse {f : Fields} {x : OpDqnt} (h : parseDqnt f = some x) : buildDqnt x = f := by
  cases f
  simp [parseDqnt, Option.bind_eq_some_iff] at h
  grind [buildDqnt, dst0Field, dstField]

theorem buildLd_of_parse {f : Fields} {x : OpLd} (h : parseLd f = some x) : buildLd x = f := by
  cases f
  simp [parseLd, Option.bind_eq_some_iff] at h
  grind [buildLd, dst0Field, dstField]

theorem buildSt_of_parse {f : Fields} {x : OpLd} (h : parseSt f = some x) : buildSt x = f := by
  cases f
  simp [parseSt, Option.bind_eq_some_iff] at h
  grind [buildSt, dst0Field, dstField]

theorem buildLdO_of_parse {f : Fields} {x : OpLdO} (h : parseLdO f = some x) : buildLdO x = f := by
  cases f
  simp [parseLdO, Option.bind_eq_some_iff] at h
  grind [buildLdO, dst0Field, dstField]

theorem buildStO_of_parse {f : Fields} {x : OpLdO} (h : parseStO f = some x) : buildStO x = f := by
  cases f
  simp [parseStO, Option.bind_eq_some_iff] at h
  grind [buildStO, dst0Field, dstField]

theorem buildPref_of_parse {f : Fields} {x : OpPref} (h : parsePref f = some x) : buildPref x = f := by
  cases f
  simp [parsePref, Option.bind_eq_some_iff] at h
  grind [buildPref, dst0Field, dstField]

theorem buildAtm_of_parse {f : Fields} {x : OpAtm} (h : parseAtm f = some x) : buildAtm x = f := by
  cases f
  simp [parseAtm, Option.bind_eq_some_iff] at h
  obtain ⟨d, ha, m, ⟨hb, hsc⟩, r, hc, ⟨hl, hs, ht⟩, rfl⟩ := h
  have := scopeField_ofCode hsc
  grind [buildAtm]

theorem buildFencep_of_parse {f : Fields} {x : OpFencep} (h : parseFencep f = some x) : buildFencep x = f := by
  cases f
  simp [parseFencep, Option.bind_eq_some_iff] at h
  obtain ⟨rfl, rfl, p, hp, q, hq, h0, rfl⟩ := h
  simp only [buildFencep, ← hp, ← hq, ← h0, paths_append]
  rfl

theorem buildSlotC_of_parse {f : Fields} {x : OpSlotC} (h : parseSlotC f = some x) : buildSlotC x = f := by
  cases f
  simp [parseSlotC, Option.bind_eq_some_iff] at h
  grind [buildSlotC, dst0Field, dstField]

theorem buildASlot_of_parse {f : Fields} {x : OpASlot} (h : parseASlot f = some x) : buildASlot x = f := by
  cases f
  simp [parseASlot, Option.bind_eq_some_iff] at h
  grind [buildASlot, dst0Field, dstField]

theorem buildQGo_of_parse {f : Fields} {x : OpQGo} (h : parseQGo f = some x) : buildQGo x = f := by
  cases f
  simp [parseQGo, Option.bind_eq_some_iff] at h
  obtain ⟨q, rfl, b, rfl, rfl⟩ := h
  simp only [buildQGo, channel_append_identifier]
  rfl

theorem buildQPush_of_parse {f : Fields} {x : OpQPush} (h : parseQPush f = some x) : buildQPush x = f := by
  cases f
  simp [parseQPush, Option.bind_eq_some_iff] at h
  grind [buildQPush, dst0Field, dstField]

theorem buildQPop_of_parse {f : Fields} {x : OpQPop} (h : parseQPop f = some x) : buildQPop x = f := by
  cases f
  simp [parseQPop, Option.bind_eq_some_iff] at h
  grind [buildQPop, dst0Field, dstField]

theorem buildHStart_of_parse {f : Fields} {x : OpHStart} (h : parseHStart f = some x) : buildHStart x = f := by
  cases f
  simp [parseHStart, Option.bind_eq_some_iff] at h
  grind [buildHStart, dst0Field, dstField]

theorem buildXsend_of_parse {f : Fields} {x : OpXsend} (h : parseXsend f = some x) : buildXsend x = f := by
  cases f
  simp [parseXsend, Option.bind_eq_some_iff] at h
  grind [buildXsend, dst0Field, dstField]

theorem buildXrecv_of_parse {f : Fields} {x : OpXrecv} (h : parseXrecv f = some x) : buildXrecv x = f := by
  cases f
  simp [parseXrecv, Option.bind_eq_some_iff] at h
  grind [buildXrecv, dst0Field, dstField]

theorem buildRPop_of_parse {f : Fields} {x : OpRPop} (h : parseRPop f = some x) : buildRPop x = f := by
  cases f
  simp [parseRPop, Option.bind_eq_some_iff] at h
  grind [buildRPop, dst0Field, dstField]

theorem buildSys_of_parse {f : Fields} {x : OpSys} (h : parseSys f = some x) : buildSys x = f := by
  cases f
  simp [parseSys, Option.bind_eq_some_iff] at h
  obtain ⟨b, rfl, rfl, h0, rfl⟩ := h
  simp only [buildSys, ← h0, number_append_low]
  rfl

theorem buildBC_of_parse {f : Fields} {x : OpBC} (h : parseBC f = some x) : buildBC x = f := by
  cases f
  simp [parseBC, Option.bind_eq_some_iff] at h
  grind [buildBC, dst0Field, dstField]

theorem buildU_of_parse {f : Fields} {x : Unit} (h : parseU f = some x) : buildU = f := by
  cases f
  simp [parseU, Option.bind_eq_some_iff] at h
  grind [buildU, dst0Field, dstField]

theorem buildOff_of_parse {f : Fields} {x : (BitVec 24)} (h : parseOff f = some x) : buildOff x = f := by
  cases f
  simp [parseOff, Option.bind_eq_some_iff] at h
  grind [buildOff, dst0Field, dstField]

theorem buildCode_of_parse {f : Fields} {x : (BitVec 24)} (h : parseCode f = some x) : buildCode x = f := by
  cases f
  simp [parseCode, Option.bind_eq_some_iff] at h
  grind [buildCode, dst0Field, dstField]

theorem buildB_of_parse {f : Fields} {x : SReg} (h : parseB f = some x) : buildB x = f := by
  cases f
  simp [parseB, Option.bind_eq_some_iff] at h
  grind [buildB, dst0Field, dstField]

theorem buildA_of_parse {f : Fields} {x : SReg} (h : parseA f = some x) : buildA x = f := by
  cases f
  simp [parseA, Option.bind_eq_some_iff] at h
  grind [buildA, dst0Field, dstField]

theorem buildTA_of_parse {f : Fields} {x : AReg} (h : parseTA f = some x) : buildTA x = f := by
  cases f
  simp [parseTA, Option.bind_eq_some_iff] at h
  grind [buildTA, dst0Field, dstField]

theorem buildSlot_of_parse {f : Fields} {x : (BitVec 5)} (h : parseSlot f = some x) : buildSlot x = f := by
  cases f
  simp [parseSlot, Option.bind_eq_some_iff] at h
  grind [buildSlot, dst0Field, dstField]

theorem buildId_of_parse {f : Fields} {x : (BitVec 16)} (h : parseId f = some x) : buildId x = f := by
  cases f
  simp [parseId, Option.bind_eq_some_iff] at h
  obtain ⟨rfl, rfl, h0, rfl⟩ := h
  simp only [buildId, ← h0, channel_append_identifier]
  rfl

theorem buildRPush_of_parse {f : Fields} {x : SrcSV} (h : parseRPush f = some x) : buildRPush x = f := by
  cases f
  simp [parseRPush, Option.bind_eq_some_iff] at h
  grind [buildRPush, dst0Field, dstField]

theorem buildProg_of_parse {f : Fields} {x : SrcDS} (h : parseProg f = some x) : buildProg x = f := by
  cases f
  simp [parseProg, Option.bind_eq_some_iff] at h
  obtain ⟨ha, hc, h⟩ := h
  split at h
  next r hr =>
    simp only [getSrcT_eq_some] at hr
    grind [buildProg]
  next =>
    simp [Option.bind_eq_some_iff] at h
    grind [buildProg]

theorem buildSw_of_parse {t : ETy} {f : Fields} {x : OpSw} (h : parseSw t f = some x) : buildSw x = f ∧ x.ty = t := by
  cases f
  simp [parseSw, Option.bind_eq_some_iff] at h
  grind [buildSw, swField_getSw]

theorem buildSwCvt_of_parse {t : ETy} {f : Fields} {x : OpSwCvt} (h : parseSwCvt t f = some x) : buildSwCvt x = f ∧ x.dty = t := by
  cases f
  simp [parseSwCvt, Option.bind_eq_some_iff] at h
  obtain ⟨c, rfl, t, ht, ⟨hk, h0⟩, rfl⟩ := h
  simp only [buildSwCvt, ← ht, ← h0, hk, source_type_append, swField_getSw]
  exact ⟨rfl, trivial⟩

theorem buildSwV_of_parse {t : ETy} {f : Fields} {x : OpSwV} (h : parseSwV t f = some x) : buildSwV x = f ∧ x.ty = t := by
  cases f
  simp [parseSwV, Option.bind_eq_some_iff] at h
  grind [buildSwV, swField_getSw]

theorem buildSwRed_of_parse {t : ETy} {f : Fields} {x : OpSwRed} (h : parseSwRed t f = some x) : buildSwRed x = f ∧ x.ty = t := by
  cases f
  simp [parseSwRed, Option.bind_eq_some_iff] at h
  grind [buildSwRed, swField_getSw]

theorem buildSwCopy_of_parse {t : ETy} {f : Fields} {x : OpSwCopy} (h : parseSwCopy t f = some x) : buildSwCopy x = f ∧ x.ty = t := by
  cases f
  simp [parseSwCopy, Option.bind_eq_some_iff] at h
  grind [buildSwCopy, swField_getSw]

/-! ### The opcode map read back -/

/-- A shape that was parsed for an instruction is the shape that the instruction's word is built with. -/
theorem encoded_of_map {α : Type} {p : Option α} {make : α → Instr} {build : α → Fields} {cls : BitVec 4} {op : BitVec 8} {h : Hdr}
    {f : Fields} {i : Instr} (hi : p.map make = some i) (hb : ∀ {x}, p = some x → build x = f)
    (he : ∀ x, encode (make x) = some (assemble cls op h (build x)) ∧ (make x).isEvent = false) :
    encode i = some (assemble cls op h f) ∧ i.isEvent = false := by
  obtain ⟨x, hx, rfl⟩ := Option.map_eq_some_iff.mp hi
  exact hb hx ▸ he x

theorem instrOf0_encoded {op : Nat} {h : Hdr} {f : Fields} {i : Instr} (hi : instrOf0 op h f = some i) :
    encode i = some (assemble 0#4 (BitVec.ofNat 8 op) h f) ∧ i.isEvent = false := by
  unfold instrOf0 at hi
  split at hi
  case h_1 | h_2 | h_3 | h_4 | h_5 | h_6 | h_7 | h_8 | h_9 | h_10 | h_11 | h_12 | h_13 | h_14 => exact encoded_of_map hi buildRRI_of_parse (fun _ => ⟨rfl, rfl⟩)
  case h_15 => exact encoded_of_map hi buildSel_of_parse (fun _ => ⟨rfl, rfl⟩)
  case h_16 | h_17 => exact encoded_of_map hi buildImm24_of_parse (fun _ => ⟨rfl, rfl⟩)
  case h_18 => exact encoded_of_map hi buildMov_of_parse (fun _ => ⟨rfl, rfl⟩)
  case h_19 | h_20 | h_21 | h_22 | h_23 | h_24 => exact encoded_of_map hi buildCmp_of_parse (fun _ => ⟨rfl, rfl⟩)
  case h_25 | h_29 => exact encoded_of_map hi buildPtr_of_parse (fun _ => ⟨rfl, rfl⟩)
  case h_26 | h_27 | h_28 => exact encoded_of_map hi buildRR_of_parse (fun _ => ⟨rfl, rfl⟩)
  case h_30 => cases hi

theorem instrOf1_encoded {op : Nat} {h : Hdr} {f : Fields} {i : Instr} (hi : instrOf1 op h f = some i) :
    encode i = some (assemble 1#4 (BitVec.ofNat 8 op) h f) ∧ i.isEvent = false := by
  unfold instrOf1 at hi
  split at hi
  case h_1 | h_2 | h_3 | h_4 | h_5 | h_7 | h_8 => exact encoded_of_map hi buildFA_of_parse (fun _ => ⟨rfl, rfl⟩)
  case h_6 => exact encoded_of_map hi buildFU_of_parse (fun _ => ⟨rfl, rfl⟩)
  case h_9 => exact encoded_of_map hi buildCvt_of_parse (fun _ => ⟨rfl, rfl⟩)
  case h_10 | h_11 | h_12 | h_13 | h_14 | h_15 | h_16 => exact encoded_of_map hi buildFCmp_of_parse (fun _ => ⟨rfl, rfl⟩)
  case h_17 => cases hi

theorem instrOf2_encoded {op : Nat} {h : Hdr} {f : Fields} {i : Instr} (hi : instrOf2 op h f = some i) :
    encode i = some (assemble 2#4 (BitVec.ofNat 8 op) h f) ∧ i.isEvent = false := by
  unfold instrOf2 at hi
  split at hi
  case h_1 | h_9 => exact encoded_of_map (build := fun _ => buildU) hi buildU_of_parse (fun _ => ⟨rfl, rfl⟩)
  case h_2 => exact encoded_of_map hi buildOff_of_parse (fun _ => ⟨rfl, rfl⟩)
  case h_3 | h_4 | h_5 | h_8 => exact encoded_of_map hi buildROff_of_parse (fun _ => ⟨rfl, rfl⟩)
  case h_6 | h_7 => exact encoded_of_map hi buildB_of_parse (fun _ => ⟨rfl, rfl⟩)
  case h_10 => exact encoded_of_map hi buildCode_of_parse (fun _ => ⟨rfl, rfl⟩)
  case h_11 => cases hi

theorem instrOf3_encoded {op : Nat} {h : Hdr} {f : Fields} {i : Instr} (hi : instrOf3 op h f = some i) :
    encode i = some (assemble 3#4 (BitVec.ofNat 8 op) h f) ∧ i.isEvent = false := by
  unfold instrOf3 at hi
  split at hi
  case h_1 | h_2 | h_3 | h_4 | h_5 | h_6 | h_7 | h_8 | h_9 => exact encoded_of_map hi buildVA_of_parse (fun _ => ⟨rfl, rfl⟩)
  case h_10 => exact encoded_of_map hi buildVSel_of_parse (fun _ => ⟨rfl, rfl⟩)
  case h_11 => exact encoded_of_map hi buildVCvt_of_parse (fun _ => ⟨rfl, rfl⟩)
  case h_12 => exact encoded_of_map hi buildVRed_of_parse (fun _ => ⟨rfl, rfl⟩)
  case h_13 => exact encoded_of_map hi buildVBc_of_parse (fun _ => ⟨rfl, rfl⟩)
  case h_14 => exact encoded_of_map hi buildVShuf_of_parse (fun _ => ⟨rfl, rfl⟩)
  case h_15 | h_16 | h_17 | h_18 | h_19 | h_20 | h_21 => exact encoded_of_map hi buildVCmp_of_parse (fun _ => ⟨rfl, rfl⟩)
  case h_22 => exact encoded_of_map hi buildVLd_of_parse (fun _ => ⟨rfl, rfl⟩)
  case h_23 => exact encoded_of_map hi buildVSt_of_parse (fun _ => ⟨rfl, rfl⟩)
  case h_24 => cases hi

theorem instrOf5_encoded {op : Nat} {h : Hdr} {f : Fields} {i : Instr} (hi : instrOf5 op h f = some i) :
    encode i = some (assemble 5#4 (BitVec.ofNat 8 op) h f) ∧ i.isEvent = false := by
  unfold instrOf5 at hi
  split at hi
  case h_1 | h_2 | h_3 | h_4 | h_5 | h_6 | h_7 | h_8 => exact encoded_of_map hi buildSfn_of_parse (fun _ => ⟨rfl, rfl⟩)
  case h_9 => cases hi

theorem instrOf6_encoded {op : Nat} {h : Hdr} {f : Fields} {i : Instr} (hi : instrOf6 op h f = some i) :
    encode i = some (assemble 6#4 (BitVec.ofNat 8 op) h f) ∧ i.isEvent = false := by
  unfold instrOf6 at hi
  split at hi
  case h_1 | h_2 => exact encoded_of_map hi buildMld_of_parse (fun _ => ⟨rfl, rfl⟩)
  case h_3 | h_8 => exact encoded_of_map hi buildTA_of_parse (fun _ => ⟨rfl, rfl⟩)
  case h_4 => exact encoded_of_map hi buildMmac_of_parse (fun _ => ⟨rfl, rfl⟩)
  case h_5 => exact encoded_of_map hi buildMmacSp_of_parse (fun _ => ⟨rfl, rfl⟩)
  case h_6 => exact encoded_of_map hi buildMscale_of_parse (fun _ => ⟨rfl, rfl⟩)
  case h_7 => exact encoded_of_map hi buildMepi_of_parse (fun _ => ⟨rfl, rfl⟩)
  case h_9 => exact encoded_of_map hi buildMstat_of_parse (fun _ => ⟨rfl, rfl⟩)
  case h_10 => exact encoded_of_map hi buildB_of_parse (fun _ => ⟨rfl, rfl⟩)
  case h_11 => exact encoded_of_map hi buildSCode_of_parse (fun _ => ⟨rfl, rfl⟩)
  case h_12 => cases hi

theorem instrOf7_encoded {op : Nat} {h : Hdr} {f : Fields} {i : Instr} (hi : instrOf7 op h f = some i) :
    encode i = some (assemble 7#4 (BitVec.ofNat 8 op) h f) ∧ i.isEvent = false := by
  unfold instrOf7 at hi
  split at hi
  case h_1 => exact encoded_of_map hi buildDLd_of_parse (fun _ => ⟨rfl, rfl⟩)
  case h_2 => exact encoded_of_map hi buildDSt_of_parse (fun _ => ⟨rfl, rfl⟩)
  case h_3 => exact encoded_of_map hi buildDpt_of_parse (fun _ => ⟨rfl, rfl⟩)
  case h_4 | h_5 | h_6 | h_7 | h_8 => exact encoded_of_map hi buildD3_of_parse (fun _ => ⟨rfl, rfl⟩)
  case h_9 => exact encoded_of_map hi buildDmix_of_parse (fun _ => ⟨rfl, rfl⟩)
  case h_10 => exact encoded_of_map hi buildDtag_of_parse (fun _ => ⟨rfl, rfl⟩)
  case h_11 => exact encoded_of_map hi buildDmom_of_parse (fun _ => ⟨rfl, rfl⟩)
  case h_12 => exact encoded_of_map hi buildDqnt_of_parse (fun _ => ⟨rfl, rfl⟩)
  case h_13 => cases hi

theorem instrOf8_encoded {op : Nat} {h : Hdr} {f : Fields} {i : Instr} (hi : instrOf8 op h f = some i) :
    encode i = some (assemble 8#4 (BitVec.ofNat 8 op) h f) ∧ i.isEvent = false := by
  unfold instrOf8 at hi
  split at hi
  case h_1 | h_5 | h_9 => exact encoded_of_map hi buildLd_of_parse (fun _ => ⟨rfl, rfl⟩)
  case h_2 | h_6 | h_10 => exact encoded_of_map hi buildLdO_of_parse (fun _ => ⟨rfl, rfl⟩)
  case h_3 | h_7 | h_11 => exact encoded_of_map hi buildSt_of_parse (fun _ => ⟨rfl, rfl⟩)
  case h_4 | h_8 | h_12 => exact encoded_of_map hi buildStO_of_parse (fun _ => ⟨rfl, rfl⟩)
  case h_13 => exact encoded_of_map hi buildPref_of_parse (fun _ => ⟨rfl, rfl⟩)
  case h_14 => cases hi

theorem instrOf9_encoded {op : Nat} {h : Hdr} {f : Fields} {i : Instr} (hi : instrOf9 op h f = some i) :
    encode i = some (assemble 9#4 (BitVec.ofNat 8 op) h f) ∧ i.isEvent = false := by
  unfold instrOf9 at hi
  split at hi
  case h_1 | h_2 | h_3 | h_4 | h_5 | h_6 | h_7 | h_8 | h_9 | h_10 => exact encoded_of_map hi buildAtm_of_parse (fun _ => ⟨rfl, rfl⟩)
  case h_11 => cases hi

theorem instrOf10_encoded {op : Nat} {h : Hdr} {f : Fields} {i : Instr} (hi : instrOf10 op h f = some i) :
    encode i = some (assemble 10#4 (BitVec.ofNat 8 op) h f) ∧ i.isEvent = false := by
  unfold instrOf10 at hi
  split at hi
  case h_1 | h_2 | h_3 | h_4 | h_5 | h_6 => exact encoded_of_map (build := fun _ => buildU) hi buildU_of_parse (fun _ => ⟨rfl, rfl⟩)
  case h_7 => exact encoded_of_map hi buildFencep_of_parse (fun _ => ⟨rfl, rfl⟩)
  case h_8 | h_12 => exact encoded_of_map hi buildA_of_parse (fun _ => ⟨rfl, rfl⟩)
  case h_9 | h_10 | h_11 | h_13 | h_14 => exact encoded_of_map hi buildB_of_parse (fun _ => ⟨rfl, rfl⟩)
  case h_15 => cases hi

theorem instrOf11_encoded {op : Nat} {h : Hdr} {f : Fields} {i : Instr} (hi : instrOf11 op h f = some i) :
    encode i = some (assemble 11#4 (BitVec.ofNat 8 op) h f) ∧ i.isEvent = false := by
  unfold instrOf11 at hi
  split at hi
  case h_1 | h_5 => exact encoded_of_map hi buildSlotC_of_parse (fun _ => ⟨rfl, rfl⟩)
  case h_2 => exact encoded_of_map hi buildSlot_of_parse (fun _ => ⟨rfl, rfl⟩)
  case h_3 => exact encoded_of_map hi buildASlot_of_parse (fun _ => ⟨rfl, rfl⟩)
  case h_4 => exact encoded_of_map hi buildSCode_of_parse (fun _ => ⟨rfl, rfl⟩)
  case h_6 => exact encoded_of_map hi buildB_of_parse (fun _ => ⟨rfl, rfl⟩)
  case h_7 => cases hi

theorem instrOf12_encoded {op : Nat} {h : Hdr} {f : Fields} {i : Instr} (hi : instrOf12 op h f = some i) :
    encode i = some (assemble 12#4 (BitVec.ofNat 8 op) h f) ∧ i.isEvent = false := by
  unfold instrOf12 at hi
  split at hi
  case h_1 | h_3 | h_4 | h_5 => exact encoded_of_map hi buildQGo_of_parse (fun _ => ⟨rfl, rfl⟩)
  case h_2 => exact encoded_of_map hi buildId_of_parse (fun _ => ⟨rfl, rfl⟩)
  case h_6 => exact encoded_of_map hi buildQPush_of_parse (fun _ => ⟨rfl, rfl⟩)
  case h_7 => exact encoded_of_map hi buildQPop_of_parse (fun _ => ⟨rfl, rfl⟩)
  case h_8 => exact encoded_of_map (build := fun _ => buildU) hi buildU_of_parse (fun _ => ⟨rfl, rfl⟩)
  case h_9 => cases hi

theorem instrOf13_encoded {op : Nat} {h : Hdr} {f : Fields} {i : Instr} (hi : instrOf13 op h f = some i) :
    encode i = some (assemble 13#4 (BitVec.ofNat 8 op) h f) ∧ i.isEvent = false := by
  unfold instrOf13 at hi
  split at hi
  case h_1 => exact encoded_of_map hi buildHStart_of_parse (fun _ => ⟨rfl, rfl⟩)
  case h_2 | h_10 | h_15 | h_17 => exact encoded_of_map (build := fun _ => buildU) hi buildU_of_parse (fun _ => ⟨rfl, rfl⟩)
  case h_3 | h_5 | h_6 | h_7 | h_8 | h_9 => exact encoded_of_map hi buildB_of_parse (fun _ => ⟨rfl, rfl⟩)
  case h_4 => exact encoded_of_map hi buildRR_of_parse (fun _ => ⟨rfl, rfl⟩)
  case h_11 => exact encoded_of_map hi buildXsend_of_parse (fun _ => ⟨rfl, rfl⟩)
  case h_12 => exact encoded_of_map hi buildXrecv_of_parse (fun _ => ⟨rfl, rfl⟩)
  case h_13 => exact encoded_of_map hi buildRPush_of_parse (fun _ => ⟨rfl, rfl⟩)
  case h_14 => exact encoded_of_map hi buildRPop_of_parse (fun _ => ⟨rfl, rfl⟩)
  case h_16 => exact encoded_of_map hi buildProg_of_parse (fun _ => ⟨rfl, rfl⟩)
  case h_18 => cases hi

theorem instrOf14_encoded {op : Nat} {h : Hdr} {f : Fields} {i : Instr} (hi : instrOf14 op h f = some i) :
    encode i = some (assemble 14#4 (BitVec.ofNat 8 op) h f) ∧ i.isEvent = false := by
  unfold instrOf14 at hi
  split at hi
  case h_1 | h_2 => exact encoded_of_map hi buildSys_of_parse (fun _ => ⟨rfl, rfl⟩)
  case h_3 => exact encoded_of_map hi buildB_of_parse (fun _ => ⟨rfl, rfl⟩)
  case h_4 | h_5 | h_6 | h_11 | h_12 => exact encoded_of_map hi buildBC_of_parse (fun _ => ⟨rfl, rfl⟩)
  case h_7 | h_9 => exact encoded_of_map (build := fun _ => buildU) hi buildU_of_parse (fun _ => ⟨rfl, rfl⟩)
  case h_8 => exact encoded_of_map hi buildCode_of_parse (fun _ => ⟨rfl, rfl⟩)
  case h_10 => exact encoded_of_map hi buildRR_of_parse (fun _ => ⟨rfl, rfl⟩)
  case h_13 => cases hi

/-- A sweep's operation field is its operation above its element type (R27). -/
theorem sweepOp_eq {n op : Nat} {t : ETy} (ht : ETy.ofIdx (op % 16) = some t) (hn : op / 16 = n) (hop : op < 256) :
    BitVec.ofNat 8 op = BitVec.ofNat 4 n ++ t.code := by
  have hc : BitVec.ofNat 4 (op % 16) = t.code := ETy.ofCode_eq_some.mp (by simpa [ETy.ofCode] using ht)
  apply BitVec.eq_of_toNat_eq
  rw [← hc, BitVec.toNat_append, ← Nat.shiftLeft_add_eq_or_of_lt (BitVec.isLt _), Nat.shiftLeft_eq]
  simp only [BitVec.toNat_ofNat]
  omega

theorem sweep_encoded_of_map {α : Type} {p : Option α} {make : α → Instr} {build : α → Fields} {ty : α → ETy} {n op : Nat} {t : ETy}
    {h : Hdr} {f : Fields} {i : Instr} (hi : p.map make = some i) (hb : ∀ {x}, p = some x → build x = f ∧ ty x = t)
    (ht : ETy.ofIdx (op % 16) = some t) (hn : op / 16 = n) (hop : op < 256)
    (he : ∀ x, encode (make x) = some (assemble 4#4 (BitVec.ofNat 4 n ++ (ty x).code) h (build x)) ∧ (make x).isEvent = false) :
    encode i = some (assemble 4#4 (BitVec.ofNat 8 op) h f) ∧ i.isEvent = false := by
  obtain ⟨x, hx, rfl⟩ := Option.map_eq_some_iff.mp hi
  obtain ⟨hf, rfl⟩ := hb hx
  rw [sweepOp_eq ht hn hop]
  exact hf ▸ he x

theorem instrOf4_encoded {op : Nat} (hop : op < 256) {h : Hdr} {f : Fields} {i : Instr} (hi : instrOf4 op h f = some i) :
    encode i = some (assemble 4#4 (BitVec.ofNat 8 op) h f) ∧ i.isEvent = false := by
  unfold instrOf4 at hi
  split at hi
  next => cases hi
  next t ht =>
    split at hi
    case h_1 | h_2 | h_3 | h_4 | h_5 | h_6 =>
      exact sweep_encoded_of_map (ty := OpSw.ty) hi buildSw_of_parse ht ‹_› hop (fun _ => ⟨rfl, rfl⟩)
    case h_7 => exact sweep_encoded_of_map (ty := OpSwCvt.dty) hi buildSwCvt_of_parse ht ‹_› hop (fun _ => ⟨rfl, rfl⟩)
    case h_8 => exact sweep_encoded_of_map (ty := OpSwV.ty) hi buildSwV_of_parse ht ‹_› hop (fun _ => ⟨rfl, rfl⟩)
    case h_9 => exact sweep_encoded_of_map (ty := OpSwRed.ty) hi buildSwRed_of_parse ht ‹_› hop (fun _ => ⟨rfl, rfl⟩)
    case h_10 => exact sweep_encoded_of_map (ty := OpSwCopy.ty) hi buildSwCopy_of_parse ht ‹_› hop (fun _ => ⟨rfl, rfl⟩)
    case h_11 => cases hi

theorem instrOf_encoded {cls : BitVec 4} {op : BitVec 8} {h : Hdr} {f : Fields} {i : Instr}
    (hi : instrOf cls.toNat op.toNat h f = some i) : encode i = some (assemble cls op h f) ∧ i.isEvent = false := by
  have hop : BitVec.ofNat 8 op.toNat = op := by simp
  have hcls : ∀ n, cls.toNat = n → cls = BitVec.ofNat 4 n := fun n hn => by simp [← hn]
  unfold instrOf at hi
  split at hi

  case h_1 hc => rw [hcls 0 hc, ← hop]; exact instrOf0_encoded hi
  case h_2 hc => rw [hcls 1 hc, ← hop]; exact instrOf1_encoded hi
  case h_3 hc => rw [hcls 2 hc, ← hop]; exact instrOf2_encoded hi
  case h_4 hc => rw [hcls 3 hc, ← hop]; exact instrOf3_encoded hi
  case h_5 hc => rw [hcls 4 hc, ← hop]; exact instrOf4_encoded op.isLt hi
  case h_6 hc => rw [hcls 5 hc, ← hop]; exact instrOf5_encoded hi
  case h_7 hc => rw [hcls 6 hc, ← hop]; exact instrOf6_encoded hi
  case h_8 hc => rw [hcls 7 hc, ← hop]; exact instrOf7_encoded hi
  case h_9 hc => rw [hcls 8 hc, ← hop]; exact instrOf8_encoded hi
  case h_10 hc => rw [hcls 9 hc, ← hop]; exact instrOf9_encoded hi
  case h_11 hc => rw [hcls 10 hc, ← hop]; exact instrOf10_encoded hi
  case h_12 hc => rw [hcls 11 hc, ← hop]; exact instrOf11_encoded hi
  case h_13 hc => rw [hcls 12 hc, ← hop]; exact instrOf12_encoded hi
  case h_14 hc => rw [hcls 13 hc, ← hop]; exact instrOf13_encoded hi
  case h_15 hc => rw [hcls 14 hc, ← hop]; exact instrOf14_encoded hi
  case h_16 => cases hi

/-- Settles O6: the parts of an accepted word are put together again by the encoder. -/
theorem acceptedWordsAreCanonical : Obligations.AcceptedWordsAreCanonical := by
  intro i w hd
  simp only [decode] at hd
  split at hd
  next => cases hd
  next h hh =>
    split at hd
    next j hj =>
      split at hd
      next hwf =>
        cases hd
        obtain ⟨he, hev⟩ := instrOf_encoded hj
        exact ⟨hwf, hev, he.trans (congrArg some (assemble_parts w hh))⟩
      next => cases hd
    next => cases hd

/-! ### Decoding what was encoded -/

/-- An assembled word decodes to the well-formed instruction that its fields parse to. -/
theorem assembled_decodes {i : Instr} {cls : BitVec 4} {op : BitVec 8} {h : Hdr} {f : Fields} (he : encode i = some (assemble cls op h f))
    (hi : instrOf cls.toNat op.toNat h f = some i) (hwf : i.wf = true) : ∃ w, encode i = some w ∧ decode w = some i :=
  ⟨_, he, by simp only [decode_assemble, hi, hwf, if_true]⟩

@[simp] theorem ETy.ofIdx_code (t : ETy) : ETy.ofIdx t.code.toNat = some t := ETy.ofCode_code t

/-- The operation field of a sweep: its operation above its element type (R27). -/
@[simp] theorem sweepOp_toNat (n : BitVec 4) (t : ETy) : (n ++ t.code : BitVec 8).toNat % 16 = t.code.toNat ∧
    (n ++ t.code : BitVec 8).toNat / 16 = n.toNat := by
  have ht := t.code.isLt
  rw [BitVec.toNat_append, ← Nat.shiftLeft_add_eq_or_of_lt ht, Nat.shiftLeft_eq]
  omega

/-- Each shape's word parses back to its operands (`parse…_build`), in the row of the opcode map that encoded it. -/
theorem decode_encode (i : Instr) (hwf : i.wf = true) (hw : i.isEvent = false) : ∃ w, encode i = some w ∧ decode w = some i := by
  cases i
  case add h x | sub h x | mul h x | mulh h x | div h x | rem h x | and h x | or h x | xor h x | shl h x | shr h x | sar h x | min h x |
      max h x => exact assembled_decodes rfl (congrArg (Option.map _) (parseRRI_build x)) hwf
  case sel h x => exact assembled_decodes rfl (congrArg (Option.map _) (parseSel_build x)) hwf
  case li h x | lui h x => exact assembled_decodes rfl (congrArg (Option.map _) (parseImm24_build x)) hwf
  case mov h x => exact assembled_decodes rfl (congrArg (Option.map _) (parseMov_build x)) hwf
  case cmpEq h x | cmpNe h x | cmpLt h x | cmpLe h x | cmpGt h x | cmpGe h x =>
    exact assembled_decodes rfl (congrArg (Option.map _) (parseCmp_build x)) hwf
  case ptag h x | padd h x => exact assembled_decodes rfl (congrArg (Option.map _) (parsePtr_build x)) hwf
  case pspace h x | powner h x | poff h x | launch h x | evpost h x => exact assembled_decodes rfl (congrArg (Option.map _) (parseRR_build x)) hwf
  case fadd h x | fsub h x | fmul h x | ffma h x | fdiv h x | fmin h x | fmax h x =>
    exact assembled_decodes rfl (congrArg (Option.map _) (parseFA_build x)) hwf
  case fsqrt h x => exact assembled_decodes rfl (congrArg (Option.map _) (parseFU_build x)) hwf
  case fcvt h x => exact assembled_decodes rfl (congrArg (Option.map _) (parseCvt_build x)) hwf
  case fcmpEq h x | fcmpNe h x | fcmpLt h x | fcmpLe h x | fcmpGt h x | fcmpGe h x | fcmpUn h x =>
    exact assembled_decodes rfl (congrArg (Option.map _) (parseFCmp_build x)) hwf
  case nop h | uend h | fenceCtx h | fenceCore h | fenceClu h | fenceDie h | fenceSys h | fencePkg h | uiret h | hend h | bar h | reos h |
      yield h | tlbsync h | trapret h => exact assembled_decodes rfl rfl hwf
  case br h x => exact assembled_decodes rfl (congrArg (Option.map _) (parseOff_build x)) hwf
  case bcZ h x | bcNz h x | call h x | loop h x => exact assembled_decodes rfl (congrArg (Option.map _) (parseROff_build x)) hwf
  case ret h x | jmp h x | mrepl h x | fwait h x | txdeclR h x | txdeclW h x | txwait h x | txend h x | brevoke h x | hwait h x |
      lwait h x | cancelLaunch h x | cancelGraph h x | cancelSession h x | cancelJob h x | ovtld h x =>
    exact assembled_decodes rfl (congrArg (Option.map _) (parseB_build x)) hwf
  case trapi h x | hcall h x => exact assembled_decodes rfl (congrArg (Option.map _) (parseCode_build x)) hwf
  case vadd h x | vsub h x | vmul h x | vfma h x | vmin h x | vmax h x | vand h x | vor h x | vxor h x =>
    exact assembled_decodes rfl (congrArg (Option.map _) (parseVA_build x (by simp only [Instr.wf, Bool.and_eq_true] at hwf; tauto))) hwf
  case vsel h x => exact assembled_decodes rfl (congrArg (Option.map _) (parseVSel_build x)) hwf
  case vcvt h x => exact assembled_decodes rfl (congrArg (Option.map _) (parseVCvt_build x)) hwf
  case vred h x => exact assembled_decodes rfl (congrArg (Option.map _) (parseVRed_build x)) hwf
  case vbcast h x => exact assembled_decodes rfl (congrArg (Option.map _) (parseVBc_build x)) hwf
  case vshuf h x => exact assembled_decodes rfl (congrArg (Option.map _) (parseVShuf_build x)) hwf
  case vcmpEq h x | vcmpNe h x | vcmpLt h x | vcmpLe h x | vcmpGt h x | vcmpGe h x | vcmpUn h x =>
    exact assembled_decodes rfl (congrArg (Option.map _) (parseVCmp_build x)) hwf
  case vld h x => exact assembled_decodes rfl (congrArg (Option.map _) (parseVLd_build x)) hwf
  case vst h x => exact assembled_decodes rfl (congrArg (Option.map _) (parseVSt_build x)) hwf
  case wadd h x | wsub h x | wmul h x | wfma h x | wmin h x | wmax h x => exact assembled_decodes rfl (by simp [instrOf, instrOf4]) hwf
  case wcvt h x => exact assembled_decodes rfl (by simp [instrOf, instrOf4]) hwf
  case wclamp h x => exact assembled_decodes rfl (by simp [instrOf, instrOf4]) hwf
  case wred h x => exact assembled_decodes rfl (by simp [instrOf, instrOf4]) hwf
  case wcopy h x => exact assembled_decodes rfl (by simp [instrOf, instrOf4]) hwf
  case exp2 h x | log2 h x | exp h x | log h x | rcp h x | rsqrt h x | tanh h x | sigm h x =>
    exact assembled_decodes rfl (congrArg (Option.map _) (parseSfn_build x)) hwf
  case mldA h x | mldB h x => exact assembled_decodes rfl (congrArg (Option.map _) (parseMld_build x)) hwf
  case mzero h x | mdrain h x => exact assembled_decodes rfl (congrArg (Option.map _) (parseTA_build x)) hwf
  case mmac h x => exact assembled_decodes rfl (congrArg (Option.map _) (parseMmac_build x)) hwf
  case mmacSp h x => exact assembled_decodes rfl (congrArg (Option.map _) (parseMmacSp_build x)) hwf
  case mscale h x => exact assembled_decodes rfl (congrArg (Option.map _) (parseMscale_build x)) hwf
  case mepi h x => exact assembled_decodes rfl (congrArg (Option.map _) (parseMepi_build x)) hwf
  case mstat h x => exact assembled_decodes rfl (congrArg (Option.map _) (parseMstat_build x)) hwf
  case mswz h x | bswz h x => exact assembled_decodes rfl (congrArg (Option.map _) (parseSCode_build x)) hwf
  case dld h x => exact assembled_decodes rfl (congrArg (Option.map _) (parseDLd_build x)) hwf
  case dstr h x => exact assembled_decodes rfl (congrArg (Option.map _) (parseDSt_build x)) hwf
  case dpt h x => exact assembled_decodes rfl (congrArg (Option.map _) (parseDpt_build x)) hwf
  case dadd h x | dsub h x | dmul h x | dmax h x | dmin h x => exact assembled_decodes rfl (congrArg (Option.map _) (parseD3_build x)) hwf
  case dmix h x => exact assembled_decodes rfl (congrArg (Option.map _) (parseDmix_build x)) hwf
  case dtag h x => exact assembled_decodes rfl (congrArg (Option.map _) (parseDtag_build x)) hwf
  case dmom h x => exact assembled_decodes rfl (congrArg (Option.map _) (parseDmom_build x)) hwf
  case dqnt h x => exact assembled_decodes rfl (congrArg (Option.map _) (parseDqnt_build x)) hwf
  case ld h x | ldg h x | ldh h x => exact assembled_decodes rfl (congrArg (Option.map _) (parseLd_build x)) hwf
  case ldAcq h x | ldgAcq h x | ldhAcq h x => exact assembled_decodes rfl (congrArg (Option.map _) (parseLdO_build x)) hwf
  case st h x | stg h x | sth h x => exact assembled_decodes rfl (congrArg (Option.map _) (parseSt_build x)) hwf
  case stRel h x | stgRel h x | sthRel h x => exact assembled_decodes rfl (congrArg (Option.map _) (parseStO_build x)) hwf
  case pref h x => exact assembled_decodes rfl (congrArg (Option.map _) (parsePref_build x)) hwf
  case atmAdd h x | atmAnd h x | atmOr h x | atmXor h x | atmMin h x | atmMax h x | atmFadd h x | atmSwap h x | atmCas h x | atmIncb h x =>
    exact assembled_decodes rfl (congrArg (Option.map _) (parseAtm_build x)) hwf
  case fencep h x => exact assembled_decodes rfl (congrArg (Option.map _) (parseFencep_build x)) hwf
  case fiss h x | txsub h x => exact assembled_decodes rfl (congrArg (Option.map _) (parseA_build x)) hwf
  case bhand h x | battach h x => exact assembled_decodes rfl (congrArg (Option.map _) (parseSlotC_build x)) hwf
  case bwait h x => exact assembled_decodes rfl (congrArg (Option.map _) (parseSlot_build x)) hwf
  case bstat h x => exact assembled_decodes rfl (congrArg (Option.map _) (parseASlot_build x)) hwf
  case cpgo h x | swgo h x | gath h x | coll h x => exact assembled_decodes rfl (congrArg (Option.map _) (parseQGo_build x)) hwf
  case cpwait h x => exact assembled_decodes rfl (congrArg (Option.map _) (parseId_build x)) hwf
  case qpush h x => exact assembled_decodes rfl (congrArg (Option.map _) (parseQPush_build x)) hwf
  case qpop h x => exact assembled_decodes rfl (congrArg (Option.map _) (parseQPop_build x)) hwf
  case hstart h x => exact assembled_decodes rfl (congrArg (Option.map _) (parseHStart_build x)) hwf
  case xsend h x => exact assembled_decodes rfl (congrArg (Option.map _) (parseXsend_build x)) hwf
  case xrecv h x => exact assembled_decodes rfl (congrArg (Option.map _) (parseXrecv_build x)) hwf
  case rpush h x => exact assembled_decodes rfl (congrArg (Option.map _) (parseRPush_build x)) hwf
  case rpop h x => exact assembled_decodes rfl (congrArg (Option.map _) (parseRPop_build x)) hwf
  case prog h x => exact assembled_decodes rfl (congrArg (Option.map _) (parseProg_build x)) hwf
  case sysr h x | sysw h x => exact assembled_decodes rfl (congrArg (Option.map _) (parseSys_build x)) hwf
  case ctxsave h x | ctxload h x | tlbinv h x | wipe h x | pmap h x => exact assembled_decodes rfl (congrArg (Option.map _) (parseBC_build x)) hwf
  all_goals exact absurd hw nofun

/-- The rows of the opcode table without a word are the events. -/
theorem encode_isNone (i : Instr) : (encode i).isNone = i.isEvent := by cases i <;> rfl

/-- Settles O5: by `decode_encode`, a case for each shape of operands. -/
theorem decodeOfEncode : Obligations.DecodeOfEncode := fun i =>
  ⟨decode_encode i, fun hev => Option.isNone_iff_eq_none.mp ((encode_isNone i).trans hev)⟩

end Sys2Proof
end

section
/-!
O1, O7, O9, O10: the state after reset, the form of its memories, that nothing is refused, and what a memory reads after a write.
-/

namespace Sys2Proof.Machine

open Sys2Proof

/-! ### Reset (R280, R282) -/

/-- A context that nothing has made live: no register of it has been written (R280). -/
theorem Ctx.reset_registers : Ctx.reset.live = false ∧ (∀ i : SReg, Ctx.reset.rs i = 0) ∧ (∀ i : VReg, Ctx.reset.rv i = 0) ∧
    (∀ i : PReg, i ≠ 7 → Ctx.reset.rp i = 0) ∧ Ctx.reset.rp 7 = BitVec.allOnes 64 ∧ Ctx.reset.ovt = 0x558#12 := by
  refine ⟨rfl, fun i => ?_, fun i => ?_, fun i hi => ?_, rfl, rfl⟩
  · simp [Ctx.rs, Ctx.reset]
  · simp [Ctx.rv, Ctx.reset]
  · rw [Ctx.rp, if_neg hi]
    simp [Ctx.reset]

/-- Settles O1: no core, cluster, queue or bank is listed at reset, so each reads as its reset value. -/
theorem resetState : Obligations.ResetState := by
  unfold Obligations.ResetState
  refine ⟨rfl, rfl, rfl, fun a => ⟨rfl, rfl⟩, fun c x => Ctx.reset_registers, fun c i => ?_, fun r => ⟨rfl, rfl⟩,
    fun q => ⟨rfl, rfl⟩, fun b => rfl, fun b r => rfl, ?_, rfl⟩
  · show (Vector.replicate 8 Dist.reset)[i] = _
    simp [Dist.reset]
  · decide

/-- Settles O7: no memory lists a byte at reset. -/
theorem resetMemoryForm : Obligations.ResetMemoryForm :=
  ⟨rfl, rfl, fun _ he => absurd he List.not_mem_nil⟩

/-! ### Memory (R3, R129) -/

/-- A value written reads back: its lowest byte from its own place, the rest from the places above. -/
theorem Memory.read_write (m : Memory) (a n v : Nat) (h : m.wf = true) (hv : v < 256 ^ n) : (m.write a n v).read a n = v := by
  induction n generalizing m a v with
  | zero => exact (Nat.lt_one_iff.mp hv).symm
  | succ n ih =>
    have hq : v / 256 < 256 ^ n := by omega
    have hlow : ((m.set a (BitVec.ofNat 8 v)).write (a + 1) n (v / 256)).byte a = BitVec.ofNat 8 v := by
      rw [Memory.byte_write_of_not _ _ _ _ _ (Memory.set_wf m a _ h) (.inl a.lt_succ_self), Memory.byte_set m a a _ h, if_pos rfl]
    rw [Memory.write, Memory.read, hlow, ih _ _ _ (Memory.set_wf m a _ h) hq, BitVec.toNat_ofNat]
    omega

/-- Settles O10: the value reads back, and the laws of a write and of a wipe give the rest. -/
theorem memoryReadsBack : Obligations.MemoryReadsBack := fun m a n v h hv =>
  ⟨m.write_wf a n v h, m.read_write a n v h hv, fun b hb => m.byte_write_of_not a n v b h hb, fun b => m.byte_wipe a n b h⟩

/-! ### No refusal -/

/-- Whether an outcome is a refusal. -/
def Out.refuses : Out → Bool
  | .refused _ => true
  | _ => false

@[simp] theorem Out.refuses_next (t : State) : Out.refuses (.next t) = false := rfl

@[simp] theorem Out.refuses_fault (f : Fault) : Out.refuses (.fault f) = false := rfl

@[simp] theorem Out.refuses_ite (b : Prop) [Decidable b] (o p : Out) : Out.refuses (if b then o else p) = if b then o.refuses else p.refuses :=
  apply_ite _ _ _ _

@[simp] theorem event_refuses (s : State) (b : Bool) (t : State) : (event s b t).refuses = false := by rw [event_next]; rfl

@[simp] theorem State.trapOut_refuses (s : State) (t : Trap) : (s.trapOut t).refuses = false := by rw [trapOut_next]; rfl

@[simp] theorem State.tripWaiting_refuses (s old : State) (c x : Nat) (t : Trip) : (s.tripWaiting old c x t).refuses = false := by
  cases t <;> rfl

@[simp] theorem State.withStrand_refuses (s : State) (h : Chain) (k : State → Out) (hk : ∀ t, (k t).refuses = false) :
    (s.withStrand h k).refuses = false := by simp [State.withStrand, hk]

/-- A command of the matrix unit is carried out, or waits, or its context takes a trap. -/
@[simp] theorem State.matrixRun_refuses (s : State) (c : Nat) (m : MCmd) : (s.matrixRun c m).refuses = false := by
  unfold State.matrixRun
  split <;> dsimp only <;> (repeat' split) <;> simp

@[simp] theorem State.swapRun_refuses (s : State) (ch : Nat) (out : Bool) : (s.swapRun ch out).refuses = false := by
  unfold State.swapRun
  split
  · rfl
  · rw [Out.refuses_ite]
    split
    · rfl
    · exact State.withStrand_refuses _ _ _ (fun _ => rfl)

/-- No event is refused: one that does not apply has no effect. -/
theorem exec_event_refuses (i : Instr) (s : State) (hi : i.isEvent = true) : Out.refuses (exec i s) = false := by
  cases i
  case batchClose | sequencerApplyResume | txHold | handoverPoint | bankReturn | bankWipeDone | trapEntry | fatalTrap |
      launchArbitration | dieResetComplete | pointChangeDone | wqchainWrite | trapqWrite | fatalClear | measurementExtend |
      lifeCycleAdvance | dieReset | vfctlWrite | partitionCreation | firmwareUpdate | queueStatusClear | linkDown | linkRetrain |
      spliceMarkerReceive | bar2Evpost | stallExpiry | thermalStep | getMeasurements | allowanceRefill => exact event_refuses _ _ _
  case matrixCommandExecute c => simp only [exec, execMatrixCommandExecute]; split <;> simp
  case strandRun ch =>
    simp only [exec, execStrandRun]
    split
    · rfl
    · split
      · rfl
      · simp only [Out.refuses_ite, Out.refuses_next]
        rw [State.withStrand_refuses _ _ _ (fun t => by split <;> rfl)]
        simp
  case swapOutStrand | swapInStrand => exact State.swapRun_refuses _ _ _
  case flitReceive l f =>
    simp only [exec, execFlitReceive, execLinkDown]
    repeat' split
    all_goals simp
  case epilogueRowFault | panelRefetch | drainMarkerReply | submissionAccepted | batchApply | sliceGrant | sliceRelease |
      channelArbitration | userInterrupt | gatherFinish | collectiveFinish | barrierComplete | exchangeDelivery |
      governorEvaluation | accessArrival | storeAcknowledged | remoteRefused | pageWalkFill | recordRead | dependenceReread |
      launchStart | preloadRun | launchComplete | cancellation | hostTimeout | evictionDecision | lastSafeMoment |
      deadlineChainStart | laneGrant | branchResolution | loadValueReturn | ringcfgWrite | vdiemapWrite | registerWrite |
      stopImageRestore | deviceReset | partitionTeardown | doorbell | inboundPostedWrite | inboundRead | hostCompletion |
      resumeRequest | operandQueueParityError | preemptRequest | migrationStop | jobCut | illegalWord | dbword =>
    simp only [exec,
      execEpilogueRowFault, execPanelRefetch, execDrainMarkerReply, execSubmissionAccepted, execBatchApply, execSliceGrant,
      execSliceRelease, execChannelArbitration, execUserInterrupt, execGatherFinish, execCollectiveFinish, execBarrierComplete,
      execExchangeDelivery, execGovernorEvaluation, execAccessArrival, execStoreAcknowledged, execRemoteRefused, execPageWalkFill,
      execRecordRead, execDependenceReread, execLaunchStart, execPreloadRun, execLaunchComplete, execCancellation, execHostTimeout,
      execEvictionDecision, execLastSafeMoment, execDeadlineChainStart, execLaneGrant, execBranchResolution, execLoadValueReturn,
      execRingcfgWrite, execVdiemapWrite, execRegisterWrite, execStopImageRestore, execDeviceReset, execPartitionTeardown,
      execDoorbell, execInboundPostedWrite, execInboundRead, execHostCompletion, execResumeRequest, execOperandQueueParityError,
      execPreemptRequest, execMigrationStop, execJobCut, execIllegalWord, execDbword]
    repeat' split
    all_goals simp
  all_goals cases hi

/-- Every row of the opcode table that is no event carries a header. -/
theorem hdr?_isSome (i : Instr) : (Instr.hdr? i).isSome = !i.isEvent := by cases i <;> rfl

/-- No instruction word is refused: it is issued, and an issue never is. -/
theorem exec_word_refuses (i : Instr) (s : State) (r : Refusal) (hi : i.isEvent = false) : exec i s ≠ .refused r := by
  obtain ⟨h, hh⟩ := Option.isSome_iff_exists.mp ((hdr?_isSome i).trans (by rw [hi]; rfl))
  by_cases hy : ∃ k, i = .yield k
  · obtain ⟨k, rfl⟩ := hy
    exact issue_not_refused _ _ _ s r
  · obtain ⟨body, hbody⟩ := exec_issue i h hh (fun k hk => hy ⟨k, hk⟩)
    exact hbody s ▸ issue_not_refused h _ body s r

/-- Settles O9: events by `exec_event_refuses`, words by their issue. -/
theorem nothingIsRefused : Obligations.NothingIsRefused := by
  intro i s r
  cases hi : i.isEvent with
  | false => exact exec_word_refuses i s r hi
  | true =>
    intro hr
    have := exec_event_refuses i s hi
    rw [hr] at this
    cases this

end Sys2Proof.Machine
end

section
/-!
O3, O4, O12, O15, O17, O21: decoded words, the checks at issue, and the scalar integer, pointer and control-flow instructions.
-/

namespace Sys2Proof.Machine

open Sys2Proof

/-! ### Decoded words (R18 to R30) -/

/-- Class 0xF is assigned to nothing (R29). -/
theorem decode_class15 (v : BitVec 92) : decode (0xF#4 ++ v) = none := by
  have hcls : (0xF#4 ++ v : BitVec 96).extractLsb' 92 4 = 0xF#4 :=
    (extract_high (0xF#4) v 92 4 (by decide) rfl).trans BitVec.extractLsb'_eq_self
  unfold decode
  split
  · rfl
  · rw [hcls]; rfl

/-- Settles O4: the words by evaluation, and class 0xF by `decode_class15`. -/
theorem decodedWords : Obligations.DecodedWords := by
  unfold Obligations.DecodedWords
  exact ⟨by decide +kernel, by decide +kernel, by decide +kernel, by decide +kernel, decode_class15⟩

/-! ### The checks at issue (R31, R244, R253) -/

/-- What issues with its own need, and is stopped by one of the checks of R31, takes the trap of the first that stops it. -/
theorem issue_phase (h : Hdr) (n : State → Need) (body : State → Res) (s : State) (hg : guardTrue s.me h = true)
    (hl : (n s).level ≤ s.me.level) (hp : phaseOk s h.phase = false) : issue h n body s = (s.raise .phase).out h s := by
  simp [issue, hg, Nat.not_lt.mpr hl, hp]

theorem issue_context (h : Hdr) (n : State → Need) (body : State → Res) (s : State) (hg : guardTrue s.me h = true)
    (hl : (n s).level ≤ s.me.level) (hp : phaseOk s h.phase = true) (hc : contextOk s (n s) = false) :
    issue h n body s = (s.raise .illegal).out h s := by
  simp [issue, hg, Nat.not_lt.mpr hl, hp, hc]

theorem issue_exchange (h : Hdr) (n : State → Need) (body : State → Res) (s : State) (hg : guardTrue s.me h = true)
    (hl : (n s).level ≤ s.me.level) (hp : phaseOk s h.phase = true) (hc : contextOk s (n s) = true)
    (hx : (n s).exchange = true) (h1 : s.phase ≠ 1) : issue h n body s = (s.raise .phase).out h s := by
  simp [issue, hg, Nat.not_lt.mpr hl, hp, hc, hx, h1]

/-- Every instruction word is issued with a header of its own guard and phase class, and with its own need. -/
theorem exec_issue_word (i : Instr) (h : Hdr) (s : State) (hh : Instr.hdr? i = some h) :
    ∃ (k : Hdr) (body : State → Res), k.guard = h.guard ∧ k.neg = h.neg ∧ k.phase = h.phase ∧
      exec i s = issue k (fun _ => Instr.need i) body s := by
  by_cases hy : ∃ k, i = .yield k
  · obtain ⟨k, rfl⟩ := hy
    obtain rfl : k = h := Option.some.inj hh
    refine ⟨_, _, ?_, ?_, ?_, rfl⟩ <;> split <;> rfl
  · obtain ⟨body, hbody⟩ := exec_issue i h hh (fun k hk => hy ⟨k, hk⟩)
    exact ⟨h, body, rfl, rfl, rfl, hbody s⟩

theorem phaseOk_eq_false (s : State) (p : PClass) :
    phaseOk s p = false ↔ (p = .compute ∧ s.phase = 1) ∨ (p = .exchange ∧ s.phase = 2) := by
  cases p <;> simp [phaseOk]

theorem contextOk_eq_false (s : State) (n : Need) : contextOk s n = false ↔ (n.helper = false ∧ s.curCtx ≠ 0) ∨
    (n.control = false ∧ s.curCtx = 0) ∨ (n.unit = true ∧ (s.me.inUnit = false ∨ s.mycore.unit = none)) := by
  simp only [contextOk, Bool.and_eq_false_iff, Bool.or_eq_false_iff, Bool.not_eq_false', or_assoc]
  simp

/-! ### A word that the decoder refuses -/

@[simp] theorem State.me_setPart (s : State) (p : Nat) (k : Part) : (s.setPart p k).me = s.me := rfl

/-- A fetch charges HBM, and touches no context (R271). -/
theorem State.me_chargePieces (s : State) (p : Nat) (ps : List Piece) : (s.chargePieces p ps).me = s.me := by
  induction ps generalizing s with
  | nil => rfl
  | cons q ps ih =>
    refine (ih _).trans ?_
    dsimp only
    repeat' split
    all_goals rfl

theorem State.me_of_fetch {s t : State} {w : BitVec 96} (hf : s.fetch = .ok (w, t)) : t.me = s.me := by
  unfold State.fetch at hf
  dsimp only at hf
  repeat' split at hf
  all_goals cases hf
  all_goals exact State.me_chargePieces _ _ _

/-- Settles O3: the checks of an issue in their order, over the header and need of every instruction word. -/
theorem checksAtIssue : Obligations.ChecksAtIssue := by
  unfold Obligations.ChecksAtIssue
  refine ⟨fun s t w hmid hf hd => ?_, fun i h s hh hg hl => ?_, fun i h s hh hg hl => ?_⟩
  · simp only [State.turn, hmid, Option.bind_none, hf, hd, execIllegalWord, State.me_of_fetch hf]
    rfl
  · obtain ⟨k, body, hkg, hkn, -, hexec⟩ := exec_issue_word i h s hh
    have hgk : guardTrue s.me k = true := by rw [← hg, guardTrue, guardTrue, hkg, hkn]
    rw [hexec, issue_priv k _ body s hgk hl]
    rfl
  · intro tr phase context
    obtain ⟨k, body, hkg, hkn, hkp, hexec⟩ := exec_issue_word i h s hh
    have hgk : guardTrue s.me k = true := by rw [← hg, guardTrue, guardTrue, hkg, hkn]
    have hphase : phaseOk s k.phase = false ↔ phase := hkp ▸ phaseOk_eq_false s h.phase
    have hcontext : contextOk s (Instr.need i) = false ↔ context := contextOk_eq_false s (Instr.need i)
    refine ⟨fun hp => ?_, fun hp hc => ?_, fun hp hc hx h1 => ?_⟩
    · rw [hexec, issue_phase k _ body s hgk hl (hphase.mpr hp)]
      rfl
    · rw [← hphase, Bool.not_eq_false] at hp
      rw [hexec, issue_context k _ body s hgk hl hp (hcontext.mpr hc)]
      rfl
    · rw [← hphase, Bool.not_eq_false] at hp
      rw [← hcontext, Bool.not_eq_false] at hc
      rw [hexec, issue_exchange k _ body s hgk hl hp hc hx h1]
      rfl

/-! ### Instructions that complete -/

/-- An instruction that issues at L0, and whose effect completes, goes on from the state that its effect left. -/
theorem exec_done {i : Instr} {h : Hdr} {body : State → Res} {s t : State} (hi : s.issues h {} = true)
    (hexec : exec i s = issue h plain body s) (hdone : body s = .done t) : exec i s = .next (t.goOn h) :=
  hexec.trans (issue_done hi hdone)

/-- An instruction that issues at L0, and whose effect goes elsewhere. -/
theorem exec_goto {i : Instr} {h : Hdr} {body : State → Res} {s t : State} {pc : Nat} (hi : s.issues h {} = true)
    (hexec : exec i s = issue h plain body s) (hgo : body s = .goto t pc) : exec i s = .next (t.land.advance h pc) := by
  rw [hexec, issue_issues h plain body s hi, hgo, out_goto]

/-- An instruction that issues at L0, and whose effect is a trap. -/
theorem exec_trap {i : Instr} {h : Hdr} {body : State → Res} {s t : State} {tr : Trap} (hi : s.issues h {} = true)
    (hexec : exec i s = issue h plain body s) (htrap : body s = .trap t tr) : exec i s = t.trapOut tr := by
  rw [hexec, issue_issues h plain body s hi, htrap, out_trap]

/-! ### Sums and products, register forming, pointers (R59, R62, R64) -/

/-- Settles O12: each instruction writes what `fitI` makes of the exact result. -/
theorem integerSumsAndProducts : Obligations.IntegerSumsAndProducts := by
  unfold Obligations.IntegerSumsAndProducts
  intro h x s hi _ b c
  exact ⟨_, _, _, intResult_fitI _ _ _, intResult_fitI _ _ _, intResult_fitI _ _ _,
    issue_intOp h x _ s hi, issue_intOp h x _ s hi, issue_intOp h x _ s hi⟩

/-- The scalar source of an untyped instruction (R62). -/
theorem src64_eq (k : Ctx) (c : SrcSI) :
    src64 k c = match c with | .s r => k.rs r | .imm v => v.signExtend 64 := by cases c <;> rfl

/-- A shift by 24 with an immediate below: the low 40 bits above it (R62). -/
theorem lui_value (w : Word) (v : BitVec 24) :
    (w <<< 24) ||| v.zeroExtend 64 = BitVec.ofNat 64 (w.toNat % 2 ^ 40 * 2 ^ 24 + v.toNat) := by
  apply BitVec.eq_of_toNat_eq
  have hv := v.isLt
  rw [BitVec.toNat_or, BitVec.toNat_shiftLeft, BitVec.zeroExtend, BitVec.toNat_setWidth, BitVec.toNat_ofNat,
    Nat.mod_eq_of_lt (by omega : v.toNat < 2 ^ 64), Nat.shiftLeft_eq]
  have hlow : w.toNat * 2 ^ 24 % 2 ^ 64 = (w.toNat % 2 ^ 40) <<< 24 := by rw [Nat.shiftLeft_eq]; omega
  rw [hlow, ← Nat.shiftLeft_add_eq_or_of_lt hv, Nat.shiftLeft_eq]
  omega

/-- Settles O15: each instruction writes its value, which `lui_value` gives for `lui`. -/
theorem registerForming : Obligations.RegisterForming := by
  unfold Obligations.RegisterForming
  intro h y x z s hi value
  have hvalue (c : SrcSI) : src64 s.me c = value c := src64_eq s.me c
  have writes (i : Instr) (a : SReg) (f : State → Word) (hexec : exec i s = issue h plain (fun s => .done (s.setMe (s.me.ws a (f s)))) s) :
      exec i s = .next (s.wroteS h a (f s)) := exec_done hi hexec rfl
  refine ⟨?_, ?_, ?_, ?_⟩
  · rw [writes (.sel h y) y.a (fun s => if predBit s.me y.p y.neg 0 then s.me.rs y.b else src64 s.me y.c) rfl]
    simp [predBit, hvalue]
  · exact writes (.li h x) x.a (fun _ => x.imm.signExtend 64) rfl
  · rw [writes (.lui h x) x.a (fun s => (s.me.rs x.a <<< 24) ||| x.imm.zeroExtend 64) rfl, lui_value]
  · rw [writes (.mov h z) z.a (fun s => src64 s.me z.b) rfl, hvalue]

theorem bits_space {p : Nat} (hp : p < 2 ^ 64) : bits p 63 60 = p / 2 ^ 60 := by unfold bits; omega

theorem bits_offset (p : Nat) : bits p 47 0 = p % 2 ^ 48 := by simp [bits]

/-- The tags that `ptag` refuses (R64, R174). -/
def tagRefused (c : Nat) : Bool :=
  bits c 63 16 != 0 || decide (5 ≤ bits c 15 12) || (bits c 15 12 == 0 && bits c 11 0 != 0) || (bits c 15 12 == 2 && bit c 0)

theorem tagRefused_iff {c : Nat} (hc : c < 2 ^ 64) : tagRefused c = true ↔
    2 ^ 16 ≤ c ∨ 5 ≤ c / 2 ^ 12 ∨ (c / 2 ^ 12 = 0 ∧ c ≠ 0) ∨ (c / 2 ^ 12 = 2 ∧ c % 2 = 1) := by
  simp only [tagRefused, Bool.or_eq_true, Bool.and_eq_true, bne_iff_ne, beq_iff_eq, decide_eq_true_eq]
  simp only [bit, bits, beq_iff_eq]
  omega

/-- An instruction that writes a register where a check holds, and else traps with ILLEGAL_POINTER. -/
theorem exec_need {i : Instr} {h : Hdr} {s : State} (hi : s.issues h {} = true) (a : SReg) (ok : State → Bool) (v : State → Word)
    (hexec : exec i s = issue h plain (fun s => s.need (ok s) .illegalPointer (.done (s.setMe (s.me.ws a (v s))))) s) :
    (ok s = false → exec i s =
      s.trapOut { cause := 0x05, detail := 0, resume := s.me.pc, fpc := s.me.pc, va := 0, ipa := 0, jrn := none, async := false }) ∧
    (ok s = true → exec i s = .next (s.wroteS h a (v s))) := by
  refine ⟨fun hok => ?_, fun hok => ?_⟩
  · exact exec_trap hi hexec (if_neg (by simp [hok]))
  · exact exec_done hi hexec (if_pos hok)

theorem exec_ptrPart {i : Instr} {h : Hdr} {x : OpRR} {s : State} (hi : s.issues h {} = true) (hb lo : Nat)
    (hexec : exec i s = issue h plain (ptrPart x hb lo) s) :
    exec i s = .next (s.wroteS h x.a (BitVec.ofNat 64 (bits (s.me.rs x.b).toNat hb lo))) := exec_done hi hexec rfl

/-- Settles O17: the parts are `bits` of the source, and each check is the bound that the tag or the offset breaks. -/
theorem pointerParts : Obligations.PointerParts := by
  unfold Obligations.PointerParts
  intro h x y s hi p b c d bad badTag moved
  obtain ⟨hbad, hgood⟩ := exec_need (i := .ptag h y) hi y.a (fun s => !tagRefused (src64 s.me y.c).toNat)
    (fun s => BitVec.ofNat 64 ((src64 s.me y.c).toNat * 2 ^ 48 + bits (s.me.rs y.b).toNat 47 0)) rfl
  obtain ⟨hout, hin⟩ := exec_need (i := .padd h y) hi y.a
    (fun s => decide (0 ≤ (bits (s.me.rs y.b).toNat 47 0 : Int) + (src64 s.me y.c).toInt) &&
      decide ((bits (s.me.rs y.b).toNat 47 0 : Int) + (src64 s.me y.c).toInt < 2 ^ 48))
    (fun s => BitVec.ofNat 64 ((s.me.rs y.b).toNat / 2 ^ 48 * 2 ^ 48 +
      ((bits (s.me.rs y.b).toNat 47 0 : Int) + (src64 s.me y.c).toInt).toNat)) rfl
  have htag : tagRefused c = true ↔ badTag := tagRefused_iff (src64 s.me y.c).isLt
  simp only [bits_offset] at hgood hout hin
  refine ⟨bits_space (s.me.rs x.b).isLt ▸ exec_ptrPart (i := .pspace h x) hi 63 60 rfl, exec_ptrPart (i := .powner h x) hi 59 48 rfl,
    bits_offset p ▸ exec_ptrPart (i := .poff h x) hi 47 0 rfl, fun ht => hbad ?_, fun ht => hgood ?_, fun hm => hout ?_,
    fun h0 h1 => hin ?_⟩
  · rw [htag.mpr ht]; rfl
  · rw [← htag, Bool.not_eq_true] at ht
    rw [ht]; rfl
  · rw [Bool.and_eq_false_iff, decide_eq_false_iff_not, decide_eq_false_iff_not, not_le, not_lt]
    exact hm
  · rw [Bool.and_eq_true, decide_eq_true_eq, decide_eq_true_eq]
    exact ⟨h0, h1⟩

end Sys2Proof.Machine
end

section
/-!
O21: branches, calls, returns and jumps. Each goes on from the issuing context with some registers written, at an address, with the
hints of its word; a prediction shows in nothing that the program sees (R71).
-/

namespace Sys2Proof.Machine

open Sys2Proof

/-! ### Going on from a changed issuing context -/

theorem RegsKept.trans_nil {ws : List Reg} {k l m : Ctx} (hkl : RegsKept ws k l) (hlm : RegsKept [] l m) : RegsKept ws k m := by
  obtain ⟨ks, kv, kp⟩ := hkl
  obtain ⟨ls, lv, lp⟩ := hlm
  exact ⟨fun i hi => (ls i List.not_mem_nil).trans (ks i hi), fun i hi => (lv i List.not_mem_nil).trans (kv i hi),
    fun i hi => (lp i List.not_mem_nil).trans (kp i hi)⟩

/-- What control flow leaves: only the issuing context changed; it has the registers of a context k and stands at an address with the
hints of its word (R18, R20). -/
structure WentOn (h : Hdr) (k : Ctx) (pc : Nat) (s t : State) : Prop where
  only : OnlyContextChanged s t
  regs : RegsKept [] k t.me
  place : t.me.pc = pc
  yields : t.me.yieldNow = h.yield
  stalls : t.me.stall = (s.core s.cur).cc + 1 + h.stall.toNat

/-- The issuing context replaced by one that keeps what stands beside its registers goes on at an address. -/
theorem wentOn_advance (h : Hdr) {s : State} {k : Ctx} (hk : k.beside = s.me.beside) (pc : Nat) :
    WentOn h k (pc % 2 ^ 48) s ((s.setMe k).advance h pc) := by
  have hcc : ((s.setMe k).core s.cur).cc = (s.core s.cur).cc := by rw [State.core_setMe_self]
  refine ⟨?_, ?_, ?_, ?_, ?_⟩
  · rw [State.advance, State.setMe_setMe]
    exact s.setMe_onlyContextChanged _ (by rw [← hk, State.me_setMe]; rfl)
  all_goals rw [State.me_advance, State.me_setMe]
  · exact k.kept_refl.1
  · exact congrArg (· + 1 + h.stall.toNat) hcc

theorem wentOn_land_advance (h : Hdr) {s : State} {k : Ctx} (hk : k.beside = s.me.beside) (pc : Nat) :
    WentOn h k (pc % 2 ^ 48) s ((s.setMe k).land.advance h pc) := by
  rw [State.land, State.setMe_setMe, State.me_setMe]
  obtain ⟨only, regs, place, yields, stalls⟩ :=
    wentOn_advance (k := { k with code := if k.fenced then (s.setMe k).mem else k.code, fenced := false }) h hk pc
  exact ⟨only, regs, place, yields, stalls⟩

/-- The issuing context listed as it stands is no change that going on or landing sees. -/
theorem State.advance_setMe_me (s : State) (h : Hdr) (pc : Nat) : (s.setMe s.me).advance h pc = s.advance h pc := by
  simp only [State.advance, State.setMe_setMe, State.me_setMe, State.cur_setMe, State.core_setMe_self]

theorem State.land_setMe_me (s : State) : (s.setMe s.me).land = s.land := by
  simp only [State.land, State.setMe_setMe, State.me_setMe]
  rfl

/-- A target is below 2^48 (R28). -/
theorem branchTo_mod (pc : Nat) (off : BitVec 24) : branchTo pc off % 2 ^ 48 = branchTo pc off :=
  Nat.mod_eq_of_lt (by unfold branchTo; omega)

/-! ### Effects of control flow -/

/-- An effect that goes elsewhere, from the issuing context with registers written. -/
theorem goto_wentOn (h : Hdr) (s₀ : State) {s : State} {k : Ctx} (hk : k.beside = s.me.beside) (pc : Nat) :
    ∃ t, (Res.goto (s.setMe k) pc).out h s₀ = .next t ∧ WentOn h k (pc % 2 ^ 48) s t :=
  ⟨_, rfl, wentOn_land_advance h hk pc⟩

/-- An effect that completes, from the issuing context with registers written. -/
theorem done_wentOn (h : Hdr) (s₀ : State) {s : State} {k : Ctx} (hk : k.beside = s.me.beside) :
    ∃ t, (Res.done (s.setMe k)).out h s₀ = .next t ∧ WentOn h k ((k.pc + 12) % 2 ^ 48) s t := by
  refine ⟨_, rfl, ?_⟩
  rw [State.me_setMe]
  exact wentOn_advance h hk _

/-- A branch goes to its target or behind itself, for every prediction (R71). -/
theorem branch_wentOn (h : Hdr) (s₀ : State) {s : State} {k : Ctx} (hk : k.beside = s.me.beside) (taken : Bool) (pc : Nat) :
    ∃ t, ((s.setMe k).branch taken pc).out h s₀ = .next t ∧ WentOn h k ((if taken then pc else k.pc + 12) % 2 ^ 48) s t := by
  have arrives (l : Ctx) (hl : l.beside = s.me.beside) (hkl : RegsKept [] k l) (hpc : l.pc = k.pc) :
      ∃ t, (if taken then Res.goto (s.setMe l) pc else .done (s.setMe l)).out h s₀ = .next t ∧
        WentOn h k ((if taken then pc else k.pc + 12) % 2 ^ 48) s t := by
    cases taken
    · obtain ⟨t, ht, hg⟩ := done_wentOn h s₀ hl
      exact ⟨t, ht, hg.only, hkl.trans_nil hg.regs, hpc ▸ hg.place, hg.yields, hg.stalls⟩
    · obtain ⟨t, ht, hg⟩ := goto_wentOn h s₀ hl pc
      exact ⟨t, ht, hg.only, hkl.trans_nil hg.regs, hg.place, hg.yields, hg.stalls⟩
  unfold State.branch
  cases Config.predict (s.setMe k).nonce with
  | none => exact arrives k hk k.kept_refl.1 rfl
  | some ok =>
    dsimp only
    rw [State.setMe_setMe, State.me_setMe]
    exact arrives { k with unresolved := some (ok && k.unresolved.getD true) } hk k.kept_refl.1 rfl

/-- A branch that writes no register first. -/
theorem branch_setMe_me (h : Hdr) (s s₀ : State) (taken : Bool) (pc : Nat) :
    ((s.setMe s.me).branch taken pc).out h s₀ = (s.branch taken pc).out h s₀ := by
  have hn : (s.setMe s.me).nonce = s.nonce := rfl
  unfold State.branch
  rw [hn]
  cases Config.predict s.nonce with
  | none => cases taken <;> simp [Res.out, State.advance_setMe_me, State.land_setMe_me]
  | some ok => simp

/-- An instruction of L0 that issues has the outcome of its effect. -/
theorem exec_out {i : Instr} {h : Hdr} {s : State} (hi : s.issues h {} = true) (body : State → Res)
    (hexec : exec i s = issue h plain body s) : exec i s = (body s).out h s := hexec.trans (issue_issues h plain body s hi)

/-- An instruction that branches and writes no register. -/
theorem exec_branch {i : Instr} {h : Hdr} {s : State} (taken : Bool) (pc : Nat) (hexec : exec i s = (s.branch taken pc).out h s) :
    ∃ t, exec i s = .next t ∧ WentOn h s.me ((if taken then pc else s.me.pc + 12) % 2 ^ 48) s t := by
  obtain ⟨t, ht, hg⟩ := branch_wentOn h s (s := s) (k := s.me) rfl taken pc
  exact ⟨t, hexec.trans ((branch_setMe_me h s s taken pc).symm.trans ht), hg⟩

/-- `ret` and `jmp` to a target of space 0 on the 4-byte grid, and their traps elsewhere (R19, R70). -/
theorem exec_indirect {i : Instr} {h : Hdr} {s : State} {b : SReg} (hi : s.issues h {} = true)
    (hexec : exec i s = issue h plain (fun s => s.indirect b) s) :
    let tr : Nat → Out := fun c =>
      s.trapOut { cause := c, detail := 0, resume := s.me.pc, fpc := s.me.pc, va := 0, ipa := 0, jrn := none, async := false }
    (2 ^ 48 ≤ (s.me.rs b).toNat → exec i s = tr 0x05) ∧
    ((s.me.rs b).toNat < 2 ^ 48 → (s.me.rs b).toNat % 4 ≠ 0 → exec i s = tr 0x04) ∧
    ((s.me.rs b).toNat < 2 ^ 48 → (s.me.rs b).toNat % 4 = 0 → ∃ t, exec i s = .next t ∧ WentOn h s.me (s.me.rs b).toNat s t) := by
  have hout := exec_out hi _ hexec
  intro tr
  refine ⟨fun hbig => ?_, fun hlt h4 => ?_, fun hlt h4 => ?_⟩
  · rw [hout, State.indirect, State.need, if_neg (by simpa using hbig)]
    rfl
  · rw [hout, State.indirect, State.need, if_pos (by simpa using hlt), State.need, if_neg (by simpa using h4)]
    rfl
  · have := exec_branch true (s.me.rs b).toNat (by
      rw [hout, State.indirect, State.need, if_pos (by simpa using hlt), State.need, if_pos (by simpa using h4)])
    rwa [if_pos rfl, Nat.mod_eq_of_lt hlt] at this

/-- `bc.z` and `bc.nz` (R69). -/
theorem exec_bcZ (h : Hdr) (x : OpROff) (s : State) (hi : s.issues h {} = true) : ∃ t, exec (.bcZ h x) s = .next t ∧
    WentOn h s.me ((if (s.me.rs x.a == 0) = true then branchTo s.me.pc x.off else s.me.pc + 12) % 2 ^ 48) s t :=
  exec_branch _ _ (exec_out hi (fun s => s.branch (s.me.rs x.a == 0) (branchTo s.me.pc x.off)) rfl)

theorem exec_bcNz (h : Hdr) (x : OpROff) (s : State) (hi : s.issues h {} = true) : ∃ t, exec (.bcNz h x) s = .next t ∧
    WentOn h s.me ((if (s.me.rs x.a != 0) = true then branchTo s.me.pc x.off else s.me.pc + 12) % 2 ^ 48) s t :=
  exec_branch _ _ (exec_out hi (fun s => s.branch (s.me.rs x.a != 0) (branchTo s.me.pc x.off)) rfl)

/-- `loop` (R69): the register is written before the branch. -/
theorem exec_loop (h : Hdr) (x : OpROff) (s : State) (hi : s.issues h {} = true) : ∃ t, exec (.loop h x) s = .next t ∧
    WentOn h (s.me.ws x.a (s.me.rs x.a - 1))
      ((if (s.me.rs x.a - 1 != 0) = true then branchTo s.me.pc x.off else s.me.pc + 12) % 2 ^ 48) s t := by
  let k := s.me.ws x.a (s.me.rs x.a - 1)
  have hexec := exec_out (i := .loop h x) hi
    (fun s => let t := s.setMe (s.me.ws x.a (s.me.rs x.a - 1)); t.branch (s.me.rs x.a - 1 != 0) (branchTo s.me.pc x.off)) rfl
  obtain ⟨t, ht, hg⟩ := branch_wentOn h s (k := k) (s.me.ws_kept x.a (s.me.rs x.a - 1)).2 (s.me.rs x.a - 1 != 0)
    (branchTo s.me.pc x.off)
  rw [Ctx.pc_ws] at hg
  exact ⟨t, hexec.trans ht, hg⟩

/-- A conditional branch's place, each address modulo 2^48. -/
theorem ite_branchTo_mod (c : Prop) [Decidable c] (pc : Nat) (off : BitVec 24) :
    (if c then branchTo pc off else pc + 12) % 2 ^ 48 = if c then branchTo pc off else (pc + 12) % 2 ^ 48 := by
  rw [apply_ite (· % 2 ^ 48), branchTo_mod]

/-- Settles O21: each instruction is a completion, a branch or a jump of the issuing context, or one of the two traps of a target. -/
theorem controlFlow : Obligations.ControlFlow := by
  unfold Obligations.ControlFlow
  refine ⟨fun h off x s hi => ?_, fun h x b s hi => ?_⟩
  · intro next target
    have htarget (o : BitVec 24) : branchTo s.me.pc o % 2 ^ 48 = target o := branchTo_mod _ _
    refine ⟨?_, ?_, ?_⟩
    · obtain ⟨t, ht, hg⟩ := done_wentOn h s (s := s) (k := s.me) rfl
      rw [Res.out, State.advance_setMe_me, State.me_setMe] at ht
      exact ⟨t, (exec_out hi (fun s => .done s) rfl).trans ht, hg.only, hg.regs, hg.place, hg.yields, hg.stalls⟩
    · obtain ⟨t, ht, hg⟩ := goto_wentOn h s (s := s) (k := s.me) rfl (branchTo s.me.pc off)
      rw [Res.out, State.land_setMe_me] at ht
      exact ⟨t, (exec_out hi (fun s => .goto s (branchTo s.me.pc off)) rfl).trans ht, hg.only, hg.regs, hg.place.trans (htarget off),
        hg.yields, hg.stalls⟩
    · obtain ⟨hr, hb⟩ := s.me.ws_kept x.a (BitVec.ofNat 64 next)
      obtain ⟨t, ht, hg⟩ := goto_wentOn h s hb (branchTo s.me.pc x.off)
      refine ⟨t, (exec_out hi (fun s => .goto (s.setMe (s.me.ws x.a (BitVec.ofNat 64 ((s.me.pc + 12) % 2 ^ 48))))
        (branchTo s.me.pc x.off)) rfl).trans ht, hg.only, hr.trans_nil hg.regs, hg.place.trans (htarget x.off), hg.yields, hg.stalls,
        fun ha => ?_⟩
      rw [hg.regs.1 x.a List.not_mem_nil, Ctx.rs_ws_self _ _ _ ha]
  · intro next target goes tr dest
    obtain ⟨hbig, hgrid, hgo⟩ := exec_indirect (i := .ret h b) hi rfl
    obtain ⟨hbig', hgrid', hgo'⟩ := exec_indirect (i := .jmp h b) hi rfl
    refine ⟨?_, ?_, ?_, fun hd => ⟨hbig hd, hbig' hd⟩, fun hd h4 => ⟨hgrid hd h4, hgrid' hd h4⟩, fun hd h4 => ⟨?_, ?_⟩⟩
    · obtain ⟨t, ht, hg⟩ := exec_bcZ h x s hi
      refine ⟨t, ht, hg.only, hg.regs, hg.place.trans ?_, hg.yields, hg.stalls, trivial⟩
      simp only [ite_branchTo_mod, beq_iff_eq]
      rfl
    · obtain ⟨t, ht, hg⟩ := exec_bcNz h x s hi
      refine ⟨t, ht, hg.only, hg.regs, hg.place.trans ?_, hg.yields, hg.stalls, trivial⟩
      rw [ite_branchTo_mod]
      simp only [bne_iff_ne, ne_eq, ite_not]
      rfl
    · obtain ⟨t, ht, hg⟩ := exec_loop h x s hi
      refine ⟨t, ht, hg.only, (s.me.ws_kept _ _).1.trans_nil hg.regs, hg.place.trans ?_, hg.yields, hg.stalls, fun ha => ?_⟩
      · rw [ite_branchTo_mod]
        simp only [bne_iff_ne, ne_eq, ite_not]
        rfl
      · rw [hg.regs.1 x.a List.not_mem_nil, Ctx.rs_ws_self _ _ _ ha]
    · obtain ⟨t, ht, hg⟩ := hgo hd h4
      exact ⟨t, ht, hg.only, hg.regs, hg.place, hg.yields, hg.stalls, trivial⟩
    · obtain ⟨t, ht, hg⟩ := hgo' hd h4
      exact ⟨t, ht, hg.only, hg.regs, hg.place, hg.yields, hg.stalls, trivial⟩

end Sys2Proof.Machine
end

section
/-!
O60: the instructions that write registers of their context and nothing else. Each completes with its context's registers written, so
one lemma per kind of register gives the frame.
-/

namespace Sys2Proof.Machine

open Sys2Proof

/-- What an instruction that writes only registers answers: it goes on, with the registers of a list written and nothing else. -/
def WritesOnly (ws : List Reg) (s : State) (o : Out) : Prop :=
  ∃ t, o = .next t ∧ OnlyContextChanged s t ∧ MemoryKept s t ∧ RegsKept ws s.me t.me ∧ t.me.pc = (s.me.pc + 12) % 2 ^ 48

theorem writesOnly_of_done {h : Hdr} {s : State} {body : State → Res} {ws : List Reg} {k : Ctx} (hi : s.issues h {} = true)
    (hdone : body s = .done (s.setMe k)) (hregs : RegsKept ws s.me k) (hbeside : k.beside = s.me.beside) (hpc : k.pc = s.me.pc) :
    WritesOnly ws s (issue h plain body s) := by
  obtain ⟨t, ht, hg⟩ := done_wentOn h s hbeside
  have ht' : t = (s.setMe k).goOn h := (Host.Outcome.next.inj ht).symm
  refine ⟨t, by rw [issue_done hi hdone, ht'], hg.only, ?_, hregs.trans_nil hg.regs, hpc ▸ hg.place⟩
  rw [ht', State.goOn, State.advance, State.setMe_setMe]
  exact s.setMe_memoryKept _

theorem writesOnly_s {h : Hdr} {s : State} {body : State → Res} {a : SReg} (hi : s.issues h {} = true)
    (hbody : ∃ w : Word, body s = .done (s.setMe (s.me.ws a w))) : WritesOnly [.s a.toNat] s (issue h plain body s) := by
  obtain ⟨w, hdone⟩ := hbody
  obtain ⟨hregs, hbeside⟩ := s.me.ws_kept a w
  exact writesOnly_of_done hi hdone hregs hbeside (Ctx.pc_ws _ _ _)

theorem writesOnly_v {h : Hdr} {s : State} {body : State → Res} {a : VReg} (hi : s.issues h {} = true)
    (hbody : ∃ w : Vec, body s = .done (s.setMe (s.me.wv a w))) : WritesOnly [.v a.toNat] s (issue h plain body s) := by
  obtain ⟨w, hdone⟩ := hbody
  obtain ⟨hregs, hbeside⟩ := s.me.wv_kept a w
  exact writesOnly_of_done hi hdone hregs hbeside rfl

theorem writesOnly_p {h : Hdr} {s : State} {body : State → Res} {p : PReg} (hi : s.issues h {} = true)
    (hbody : ∃ w : Word, body s = .done (s.setMe (s.me.wp p w))) : WritesOnly [.p p.toNat] s (issue h plain body s) := by
  obtain ⟨w, hdone⟩ := hbody
  obtain ⟨hregs, hbeside⟩ := s.me.wp_kept p w
  exact writesOnly_of_done hi hdone hregs hbeside (Ctx.pc_wp _ _ _)

/-- A special function writes its one destination (R89). -/
theorem writesOnly_sfn {h : Hdr} {s : State} (f : Sfn) (x : OpSfn) (hi : s.issues h {} = true) :
    WritesOnly (regSfn x.r).1 s (issue h plain (sfnOp f x) s) := by
  obtain ⟨ty, rnd, sat, r, bneg⟩ := x
  cases r with
  | s a b => exact writesOnly_s hi ⟨_, rfl⟩
  | v a b => exact writesOnly_v hi ⟨_, rfl⟩

theorem RegsKept.append {ws ws' : List Reg} {k l m : Ctx} (hkl : RegsKept ws k l) (hlm : RegsKept ws' l m) :
    RegsKept (ws ++ ws') k m := by
  obtain ⟨ks, kv, kp⟩ := hkl
  obtain ⟨ls, lv, lp⟩ := hlm
  refine ⟨fun i hi => ?_, fun i hi => ?_, fun i hi => ?_⟩ <;> rw [List.mem_append, not_or] at hi
  · exact (ls i hi.2).trans (ks i hi.1)
  · exact (lv i hi.2).trans (kv i hi.1)
  · exact (lp i hi.2).trans (kp i hi.1)

/-- `vcvt` writes its destination, and the next register where a block becomes 32 lanes of f32 (R80). -/
theorem vcvtTo_kept (k : Ctx) (x : OpVCvt) :
    RegsKept (if x.sty == .e2m1 && x.dty == .f32 then [.v x.a.toNat, .v (x.a + 1).toNat] else [.v x.a.toNat]) k (vcvtTo k x) ∧
      (vcvtTo k x).beside = k.beside ∧ (vcvtTo k x).pc = k.pc := by
  have one (w : Vec) (hv : vcvtTo k x = k.wv x.a w) (hn : ¬ (x.sty == .e2m1 && x.dty == .f32) = true) :
      RegsKept (if x.sty == .e2m1 && x.dty == .f32 then [.v x.a.toNat, .v (x.a + 1).toNat] else [.v x.a.toNat]) k (vcvtTo k x) ∧
        (vcvtTo k x).beside = k.beside ∧ (vcvtTo k x).pc = k.pc := by
    rw [hv, if_neg hn]
    exact ⟨(k.wv_kept _ _).1, rfl, rfl⟩
  by_cases hd : x.dty = .e2m1
  · exact one _ (if_pos hd) (by simp [hd])
  by_cases hs : x.sty = .e2m1
  · by_cases hf : x.dty = .f32
    · obtain ⟨w, u, hv⟩ : ∃ w u, vcvtTo k x = (k.wv x.a w).wv (x.a + 1) u :=
        ⟨_, _, (if_neg hd).trans ((if_pos hs).trans (if_pos hf))⟩
      rw [hv, if_pos (by simp [hs, hf])]
      exact ⟨(k.wv_kept _ _).1.append (Ctx.wv_kept _ _ _).1, rfl, rfl⟩
    · exact one _ ((if_neg hd).trans ((if_pos hs).trans (if_neg hf))) (by simp [hf])
  · exact one _ ((if_neg hd).trans (if_neg hs)) (by simp [hs])

/-- Every instruction that writes only registers has the answer of its kind of destination. -/
theorem exec_writesOnly (i : Instr) (h : Hdr) (s : State) (hh : Instr.hdr? i = some h) (hr : registerOnly i = true)
    (hi : s.issues h {} = true) : WritesOnly (regsWritten i) s (exec i s) := by
  cases i
  case add k x | sub k x | mul k x | mulh k x | div k x | rem k x | and k x | or k x | xor k x | shl k x | shr k x |
    sar k x | min k x | max k x | sel k x | li k x | lui k x | mov k x | pspace k x | powner k x | poff k x | fadd
    k x | fsub k x | fmul k x | ffma k x | fdiv k x | fsqrt k x | fmin k x | fmax k x | fcvt k x | vred k x =>
    obtain rfl : k = h := Option.some.inj hh
    simp only [exec, regsWritten,
      execAdd, execSub, execMul, execMulh, execDiv, execRem, execAnd, execOr, execXor, execShl, execShr, execSar,
      execMin, execMax, execSel, execLi, execLui, execMov, execPspace, execPowner, execPoff, execFadd, execFsub,
      execFmul, execFfma, execFdiv, execFsqrt, execFmin, execFmax, execFcvt, execVred]
    exact writesOnly_s hi ⟨_, rfl⟩
  case cmpEq k x | cmpNe k x | cmpLt k x | cmpLe k x | cmpGt k x | cmpGe k x | fcmpEq k x | fcmpNe k x | fcmpLt k x |
    fcmpLe k x | fcmpGt k x | fcmpGe k x | fcmpUn k x | vcmpEq k x | vcmpNe k x | vcmpLt k x | vcmpLe k x | vcmpGt
    k x | vcmpGe k x | vcmpUn k x =>
    obtain rfl : k = h := Option.some.inj hh
    simp only [exec, regsWritten,
      execCmpEq, execCmpNe, execCmpLt, execCmpLe, execCmpGt, execCmpGe, execFcmpEq, execFcmpNe, execFcmpLt,
      execFcmpLe, execFcmpGt, execFcmpGe, execFcmpUn, execVcmpEq, execVcmpNe, execVcmpLt, execVcmpLe, execVcmpGt,
      execVcmpGe, execVcmpUn]
    exact writesOnly_p hi ⟨_, rfl⟩
  case vadd k x | vsub k x | vmul k x | vfma k x | vmin k x | vmax k x | vand k x | vor k x | vxor k x | vsel k x |
    vbcast k x | vshuf k x =>
    obtain rfl : k = h := Option.some.inj hh
    simp only [exec, regsWritten,
      execVadd, execVsub, execVmul, execVfma, execVmin, execVmax, execVand, execVor, execVxor, execVsel, execVbcast,
      execVshuf]
    exact writesOnly_v hi ⟨_, rfl⟩
  case exp2 k x | log2 k x | exp k x | log k x | rcp k x | rsqrt k x | tanh k x | sigm k x =>
    obtain rfl : k = h := Option.some.inj hh
    exact writesOnly_sfn _ x hi
  case vcvt k x =>
    obtain rfl : k = h := Option.some.inj hh
    obtain ⟨hregs, hbeside, hpc⟩ := vcvtTo_kept s.me x
    simp only [exec, execVcvt]
    exact writesOnly_of_done hi rfl hregs hbeside hpc
  case nop k =>
    obtain rfl : k = h := Option.some.inj hh
    exact ⟨_, issue_done hi rfl, s.goOn_onlyContextChanged k, s.goOn_memoryKept k, s.goOn_regsKept k, by
      rw [State.goOn, State.me_advance]⟩
  all_goals exact absurd hr Bool.false_ne_true

/-- Those instructions need L0 and no unit, and any context may issue them. -/
theorem need_of_registerOnly (i : Instr) (hr : registerOnly i = true) : Instr.need i = {} := by
  revert hr
  cases i <;> simp [registerOnly, Instr.need]

/-- Settles O60: the answer of every such instruction is `exec_writesOnly`. -/
theorem registerOnlyFrame : Obligations.RegisterOnlyFrame := by
  unfold Obligations.RegisterOnlyFrame
  intro i h s hh hr hi
  exact exec_writesOnly i h s hh hr (need_of_registerOnly i hr ▸ hi)

end Sys2Proof.Machine
end

section
/-!
O19, O22, O23, O32: the scalar float instructions, the lanewise vector instructions and compares, and the forming of distributions.
The lanes of every vector operand are the values of one function over the lane numbers, so each statement follows lane by lane.
-/

namespace Sys2Proof.Machine

open Sys2Proof

/-! ### Scalar floats (R65, R66, R68) -/

/-- Where the several-NaN rule decides, it decides each operation (R49). -/
theorem binary_of_chooseNaN {t : ETy} {b c r : Nat} (m : Rnd) (h : chooseNaN t [b, c] = some r) :
    addF t m b c = r ∧ subF t m b c = r ∧ mulF t m b c = r ∧ divF t m b c = r ∧ minF t b c = r ∧ maxF t b c = r := by
  simp [addF, subF, mulF, divF, minF, maxF, h]

/-- A lone NaN is itself, quiet (R40, R49). -/
theorem chooseNaN_single {t : ETy} {b : Nat} (h : isNaN t b = true) : chooseNaN t [b] = some (quietF t b) := by
  simp [chooseNaN, h]

theorem sqrtF_of_isNaN {t : ETy} {b : Nat} (m : Rnd) (h : isNaN t b = true) : sqrtF t m b = quietF t b := by
  simp [sqrtF, chooseNaN_single h]

theorem ETy.isInt_of_isFloat {t : ETy} (h : t.isFloat = true) : t.isInt = false := by
  cases t <;> first | rfl | cases h

theorem isNaN_iff {t : ETy} {c : Nat} : isNaN t c = true ↔ t.isFloat = true ∧ decodeF t c = .nan := by
  simp [isNaN]

/-- A NaN converted to an integer gives zero (R46). -/
theorem convE_of_isNaN {d s : ETy} {m : Rnd} {c : Nat} (hd : d.isInt = true) (hc : isNaN s c = true) : convE d s m c = 0 := by
  obtain ⟨hs, hnan⟩ := isNaN_iff.mp hc
  simp [convE, ETy.isInt_of_isFloat hs, hd, hnan, toIntF]

/-- An integer converted to an integer is wrapped or clamped (R68). -/
theorem intResult_convE {d s : ETy} {m : Rnd} {c : Nat} (hs : s.isInt = true) (hd : d.isInt = true) :
    IntResult d m.sat (intOf s c) (convE d s m c) := by
  simp only [convE, hs, hd, if_true]
  exact intResult_fitI _ _ _

/-- `ffma` rounds the product and the old destination's sum once (R65). -/
theorem exec_ffma (h : Hdr) (x : OpFA) (s : State) (hi : s.issues h {} = true) :
    exec (.ffma h x) s = .next (s.wroteS h x.a (widen x.ty (fmaF x.ty (rndOf s.me x.rnd x.sat)
      (negIf x.ty x.bneg (codeS s.me x.ty x.b)) (negIf x.ty x.cneg (codeS s.me x.ty x.c)) (codeS s.me x.ty x.a)))) := by
  exact exec_done (i := .ffma h x) (body := fun s => floatOp x (fun r b c => fmaF x.ty r b c (codeS s.me x.ty x.a)) s) hi rfl rfl

theorem exec_fcvt (h : Hdr) (z : OpCvt) (s : State) (hi : s.issues h {} = true) :
    exec (.fcvt h z) s = .next (s.wroteS h z.a (widen z.dty (convE z.dty z.sty (rndOf s.me z.rnd z.sat) (codeS s.me z.sty z.b)))) := by
  simp only [exec, execFcvt]
  exact issue_done hi rfl

/-- Settles O19: each instruction writes the operation's value, and the rule for NaNs stands first in every operation. -/
theorem scalarFloatResults : Obligations.ScalarFloatResults := by
  unfold Obligations.ScalarFloatResults
  intro h x y z s hi b c a m answers
  have writes (i : Instr) (f : Rnd → Nat → Nat → Nat) (hexec : exec i s = issue h plain (floatOp x f) s) :
      answers i (f m b c) := exec_done hi hexec rfl
  have root : exec (.fsqrt h y) s = .next (s.wroteS h y.a (widen y.ty (sqrtF y.ty
      { mode := y.rnd, sat := y.sat, ovt := s.me.ovt.toNat, conv := false } (negIf y.ty y.bneg (codeS s.me y.ty y.b))))) := by
    simp only [exec, execFsqrt]
    exact issue_done hi rfl
  refine ⟨writes (.fadd h x) (addF x.ty) rfl, writes (.fsub h x) (subF x.ty) rfl, writes (.fmul h x) (mulF x.ty) rfl,
    exec_ffma h x s hi, writes (.fdiv h x) (divF x.ty) rfl, writes (.fmin h x) (fun _ => minF x.ty) rfl,
    writes (.fmax h x) (fun _ => maxF x.ty) rfl, root, fun r hr => binary_of_chooseNaN m hr, fun r hr => ?_, fun hn => ?_,
    _, exec_fcvt h z s hi, fun hs hd => intResult_convE hs hd, fun _ hd hn => convE_of_isNaN hd hn, fun _ _ => rfl⟩
  · simp [fmaF, hr]
  · rw [root, sqrtF_of_isNaN _ hn]

/-! ### Lanes of operands (R75) -/

/-- The lanes of a vector operation's second source, one by one. -/
theorem srcVSI_eq (k : Ctx) (t : ETy) (m : Rnd) (c : SrcVSI) :
    srcVSI k t m c = (List.range (laneCount t)).map (laneOfSource k t m c) := by
  have const (n : Nat) : List.replicate (laneCount t) n = (List.range (laneCount t)).map fun _ => n := by simp
  cases c with
  | v r => rfl
  | s r => exact const _
  | imm v => exact const _

/-- The lanes that a lanewise operation writes. -/
def vecLanes (k : Ctx) (x : OpVA) (f : Rnd → Nat → Nat → Nat → Nat) : List Nat :=
  (List.range (laneCount x.ty)).map fun l => f (rndOf k x.rnd x.sat) (negIf x.ty x.bneg (lane x.ty (k.rv x.b).toNat l))
    (negIf x.ty x.cneg (laneOfSource k x.ty (rndOf k x.rnd x.sat) x.c l)) (lane x.ty (k.rv x.a).toNat l)

theorem vecOp_eq (x : OpVA) (f : Rnd → Nat → Nat → Nat → Nat) (s : State) :
    vecOp x f s = .done (s.setMe (s.me.wv x.a (BitVec.ofNat 512 (ofLanes x.ty (vecLanes s.me x f))))) := by
  simp only [vecOp, vecLanes, srcVSI_eq, lanesOf, List.map_map, List.zip, List.zipWith_map, List.zipWith_self]
  rfl

/-- A lanewise instruction that issues has in each lane the operation on that lane of its sources, in the type's bits (R76). -/
theorem exec_vecOp {i : Instr} {h : Hdr} {x : OpVA} {f : Rnd → Nat → Nat → Nat → Nat} {s : State} (hi : s.issues h {} = true)
    (hexec : exec i s = issue h plain (vecOp x f) s) :
    ∃ r, r < 2 ^ 512 ∧ exec i s = .next (s.wroteV h x.a r) ∧ ∀ l, l < laneCount x.ty → lane x.ty r l =
      f (rndOf s.me x.rnd x.sat) (negIf x.ty x.bneg (lane x.ty (s.me.rv x.b).toNat l))
        (negIf x.ty x.cneg (laneOfSource s.me x.ty (rndOf s.me x.rnd x.sat) x.c l)) (lane x.ty (s.me.rv x.a).toNat l)
        % 2 ^ ETy.w x.ty :=
  wroteV_lanes (exec_done hi hexec (vecOp_eq x f s)) (by simp [vecLanes]) fun l hl => by simp [vecLanes]

/-- The lanes above those put into a vector are zero. -/
theorem lane_ofLanes_of_le (t : ETy) (xs : List Nat) (l : Nat) (hl : xs.length ≤ l) : lane t (ofLanes t xs) l = 0 := by
  have h : ofLanes t xs < 2 ^ (l * ETy.w t) :=
    (ofLanes_lt_pow t xs).trans_le (Nat.pow_le_pow_right two_pos (by rw [Nat.mul_comm l]; exact Nat.mul_le_mul_left _ hl))
  rw [lane, Nat.div_eq_of_lt h, Nat.zero_mod]

/-- A vector register's lanes, where at most all of them are put together. -/
theorem lane_toNat_ofLanes {t : ETy} {xs : List Nat} (hlen : xs.length ≤ laneCount t) (l : Nat) :
    lane t (BitVec.ofNat 512 (ofLanes t xs)).toNat l = if hl : l < xs.length then xs[l] % 2 ^ ETy.w t else 0 := by
  have hlt : ofLanes t xs < 2 ^ 512 :=
    (ofLanes_lt_pow t xs).trans_le (laneCount_mul_w t ▸ Nat.pow_le_pow_right two_pos (Nat.mul_le_mul_left _ hlen))
  rw [BitVec.toNat_ofNat, Nat.mod_eq_of_lt hlt]
  split
  · exact lane_ofLanes t xs l ‹_›
  · exact lane_ofLanes_of_le t xs l (not_lt.mp ‹_›)

/-! ### Lanewise operations and conversions (R76, R80) -/

theorem ETy.ne_e2m1_of_isVec {t : ETy} (h : t.isVec = true) : t ≠ .e2m1 := by rintro rfl; cases h

/-- `vcvt` between vector types converts lane by lane, with the lanes beyond the source's zero. -/
theorem lane_vcvtTo (k : Ctx) (x : OpVCvt) (hd : x.dty.isVec = true) (hs : x.sty.isVec = true) {l : Nat} (hl : l < laneCount x.dty) :
    lane x.dty ((vcvtTo k x).rv x.a).toNat l = if l < laneCount x.sty then
      convE x.dty x.sty { mode := x.rnd, sat := x.sat, ovt := k.ovt.toNat, conv := true } (lane x.sty (k.rv x.b).toNat l)
        % 2 ^ ETy.w x.dty
      else 0 := by
  have hto : vcvtTo k x = k.wv x.a (BitVec.ofNat 512 (ofLanes x.dty ((List.range (min (laneCount x.dty) (laneCount x.sty))).map
      fun i => convE x.dty x.sty { rndOf k x.rnd x.sat with conv := true } (lane x.sty (k.rv x.b).toNat i)))) :=
    (if_neg (ETy.ne_e2m1_of_isVec hd)).trans (if_neg (ETy.ne_e2m1_of_isVec hs))
  rw [hto, Ctx.rv_wv, if_pos rfl, lane_toNat_ofLanes (by simp)]
  simp [hl, rndOf]

theorem exec_vcvt (h : Hdr) (v : OpVCvt) (s : State) (hi : s.issues h {} = true) :
    exec (.vcvt h v) s = .next ((s.setMe (vcvtTo s.me v)).goOn h) := by
  simp only [exec, execVcvt]
  exact issue_done hi rfl

/-- Settles O22: every lane by `exec_vecOp`, for integer types by the wrapping or clamping of its exact value. -/
theorem vectorLanes : Obligations.VectorLanes := by
  unfold Obligations.VectorLanes
  intro h x v s hi hvec m b c a each int w
  have valued (i : Instr) (f : Rnd → Nat → Nat → Nat → Nat) (hexec : exec i s = issue h plain (vecOp x f) s)
      (g : Nat → Nat) (hg : ∀ l, f m (b l) (c l) (a l) = g l) : each i (fun l r => r = g l % w) := by
    obtain ⟨r, hr, hx, hl⟩ := exec_vecOp hi hexec
    exact ⟨r, hr, hx, fun l hlt => (hl l hlt).trans (congrArg (· % w) (hg l))⟩
  have fitted (i : Instr) (f : Rnd → Nat → Nat → Nat → Nat) (hexec : exec i s = issue h plain (vecOp x f) s)
      (g : Nat → Int) (hg : ∀ l, f m (b l) (c l) (a l) = fitI x.ty x.sat (g l)) :
      each i (fun l r => IntResult x.ty x.sat (g l) r) := by
    obtain ⟨r, hr, hx, hl⟩ := valued i f hexec _ hg
    refine ⟨r, hr, hx, fun l hlt => ?_⟩
    obtain ⟨hbound, hval⟩ := intResult_fitI x.ty x.sat (g l)
    rw [hl l hlt, Nat.mod_eq_of_lt hbound]
    exact ⟨hbound, hval⟩
  refine ⟨fun ht => ⟨?_, ?_, ?_, ?_⟩, fun ht => ⟨?_, ?_, ?_, ?_⟩, ?_, ?_, ?_, ?_, ?_,
    _, exec_vcvt h v s hi, by simpa using (vcvtTo_kept s.me v).1, fun hd hs l hl => lane_vcvtTo s.me v hd hs hl⟩
  · exact fitted (.vadd h x) _ rfl (fun l => int (b l) + int (c l)) fun l => if_pos ht
  · exact fitted (.vsub h x) _ rfl (fun l => int (b l) - int (c l)) fun l => if_pos ht
  · exact fitted (.vmul h x) _ rfl (fun l => int (b l) * int (c l)) fun l => if_pos ht
  · exact fitted (.vfma h x) _ rfl (fun l => int (b l) * int (c l) + int (a l)) fun l => if_pos ht
  all_goals try replace ht := Bool.eq_false_iff.mp (ETy.isInt_of_isFloat ht)
  · exact valued (.vadd h x) _ rfl (fun l => addF x.ty m (b l) (c l)) fun l => if_neg ht
  · exact valued (.vsub h x) _ rfl (fun l => subF x.ty m (b l) (c l)) fun l => if_neg ht
  · exact valued (.vmul h x) _ rfl (fun l => mulF x.ty m (b l) (c l)) fun l => if_neg ht
  · exact valued (.vfma h x) _ rfl (fun l => fmaF x.ty m (b l) (c l) (a l)) fun l => if_neg ht
  · exact valued (.vmin h x) _ rfl _ fun l => rfl
  · exact valued (.vmax h x) _ rfl _ fun l => rfl
  · exact valued (.vand h x) _ rfl _ fun l => rfl
  · exact valued (.vor h x) _ rfl _ fun l => rfl
  · exact valued (.vxor h x) _ rfl _ fun l => rfl

/-! ### Vector compares (R57, R79) -/

theorem testBit_foldr_b2n (bs : List Bool) (l : Nat) :
    (bs.foldr (fun b a => b2n b + 2 * a) 0).testBit l = bs[l]?.getD false := by
  induction bs generalizing l with
  | nil => simp
  | cons b bs ih =>
    have hsplit (n : Nat) : b2n b + 2 * n = Nat.bit b n := by cases b <;> simp [b2n, Nat.bit]; omega
    rw [List.foldr_cons, hsplit]
    cases l with
    | zero => simp
    | succ l => simpa [Nat.testBit_bit_succ] using ih l

/-- Bit l of what a vector compare writes (R57). -/
theorem getLsbD_predLanes (bs : List Bool) {l : Nat} (hl : l < 64) : (predLanes bs).getLsbD l = bs[l]?.getD false := by
  rw [predLanes, BitVec.getLsbD_ofNat, testBit_foldr_b2n]
  simp [hl]

/-- A vector compare that issues writes a bit for each lane, and zero above them (R79). -/
theorem exec_vcmpOp {i : Instr} {h : Hdr} {f : Cond} {x : OpVCmp} {s : State} (hi : s.issues h {} = true)
    (hexec : exec i s = issue h plain (vcmpOp f x) s) :
    ∃ p : Word, exec i s = .next (s.wroteP h x.p p) ∧ ∀ l, l < 64 → p.getLsbD l = (decide (l < laneCount x.ty) &&
      cmpE f x.ty (lane x.ty (s.me.rv x.b).toNat l) (laneOfSource s.me x.ty (rndOf s.me .rn false) x.c l)) := by
  refine ⟨_, exec_done hi hexec rfl, fun l hl => ?_⟩
  rw [getLsbD_predLanes _ hl, srcVSI_eq, lanesOf, List.zipWith_map, List.zipWith_self, List.getElem?_map]
  by_cases hlt : l < laneCount x.ty <;> simp [hlt]

/-- Settles O23. -/
theorem vectorCompares : Obligations.VectorCompares := by
  unfold Obligations.VectorCompares
  intro h x s hi _ m b c each
  exact ⟨exec_vcmpOp (i := .vcmpEq h x) hi rfl, exec_vcmpOp (i := .vcmpNe h x) hi rfl, exec_vcmpOp (i := .vcmpLt h x) hi rfl,
    exec_vcmpOp (i := .vcmpLe h x) hi rfl, exec_vcmpOp (i := .vcmpGt h x) hi rfl, exec_vcmpOp (i := .vcmpGe h x) hi rfl,
    exec_vcmpOp (i := .vcmpUn h x) hi rfl⟩

/-! ### Forming distributions (R121, R123, R124) -/

theorem exec_dpt (h : Hdr) (x : OpDpt) (s : State) (hi : s.issues h { helper := false } = true) :
    exec (.dpt h x) s = .next ((s.wd x.a { pts := (List.range 8).flatMap (fun l => List.replicate 8 ((match x.b with
      | .s r => codeS s.me .f32 r
      | .v r => lane .f32 (s.me.rv r).toNat l), 8192)), tag := 0 }).goOn h) := by
  simp only [exec, execDpt]
  exact issue_control_done hi rfl

/-- The mixed points of a lane by al parts of 65,536 (R121). -/
def mixedPts (al : Nat) (a b : List (Nat × Nat)) : List (Nat × Nat) :=
  condense ((a.map (fun e => (e.1, e.2 * massOf b * (65536 - al))) ++ b.map (fun e => (e.1, e.2 * massOf a * al))).filter
    (fun e => e.2 != 0))

theorem exec_dmix (h : Hdr) (y : OpDmix) (s : State) (hi : s.issues h { helper := false } = true) :
    exec (.dmix h y) s = .next ((s.freshTag.2.wd y.a { pts := (List.range 8).flatMap (fun l =>
      mixedPts ((s.me.rs y.c).toNat % 65536) (s.mycore.d[y.a.toNat].lane l) (s.mycore.d[y.b.toNat].lane l)), tag := s.freshTag.1 }).goOn h) := by
  simp only [exec, execDmix]
  exact issue_control_done hi rfl

theorem exec_dtag (h : Hdr) (z : OpDtag) (s : State) (hi : s.issues h { helper := false } = true) :
    exec (.dtag h z) s = .next ((s.wd z.a { s.mycore.d[z.a.toNat] with tag := (match z.b with
      | .s r => (s.me.rs r).toNat % 256
      | .imm i => i.toNat) }).goOn h) := by
  simp only [exec, execDtag]
  exact issue_control_done hi rfl

/-- The context with the moments of a register's lanes in a pair of its vector registers (R123). -/
def withMoments (k : Ctx) (a : VReg) (d : Dist) : Ctx :=
  let ms := (List.range 8).map fun l => momentsOf (d.lane l)
  (k.wv a (BitVec.ofNat 512 (ofLanes .f32 (ms.map (·.1) ++ ms.map (·.2.1))))).wv (a + 1)
    (BitVec.ofNat 512 (ofLanes .f32 (ms.map (·.2.2))))

theorem exec_dmom (h : Hdr) (u : OpDmom) (s : State) (hi : s.issues h { helper := false } = true) :
    exec (.dmom h u) s = .next ((s.setMe (withMoments s.me u.a s.mycore.d[u.b.toNat])).goOn h) := by
  simp only [exec, execDmom]
  exact issue_control_done hi rfl

theorem withMoments_kept (k : Ctx) (a : VReg) (d : Dist) :
    RegsKept [.v a.toNat, .v (a + 1).toNat] k (withMoments k a d) := (k.wv_kept _ _).1.append (Ctx.wv_kept _ _ _).1

theorem VReg.ne_succ (a : VReg) : a ≠ a + 1 := by
  revert a
  decide

/-- Where the moments of lane l stand: the mean in lane l and the variance in lane 8 + l of the first register, the third moment in
lane l of the second, and zero above. -/
theorem lane_withMoments (k : Ctx) (a : VReg) (d : Dist) {l : Nat} (hl : l < 8) :
    lane .f32 ((withMoments k a d).rv a).toNat l = (momentsOf (d.lane l)).1 % 2 ^ 32 ∧
    lane .f32 ((withMoments k a d).rv a).toNat (8 + l) = (momentsOf (d.lane l)).2.1 % 2 ^ 32 ∧
    lane .f32 ((withMoments k a d).rv (a + 1)).toNat l = (momentsOf (d.lane l)).2.2 % 2 ^ 32 ∧
    lane .f32 ((withMoments k a d).rv (a + 1)).toNat (8 + l) = 0 := by
  have hw : ETy.w .f32 = 32 := rfl
  have hn : laneCount .f32 = 16 := rfl
  simp only [withMoments, Ctx.rv_wv, if_neg (VReg.ne_succ a), if_true]
  refine ⟨?_, ?_, ?_, ?_⟩ <;> rw [lane_toNat_ofLanes (by simp [hn])]
  · simp [hw, hl, show l < 16 by omega]
  · simp [hw, show 8 + l < 16 by omega]
  · simp [hw, hl]
  · simp

theorem exec_dqnt (h : Hdr) (v : OpDqnt) (s : State) (hi : s.issues h { helper := false } = true) :
    exec (.dqnt h v) s = .next (s.wroteV h v.a (ofLanes .f32
      ((List.range 8).map fun l => quantileOf (min (s.me.rs v.c).toNat 65536) 65536 (s.mycore.d[v.b.toNat].lane l)))) := by
  simp only [exec, execDqnt]
  exact issue_control_done hi rfl

/-- What `dmix` leaves: a condensed mixture in every lane with a fresh tag, and all else of the core as it was (R119, R121). -/
theorem dmix_result (s : State) (a : DReg) (f : Nat → List (Nat × Nat)) (hlen : ∀ l, (f l).length = 8)
    (hweight : ∀ l, ∀ p ∈ f l, p.2 = 8192) :
    let t := s.freshTag.2.wd a { pts := (List.range 8).flatMap f, tag := s.freshTag.1 }
    let r := t.mycore.d[a.toNat]
    RegsKept [] s.me t.me ∧ (∀ d : DReg, d ≠ a → t.mycore.d[d.toNat] = s.mycore.d[d.toNat]) ∧ t.mem = s.mem ∧ t.banks = s.banks ∧
      t.me.tagCtr = r.tag ∧ freshTagOf s r.tag ∧ r.pts.length = 64 ∧ (∀ p ∈ r.pts, p.2 = 8192) ∧ ∀ l, l < 8 → r.lane l = f l := by
  intro t r
  have hr : r = _ := State.d_wd_self _ _ _
  have hme : t.me = { s.me with tagCtr := s.freshTag.1 } := (State.me_wd _ _ _).trans s.me_freshTag
  rw [hme, hr]
  refine ⟨⟨fun _ _ => rfl, fun _ _ => rfl, fun _ _ => rfl⟩, fun d hd => ?_, rfl, rfl, rfl, s.freshTag_fresh, length_lanes hlen,
    fun p hp => ?_, fun l hl => Dist.lane_flatMap hlen _ l hl⟩
  · exact (State.d_wd_ne _ _ _ _ hd).trans (congrArg (fun ds => ds[d.toNat]) s.d_freshTag)
  · obtain ⟨l, -, hp⟩ := List.mem_flatMap.mp hp
    exact hweight l p hp

/-- Settles O32: the effect of each instruction, and its lanes one by one. -/
theorem distributionForming : Obligations.DistributionForming := by
  unfold Obligations.DistributionForming
  intro h x y z u v s hi
  refine ⟨⟨_, exec_dpt h x s hi, rfl, fun l hl => ?_⟩, ⟨_, exec_dmix h y s hi, ?_⟩, exec_dtag h z s hi,
    ⟨_, exec_dmom h u s hi, withMoments_kept _ _ _, fun l hl => lane_withMoments _ _ _ hl⟩,
    ⟨_, ?_, exec_dqnt h v s hi, fun l hl => ?_, fun l hl _ => ?_⟩⟩
  · exact Dist.lane_flatMap (fun _ => List.length_replicate) 0 l hl
  · obtain ⟨hregs, hd, hmem, hbanks, htag, hfresh, hlen, hweight, hlanes⟩ := dmix_result s y.a
      (fun l => mixedPts ((s.me.rs y.c).toNat % 65536) (s.mycore.d[y.a.toNat].lane l) (s.mycore.d[y.b.toNat].lane l))
      (fun _ => length_condense _) (fun _ _ hp => weight_condense hp)
    exact ⟨hregs, hd, hmem, hbanks, htag, hfresh, hlen, hweight, hlanes⟩
  · exact (ofLanes_lt_pow _ _).trans_le (Nat.pow_le_pow_right two_pos (by simp; decide))
  · rw [lane_ofLanes _ _ _ (by simpa using hl)]
    simp
    rfl
  · exact lane_ofLanes_of_le _ _ _ (by simpa using hl)

end Sys2Proof.Machine
end

section
/-!
O2: a step runs the decoded instruction. The search of R233 passes over the contexts that cannot be tried, and the turn of the first
that can is the execution of what it has fetched, or of what it has under way.
-/

namespace Sys2Proof.Machine

open Sys2Proof

/-- The search passes over contexts that cannot be tried without their yield flag. -/
theorem State.tryEach_append (s : State) (c : Nat) (ys xs : List Nat)
    (hys : ∀ y ∈ ys, (s.canTry c y && !(s.ctx c y).yieldNow) = false) :
    s.tryEach c false (ys ++ xs) = s.tryEach c false xs := by
  induction ys with
  | nil => rfl
  | cons y ys ih =>
    have hy : (s.canTry c y && (s.ctx c y).yieldNow == false) = false := by
      simpa using hys y List.mem_cons_self
    rw [List.cons_append, State.tryEach, hy]
    exact ih fun z hz => hys z (List.mem_cons_of_mem _ hz)

/-- The state in which the search lets context x of core c take its turn (R233). -/
def State.turnOf (s : State) (c x : Nat) : State :=
  { (s.clearYield c).setCore c { (s.clearYield c).core c with last := x } with cur := c, curCtx := x }

/-- The search ends on the first context that can be tried and does not decline (R233). -/
theorem State.tryEach_cons (s : State) (c x : Nat) (xs : List Nat) {u : State} (htry : s.canTry c x = true)
    (hyield : (s.ctx c x).yieldNow = false) (hturn : (s.turnOf c x).turn = .next u) (hheld : (u.ctx c x).wait ≠ .held) :
    s.tryEach c false (x :: xs) = some (.next u) := by
  have hgo : (s.canTry c x && (s.ctx c x).yieldNow == false) = true := by simp [htry, hyield]
  rw [State.tryEach, if_pos hgo]
  change (match (s.turnOf c x).turn with
    | .next u => if (u.ctx c x).wait == Wait.held then s.tryEach c false xs else some (.next u)
    | o => some o) = _
  rw [hturn]
  exact if_neg (by simpa using hheld)

theorem range_split {n : Nat} (hn : n < 16) : ∃ xs, List.range 16 = List.range n ++ n :: xs := by
  obtain ⟨k, hk⟩ : ∃ k, 16 = n + (k + 1) := ⟨15 - n, by omega⟩
  refine ⟨(List.range k).map (fun i => n + (i + 1)), ?_⟩
  rw [hk, List.range_add, List.range_succ_eq_map]
  simp [Function.comp_def]

/-- A fetch charges HBM, and leaves the issuing core and context (R271). -/
theorem State.cur_chargePieces (s : State) (p : Nat) (ps : List Piece) :
    (s.chargePieces p ps).cur = s.cur ∧ (s.chargePieces p ps).curCtx = s.curCtx := by
  induction ps generalizing s with
  | nil => exact ⟨rfl, rfl⟩
  | cons q ps ih =>
    obtain ⟨hcur, hctx⟩ := ih (s.chargePieces p [q])
    have hone : (s.chargePieces p [q]).cur = s.cur ∧ (s.chargePieces p [q]).curCtx = s.curCtx := by
      simp only [State.chargePieces, State.each, List.foldl]
      repeat' split
      all_goals exact ⟨rfl, rfl⟩
    exact ⟨hcur.trans hone.1, hctx.trans hone.2⟩

theorem State.cur_of_fetch {s t : State} {w : BitVec 96} (hf : s.fetch = .ok (w, t)) : t.cur = s.cur ∧ t.curCtx = s.curCtx := by
  unfold State.fetch at hf
  dsimp only at hf
  repeat' split at hf
  all_goals cases hf
  all_goals exact State.cur_chargePieces _ _ _

theorem State.run_next {s t : State} {i : Instr} (hexec : exec i s = .next t) :
    s.run i = .next (s.keep i (s.unpoison i (s.counted i t))) := by
  simp [State.run, hexec]

/-- A turn runs what the context fetched and decoded (R31). -/
theorem State.turn_fetched {v f t : State} {w : BitVec 96} {i : Instr} (hmid : v.me.mid = none) (hf : v.fetch = .ok (w, f))
    (hd : decode w = some i) (hlock : f.interlocked v.cur v.curCtx i = false) (hpoison : f.poisoned i = none)
    (hexec : exec i f = .next t) : v.turn = .next (f.keep i (f.unpoison i (f.counted i t))) := by
  obtain ⟨hcur, hctx⟩ := State.cur_of_fetch hf
  rw [← hcur, ← hctx] at hlock
  simp only [State.turn, hmid, Option.bind_none, hf, hd, hlock, hpoison]
  exact State.run_next hexec

/-- A turn goes on with what the context has under way, and fetches nothing (R129). -/
theorem State.turn_underWay {v t : State} {i : Instr} (hcmd : v.me.mid.bind (fun m => m.cmd) = some i) (hexec : exec i v = .next t) :
    v.turn = .next (v.keep i (v.unpoison i (v.counted i t))) := by
  simp only [State.turn, hcmd]
  exact State.run_next hexec

/-- Settles O2: the choice is the cycle, the search ends on the context, and its turn is one of the two. -/
theorem stepRunsDecoded : Obligations.StepRunsDecoded := by
  unfold Obligations.StepRunsDecoded
  intro s t c x n w i hagenda hchoice hn u hx hskip htry hyield v after
  have steps (y : State) (hturn : v.turn = .next y) (hheld : (y.ctx c x).wait ≠ .held) :
      step s = .next y.freezeDrained.stampHeads.tick := by
    obtain ⟨xs, hxs⟩ := range_split hn
    have hcycle : s.cycle c = .next y := by
      have horder : u.tryEach c false ((List.range 16).map fun k => ((u.core c).last + 1 + k) % 16) = some (.next y) := by
        rw [hxs, List.map_append, List.map_cons, ← hx, State.tryEach_append]
        · exact u.tryEach_cons c x _ htry hyield hturn hheld
        · intro z hz
          obtain ⟨m, hm, rfl⟩ := List.mem_map.mp hz
          exact hskip m (List.mem_range.mp hm)
      simp only [State.cycle]
      rw [horder]
    simp only [step, hagenda, State.inner, hchoice, State.act, hcycle, ticked]
  exact ⟨fun f hmid hf hd hlock hpoison hexec hheld => steps _ (State.turn_fetched hmid hf hd hlock hpoison hexec) hheld,
    fun hcmd hexec hheld => steps _ (State.turn_underWay hcmd hexec) hheld⟩

end Sys2Proof.Machine
end

section
/-!
O18: rounding and the codes of the float formats. Rounding is a statement about n/d·2^k and the whole number made of it; what a code
stands for is a statement about its three fields. The special functions rest on both.
-/

namespace Sys2Proof.Machine

open Sys2Proof

/-! ### Powers of two and the logarithm -/

/-- A power of two as a quotient of the two natural powers that the model uses. -/
theorem two_zpow_eq (k : Int) : (2 : ℚ) ^ k = (2 ^ k.toNat : Nat) / (2 ^ (-k).toNat : Nat) := by
  rcases le_total 0 k with hk | hk
  · obtain ⟨j, rfl⟩ := Int.eq_ofNat_of_zero_le hk
    simp
  · obtain ⟨j, hj⟩ := Int.eq_ofNat_of_zero_le (neg_nonneg.mpr hk)
    obtain rfl : k = -(j : Int) := by omega
    simp

/-- A comparison of scaled naturals is one of rationals. -/
theorem mul_pow_toNat_le_iff (n d : Nat) (k : Int) :
    d * 2 ^ k.toNat ≤ n * 2 ^ (-k).toNat ↔ (d : ℚ) * 2 ^ k ≤ n := by
  have hp : (0 : ℚ) < (2 ^ (-k).toNat : Nat) := by positivity
  rw [two_zpow_eq, ← mul_div_assoc, div_le_iff₀ hp, ← Nat.cast_le (α := ℚ), Nat.cast_mul, Nat.cast_mul]

/-- flog is the whole part of the logarithm. -/
theorem flog_spec {n d : Nat} (hn : 0 < n) (hd : 0 < d) :
    (2 : ℚ) ^ flog n d ≤ n / d ∧ (n : ℚ) / d < 2 ^ (flog n d + 1) := by
  have hd' : (0 : ℚ) < d := by exact_mod_cast hd
  have hn1 : (2 : ℚ) ^ (n.log2 : Int) ≤ n := by exact_mod_cast Nat.log2_self_le hn.ne'
  have hn2 : (n : ℚ) < 2 ^ ((n.log2 : Int) + 1) := by exact_mod_cast Nat.lt_log2_self (n := n)
  have hd1 : (2 : ℚ) ^ (d.log2 : Int) ≤ d := by exact_mod_cast Nat.log2_self_le hd.ne'
  have hd2 : (d : ℚ) < 2 ^ ((d.log2 : Int) + 1) := by exact_mod_cast Nat.lt_log2_self (n := d)
  have hiff := mul_pow_toNat_le_iff n d ((n.log2 : Int) - d.log2)
  have hpos (k : Int) : (0 : ℚ) < 2 ^ k := zpow_pos two_pos k
  unfold flog
  dsimp only
  split <;> rename_i h <;> rw [hiff] at h
  · refine ⟨(le_div_iff₀ hd').mpr (by linarith [mul_comm (d : ℚ) (2 ^ ((n.log2 : Int) - d.log2))]), (div_lt_iff₀ hd').mpr ?_⟩
    calc (n : ℚ) < 2 ^ ((n.log2 : Int) + 1) := hn2
      _ = 2 ^ ((n.log2 : Int) - d.log2 + 1) * 2 ^ (d.log2 : Int) := by rw [← zpow_add₀ two_ne_zero]; congr 1; ring
      _ ≤ _ := mul_le_mul_of_nonneg_left hd1 (hpos _).le
  · refine ⟨(le_div_iff₀ hd').mpr ?_, (div_lt_iff₀ hd').mpr ?_⟩
    · calc (2 : ℚ) ^ ((n.log2 : Int) - d.log2 - 1) * d
          ≤ 2 ^ ((n.log2 : Int) - d.log2 - 1) * 2 ^ ((d.log2 : Int) + 1) := mul_le_mul_of_nonneg_left hd2.le (hpos _).le
        _ = 2 ^ (n.log2 : Int) := by rw [← zpow_add₀ two_ne_zero]; congr 1; ring
        _ ≤ n := hn1
    · rw [sub_add_cancel]
      linarith [mul_comm (d : ℚ) (2 ^ ((n.log2 : Int) - d.log2))]

/-! ### Rounding to a whole number (R43) -/

/-- The modes that take a value toward zero, and those that take it away from zero. -/
def towardZero (md : RMode) (neg : Bool) : Prop := md = .rz ∨ (md = .rd ∧ neg = false) ∨ (md = .ru ∧ neg = true)

def awayFromZero (md : RMode) (neg : Bool) : Prop := (md = .rd ∧ neg = true) ∨ (md = .ru ∧ neg = false)

/-- A quotient of naturals is its whole part and its remainder's part. -/
theorem div_eq_div_add_mod (a : Nat) {b : Nat} (hb : 0 < b) : (a : ℚ) / b = (a / b : Nat) + (a % b : Nat) / (b : ℚ) := by
  have hb' : (b : ℚ) ≠ 0 := by exact_mod_cast hb.ne'
  have h : (a : ℚ) = b * (a / b : Nat) + (a % b : Nat) := by exact_mod_cast (Nat.div_add_mod a b).symm
  field_simp
  linarith

/-- Whether a quotient with whole part q and remainder r by b is taken up (R43). -/
def roundsUp (md : RMode) (neg : Bool) (q r b : Nat) : Bool :=
  match md with
  | .rn => decide (b < 2 * r) || (2 * r == b && q % 2 == 1)
  | .rz => false
  | .rd => neg && r != 0
  | .ru => !neg && r != 0

theorem roundWhole_eq (md : RMode) (neg : Bool) (n d : Nat) (k : Int) :
    let a := n * 2 ^ k.toNat
    let b := d * 2 ^ (-k).toNat
    roundWhole md neg n d k = a / b + b2n (roundsUp md neg (a / b) (a % b) b) := by
  cases md <;> rfl

theorem roundsUp_towardZero {md : RMode} {neg : Bool} (h : towardZero md neg) (q r b : Nat) : roundsUp md neg q r b = false := by
  rcases h with rfl | ⟨rfl, rfl⟩ | ⟨rfl, rfl⟩ <;> rfl

theorem roundsUp_awayFromZero {md : RMode} {neg : Bool} (h : awayFromZero md neg) (q r b : Nat) :
    roundsUp md neg q r b = (r != 0) := by
  rcases h with ⟨rfl, rfl⟩ | ⟨rfl, rfl⟩ <;> rfl

theorem roundsUp_rn (neg : Bool) (q r b : Nat) : roundsUp .rn neg q r b = true ↔ b < 2 * r ∨ (2 * r = b ∧ q % 2 = 1) := by
  simp [roundsUp]

/-- Nothing is taken up without a remainder. -/
theorem pos_of_roundsUp {md : RMode} {neg : Bool} {q r b : Nat} (hb : 0 < b) (h : roundsUp md neg q r b = true) : 0 < r := by
  cases md with
  | rn => have := (roundsUp_rn neg q r b).mp h; omega
  | rz => cases h
  | rd | ru =>
    simp only [roundsUp, Bool.and_eq_true, bne_iff_ne] at h
    omega

/-- The value that is rounded: its whole part and a fraction, which is the remainder's part. -/
theorem scaledQuotient_eq (n : Nat) {d : Nat} (k : Int) (hd : 0 < d) :
    let a := n * 2 ^ k.toNat
    let b := d * 2 ^ (-k).toNat
    (n : ℚ) / d * 2 ^ k = (a / b : Nat) + (a % b : Nat) / (b : ℚ) ∧ 0 < b := by
  intro a b
  have hb : 0 < b := Nat.mul_pos hd (Nat.two_pow_pos _)
  refine ⟨?_, hb⟩
  rw [← div_eq_div_add_mod a hb, two_zpow_eq k]
  have h1 : (d : ℚ) ≠ 0 := by exact_mod_cast hd.ne'
  simp only [a, b]
  push_cast
  field_simp

/-- What rounding to a whole number gives: within one of the value, and where each mode takes it. -/
theorem roundWhole_spec (md : RMode) (neg : Bool) (n : Nat) {d : Nat} (k : Int) (hd : 0 < d) :
    let x : ℚ := (n : ℚ) / d * 2 ^ k
    let m : ℚ := roundWhole md neg n d k
    m - 1 < x ∧ x < m + 1 ∧ (towardZero md neg → m ≤ x) ∧ (awayFromZero md neg → x ≤ m) ∧
      (md = .rn → |x - m| ≤ 1 / 2 ∧ (|x - m| = 1 / 2 → roundWhole md neg n d k % 2 = 0)) := by
  intro x m
  obtain ⟨hx, hb⟩ := scaledQuotient_eq n k hd
  have hm := roundWhole_eq md neg n d k
  dsimp only at hx hb hm
  set a := n * 2 ^ k.toNat
  set b := d * 2 ^ (-k).toNat
  have hr := Nat.mod_lt a hb
  have hb' : (0 : ℚ) < b := by exact_mod_cast hb
  have hm' : m = (a / b : Nat) + (b2n (roundsUp md neg (a / b) (a % b) b) : Nat) := by simp only [m, hm]; push_cast; rfl
  have hlt : ((a % b : Nat) : ℚ) / b < 1 := (div_lt_one hb').mpr (by exact_mod_cast hr)
  have hge : 0 ≤ ((a % b : Nat) : ℚ) / b := by positivity
  have half_lt : (1 : ℚ) / 2 < ((a % b : Nat) : ℚ) / b ↔ b < 2 * (a % b) := by
    rw [div_lt_div_iff₀ two_pos hb', one_mul, mul_comm]
    exact_mod_cast Iff.rfl
  have half_eq : (1 : ℚ) / 2 = ((a % b : Nat) : ℚ) / b ↔ b = 2 * (a % b) := by
    rw [div_eq_div_iff two_ne_zero hb'.ne', one_mul, mul_comm (_ : ℚ) 2]
    exact_mod_cast Iff.rfl
  have zero_iff : ((a % b : Nat) : ℚ) / b = 0 ↔ a % b = 0 := by
    rw [div_eq_zero_iff, or_iff_left hb'.ne', Nat.cast_eq_zero]
  have hfrac : x = (a / b : Nat) + ((a % b : Nat) : ℚ) / b := hx
  generalize ((a % b : Nat) : ℚ) / b = f at *
  cases hup : roundsUp md neg (a / b) (a % b) b <;> simp only [hup, b2n, if_true, Bool.false_eq_true, if_false] at hm hm'
  · push_cast at hm'
    refine ⟨by linarith, by linarith, fun _ => by linarith, fun haway => ?_, fun hmd => ?_⟩
    · have h0 : a % b = 0 := by simpa [roundsUp_awayFromZero haway] using hup
      linarith [zero_iff.mpr h0]
    · subst hmd
      have hn : ¬ (b < 2 * (a % b) ∨ (2 * (a % b) = b ∧ (a / b) % 2 = 1)) := fun hc => by
        rw [(roundsUp_rn neg _ _ _).mpr hc] at hup; cases hup
      have hle : f ≤ 1 / 2 := not_lt.mp fun hc => hn (.inl (half_lt.mp hc))
      have habs : |x - m| = f := by rw [hfrac, hm', abs_of_nonneg (by linarith)]; ring
      rw [habs]
      refine ⟨hle, fun he => ?_⟩
      have := half_eq.mp he.symm
      omega
  · have h0 : 0 < a % b := pos_of_roundsUp hb hup
    push_cast at hm'
    have hf : 0 < f := hge.lt_of_ne fun h => h0.ne' (zero_iff.mp h.symm)
    refine ⟨by linarith, by linarith, fun ht => ?_, fun _ => by linarith, fun hmd => ?_⟩
    · rw [roundsUp_towardZero ht] at hup; cases hup
    · subst hmd
      have hc := (roundsUp_rn neg _ _ _).mp hup
      have hle : 1 / 2 ≤ f := by
        rcases hc with hc | ⟨hc, -⟩
        · exact (half_lt.mpr hc).le
        · exact (half_eq.mpr hc.symm).le
      have habs : |x - m| = 1 - f := by rw [hfrac, hm', abs_of_nonpos (by linarith)]; ring
      rw [habs]
      refine ⟨by linarith, fun he => ?_⟩
      have := half_eq.mp (by linarith)
      omega

/-- A whole number at most the value is at most what it rounds to, and one at least the value at least that. -/
theorem le_roundWhole {md : RMode} {neg : Bool} {n d N : Nat} {k : Int} (hd : 0 < d) (h : (N : ℚ) ≤ (n : ℚ) / d * 2 ^ k) :
    N ≤ roundWhole md neg n d k := by
  obtain ⟨-, hlt, -⟩ := roundWhole_spec md neg n k hd
  have : (N : ℚ) < (roundWhole md neg n d k + 1 : Nat) := by push_cast; linarith
  exact Nat.le_of_lt_succ (by exact_mod_cast this)

theorem roundWhole_le {md : RMode} {neg : Bool} {n d N : Nat} {k : Int} (hd : 0 < d) (h : (n : ℚ) / d * 2 ^ k ≤ N) :
    roundWhole md neg n d k ≤ N := by
  obtain ⟨hlt, -⟩ := roundWhole_spec md neg n k hd
  have : (roundWhole md neg n d k : ℚ) < (N + 1 : Nat) := by push_cast; linarith
  exact Nat.le_of_lt_succ (by exact_mod_cast this)

/-! ### Rounding to a format (R43) -/

theorem roundMag_snd (t : ETy) (md : RMode) (neg : Bool) (n d : Nat) (e : Int) :
    (roundMag t md neg n d e).2 = max (flog n d + e) (1 - (t.bias : Int)) - t.man := rfl

theorem roundMag_fst (t : ETy) (md : RMode) (neg : Bool) (n d : Nat) (e : Int) :
    (roundMag t md neg n d e).1 = roundWhole md neg n d (e - (roundMag t md neg n d e).2) := rfl

/-- The value in units of the spacing that its rounding has. -/
theorem units_mul (n d : Nat) (e q : Int) : (n : ℚ) / d * 2 ^ e = (n : ℚ) / d * 2 ^ (e - q) * 2 ^ q := by
  rw [mul_assoc, ← zpow_add₀ two_ne_zero, sub_add_cancel]

/-- In units of the spacing, a value is below 2^(man + 1), and at least 2^man unless the spacing is the subnormal one. -/
theorem units_bounds (t : ETy) (md : RMode) (neg : Bool) {n d : Nat} (e : Int) (hn : 0 < n) (hd : 0 < d) :
    let q := (roundMag t md neg n d e).2
    (n : ℚ) / d * 2 ^ (e - q) < (2 ^ (t.man + 1) : Nat) ∧
      ((2 ^ t.man : Nat) ≤ (n : ℚ) / d * 2 ^ (e - q) ∨ q = 1 - (t.bias : Int) - t.man) := by
  intro q
  have hq : q = max (flog n d + e) (1 - (t.bias : Int)) - t.man := rfl
  obtain ⟨h1, h2⟩ := flog_spec hn hd
  have hpos : (0 : ℚ) < 2 ^ (e - q) := zpow_pos two_pos _
  constructor
  · calc (n : ℚ) / d * 2 ^ (e - q) < 2 ^ (flog n d + 1) * 2 ^ (e - q) := mul_lt_mul_of_pos_right h2 hpos
      _ = 2 ^ (flog n d + 1 + (e - q)) := (zpow_add₀ two_ne_zero _ _).symm
      _ ≤ 2 ^ ((t.man + 1 : Nat) : Int) := zpow_le_zpow_right₀ one_le_two (by push_cast; omega)
      _ = _ := by push_cast; rfl
  · by_cases hsub : flog n d + e ≤ 1 - (t.bias : Int)
    · exact .inr (by omega)
    · left
      calc ((2 ^ t.man : Nat) : ℚ) = 2 ^ (t.man : Int) := by push_cast; rfl
        _ ≤ 2 ^ (flog n d + (e - q)) := zpow_le_zpow_right₀ one_le_two (by omega)
        _ = 2 ^ flog n d * 2 ^ (e - q) := zpow_add₀ two_ne_zero _ _
        _ ≤ _ := mul_le_mul_of_nonneg_right h1 hpos.le

/-- The form of a rounded value: at most one bit more than the mantissa, and normal unless its spacing is the subnormal one. -/
theorem roundMag_form (t : ETy) (md : RMode) (neg : Bool) {n d : Nat} (e : Int) (hn : 0 < n) (hd : 0 < d) :
    1 - (t.bias : Int) - t.man ≤ (roundMag t md neg n d e).2 ∧ (roundMag t md neg n d e).1 ≤ 2 ^ (t.man + 1) ∧
      (2 ^ t.man ≤ (roundMag t md neg n d e).1 ∨ (roundMag t md neg n d e).2 = 1 - (t.bias : Int) - t.man) := by
  obtain ⟨h1, h2⟩ := units_bounds t md neg e hn hd
  exact ⟨by rw [roundMag_snd]; omega, roundWhole_le hd h1.le, h2.imp_left (le_roundWhole hd)⟩

/-- The first half of O18, from the rounding of the value in units of its spacing. -/
theorem roundMag_rounds (t : ETy) (md : RMode) (neg : Bool) {n d : Nat} (e : Int) (hd : 0 < d) :
    let x : ℚ := (n : ℚ) / d * (2 : ℚ) ^ e
    let r := roundMag t md neg n d e
    let y := scaled r.1 r.2
    let ulp := (2 : ℚ) ^ r.2
    (towardZero md neg → y ≤ x ∧ x < y + ulp) ∧ (awayFromZero md neg → x ≤ y ∧ y - ulp < x) ∧
      (md = .rn → |x - y| ≤ ulp / 2 ∧ (|x - y| = ulp / 2 → r.1 % 2 = 0)) := by
  intro x r y ulp
  obtain ⟨hlo, hhi, hto, haway, hrn⟩ := roundWhole_spec md neg n (e - r.2) hd
  have hulp : 0 < ulp := zpow_pos two_pos _
  have hx : x = (n : ℚ) / d * 2 ^ (e - r.2) * ulp := units_mul n d e r.2
  have hy : y = (roundWhole md neg n d (e - r.2) : ℚ) * ulp := by
    simp only [y, scaled]
    push_cast
    rfl
  generalize (n : ℚ) / d * 2 ^ (e - r.2) = X at *
  have hr : r.1 = roundWhole md neg n d (e - r.2) := rfl
  generalize roundWhole md neg n d (e - r.2) = M at *
  have habs : |x - y| = |X - M| * ulp := by rw [hx, hy, ← sub_mul, abs_mul, abs_of_pos hulp]
  rw [habs, hr]
  refine ⟨fun h => ⟨?_, ?_⟩, fun h => ⟨?_, ?_⟩, fun h => ⟨?_, fun he => (hrn h).2 ?_⟩⟩
  · rw [hx, hy]
    exact mul_le_mul_of_nonneg_right (hto h) hulp.le
  · rw [hx, hy, ← add_one_mul]
    exact mul_lt_mul_of_pos_right hhi hulp
  · rw [hx, hy]
    exact mul_le_mul_of_nonneg_right (haway h) hulp.le
  · rw [hx, hy, ← sub_one_mul]
    exact mul_lt_mul_of_pos_right hlo hulp
  · nlinarith [(hrn h).1]
  · have : (|X - M| - 1 / 2) * ulp = 0 := by linarith
    linarith [(mul_eq_zero.mp this).resolve_right hulp.ne']

/-! ### What a code stands for (R39) -/

theorem man_pos {t : ETy} (ht : t.isFloat = true) : 0 < t.man := by
  cases t <;> first | decide | cases ht

/-- A code's fields read back. -/
theorem packF_fields (t : ETy) (neg : Bool) {E M : Nat} (hman : 0 < t.man) (hexb : 0 < t.exb) (hE : E < 2 ^ t.exb) (hM : M < 2 ^ t.man) :
    signOf t (packF t neg E M) = neg ∧ bits (packF t neg E M) (t.exb + t.man - 1) t.man = E ∧
      bits (packF t neg E M) (t.man - 1) 0 = M := by
  have hdiv : packF t neg E M / 2 ^ t.man = b2n neg * 2 ^ t.exb + E := by
    rw [packF, mul_comm, Nat.mul_add_div (Nat.two_pow_pos _), Nat.div_eq_of_lt hM, add_zero]
  have hE' : (b2n neg * 2 ^ t.exb + E) / 2 ^ t.exb = b2n neg ∧ (b2n neg * 2 ^ t.exb + E) % 2 ^ t.exb = E := by
    constructor
    · rw [mul_comm, Nat.mul_add_div (Nat.two_pow_pos _), Nat.div_eq_of_lt hE, add_zero]
    · rw [Nat.mul_add_mod_self_right, Nat.mod_eq_of_lt hE]
  refine ⟨?_, ?_, ?_⟩
  · rw [signOf, bit, bits, Nat.add_comm t.exb, pow_add, ← Nat.div_div_eq_div_mul, hdiv, hE'.1]
    cases neg <;> simp [b2n]
  · rw [bits, hdiv, show t.exb + t.man - 1 + 1 - t.man = t.exb by omega, hE'.2]
  · rw [bits, pow_zero, Nat.div_one, show t.man - 1 + 1 - 0 = t.man by omega, packF, Nat.mul_add_mod_self_right, Nat.mod_eq_of_lt hM]

/-- The top of a format's finite exponents. -/
def topExp (t : ETy) : Nat := if t = .e4m3 then 15 else 2 ^ t.exb - 2

/-- A code of finite fields stands for the number of those fields. -/
theorem decodeF_packF {t : ETy} (ht : t.isFloat = true) (neg : Bool) {E M : Nat} (hE : E ≤ topExp t) (hM : M < 2 ^ t.man)
    (h43 : t = .e4m3 → ¬ (E = 15 ∧ M = 7)) :
    decodeF t (packF t neg E M) = if E = 0 then .num neg M (1 - (t.bias : Int) - t.man)
      else .num neg (2 ^ t.man + M) ((E : Int) - t.bias - t.man) := by
  have hexb : 0 < t.exb := by cases t <;> first | decide | cases ht
  have htop : topExp t < 2 ^ t.exb := by cases t <;> decide
  obtain ⟨hs, he, hm⟩ := packF_fields t neg (man_pos ht) hexb (hE.trans_lt htop) hM
  have hne : t ≠ .e2m1 := by rintro rfl; cases ht
  simp only [decodeF, hs, he, hm]
  by_cases h : t = .e4m3
  · subst h
    have : ¬ (E = 15 ∧ M = 7) := h43 rfl
    rw [if_neg (by simpa [ETy.exb] using this)]
    rfl
  · rw [if_neg (by simp [h]), if_neg]
    simp only [Bool.and_eq_true, beq_iff_eq, not_and]
    intro _
    simp only [topExp, if_neg h] at hE
    have : 2 ≤ 2 ^ t.exb := by cases t <;> first | decide | cases ht
    omega

/-! ### The largest finite value (R44) -/

/-- The mantissa field of the largest finite value: all ones, but one below in e4m3, whose last code is its NaN. -/
def topMan (t : ETy) : Nat := if t = .e4m3 then 6 else 2 ^ t.man - 1

theorem topMan_lt (t : ETy) : topMan t < 2 ^ t.man := by
  unfold topMan
  split
  · rename_i h; rw [h]; decide
  · exact Nat.sub_one_lt (Nat.two_pow_pos _).ne'

theorem topExp_pos {t : ETy} (ht : t.isFloat = true) : 1 < topExp t := by cases t <;> first | decide | cases ht

theorem largestF_eq {t : ETy} (ht : t.isFloat = true) (neg : Bool) : largestF t neg = packF t neg (topExp t) (topMan t) := by
  cases t <;> first | rfl | cases ht

theorem decodeF_largestF {t : ETy} (ht : t.isFloat = true) (neg : Bool) :
    decodeF t (largestF t neg) = .num neg (2 ^ t.man + topMan t) ((topExp t : Int) - t.bias - t.man) := by
  rw [largestF_eq ht, decodeF_packF ht neg le_rfl (topMan_lt t), if_neg (by have := topExp_pos ht; omega)]
  rintro rfl ⟨-, h⟩
  exact absurd h (by decide)

/-- Scaled naturals compare as the rationals do. -/
theorem scaled_lt_iff (m n : Nat) (q f : Int) :
    n * 2 ^ (f - min q f).toNat < m * 2 ^ (q - min q f).toNat ↔ scaled n f < scaled m q := by
  have hpos : (0 : ℚ) < 2 ^ min q f := zpow_pos two_pos _
  have key (a : Nat) (g : Int) (hg : min q f ≤ g) : scaled a g = (a * 2 ^ (g - min q f).toNat : Nat) * 2 ^ min q f := by
    have : (2 : ℚ) ^ g = 2 ^ (g - min q f).toNat * 2 ^ min q f := by
      rw [← zpow_natCast, Int.toNat_of_nonneg (by omega), ← zpow_add₀ two_ne_zero, sub_add_cancel]
    rw [scaled, this]
    push_cast
    ring
  rw [key n f (min_le_right _ _), key m q (min_le_left _ _), mul_lt_mul_iff_left₀ hpos, Nat.cast_lt]

/-- A value is over a format's range where it exceeds the largest finite one. -/
theorem overF_iff {t : ETy} (ht : t.isFloat = true) (m : Nat) (q : Int) :
    overF t m q = true ↔ scaled ((2 ^ t.man + topMan t : Nat) : Int) ((topExp t : Int) - t.bias - t.man) < scaled m q := by
  rw [overF, decodeF_largestF ht, ← scaled_lt_iff]
  simp

/-! ### The code of a rounded value (R39) -/

/-- A value with a full mantissa that is not over the range has an exponent field within the finite ones. -/
theorem le_top_of_overF {t : ETy} (ht : t.isFloat = true) {j m : Nat} {q : Int} (hm : 2 ^ (t.man + j) ≤ m)
    (hover : overF t m q = false) : q + j ≤ (topExp t : Int) - t.bias - t.man := by
  have hle := not_lt.mp fun h => Bool.eq_false_iff.mp hover ((overF_iff ht m q).mpr h)
  have hlt : (2 : ℚ) ^ ((t.man : Int) + j + q) < 2 ^ ((t.man : Int) + 1 + ((topExp t : Int) - t.bias - t.man)) := by
    calc (2 : ℚ) ^ ((t.man : Int) + j + q) = (2 ^ (t.man + j) : Nat) * 2 ^ q := by
          rw [zpow_add₀ two_ne_zero]; push_cast; rfl
      _ ≤ m * 2 ^ q := mul_le_mul_of_nonneg_right (by exact_mod_cast hm) (zpow_pos two_pos _).le
      _ = scaled m q := rfl
      _ ≤ _ := hle
      _ = (2 ^ t.man + topMan t : Nat) * 2 ^ ((topExp t : Int) - t.bias - t.man) := rfl
      _ < (2 ^ (t.man + 1) : Nat) * 2 ^ ((topExp t : Int) - t.bias - t.man) := by
          refine mul_lt_mul_of_pos_right ?_ (zpow_pos two_pos _)
          have := topMan_lt t
          exact_mod_cast (by rw [pow_succ]; omega : 2 ^ t.man + topMan t < 2 ^ (t.man + 1))
      _ = _ := by rw [zpow_add₀ two_ne_zero]; push_cast; rfl
  have := (zpow_lt_zpow_iff_right₀ one_lt_two).mp hlt
  omega

/-- The second half of O18: the code of a rounded value within the range reads back as that value. -/
theorem decodeF_codeF {t : ETy} (ht : t.isFloat = true) (neg : Bool) {m : Nat} {q : Int} (hm : m ≤ 2 ^ (t.man + 1))
    (hq : 1 - (t.bias : Int) - t.man ≤ q) (hnorm : 2 ^ t.man ≤ m ∨ q = 1 - (t.bias : Int) - t.man) (hover : overF t m q = false) :
    ∃ n f, decodeF t (codeF t neg m q) = .num neg n f ∧ scaled n f = scaled m q := by
  have hman : 0 < 2 ^ t.man := Nat.two_pow_pos _
  have h2 : 2 ^ (t.man + 1) = 2 * 2 ^ t.man := pow_succ' 2 t.man
  unfold codeF
  split <;> rename_i hfull
  · have htop := le_top_of_overF (j := 1) ht hfull.ge hover
    rw [decodeF_packF ht neg (by omega) hman (by rintro rfl ⟨-, h⟩; cases h), if_neg (by omega)]
    refine ⟨_, _, rfl, ?_⟩
    have hexp : ((q + 1 + t.man + t.bias).toNat : Int) - t.bias - t.man = q + 1 := by omega
    rw [hexp, scaled, scaled, hfull, zpow_add₀ two_ne_zero]
    push_cast
    ring
  split <;> rename_i hsub
  · obtain rfl := hnorm.resolve_left (by omega)
    have hzero : (0 : Nat) ≤ topExp t := Nat.zero_le _
    rw [decodeF_packF ht neg hzero hsub (by rintro - ⟨h, -⟩; cases h), if_pos rfl]
    exact ⟨_, _, rfl, rfl⟩
  · have htop := le_top_of_overF (j := 0) ht (not_lt.mp hsub) hover
    have hM : m - 2 ^ t.man < 2 ^ t.man := by omega
    rw [decodeF_packF ht neg (by omega) hM, if_neg (by omega)]
    · refine ⟨_, _, rfl, ?_⟩
      have hexp : ((q + t.man + t.bias).toNat : Int) - t.bias - t.man = q := by omega
      rw [hexp, Nat.add_sub_cancel' (not_lt.mp hsub)]
    · rintro rfl ⟨hE, hM⟩
      refine Bool.eq_false_iff.mp hover ((overF_iff ht m q).mpr ?_)
      have hq5 : q = 5 := by simp only [ETy.man, ETy.bias, ETy.exb] at hE; omega
      have hm15 : m = 15 := by simp only [ETy.man] at hM hsub; omega
      rw [hq5, hm15]
      norm_num [scaled, topMan, topExp, ETy.man, ETy.bias, ETy.exb]

/-- Settles O18: the form and the place of a rounded value, and the reading of its code. -/
theorem floatRounding : Obligations.FloatRounding := by
  unfold Obligations.FloatRounding
  refine ⟨fun t md neg n d e _ hn hd => ?_, fun t neg m q ht _ hm hq hnorm hover => decodeF_codeF ht neg hm hq hnorm hover⟩
  obtain ⟨h1, h2, h3⟩ := roundMag_form t md neg e hn hd
  exact ⟨h1, h2, h3, roundMag_rounds t md neg e hd⟩

end Sys2Proof.Machine
end

section
/-!
O25: the special functions at their special inputs and exact cases. An exact value that the format holds rounds to itself in every
mode, so an exact case never reaches the free choice of the last place.
-/

namespace Sys2Proof.Machine

open Sys2Proof

/-! ### The formats of special functions (R89) -/

/-- The float types of special functions. -/
def sfnType (t : ETy) : Bool := t == .f32 || t == .f64 || t == .bf16 || t == .f16

theorem sfnType_of_sfnTyOk {t : ETy} {r : SfnRegs} (h : sfnTyOk t r = true) : sfnType t = true := by
  cases r <;> cases t <;> first | rfl | cases h

/-- A field of a number has the bits of its bounds. -/
theorem bits_lt (c hi lo : Nat) : bits c hi lo < 2 ^ (hi + 1 - lo) := Nat.mod_lt _ (Nat.two_pow_pos _)

section
variable {t : ETy} (ht : sfnType t = true)
include ht

theorem sfnType_isFloat : t.isFloat = true := by cases t <;> first | rfl | cases ht

theorem sfnType_ne_e4m3 : t ≠ .e4m3 := by rintro rfl; cases ht

theorem sfnType_w : ETy.w t = 1 + t.exb + t.man := by cases t <;> first | rfl | cases ht

theorem sfnType_bias : t.bias + 1 < 2 ^ t.exb ∧ 1 < t.bias ∧ t.bias ≤ 1023 ∧ t.man ≤ 52 := by
  cases t <;> first | decide | cases ht

theorem sfnType_topExp : topExp t = 2 ^ t.exb - 2 ∧ topExp t ≤ 2046 := by cases t <;> first | decide | cases ht

theorem sfnType_topMan : topMan t = 2 ^ t.man - 1 := if_neg (sfnType_ne_e4m3 ht)

/-- The number of a code has at most the mantissa's bits and a finite exponent. -/
theorem decodeF_bounds {c m : Nat} {neg : Bool} {e : Int} (hc : decodeF t c = .num neg m e) :
    m ≤ 2 ^ t.man + topMan t ∧ 1 - (t.bias : Int) - t.man ≤ e ∧ e ≤ (topExp t : Int) - t.bias - t.man := by
  have hman := man_pos (sfnType_isFloat ht)
  have hpow : 0 < 2 ^ t.man := Nat.two_pow_pos _
  obtain ⟨htop, -⟩ := sfnType_topExp ht
  obtain ⟨hb, hb0, -⟩ := sfnType_bias ht
  rw [sfnType_topMan ht]
  have hm : bits c (t.man - 1) 0 < 2 ^ t.man :=
    (bits_lt c (t.man - 1) 0).trans_le (Nat.pow_le_pow_right two_pos (by omega))
  have he : bits c (t.exb + t.man - 1) t.man < 2 ^ t.exb :=
    (bits_lt c (t.exb + t.man - 1) t.man).trans_le (Nat.pow_le_pow_right two_pos (by omega))
  have h43 : ¬ (decide (t = .e4m3) && bits c (t.exb + t.man - 1) t.man == 2 ^ t.exb - 1 && bits c (t.man - 1) 0 == 7) = true := by
    simp [sfnType_ne_e4m3 ht]
  have hany : (t != .e4m3 && t != .e2m1) = true := by cases t <;> first | rfl | cases ht
  simp only [decodeF, if_neg h43, hany, Bool.true_and] at hc
  split at hc <;> rename_i htop'
  · split at hc <;> cases hc
  simp only [beq_iff_eq] at htop'
  split at hc <;> cases hc <;> omega

end

/-! ### Exact values round to themselves (R43) -/

/-- A value that has at most a mantissa's bits and the spacing of its format is a whole number of the spacing of its rounding, the same
in every mode. -/
theorem roundMag_exact (t : ETy) (md : RMode) (neg : Bool) {n d M : Nat} {e E : Int} (hn : 0 < n) (hd : 0 < d)
    (hM : M < 2 ^ (t.man + 1)) (hE : 1 - (t.bias : Int) - t.man ≤ E) (hval : (n : ℚ) / d * 2 ^ e = scaled M E) :
    roundMag t md neg n d e = (M * 2 ^ (E - (roundMag t md neg n d e).2).toNat, (roundMag t md neg n d e).2) ∧
      (roundMag t md neg n d e).2 ≤ E := by
  have hq : (roundMag t md neg n d e).2 ≤ E := by
    obtain ⟨h1, -⟩ := flog_spec hn hd
    have hlt : (2 : ℚ) ^ (flog n d + e) < 2 ^ (((t.man + 1 : Nat) : Int) + E) := by
      calc (2 : ℚ) ^ (flog n d + e) = 2 ^ flog n d * 2 ^ e := zpow_add₀ two_ne_zero _ _
        _ ≤ (n : ℚ) / d * 2 ^ e := mul_le_mul_of_nonneg_right h1 (zpow_pos two_pos _).le
        _ = M * 2 ^ E := hval
        _ < (2 ^ (t.man + 1) : Nat) * 2 ^ E := mul_lt_mul_of_pos_right (by exact_mod_cast hM) (zpow_pos two_pos _)
        _ = _ := by rw [zpow_add₀ two_ne_zero, zpow_natCast]; push_cast; rfl
    have := (zpow_lt_zpow_iff_right₀ one_lt_two).mp hlt
    rw [roundMag_snd]
    push_cast at this
    omega
  refine ⟨Prod.ext ?_ rfl, hq⟩
  have hunits : (n : ℚ) / d * 2 ^ (e - (roundMag t md neg n d e).2) = (M * 2 ^ (E - (roundMag t md neg n d e).2).toNat : Nat) := by
    generalize (roundMag t md neg n d e).2 = q at hq ⊢
    have hEq : (2 : ℚ) ^ E = 2 ^ (E - q).toNat * 2 ^ q := by
      rw [← zpow_natCast, Int.toNat_of_nonneg (by omega), ← zpow_add₀ two_ne_zero, sub_add_cancel]
    have hne : (2 : ℚ) ^ q ≠ 0 := zpow_ne_zero _ two_ne_zero
    rw [units_mul n d e q, scaled, hEq] at hval
    push_cast
    refine mul_right_cancel₀ hne (hval.trans ?_)
    push_cast
    ring
  rw [roundMag_fst]
  exact le_antisymm (roundWhole_le hd hunits.le) (le_roundWhole hd hunits.ge)

/-- The magnitude of a value with a sign. -/
theorem codes_iff {t : ETy} {r : Nat} {x : ℚ} : Codes t r x ↔ ∃ neg n e, decodeF t r = .num neg n e ∧ (if neg then -scaled n e else scaled n e) = x :=
  Iff.rfl

/-- What a code of a rounded value within the range stands for. -/
theorem codes_of_exact {t : ETy} (ht : sfnType t = true) (md : RMode) (neg : Bool) {n d c : Nat} {e : Int} {x : ℚ} (hn : 0 < n)
    (hd : 0 < d) (hc : Codes t c x) (hx : |x| = (n : ℚ) / d * 2 ^ e) (hneg : neg = decide (x < 0)) :
    let r := roundMag t md neg n d e
    overF t r.1 r.2 = false ∧ Codes t (codeF t neg r.1 r.2) x ∧ ∀ md', roundMag t md' neg n d e = r := by
  intro r
  obtain ⟨s, m, f, hdec, hval⟩ := hc
  obtain ⟨hm, hf, hftop⟩ := decodeF_bounds ht hdec
  have hfl := sfnType_isFloat ht
  have htop := topMan_lt t
  have hm' : m < 2 ^ (t.man + 1) := by rw [pow_succ]; omega
  have hnonneg : 0 ≤ scaled m f := mul_nonneg (by positivity) (zpow_pos two_pos _).le
  have habs : (n : ℚ) / d * 2 ^ e = scaled m f := by
    rw [← hx, ← hval]
    cases s
    · exact abs_of_nonneg hnonneg
    · exact (abs_neg _).trans (abs_of_nonneg hnonneg)
  obtain ⟨hr, hq⟩ := roundMag_exact t md neg hn hd hm' hf habs
  have hq' : r.2 ≤ f := hq
  have hsame : scaled r.1 r.2 = scaled m f := by
    have h1 : r.1 = m * 2 ^ (f - r.2).toNat := congrArg Prod.fst hr
    have h2 : (2 : ℚ) ^ f = 2 ^ (f - r.2).toNat * 2 ^ r.2 := by
      rw [← zpow_natCast, Int.toNat_of_nonneg (by omega), ← zpow_add₀ two_ne_zero, sub_add_cancel]
    rw [scaled, scaled, h1, h2]
    push_cast
    ring
  obtain ⟨hform1, hform2, hform3⟩ := roundMag_form t md neg e hn hd
  have hover : overF t r.1 r.2 = false := by
    refine Bool.eq_false_iff.mpr fun h => absurd ((overF_iff hfl _ _).mp h) (not_lt.mpr ?_)
    rw [hsame]
    calc scaled m f ≤ ((2 ^ t.man + topMan t : Nat) : ℚ) * 2 ^ f := mul_le_mul_of_nonneg_right (by exact_mod_cast hm) (zpow_pos two_pos _).le
      _ ≤ _ := mul_le_mul_of_nonneg_left (zpow_le_zpow_right₀ one_le_two hftop) (by positivity)
  refine ⟨hover, ?_, fun md' => ?_⟩
  · obtain ⟨n', f', hdec', hval'⟩ := decodeF_codeF hfl neg hform2 hform1 hform3 hover
    refine ⟨neg, n', f', hdec', ?_⟩
    rw [hval', hsame, ← habs, ← hx, hneg]
    by_cases hlt : x < 0
    · simp [hlt, abs_of_neg hlt]
    · simp [hlt, abs_of_nonneg (not_lt.mp hlt)]
  · rw [(roundMag_exact t md' neg hn hd hm' hf habs).1]
    exact hr.symm

/-- A zero stands for zero. -/
theorem codes_zero {t : ETy} (ht : sfnType t = true) (neg : Bool) : Codes t (packF t neg 0 0) 0 := by
  have := decodeF_packF (sfnType_isFloat ht) neg (Nat.zero_le (topExp t)) (Nat.two_pow_pos t.man) (by rintro - ⟨h, -⟩; cases h)
  rw [if_pos rfl] at this
  exact ⟨_, _, _, this, by simp [scaled]⟩

/-- An exact value that the format holds is what its rounding gives a code of. -/
theorem codes_roundF {t : ETy} (ht : sfnType t = true) (r : Rnd) {n d c : Nat} {e : Int} {x : ℚ} (hd : 0 < d) (hc : Codes t c x)
    (hx : |x| = (n : ℚ) / d * 2 ^ e) : Codes t (roundF t r (decide (x < 0)) n d e) x := by
  unfold roundF
  split <;> rename_i hn
  · obtain rfl : x = 0 := by rw [← abs_eq_zero, hx, hn]; simp
    exact codes_zero ht _
  · obtain ⟨hover, hcode, -⟩ := codes_of_exact ht r.mode (decide (x < 0)) (Nat.pos_of_ne_zero hn) hd hc hx rfl
    simp only [hover, Bool.false_eq_true, if_false]
    exact hcode

/-- A code with a power of two's fields. -/
theorem codes_two_pow {t : ETy} (ht : sfnType t = true) (neg : Bool) {E : Nat} (h0 : 0 < E) (hE : E ≤ topExp t) :
    Codes t (packF t neg E 0) (if neg then -(2 : ℚ) ^ ((E : Int) - t.bias) else 2 ^ ((E : Int) - t.bias)) := by
  have := decodeF_packF (sfnType_isFloat ht) neg hE (Nat.two_pow_pos t.man) (by rintro - ⟨-, h⟩; cases h)
  rw [if_neg h0.ne'] at this
  have hval : scaled ((2 ^ t.man + 0 : Nat) : Int) ((E : Int) - t.bias - t.man) = 2 ^ ((E : Int) - t.bias) := by
    have : (2 : ℚ) ^ ((E : Int) - t.bias) = 2 ^ (t.man : Int) * 2 ^ ((E : Int) - t.bias - t.man) := by
      rw [← zpow_add₀ two_ne_zero]; congr 1; ring
    rw [this, scaled]
    push_cast
    simp
  exact ⟨_, _, _, this, by rw [hval]⟩

/-! ### The codes of special results -/

theorem packF_lt {t : ETy} (ht : sfnType t = true) (neg : Bool) {E M : Nat} (hE : E < 2 ^ t.exb) (hM : M < 2 ^ t.man) :
    packF t neg E M < 2 ^ ETy.w t := by
  have h1 : b2n neg * 2 ^ t.exb + E < 2 ^ (1 + t.exb) := by
    rw [pow_add]
    cases neg <;> simp [b2n] <;> omega
  calc packF t neg E M < (b2n neg * 2 ^ t.exb + E + 1) * 2 ^ t.man := by rw [packF, Nat.succ_mul]; omega
    _ ≤ 2 ^ (1 + t.exb) * 2 ^ t.man := Nat.mul_le_mul_right _ h1
    _ = 2 ^ ETy.w t := by rw [sfnType_w ht, pow_add _ (1 + t.exb)]

/-- The bits of a code below its width are those of the code reduced to that width. -/
theorem bits_mod (c : Nat) {w hi lo : Nat} (h : hi < w) : bits (c % 2 ^ w) hi lo = bits c hi lo := by
  refine Nat.eq_of_testBit_eq fun i => ?_
  simp only [bits, Nat.testBit_mod_two_pow, Nat.testBit_div_two_pow]
  by_cases hi' : i < hi + 1 - lo
  · simp [hi', show i + lo < w by omega]
  · simp [hi']

theorem decodeF_mod {t : ETy} (ht : sfnType t = true) (c : Nat) : decodeF t (c % 2 ^ ETy.w t) = decodeF t c := by
  have hw := sfnType_w ht
  have hman := man_pos (sfnType_isFloat ht)
  simp only [decodeF, signOf, bit, bits_mod c (show t.exb + t.man < ETy.w t by omega), bits_mod c (show t.exb + t.man - 1 < ETy.w t by omega),
    bits_mod c (show t.man - 1 < ETy.w t by omega)]

theorem codes_mod {t : ETy} (ht : sfnType t = true) {c : Nat} {x : ℚ} (h : Codes t c x) : Codes t (c % 2 ^ ETy.w t) x := by
  unfold Codes
  rwa [decodeF_mod ht]

theorem quietF_lt {t : ETy} (ht : sfnType t = true) (c : Nat) : quietF t c < 2 ^ ETy.w t := by
  have hw := sfnType_w ht
  have hman := man_pos (sfnType_isFloat ht)
  have hc : c % 2 ^ ETy.w t < 2 ^ ETy.w t := Nat.mod_lt _ (Nat.two_pow_pos _)
  unfold quietF
  split <;> rename_i hb
  · exact hc
  · rw [bit, ← bits_mod c (show t.man - 1 < ETy.w t by omega), bits, show t.man - 1 + 1 - (t.man - 1) = 1 by omega] at hb
    have hsplit : 2 ^ ETy.w t = 2 * 2 ^ (1 + t.exb) * 2 ^ (t.man - 1) := by
      rw [← pow_succ', ← pow_add]; congr 1; omega
    generalize c % 2 ^ ETy.w t = x at *
    rw [hsplit] at hc ⊢
    have hx : x / 2 ^ (t.man - 1) < 2 * 2 ^ (1 + t.exb) := Nat.div_lt_of_lt_mul (by rwa [mul_comm])
    simp only [beq_iff_eq] at hb
    have hlt : (x + 2 ^ (t.man - 1)) / 2 ^ (t.man - 1) < 2 * 2 ^ (1 + t.exb) := by
      rw [Nat.add_div_right _ (Nat.two_pow_pos _)]; omega
    exact Nat.lt_of_div_lt_div (lt_of_lt_of_eq hlt (Nat.mul_div_cancel _ (Nat.two_pow_pos _)).symm)

theorem nanF_eq {t : ETy} (ht : sfnType t = true) (neg : Bool) : nanF t neg = packF t neg (2 ^ t.exb - 1) (2 ^ (t.man - 1)) := by
  cases t <;> first | rfl | cases ht

/-- The codes of infinities, NaNs and the largest value are within the type's width. -/
theorem infF_lt {t : ETy} (ht : sfnType t = true) (neg : Bool) : infF t neg < 2 ^ ETy.w t :=
  packF_lt ht neg (Nat.sub_one_lt (Nat.two_pow_pos _).ne') (Nat.two_pow_pos _)

theorem nanF_lt {t : ETy} (ht : sfnType t = true) (neg : Bool) : nanF t neg < 2 ^ ETy.w t := by
  have := man_pos (sfnType_isFloat ht)
  rw [nanF_eq ht]
  exact packF_lt ht neg (Nat.sub_one_lt (Nat.two_pow_pos _).ne') (Nat.pow_lt_pow_right one_lt_two (by omega))

theorem largestF_lt {t : ETy} (ht : sfnType t = true) (neg : Bool) : largestF t neg < 2 ^ ETy.w t := by
  obtain ⟨h1, -⟩ := sfnType_topExp ht
  have := Nat.two_pow_pos t.exb
  rw [largestF_eq (sfnType_isFloat ht)]
  exact packF_lt ht neg (by omega) (topMan_lt t)

theorem zero_lt {t : ETy} (ht : sfnType t = true) (neg : Bool) : packF t neg 0 0 < 2 ^ ETy.w t :=
  packF_lt ht neg (Nat.two_pow_pos _) (Nat.two_pow_pos _)

/-- An infinite result that no table governs (R45). -/
theorem infRes_eq {t : ETy} (ht : sfnType t = true) {m : Rnd} (hm : m.conv = false) (neg : Bool) :
    infRes t m neg = if m.sat then largestF t neg else infF t neg := by
  have : m.table t = false := by
    revert ht
    cases t <;> simp [sfnType, Rnd.table, hm]
  simp [infRes, this]

/-! ### The inputs of the exact cases -/

/-- A nonzero magnitude is below a power of two where its logarithm is. -/
theorem below_iff {m : Nat} (hm : m ≠ 0) (e k : Int) : below m e k = true ↔ (m : ℚ) * 2 ^ e < 2 ^ k := by
  have h1 : (2 : ℚ) ^ (m.log2 : Int) ≤ m := by exact_mod_cast Nat.log2_self_le hm
  have h2 : (m : ℚ) < 2 ^ ((m.log2 : Int) + 1) := by exact_mod_cast Nat.lt_log2_self (n := m)
  have hpos : (0 : ℚ) < 2 ^ e := zpow_pos two_pos _
  simp only [below, beq_eq_false_iff_ne.mpr hm, Bool.false_or, decide_eq_true_eq]
  constructor
  · intro h
    calc (m : ℚ) * 2 ^ e < 2 ^ ((m.log2 : Int) + 1) * 2 ^ e := mul_lt_mul_of_pos_right h2 hpos
      _ = 2 ^ ((m.log2 : Int) + 1 + e) := (zpow_add₀ two_ne_zero _ _).symm
      _ ≤ 2 ^ k := zpow_le_zpow_right₀ one_le_two (by omega)
  · intro h
    refine (zpow_lt_zpow_iff_right₀ (one_lt_two (α := ℚ))).mp ?_
    calc (2 : ℚ) ^ ((m.log2 : Int) + e) = 2 ^ (m.log2 : Int) * 2 ^ e := zpow_add₀ two_ne_zero _ _
      _ ≤ m * 2 ^ e := mul_le_mul_of_nonneg_right h1 hpos.le
      _ < 2 ^ k := h

/-- A number that is a power of two has a power of two for its digits. -/
theorem log2_of_scaled {m : Nat} {e k : Int} (h : (m : ℚ) * 2 ^ e = 2 ^ k) : m = 2 ^ m.log2 ∧ (m.log2 : Int) + e = k := by
  have hm : (m : ℚ) = 2 ^ (k - e) := by
    rw [zpow_sub₀ two_ne_zero, ← h, mul_div_cancel_right₀ _ (zpow_ne_zero _ two_ne_zero)]
  have hm0 : m ≠ 0 := by rintro rfl; exact (zpow_ne_zero (k - e) (two_ne_zero (α := ℚ))) (by exact_mod_cast hm.symm)
  have hke : 0 ≤ k - e := by
    by_contra hlt
    have : (m : ℚ) < 1 := by rw [hm]; exact zpow_lt_one_of_neg₀ one_lt_two (by omega)
    exact hm0 (Nat.lt_one_iff.mp (by exact_mod_cast this))
  obtain ⟨j, hj⟩ := Int.eq_ofNat_of_zero_le hke
  have hm' : m = 2 ^ j := by rw [hj] at hm; exact_mod_cast hm
  have hlog : m.log2 = j := by rw [hm', Nat.log2_two_pow]
  exact ⟨by rw [hlog]; exact hm', by omega⟩

/-- A whole number splits into itself and no fraction. -/
theorem fxSplit_whole {neg : Bool} {m : Nat} {e k : Int} (hm : m ≠ 0) (hlt : m < 2 ^ 53)
    (h : (if neg then -((m : ℚ) * 2 ^ e) else (m : ℚ) * 2 ^ e) = k) : fxSplit neg m e = (k, 0) := by
  have habs : (m : ℚ) * 2 ^ e = k.natAbs := by
    rw [Nat.cast_natAbs, Int.cast_abs, ← h]
    have : 0 ≤ (m : ℚ) * 2 ^ e := mul_nonneg (Nat.cast_nonneg _) (zpow_pos two_pos _).le
    cases neg
    · exact (abs_of_nonneg this).symm
    · exact ((abs_neg _).trans (abs_of_nonneg this)).symm
  have hk0 : k.natAbs ≠ 0 := by
    rintro h0
    rw [h0] at habs
    have := zpow_ne_zero e (two_ne_zero (α := ℚ))
    simp [hm, this] at habs
  have he : 0 ≤ e + 256 := by
    by_contra hneg
    have h1 : (1 : ℚ) ≤ k.natAbs := by exact_mod_cast Nat.one_le_iff_ne_zero.mpr hk0
    have h2 : (m : ℚ) * 2 ^ e < 2 ^ (53 : Int) * 2 ^ (-256 : Int) := by
      refine mul_lt_mul'' (by exact_mod_cast hlt) (zpow_lt_zpow_right₀ one_lt_two (by omega)) (Nat.cast_nonneg _) (zpow_pos two_pos _).le
    have h3 : (2 : ℚ) ^ (53 : Int) * 2 ^ (-256 : Int) ≤ 1 := by
      rw [← zpow_add₀ two_ne_zero]
      exact zpow_le_one_of_nonpos₀ one_le_two (by norm_num)
    linarith
  have ha : m * 2 ^ (e + 256).toNat = k.natAbs * fxOne := by
    have : ((m * 2 ^ (e + 256).toNat : Nat) : ℚ) = (k.natAbs * 2 ^ 256 : Nat) := by
      push_cast
      rw [← habs, ← zpow_natCast (2 : ℚ) (e + 256).toNat, Int.toNat_of_nonneg he, zpow_add₀ two_ne_zero]
      push_cast
      ring
    exact_mod_cast this
  have hsign : (if neg then -((k.natAbs : Nat) : Int) else k.natAbs) = k := by
    have hp : 0 < (m : ℚ) * 2 ^ e := by rw [habs]; exact_mod_cast Nat.pos_of_ne_zero hk0
    cases neg
    · have : 0 < (k : ℚ) := h ▸ hp
      have : 0 < k := by exact_mod_cast this
      change (k.natAbs : Int) = k
      omega
    · have : (k : ℚ) < 0 := h ▸ neg_lt_zero.mpr hp
      have : k < 0 := by exact_mod_cast this
      change -(k.natAbs : Int) = k
      omega
  have hone : (fxOne : Int) ≠ 0 := by decide
  have hx : (if neg then -((m : Int) * 2 ^ (e + 256).toNat) - b2n false else (m : Int) * 2 ^ (e + 256).toNat) = k * fxOne := by
    have ha' : (m : Int) * 2 ^ (e + 256).toNat = (k.natAbs : Int) * fxOne := by exact_mod_cast ha
    rw [ha']
    nth_rewrite 3 [← hsign]
    cases neg <;> simp [b2n]
  simp only [fxSplit, he, if_true, show ¬ e + 256 < 0 by omega, decide_false, Bool.false_and]
  rw [hx, Int.mul_ediv_cancel _ hone, Int.mul_emod_left]
  rfl

/-! ### The integer square root -/

theorem isqrtFrom_spec (n k x : Nat) (h1 : x * x ≤ n) (h2 : n < (x + 2 ^ k) * (x + 2 ^ k)) :
    isqrtFrom n k x * isqrtFrom n k x ≤ n ∧ n < (isqrtFrom n k x + 1) * (isqrtFrom n k x + 1) := by
  induction k generalizing x with
  | zero => exact ⟨h1, h2⟩
  | succ k ih =>
    rw [isqrtFrom]
    split <;> rename_i h
    · exact ih _ h (by rw [pow_succ] at h2; convert h2 using 2 <;> ring)
    · exact ih _ h1 (not_le.mp h)

theorem isqrt_eq_sqrt (n : Nat) : isqrt n = n.sqrt := by
  have h2 : n < (0 + 2 ^ (n.log2 / 2 + 1)) * (0 + 2 ^ (n.log2 / 2 + 1)) := by
    calc n < 2 ^ (n.log2 + 1) := Nat.lt_log2_self
      _ ≤ 2 ^ (n.log2 / 2 + 1 + (n.log2 / 2 + 1)) := Nat.pow_le_pow_right two_pos (by omega)
      _ = _ := by rw [pow_add, zero_add]
  obtain ⟨hlo, hhi⟩ := isqrtFrom_spec n _ 0 (Nat.zero_le _) h2
  exact Nat.eq_sqrt.mpr ⟨hlo, hhi⟩

theorem isqrt_two_pow (j : Nat) : isqrt (2 ^ (2 * j)) = 2 ^ j := by
  rw [isqrt_eq_sqrt, mul_comm, pow_mul, sq, Nat.sqrt_eq]

/-! ### Special inputs (R55) -/

/-- What stands for a result: the result itself, or its code reduced to the type's width, as a lane holds it. -/
structure StandsFor (t : ETy) (r r' : Nat) : Prop where
  code : ∀ k, k < 2 ^ ETy.w t → r = k → r' = k
  value : ∀ x, Codes t r x → Codes t r' x

theorem standsFor_self (t : ETy) (r : Nat) : StandsFor t r r := ⟨fun _ _ h => h, fun _ h => h⟩

theorem standsFor_mod {t : ETy} (ht : sfnType t = true) (r : Nat) : StandsFor t r (r % 2 ^ ETy.w t) :=
  ⟨fun _ hk h => by rw [h, Nat.mod_eq_of_lt hk], fun _ h => codes_mod ht h⟩

theorem chooseNaN_of_ne {t : ETy} {c : Nat} (h : decodeF t c ≠ .nan) : chooseNaN t [c] = none := by
  simp [chooseNaN, isNaN, h]

theorem sfnE_of_isNaN {f : Sfn} {t : ETy} {m : Rnd} {c : Nat} (h : isNaN t c = true) : sfnE f t m c = quietF t c := by
  simp [sfnE, chooseNaN_single h]

section
variable {t : ETy} (ht : sfnType t = true) {m : Rnd} (hm : m.conv = false) {c : Nat}
include ht

/-- One, and one half. -/
theorem codes_one (neg : Bool) : Codes t (packF t neg t.bias 0) (if neg then -1 else 1) := by
  obtain ⟨h1, h2, -⟩ := sfnType_bias ht
  obtain ⟨h3, -⟩ := sfnType_topExp ht
  simpa using codes_two_pow ht neg (Nat.zero_lt_of_lt h2) (by omega)

theorem codes_half : Codes t (packF t false (t.bias - 1) 0) (1 / 2) := by
  obtain ⟨h1, h2, -⟩ := sfnType_bias ht
  obtain ⟨h3, -⟩ := sfnType_topExp ht
  have := codes_two_pow ht false (E := t.bias - 1) (by omega) (by omega)
  rwa [if_neg (by decide), show ((t.bias - 1 : Nat) : Int) - t.bias = -1 by omega, zpow_neg_one, inv_eq_one_div] at this

include hm

theorem infRes_lt (neg : Bool) : infRes t m neg < 2 ^ ETy.w t := by
  rw [infRes_eq ht hm]
  split
  · exact largestF_lt ht neg
  · exact infF_lt ht neg

/-- The infinite inputs (R55). -/
theorem sfnE_inf (f : Sfn) {neg : Bool} {r : Nat} (hc : decodeF t c = .inf neg) (hr : StandsFor t (sfnE f t m c) r) :
    match f with
    | .exp2 | .exp => if neg then r = packF t false 0 0 else r = if m.sat then largestF t false else infF t false
    | .log2 | .log => if neg then r = nanF t false else r = if m.sat then largestF t false else infF t false
    | .rcp => r = packF t neg 0 0
    | .rsqrt => if neg then r = nanF t false else r = packF t false 0 0
    | .tanh => Codes t r (if neg then -1 else 1)
    | .sigm => if neg then r = packF t false 0 0 else Codes t r 1 := by
  have hnone := chooseNaN_of_ne (t := t) (c := c) (by rw [hc]; nofun)
  have hinf := infRes_eq ht hm false
  have hlt := infRes_lt ht hm false
  have hzero := zero_lt ht false
  have hnan := nanF_lt ht false
  rw [hinf] at hlt
  cases f <;> simp only [sfnE, hnone, hc, Option.getD_none] at hr <;> cases neg <;> simp only [Bool.false_eq_true, if_true, if_false] at hr ⊢
  case tanh.false | tanh.true => exact hr.value _ (codes_one ht _)
  case sigm.false => exact hr.value _ (codes_one ht false)
  case rcp.false | rcp.true => exact hr.code _ (zero_lt ht _) rfl
  case exp2.false | exp.false | log2.false | log.false => exact hr.code _ hlt hinf
  case exp2.true | exp.true | rsqrt.false | sigm.true => exact hr.code _ hzero rfl
  case log2.true | log.true | rsqrt.true => exact hr.code _ hnan rfl

/-- The zero inputs (R55). -/
theorem sfnE_zero (f : Sfn) {neg : Bool} {e : Int} {r : Nat} (hc : decodeF t c = .num neg 0 e) (hr : StandsFor t (sfnE f t m c) r) :
    match f with
    | .exp2 | .exp => Codes t r 1
    | .log2 | .log => r = if m.sat then largestF t true else infF t true
    | .rcp | .rsqrt => r = if m.sat then largestF t neg else infF t neg
    | .tanh => r = packF t neg 0 0
    | .sigm => Codes t r (1 / 2) := by
  have hnone := chooseNaN_of_ne (t := t) (c := c) (by rw [hc]; nofun)
  have hinf (s : Bool) := infRes_eq ht hm s
  have hlt (s : Bool) := hinf s ▸ infRes_lt ht hm s
  cases f <;> simp only [sfnE, hnone, hc, Option.getD_none, if_true] at hr ⊢
  case exp2 | exp => exact hr.value _ (codes_one ht false)
  case log2 | log => exact hr.code _ (hlt true) (hinf true)
  case rcp | rsqrt => exact hr.code _ (hlt neg) (hinf neg)
  case tanh => exact hr.code _ (zero_lt ht neg) rfl
  case sigm => exact hr.value _ (codes_half ht)

omit hm in
/-- The negative inputs of logarithms and of the inverse root (R55). -/
theorem sfnE_negative (f : Sfn) {k : Nat} {e : Int} {r : Nat} (hk : k ≠ 0) (hc : decodeF t c = .num true k e)
    (hr : StandsFor t (sfnE f t m c) r) :
    match f with
    | .log2 | .log | .rsqrt => r = nanF t false
    | _ => True := by
  have hnone := chooseNaN_of_ne (t := t) (c := c) (by rw [hc]; nofun)
  cases f
  case log2 | log | rsqrt =>
    simp only [sfnE, hnone, hc, Option.getD_none, if_neg hk, if_true] at hr
    exact hr.code _ (nanF_lt ht false) rfl
  all_goals trivial

end

/-! ### Exact cases (R54) -/

/-- A positive power of two's code: its sign and its digits. -/
theorem decodeF_of_codes_two_pow {t : ETy} {c : Nat} {k : Int} (hc : Codes t c (2 ^ k)) :
    ∃ n e, decodeF t c = .num false n e ∧ n ≠ 0 ∧ n = 2 ^ n.log2 ∧ (n.log2 : Int) + e = k ∧ (n : ℚ) * 2 ^ e = 2 ^ k := by
  obtain ⟨s, n, e, hdec, hval⟩ := hc
  have hpos : (0 : ℚ) < 2 ^ k := zpow_pos two_pos _
  have hnonneg : 0 ≤ scaled n e := mul_nonneg (by positivity) (zpow_pos two_pos _).le
  cases s
  · obtain ⟨hn, hk⟩ := log2_of_scaled hval
    exact ⟨n, e, hdec, by rw [hn]; exact (Nat.two_pow_pos _).ne', hn, hk, hval⟩
  · rw [if_pos rfl] at hval; linarith

section
variable {t : ETy} (ht : sfnType t = true) (m : Rnd) {c d : Nat} {k : Int}
include ht

/-- A power of two that a format holds has an exponent below 4,096 in magnitude. -/
theorem exponent_of_codes_two_pow (hd : Codes t d (2 ^ k)) : -4096 < k ∧ k < 4096 := by
  obtain ⟨s, n, e, hdec, hval⟩ := hd
  obtain ⟨hn, he, htop⟩ := decodeF_bounds ht hdec
  obtain ⟨-, -, hbias, hman⟩ := sfnType_bias ht
  obtain ⟨-, htop'⟩ := sfnType_topExp ht
  have hpos : (0 : ℚ) < 2 ^ k := zpow_pos two_pos _
  have hnonneg : 0 ≤ scaled n e := mul_nonneg (by positivity) (zpow_pos two_pos _).le
  have hs : s = false := by
    cases s
    · rfl
    · rw [if_pos rfl] at hval; linarith
  rw [hs, if_neg (by decide)] at hval
  have hn' : n < 2 ^ (t.man + 1) := by have := topMan_lt t; rw [pow_succ]; omega
  have hn0 : n ≠ 0 := by rintro rfl; simp [scaled] at hval; exact hpos.ne hval
  constructor
  · refine (zpow_lt_zpow_iff_right₀ (one_lt_two (α := ℚ))).mp ?_
    calc (2 : ℚ) ^ (-4096 : Int) < 2 ^ e := zpow_lt_zpow_right₀ one_lt_two (by omega)
      _ ≤ n * 2 ^ e := le_mul_of_one_le_left (zpow_pos two_pos _).le (by exact_mod_cast Nat.one_le_iff_ne_zero.mpr hn0)
      _ = 2 ^ k := hval
  · refine (zpow_lt_zpow_iff_right₀ (one_lt_two (α := ℚ))).mp ?_
    calc (2 : ℚ) ^ k = n * 2 ^ e := hval.symm
      _ < (2 ^ (t.man + 1) : Nat) * 2 ^ e := mul_lt_mul_of_pos_right (by exact_mod_cast hn') (zpow_pos two_pos _)
      _ = 2 ^ (((t.man + 1 : Nat) : Int) + e) := by rw [zpow_add₀ two_ne_zero, zpow_natCast]; push_cast; rfl
      _ ≤ 2 ^ (4096 : Int) := zpow_le_zpow_right₀ one_le_two (by push_cast; omega)

/-- `exp2` of a whole number (R54). -/
theorem codes_exp2 (hc : Codes t c k) (hd : Codes t d (2 ^ k)) : Codes t (sfnE .exp2 t m c) (2 ^ k) := by
  obtain ⟨s, n, e, hdec, hval⟩ := hc
  have hnone := chooseNaN_of_ne (t := t) (c := c) (by rw [hdec]; nofun)
  simp only [sfnE, hnone, hdec, Option.getD_none]
  split <;> rename_i hn
  · have hk : k = 0 := by
      have : (k : ℚ) = 0 := by rw [← hval, hn]; simp [scaled]
      exact_mod_cast this
    rw [hk]
    exact codes_one ht false
  · obtain ⟨hlo, hhi⟩ := exponent_of_codes_two_pow ht hd
    have hbound : n < 2 ^ 53 := by
      obtain ⟨hn', -⟩ := decodeF_bounds ht hdec
      obtain ⟨-, -, -, hman⟩ := sfnType_bias ht
      have := topMan_lt t
      calc n < 2 ^ (t.man + 1) := by rw [pow_succ]; omega
        _ ≤ 2 ^ 53 := Nat.pow_le_pow_right two_pos (by omega)
    have hval' : (if s then -((n : ℚ) * 2 ^ e) else (n : ℚ) * 2 ^ e) = k := hval
    have habs : (n : ℚ) * 2 ^ e = |(k : ℚ)| := by
      rw [← hval']
      have : 0 ≤ (n : ℚ) * 2 ^ e := mul_nonneg (Nat.cast_nonneg _) (zpow_pos two_pos _).le
      cases s
      · exact (abs_of_nonneg this).symm
      · exact ((abs_neg _).trans (abs_of_nonneg this)).symm
    have hk0 : k ≠ 0 := by
      rintro rfl
      have := zpow_ne_zero e (two_ne_zero (α := ℚ))
      simp [hn, this] at habs
    have h12 : below n e 12 = true := (below_iff hn e 12).mpr (by
      rw [habs, ← Int.cast_abs]
      have : |k| < 4096 := abs_lt.mpr ⟨hlo, hhi⟩
      exact_mod_cast this)
    have h0 : below n e 0 = false := Bool.eq_false_iff.mpr fun h => by
      have := (below_iff hn e 0).mp h
      rw [habs, ← Int.cast_abs, zpow_zero] at this
      have : |k| < 1 := by exact_mod_cast this
      exact hk0 (Int.abs_lt_one_iff.mp this)
    simp only [h12, h0, fxSplit_whole hn hbound hval', Bool.not_true, Bool.not_false, Bool.false_eq_true, if_false, if_true,
      decide_true, Bool.and_self]
    have := codes_roundF ht m (n := 1) (d := 1) (e := k) (x := 2 ^ k) one_pos hd (by
      rw [abs_of_pos (zpow_pos two_pos _)]; simp)
    rwa [decide_eq_false (not_lt.mpr (zpow_pos two_pos k).le)] at this

/-- `log2` of a power of two (R54). -/
theorem codes_log2 (hc : Codes t c (2 ^ k)) (hd : Codes t d k) : Codes t (sfnE .log2 t m c) k := by
  obtain ⟨n, e, hdec, hn, hpow, hk, -⟩ := decodeF_of_codes_two_pow hc
  have hnone := chooseNaN_of_ne (t := t) (c := c) (by rw [hdec]; nofun)
  simp only [sfnE, hnone, hdec, Option.getD_none, if_neg hn, Bool.false_eq_true, if_false, if_pos hpow, hk]
  have := codes_roundF ht m (n := k.natAbs) (d := 1) (e := 0) (x := k) one_pos hd (by
    rw [Nat.cast_natAbs, Int.cast_abs]; simp)
  simpa using this

/-- `log` of one (R54). -/
theorem codes_log (hc : Codes t c 1) : Codes t (sfnE .log t m c) 0 := by
  obtain ⟨n, e, hdec, hn, hpow, hk, -⟩ := decodeF_of_codes_two_pow (k := 0) (by rwa [zpow_zero])
  have hnone := chooseNaN_of_ne (t := t) (c := c) (by rw [hdec]; nofun)
  simp only [sfnE, hnone, hdec, Option.getD_none, if_neg hn, Bool.false_eq_true, if_false, hk]
  rw [if_pos (by simp [← hpow])]
  exact codes_zero ht false

/-- `rcp` of a power of four (R54). -/
theorem codes_rcp (hc : Codes t c (4 ^ k)) (hd : Codes t d (4 ^ (-k))) : Codes t (sfnE .rcp t m c) (4 ^ (-k)) := by
  have hfour (j : Int) : (4 : ℚ) ^ j = 2 ^ (2 * j) := by rw [zpow_mul]; norm_num
  rw [hfour] at hc hd ⊢
  obtain ⟨n, e, hdec, hn, -, -, hval⟩ := decodeF_of_codes_two_pow hc
  have hnone := chooseNaN_of_ne (t := t) (c := c) (by rw [hdec]; nofun)
  simp only [sfnE, hnone, hdec, Option.getD_none, if_neg hn]
  have hx : |(2 : ℚ) ^ (2 * -k)| = ((1 : Nat) : ℚ) / n * 2 ^ (-e) := by
    have hn' : (n : ℚ) ≠ 0 := by exact_mod_cast hn
    have he : (2 : ℚ) ^ e ≠ 0 := zpow_ne_zero _ two_ne_zero
    rw [abs_of_pos (zpow_pos two_pos _), mul_neg, zpow_neg, ← hval, zpow_neg]
    push_cast
    field_simp
  obtain ⟨hover, hcode, hsame⟩ := codes_of_exact ht .rz false one_pos (Nat.pos_of_ne_zero hn) hd hx
    (decide_eq_false (not_lt.mpr (zpow_pos two_pos _).le)).symm
  simp only [faithful, Bool.false_eq_true, if_false, hsame .ru, if_true, hover]
  exact hcode

/-- `rsqrt` of a power of four (R54). -/
theorem codes_rsqrt (hc : Codes t c (4 ^ k)) (hd : Codes t d (2 ^ (-k))) : Codes t (sfnE .rsqrt t m c) (2 ^ (-k)) := by
  have hfour : (4 : ℚ) ^ k = 2 ^ (2 * k) := by rw [zpow_mul]; norm_num
  rw [hfour] at hc
  obtain ⟨n, e, hdec, hn, hpow, hk, -⟩ := decodeF_of_codes_two_pow hc
  have hnone := chooseNaN_of_ne (t := t) (c := c) (by rw [hdec]; nofun)
  simp only [sfnE, hnone, hdec, Option.getD_none, if_neg hn, Bool.false_eq_true, if_false]
  have hlog : n.log2 ≤ 53 := by
    obtain ⟨hn', -⟩ := decodeF_bounds ht hdec
    obtain ⟨-, -, -, hman⟩ := sfnType_bias ht
    have := topMan_lt t
    have hlt : 2 ^ n.log2 < 2 ^ (t.man + 1) := by rw [← hpow, pow_succ]; omega
    have := (Nat.pow_lt_pow_iff_right one_lt_two).mp hlt
    omega
  obtain ⟨j, hj⟩ : ∃ j, n.log2 + (e % 2).toNat = 2 * j := ⟨(n.log2 + (e % 2).toNat) / 2, by omega⟩
  have hnj : n * 2 ^ (e % 2).toNat = 2 ^ (2 * j) := by rw [hpow, ← pow_add, hj]
  have hdiv : 2 ^ 512 / 2 ^ (2 * j) = 2 ^ (2 * (256 - j)) := by
    rw [Nat.pow_div (by omega) two_pos]; congr 1; omega
  rw [hnj, hdiv, isqrt_two_pow, if_pos (by rw [← pow_add, ← pow_add]; congr 1; omega)]
  have := codes_roundF ht m (n := 2 ^ (256 - j)) (d := 1) (e := -256 - (e - e % 2) / 2) (x := 2 ^ (-k)) one_pos hd (by
    rw [abs_of_pos (zpow_pos two_pos _)]
    push_cast
    rw [div_one, ← zpow_natCast, ← zpow_add₀ two_ne_zero]
    congr 1
    omega)
  rwa [decide_eq_false (not_lt.mpr (zpow_pos two_pos (-k)).le)] at this

end

/-- The special inputs and the exact cases have the results of R54 and R55. -/
theorem specialCases {t : ETy} (ht : sfnType t = true) (f : Sfn) {m : Rnd} (hm : m.conv = false) (c : Nat) {r : Nat}
    (hr : StandsFor t (sfnE f t m c) r) : SpecialCases f t m.sat c r := by
  refine ⟨fun hn => hr.code _ (quietF_lt ht c) (sfnE_of_isNaN hn), fun neg hc => ?_, fun neg e hc => ?_, fun k e hk hc => ?_, fun k => ?_⟩
  · have := sfnE_inf ht hm f hc hr
    cases f <;> exact this
  · have := sfnE_zero ht hm f hc hr
    cases f <;> exact this
  · have := sfnE_negative ht f hk hc hr
    cases f <;> exact this
  · cases f
    case exp2 => exact fun hc ⟨d, hd⟩ => hr.value _ (codes_exp2 ht m hc hd)
    case log2 => exact fun hc ⟨d, hd⟩ => hr.value _ (codes_log2 ht m hc hd)
    case log => exact fun hc _ => hr.value _ (codes_log ht m hc)
    case rcp => exact fun hc ⟨d, hd⟩ => hr.value _ (codes_rcp ht m hc hd)
    case rsqrt => exact fun hc ⟨d, hd⟩ => hr.value _ (codes_rsqrt ht m hc hd)
    all_goals trivial

/-- Settles O25: a scalar, or each lane, takes the function's code, whose special inputs and exact cases are `specialCases`. -/
theorem specialFunctions : Obligations.SpecialFunctions := by
  unfold Obligations.SpecialFunctions
  intro h x s hi hty m answers
  have ht := sfnType_of_sfnTyOk hty
  have answer (i : Instr) (f : Sfn) (hexec : exec i s = issue h plain (sfnOp f x) s) : answers i f := by
    obtain ⟨ty, rnd, sat, r, bneg⟩ := x
    cases r with
    | s a b =>
      exact ⟨_, exec_done hi hexec rfl, rfl, specialCases ht f rfl _ (standsFor_self _ _)⟩
    | v a b =>
      obtain ⟨r, hr, hx, hl⟩ := wroteV_lanes (t := ty) (f := fun l => sfnE f ty m (negIf ty bneg (lane ty (s.me.rv b).toNat l)) % 2 ^ ETy.w ty)
        (exec_done hi hexec rfl) (by simp) fun l hl => by simp; rfl
      refine ⟨r, hr, hx, fun l hlt => ⟨hl l hlt, ?_⟩⟩
      rw [hl l hlt]
      exact specialCases ht f rfl _ (standsFor_mod ht _)
  exact ⟨answer (.exp2 h x) _ rfl, answer (.log2 h x) _ rfl, answer (.exp h x) _ rfl, answer (.log h x) _ rfl,
    answer (.rcp h x) _ rfl, answer (.rsqrt h x) _ rfl, answer (.tanh h x) _ rfl, answer (.sigm h x) _ rfl⟩

end Sys2Proof.Machine
end

section
/-!
O26, refuted: a list of launches may hold two of one queue and sequence number, and the write that fills an undo log then leaves the
second in the place of the first. The phase of the sweep's team changes under it, and its next segment traps.
-/

namespace Sys2Proof.Machine

open Sys2Proof

/-- Carrying an instruction on ends in one state, however many steps are allowed. -/
theorem carried_unique {i : Instr} {n m : Nat} {s t u : State} (ht : carried i n s = some t) (hu : carried i m s = some u) : t = u := by
  induction n generalizing m s with
  | zero => cases ht
  | succ n ih =>
    cases m with
    | zero => cases hu
    | succ m =>
      rw [carried] at ht hu
      cases hexec : exec i s with
      | next v =>
        rw [hexec] at ht hu
        by_cases hmid : v.me.mid.isSome = true
        · simp only [hmid, if_true] at ht hu
          exact ih ht hu
        · simp only [hmid] at ht hu
          exact Option.some.inj (ht.symm.trans hu)
      | fault f => rw [hexec] at ht; cases ht
      | refused e => rw [hexec] at ht; cases ht

/-! ### States that the model evaluates -/

/-- A header without hints under guard p7, which reads all ones (R15). -/
def bareHdr : Hdr := { neg := false, guard := 7, stall := 0, yield := false, phase := .any, reuse := false }

/-- Context 0 of core 0 live at 0x10000 on a `nop`. -/
def runningState : State := State.reset.withFetchWord 96 0x200700000000000000000000

/-- A running launch of queue 0 on cores 0 and 1, in its exchange step. -/
def someLaunch : Launch :=
  { queue := 0, seq := 0, bytes := 0, chain := 0, cores := [0, 1], team := 2, ended := [], begun := true, preload := 2, xlat := 0, args := 0
    parked := [], phase := 1, t0 := 0, start := 0, noRoll := false, replayed := false, rbPending := false, lastArr := 0, status := 0 }

/-- Core 0 runs rank 0 of that launch, and its control context is the unit's. -/
def unitState : State :=
  let t := runningState.setMe { runningState.me with inUnit := true }
  { t.setMycore { t.mycore with unit := some (0, 0), team := 2 } with launches := [someLaunch] }

/-! ### A sweep whose team's phase turns under it -/

/-- Core 0 runs the unit of two launches of one name, in the compute step and in the exchange step; its bank 5 is in slot 0 with the
step's checkpoint taken and the cluster's undo log full. -/
def twinLaunches : State :=
  let t := unitState.setHitch 5 { Hitch.reset with st := .hitched, owner := some (0, 0) }
  let t := t.setCore 0 { t.core 0 with
    slots := [(0, 5)], frame := some { ctxs := [], d := [], tiles := [], held := [], barDone := false } }
  let t := t.setCluster 0 { t.cluster 0 with undo := List.replicate 2688 { line := 0, old := 0, tag := 0, bad := [] } }
  { t.setMe ((t.me.ws 2 0x1000000000000000).ws 3 0x1000000000000080) with launches := [{ someLaunch with phase := 2 }, someLaunch] }

/-- The header of the compute class. -/
def computeHdr : Hdr := { bareHdr with phase := .compute }

/-- A copy of two segments, from offsets 0 and 64 to 128 and 192. -/
def twoSegments : OpSwCopy := { ty := .n8, dst := { base := 3, step := 64, disp := 0 }, src := { base := 2, step := 64, disp := 0 }, n := 2 }

/-- The copy of the compute class ends with its context still on it. -/
theorem carried_twinLaunches : (carried (.wcopy computeHdr twoSegments) 3 twinLaunches).map (fun t => t.me.pc) = some 0x10000 := by
  decide +kernel

theorem sweepAll_twinLaunches_pc :
    ((sweepAll twinLaunches 64 (fun b _ => b) ([0, 64].zip [128, 192]) twinLaunches).goOn computeHdr).me.pc = 0x1000C := by
  decide +kernel

theorem twinLaunches_reads : (∀ o ∈ [0, 64], segmentReads twinLaunches 64 o) ∧
    ∀ o ∈ [128, 192], twinLaunches.winByte twinLaunches.nonce o = .ok (winAt twinLaunches o) := by
  simp only [List.forall_mem_cons, segmentReads]
  refine ⟨⟨⟨rfl, by decide +kernel⟩, ⟨rfl, by decide +kernel⟩, nofun⟩, rfl, rfl, nofun⟩

/-- Refutes O26: on two launches of one name the first write of a sweep of the compute class turns its team's phase, so its second
segment traps, and the sweep never ends behind itself. -/
theorem not_sweepsRun : ¬ Obligations.SweepsRun := by
  unfold Obligations.SweepsRun
  intro h
  obtain ⟨-, -, -, -, -, -, -, -, hcopy⟩ := h computeHdr
    { ty := .n8, dst := ⟨0, 0, 0⟩, src := ⟨0, 0, 0⟩, n := 1, c := .imm 0, rnd := .rn, sat := false }
    { dty := .n8, sty := .n8, dst := ⟨0, 0, 0⟩, src := ⟨0, 0, 0⟩, n := 1, rnd := .rn, sat := false }
    { ty := .n8, dst := ⟨0, 0, 0⟩, src := ⟨0, 0, 0⟩, n := 1, c := 0 } twoSegments twinLaunches (by decide +kernel) (by decide +kernel)
  obtain ⟨hreads, hwrites⟩ := twinLaunches_reads
  obtain ⟨-, n, hn⟩ := hcopy [128, 192] [0, 64] ⟨by decide, by decide +kernel, by decide +kernel, by decide +kernel, by decide +kernel,
    hreads, fun o ho => ⟨hwrites o ho, nofun⟩⟩
  obtain ⟨t, ht, hpc⟩ := Option.map_eq_some_iff.mp carried_twinLaunches
  rw [carried_unique ht hn, sweepAll_twinLaunches_pc] at hpc
  cases hpc

end Sys2Proof.Machine
end

section
/-!
O27: the reducing sweep, and what an ordinary write to a bank changes. An access of an instruction under way changes only what the
issuing context has under way, so each next one meets the window as the first did.
-/

namespace Sys2Proof.Machine

open Sys2Proof

/-! ### A core with its contexts replaced -/

/-- A core with its contexts put aside. -/
def Core.bare (k : Core) : Core := { k with ctxs := [] }

/-- Two states that differ in the issuing core's contexts at most. -/
structure SameButContexts (s u : State) : Prop where
  rest : u = { s with cores := u.cores }
  core : ∀ c, (u.core c).bare = (s.core c).bare

theorem State.sameButContexts_setMe (s : State) (k : Ctx) : SameButContexts s (s.setMe k) := by
  refine ⟨rfl, fun c => ?_⟩
  by_cases hc : c = s.cur
  · subst hc; rw [State.core_setMe_self]; rfl
  · rw [State.core_setMe_ne _ _ _ hc]

theorem State.sameButContexts_refl (s : State) : SameButContexts s s := ⟨rfl, fun _ => rfl⟩

section
variable {s u : State} (hsame : SameButContexts s u)
include hsame

theorem SameButContexts.unit (c : Nat) : (u.core c).unit = (s.core c).unit :=
  show (u.core c).bare.unit = (s.core c).bare.unit by rw [hsame.core]

theorem SameButContexts.slots (c : Nat) : (u.core c).slots = (s.core c).slots :=
  show (u.core c).bare.slots = (s.core c).bare.slots by rw [hsame.core]

theorem SameButContexts.frozen (c : Nat) : (u.core c).frozen = (s.core c).frozen :=
  show (u.core c).bare.frozen = (s.core c).bare.frozen by rw [hsame.core]

theorem SameButContexts.launches : u.launches = s.launches := by rw [hsame.rest]

theorem SameButContexts.hitch (pkg : Nat) : u.hitch pkg = s.hitch pkg := by rw [hsame.rest]; rfl

theorem SameButContexts.launch? (k : Nat × Nat) : u.launch? k = s.launch? k := by
  rw [State.launch?, hsame.launches]; rfl

theorem SameButContexts.launchOf (c : Nat) : u.launchOf c = s.launchOf c := by
  simp only [State.launchOf, hsame.unit, hsame.launch?]

theorem SameButContexts.drains (c slot : Nat) : u.drains c slot = s.drains c slot := by
  rw [State.drains, State.drains]
  have hl : u.liveBanks = s.liveBanks := by rw [hsame.rest]; rfl
  simp only [hl, hsame.hitch]

/-- The window of a core does not depend on its contexts (R161, R163). -/
theorem SameButContexts.bankFor (who c slot stamp : Nat) : u.bankFor who c slot stamp = s.bankFor who c slot stamp := by
  have hparked (k : Option (Nat × Nat)) : u.parkedOf k c = s.parkedOf k c := by
    simp only [State.parkedOf, show u.launch? = s.launch? from funext hsame.launch?]
  have hopen (k : Option (Nat × Nat)) : u.openFor k c slot = s.openFor k c slot := by
    simp only [State.openFor, State.openSlot, State.slotBank, hsame.unit, hsame.slots, hsame.frozen, hparked, hsame.hitch]
  simp only [State.bankFor, State.bankForUnit, State.drainsOf, hsame.drains, hsame.hitch, hsame.unit, hopen]

theorem SameButContexts.winByte (stamp o : Nat) : u.winByte stamp o = s.winByte stamp o := by
  have hcur : u.cur = s.cur := by rw [hsame.rest]
  simp only [State.winByte, hsame.bankFor, hcur]

theorem SameButContexts.bankBad (pkg off n : Nat) : u.bankBad pkg off n = s.bankBad pkg off n := by rw [hsame.rest]; rfl

theorem SameButContexts.bankRead (pkg off n : Nat) : u.bankRead pkg off n = s.bankRead pkg off n := by rw [hsame.rest]; rfl

end

/-! ### An instruction under way -/

/-- The state in which an instruction that began in s has made j accesses, which have given got. -/
def State.midAt (s : State) (j got : Nat) : State :=
  s.setMe { s.me with mid := some { cmd := none, done := j, stamp := s.nonce, got := got } }

theorem State.me_midAt (s : State) (j got : Nat) :
    (s.midAt j got).me = { s.me with mid := some { cmd := none, done := j, stamp := s.nonce, got := got } } := s.me_setMe _

@[simp] theorem State.setMe_midAt (s : State) (j got : Nat) (k : Ctx) : (s.midAt j got).setMe k = s.setMe k := s.setMe_setMe _ _

@[simp] theorem State.midway_midAt (s : State) (j got : Nat) :
    (s.midAt j got).midway = { cmd := none, done := j, stamp := s.nonce, got := got } := by simp [State.midway, State.me_midAt]

theorem State.sameButContexts_midAt (s : State) (j got : Nat) : SameButContexts s (s.midAt j got) := s.sameButContexts_setMe _

/-- What of an issue an instruction under way meets again (R31). -/
theorem issue_midAt {s : State} {h : Hdr} (hi : s.issues h {} = true) (body : State → Res) (j got : Nat) :
    issue h plain body (s.midAt j got) = (body (s.midAt j got)).out h (s.midAt j got) := by
  simp only [State.issues, Bool.and_eq_true, decide_eq_true_eq] at hi
  obtain ⟨⟨⟨⟨⟨hg, -⟩, hp⟩, -⟩, -⟩, -⟩ := hi
  have hphase : (s.midAt j got).phase = s.phase := by
    have hl := (s.sameButContexts_midAt j got).launchOf s.cur
    simp only [State.phase, State.me_midAt]
    rw [show (s.midAt j got).cur = s.cur from rfl, hl]
  have hg' : guardTrue (s.midAt j got).me h = true := by rw [State.me_midAt]; exact hg
  have hp' : phaseOk (s.midAt j got) h.phase = true := by
    rw [← hp]
    cases h.phase <;> simp [phaseOk, hphase]
  simp [issue, hg', hp', plain, contextOk]

theorem State.midway_of_issues {s : State} {h : Hdr} (hi : s.issues h {} = true) :
    s.me.mid = none ∧ s.midway = { cmd := none, done := 0, stamp := s.nonce, got := 0 } := by
  simp only [State.issues, Bool.and_eq_true, Option.isNone_iff_eq_none] at hi
  exact ⟨hi.2, by simp [State.midway, hi.2]⟩

/-! ### The reducing sweep (R86) -/

/-- The 64 bytes that a segment holds. -/
def segmentAt (s : State) (o : Nat) : Nat := s.bankRead (winAt s o).1 (winAt s o).2 64

theorem Memory.read_lt (m : Memory) (a n : Nat) : Memory.read m a n < 256 ^ n := by
  induction n generalizing a with
  | zero => simp [Memory.read]
  | succ n ih =>
    have h1 := ih (a + 1)
    have h2 := (m.byte a).isLt
    rw [Memory.read, pow_succ']
    omega

/-- Segments put together, the first lowest. -/
def packedSegments (gs : List Nat) : Nat := gs.foldr (fun g a => g + 256 ^ 64 * a) 0

theorem packedSegments_append (gs : List Nat) (g : Nat) :
    packedSegments (gs ++ [g]) = packedSegments gs + 256 ^ (64 * gs.length) * g := by
  induction gs with
  | nil => simp [packedSegments]
  | cons x gs ih =>
    have h1 : packedSegments (x :: (gs ++ [g])) = x + 256 ^ 64 * packedSegments (gs ++ [g]) := rfl
    have h2 : packedSegments (x :: gs) = x + 256 ^ 64 * packedSegments gs := rfl
    rw [List.cons_append, h1, ih, h2, List.length_cons, Nat.mul_succ, Nat.add_comm (64 * _), pow_add]
    ring

/-- A segment reads back from those put together. -/
theorem fieldB_packedSegments {gs : List Nat} (hgs : ∀ g ∈ gs, g < 256 ^ 64) {i : Nat} (hi : i < gs.length) :
    fieldB (packedSegments gs) (64 * i) 64 = gs[i] := by
  induction gs generalizing i with
  | nil => cases hi
  | cons x gs ih =>
    have hx : x < 256 ^ 64 := hgs x List.mem_cons_self
    have hcons : packedSegments (x :: gs) = x + 256 ^ 64 * packedSegments gs := rfl
    rw [fieldB, hcons]
    cases i with
    | zero => rw [Nat.mul_zero, pow_zero, Nat.div_one, Nat.add_mul_mod_self_left, Nat.mod_eq_of_lt hx]; rfl
    | succ i =>
      have hdiv : (x + 256 ^ 64 * packedSegments gs) / 256 ^ 64 = packedSegments gs := by
        rw [Nat.add_mul_div_left _ _ (by positivity), Nat.div_eq_of_lt hx, Nat.zero_add]
      rw [Nat.mul_succ, Nat.add_comm (64 * i), pow_add, ← Nat.div_div_eq_div_mul, hdiv]
      exact ih (fun g hg => hgs g (List.mem_cons_of_mem _ hg)) _

/-- What the reducing sweep leaves in its register, of the segments' bytes (R86). -/
def reduced (s : State) (x : OpSwRed) (gs : List Nat) : Nat :=
  ofLanes x.ty ((List.range (laneCount x.ty)).map fun l => sumE x.ty (rndOf s.me x.rnd x.sat)
    (lane x.ty (s.me.rv x.c).toNat l :: gs.map fun g => lane x.ty g l))

section
variable {s : State} {h : Hdr} {x : OpSwRed} {ss : List Nat} (hi : s.issues h {} = true) (hsegs : segOffs s.me x.src x.n.toNat = some ss)
  (hreads : ∀ o ∈ ss, segmentReads s 64 o)
include hreads

/-- One access of the reducing sweep: of segments before the last its bytes are kept, and with the last the sums are written. -/
theorem redRun_eq {u : State} (hsame : SameButContexts s u) (hset : ∀ k, u.setMe k = s.setMe k)
    (hme : u.me = { s.me with mid := u.me.mid }) {j : Nat} (hj : j < ss.length)
    (hmid : u.midway = { cmd := none, done := j, stamp := s.nonce, got := packedSegments ((ss.take j).map (segmentAt s)) }) :
    redRun x ss u = if j + 1 < ss.length then .more (s.midAt (j + 1) (packedSegments ((ss.take (j + 1)).map (segmentAt s))))
      else .done (s.setMe (u.me.wv x.c (BitVec.ofNat 512 (reduced s x (ss.map (segmentAt s)))))) := by
  obtain ⟨hwin, hbad⟩ := hreads ss[j] (List.getElem_mem hj)
  have hlen : ((ss.take j).map (segmentAt s)).length = j := by simp [hj.le]
  have hgot : packedSegments ((ss.take j).map (segmentAt s)) + 256 ^ (64 * j) * segmentAt s ss[j] =
      packedSegments ((ss.take (j + 1)).map (segmentAt s)) := by
    rw [List.take_succ_eq_append_getElem hj, List.map_append, List.map_singleton, packedSegments_append, hlen]
  have hget : ss.getD j 0 = ss[j] := by simp [hj]
  have hread : sweepRead u u.midway (ss.getD u.midway.done 0) 64 u.midway.done = fun k => k (segmentAt s ss[j]) := by
    funext k
    simp only [sweepRead, hmid, hget, hsame.winByte, hwin, hsame.bankBad, hbad, hsame.bankRead, Bool.false_eq_true, if_false]
    rfl
  unfold redRun
  simp only [hread]
  rw [show u.midway.got + 256 ^ (64 * u.midway.done) * segmentAt s ss[j] = packedSegments ((ss.take (j + 1)).map (segmentAt s)) by
    rw [hmid]; exact hgot, show u.midway.done = j by rw [hmid]]
  split <;> rename_i hlast
  · rw [State.stepMid, hset, hmid, hme]
    rfl
  · have hall : ss.take (j + 1) = ss := List.take_of_length_le (not_lt.mp hlast)
    have hfields : (List.range ss.length).map (fun i => fieldB (packedSegments (ss.map (segmentAt s))) (64 * i) 64) = ss.map (segmentAt s) := by
      refine List.ext_getElem (by simp) fun i h1 h2 => ?_
      rw [List.getElem_map, List.getElem_range]
      refine fieldB_packedSegments (fun g hg => ?_) h2
      obtain ⟨o, -, rfl⟩ := List.mem_map.mp hg
      exact Memory.read_lt _ _ _
    have hrv : u.me.rv x.c = s.me.rv x.c := by rw [hme]; rfl
    have hrnd : rndOf u.me x.rnd x.sat = rndOf s.me x.rnd x.sat := by rw [hme]; rfl
    rw [hall, hfields, hset, hrv, hrnd]
    rfl

end

/-- What the reducing sweep has of the segments before one. -/
def redGot (s : State) (ss : List Nat) (j : Nat) : Nat := packedSegments ((ss.take j).map (segmentAt s))

/-- The effect of the reducing sweep. -/
def redBody (x : OpSwRed) (s : State) : Res :=
  match segOffs s.me x.src x.n.toNat with
  | none => s.raiseAt (s.me.rs x.src.base).toNat .illegalPointer
  | some ss =>
    if s.me.mid.isSome then redRun x ss s
    else match sweepFault s [(ss, 64, x.ty.size)] with
    | some (c, d, o) => s.raiseAt (winPtr o) c d
    | none => if sweepBusy s ss then .hold else redRun x ss s

theorem exec_wred (h : Hdr) (x : OpSwRed) (s : State) : exec (.wred h x) s = issue h plain (redBody x) s := rfl

theorem segOffs_midAt (s : State) (j got : Nat) (a : SwAddr) (n : Nat) : segOffs (s.midAt j got).me a n = segOffs s.me a n := by
  rw [State.me_midAt]; rfl

/-- The registers written at the end of an instruction that was under way are those written at once (R129). -/
theorem wroteV_midAt (s : State) (h : Hdr) (j got : Nat) (a : VReg) (r : Nat) :
    (s.setMe ((s.midAt j got).me.wv a (BitVec.ofNat 512 r))).goOn h = s.wroteV h a r := by
  simp only [State.wroteV, State.goOn, State.advance, State.setMe_setMe, State.me_setMe, State.me_midAt, State.cur_setMe,
    State.core_setMe_self]
  rfl

section
variable {s : State} {h : Hdr} {x : OpSwRed} {ss : List Nat} (hi : s.issues h {} = true) (hsegs : segOffs s.me x.src x.n.toNat = some ss)
  (hreads : ∀ o ∈ ss, segmentReads s 64 o)
include hi hsegs hreads

theorem exec_wred_midAt {j : Nat} (hj : j < ss.length) :
    exec (.wred h x) (s.midAt j (redGot s ss j)) = .next (if j + 1 < ss.length then s.midAt (j + 1) (redGot s ss (j + 1))
      else s.wroteV h x.c (reduced s x (ss.map (segmentAt s)))) := by
  have hrun := redRun_eq (x := x) hreads (s.sameButContexts_midAt j (redGot s ss j)) (s.setMe_midAt j _)
    (by rw [State.me_midAt]) hj (s.midway_midAt j _)
  have hbody : redBody x (s.midAt j (redGot s ss j)) = redRun x ss (s.midAt j (redGot s ss j)) := by
    simp [redBody, segOffs_midAt, hsegs, show (s.midAt j (redGot s ss j)).me.mid.isSome = true by rw [State.me_midAt]; rfl]
  rw [exec_wred, issue_midAt hi, hbody, hrun]
  split
  · rfl
  · rw [out_done, wroteV_midAt s h j]

theorem carried_wred_midAt (k : Nat) {j : Nat} (hj : j < ss.length) (hk : ss.length = j + (k + 1)) :
    carried (.wred h x) (k + 1) (s.midAt j (redGot s ss j)) = some (s.wroteV h x.c (reduced s x (ss.map (segmentAt s)))) := by
  induction k generalizing j with
  | zero =>
    rw [carried, exec_wred_midAt hi hsegs hreads hj, if_neg (by omega)]
    exact if_neg (by simp [State.wroteV, State.goOn, State.advance])
  | succ k ih =>
    rw [carried, exec_wred_midAt hi hsegs hreads hj, if_pos (by omega)]
    simp only [State.me_midAt, Option.isSome_some, if_true]
    exact ih (by omega) (by omega)

/-- The reducing sweep begins, and leaves the sums once it has read every segment (R86). -/
theorem carries_wred (hne : ss ≠ []) (hfault : sweepFault s [(ss, 64, x.ty.size)] = none) (hbusy : sweepBusy s ss = false) :
    Carries (.wred h x) s (s.wroteV h x.c (reduced s x (ss.map (segmentAt s)))) := by
  obtain ⟨hmid, hmidway⟩ := State.midway_of_issues hi
  have hpos : 0 < ss.length := List.length_pos_iff.mpr hne
  have hrun := redRun_eq (x := x) hreads s.sameButContexts_refl (fun _ => rfl) rfl hpos hmidway
  have hbody : redBody x s = redRun x ss s := by simp [redBody, hsegs, hmid, hfault, hbusy]
  have hexec : exec (.wred h x) s = .next (if 1 < ss.length then s.midAt 1 (redGot s ss 1)
      else s.wroteV h x.c (reduced s x (ss.map (segmentAt s)))) := by
    rw [exec_wred, issue_issues h plain _ s hi, hbody, hrun]
    split
    · rfl
    · rw [out_done]; rfl
  refine ⟨⟨_, hexec⟩, ss.length, ?_⟩
  obtain ⟨k, hk⟩ : ∃ k, ss.length = k + 1 := ⟨ss.length - 1, by omega⟩
  rw [hk, carried, hexec]
  by_cases hone : 1 < ss.length
  · obtain ⟨k', rfl⟩ : ∃ k', k = k' + 1 := ⟨k - 1, by omega⟩
    rw [if_pos hone]
    simp only [State.me_midAt, Option.isSome_some, if_true]
    exact carried_wred_midAt hi hsegs hreads k' hone (by omega)
  · rw [if_neg hone]
    exact if_neg (by simp [State.wroteV, State.goOn, State.advance])

end

/-! ### An ordinary write to a bank (R172, R313) -/

/-- What differs at most in the clusters and the launches of the package. -/
def LogsOnly (s t : State) : Prop := t = { s with clusters := t.clusters, launches := t.launches }

theorem LogsOnly.trans {s t u : State} (h1 : LogsOnly s t) (h2 : LogsOnly t u) : LogsOnly s u := by
  unfold LogsOnly at *
  rw [h2, h1]

theorem logsOnly_each {α : Type} (f : State → α → State) (hf : ∀ s x, LogsOnly s (f s x)) (s : State) (xs : List α) :
    LogsOnly s (s.each xs f) := by
  induction xs generalizing s with
  | nil => rfl
  | cons x xs ih => exact (hf s x).trans (ih _)

/-- Logging and repairing a line touch the undo log and what a team may roll back. -/
theorem State.logLine_logsOnly (s : State) (pkg line : Nat) : LogsOnly s (s.logLine pkg line) := by
  unfold State.logLine
  dsimp only
  repeat' split
  all_goals first
    | rfl
    | exact logsOnly_each (fun (s : State) (l : Launch) => s.setLaunch { l with noRoll := true }) (fun _ _ => rfl) _ _

theorem State.repairLog_logsOnly (s : State) (pkg off n v : Nat) : LogsOnly s (s.repairLog pkg off n v) := by
  unfold State.repairLog
  dsimp only
  repeat' split
  all_goals rfl

/-- The tag of a region that is written to: 15, unless it is 0 (R172). -/
def State.mixTag (s : State) (pkg r : Nat) : State := if s.tag pkg r = 0 then s else s.setTag pkg r 15

theorem State.mixTag_rest (s : State) (pkg r : Nat) : s.mixTag pkg r = { s with tags := (s.mixTag pkg r).tags } := by
  unfold State.mixTag
  split <;> rfl

theorem State.tag_mixTag (s : State) {pkg r b r' : Nat} (hr : r < 16) (hr' : r' < 16) :
    (s.mixTag pkg r).tag b r' = if (b = pkg ∧ r' = r) ∧ s.tag b r' ≠ 0 then 15 else s.tag b r' := by
  unfold State.mixTag
  by_cases hk : b = pkg ∧ r' = r
  · obtain ⟨rfl, rfl⟩ := hk
    by_cases h0 : s.tag b r' = 0
    · simp [h0]
    · rw [if_neg h0, if_pos ⟨⟨rfl, rfl⟩, h0⟩]
      exact Tab.getD_put_self _ _ _ _
  · have hother : (s.setTag pkg r 15).tag b r' = s.tag b r' := Tab.getD_put_ne _ _ _ _ _ (by omega)
    by_cases h0 : s.tag pkg r = 0
    · rw [if_pos h0, if_neg (fun h => hk h.1)]
    · rw [if_neg h0, if_neg (fun h => hk h.1), hother]

/-- An ordinary write: the lines logged, the bytes written, the tags mixed. -/
theorem State.bankWrite_eq (s : State) (pkg off v : Nat) {n : Nat} (hn : n ≠ 0) :
    ∃ t, LogsOnly s t ∧ s.bankWrite pkg off n v = ((t.bankRaw pkg off n v).mixTag pkg (off / 4096)).mixTag pkg ((off + n - 1) / 4096) :=
  ⟨_, ((s.logLine_logsOnly pkg (off / 64)).trans (State.logLine_logsOnly _ pkg ((off + n - 1) / 64))).trans
    (State.repairLog_logsOnly _ pkg off n v), if_neg hn⟩

/-- The second half of O27. -/
theorem State.bankWrite_changes (s : State) (pkg off n v : Nat) (hn : 0 < n) (hend : off + n ≤ 65536) :
    let t := s.bankWrite pkg off n v
    t.mem = s.mem ∧ t.banks = s.banks.write (pkg * 65536 + off) n v ∧ t.cores = s.cores ∧ t.net = s.net ∧ t.hub = s.hub ∧
    (∀ b r, r < 16 → t.tag b r = if (b = pkg ∧ (r = off / 4096 ∨ r = (off + n - 1) / 4096)) ∧ s.tag b r ≠ 0 then 15 else s.tag b r) := by
  intro t
  obtain ⟨u, hu, ht⟩ := s.bankWrite_eq pkg off v hn.ne'
  have hrest : t = { u.bankRaw pkg off n v with tags := t.tags } := by
    rw [show t = _ from ht, State.mixTag_rest, State.mixTag_rest (u.bankRaw pkg off n v)]
  have htags : (u.bankRaw pkg off n v).tag = s.tag := by funext b r; rw [show u = _ from hu]; rfl
  refine ⟨?_, ?_, ?_, ?_, ?_, fun b r hr => ?_⟩
  · rw [hrest, show u = _ from hu]; rfl
  · rw [hrest, show u = _ from hu]; rfl
  · rw [hrest, show u = _ from hu]; rfl
  · rw [hrest, show u = _ from hu]; rfl
  · rw [hrest, show u = _ from hu]; rfl
  · rw [show t = _ from ht, State.tag_mixTag _ (by omega) hr, State.tag_mixTag _ (by omega) hr, htags]
    generalize s.tag b r = g
    grind

/-- Settles O27: the sums by `carries_wred`, each exact by the rule of one rounding, and the write by `State.bankWrite_changes`. -/
theorem sweepReductionAndBankWrites : Obligations.SweepReductionAndBankWrites := by
  unfold Obligations.SweepReductionAndBankWrites
  refine ⟨fun h x s ss hi hne hsegs hfault hbusy hreads _ => ?_, fun s pkg off n v hn _ hend => s.bankWrite_changes pkg off n v hn hend⟩
  have hlen : ((List.range (laneCount x.ty)).map fun l => sumE x.ty (rndOf s.me x.rnd x.sat)
      (lane x.ty (s.me.rv x.c).toNat l :: (ss.map (segmentAt s)).map fun g => lane x.ty g l)).length = laneCount x.ty := by simp
  refine ⟨reduced s x (ss.map (segmentAt s)), ofLanes_lt hlen, carries_wred hi hsegs hreads hne hfault hbusy, fun l hl => ?_⟩
  intro terms
  have hlane : lane x.ty (reduced s x (ss.map (segmentAt s))) l = sumE x.ty (rndOf s.me x.rnd x.sat) terms % 2 ^ ETy.w x.ty := by
    rw [reduced, lane_ofLanes _ _ _ (by rw [hlen]; exact hl)]
    simp only [List.getElem_map, List.getElem_range, List.map_map]
    rfl
  refine ⟨fun ht => ?_, fun _ => hlane⟩
  obtain ⟨hlt, hval⟩ := intResult_sumE ht (rndOf s.me x.rnd x.sat) terms
  rw [hlane, Nat.mod_eq_of_lt hlt]
  exact ⟨hlt, hval⟩

end Sys2Proof.Machine
end

section
/-!
O28 and O29: the matrix commands at issue. A command is put behind the others of its core's queue, which changes nothing else of the
core; its own checks come first, and what it marks of its tile.
-/

namespace Sys2Proof.Machine

open Sys2Proof

/-! ### The queue of a core -/

/-- A core replaced by one with the same contexts leaves the issuing context as it was. -/
theorem State.me_setMycore (s : State) {k : Core} (hk : k.ctxs = s.mycore.ctxs) : (s.setMycore k).me = s.me := by
  simp [State.me, State.ctx, State.setMycore, hk, State.mycore]

/-- The command that an issue puts in the queue. -/
def State.command (s : State) (i : Instr) (ops : List Word) (op : MOp) : MCmd :=
  { id := s.nonce, ctx := s.curCtx, born := s.me.born, pc := s.me.pc, word := ((encode i).getD 0).toNat
    ops := packB (ops.map (fun w => (8, w.toNat))), op := op }

theorem State.mycore_enqueue (s : State) (i : Instr) (ops : List Word) (op : MOp) :
    (s.enqueue i ops op).2.mycore = { s.mycore with mq := s.mycore.mq ++ [s.command i ops op] } :=
  State.mycore_setMycore _ _

theorem State.me_enqueue (s : State) (i : Instr) (ops : List Word) (op : MOp) : (s.enqueue i ops op).2.me = s.me :=
  State.me_setMycore s.fresh.2 rfl

/-- A matrix instruction with room in the queue and no branch unresolved runs its own checks (R90, R132). -/
theorem matrixOp_eq {s : State} (hun : s.me.unresolved = none) (hroom : s.mycore.mqFull = false) (f : State → Res) :
    matrixOp f s = f s := by simp [matrixOp, State.firm, hun, hroom]

/-- What a command that waits in the queue leaves (R90). -/
theorem queued_effect {i : Instr} {h : Hdr} {f : State → Res} {s u : State} {ops : List Word} {op : MOp}
    (hi : s.issues h {} = true) (hun : s.me.unresolved = none) (hroom : s.mycore.mqFull = false)
    (hexec : exec i s = issue h plain (matrixOp f) s) (hf : f s = u.queued i ops op)
    (hme : u.me = s.me) (hcur : u.curCtx = s.curCtx) (hmq : u.mycore.mq = s.mycore.mq) :
    ∃ (t : State) (m : MCmd), exec i s = .next (t.goOn h) ∧ t.me = s.me ∧ t.mem = u.mem ∧ t.banks = u.banks ∧
      t.mycore = { u.mycore with mq := s.mycore.mq ++ [m] } ∧ m.op = op ∧ m.ctx = s.curCtx ∧ m.pc = s.me.pc := by
  refine ⟨(u.enqueue i ops op).2, u.command i ops op, exec_done hi hexec ?_, (u.me_enqueue i ops op).trans hme, rfl, rfl, ?_, rfl,
    hcur, congrArg Ctx.pc hme⟩
  · rw [matrixOp_eq hun hroom, hf]; rfl
  · rw [u.mycore_enqueue, hmq]

/-- A tile that K-steps will write is marked, and nothing else of the core changes (R95, R97). -/
theorem State.mycore_soil (s : State) (a ty : Nat) :
    (s.soil a ty).mycore = { s.mycore with
      tiles := s.mycore.tiles.setIfInBounds a { s.mycore.tiles.toList.getD a Tile.reset with dirty := true, ty := ty } } :=
  State.mycore_setMycore _ _

theorem State.me_soil (s : State) (a ty : Nat) : (s.soil a ty).me = s.me := State.me_setMycore s rfl

/-- The tile of a name. -/
theorem Core.tile_getD (k : Core) (a : AReg) : k.tiles.toList.getD a.toNat Tile.reset = k.tiles[a.toNat] := by
  simp [List.getD, a.isLt]

theorem State.tile_soil (s : State) (a : AReg) (ty : Nat) :
    (s.soil a.toNat ty).mycore.tiles[a.toNat] = { s.mycore.tiles[a.toNat] with dirty := true, ty := ty } := by
  rw [State.mycore_soil, Core.tile_getD]
  simp

/-- The tile that the checks of R97 answer is the one that its name stands for. -/
theorem tile_of_mmacCheck {k : Core} {t : ETy} {a : AReg} {e : Tile} {ka la kb : Nat}
    (hc : mmacCheck k t a.toNat = some (e, ka, la, kb)) : e = k.tiles[a.toNat] := by
  rw [← Core.tile_getD]
  unfold mmacCheck at hc
  generalize (if t = .i8 then 2 else 1) = want at hc
  dsimp only at hc
  split at hc
  · split_ifs at hc
    exact (congrArg Prod.fst (Option.some.inj hc)).symm
  · cases hc

/-- Settles O28: each command's own checks hold, and it is put behind the others. -/
theorem matrixCommandsQueue : Obligations.MatrixCommandsQueue := by
  unfold Obligations.MatrixCommandsQueue
  intro h a x y z u s hi hun hroom k queues
  have waits {i : Instr} {f : State → Res} {v : State} {ops : List Word} {op : MOp} {more : State → Prop}
      (hexec : exec i s = issue h plain (matrixOp f) s) (hf : f s = v.queued i ops op) (hme : v.me = s.me)
      (hcur : v.curCtx = s.curCtx) (hmem : v.mem = s.mem) (hbanks : v.banks = s.banks) (hmq : v.mycore.mq = s.mycore.mq)
      (hmore : ∀ (t : State) (q : List MCmd), t.mycore = { v.mycore with mq := q } → more t) : queues i op more := by
    obtain ⟨t, m, hnext, htme, htmem, htbanks, hcore, hop, hctx, hpc⟩ := queued_effect hi hun hroom hexec hf hme hcur hmq
    exact ⟨t, hnext, htme, htmem.trans hmem, htbanks.trans hbanks, ⟨m, by rw [hcore], hop, hctx, hpc⟩, hmore t _ hcore⟩
  refine ⟨fun p hp => ?_, fun e kk la hc => ?_, fun ho hpv hpt hot => ?_, fun p => ?_, ?_⟩
  · refine waits (i := .mzero h a) (v := s.setMycore { k with
        tiles := k.tiles.set a.toNat { valid := true, dirty := false, phys := p, ty := 0 }
        phys := Tab.put k.phys p { elems := List.replicate 1024 0, kidx := 0 } }) (ops := []) rfl ?_
      (State.me_setMycore s rfl) rfl rfl rfl (by rw [State.mycore_setMycore]) fun t q ht => ?_
    · show (match k.freeTile with | none => _ | some p => _) = _
      rw [hp]
    · rw [ht, State.mycore_setMycore]
      have hne (b : AReg) (hb : b ≠ a) : a.toNat ≠ b.toNat := fun e => hb (BitVec.eq_of_toNat_eq e.symm)
      exact ⟨Vector.getElem_set_self a.isLt, fun b hb => Vector.getElem_set_ne a.isLt b.isLt (hne b hb), Tab.get?_put_self _ _ _⟩
  · refine waits (i := .mmac h x) (v := s.soil x.a.toNat (if x.ty = .i8 then 2 else 1)) (ops := []) rfl ?_
      (s.me_soil _ _) rfl rfl rfl (by rw [State.mycore_soil]) fun t q ht => ?_
    · simp only []
      rw [show mmacCheck s.mycore x.ty x.a.toNat = _ from hc]
      simp [k]
    · rw [ht, tile_of_mmacCheck hc]; exact s.tile_soil x.a _
  · refine waits (i := .mscale h y) (v := s.soil y.a.toNat 1) (ops := []) rfl ?_
      (s.me_soil _ _) rfl rfl rfl (by rw [State.mycore_soil]) fun t q ht => ?_
    · rcases hot with hot | hot <;> simp [ho, hpv, hpt, hot, k]
    · rw [ht]; exact s.tile_soil y.a 1
  · intro tl hv hok hp hsp hres hal hfit
    let e : Epi := { ctx := s.curCtx, born := s.me.born, dst := p, row := 0, ty := z.ty, tileTy := tl.ty, mode := z.rnd, sat := z.sat
                     ovt := s.me.ovt.toNat, pc := s.me.pc, xlat := s.me.xlat.toNat, level := s.me.level, faulted := false
                     trapped := none }
    refine ⟨e, rfl, rfl, rfl, rfl, rfl, rfl, rfl, rfl, waits (i := .mepi h z) (v := s) (ops := [s.me.rs z.base]) rfl ?_
      rfl rfl rfl rfl rfl fun _ _ _ => trivial⟩
    have hres' : (s.resolve s.cur p).isNone = false := by rwa [← Option.not_isSome, Bool.not_eq_false']
    have hin : (p % 64 != 0 || bits p 63 60 != 0 && decide (65536 < bits p 15 0 + 1024 * z.ty.size)) = false := by
      rcases hfit with h0 | hle
      · simp [hal, h0]
      · simp [hal, Nat.not_lt.mpr hle]
    simp only [show s.mycore.tiles[z.a.toNat] = tl from rfl, hv, hok, hp, hsp, hres', hin]
    rfl
  · have hr : (matrixOp (fun s =>
        let r := s.enqueue (.mstat h u) [] (.mstat u.a.toNat s.mycore.tiles[u.b.toNat])
        let k := r.2.mycore
        Res.done (r.2.setMycore { k with loads := k.loads ++
          [{ id := r.1, ctx := s.curCtx, reg := .s u.a.toNat, ty := .n64, val := none, due := 0, exposed := false }] })) s) = _ :=
      matrixOp_eq hun hroom _
    refine ⟨_, exec_done hi rfl hr, ?_, rfl, rfl, s.command (.mstat h u) [] (.mstat u.a.toNat k.tiles[u.b.toNat]), ?_, rfl, ?_⟩
    · refine (State.me_setMycore _ ?_).trans (s.me_enqueue _ _ _)
      rfl
    · rw [State.mycore_setMycore, State.mycore_enqueue]
    · rw [State.mycore_setMycore, State.mycore_enqueue]; rfl

/-! ### Reads of memory by an instruction -/

/-- What holds of a state and is kept for each element holds at the end. -/
theorem State.each_ind {α : Type} {P : State → Prop} {f : State → α → State} (hf : ∀ s a, P s → P (f s a)) {s : State}
    (hs : P s) (xs : List α) : P (s.each xs f) := by
  induction xs generalizing s with
  | nil => exact hs
  | cons x xs ih => exact ih (hf s x hs)

/-- The issuing context of a state is that of another. -/
def SameTurn (s t : State) : Prop := t.cur = s.cur ∧ t.curCtx = s.curCtx

theorem sameTurn_chargeEntries (s : State) (p : Nat) (es : List Nat) : SameTurn s (s.chargeEntries p es) :=
  State.each_ind (P := SameTurn s) (fun t a ht => by split <;> exact ht) ⟨rfl, rfl⟩ es

theorem sameTurn_devWrite (s : State) (a n v : Nat) : SameTurn s (s.devWrite a n v) := by
  simp only [SameTurn, State.devWrite, State.mark]
  split <;> exact ⟨rfl, rfl⟩

theorem SameTurn.trans {s t u : State} (hst : SameTurn s t) (htu : SameTurn t u) : SameTurn s u :=
  ⟨htu.1.trans hst.1, htu.2.trans hst.2⟩

theorem sameTurn_orEntries (s : State) (p : Nat) (es : List Nat) (m : Nat) : SameTurn s (s.orEntries p es m) := by
  refine State.each_ind (P := SameTurn s) (fun t a ht => ?_) (sameTurn_chargeEntries s p es) es
  dsimp only
  split
  · split <;> exact ht
  · exact ht.trans (sameTurn_devWrite t _ _ _)

theorem sameTurn_touch (s : State) (g : Agent) (va n : Nat) : SameTurn s (s.touch g va n) := by
  refine State.each_ind (P := SameTurn s) (fun t p ht => ?_) ⟨rfl, rfl⟩ _
  split
  · exact ht
  · split
    · exact (ht.trans (sameTurn_chargeEntries t _ _)).trans (sameTurn_orEntries _ _ _ _)
    · exact ht.trans (sameTurn_chargeEntries t _ _)

/-- A read leaves the issuing core and context. -/
theorem sameTurn_bulkRead {s t : State} {g : Agent} {p n v : Nat} (hr : s.bulkRead g p n = .ok (v, t)) : SameTurn s t := by
  unfold State.bulkRead at hr
  split at hr
  · cases hr
  · split at hr
    · cases hr
    · cases hr
      refine SameTurn.trans ?_ (State.cur_chargePieces _ _ _)
      unfold State.touchPtr
      split
      · exact sameTurn_touch _ _ _ _
      · exact ⟨rfl, rfl⟩

theorem sameTurn_readShape {s t : State} {g : Agent} {sh v : Nat} (hr : s.readShape g sh = .ok (v, t)) : SameTurn s t := by
  unfold State.readShape at hr
  dsimp only at hr
  split at hr
  · cases hr
  · split at hr
    · cases hr
    · split at hr
      · cases hr
      · exact sameTurn_bulkRead hr

/-- With a translation of every page at hand, an instruction goes on at once (R268). -/
theorem withRuns_of_holdsPages {s : State} {rs : List (Nat × Nat)} (hp : HoldsPages s rs) (k : State → Res) :
    s.withRuns rs k = k (s.dropWalks s.cur s.curCtx) := by
  unfold State.withRuns
  dsimp only
  split
  next a ha =>
    obtain ⟨hmiss, hmem⟩ := And.intro (List.find?_some ha) (List.mem_of_find?_eq_some ha)
    obtain ⟨r, hr, hq⟩ := List.mem_flatMap.mp hmem
    obtain ⟨q, hpage, rfl⟩ := List.mem_map.mp hq
    obtain ⟨hr, hsp⟩ := List.mem_filter.mp hr
    have hsome : (s.lookup s.cur (xlatAsid s.me.xlat.toNat) q.1).isSome = true := hp r hr (by simpa using hsp) q hpage
    have hself : (s.lookup s.self.core (xlatAsid s.self.xlat) q.1).isNone = true := (Bool.and_eq_true _ _ ▸ hmiss : _ ∧ _).1
    have hnone : (s.lookup s.cur (xlatAsid s.me.xlat.toNat) q.1).isNone = true := hself
    rw [Option.isNone_iff_eq_none] at hnone
    rw [hnone] at hsome
    cases hsome
  next => rfl

/-! ### Commands that their context waits for -/

/-- What a command that its context waits for leaves (R93). -/
theorem queuedWait_effect {i : Instr} {h : Hdr} {f : State → Res} {s u : State} {ops : List Word} {op : MOp}
    (hi : s.issues h {} = true) (hun : s.me.unresolved = none) (hroom : s.mycore.mqFull = false)
    (hexec : exec i s = issue h plain (matrixOp f) s) (hf : f s = u.queuedWait i ops op)
    (hme : u.me = s.me) (hcur : u.curCtx = s.curCtx) (hmq : u.mycore.mq = s.mycore.mq) :
    ∃ (t : State) (m : MCmd), exec i s = .next (t.begun h) ∧ t.mycore.mq = s.mycore.mq ++ [m] ∧ m.op = op ∧ m.ctx = s.curCtx ∧
      t.me = { s.me with wait := .matrix m.id } ∧ t.banks = u.banks ∧ t.mem = u.mem ∧
      ∃ cs, t.mycore = { u.mycore with mq := s.mycore.mq ++ [m], ctxs := cs } := by
  let v := (u.enqueue i ops op).2
  let m := u.command i ops op
  let t := v.setMe { v.me with wait := .matrix m.id }
  have hvme : v.me = s.me := (u.me_enqueue i ops op).trans hme
  have hcore : t.mycore = { u.mycore with mq := s.mycore.mq ++ [m], ctxs := t.mycore.ctxs } := by
    have hvcore : v.mycore = { u.mycore with mq := u.mycore.mq ++ [m] } := u.mycore_enqueue i ops op
    have htcore : t.mycore = { v.mycore with ctxs := t.mycore.ctxs } := by
      rw [show t.mycore = _ from v.core_setMe_self _]; rfl
    rw [htcore, hvcore, hmq]
  refine ⟨t, m, ?_, ?_, rfl, hcur, ?_, rfl, rfl, _, hcore⟩
  · rw [hexec, issue_issues h plain _ s hi, matrixOp_eq hun hroom, hf]
    rfl
  · rw [hcore]
  · rw [show t.me = _ from v.me_setMe _, hvme]

/-- The space of a pointer is 0, 1 or 2, and it names something: the check of R93 passes. -/
theorem pointer_passes {s : State} {l : List Nat} {p : Nat} (hsp : l.contains (bits p 63 60) = true)
    (hres : (s.resolve s.cur p).isSome = true) :
    (!(l.contains (bits p 63 60)) || (s.resolve s.cur p).isNone) = false := by
  rw [hsp, Bool.not_true, Bool.false_or, ← Option.not_isSome, hres, Bool.not_true]

/-- The handle of `mrepl` for a physical tile (R103). -/
theorem badHandle_handle {p : Nat} {discard : Bool} (hp : p < 24) :
    let v := (if discard then 2 ^ 31 else 0) + p
    badHandle v = false ∧ bits v 4 0 = p ∧ bit v 31 = discard := by
  cases discard
  · simp [badHandle, bits, bit]
    omega
  · simp [badHandle, bits, bit]
    omega

theorem badHandle_of {v : Nat} (hv : 2 ^ 32 ≤ v ∨ v % 2 ^ 31 / 32 ≠ 0 ∨ 24 ≤ v % 32) (hlt : v < 2 ^ 64) : badHandle v = true := by
  simp only [badHandle, Bool.or_eq_true, bne_iff_ne, ne_eq, decide_eq_true_eq]
  simp only [bits, Nat.reduceAdd, Nat.reduceSub, Nat.reducePow]
  omega

/-- A core with its current buffer of one side turned over. -/
def Core.turned (k : Core) (isA : Bool) : Core := if isA then { k with curA := 1 - k.curA } else { k with curB := 1 - k.curB }

/-- Where the record and the panel of a load pass their checks, the load is put in the queue (R93). -/
theorem mldOp_eq {isA : Bool} {i : Instr} {x : OpMld} {s t0 : State} {p r : Nat} {g : Shape} {qs : List (List Piece)}
    (hp : displace (s.me.rs x.base).toNat x.disp.toInt = some p) (hsp : [0, 1, 2].contains (bits p 63 60) = true)
    (hres : (s.resolve s.cur p).isSome = true) (hshape : HoldsPages s [((s.me.rs x.sh).toNat, 32)])
    (hread : (s.dropWalks s.cur s.curCtx).readShape (s.dropWalks s.cur s.curCtx).self (s.me.rs x.sh).toNat = .ok (r, t0))
    (hg : shapeOf r = some g) (hpages : HoldsPages t0 ((g.runs p).getD []))
    (hat : (t0.dropWalks t0.cur t0.curCtx).panelAt (t0.dropWalks t0.cur t0.curCtx).self g p = .ok qs)
    (hk : t0.mycore = s.mycore) (hme : t0.me = s.me) :
    mldOp isA i x s = ((t0.dropWalks t0.cur t0.curCtx).setMycore (s.mycore.turned isA)).queuedWait i [s.me.rs x.base, s.me.rs x.sh]
      (.mld isA (if isA then 1 - s.mycore.curA else 2 + (1 - s.mycore.curB)) p (s.me.rs x.sh).toNat r s.me.xlat.toNat s.me.level) := by
  have hkept : ((t0.dropWalks t0.cur t0.curCtx).setMycore (s.mycore.turned isA)).me = s.me := by
    rw [State.me_setMycore]
    · exact hme
    · rw [show (t0.dropWalks t0.cur t0.curCtx).mycore = s.mycore from hk]; cases isA <;> rfl
  simp only [mldOp, hp, pointer_passes hsp hres, Bool.false_eq_true, if_false]
  rw [withRuns_of_holdsPages hshape, hread]
  simp only [hg]
  rw [withRuns_of_holdsPages hpages, hat]
  let t1 := t0.dropWalks t0.cur t0.curCtx
  show (t1.setMycore (t1.mycore.turned isA)).queuedWait i [s.me.rs x.base, s.me.rs x.sh]
    (.mld isA (if isA then 1 - t1.mycore.curA else 2 + (1 - t1.mycore.curB)) p (s.me.rs x.sh).toNat r
      (t1.setMycore (t1.mycore.turned isA)).me.xlat.toNat (t1.setMycore (t1.mycore.turned isA)).me.level) = _
  rw [show t1.mycore = s.mycore from hk, hkept]

/-- Where the tile, the buffers and the metadata of a sparse product pass their checks, it is put in the queue (R98). -/
theorem mmacSp_queued {h : Hdr} {z : OpMmacSp} {s t0 : State} {e : Tile} {ka la m : Nat} (hi : s.issues h {} = true)
    (hun : s.me.unresolved = none) (hroom : s.mycore.mqFull = false)
    (hc : mmacCheck s.mycore z.ty z.a.toNat = some (e, ka, la, 2 * ka)) (hka : ka % 6 = 0)
    (hsp : [0, 1].contains (bits (s.me.rs z.m).toNat 63 60) = true) (hres : (s.resolve s.cur (s.me.rs z.m).toNat).isSome = true)
    (hal : (s.me.rs z.m).toNat % 64 = 0) (hpages : HoldsPages s [((s.me.rs z.m).toNat, la * (ka / 6) * 3)])
    (hread : (s.dropWalks s.cur s.curCtx).bulkRead (s.dropWalks s.cur s.curCtx).self (s.me.rs z.m).toNat (la * (ka / 6) * 3) = .ok (m, t0))
    (hk : t0.mycore = s.mycore) (hme : t0.me = s.me) :
    let rows := (List.range la).map (fun i => (List.range (ka / 6)).map (fun j => fieldB m ((i * (ka / 6) + j) * 3) 3))
    (∀ r ∈ rows, ∀ v ∈ r, metaOk v = true) →
    ∃ (t : State) (c : MCmd), exec (.mmacSp h z) s = .next (t.goOn h) ∧ t.me = s.me ∧ t.mycore.mq = s.mycore.mq ++ [c] ∧
      c.op = .mmac e.phys z.ty s.mycore.curA (2 + s.mycore.curB) (some rows) 0 ∧
      t.mycore.tiles[z.a.toNat] = { e with dirty := true, ty := if z.ty = .i8 then 2 else 1 } := by
  intro rows hrows
  let v := t0.soil z.a.toNat (if z.ty = .i8 then 2 else 1)
  have hvk : v.mycore.mq = s.mycore.mq := by rw [State.mycore_soil, hk]
  have hall : (rows.flatMap id).findIdx? (fun v => !metaOk v) = none := by
    rw [List.findIdx?_eq_none_iff]
    intro v hv
    obtain ⟨r, hr, hv⟩ := List.mem_flatMap.mp hv
    rw [hrows r hr v hv, Bool.not_true]
  obtain ⟨t, c, hnext, htme, -, -, hcore, hop, -, -⟩ := queued_effect (i := .mmacSp h z) (u := v) (ops := [s.me.rs z.m])
    (op := .mmac e.phys z.ty s.mycore.curA (2 + s.mycore.curB) (some rows) 0) hi hun hroom rfl (by
      have hodd : (ka % 6 != 0 || 2 * ka != 2 * ka) = false := by simp [hka]
      have hal' : ((s.me.rs z.m).toNat % 64 != 0) = false := by simp [hal]
      simp only [hc, hodd, pointer_passes hsp hres, hal', Bool.false_eq_true, if_false]
      rw [withRuns_of_holdsPages hpages, hread]
      exact congrArg (fun o : Option Nat => match o with
        | some n => (s.dropWalks s.cur s.curCtx).raise Cause.illegal (n / (ka / 6) + n % (ka / 6) * 256)
        | none => v.queued (.mmacSp h z) [s.me.rs z.m] (.mmac e.phys z.ty s.mycore.curA (2 + s.mycore.curB) (some rows) 0)) hall) ((t0.me_soil _ _).trans hme) (sameTurn_bulkRead hread).2 hvk
  refine ⟨t, c, hnext, htme, by rw [hcore], hop, ?_⟩
  have htile := t0.tile_soil z.a (if z.ty = .i8 then 2 else 1)
  rw [hk, ← tile_of_mmacCheck hc] at htile
  rw [hcore]
  exact htile

/-- Settles O29: the checks of each instruction hold, and its command is put behind the others. -/
theorem matrixWaits : Obligations.MatrixWaits := by
  unfold Obligations.MatrixWaits
  intro h a b x y z s hi hun hroom k begins
  have waits {i : Instr} {f : State → Res} {v : State} {ops : List Word} {op : MOp} {more : State → Prop}
      (hexec : exec i s = issue h plain (matrixOp f) s) (hf : f s = v.queuedWait i ops op) (hme : v.me = s.me)
      (hcur : v.curCtx = s.curCtx) (hbanks : v.banks = s.banks) (hmq : v.mycore.mq = s.mycore.mq)
      (hmore : ∀ (t : State) (q : List MCmd) (cs : Tab Ctx), t.mem = v.mem → t.mycore = { v.mycore with mq := q, ctxs := cs } → more t) :
      begins i op more := by
    obtain ⟨t, m, hnext, htmq, hop, hctx, htme, htbanks, htmem, cs, hcore⟩ := queuedWait_effect hi hun hroom hexec hf hme hcur hmq
    exact ⟨t, m, hnext, htmq, hop, hctx, htme, htbanks.trans hbanks, hmore t _ cs htmem hcore⟩
  refine ⟨fun hidle => ?_, ⟨fun p discard hp hv => ?_, fun hbad => ?_⟩, fun pkg region hat => ?_, ?_, ?_⟩
  · refine exec_done (body := fun s => if s.mycore.mqFull || s.mycore.inFlight a.toNat then .hold else .done s) hi rfl ?_
    rw [hroom, show s.mycore.inFlight a.toNat = false from hidle]
    rfl
  · obtain ⟨hok, hphys, hbit⟩ := badHandle_handle (discard := discard) hp
    rw [← hv] at hok hphys hbit
    refine waits (i := .mrepl h b) (v := s) (ops := [s.me.rs b]) rfl ?_ rfl rfl rfl rfl fun t _ _ ht _ => ht
    simp only []
    rw [hok, hphys, hbit]
    rfl
  · refine exec_trap (body := matrixOp _) hi rfl ((matrixOp_eq hun hroom _).trans ?_)
    simp only []
    rw [badHandle_of hbad (s.me.rs b).isLt]
    rfl
  · refine waits (i := .mswz h y) (v := s) (ops := [s.me.rs y.b]) rfl ?_ rfl rfl rfl rfl fun t _ _ ht _ => ht
    simp only []
    rw [hat]
  · intro p r t0 g qs s1 t1 hp hsp hres hshape hread hg hpages hk hme hbanks hat
    obtain ⟨hcur, hctx⟩ := sameTurn_readShape hread
    have hv (isA : Bool) : (t1.setMycore (k.turned isA)).me = s.me := by
      rw [State.me_setMycore]
      · exact hme
      · rw [show t1.mycore = k from hk]; cases isA <;> rfl
    have hop (isA : Bool) (i : Instr) := mldOp_eq (isA := isA) (i := i) hp hsp hres hshape hread hg hpages hat hk hme
    have hq (isA : Bool) : (t1.setMycore (k.turned isA)).mycore.mq = s.mycore.mq := by
      rw [State.mycore_setMycore]; cases isA <;> rfl
    refine ⟨waits (i := .mldA h x) rfl (hop true _) (hv true) hctx hbanks (hq _) ?_,
      waits (i := .mldB h x) rfl (hop false _) (hv false) hctx hbanks (hq _) ?_⟩
    all_goals
      intro t q cs _ ht
      rw [ht, State.mycore_setMycore]
      exact ⟨rfl, rfl, rfl⟩
  · intro e ka la m t0 p s1 hc hka hsp hres hal hpages hread hk hme rows hrows
    exact mmacSp_queued hi hun hroom hc hka hsp hres hal hpages hread hk hme hrows

end Sys2Proof.Machine
end

section
/-!
O33: distribution images in the local window. The eight lines of an image leave as the parts of one access; the register takes what the
last line's value completes.
-/

namespace Sys2Proof.Machine

open Sys2Proof

/-! ### Pointers of the local window (R174) -/

/-- A pointer of space 1 to the window names its slot and the offset in it. -/
theorem State.resolve_window (s : State) (c : Nat) {p : Nat} (hsp : p / 2 ^ 48 = 0x1000) (hoff : p % 2 ^ 48 < 0x200000) :
    bits p 63 60 = 1 ∧ s.resolve c p = some (.win (p % 2 ^ 48 / 65536) (p % 65536)) := by
  have hspace : bits p 63 60 = 1 := by simp only [bits, Nat.reduceAdd, Nat.reduceSub, Nat.reducePow] at *; omega
  have howner : bits p 59 48 = 0 := by simp only [bits, Nat.reduceAdd, Nat.reduceSub, Nat.reducePow] at *; omega
  have hlow : bits p 47 0 = p % 2 ^ 48 := by simp [bits]
  refine ⟨hspace, ?_⟩
  simp only [State.resolve, hspace, howner, hlow, hoff, decide_true, Bool.and_self, if_true]
  rw [show p % 2 ^ 48 % 65536 = p % 65536 by omega]

/-- A displacement of 0 leaves a pointer as it is. -/
theorem displace_zero {p : Nat} : displace p 0 = some p := by
  have hlow : bits p 47 0 < 2 ^ 48 := Nat.mod_lt _ (by norm_num)
  have hpos : (decide (0 ≤ ((bits p 47 0 : Nat) : Int)) && decide (((bits p 47 0 : Nat) : Int) < 2 ^ 48)) = true := by
    rw [Bool.and_eq_true, decide_eq_true_eq, decide_eq_true_eq]
    exact ⟨Int.natCast_nonneg _, by exact_mod_cast hlow⟩
  rw [displace]
  simp only [Int.add_zero, hpos, if_true, Int.toNat_natCast, Option.some.injEq]
  simp only [bits]
  omega

/-! ### Aligned parts (R129) -/

/-- The parts of lines at a line's place are the lines. -/
theorem partsOf_lines {a o : Nat} (ha : (a + o) % 64 = 0) (m k : Nat) :
    partsOf a (m + k) o (64 * m) = (List.range m).map (fun i => (o + 64 * i, 64)) := by
  induction m generalizing o with
  | zero => cases k <;> simp [partsOf]
  | succ m ih =>
    have hsize : partSize (a + o) (64 * (m + 1)) = 64 := by
      rw [partSize, if_pos]
      simp [ha]
    rw [show m + 1 + k = m + k + 1 by omega, partsOf, if_neg (by omega)]
    simp only [hsize]
    rw [show 64 * (m + 1) - 64 = 64 * m by omega, ih (by omega), List.range_succ_eq_map]
    simp [Function.comp_def, Nat.mul_add, Nat.add_assoc, Nat.add_comm 64]

/-! ### The parts of an access on their way -/

/-- One part of an access that its context waits for, as it leaves. -/
def State.waitedPart (s : State) (q : MemReq) (p asid : Nat) (c : Cut) (i : Nat) : Access :=
  { id := s.nonce + i, core := s.cur, ctx := s.curCtx, born := s.me.born, path := .ls, kind := q.kind, dest := c.dest
    size := c.size, data := q.data / 256 ^ c.at_ % 256 ^ c.size, jrn := none, pc := s.me.pc
    va := p, crossDie := c.cross, performed := false, value := 0, refused := none, release := q.rel
    part := s.partOf s.cur, asid := asid, since := s.time, group := s.nonce, at_ := c.at_, got := 0, bridged := none
    told := false }

/-- The parts of such an access. -/
def State.waitedParts (s : State) (q : MemReq) (p asid : Nat) (cs : List Cut) : List Access :=
  (cs.zip (List.range cs.length)).map (fun c => s.waitedPart q p asid c.1 c.2)

/-- The state with these parts on their way, the register of a load pending. -/
def State.waitedFor (s : State) (q : MemReq) (p asid : Nat) (cs : List Cut) : State :=
  let u : State := { s with net := s.net ++ s.waitedParts q p asid cs, nonce := s.nonce + cs.length }
  match q.reg with
  | some r => u.setMycore { u.mycore with loads := u.mycore.loads ++
      [{ id := s.nonce, ctx := s.curCtx, reg := r, ty := q.ty, val := none, due := 0, exposed := false }] }
  | none => u

/-- The loads that wait for a register of such an access. -/
def State.waitedLoads (s : State) (q : MemReq) : List Load :=
  match q.reg with
  | some r => [{ id := s.nonce, ctx := s.curCtx, reg := r, ty := q.ty, val := none, due := 0, exposed := false }]
  | none => []

theorem State.mycore_waitedFor (s : State) (q : MemReq) (p asid : Nat) (cs : List Cut) :
    (s.waitedFor q p asid cs).mycore = { s.mycore with loads := s.mycore.loads ++ s.waitedLoads q } := by
  unfold State.waitedFor State.waitedLoads
  cases q.reg with
  | some r => exact State.mycore_setMycore _ _
  | none => simp only [List.append_nil]; rfl

theorem State.waitedFor_rest (s : State) (q : MemReq) (p asid : Nat) (cs : List Cut) :
    s.waitedFor q p asid cs = { s with
      cores := (s.waitedFor q p asid cs).cores, net := s.net ++ s.waitedParts q p asid cs, nonce := s.nonce + cs.length } := by
  unfold State.waitedFor
  cases q.reg <;> rfl

theorem State.me_waitedFor (s : State) (q : MemReq) (p asid : Nat) (cs : List Cut) : (s.waitedFor q p asid cs).me = s.me := by
  have hcur : (s.waitedFor q p asid cs).cur = s.cur ∧ (s.waitedFor q p asid cs).curCtx = s.curCtx := by
    rw [s.waitedFor_rest]; exact ⟨rfl, rfl⟩
  have hcore := congrArg Core.ctxs (s.mycore_waitedFor q p asid cs)
  simp only [State.me, State.ctx, hcur]
  rw [State.mycore, hcur.1] at hcore
  rw [hcore]
  rfl

/-- An access of the window that leaves in parts is waited for (R117). -/
theorem launchAccess_window (s : State) (q : MemReq) (slot off : Nat) (cs : List Cut) (p asid : Nat) :
    s.launchAccess q (.win slot off) cs p asid =
      .wait ((s.waitedFor q p asid cs).setMe { (s.waitedFor q p asid cs).me with wait := .access s.nonce }) := by
  have hposted : (q.kind != .load && !(q.blocks (.win slot off) || (q.kind == .load && (cs.any Cut.toPeer || q.size == 512)) || true)) = false := by
    simp
  unfold State.launchAccess
  simp only [Bool.or_true, Bool.not_true, Bool.and_false, Bool.false_eq_true, if_false, if_true]
  unfold State.waitedFor
  cases q.reg <;> rfl

theorem getElem?_waitedParts (s : State) (q : MemReq) (p asid : Nat) {cs : List Cut} {j : Nat} {c : Cut} (hj : cs[j]? = some c) :
    (s.waitedParts q p asid cs)[j]? = some (s.waitedPart q p asid c j) := by
  have hlt : j < cs.length := (List.getElem?_eq_some_iff.mp hj).1
  have hpair : (cs.zip (List.range cs.length))[j]? = some (c, j) :=
    List.getElem?_zip_eq_some.mpr ⟨hj, List.getElem?_range hlt⟩
  rw [State.waitedParts, List.getElem?_map, hpair, Option.map_some]

/-! ### An image in the window (R116, R117) -/

/-- A request for 512 bytes that pass the checks of R175 in the window leaves in parts. -/
theorem memOp_window_image {s : State} {q : MemReq} {p slot off pkg : Nat} (hbase : displace q.base.toNat q.disp = some p)
    (hspace : bits p 63 60 = 1) (hres : s.resolve s.cur p = some (.win slot off)) (hspaces : q.spaces.contains 1 = true)
    (hal : off % q.align = 0) (hsize : q.size = 512) (hfit : off + 512 ≤ 65536) (hrel : q.rel = false)
    (hopen : s.openSlot s.cur slot = .ok pkg) (hun : s.me.unresolved = none) :
    s.memOp q = s.launchAccess q (.win slot off) (cutsTo off 512 false (fun o => .slot s.cur slot (off + o))) p 0 := by
  have hfree : s.me.unresolved.isSome = false := by rw [hun]; rfl
  have hwait : s.mustWait q = false := by rw [State.mustWait, hrel]; rfl
  have hspace4 : (q.writes && decide (1 = 4)) = false := Bool.and_false _
  have hfit' : (off % q.align != 0 || decide (65536 < off + 512)) = false := by
    rw [hal, decide_eq_false (Nat.not_lt.mpr hfit)]; rfl
  unfold State.memOp
  simp only [hbase, hfree, hspace, hres, hspaces, hwait, hopen, hspace4, hsize, Bool.false_and, Bool.false_eq_true, Bool.not_true, if_false, if_true]
  rw [if_neg (by rw [hfit']; exact Bool.false_ne_true)]

section
variable {s : State} {p pkg : Nat} (hsp : p / 2 ^ 48 = 0x1000) (hoff : p % 2 ^ 48 < 0x200000) (hal : p % 64 = 0)
  (hfit : p % 65536 + 512 ≤ 65536) (hopen : s.openSlot s.cur (p % 2 ^ 48 / 65536) = .ok pkg) (hun : s.me.unresolved = none)
include hsp hoff hal hfit hopen

/-- The checks of an image pass in the window. -/
theorem imageAt_window {x : OpDMem} (hp : displace (s.me.rs x.base).toNat x.disp.toInt = some p) (acc : Nat) (k : Nat → Res) :
    s.imageAt x acc k = k p := by
  obtain ⟨hspace, hres⟩ := s.resolve_window s.cur hsp hoff
  have hlow : bits p 15 0 = p % 65536 := by simp [bits]
  have hin : (p % 64 != 0 || bits p 63 60 != 0 && decide (65536 < bits p 15 0 + 512)) = false := by
    rw [hlow]
    simp [hal, Nat.not_lt.mpr hfit]
  rw [hspace] at hin
  have hspaces : (!([0, 1, 2].contains 1)) = false := rfl
  simp only [State.imageAt, hp, hspace, hres, hspaces, hin, Bool.false_eq_true, if_false, hopen]

include hun

/-- The lines of an image leave, and its context waits for them. -/
theorem memOp_image (kind : AKind) (v : Nat) (reg : Option Reg) :
    s.memOp (imageReq p kind 512 v reg) = s.launchAccess (imageReq p kind 512 v reg) (.win (p % 2 ^ 48 / 65536) (p % 65536))
      (cutsTo (p % 65536) 512 false (fun o => .slot s.cur (p % 2 ^ 48 / 65536) (p % 65536 + o))) p 0 := by
  obtain ⟨hspace, hres⟩ := s.resolve_window s.cur hsp hoff
  have hp : p < 2 ^ 64 := by omega
  have hbase : displace (imageReq p kind 512 v reg).base.toNat (imageReq p kind 512 v reg).disp = some p := by
    simp only [imageReq, BitVec.toNat_ofNat, Nat.mod_eq_of_lt hp]
    exact displace_zero
  have hline : p % 65536 % 64 = 0 := by omega
  exact memOp_window_image hbase hspace hres rfl hline rfl hfit rfl hopen hun

end

/-- The eight lines of an image. -/
theorem cutsTo_image {o : Nat} (ho : o % 64 = 0) (f : Nat → Dest) :
    cutsTo o 512 false f = (List.range 8).map (fun i => { at_ := 64 * i, size := 64, dest := f (64 * i), cross := false }) := by
  have hparts : partsOf o 512 0 512 = _ := partsOf_lines (a := o) (o := 0) (by simpa using ho) 8 504
  rw [cutsTo, hparts]
  simp

/-! ### The last line's value (R58, R117) -/

/-- Counting the registers that an instruction has written changes the frame of its core, and its launch at most (R312). -/
theorem State.countUnits_rest (s : State) (c x : Nat) (rs : List Reg) :
    s.countUnits c x rs = { s with cores := (s.countUnits c x rs).cores, launches := (s.countUnits c x rs).launches } := by
  unfold State.countUnits State.noRoll
  dsimp only
  split
  · rfl
  · split
    · split <;> rfl
    · rfl

theorem State.core_countUnits (s : State) (c x : Nat) (rs : List Reg) :
    ∃ us, (s.countUnits c x rs).core c = { s.core c with units := us } := by
  unfold State.countUnits State.noRoll
  dsimp only
  split
  · exact ⟨_, rfl⟩
  · split
    · split
      · exact ⟨_, State.core_setCore_self s c _⟩
      · exact ⟨_, State.core_setCore_self s c _⟩
    · exact ⟨_, State.core_setCore_self s c _⟩

theorem State.mycore_setMe (s : State) (k : Ctx) :
    (s.setMe k).mycore = { s.mycore with ctxs := Tab.put s.mycore.ctxs s.curCtx k } := s.core_setMe_self k

/-- What the lines of an image leave, and who waits for them. -/
theorem image_leaves {i : Instr} {h : Hdr} {body : State → Res} {s : State} {q : MemReq} {p slot off : Nat}
    (hi : s.issues h { helper := false } = true) (hexec : exec i s = issue h control body s)
    (hbody : body s = s.launchAccess q (.win slot off) (cutsTo off 512 false (fun o => .slot s.cur slot (off + o))) p 0)
    (hal : off % 64 = 0) :
    ∃ (t : State) (as : List Access), exec i s = .next (t.begun h) ∧ t.me = { s.me with wait := .access s.nonce } ∧
      MemoryKept s t ∧ t.mycore.d = s.mycore.d ∧ t.mycore.loads = s.mycore.loads ++ s.waitedLoads q ∧ t.net = s.net ++ as ∧
      as.length = 8 ∧ ∀ j, j < 8 → ∃ a, as[j]? = some a ∧
        a.id = s.nonce + j ∧ a.group = s.nonce ∧ a.core = s.cur ∧ a.ctx = s.curCtx ∧ a.path = .ls ∧ a.kind = q.kind ∧
        a.dest = .slot s.cur slot (off + 64 * j) ∧ a.size = 64 ∧ a.at_ = 64 * j ∧
        a.data = q.data / 256 ^ (64 * j) % 256 ^ 64 ∧ a.jrn = none ∧ a.performed = false ∧ a.refused = none := by
  let cs := cutsTo off 512 false (fun o => .slot s.cur slot (off + o))
  let v := s.waitedFor q p 0 cs
  have hrest := s.waitedFor_rest q p 0 cs
  have hmem := congrArg State.mem hrest
  have hbanks := congrArg State.banks hrest
  have htags := congrArg State.tags hrest
  have hnet := congrArg State.net hrest
  have hcs : cs = _ := cutsTo_image hal _
  have hcore := v.mycore_setMe { v.me with wait := .access s.nonce }
  have hvcore : v.mycore = _ := s.mycore_waitedFor q p 0 cs
  refine ⟨v.setMe { v.me with wait := .access s.nonce }, s.waitedParts q p 0 cs, ?_, ?_, ⟨fun a => ?_, fun a => ?_, ?_⟩, ?_, ?_, ?_, ?_,
    fun j hj => ⟨s.waitedPart q p 0 { at_ := 64 * j, size := 64, dest := .slot s.cur slot (off + 64 * j), cross := false } j,
      getElem?_waitedParts s q p 0 ?_, rfl, rfl, rfl, rfl, rfl, rfl, rfl, rfl, rfl, rfl, rfl, rfl, rfl⟩⟩
  · rw [hexec, issue_issues h control body s hi, hbody, launchAccess_window]; rfl
  · rw [v.me_setMe, s.me_waitedFor]
  · exact congrArg (Memory.byte · a) hmem
  · exact congrArg (Memory.byte · a) hbanks
  · exact htags
  · rw [hcore, hvcore]
  · rw [hcore, hvcore]
  · exact hnet
  · simp [State.waitedParts, hcs]
  · rw [hcs]; simp [hj]

/-- The parts of an access have come when the last one's value joins them (R129). -/
theorem giveValue_last {s : State} {a : Access} {id : Nat} (ha : s.access? id = some a)
    (hlast : s.net.filter (·.group == a.group) = [a]) (v : Nat) :
    s.giveValue a v = (s.dropAccess id).deliver a (a.got + v * 256 ^ a.at_) := by
  have hid : a.id = id := by simpa using List.find?_some ha
  have hnone : ((s.dropAccess id).net.find? (fun b => b.group == a.group)) = none := by
    rw [List.find?_eq_none]
    intro b hb hgroup
    obtain ⟨hb, hne⟩ := List.mem_filter.mp (show b ∈ s.net.filter (·.id != id) from hb)
    have hmem : b ∈ s.net.filter (·.group == a.group) := List.mem_filter.mpr ⟨hb, hgroup⟩
    rw [hlast, List.mem_singleton] at hmem
    rw [hmem, hid] at hne
    simp at hne
  unfold State.giveValue
  simp only [hid, hnone]

/-- What the whole of an image does where it comes: it is checked, and reaches its register (R117). -/
theorem deliver_image {s : State} {a : Access} {l : Load} {i : DReg} (halive : s.aliveFor a = true)
    (hload : (s.core a.core).loads.find? (·.id == a.group) = some l) (hreg : l.reg = .d i.toNat)
    (hwait : (s.ctx a.core a.ctx).wait = .access a.group) (v : Nat) :
    s.deliver a v =
      if v / 256 ^ 385 != 0 || !(distOf v).sorted then (s.dropLoad a.core a.group).trapWaiting a.core a.ctx 0x01 0 0 0
      else if a.told then (s.dropLoad a.core a.group).trapWaiting a.core a.ctx 0x11 0 a.va 0
      else some (((s.dropLoad a.core a.group).writeReg a.core a.ctx (.d i.toNat) l.ty v).finishWait a.core a.ctx) := by
  unfold State.deliver
  simp only [halive, Bool.not_true, Bool.false_eq_true, if_false, hload, hreg, hwait, beq_self_eq_true, if_true]
  rfl

/-- The register of an image written, and its context gone on. -/
theorem image_written (u : State) (c x : Nat) (i : DReg) (ty : ETy) (v : Nat) :
    let t := (u.writeReg c x (.d i.toNat) ty v).finishWait c x
    MemoryKept u t ∧ (t.core c).d[i.toNat] = distOf v ∧ (∀ j : DReg, j ≠ i → (t.core c).d[j.toNat] = (u.core c).d[j.toNat]) ∧
      t.net = u.net ∧ (t.ctx c x).wait = .none ∧ (t.ctx c x).pc = ((u.ctx c x).pc + 12) % 2 ^ 48 ∧
      RegsKept [] (u.ctx c x) (t.ctx c x) := by
  intro t
  let w := u.countUnits c x [.d i.toNat]
  obtain ⟨us, hus⟩ := u.core_countUnits c x [.d i.toNat]
  have hrest := u.countUnits_rest c x [.d i.toNat]
  let r := w.setCore c { w.core c with d := (w.core c).d.setIfInBounds i.toNat (distOf v) }
  have hr : r.core c = { u.core c with units := us, d := (u.core c).d.setIfInBounds i.toNat (distOf v) } := by
    rw [show r.core c = _ from State.core_setCore_self w c _, hus]
  have ht : t = r.finishWait c x := rfl
  have hctx : r.ctx c x = u.ctx c x := by rw [State.ctx, hr]; rfl
  have hd : (t.core c).d = (u.core c).d.setIfInBounds i.toNat (distOf v) := by
    rw [ht, State.finishWait, State.core_setCtx_self, hr]
  have hme : t.ctx c x = { u.ctx c x with pc := ((u.ctx c x).pc + 12) % 2 ^ 48, wait := .none, finish := none
                                          stall := (r.core c).cc + 1 + (u.ctx c x).finish.getD 0 } := by
    rw [ht, State.finishWait, State.ctx_setCtx_self, hctx]
  have hmem := congrArg State.mem hrest
  have hbanks := congrArg State.banks hrest
  have htags := congrArg State.tags hrest
  have hnet := congrArg State.net hrest
  refine ⟨⟨fun b => congrArg (Memory.byte · b) hmem, fun b => congrArg (Memory.byte · b) hbanks, htags⟩, ?_, ?_, hnet, ?_, ?_, ?_⟩
  · simp only [hd]; simp
  · intro j hj
    have hn : i.toNat ≠ j.toNat := fun e => hj (BitVec.eq_of_toNat_eq e.symm)
    simp only [hd]
    simp [hn]
  · rw [hme]
  · rw [hme]
  · rw [hme]; exact ⟨fun _ _ => rfl, fun _ _ => rfl, fun _ _ => rfl⟩

/-- Settles O33: the lines leave by `image_leaves`, and the last one's value is delivered by the rule of R117. -/
theorem distributionImages : Obligations.DistributionImages := by
  unfold Obligations.DistributionImages
  refine ⟨?_, ?_⟩
  · intro h x s p pkg hi hp hsp hoff hal hfit hopen hun line leaves
    have hline : p % 65536 % 64 = 0 := by omega
    let stores (s : State) (p : Nat) : Res :=
      let v := (s.rd x.d).image
      if bits p 63 60 = 1 then s.memOp (imageReq p .store 512 v none)
      else if decide (24 < s.mycore.journal.length) then .hold
      else (List.range 8).foldl (fun (r : Res) i => match r with
        | .done t => t.memOp (imageReq (p + 64 * i) .store 64 (v / 256 ^ (64 * i) % 256 ^ 64) none)
        | r => r) (.done s)
    refine ⟨image_leaves (i := .dld h x)
      (body := fun s => s.imageAt x 0 (fun p => s.memOp (imageReq p .load 512 0 (some (.d x.d.toNat))))) (q := imageReq p .load 512 0 (some (.d x.d.toNat))) (p := p) hi rfl ?_ hline, 
      image_leaves (i := .dstr h x) (body := fun s => s.firm (s.imageAt x 1 (stores s))) (q := imageReq p .store 512 (s.mycore.d[x.d.toNat]).image none) (p := p) hi rfl ?_ hline⟩
    · exact (imageAt_window hsp hoff hal hfit hopen hp 0 _).trans (memOp_image hsp hoff hal hfit hopen hun _ _ _)
    · have hfirm (k : Res) : s.firm k = k := by rw [State.firm, hun]; rfl
      refine (hfirm _).trans ((imageAt_window hsp hoff hal hfit hopen hp 1 _).trans ?_)
      simp only [stores, if_pos (s.resolve_window s.cur hsp hoff).1]
      exact memOp_image hsp hoff hal hfit hopen hun _ _ _
  · intro id s a l i ha href hgive hlast halive hload hreg hwait v k u
    have hexec : exec (.loadValueReturn id) s = .next (((s.dropAccess id).deliver a v).getD s) := by
      show execLoadValueReturn id s = _
      simp only [execLoadValueReturn, ha, hgive, href, Bool.not_true, Bool.false_eq_true, if_false, giveValue_last ha hlast]
      rfl
    rw [deliver_image (i := i) (s := s.dropAccess id) halive hload hreg hwait] at hexec
    refine ⟨fun htail hsorted htold => ?_, fun t hbad ht => ?_, fun t htail hsorted htold ht => ?_⟩
    · rw [if_neg (by rw [htail, hsorted]; decide), if_neg (by rw [htold]; decide)] at hexec
      obtain ⟨hmem, hd, hothers, hnet, hw, hpc, hregs⟩ := image_written u a.core a.ctx i l.ty v
      have hcore : u.core a.core = { s.core a.core with loads := (s.core a.core).loads.filter (·.id != a.group) } :=
        State.core_setCore_self _ _ _
      have hctx : u.ctx a.core a.ctx = k := by rw [State.ctx, hcore]; rfl
      rw [hctx] at hpc hregs
      refine ⟨_, hexec, hmem, hd, fun j hj => (hothers j hj).trans ?_, hnet, hw, hpc, hregs⟩
      rw [hcore]
    · rw [if_pos ?_] at hexec
      · exact hexec.trans (congrArg (fun o : Option State => Host.Outcome.next (o.getD s)) ht)
      · rw [Bool.or_eq_true, bne_iff_ne, Bool.not_eq_true', ← Bool.not_eq_true, ← not_and_or]
        exact hbad
    · rw [if_neg (by rw [htail, hsorted]; decide), if_pos htold] at hexec
      exact hexec.trans (congrArg (fun o : Option State => Host.Outcome.next (o.getD s)) ht)

end Sys2Proof.Machine
end

section
/-!
O34 and O35: software traps and the return from them. A trap of the replayable class leaves a record in the trap queue and enters the
handler; what it stages and saves is what `trapret` puts back.
-/

namespace Sys2Proof.Machine

open Sys2Proof

/-! ### Values in memory and in records (R3) -/

theorem Memory.read_add (m : Memory) (a j k : Nat) : m.read a (j + k) = m.read a j + 256 ^ j * m.read (a + j) k := by
  induction j generalizing a with
  | zero => simp [Memory.read]
  | succ j ih =>
    rw [show j + 1 + k = j + k + 1 by omega, Memory.read, Memory.read, ih, show a + 1 + j = a + (j + 1) by omega, Nat.pow_succ]
    ring

/-- Bytes within a value that is read are its bytes. -/
theorem Memory.read_within (m : Memory) (a : Nat) {o k n : Nat} (hn : o + k ≤ n) : m.read (a + o) k = fieldB (m.read a n) o k := by
  obtain ⟨r, rfl⟩ := Nat.exists_eq_add_of_le hn
  rw [fieldB, Nat.add_assoc, Memory.read_add, Memory.read_add m (a + o), Nat.add_mul_div_left _ _ (by positivity),
    Nat.div_eq_of_lt (Memory.read_lt m a o), Nat.zero_add, Nat.add_mul_mod_self_left, Nat.mod_eq_of_lt (Memory.read_lt m (a + o) k)]

theorem fieldB_packB_head (n v : Nat) (r : List (Nat × Nat)) : fieldB (packB ((n, v) :: r)) 0 n = v % 256 ^ n := by
  simp [fieldB, packB]

theorem fieldB_packB_tail {n o : Nat} (ho : n ≤ o) (v k : Nat) (r : List (Nat × Nat)) :
    fieldB (packB ((n, v) :: r)) o k = fieldB (packB r) (o - n) k := by
  obtain ⟨j, rfl⟩ := Nat.exists_eq_add_of_le ho
  have hdiv : (v % 256 ^ n + 256 ^ n * packB r) / 256 ^ n = packB r := by
    rw [Nat.add_mul_div_left _ _ (by positivity), Nat.div_eq_of_lt (Nat.mod_lt _ (by positivity)), Nat.zero_add]
  rw [fieldB, packB, Nat.pow_add, ← Nat.div_div_eq_div_mul, hdiv, Nat.add_sub_cancel_left, fieldB]

/-- A field of a record, by its number in the list. -/
theorem fieldB_packB_at {r : List (Nat × Nat)} {j n v : Nat} (hj : r[j]? = some (n, v)) :
    fieldB (packB r) ((r.take j).map (·.1)).sum n = v % 256 ^ n := by
  induction r generalizing j with
  | nil => cases hj
  | cons e r ih =>
    cases j with
    | zero => cases hj; exact fieldB_packB_head _ _ _
    | succ j =>
      obtain ⟨m, w⟩ := e
      rw [List.take_succ_cons, List.map_cons, List.sum_cons, fieldB_packB_tail (Nat.le_add_right _ _), Nat.add_sub_cancel_left]
      exact ih hj

theorem packB_lt (r : List (Nat × Nat)) : packB r < 256 ^ (r.map (·.1)).sum := by
  induction r with
  | nil => simp [packB]
  | cons e r ih =>
    obtain ⟨n, v⟩ := e
    have hv : v % 256 ^ n < 256 ^ n := Nat.mod_lt _ (by positivity)
    rw [List.map_cons, List.sum_cons, Nat.pow_add, packB]
    calc v % 256 ^ n + 256 ^ n * packB r < 256 ^ n * (packB r + 1) := by rw [Nat.mul_add]; omega
      _ ≤ 256 ^ n * 256 ^ (r.map (·.1)).sum := Nat.mul_le_mul_left _ ih

/-- Fields of one size, one after another. -/
theorem fieldB_packB_map {α : Type} (f : α → Nat) (n : Nat) (xs : List α) {i : Nat} {x : α} (hi : xs[i]? = some x) :
    fieldB (packB (xs.map (fun x => (n, f x)))) (n * i) n = f x % 256 ^ n := by
  induction xs generalizing i with
  | nil => simp at hi
  | cons y ys ih =>
    cases i with
    | zero =>
      cases hi
      exact fieldB_packB_head _ _ _
    | succ i =>
      rw [List.map_cons, fieldB_packB_tail (by rw [Nat.mul_succ]; omega), show n * (i + 1) - n = n * i by rw [Nat.mul_succ]; omega]
      exact ih hi

/-! ### The trap queue (R305, R309) -/

/-- The slot found is one of those searched, and free. -/
theorem freeSlot_spec {held : List Nat} {lo n i : Nat} (hi : freeSlot held lo n = some i) : lo ≤ i ∧ i < lo + n ∧ i ∉ held := by
  induction n generalizing lo with
  | zero => cases hi
  | succ n ih =>
    rw [freeSlot] at hi
    split at hi
    · obtain ⟨hlo, hhi, hfree⟩ := ih hi
      exact ⟨by omega, by omega, hfree⟩
    · next hnot =>
      cases hi
      exact ⟨Nat.le_refl _, by omega, fun hmem => hnot (List.contains_iff_mem.mpr hmem)⟩

/-- A write of device memory changes memory and its marks. -/
theorem State.devWrite_rest (s : State) (a n v : Nat) :
    ∃ bad hub, s.devWrite a n v = { s with mem := s.mem.write a n v, badMem := bad, hub := hub } := by
  unfold State.devWrite State.mark
  split <;> exact ⟨_, _, rfl⟩

@[simp] theorem State.mem_devWrite (s : State) (a n v : Nat) : (s.devWrite a n v).mem = s.mem.write a n v := rfl

@[simp] theorem State.part_setPart_self (s : State) (p : Nat) (k : Part) : (s.setPart p k).part p = k := Tab.getD_put_self _ _ _ _

/-- A record changes memory, its marks and its partition. -/
theorem State.postRecord_rest (s : State) (p c x : Nat) (t : Trap) (level flags : Nat) :
    ∃ mem bad hub parts, (s.postRecord p c x t level flags).1 = { s with mem := mem, badMem := bad, hub := hub, parts := parts } := by
  unfold State.postRecord
  dsimp only
  split
  · exact ⟨_, _, _, _, rfl⟩
  · split
    · exact ⟨_, _, _, _, rfl⟩
    · obtain ⟨bad, hub, hw⟩ := s.devWrite_rest (_ : Nat) 64 _
      rw [hw]
      exact ⟨_, _, _, _, rfl⟩

theorem State.postRecord_off {s : State} {p : Nat} (hoff : (s.part p).tqOn = false) (c x : Nat) (t : Trap) (level flags : Nat) :
    s.postRecord p c x t level flags = (s, none) := by
  simp [State.postRecord, hoff]

/-- With the queue on and a slot free, the record stands in the lowest one (R305). -/
theorem State.postRecord_on {s : State} {p : Nat} (hon : (s.part p).tqOn = true) (hroom : s.trapStalls p = false) (c x : Nat) (t : Trap)
    (level flags : Nat) : ∃ i, i < 248 ∧ i ∉ (s.part p).tqHeld ∧
      s.postRecord p c x t level flags =
        ((s.devWrite ((s.part p).tqBase + 64 * i) 64 (Sys2Proof.Machine.recordOf s c x t level flags p (s.part p).recSeq)).setPart p
          { s.part p with tqHeld := (s.part p).tqHeld ++ [i], recSeq := ((s.part p).recSeq + 1) % 2 ^ 32 }, some i) := by
  cases hslot : freeSlot ((s.part p).tqHeld ++ (s.part p).tqFatal) 0 248 with
  | none => simp [State.trapStalls, hon, hslot] at hroom
  | some i =>
    obtain ⟨-, hlt, hfree⟩ := freeSlot_spec hslot
    refine ⟨i, by omega, fun hmem => hfree (List.mem_append_left _ hmem), ?_⟩
    simp [State.postRecord, hon, hslot]

/-- The word that says why a context is in its handler (R306). -/
def trapWord (level : Nat) (t : Trap) : Nat := 2 ^ 63 + level * 2 ^ 10 + b2n t.replays * 2 ^ 9 + b2n t.async * 2 ^ 8 + t.cause

/-- What a context holds once it stands at its handler (R306). -/
def Ctx.inHandler (k : Ctx) (t : Trap) (slot : Option Nat) (rb : Bool) (vec : Nat) : Ctx :=
  { k with
    trapcause := BitVec.ofNat 64 (trapWord k.level t), trappc := BitVec.ofNat 64 t.resume, trapdetail := BitVec.ofNat 64 t.detail
    trapjrn := (match t.jrn with | some e => BitVec.ofNat 64 (32 + e) | none => 0)
    level := 1, pc := vec, trapSlot := slot, rbTrap := rb, wait := .none, stall := 0, mid := none }

@[simp] theorem State.part_bankRaw (s : State) (pkg off n v p : Nat) : (s.bankRaw pkg off n v).part p = s.part p := rfl
@[simp] theorem State.partOf_bankRaw (s : State) (pkg off n v c : Nat) : (s.bankRaw pkg off n v).partOf c = s.partOf c := rfl
@[simp] theorem State.core_bankRaw (s : State) (pkg off n v c : Nat) : (s.bankRaw pkg off n v).core c = s.core c := rfl
@[simp] theorem State.banks_bankRaw (s : State) (pkg off n v : Nat) :
    (s.bankRaw pkg off n v).banks = s.banks.write (pkg * 65536 + off) n v := rfl

/-- Entering the handler is said of the state and its context: what is staged and what the context then holds (R306, R312). -/
theorem State.enterHandler_eq (s : State) (c x : Nat) (t : Trap) (slot : Option Nat) (rb : Bool) :
    s.enterHandler c x t slot rb = (s.bankRaw (stagingSlot c x).1 (stagingSlot c x).2 64 (s.ctx c x).upper).setCtx c x
      ((s.ctx c x).inHandler t slot rb (s.part (s.partOf c)).trapvec) := by
  simp only [State.enterHandler, State.part_bankRaw, State.partOf_bankRaw]
  rfl

/-- A trap of the replayable class at L0 that nothing delays leaves its record and enters the handler (R306, R309). -/
theorem State.takeTrap_replayable {s : State} {c x : Nat} {t : Trap} (hl : (s.ctx c x).level = 0) (hdone : s.storesDone c x = true)
    (hr : t.replays = true) (hroom : s.trapStalls (s.partOf c) = false) (hset : s.settled c x = true) :
    s.takeTrap c x t = some ((s.postRecord (s.partOf c) c x t 0 (1 + b2n t.async * 2)).1.enterHandler c x t
      (s.postRecord (s.partOf c) c x t 0 (1 + b2n t.async * 2)).2 false) := by
  simp [State.takeTrap, hl, hdone, hr, hroom, hset]

/-! ### Return from a trap (R299) -/

/-- What a fold over the upper registers writes. -/
theorem getElem_upperFold (f : Nat → Word) (v : Vector Word 32) {m j : Nat} (hm : m ≤ 8) (hj : j < 32) :
    ((List.range m).foldl (fun r i => r.setIfInBounds (24 + i) (f i)) v)[j] = if 24 ≤ j ∧ j < 24 + m then f (j - 24) else v[j] := by
  induction m with
  | zero => rw [if_neg (by omega)]; rfl
  | succ m ih =>
    rw [List.range_succ, List.foldl_append, List.foldl_cons, List.foldl_nil, Vector.getElem_setIfInBounds hj, ih (by omega)]
    by_cases h : 24 + m = j
    · rw [if_pos h, if_pos (by omega), show j - 24 = m by omega]
    · rw [if_neg h]
      by_cases h' : 24 ≤ j ∧ j < 24 + m
      · rw [if_pos h', if_pos (by omega)]
      · rw [if_neg h', if_neg (by omega)]

/-- s24 to s31 as a staging line holds them. -/
def State.staged (s : State) (c x i : Nat) : Word :=
  BitVec.ofNat 64 (fieldB (s.bankRead (stagingSlot c x).1 (stagingSlot c x).2 64) (8 * i) 8)

/-- The context that a return from a trap makes of another (R299). -/
def Ctx.back (k : Ctx) (f : Nat → Word) : Ctx :=
  { k with
    level := bits k.trapcause.toNat 11 10, pc := k.trappc.toNat % 2 ^ 48, trapcause := k.trapcause &&& 0x7FFFFFFFFFFFFFFF#64
    s := (List.range 8).foldl (fun r i => r.setIfInBounds (24 + i) (f i)) k.s, trapSlot := none }

/-- The slots of a trap queue held once a context's own is released. -/
def heldAfter (slot : Option Nat) (held : List Nat) : List Nat :=
  match slot with
  | some i => held.filter (· != i)
  | none => held

/-- The state in which a context's own record is released. -/
def State.released (s : State) (c x : Nat) : State :=
  match (s.ctx c x).trapSlot with
  | some i => s.setPart (s.partOf c) { s.part (s.partOf c) with tqHeld := (s.part (s.partOf c)).tqHeld.filter (· != i) }
  | none => s

/-- The state that a return leaves, its context apart: the control context's return ends a failed refetch. -/
def State.handed (s : State) (c x : Nat) : State :=
  if x = 0 then (s.released c x).setCore c { (s.released c x).core c with refetchFailed := false } else s.released c x

/-- A return with no rollback (R299). -/
theorem State.trapReturn_eq {s : State} {c x : Nat} (hrb : (s.ctx c x).rbTrap = false) (hset : s.settled c x = true) :
    s.trapReturn c x = some ((s.handed c x).setCtx c x ((s.ctx c x).back (s.staged c x))) := by
  unfold State.trapReturn
  dsimp only
  rw [if_neg (by rw [hrb]; exact Bool.false_ne_true), if_neg (by rw [hset]; exact Bool.false_ne_true)]
  rfl

theorem State.handed_rest (s : State) (c x : Nat) : ∃ cores parts, s.handed c x = { s with cores := cores, parts := parts } := by
  unfold State.handed State.released
  split <;> split <;> exact ⟨_, _, rfl⟩

theorem State.tqHeld_handed (s : State) (c x : Nat) :
    ((s.handed c x).part (s.partOf c)).tqHeld = heldAfter (s.ctx c x).trapSlot (s.part (s.partOf c)).tqHeld := by
  have hrel : ((s.released c x).part (s.partOf c)).tqHeld = heldAfter (s.ctx c x).trapSlot (s.part (s.partOf c)).tqHeld := by
    unfold State.released heldAfter
    split
    · rw [State.part_setPart_self]
    · rfl
  unfold State.handed
  split
  · exact hrel
  · exact hrel

/-- `trapret` with a trap active and nothing of its context still to come. -/
theorem exec_trapret {g : Hdr} {s : State} (hi : s.issues g { level := 1 } = true) (hact : s.me.trapcause.getLsbD 63 = true)
    (hun : s.me.unresolved = none) (hrb : s.me.rbTrap = false) (hset : s.settled s.cur s.curCtx = true) :
    ∃ u w : State, exec (.trapret g) s = .next u ∧ w.mem = s.mem ∧ w.banks = s.banks ∧ w.tags = s.tags ∧
      (w.part (s.partOf s.cur)).tqHeld = heldAfter s.me.trapSlot (s.part (s.partOf s.cur)).tqHeld ∧
      w.me = s.me.back (s.staged s.cur s.curCtx) ∧ u = w.land.advance g w.me.pc := by
  obtain ⟨cores, parts, hv⟩ := s.handed_rest s.cur s.curCtx
  let w := (s.handed s.cur s.curCtx).setCtx s.cur s.curCtx (s.me.back (s.staged s.cur s.curCtx))
  have hw : w.me = s.me.back (s.staged s.cur s.curCtx) := by
    have hcur : w.cur = s.cur ∧ w.curCtx = s.curCtx := by simp only [w, hv]; exact ⟨rfl, rfl⟩
    rw [State.me, hcur.1, hcur.2]
    exact State.ctx_setCtx_self _ _ _ _
  refine ⟨_, w, ?_, ?_, ?_, ?_, s.tqHeld_handed s.cur s.curCtx, hw, rfl⟩
  · simp only [exec, execTrapret]
    rw [issue_issues g _ _ s hi]
    simp only [hact, Bool.not_true, Bool.false_eq_true, if_false, State.firm, hun, Option.isSome_none]
    rw [show s.trapReturn s.cur s.curCtx = some w from State.trapReturn_eq hrb hset]
    rfl
  all_goals simp only [w, hv]; rfl

/-! ### Software traps -/

/-- The trap of `trapi` and `hcall` (R74, R298). -/
def State.softTrap (s : State) (detail : Nat) : Trap :=
  { cause := 0x16, detail := detail, resume := (s.me.pc + 12) % 2 ^ 48, fpc := s.me.pc, va := 0, ipa := 0, jrn := none, async := false }

/-- The state with the record of a software trap. -/
def State.recorded (s : State) (detail : Nat) : State × Option Nat :=
  s.postRecord (s.partOf s.cur) s.cur s.curCtx (s.softTrap detail) 0 1

/-- The state in which a software trap has been taken. -/
def State.softTrapped (s : State) (detail : Nat) : State :=
  (s.recorded detail).1.enterHandler s.cur s.curCtx (s.softTrap detail) (s.recorded detail).2 false

/-- A software trap that nothing delays is taken. -/
theorem trapOut_softTrap {s : State} (hl : s.me.level = 0) (hroom : s.trapStalls (s.partOf s.cur) = false)
    (hset : s.settled s.cur s.curCtx = true) (hdone : s.storesDone s.cur s.curCtx = true) (detail : Nat) :
    s.trapOut (s.softTrap detail) = .next (s.softTrapped detail) := by
  rw [trapOut_next, State.takeTrap_replayable (t := s.softTrap detail) hl hdone rfl hroom hset]
  rfl

theorem State.recorded_rest (s : State) (detail : Nat) :
    ∃ mem bad hub parts, (s.recorded detail).1 = { s with mem := mem, badMem := bad, hub := hub, parts := parts } :=
  s.postRecord_rest _ _ _ _ _ _

theorem State.trapvec_postRecord (s : State) (p c x : Nat) (t : Trap) (level flags : Nat) :
    ((s.postRecord p c x t level flags).1.part p).trapvec = (s.part p).trapvec := by
  unfold State.postRecord
  dsimp only
  split
  · rfl
  · split
    · rfl
    · rw [State.part_setPart_self]

theorem State.trapvec_recorded (s : State) (detail : Nat) :
    ((s.recorded detail).1.part (s.partOf s.cur)).trapvec = (s.part (s.partOf s.cur)).trapvec :=
  s.trapvec_postRecord _ _ _ _ _ _

/-- The software trap's state: its record's, with the upper registers staged and the context in its handler (R306, R312). -/
theorem State.softTrapped_eq (s : State) (detail : Nat) :
    s.softTrapped detail = ((s.recorded detail).1.bankRaw (stagingSlot s.cur s.curCtx).1 (stagingSlot s.cur s.curCtx).2 64 s.me.upper).setCtx
      s.cur s.curCtx (s.me.inHandler (s.softTrap detail) (s.recorded detail).2 false (s.part (s.partOf s.cur)).trapvec) := by
  obtain ⟨mem, bad, hub, parts, hr⟩ := s.recorded_rest detail
  have hpart : (s.recorded detail).1.partOf s.cur = s.partOf s.cur := by rw [hr]; rfl
  have hctx : (s.recorded detail).1.ctx s.cur s.curCtx = s.me := by rw [hr]; rfl
  rw [State.softTrapped, State.enterHandler_eq, hpart, hctx, s.trapvec_recorded]

theorem State.softTrapped_rest (s : State) (detail : Nat) : (s.softTrapped detail).cur = s.cur ∧ (s.softTrapped detail).curCtx = s.curCtx ∧
    (s.softTrapped detail).net = s.net ∧ (s.softTrapped detail).clusters = s.clusters ∧
    (s.softTrapped detail).mem = (s.recorded detail).1.mem ∧ (s.softTrapped detail).parts = (s.recorded detail).1.parts ∧
    (s.softTrapped detail).banks = s.banks.write ((stagingSlot s.cur s.curCtx).1 * 65536 + (stagingSlot s.cur s.curCtx).2) 64 s.me.upper := by
  obtain ⟨mem, bad, hub, parts, hr⟩ := s.recorded_rest detail
  rw [State.softTrapped_eq, hr]
  generalize 64 = n
  exact ⟨rfl, rfl, rfl, rfl, rfl, rfl, rfl⟩

theorem State.me_softTrapped (s : State) (detail : Nat) : (s.softTrapped detail).me =
    s.me.inHandler (s.softTrap detail) (s.recorded detail).2 false (s.part (s.partOf s.cur)).trapvec := by
  obtain ⟨hcur, hctx, -⟩ := s.softTrapped_rest detail
  rw [State.me, hcur, hctx, State.softTrapped_eq]
  exact State.ctx_setCtx_self _ _ _ _

theorem State.core_softTrapped (s : State) (detail : Nat) (c : Nat) : (s.softTrapped detail).core c =
    if c = s.cur then { s.core c with ctxs := Tab.put (s.core c).ctxs s.curCtx (s.softTrapped detail).me } else s.core c := by
  obtain ⟨mem, bad, hub, parts, hr⟩ := s.recorded_rest detail
  rw [State.me_softTrapped, State.softTrapped_eq, hr]
  split
  next hc => subst hc; exact State.core_setCtx_self _ _ _ _
  next hc => exact State.core_setCtx_ne _ _ _ _ _ hc

/-- The upper registers are staged in their line of bank 63, and no other byte of the banks changes (R312). -/
theorem State.banks_softTrapped {s : State} (hwf : s.MemWf) (detail : Nat) :
    let at_ := (stagingSlot s.cur s.curCtx).1 * 65536 + (stagingSlot s.cur s.curCtx).2
    (∀ i, i < 8 → (s.softTrapped detail).banks.read (at_ + 8 * i) 8 = (s.me.s.toList.getD (24 + i) 0).toNat) ∧
    ∀ a, a < at_ ∨ at_ + 64 ≤ a → (s.softTrapped detail).banks.byte a = s.banks.byte a := by
  intro at_
  obtain ⟨-, -, -, -, -, -, hbanks⟩ := s.softTrapped_rest detail
  obtain ⟨-, hb, -⟩ := hwf
  rw [hbanks]
  refine ⟨fun i hi => ?_, fun a ha => Memory.byte_write_of_not _ _ _ _ _ hb ha⟩
  have hupper : s.me.upper < 256 ^ 64 := packB_lt _
  have hfield : fieldB s.me.upper (8 * i) 8 = (s.me.s.toList.getD (24 + i) 0).toNat % 256 ^ 8 :=
    fieldB_packB_map (fun i => (s.me.s.toList.getD (24 + i) 0).toNat) 8 (List.range 8) (List.getElem?_range hi)
  rw [Memory.read_within _ at_ (n := 64) (by omega), Memory.read_write _ _ _ _ hb hupper, hfield]
  exact Nat.mod_eq_of_lt (BitVec.isLt _)

/-- The record of a software trap from L0, field by field (R305). -/
theorem softTrap_record (s : State) (detail seq : Nat) (hd : detail < 2 ^ 64) :
    let r := Sys2Proof.Machine.recordOf s s.cur s.curCtx (s.softTrap detail) 0 1 (s.partOf s.cur) seq
    r < 256 ^ 64 ∧ fieldB r 0 1 = 0x16 ∧ fieldB r 1 1 % 4 = 1 ∧ fieldB r 4 2 = s.cur % 2 ^ 16 ∧
      fieldB r 8 8 = (s.me.pc + 12) % 2 ^ 48 ∧ fieldB r 16 8 = s.me.pc % 2 ^ 64 ∧ fieldB r 24 8 = detail := by
  intro r
  have hfield {j n v : Nat} (o : Nat) (hj : ([(1, 0x16), (1, 1), (1, s.curCtx + 0 * 16), (1, 0), (2, s.cur), (1, s.partOf s.cur), (1, 0),
      (8, (s.me.pc + 12) % 2 ^ 48), (8, s.me.pc), (8, detail), (8, 0), (8, 0), (8, s.time), (4, seq), (4, 0)] : List (Nat × Nat))[j]? = some (n, v))
      (ho : o = _) : fieldB r o n = v % 256 ^ n := ho ▸ fieldB_packB_at hj
  have hcause : fieldB r 0 1 = _ := hfield 0 (j := 0) rfl rfl
  have hflags : fieldB r 1 1 = _ := hfield 1 (j := 1) rfl rfl
  have hcore : fieldB r 4 2 = _ := hfield 4 (j := 4) rfl rfl
  have hresume : fieldB r 8 8 = _ := hfield 8 (j := 7) rfl rfl
  have hpc : fieldB r 16 8 = _ := hfield 16 (j := 8) rfl rfl
  have hdetail : fieldB r 24 8 = _ := hfield 24 (j := 9) rfl rfl
  refine ⟨packB_lt _, hcause, by rw [hflags]; norm_num, hcore, ?_, hpc, ?_⟩
  · rw [hresume]; omega
  · rw [hdetail]; omega

/-- What a software trap does to memory and its partition: nothing with the queue off, else its record in a free slot (R305, R309). -/
theorem State.mem_softTrapped {s : State} (hwf : s.MemWf) (hroom : s.trapStalls (s.partOf s.cur) = false) {detail : Nat}
    (hd : detail < 2 ^ 64) :
    let pt := s.part (s.partOf s.cur)
    let t := s.softTrapped detail
    (pt.tqOn = false → t.mem = s.mem) ∧
    (pt.tqOn = true → ∃ i, i < 248 ∧ i ∉ pt.tqHeld ∧ (t.part (s.partOf s.cur)).tqHeld = pt.tqHeld ++ [i] ∧
      (let r := t.mem.read (pt.tqBase + 64 * i) 64
       fieldB r 0 1 = 0x16 ∧ fieldB r 1 1 % 4 = 1 ∧ fieldB r 4 2 = s.cur % 2 ^ 16 ∧ fieldB r 8 8 = (s.me.pc + 12) % 2 ^ 48 ∧
       fieldB r 16 8 = s.me.pc % 2 ^ 64 ∧ fieldB r 24 8 = detail) ∧
      ∀ a, a < pt.tqBase + 64 * i ∨ pt.tqBase + 64 * i + 64 ≤ a → t.mem.byte a = s.mem.byte a) := by
  intro pt t
  obtain ⟨-, -, -, -, hmem, hparts, -⟩ := s.softTrapped_rest detail
  have hpart : t.part = (s.recorded detail).1.part := by funext p; simp only [State.part, t, hparts]
  refine ⟨fun hoff => ?_, fun hon => ?_⟩
  · rw [hmem, State.recorded, State.postRecord_off hoff]
  · obtain ⟨i, hlt, hfree, hpost⟩ := State.postRecord_on hon hroom s.cur s.curCtx (s.softTrap detail) 0 1
    have hrec : s.recorded detail = _ := hpost
    obtain ⟨hsize, hfields⟩ := softTrap_record s detail pt.recSeq hd
    have hmem' : t.mem = s.mem.write (pt.tqBase + 64 * i) 64
        (Sys2Proof.Machine.recordOf s s.cur s.curCtx (s.softTrap detail) 0 1 (s.partOf s.cur) pt.recSeq) := by
      rw [hmem, hrec, State.mem_setPart, State.mem_devWrite]
    refine ⟨i, hlt, hfree, ?_, ?_, fun a ha => ?_⟩
    · rw [hpart, hrec, State.part_setPart_self]
    · rw [hmem', Memory.read_write _ _ _ _ hwf.1 hsize]
      exact hfields
    · rw [hmem', Memory.byte_write_of_not _ _ _ _ _ hwf.1 ha]

/-- A handler's `trapret`, with nothing of its context still to come, meets its checks. -/
theorem State.issues_softTrapped (s : State) (detail : Nat) {g : Hdr} (hphase : g.phase = .any) (hguard : g.guard = 7) (hneg : g.neg = false) :
    (s.softTrapped detail).issues g { level := 1 } = true := by
  have hg (k : Ctx) : guardTrue k g = true := by simp [guardTrue, hguard, hneg]
  have hlevel : (s.softTrapped detail).me.level = 1 := by rw [State.me_softTrapped]; rfl
  have hmid : (s.softTrapped detail).me.mid = none := by rw [State.me_softTrapped]; rfl
  simp [State.issues, hg, hlevel, hmid, hphase, phaseOk, contextOk]

theorem State.settled_softTrapped {s : State} (hset : s.settled s.cur s.curCtx = true) (detail : Nat) :
    (s.softTrapped detail).settled (s.softTrapped detail).cur (s.softTrapped detail).curCtx = true := by
  obtain ⟨hcur, hctx, -⟩ := s.softTrapped_rest detail
  have hcore := s.core_softTrapped detail s.cur
  rw [if_pos rfl] at hcore
  rw [State.settled, hcur, hctx, hcore]
  exact hset

/-- Why a context that has taken a software trap from L0 is in its handler (R306). -/
theorem State.trapcause_softTrapped {s : State} (hl : s.me.level = 0) (detail : Nat) :
    (s.softTrapped detail).me.trapcause = 0x8000000000000216#64 := by
  rw [State.me_softTrapped]
  show BitVec.ofNat 64 (trapWord s.me.level (s.softTrap detail)) = _
  rw [hl]
  simp [trapWord, State.softTrap, Trap.replays, replayable, b2n]

/-- The return from a software trap (R299). -/
theorem exec_trapret_softTrapped {s : State} (hl : s.me.level = 0) (hset : s.settled s.cur s.curCtx = true) (hun : s.me.unresolved = none) (detail : Nat)
    {g : Hdr} (hphase : g.phase = .any) (hguard : g.guard = 7) (hneg : g.neg = false) :
    let t := s.softTrapped detail
    ∃ u w : State, exec (.trapret g) t = .next u ∧ w.mem = t.mem ∧ w.banks = t.banks ∧ w.tags = t.tags ∧
      (w.part (t.partOf t.cur)).tqHeld = heldAfter t.me.trapSlot (t.part (t.partOf t.cur)).tqHeld ∧
      w.me = t.me.back (t.staged t.cur t.curCtx) ∧ u = w.land.advance g w.me.pc := by
  intro t
  refine exec_trapret (s.issues_softTrapped detail hphase hguard hneg) ?_ ?_ ?_ (State.settled_softTrapped hset detail)
  · rw [State.trapcause_softTrapped hl]; rfl
  · rw [State.me_softTrapped]; exact hun
  · rw [State.me_softTrapped]; rfl

/-- What a software trap leaves (R306, R312). -/
theorem softTrapped_effect {s : State} (hwf : s.MemWf) (hl : s.me.level = 0) (hset : s.settled s.cur s.curCtx = true) (detail : Nat) :
    let pt := s.part (s.partOf s.cur)
    let at_ := (clusterOf s.cur * 64 + 63) * 65536 + (0x2000 + 0x400 * inCluster s.cur + 0x40 * s.curCtx)
    let next := (s.me.pc + 12) % 2 ^ 48
    let t := s.softTrapped detail
    t.me.level = 1 ∧ t.me.pc = pt.trapvec ∧ t.me.live = s.me.live ∧
      t.me.trapcause = 0x8000000000000216#64 ∧ t.me.trappc = BitVec.ofNat 64 next ∧
      t.me.trapdetail = BitVec.ofNat 64 detail ∧ t.me.trapjrn = 0 ∧ RegsKept [] s.me t.me ∧
      (s.me.unresolved = none → ∀ g : Hdr, g.phase = .any → g.guard = 7 → g.neg = false →
        ∃ u : State, exec (.trapret g) t = .next u ∧ u.me.pc = next) ∧
      (∀ c, c ≠ s.cur → t.core c = s.core c) ∧
      (∀ i, i < 8 → t.banks.read (at_ + 8 * i) 8 = (s.me.s.toList.getD (24 + i) 0).toNat) ∧
      (∀ a, a < at_ ∨ at_ + 64 ≤ a → t.banks.byte a = s.banks.byte a) := by
  intro pt at_ next t
  obtain ⟨hread, hkept⟩ := State.banks_softTrapped hwf detail
  have hme : t.me = _ := s.me_softTrapped detail
  refine ⟨by rw [hme]; rfl, by rw [hme]; rfl, by rw [hme]; rfl, State.trapcause_softTrapped hl detail, by rw [hme]; rfl, by rw [hme]; rfl,
    by rw [hme]; rfl, by rw [hme]; exact s.me.kept_refl.1, fun hun g hphase hguard hneg => ?_, fun c hc => ?_, hread, hkept⟩
  · obtain ⟨u, w, hexec, -, -, -, -, hwme, hu⟩ := exec_trapret_softTrapped hl hset hun detail hphase hguard hneg
    have hpc : w.me.pc = next := by
      rw [hwme, s.me_softTrapped]
      show (BitVec.ofNat 64 next).toNat % 2 ^ 48 = next
      rw [BitVec.toNat_ofNat]
      omega
    refine ⟨u, hexec, ?_⟩
    rw [hu, hpc, State.me_advance]
    exact Nat.mod_mod _ _
  · rw [show t.core c = _ from s.core_softTrapped detail c, if_neg hc]

/-- Settles O34: the trap is taken by `trapOut_softTrap`, and its state is that of `softTrapped_effect` and `mem_softTrapped`. -/
theorem softwareTrapsEnterTheHandler : Obligations.SoftwareTrapsEnterTheHandler := by
  unfold Obligations.SoftwareTrapsEnterTheHandler
  refine ⟨?_, ?_⟩
  · intro h code s hwf hi hl hroom hset hdone pt at_ next traps
    have taken {i : Instr} {detail : Nat} (hd : detail < 2 ^ 64) (hexec : exec i s = s.trapOut (s.softTrap detail)) : traps i detail := by
      obtain ⟨hlevel, hpc, hlive, hcause, htrappc, hdetail, hjrn, hregs, hret, hcores, hread, hbanks⟩ :=
        softTrapped_effect hwf hl hset detail
      obtain ⟨hoff, hon⟩ := State.mem_softTrapped hwf hroom hd
      exact ⟨_, hexec.trans (trapOut_softTrap hl hroom hset hdone detail), hlevel, hpc, hlive, hcause, htrappc, hdetail, hjrn, hregs,
        hret, hcores, hread, hbanks, hoff, hon⟩
    have hcode := code.isLt
    refine ⟨taken (by omega) ?_, taken (by omega) ?_⟩
    · simp only [exec, execTrapi]
      rw [issue_issues h plain _ s hi]
      rfl
    · simp only [exec, execHcall]
      rw [issue_issues h plain _ s hi, if_neg (by omega)]
      rfl
  · intro h code s hi hl
    simp only [exec, execHcall]
    rw [issue_issues h plain _ s hi, if_pos hl]
    rfl

/-! ### The return from a trap (R299, R306) -/

/-- The upper registers after a return are those staged, and every other is as before. -/
theorem Ctx.rs_back (k : Ctx) (f : Nat → Word) (i : SReg) :
    (k.back f).rs i = if 24 ≤ i.toNat then f (i.toNat - 24) else k.rs i := by
  have hlt := i.isLt
  have hfold : (k.back f).s[i.toNat] = if 24 ≤ i.toNat ∧ i.toNat < 24 + 8 then f (i.toNat - 24) else k.s[i.toNat] :=
    getElem_upperFold f k.s (Nat.le_refl 8) hlt
  by_cases hi : 24 ≤ i.toNat
  · have hne : i ≠ 0 := fun e => by simp [e] at hi
    rw [Ctx.rs, if_neg hne, hfold, if_pos ⟨hi, by omega⟩, if_pos hi]
  · have hkept : (k.back f).s[i.toNat] = k.s[i.toNat] := hfold.trans (if_neg fun h => hi h.1)
    rw [if_neg hi, Ctx.rs, Ctx.rs, hkept]

theorem Ctx.regsKept_back (k : Ctx) (f : Nat → Word) : RegsKept ((List.range 8).map (fun i => Reg.s (24 + i))) k (k.back f) := by
  refine ⟨fun i hi => ?_, fun _ _ => rfl, fun _ _ => rfl⟩
  rw [Ctx.rs_back, if_neg]
  intro hup
  have hlt := i.isLt
  refine hi (List.mem_map.mpr ⟨i.toNat - 24, List.mem_range.mpr (by omega), ?_⟩)
  rw [Nat.add_sub_cancel' hup]

/-- The staged registers are the words of their line. -/
theorem State.staged_eq (s : State) (c x : Nat) {i : Nat} (hi : i < 8) :
    s.staged c x i = BitVec.ofNat 64 (s.bankRead (clusterOf c * 64 + 63) (0x2000 + 0x400 * inCluster c + 0x40 * x + 8 * i) 8) := by
  rw [State.staged, State.bankRead, State.bankRead, ← Nat.add_assoc, Memory.read_within _ _ (n := 64) (o := 8 * i) (by omega)]
  rfl

theorem RegsKept.of_advance {ws : List Reg} {k : Ctx} (w : State) (h : Hdr) (pc : Nat) (hk : RegsKept ws k w.me) :
    RegsKept ws k (w.land.advance h pc).me := by
  rw [State.me_advance, State.land, State.me_setMe]
  exact hk

/-- A slot that a record did not hold is released without another (R299). -/
theorem heldAfter_append {held : List Nat} {i : Nat} (hi : i ∉ held) : heldAfter (some i) (held ++ [i]) = held := by
  simp only [heldAfter, List.filter_append]
  rw [List.filter_eq_self.mpr]
  · simp
  · intro j hj
    rw [bne_iff_ne]
    exact fun e => hi (e ▸ hj)

theorem State.trapSlot_softTrapped {s : State} (hroom : s.trapStalls (s.partOf s.cur) = false) (detail : Nat) :
    heldAfter (s.recorded detail).2 ((s.recorded detail).1.part (s.partOf s.cur)).tqHeld = (s.part (s.partOf s.cur)).tqHeld := by
  cases hon : (s.part (s.partOf s.cur)).tqOn with
  | false => rw [State.recorded, State.postRecord_off hon]; rfl
  | true =>
    obtain ⟨i, -, hfree, hpost⟩ := State.postRecord_on hon hroom s.cur s.curCtx (s.softTrap detail) 0 1
    rw [show s.recorded detail = _ from hpost, State.part_setPart_self]
    exact heldAfter_append hfree

/-- After a software trap and its return every register of the context is as before (R299, R312). -/
theorem regsKept_softTrap_return {s : State} (hwf : s.MemWf) (detail : Nat) :
    let t := s.softTrapped detail
    RegsKept [] s.me (t.me.back (t.staged t.cur t.curCtx)) := by
  intro t
  obtain ⟨hcur, hctx, -⟩ := s.softTrapped_rest detail
  obtain ⟨hread, -⟩ := State.banks_softTrapped hwf detail
  have hme : t.me = _ := s.me_softTrapped detail
  refine ⟨fun i _ => ?_, fun i _ => by rw [hme]; rfl, fun i _ => by rw [hme]; rfl⟩
  rw [Ctx.rs_back]
  split
  next hup =>
    have hlt := i.isLt
    have hne : i ≠ 0 := fun e => by simp [e] at hup
    have hi : i.toNat - 24 < 8 := by omega
    have hword : t.banks.read ((clusterOf s.cur * 64 + 63) * 65536 + (0x2000 + 0x400 * inCluster s.cur + 0x40 * s.curCtx) +
        8 * (i.toNat - 24)) 8 = s.me.s[i.toNat].toNat := by
      refine (hread _ hi).trans ?_
      rw [show 24 + (i.toNat - 24) = i.toNat by omega]
      simp [List.getD, hlt]
    rw [show t.cur = s.cur from hcur, show t.curCtx = s.curCtx from hctx, State.staged_eq _ _ _ hi, State.bankRead, ← Nat.add_assoc]
    rw [hword, Ctx.rs, if_neg hne]
    simp
  next => rw [hme]; rfl

/-- Settles O35: the return by `exec_trapret`, with the staged registers read back by `regsKept_softTrap_return`. -/
theorem trapReturnRestores : Obligations.TrapReturnRestores := by
  unfold Obligations.TrapReturnRestores
  refine ⟨?_, ?_, ?_⟩
  · intro g s hi hcause
    simp only [exec, execTrapret]
    rw [issue_issues g _ _ s hi, if_pos (by rw [hcause]; rfl)]
    rfl
  · intro g s hi hact hun hrb hset
    obtain ⟨u, w, hexec, hmem, hbanks, htags, hheld, hme, hu⟩ := exec_trapret hi hact hun hrb hset
    have hume : u.me = _ := (congrArg State.me hu).trans (State.me_advance _ _ _)
    rw [State.land, State.me_setMe] at hume
    have hregs : RegsKept ((List.range 8).map (fun i => Reg.s (24 + i))) s.me u.me := by
      rw [hu]
      exact RegsKept.of_advance w g _ (hme ▸ s.me.regsKept_back _)
    refine ⟨u, hexec, ?_, ?_, ?_, fun i hi => ?_, hregs, ⟨fun a => ?_, fun a => ?_, ?_⟩, ?_⟩
    · rw [hume, hme]; rfl
    · rw [hume, hme]; exact Nat.mod_mod _ _
    · rw [hume, hme]
      simp [Ctx.back]
    · rw [hume, hme]
      have hreg : (BitVec.ofNat 5 (24 + i)).toNat = 24 + i := by rw [BitVec.toNat_ofNat]; omega
      have hback := s.me.rs_back (s.staged s.cur s.curCtx) (BitVec.ofNat 5 (24 + i))
      rw [hreg, if_pos (by omega), Nat.add_sub_cancel_left, State.staged_eq _ _ _ hi] at hback
      exact hback
    · rw [hu, ← hmem]; rfl
    · rw [hu, ← hbanks]; rfl
    · rw [hu, ← htags]; rfl
    · rw [hu]; exact hheld
  · intro h g code s t hwf hi hl hun hroom hset hdone hexec hphase hguard hneg
    have htrap : exec (.trapi h code) s = .next (s.softTrapped code.toNat) := by
      simp only [exec, execTrapi]
      rw [issue_issues h plain _ s hi]
      exact trapOut_softTrap hl hroom hset hdone code.toNat
    obtain rfl : s.softTrapped code.toNat = t := Host.Outcome.next.inj (htrap.symm.trans hexec)
    obtain ⟨u, w, hret, -, -, -, hheld, hme, hu⟩ := exec_trapret_softTrapped hl hset hun code.toNat hphase hguard hneg
    have hume : u.me = _ := (congrArg State.me hu).trans (State.me_advance _ _ _)
    rw [State.land, State.me_setMe] at hume
    obtain ⟨hcur, hctx, -, hclusters, -, hparts, -⟩ := s.softTrapped_rest code.toNat
    refine ⟨u, hret, ?_, ?_, ?_, ?_⟩
    · rw [hume, hme]
      show bits (s.softTrapped code.toNat).me.trapcause.toNat 11 10 = 0
      rw [State.trapcause_softTrapped hl]
      rfl
    · rw [hume, hme, State.me_softTrapped]
      show (BitVec.ofNat 64 ((s.me.pc + 12) % 2 ^ 48)).toNat % 2 ^ 48 % 2 ^ 48 = _
      rw [BitVec.toNat_ofNat]
      omega
    · rw [hu]
      exact RegsKept.of_advance w g _ (hme ▸ regsKept_softTrap_return hwf code.toNat)
    · have hpart : (s.softTrapped code.toNat).partOf (s.softTrapped code.toNat).cur = s.partOf s.cur := by
        rw [hcur, State.partOf, State.cluster, hclusters]; rfl
      have hslot : (s.softTrapped code.toNat).me.trapSlot = (s.recorded code.toNat).2 := by rw [State.me_softTrapped]; rfl
      have hheld0 : ((s.softTrapped code.toNat).part (s.partOf s.cur)).tqHeld = ((s.recorded code.toNat).1.part (s.partOf s.cur)).tqHeld := by
        rw [State.part, hparts]; rfl
      rw [hpart, hslot, hheld0, State.trapSlot_softTrapped hroom] at hheld
      rw [hu]
      exact hheld

end Sys2Proof.Machine
end

section
/-!
O36: traps that events take. A pending trap of the replayable class enters the handler as a software trap does; one of the fatal class
stops its core, whose banks freeze once its stores have drained.
-/

namespace Sys2Proof.Machine

open Sys2Proof

/-! ### What stops a core leaves the banks where they are -/

/-- Two states that differ in cores, releases and spilled messages at most, and whose banks stand at the same places. -/
structure BanksStay (s t : State) : Prop where
  rest : ∃ cores clusters releases posts, t = { s with cores := cores, clusters := clusters, releases := releases, posts := posts }
  hitch : t.hitch = s.hitch
  part : ∀ c, t.partOf c = s.partOf c

theorem BanksStay.refl (s : State) : BanksStay s s := ⟨⟨_, _, _, _, rfl⟩, rfl, fun _ => rfl⟩

theorem BanksStay.trans {s t u : State} (hst : BanksStay s t) (htu : BanksStay t u) : BanksStay s u := by
  obtain ⟨⟨_, _, _, _, rfl⟩, hh, hp⟩ := hst
  obtain ⟨⟨_, _, _, _, rfl⟩, hh', hp'⟩ := htu
  exact ⟨⟨_, _, _, _, rfl⟩, hh'.trans hh, fun c => (hp' c).trans (hp c)⟩

theorem banksStay_setCore (s : State) (c : Nat) (k : Core) : BanksStay s (s.setCore c k) := ⟨⟨_, _, _, _, rfl⟩, rfl, fun _ => rfl⟩

theorem banksStay_setCtx (s : State) (c x : Nat) (k : Ctx) : BanksStay s (s.setCtx c x k) := banksStay_setCore _ _ _

theorem banksStay_endTicket (s : State) (c x : Nat) : BanksStay s (s.endTicket c x) := by
  unfold State.endTicket
  dsimp only
  split
  · exact banksStay_setCtx _ _ _ _
  · exact ⟨⟨_, _, _, _, rfl⟩, rfl, fun _ => rfl⟩

theorem banksStay_freeTraps (s : State) (c x : Nat) : BanksStay s (s.freeTraps c x) := banksStay_setCore _ _ _

theorem State.cluster_setCluster (s : State) (r q : Nat) (k : Cluster) :
    (s.setCluster r k).cluster q = if q = r then k else s.cluster q := by
  split
  next h => subst h; exact Tab.getD_put_self _ _ _ _
  next h => exact Tab.getD_put_ne _ _ _ _ _ h

theorem banksStay_endProducer (s : State) (r : Nat) : BanksStay s (s.endProducer r) := by
  unfold State.endProducer
  dsimp only
  split
  · exact BanksStay.refl s
  · refine ⟨⟨_, _, _, _, rfl⟩, funext fun pkg => ?_, fun c => ?_⟩
    · simp only [State.hitch, State.cluster_setCluster]
      split
      next h => rw [h]
      next => rfl
    · simp only [State.partOf, State.cluster_setCluster]
      split
      next h => rw [h]
      next => rfl

theorem banksStay_reosOf (s : State) (c : Nat) : BanksStay s (s.reosOf c) := by
  unfold State.reosOf
  dsimp only
  split
  · exact BanksStay.refl s
  · split
    · exact BanksStay.refl s
    · exact (banksStay_setCore _ _ _).trans (banksStay_endProducer _ _)

theorem banksStay_endOut (s : State) (c : Nat) (u : Nat × Nat) : BanksStay s (s.endOut c u) := ⟨⟨_, _, _, _, rfl⟩, rfl, fun _ => rfl⟩

/-! ### A core that stops (R230, R307) -/

/-- One context of a core stops. -/
def State.stopCtx (s : State) (c x : Nat) : State :=
  ((s.endTicket c x).freeTraps c x).setCtx c x { ((s.endTicket c x).freeTraps c x).ctx c x with
    live := false, wait := .none, traps := [], irqs := [], unresolved := none
    q := .replicate 4 [], stall := 0, stopReq := false, mid := none }

theorem banksStay_stopCtx (s : State) (c x : Nat) : BanksStay s (s.stopCtx c x) :=
  ((banksStay_endTicket s c x).trans (banksStay_freeTraps _ c x)).trans (banksStay_setCtx _ _ _ _)

/-- A context that is not live stays so, whichever context of the core stops. -/
theorem live_stopCtx {s : State} {c y : Nat} (x : Nat) (hy : (s.ctx c y).live = false) : ((s.stopCtx c x).ctx c y).live = false := by
  by_cases hxy : y = x
  · subst hxy; rw [State.stopCtx, State.ctx_setCtx_self]
  · rw [State.stopCtx, State.ctx_setCtx_ne _ _ _ _ _ hxy, State.freeTraps, State.ctx, State.core_setCore_self]
    show ((s.endTicket c x).ctx c y).live = false
    unfold State.endTicket
    dsimp only
    split
    · rwa [State.ctx_setCtx_ne _ _ _ _ _ hxy]
    · show (((s.setCtx c x _).ctx c y)).live = false
      rwa [State.ctx_setCtx_ne _ _ _ _ _ hxy]

theorem live_stopCtx_self (s : State) (c x : Nat) : ((s.stopCtx c x).ctx c x).live = false := by
  rw [State.stopCtx, State.ctx_setCtx_self]

/-- What is kept for each element, and made by one, holds at the end. -/
theorem State.each_makes {α : Type} {P Q : State → Prop} {f : State → α → State} {a : α} (hP : ∀ s x, P s → P (f s x))
    (hmake : ∀ s, P s → Q (f s a)) (hQ : ∀ s x, Q s → Q (f s x)) {s : State} (hs : P s) {xs : List α} (ha : a ∈ xs) : Q (s.each xs f) := by
  induction xs generalizing s with
  | nil => cases ha
  | cons x xs ih =>
    rcases List.mem_cons.mp ha with rfl | ha
    · exact State.each_ind hQ (hmake s hs) xs
    · exact ih (hP s x hs) ha

/-- The contexts of a core stopped. -/
def State.stopCtxs (s : State) (c : Nat) : State := s.each (Tab.keys (s.core c).ctxs) (fun s x => s.stopCtx c x)

theorem Tab.get?_of_not_mem_keys {α : Type} {t : Tab α} {k : Nat} (hk : k ∉ Tab.keys t) : Tab.get? t k = none := by
  induction t with
  | nil => rfl
  | cons e t ih =>
    obtain ⟨j, a⟩ := e
    rw [Tab.keys, List.map_cons, List.mem_cons, not_or] at hk
    rw [Tab.get?, if_neg (fun h => hk.1 h.symm)]
    exact ih hk.2

theorem live_stopCtxs (s : State) (c y : Nat) : ((s.stopCtxs c).ctx c y).live = false := by
  by_cases hy : y ∈ Tab.keys (s.core c).ctxs
  · exact State.each_makes (P := fun _ => True) (Q := fun t => (t.ctx c y).live = false) (fun _ _ _ => trivial)
      (fun t _ => live_stopCtx_self t c y) (fun t x ht => live_stopCtx x ht) trivial hy
  · refine State.each_ind (P := fun t => (t.ctx c y).live = false) (fun t x ht => live_stopCtx x ht) ?_ _
    rw [State.ctx, Tab.getD, Tab.get?_of_not_mem_keys hy]
    rfl

theorem banksStay_stopCtxs (s : State) (c : Nat) : BanksStay s (s.stopCtxs c) :=
  State.each_ind (P := BanksStay s) (fun t x ht => ht.trans (banksStay_stopCtx t c x)) (BanksStay.refl s) _

/-- A core that stops: its contexts, its output ring, its commands. -/
theorem State.stopCore_eq (s : State) (c : Nat) (fatal : Bool) : ∃ k : Core, s.stopCore c fatal = (((s.stopCtxs c).reosOf c).setCore c k) ∧
    k.ctxs = (((s.stopCtxs c).reosOf c).core c).ctxs := ⟨_, rfl, rfl⟩

theorem ctxs_reosOf (s : State) (c : Nat) : ((s.reosOf c).core c).ctxs = (s.core c).ctxs := by
  unfold State.reosOf
  dsimp only
  split
  · rfl
  · split
    · rfl
    · next r _ _ =>
      have hcores (t : State) (r : Nat) : (t.endProducer r).core c = t.core c := by
        unfold State.endProducer; dsimp only; split <;> rfl
      rw [hcores, State.core_setCore_self]

theorem banksStay_stopCore (s : State) (c : Nat) (fatal : Bool) : BanksStay s (s.stopCore c fatal) :=
  ((banksStay_stopCtxs s c).trans (banksStay_reosOf _ c)).trans (banksStay_setCore _ _ _)

theorem live_stopCore (s : State) (c : Nat) (fatal : Bool) (y : Nat) : ((s.stopCore c fatal).ctx c y).live = false := by
  obtain ⟨k, hs, hk⟩ := s.stopCore_eq c fatal
  rw [hs, State.ctx, State.core_setCore_self, hk, ctxs_reosOf]
  exact live_stopCtxs s c y

/-! ### Banks that freeze (R166) -/

theorem State.hitch_setHitch (s : State) (p q : Nat) (h : Hitch) : (s.setHitch p h).hitch q = if q = p then h else s.hitch q := by
  simp only [State.setHitch, State.hitch, State.cluster_setCluster]
  by_cases hr : q / 64 = p / 64
  · rw [if_pos hr]
    by_cases hq : q = p
    · rw [if_pos hq, hq]
      exact Tab.getD_put_self _ _ _ _
    · rw [if_neg hq, hr]
      exact Tab.getD_put_ne _ _ _ _ _ fun hm => hq (by omega)
  · rw [if_neg hr, if_neg fun hq => hr (by rw [hq])]

theorem Tab.mem_of_get? {α : Type} {t : Tab α} {k : Nat} {a : α} (h : Tab.get? t k = some a) : (k, a) ∈ t := by
  induction t with
  | nil => cases h
  | cons e t ih =>
    obtain ⟨j, b⟩ := e
    rw [Tab.get?] at h
    split at h
    next hj => cases h; subst hj; exact List.mem_cons_self
    next => exact List.mem_cons_of_mem _ (ih h)

/-- A bank that is not Free is one of those that the clusters list. -/
theorem State.mem_liveBanks {s : State} {b : Nat} (hb : (s.hitch b).st ≠ .free) : b ∈ s.liveBanks := by
  have hreset : (Hitch.reset).st = .free := rfl
  cases hc : Tab.get? s.clusters (b / 64) with
  | none =>
    refine absurd ?_ hb
    have hk : s.cluster (b / 64) = Cluster.reset (b / 64) := by rw [State.cluster, Tab.getD, hc]; rfl
    rw [State.hitch, hk]
    exact hreset
  | some k =>
    have hk : s.cluster (b / 64) = k := by rw [State.cluster, Tab.getD, hc]; rfl
    cases hh : Tab.get? k.hitch (b % 64) with
    | none =>
      refine absurd ?_ hb
      rw [State.hitch, hk, Tab.getD, hh]
      exact hreset
    | some h =>
      have hst : h.st ≠ .free := by rwa [State.hitch, hk, Tab.getD, hh] at hb
      refine List.mem_flatMap.mpr ⟨_, Tab.mem_of_get? hc, List.mem_map.mpr ⟨(b % 64, h), List.mem_filter.mpr ⟨Tab.mem_of_get? hh, ?_⟩, ?_⟩⟩
      · simpa [bne_iff_ne] using hst
      · show b / 64 * 64 + b % 64 = b
        omega

/-- What becomes of one bank where a core freezes its banks. -/
def State.freezeBank (s : State) (c pkg : Nat) : State :=
  let h := s.hitch pkg
  if h.st == .hitched && h.holder == c then
    let s := s.setHitch pkg { h with st := .frozen }
    if s.slotBank c h.slot == some pkg then s.setCore c { s.core c with frozen := insertSet h.slot (s.core c).frozen } else s
  else if h.st == .draining && h.holder == c then s.setHitch pkg { h with doomed := true }
  else if h.st == .transit && h.target == c then s.giveBack pkg
  else s

/-- Two states that differ in clusters and in the frozen slots of a core at most. -/
def OnlyFreezes (c : Nat) (s t : State) : Prop :=
  ∃ cores clusters fz, t = { s with cores := cores, clusters := clusters } ∧ t.core c = { s.core c with frozen := fz }

theorem OnlyFreezes.refl (c : Nat) (s : State) : OnlyFreezes c s s := ⟨_, _, _, rfl, rfl⟩

theorem OnlyFreezes.trans {c : Nat} {s t u : State} (hst : OnlyFreezes c s t) (htu : OnlyFreezes c t u) : OnlyFreezes c s u := by
  obtain ⟨_, _, _, rfl, hk⟩ := hst
  obtain ⟨_, _, _, rfl, hk'⟩ := htu
  exact ⟨_, _, _, rfl, hk'.trans (by rw [hk])⟩

theorem onlyFreezes_setHitch (c : Nat) (s : State) (pkg : Nat) (h : Hitch) : OnlyFreezes c s (s.setHitch pkg h) := ⟨_, _, _, rfl, rfl⟩

theorem onlyFreezes_freezeBank (c : Nat) (s : State) (pkg : Nat) : OnlyFreezes c s (s.freezeBank c pkg) := by
  unfold State.freezeBank
  dsimp only
  split
  · split
    · exact (onlyFreezes_setHitch c s _ _).trans ⟨_, _, _, rfl, State.core_setCore_self _ _ _⟩
    · exact onlyFreezes_setHitch c s _ _
  · split
    · exact onlyFreezes_setHitch c s _ _
    · split
      · exact onlyFreezes_setHitch c s _ _
      · exact OnlyFreezes.refl c s

/-- A bank hitched to the core, or frozen, is so or frozen behind another one's turn, and frozen behind its own. -/
theorem freezeBank_hitch {c b : Nat} {s : State}
    (hb : (s.hitch b).st = .hitched ∧ (s.hitch b).holder = c ∨ (s.hitch b).st = .frozen) (pkg : Nat) :
    ((s.freezeBank c pkg).hitch b).st = .frozen ∨ pkg ≠ b ∧ (s.freezeBank c pkg).hitch b = s.hitch b := by
  have hcore (t : State) (k : Core) : (t.setCore c k).hitch = t.hitch := rfl
  by_cases hpb : pkg = b
  · subst hpb
    left
    unfold State.freezeBank
    dsimp only
    rcases hb with ⟨hst, hholder⟩ | hst
    · rw [if_pos (by simp [hst, hholder])]
      split
      · rw [hcore, State.hitch_setHitch, if_pos rfl]
      · rw [State.hitch_setHitch, if_pos rfl]
    · rw [if_neg (by simp [hst]), if_neg (by simp [hst]), if_neg (by simp [hst])]
      exact hst
  · right
    refine ⟨hpb, ?_⟩
    have hne : b ≠ pkg := fun e => hpb e.symm
    unfold State.freezeBank
    dsimp only
    split
    · split
      · rw [hcore, State.hitch_setHitch, if_neg hne]
      · rw [State.hitch_setHitch, if_neg hne]
    · split
      · rw [State.hitch_setHitch, if_neg hne]
      · split
        · rw [State.giveBack, State.hitch_setHitch, if_neg hne]
        · rfl

theorem onlyFreezes_freezeBanks (s : State) (c : Nat) : OnlyFreezes c s (s.freezeBanks c) :=
  State.each_ind (P := OnlyFreezes c s) (fun t pkg ht => ht.trans (onlyFreezes_freezeBank c t pkg)) (OnlyFreezes.refl c s) _

/-- Every bank hitched to the core is frozen then. -/
theorem freezeBanks_hitch {s : State} {c b : Nat} (hst : (s.hitch b).st = .hitched) (hholder : (s.hitch b).holder = c) :
    ((s.freezeBanks c).hitch b).st = .frozen := by
  refine State.each_makes (f := fun t pkg => t.freezeBank c pkg)
    (P := fun t => (t.hitch b).st = .hitched ∧ (t.hitch b).holder = c ∨ (t.hitch b).st = .frozen)
    (Q := fun t => (t.hitch b).st = .frozen) (a := b) (fun t pkg ht => ?_) (fun t ht => ?_) (fun t pkg ht => ?_) (.inl ⟨hst, hholder⟩)
    (State.mem_liveBanks (by rw [hst]; decide))
  · rcases freezeBank_hitch ht pkg with h | ⟨-, h⟩
    · exact .inr h
    · rwa [h]
  · rcases freezeBank_hitch ht b with h | ⟨h, -⟩
    · exact h
    · exact absurd rfl h
  · rcases freezeBank_hitch (.inr ht) pkg with h | ⟨-, h⟩
    · exact h
    · rwa [h]

/-! ### A fatal trap (R307, R309) -/

/-- The state in which a core has stopped for good, before its banks freeze. -/
def State.felled (s : State) (c : Nat) : State :=
  let s := s.stopCore c true
  let s := match (s.core c).unit with
    | some u => s.endOut c u
    | none => s
  s.setCore c { s.core c with dead := true, draining := true, unit := none, frame := none }

theorem State.fatalCore_eq (s : State) (c : Nat) : s.fatalCore c = (s.felled c).freezeNow c := rfl

theorem banksStay_felled (s : State) (c : Nat) : BanksStay s (s.felled c) := by
  unfold State.felled
  dsimp only
  refine ((banksStay_stopCore s c true).trans ?_).trans (banksStay_setCore _ c _)
  split
  · exact banksStay_endOut _ c _
  · exact BanksStay.refl _

theorem ctxs_endOut (s : State) (c : Nat) (u : Nat × Nat) : ((s.endOut c u).core c).ctxs = (s.core c).ctxs := by
  show (Tab.getD (Tab.put s.cores c _) c Core.reset).ctxs = _
  rw [Tab.getD_put_self]

theorem core_felled (s : State) (c : Nat) : ((s.felled c).core c).dead = true ∧ ((s.felled c).core c).draining = true ∧
    ((s.felled c).core c).unit = none ∧ ∀ y, ((s.felled c).ctx c y).live = false := by
  have hctxs : ((s.felled c).core c).ctxs = ((s.stopCore c true).core c).ctxs := by
    unfold State.felled
    dsimp only
    rw [State.core_setCore_self]
    split
    · exact ctxs_endOut _ c _
    · rfl
  refine ⟨?_, ?_, ?_, fun y => ?_⟩
  · exact congrArg Core.dead (State.core_setCore_self _ c _)
  · exact congrArg Core.draining (State.core_setCore_self _ c _)
  · exact congrArg Core.unit (State.core_setCore_self _ c _)
  · rw [State.ctx, hctxs]
    exact live_stopCore s c true y

/-- What a core holds once it has stopped for good, and its banks (R166, R307). -/
theorem fatalCore_effect (s : State) (c : Nat) :
    let t := s.fatalCore c
    (∃ cores clusters releases posts, t = { s with cores := cores, clusters := clusters, releases := releases, posts := posts }) ∧
    (t.core c).dead = true ∧ (t.core c).unit = none ∧ (∀ y, (t.ctx c y).live = false) ∧
    (s.net = [] → s.xnet = [] → (t.core c).draining = false ∧
      ∀ b, (s.hitch b).st = .hitched → (s.hitch b).holder = c → (t.hitch b).st = .frozen) ∧
    ((∃ a ∈ s.net, a.core = c) → (t.core c).draining = true ∧ ∀ b, t.hitch b = s.hitch b) := by
  intro t
  obtain ⟨hdead, hdrain, hunit, hlive⟩ := core_felled s c
  obtain ⟨⟨cores, clusters, releases, posts, hv⟩, hhitch, -⟩ := banksStay_felled s c
  have ht : t = (s.felled c).freezeNow c := s.fatalCore_eq c
  rw [State.freezeNow, hdrain, Bool.true_and] at ht
  cases hout : (s.felled c).drainedOut c with
  | true =>
    rw [if_pos hout] at ht
    obtain ⟨cores', clusters', fz, hrest, hcore⟩ := onlyFreezes_freezeBanks ((s.felled c).setCore c { (s.felled c).core c with draining := false }) c
    rw [State.core_setCore_self, ← ht] at hcore
    have hctx (y : Nat) : t.ctx c y = (s.felled c).ctx c y := by rw [State.ctx, hcore]; rfl
    refine ⟨⟨cores', clusters', releases, posts, ?_⟩, by rw [hcore]; exact hdead, by rw [hcore]; exact hunit,
      fun y => by rw [hctx]; exact hlive y, fun _ _ => ⟨by rw [hcore], fun b hst hholder => ?_⟩, ?_⟩
    · rw [ht, hrest, hv]; rfl
    · rw [ht]
      rw [← hhitch] at hst hholder
      exact freezeBanks_hitch (s := (s.felled c).setCore c { (s.felled c).core c with draining := false }) hst hholder
    · rintro ⟨a, ha, hac⟩
      have hnet : (s.felled c).net = s.net := by rw [hv]
      rw [State.drainedOut, hnet, Bool.and_eq_true, List.all_eq_true] at hout
      have hne := hout.1 a ha
      rw [hac] at hne
      simp at hne
  | false =>
    rw [if_neg (by rw [hout]; exact Bool.false_ne_true)] at ht
    refine ⟨⟨cores, clusters, releases, posts, ht.trans hv⟩, ht ▸ hdead, ht ▸ hunit, ht ▸ hlive, fun hnet hxnet => ?_,
      fun _ => ⟨ht ▸ hdrain, fun b => ht ▸ congrFun hhitch b⟩⟩
    have hempty : (s.felled c).drainedOut c = true := by rw [hv]; simp [State.drainedOut, hnet, hxnet]
    rw [hempty] at hout
    cases hout

/-- A fatal trap of a core that runs no launch, with a slot of the reserve free (R307, R309). -/
theorem fatalTrap_effect {s : State} {c x i : Nat} (t : Trap) (hhalt : (s.part (s.partOf c)).halted = false)
    (hon : (s.part (s.partOf c)).tqOn = true) (hno : s.launchOf c = none)
    (hslot : freeSlot ((s.part (s.partOf c)).tqHeld ++ (s.part (s.partOf c)).tqFatal) 248 8 = some i) :
    ∃ v : State, s.fatalTrap c x t false = v.fatalCore c ∧ v.net = s.net ∧ v.xnet = s.xnet ∧ v.hitch = s.hitch ∧
      (v.part (s.partOf c)).tqFatal = (s.part (s.partOf c)).tqFatal ++ [i] := by
  let flags := b2n t.async * 2 + 4 + b2n false * 8 + b2n (((s.launchOf c).map (·.noRoll)).getD false) * 32
  let v := s.postFatal (s.partOf c) c x t (s.ctx c x).level flags
  have hv : v = (s.devWrite ((s.part (s.partOf c)).tqBase + 64 * i) 64
        (Sys2Proof.Machine.recordOf s c x t (s.ctx c x).level flags (s.partOf c) (s.part (s.partOf c)).recSeq)).setPart (s.partOf c)
      { s.part (s.partOf c) with
        tqFatal := (s.part (s.partOf c)).tqFatal ++ [i], recSeq := ((s.part (s.partOf c)).recSeq + 1) % 2 ^ 32 } := by
    simp only [v, State.postFatal, hhalt, hon, hslot, Bool.false_eq_true, if_false, if_true]
  obtain ⟨bad, hub, hw⟩ := s.devWrite_rest ((s.part (s.partOf c)).tqBase + 64 * i) 64
    (Sys2Proof.Machine.recordOf s c x t (s.ctx c x).level flags (s.partOf c) (s.part (s.partOf c)).recSeq)
  rw [hw] at hv
  generalize s.mem.write _ _ _ = mem at hv
  refine ⟨v, ?_, by rw [hv]; rfl, by rw [hv]; rfl, by rw [hv]; rfl, by rw [hv, State.part_setPart_self]⟩
  have hlaunch : v.launchOf c = none := by rw [hv]; exact hno
  have hunits (u : Nat × Nat) : (v.fatalCore c).launch? u = v.launch? u := by
    obtain ⟨⟨_, _, _, _, hrest⟩, -⟩ := fatalCore_effect v c
    rw [State.launch?, hrest]
    rfl
  show (match (v.core c).unit with | some u => (v.fatalCore c).endLaunch u 3 | none => v.fatalCore c) = v.fatalCore c
  cases hu : (v.core c).unit with
  | none => rfl
  | some u =>
    have hnone : v.launch? u = none := by rw [State.launchOf, hu] at hlaunch; exact hlaunch
    simp only [State.endLaunch, hunits, hnone]

/-! ### Pending traps (R303) -/

/-- The state in which a pending trap has been taken off its context. -/
def State.unpended (s : State) (c x : Nat) (t : Trap) (r : List Trap) : State :=
  (s.setCtx c x { s.ctx c x with traps := r, wait := .none }).freeJournal c t.jrn

theorem State.takePending_eq {s : State} {c x : Nat} {t : Trap} {r : List Trap} (ht : (s.ctx c x).traps = t :: r)
    (hb : (s.ctx c x).atBoundary = true) :
    s.takePending c x = (s.unpended c x t r).takeTrap c x { t with resume := (s.ctx c x).pc } := by
  unfold State.takePending
  simp only [ht, hb, Bool.not_true, Bool.false_eq_true, if_false]
  rfl

theorem unpended_effect (s : State) (c x : Nat) (t : Trap) (r : List Trap) :
    (∃ cores, s.unpended c x t r = { s with cores := cores }) ∧
    (s.unpended c x t r).ctx c x = { s.ctx c x with traps := r, wait := .none } ∧
    (∃ ctxs jrn, (s.unpended c x t r).core c = { s.core c with ctxs := ctxs, journal := jrn } ∧ ∀ e, t.jrn = some e → e ∉ jrn) := by
  unfold State.unpended State.freeJournal
  cases hj : t.jrn with
  | none => exact ⟨⟨_, rfl⟩, State.ctx_setCtx_self _ _ _ _, _, _, State.core_setCtx_self _ _ _ _, fun e he => by cases he⟩
  | some j =>
    refine ⟨⟨_, rfl⟩, ?_, Tab.put (s.core c).ctxs x { s.ctx c x with traps := r, wait := .none }, (s.core c).journal.filter (· != j), ?_,
      fun e he hmem => ?_⟩
    · rw [State.ctx, State.core_setCore_self]
      exact State.ctx_setCtx_self s c x _
    · dsimp only
      rw [State.core_setCore_self, State.core_setCtx_self]
    · cases he
      simp at hmem

/-- Whether a trap can be taken does not depend on the traps that a context has pending. -/
theorem unpended_waits (s : State) (c x : Nat) (t : Trap) (r : List Trap) :
    (s.unpended c x t r).storesDone c x = s.storesDone c x ∧ (s.unpended c x t r).settled c x = s.settled c x ∧
      (s.unpended c x t r).launchOf c = s.launchOf c ∧ (s.unpended c x t r).partOf = s.partOf ∧ (s.unpended c x t r).part = s.part ∧
      (s.unpended c x t r).trapStalls = s.trapStalls := by
  obtain ⟨⟨cores, hs⟩, hctx, ctxs, jrn, hcore, -⟩ := unpended_effect s c x t r
  refine ⟨?_, ?_, ?_, by rw [hs]; rfl, by rw [hs]; rfl, by rw [hs]; rfl⟩
  · rw [State.storesDone, hctx, hs]; rfl
  · rw [State.settled, hcore]; rfl
  · rw [State.launchOf, hcore, hs]; rfl

/-- The word of a trap that a replayable one leaves, read by its bits (R306). -/
theorem trapWord_bits {cause : Nat} (hcause : cause < 256) (async : Bool) :
    let w := BitVec.ofNat 64 (2 ^ 63 + 2 ^ 9 + b2n async * 2 ^ 8 + cause)
    bits w.toNat 7 0 = cause ∧ w.getLsbD 8 = async ∧ w.getLsbD 9 = true ∧ w.getLsbD 63 = true := by
  intro w
  have hbit (k : Nat) (hk : k < 64) : w.getLsbD k = decide ((2 ^ 63 + 2 ^ 9 + b2n async * 2 ^ 8 + cause) / 2 ^ k % 2 = 1) := by
    rw [BitVec.getLsbD_ofNat, Nat.testBit_eq_decide_div_mod_eq]
    simp [hk]
  obtain ⟨h0, h1⟩ : (async = false → b2n async = 0) ∧ (async = true → b2n async = 1) := by cases async <;> exact ⟨by decide, by decide⟩
  have hle : b2n async ≤ 1 := by cases async <;> decide
  have hlow : w.toNat = 2 ^ 63 + 2 ^ 9 + b2n async * 2 ^ 8 + cause := by
    rw [BitVec.toNat_ofNat]
    omega
  refine ⟨?_, ?_, ?_, ?_⟩
  · rw [hlow, bits]
    omega
  · rw [hbit 8 (by norm_num)]
    cases hasync : async
    · rw [decide_eq_false_iff_not, ← hasync, h0 hasync]; omega
    · rw [decide_eq_true_eq, ← hasync, h1 hasync]; omega
  · rw [hbit 9 (by norm_num), decide_eq_true_eq]
    omega
  · rw [hbit 63 (by norm_num), decide_eq_true_eq]
    omega

/-- A pending trap of the replayable class enters the handler (R303, R306). -/
theorem trapEntry_effect {s : State} {c x : Nat} {tr : Trap} {r : List Trap} (ht : (s.ctx c x).traps = tr :: r)
    (hb : (s.ctx c x).atBoundary = true) (hl : (s.ctx c x).level = 0) (hdone : s.storesDone c x = true) (hr : tr.replays = true)
    (hcause : tr.cause < 256) (hroom : s.trapStalls (s.partOf c) = false) (hset : s.settled c x = true) :
    ∃ t : State, exec (.trapEntry c x) s = .next t ∧ (t.ctx c x).level = 1 ∧ (t.ctx c x).traps = r ∧
      (t.ctx c x).pc = (s.part (s.partOf c)).trapvec ∧ (t.ctx c x).trappc = BitVec.ofNat 64 (s.ctx c x).pc ∧
      bits (t.ctx c x).trapcause.toNat 7 0 = tr.cause ∧ (t.ctx c x).trapcause.getLsbD 8 = tr.async ∧
      (t.ctx c x).trapcause.getLsbD 9 = true ∧ (t.ctx c x).trapcause.getLsbD 63 = true ∧
      (∀ e, tr.jrn = some e → e ∉ (t.core c).journal) := by
  let u := s.unpended c x tr r
  let tr' : Trap := { tr with resume := (s.ctx c x).pc }
  obtain ⟨⟨cores, hs⟩, hctx, ctxs, jrn, hcore, hfree⟩ := unpended_effect s c x tr r
  obtain ⟨hdone', hset', -, hpartOf, hpart, hstalls⟩ := unpended_waits s c x tr r
  let q := u.postRecord (u.partOf c) c x tr' 0 (1 + b2n tr'.async * 2)
  have htake : u.takeTrap c x tr' = some (q.1.enterHandler c x tr' q.2 false) :=
    State.takeTrap_replayable (by rw [hctx]; exact hl) (hdone'.trans hdone) hr (by rw [hstalls, hpartOf]; exact hroom) (hset'.trans hset)
  obtain ⟨mem, bad, hub, parts, hq⟩ := u.postRecord_rest (u.partOf c) c x tr' 0 (1 + b2n tr'.async * 2)
  have hqctx : q.1.ctx c x = u.ctx c x := by rw [show q.1 = _ from hq]; rfl
  have hvec : (q.1.part (q.1.partOf c)).trapvec = (s.part (s.partOf c)).trapvec := by
    have hp : q.1.partOf c = u.partOf c := by rw [show q.1 = _ from hq]; rfl
    rw [hp, State.trapvec_postRecord, hpartOf, hpart]
  have hword : trapWord (s.ctx c x).level tr' = 2 ^ 63 + 2 ^ 9 + b2n tr.async * 2 ^ 8 + tr.cause := by
    rw [hl, trapWord, show tr'.replays = true from hr]
    simp [b2n, tr']
  obtain ⟨hb0, hb8, hb9, hb63⟩ := trapWord_bits hcause tr.async
  rw [← hword] at hb0 hb8 hb9 hb63
  have ht' : (q.1.enterHandler c x tr' q.2 false).ctx c x = ({ s.ctx c x with traps := r, wait := .none } : Ctx).inHandler tr' q.2 false
      (s.part (s.partOf c)).trapvec := by
    rw [State.enterHandler_eq, State.ctx_setCtx_self, hqctx, hctx, hvec]
  refine ⟨_, ?_, by rw [ht']; rfl, by rw [ht']; rfl, by rw [ht']; rfl, by rw [ht']; rfl, ?_, ?_, ?_, ?_, fun e he => ?_⟩
  · have hhead : (s.ctx c x).headReplayable = true := by simp only [Ctx.headReplayable, ht, hr]
    simp only [exec, execTrapEntry, hhead, if_true]
    rw [State.takePending_eq ht hb, show (s.unpended c x tr r).takeTrap c x _ = _ from htake]
    rfl
  · rw [ht']; exact hb0
  · rw [ht']; exact hb8
  · rw [ht']; exact hb9
  · rw [ht']; exact hb63
  · have hqcore : q.1.core c = u.core c := by rw [show q.1 = _ from hq]; rfl
    rw [State.enterHandler_eq, State.core_setCtx_self, State.core_bankRaw, hqcore, hcore]
    exact hfree e he

/-- A pending trap of the fatal class that meets no launch stops its core (R303, R307, R309). -/
theorem exec_fatalTrap_eq {s : State} {c x : Nat} {tr : Trap} {r : List Trap} (ht : (s.ctx c x).traps = tr :: r)
    (hb : (s.ctx c x).atBoundary = true) (hl : (s.ctx c x).level = 0) (hdone : s.storesDone c x = true) (hr : tr.replays = false)
    (hno : s.launchOf c = none) :
    exec (.fatalTrap c x) s = .next ((s.unpended c x tr r).fatalTrap c x { tr with resume := (s.ctx c x).pc } false) := by
  obtain ⟨-, hctx, -⟩ := unpended_effect s c x tr r
  obtain ⟨hdone', -, hno', -⟩ := unpended_waits s c x tr r
  have hhead : (s.ctx c x).headReplayable = false := by simp only [Ctx.headReplayable, ht, hr]
  have htake : (s.unpended c x tr r).takeTrap c x { tr with resume := (s.ctx c x).pc } =
      some ((s.unpended c x tr r).fatalTrap c x { tr with resume := (s.ctx c x).pc } false) := by
    have hl' : ((s.unpended c x tr r).ctx c x).level = 0 := by rw [hctx]; exact hl
    have hr' : ({ tr with resume := (s.ctx c x).pc } : Trap).replays = false := hr
    simp [State.takeTrap, hl', hdone'.trans hdone, hr', hno'.trans hno]
  simp only [exec, execFatalTrap, hhead, Bool.false_eq_true, if_false]
  rw [State.takePending_eq ht hb, htake]
  rfl

/-- Below L2 no pending trap is taken before the context's posted stores are done (R309). -/
theorem takePending_waits {s : State} {c x : Nat} (hl : (s.ctx c x).level < 2) (hdone : s.storesDone c x = false) :
    (s.takePending c x).getD s = s := by
  cases ht : (s.ctx c x).traps with
  | nil => simp [State.takePending, ht]
  | cons tr r =>
    cases hb : (s.ctx c x).atBoundary with
    | false => simp [State.takePending, ht, hb]
    | true =>
      obtain ⟨-, hctx, -⟩ := unpended_effect s c x tr r
      obtain ⟨hdone', -⟩ := unpended_waits s c x tr r
      have hl' : ¬ 2 ≤ ((s.unpended c x tr r).ctx c x).level := by rw [hctx]; exact Nat.not_le.mpr hl
      rw [State.takePending_eq ht hb]
      simp [State.takeTrap, hl', hdone'.trans hdone]

/-- Settles O36: the entry of a replayable trap, the stop of a core, and what waits for the stores. -/
theorem trapsFromEvents : Obligations.TrapsFromEvents := by
  unfold Obligations.TrapsFromEvents
  refine ⟨fun s => ⟨⟨_, trapOut_next s _⟩, fun w t hmid hf hd => ?_, rfl⟩, fun c x s tr r ht hb hl hdone => ⟨?_, ?_⟩, fun c x s hl hdone => ?_,
    fun c x s h0 hle => ?_⟩
  · simp only [State.turn, hmid, Option.bind_none, hf, hd]
    rfl
  · intro hr hcause hroom hset
    exact trapEntry_effect ht hb hl hdone hr hcause hroom hset
  · intro pt i hr hno hhalt hon hslot
    obtain ⟨⟨cores, hs⟩, -⟩ := unpended_effect s c x tr r
    obtain ⟨-, -, hno', hpartOf, hpart, -⟩ := unpended_waits s c x tr r
    obtain ⟨v, hv, hnet, hxnet, hhitch, hfatal⟩ := fatalTrap_effect (s := s.unpended c x tr r) (x := x) (i := i)
      { tr with resume := (s.ctx c x).pc } (by rw [hpartOf, hpart]; exact hhalt) (by rw [hpartOf, hpart]; exact hon)
      (hno'.trans hno) (by rw [hpartOf, hpart]; exact hslot)
    rw [hpartOf, hpart] at hfatal
    have hunet : (s.unpended c x tr r).net = s.net ∧ (s.unpended c x tr r).xnet = s.xnet ∧ (s.unpended c x tr r).hitch = s.hitch := by
      rw [hs]; exact ⟨rfl, rfl, rfl⟩
    obtain ⟨⟨_, _, _, _, hrest⟩, hdead, hunit, hlive, hdrained, hdraining⟩ := fatalCore_effect v c
    rw [hnet, hxnet, hhitch, hunet.1, hunet.2.1, hunet.2.2] at hdrained
    rw [hnet, hhitch, hunet.1, hunet.2.2] at hdraining
    refine ⟨v.fatalCore c, (exec_fatalTrap_eq ht hb hl hdone hr hno).trans (congrArg Host.Outcome.next hv), ?_, hdead, hunit, hlive,
      hdrained, hdraining⟩
    rw [hrest]
    exact hfatal
  · simp only [exec, execTrapEntry, execFatalTrap, takePending_waits hl hdone, ite_self]
    exact ⟨trivial, trivial⟩
  · simp only [exec, execStallExpiry]
    rw [event_next, if_pos (by simp [h0, hle])]

end Sys2Proof.Machine
end

section
/-!
O37: contexts and units start and end. What a unit boundary does to the banks of its core is said bank by bank, and slot by slot.
-/

namespace Sys2Proof.Machine

open Sys2Proof

/-! ### A unit boundary (R167, R228) -/

/-- What a unit boundary does to one bank; kept are those that stay. -/
def State.boundBank (s : State) (c : Nat) (kept : List Nat) (pkg : Nat) : State :=
  let h := s.hitch pkg
  if h.st == .hitched && h.holder == c && !kept.contains pkg then s.freeBank pkg
  else if h.st == .transit && h.target == c && !s.awayFrom h.dest c then s.giveBack pkg
  else if h.st == .returning && h.holder == c && !s.awayFrom h.owner c then (s.reoutbound c h.slot pkg 4).freeBank pkg
  else s

/-- Two states that differ in cores, clusters and the map of displaced banks at most, the core's contexts and slots being as before. -/
def BanksMove (c : Nat) (s t : State) : Prop :=
  ∃ cores clusters hub, t = { s with cores := cores, clusters := clusters, hub := hub } ∧
    (t.core c).ctxs = (s.core c).ctxs ∧ (t.core c).slots = (s.core c).slots

theorem BanksMove.refl (c : Nat) (s : State) : BanksMove c s s := ⟨_, _, _, rfl, rfl, rfl⟩

theorem BanksMove.trans {c : Nat} {s t u : State} (hst : BanksMove c s t) (htu : BanksMove c t u) : BanksMove c s u := by
  obtain ⟨_, _, _, rfl, hx, hs⟩ := hst
  obtain ⟨_, _, _, rfl, hx', hs'⟩ := htu
  exact ⟨_, _, _, rfl, hx'.trans hx, hs'.trans hs⟩

theorem banksMove_freeBank (c : Nat) (s : State) (pkg : Nat) : BanksMove c s (s.freeBank pkg) := by
  unfold State.freeBank State.unplace
  dsimp only
  split <;> exact ⟨_, _, _, rfl, rfl, rfl⟩

theorem banksMove_giveBack (c : Nat) (s : State) (pkg : Nat) : BanksMove c s (s.giveBack pkg) := ⟨_, _, _, rfl, rfl, rfl⟩

theorem banksMove_reoutbound (s : State) (c slot pkg status : Nat) : BanksMove c s (s.reoutbound c slot pkg status) := by
  unfold State.reoutbound
  split
  · split
    · refine ⟨_, _, _, rfl, ?_, ?_⟩ <;> rw [State.outbound, State.core_setCore_self]
    · exact BanksMove.refl c s
  · exact BanksMove.refl c s

theorem banksMove_boundBank (s : State) (c : Nat) (kept : List Nat) (pkg : Nat) : BanksMove c s (s.boundBank c kept pkg) := by
  unfold State.boundBank
  dsimp only
  split
  · exact banksMove_freeBank c s pkg
  · split
    · exact banksMove_giveBack c s pkg
    · split
      · exact (banksMove_reoutbound s c _ _ _).trans (banksMove_freeBank c _ pkg)
      · exact BanksMove.refl c s

/-- A bank freed is Free, and every other stands as before. -/
theorem hitch_freeBank (s : State) (pkg b : Nat) : (s.freeBank pkg).hitch b = if b = pkg then Hitch.reset else s.hitch b := by
  have hundo (t : State) (u : List Undo) : (t.setCluster (pkg / 64) { t.cluster (pkg / 64) with undo := u }).hitch b = t.hitch b := by
    simp only [State.hitch, State.cluster_setCluster]
    split
    next h => rw [h]
    next => rfl
  have hplace (t : State) : (t.unplace pkg).hitch b = t.hitch b := by unfold State.unplace; split <;> rfl
  unfold State.freeBank
  dsimp only
  rw [hundo, hplace, State.hitch_setHitch]

theorem hitch_reoutbound (s : State) (c slot pkg status : Nat) : (s.reoutbound c slot pkg status).hitch = s.hitch := by
  unfold State.reoutbound
  split
  · split <;> rfl
  · rfl

/-- A bank hitched to the core that does not stay, or Free, is so or Free behind another one's turn, and Free behind its own. -/
theorem boundBank_hitch {s : State} {c b : Nat} {kept : List Nat} (hkept : b ∉ kept)
    (hb : (s.hitch b).st = .hitched ∧ (s.hitch b).holder = c ∨ (s.hitch b).st = .free) (pkg : Nat) :
    ((s.boundBank c kept pkg).hitch b).st = .free ∨ pkg ≠ b ∧ (s.boundBank c kept pkg).hitch b = s.hitch b := by
  by_cases hpb : pkg = b
  · subst hpb
    left
    unfold State.boundBank
    dsimp only
    rcases hb with ⟨hst, hholder⟩ | hst
    · rw [if_pos (by simp [hst, hholder, hkept]), hitch_freeBank, if_pos rfl]
      rfl
    · rw [if_neg (by simp [hst]), if_neg (by simp [hst]), if_neg (by simp [hst])]
      exact hst
  · right
    have hne : b ≠ pkg := fun e => hpb e.symm
    refine ⟨hpb, ?_⟩
    unfold State.boundBank
    dsimp only
    split
    · rw [hitch_freeBank, if_neg hne]
    · split
      · rw [State.giveBack, State.hitch_setHitch, if_neg hne]
      · split
        · rw [hitch_freeBank, if_neg hne, hitch_reoutbound]
        · rfl

/-- The banks of a core after its boundary. -/
def State.boundBanks (s : State) (c : Nat) (kept : List Nat) : State := s.each s.liveBanks (fun s pkg => s.boundBank c kept pkg)

theorem banksMove_boundBanks (s : State) (c : Nat) (kept : List Nat) : BanksMove c s (s.boundBanks c kept) :=
  State.each_ind (P := BanksMove c s) (fun t pkg ht => ht.trans (banksMove_boundBank t c kept pkg)) (BanksMove.refl c s) _

theorem boundBanks_hitch {s : State} {c b : Nat} {kept : List Nat} (hkept : b ∉ kept) (hst : (s.hitch b).st = .hitched)
    (hholder : (s.hitch b).holder = c) : ((s.boundBanks c kept).hitch b).st = .free := by
  refine State.each_makes (f := fun t pkg => t.boundBank c kept pkg)
    (P := fun t => (t.hitch b).st = .hitched ∧ (t.hitch b).holder = c ∨ (t.hitch b).st = .free)
    (Q := fun t => (t.hitch b).st = .free) (a := b) (fun t pkg ht => ?_) (fun t ht => ?_) (fun t pkg ht => ?_) (.inl ⟨hst, hholder⟩)
    (State.mem_liveBanks (by rw [hst]; decide))
  · rcases boundBank_hitch hkept ht pkg with h | ⟨-, h⟩
    · exact .inr h
    · rwa [h]
  · rcases boundBank_hitch hkept ht b with h | ⟨h, -⟩
    · exact h
    · exact absurd rfl h
  · rcases boundBank_hitch hkept (.inr ht) pkg with h | ⟨-, h⟩
    · exact h
    · rwa [h]

/-! ### The slots of a core at a boundary -/

/-- Two states that differ in the slots of a core at most. -/
def SlotsMove (c : Nat) (s t : State) : Prop :=
  ∃ cores slots fz, t = { s with cores := cores } ∧ t.core c = { s.core c with slots := slots, frozen := fz }

theorem SlotsMove.refl (c : Nat) (s : State) : SlotsMove c s s := ⟨_, _, _, rfl, rfl⟩

theorem SlotsMove.trans {c : Nat} {s t u : State} (hst : SlotsMove c s t) (htu : SlotsMove c t u) : SlotsMove c s u := by
  obtain ⟨_, _, _, rfl, hk⟩ := hst
  obtain ⟨_, _, _, rfl, hk'⟩ := htu
  exact ⟨_, _, _, rfl, hk'.trans (by rw [hk])⟩

theorem SlotsMove.hitch {c : Nat} {s t : State} (h : SlotsMove c s t) : t.hitch = s.hitch := by
  obtain ⟨_, _, _, rfl, -⟩ := h
  rfl

/-- Every slot whose bank is not frozen emptied. -/
def State.emptySlots (s : State) (c : Nat) : State :=
  s.each (s.core c).slots (fun s e => if (s.hitch e.2).st == .frozen then s else s.emptySlot c e.1)

theorem slotsMove_emptyOne (s : State) (c : Nat) (e : Nat × Nat) :
    SlotsMove c s (if (s.hitch e.2).st == .frozen then s else s.emptySlot c e.1) := by
  split
  · exact SlotsMove.refl c s
  · exact ⟨_, _, _, rfl, State.core_setCore_self _ _ _⟩

theorem slotsMove_emptySlots (s : State) (c : Nat) : SlotsMove c s (s.emptySlots c) :=
  State.each_ind (P := SlotsMove c s) (fun t e ht => ht.trans (slotsMove_emptyOne t c e)) (SlotsMove.refl c s) _

theorem slots_emptyOne (s : State) (c : Nat) (e : Nat × Nat) {d : Nat × Nat}
    (hd : d ∈ ((if (s.hitch e.2).st == .frozen then s else s.emptySlot c e.1).core c).slots) :
    d ∈ (s.core c).slots ∧ ((s.hitch e.2).st ≠ .frozen → d.1 ≠ e.1) := by
  split at hd
  next h => exact ⟨hd, fun hne => absurd (by simpa using h) hne⟩
  next h =>
    rw [State.emptySlot, State.core_setCore_self] at hd
    obtain ⟨hd, hne⟩ := List.mem_filter.mp hd
    exact ⟨hd, fun _ => by simpa using hne⟩

/-- What stands in a slot then is frozen. -/
theorem emptySlots_frozen {s : State} {c : Nat} {d : Nat × Nat} (hd : d ∈ ((s.emptySlots c).core c).slots) : (s.hitch d.2).st = .frozen := by
  by_contra hne
  have hmem : d ∈ (s.core c).slots :=
    State.each_ind (P := fun t => d ∈ (t.core c).slots → d ∈ (s.core c).slots)
      (fun t e ht htd => ht (slots_emptyOne t c e htd).1) (fun h => h) _ hd
  refine State.each_makes (f := fun t (e : Nat × Nat) => if (t.hitch e.2).st == .frozen then t else t.emptySlot c e.1)
    (P := fun t => t.hitch = s.hitch) (Q := fun t => d ∉ (t.core c).slots) (a := d)
    (fun t e ht => (slotsMove_emptyOne t c e).hitch.trans ht) (fun t ht htd => ?_) (fun t e ht htd => ht (slots_emptyOne t c e htd).1)
    rfl hmem hd
  exact (slots_emptyOne t c d htd).2 (by rwa [ht]) rfl

/-- What holds of a state and is kept for each element of a list holds at its end. -/
theorem State.each_ind_mem {α : Type} {P : State → Prop} {f : State → α → State} {xs : List α} (hf : ∀ s a, a ∈ xs → P s → P (f s a))
    {s : State} (hs : P s) : P (s.each xs f) := by
  induction xs generalizing s with
  | nil => exact hs
  | cons x xs ih => exact ih (fun t a ha => hf t a (List.mem_cons_of_mem _ ha)) (hf s x List.mem_cons_self hs)

/-- A bank of a unit switched out put where it stands. -/
def State.reslotOne (s : State) (c : Nat) (e : Nat × Nat) : State :=
  if (s.hitch e.2).st == .hitched && (s.hitch e.2).holder == c && (s.slotBank c e.1).isNone then
    s.setCore c { s.core c with slots := Tab.put (s.core c).slots e.1 e.2 }
  else s

theorem slotsMove_reslot (s : State) (c : Nat) : SlotsMove c s (s.reslot c) := by
  refine State.each_ind (P := SlotsMove c s) (f := fun t e => t.reslotOne c e) (fun t e ht => ht.trans ?_) (SlotsMove.refl c s) _
  unfold State.reslotOne
  split
  · exact ⟨_, _, _, rfl, State.core_setCore_self _ _ _⟩
  · exact SlotsMove.refl c t

/-- What stands in a slot once the banks of units switched out stand there is one of theirs, or stood there. -/
theorem reslot_slots {s : State} {c n p : Nat} (hp : (s.reslot c).slotBank c n = some p) :
    s.slotBank c n = some p ∨ p ∈ (s.setAside c).map (·.2) := by
  refine State.each_ind_mem (P := fun t => t.slotBank c n = some p → s.slotBank c n = some p ∨ p ∈ (s.setAside c).map (·.2))
    (f := fun t e => t.reslotOne c e) (fun t e he ht htp => ?_) .inl hp
  unfold State.reslotOne at htp
  split at htp
  · rw [State.slotBank, State.core_setCore_self] at htp
    by_cases hn : n = e.1
    · subst hn
      rw [Tab.get?_put_self, Option.some.injEq] at htp
      exact .inr (htp ▸ List.mem_map_of_mem he)
    · rw [Tab.get?_put_ne _ _ _ _ hn] at htp
      exact ht htp
  · exact ht htp

/-! ### The end of a unit (R73) -/

/-- What a unit boundary leaves (R167, R228). -/
theorem boundary_effect (s : State) (c : Nat) :
    let t := s.boundary c
    let kept := (s.setAside c).map (·.2)
    (∃ cores clusters hub, t = { s with cores := cores, clusters := clusters, hub := hub }) ∧
    (t.core c).unit = none ∧ (t.core c).ctxs = (s.core c).ctxs ∧
    (∀ p, (s.hitch p).st = .hitched → (s.hitch p).holder = c → p ∉ kept → (t.hitch p).st = .free) ∧
    (∀ n p, t.slotBank c n = some p → (t.hitch p).st = .frozen ∨ p ∈ kept) := by
  intro t kept
  let s1 := s.boundBanks c kept
  let s2 := s1.emptySlots c
  let s3 := s2.setCore c { s2.core c with
    unit := none, ringIn := none, ringOut := none, reos := false, released := false
    arrived := false, barDone := false, frame := none, units := [], rank := 0, team := 0, ckptTiles := [] }
  have ht : t = s3.reslot c := rfl
  obtain ⟨cores1, clusters1, hub1, hs1, hctx1, hslots1⟩ := banksMove_boundBanks s c kept
  obtain ⟨cores2, slots2, fz2, hs2, hcore2⟩ := slotsMove_emptySlots s1 c
  obtain ⟨cores3, slots3, fz3, hs3, hcore3⟩ := slotsMove_reslot s3 c
  have hhitch3 : t.hitch = s3.hitch := (slotsMove_reslot s3 c).hitch
  have hhitch2 : s2.hitch = s1.hitch := (slotsMove_emptySlots s1 c).hitch
  have hs3core : s3.core c = _ := State.core_setCore_self _ _ _
  rw [hs3core] at hcore3
  have haside : s3.setAside c = s.setAside c := by
    have hl : s3.launches = s.launches := by
      show s2.launches = s.launches
      rw [show s2 = _ from hs2]
      show s1.launches = s.launches
      rw [show s1 = _ from hs1]
    rw [State.setAside, hl]; rfl
  refine ⟨⟨cores3, clusters1, hub1, ?_⟩, ?_, ?_, fun p hst hholder hkept => ?_, fun n p hp => ?_⟩
  · rw [ht, hs3]
    show { s2 with cores := cores3 } = _
    rw [show s2 = _ from hs2]
    show { s1 with cores := cores3 } = _
    rw [show s1 = _ from hs1]
  · rw [ht, hcore3]
  · rw [ht, hcore3]
    show (s2.core c).ctxs = _
    rw [show s2.core c = _ from hcore2]
    exact hctx1
  · rw [hhitch3]
    show (s2.hitch p).st = .free
    rw [hhitch2]
    exact boundBanks_hitch hkept hst hholder
  · rcases reslot_slots (s := s3) hp with h | h
    · left
      have hmem : (n, p) ∈ (s2.core c).slots := by
        rw [State.slotBank, hs3core] at h
        exact Tab.mem_of_get? h
      rw [hhitch3]
      show (s2.hitch p).st = .frozen
      rw [hhitch2]
      exact emptySlots_frozen hmem
    · rw [haside] at h
      exact .inr h

theorem core_endTicket (s : State) (c x : Nat) : ∃ ctxs, (s.endTicket c x).core c = { s.core c with ctxs := ctxs } := by
  unfold State.endTicket
  dsimp only
  split
  · exact ⟨_, State.core_setCtx_self _ _ _ _⟩
  · exact ⟨_, State.core_setCtx_self s c x _⟩

theorem core_reosOf (s : State) (c : Nat) : ∃ b, (s.reosOf c).core c = { s.core c with reos := b } := by
  have hcores (t : State) (r : Nat) : (t.endProducer r).core c = t.core c := by
    unfold State.endProducer; dsimp only; split <;> rfl
  unfold State.reosOf
  dsimp only
  split
  · exact ⟨_, rfl⟩
  · split
    · exact ⟨_, rfl⟩
    · exact ⟨true, by rw [hcores, State.core_setCore_self]⟩

theorem mem_insertSet_self (x : Nat) (l : List Nat) : x ∈ insertSet x l := by
  induction l with
  | nil => exact List.mem_singleton.mpr rfl
  | cons y l ih =>
    rw [insertSet]
    split
    · exact List.mem_cons_self
    · split
      next h => exact h ▸ List.mem_cons_self
      next => exact List.mem_cons_of_mem _ ih

theorem mem_insertSet_of_mem {x z : Nat} {l : List Nat} (hz : z ∈ l) : z ∈ insertSet x l := by
  induction l with
  | nil => cases hz
  | cons y l ih =>
    rw [insertSet]
    split
    · exact List.mem_cons_of_mem _ hz
    · split
      · exact hz
      · rcases List.mem_cons.mp hz with rfl | hz
        · exact List.mem_cons_self
        · exact List.mem_cons_of_mem _ (ih hz)

/-- A launch that has been replaced is found under its name. -/
theorem launch?_setLaunch {s : State} {u : Nat × Nat} {l k : Launch} (hl : s.launch? u = some l) (hq : k.queue = l.queue) (hs : k.seq = l.seq) :
    (s.setLaunch k).launch? u = some k := by
  have hkey := List.find?_some hl
  rw [Bool.and_eq_true, beq_iff_eq, beq_iff_eq] at hkey
  unfold State.launch? at hl ⊢
  unfold State.setLaunch
  dsimp only
  rw [hq, hs, hkey.1, hkey.2]
  generalize s.launches = ls at hl
  induction ls with
  | nil => cases hl
  | cons m ls ih =>
    rw [List.map_cons]
    cases hm : (m.queue == u.1 && m.seq == u.2) with
    | true =>
      rw [if_pos rfl]
      exact List.find?_cons_of_pos (by rw [hq, hs, hkey.1, hkey.2]; simp)
    | false =>
      rw [List.find?_cons_of_neg (by rw [hm]; exact Bool.false_ne_true)] at hl
      rw [if_neg Bool.false_ne_true, List.find?_cons_of_neg (by rw [hm]; exact Bool.false_ne_true)]
      exact ih hl

/-- Replacing a launch by one with the same units switched out sets no further bank aside. -/
theorem setAside_setLaunch {s : State} {l k : Launch} (hl : l ∈ s.launches) (hp : k.parked = l.parked) {c : Nat} {e : Nat × Nat}
    (he : e ∈ (s.setLaunch k).setAside c) : e ∈ s.setAside c := by
  obtain ⟨m, hm, he⟩ := List.mem_flatMap.mp he
  obtain ⟨m', hm', rfl⟩ := List.mem_map.mp hm
  split at he
  · rw [hp] at he
    exact List.mem_flatMap.mpr ⟨l, hl, he⟩
  · exact List.mem_flatMap.mpr ⟨m', hm', he⟩

/-- The state in which a unit has ended, before its boundary (R73). -/
def State.unitOver (s : State) (c : Nat) : State :=
  let s := s.reosOf c
  let k := s.core c
  let s := s.setCtx c 0 { s.ctx c 0 with live := false, wait := .none, q := .replicate 4 [] }
  match k.unit with
  | some u => (match s.launch? u with
    | some l => (s.endOut c u).setLaunch { l with ended := insertSet k.rank l.ended, lastArr := s.time }
    | none => s)
  | none => s

theorem State.unitEnds_eq (s : State) (c : Nat) : s.unitEnds c = (s.unitOver c).boundary c := rfl

/-- Before its boundary a unit's end moves no bank, sets none aside, and counts its rank as ended. -/
theorem unitOver_effect (s : State) (c : Nat) :
    let t := s.unitOver c
    (∃ cores clusters launches releases posts, t = { s with
      cores := cores, clusters := clusters, launches := launches, releases := releases, posts := posts }) ∧
    t.hitch = s.hitch ∧ (t.ctx c 0).live = false ∧ (∀ e ∈ t.setAside c, e ∈ s.setAside c) ∧
    (∀ u l, (s.core c).unit = some u → s.launch? u = some l →
      ∃ l', t.launch? u = some l' ∧ (s.core c).rank ∈ l'.ended ∧ ∀ r ∈ l.ended, r ∈ l'.ended) := by
  intro t
  let s1 := s.reosOf c
  let s2 := s1.setCtx c 0 { s1.ctx c 0 with live := false, wait := .none, q := .replicate 4 [] }
  obtain ⟨b, hs1⟩ := core_reosOf s c
  obtain ⟨⟨cores, clusters, releases, posts, hrest⟩, hhitch, -⟩ := (banksStay_reosOf s c).trans (banksStay_setCtx s1 c 0
    { s1.ctx c 0 with live := false, wait := .none, q := .replicate 4 [] })
  have hl2 : s2.launches = s.launches := by rw [show s2 = _ from hrest]
  have hlaunch (u : Nat × Nat) : s2.launch? u = s.launch? u := by rw [State.launch?, hl2]; rfl
  have hlive : (s2.ctx c 0).live = false := by rw [State.ctx_setCtx_self]
  have hunit : (s1.core c).unit = (s.core c).unit := by rw [show s1.core c = _ from hs1]
  have hrank : (s1.core c).rank = (s.core c).rank := by rw [show s1.core c = _ from hs1]
  have ht : t = match (s1.core c).unit with
    | some u => (match s2.launch? u with
      | some l => (s2.endOut c u).setLaunch { l with ended := insertSet (s1.core c).rank l.ended, lastArr := s2.time }
      | none => s2)
    | none => s2 := rfl
  have hstay : t = s2 → (∃ cores clusters launches releases posts, t = { s with
      cores := cores, clusters := clusters, launches := launches, releases := releases, posts := posts }) ∧
      t.hitch = s.hitch ∧ (t.ctx c 0).live = false ∧ (∀ e ∈ t.setAside c, e ∈ s.setAside c) := fun h =>
    ⟨⟨cores, clusters, s.launches, releases, posts, h.trans hrest⟩, h ▸ hhitch, h ▸ hlive, fun e he => by
      rw [h, State.setAside, hl2] at he; exact he⟩
  cases hu : (s.core c).unit with
  | none =>
    have h : t = s2 := by rw [ht, hunit, hu]
    exact ⟨(hstay h).1, (hstay h).2.1, (hstay h).2.2.1, (hstay h).2.2.2, fun u l hu' => by cases hu'⟩
  | some u =>
    cases hl : s.launch? u with
    | none =>
      have h : t = s2 := by rw [ht, hunit, hu]; simp only [hlaunch, hl]
      refine ⟨(hstay h).1, (hstay h).2.1, (hstay h).2.2.1, (hstay h).2.2.2, fun u' l hu' hl' => ?_⟩
      cases hu'
      rw [hl] at hl'
      cases hl'
    | some l =>
      have h : t = (s2.endOut c u).setLaunch { l with ended := insertSet (s.core c).rank l.ended, lastArr := s2.time } := by
        rw [ht, hunit, hu]; simp only [hlaunch, hl, hrank]
      have hmem : l ∈ (s2.endOut c u).launches := by
        show l ∈ s2.launches
        rw [hl2]
        exact List.mem_of_find?_eq_some hl
      have hfind : (s2.endOut c u).launch? u = some l := (hlaunch u).trans hl
      refine ⟨?_, ?_, ?_, fun e he => ?_, fun u' l' hu' hl' => ?_⟩
      · obtain ⟨⟨_, _, _, _, hend⟩, -⟩ := banksStay_endOut s2 c u
        rw [h, hend, show s2 = _ from hrest]
        exact ⟨_, _, _, _, _, rfl⟩
      · rw [h]; exact hhitch
      · rw [h]
        show ((s2.endOut c u).ctx c 0).live = false
        rw [State.ctx, ctxs_endOut]
        exact hlive
      · rw [h] at he
        have he' := setAside_setLaunch (k := { l with ended := insertSet (s.core c).rank l.ended, lastArr := s2.time }) hmem rfl he
        have hl2' : (s2.endOut c u).launches = s.launches := hl2
        rw [State.setAside, hl2'] at he'
        exact he'
      · cases hu'
        obtain rfl : l = l' := Option.some.inj (hl.symm.trans hl')
        refine ⟨{ l with ended := insertSet (s.core c).rank l.ended, lastArr := s2.time }, ?_, mem_insertSet_self _ _,
          fun r hr => mem_insertSet_of_mem hr⟩
        rw [h]
        exact launch?_setLaunch hfind rfl rfl

/-! ### Helpers start (R246) -/

/-- The context that a helper starts as. -/
def State.helperCtx (s : State) (x : OpHStart) (n : Nat) : Ctx :=
  let l := if s.me.inUnit then s.launchOf s.cur else none
  let k : Ctx := { s.freshCtx s.cur with
    pc := branchTo s.me.pc x.off, level := s.me.level, ovt := s.me.ovt, inUnit := s.me.inUnit
    xlat := (l.map (·.xlat)).getD s.me.xlat }
  ((k.ws 1 (s.me.rs x.b)).ws 2 (BitVec.ofNat 64 n)).ws 3
    ((l.map (fun l => BitVec.ofNat 64 l.team)).getD (Config.helperTeam s.nonce))

/-- The state in which a helper has started, before its starter's register. -/
def State.helperStarted (s : State) (x : OpHStart) (n : Nat) : State :=
  let t := s.fresh.2.setCtx s.cur n (s.helperCtx x n)
  t.setMycore { t.mycore with loads := t.mycore.loads.filter (·.ctx != n) }

theorem exec_hstart {h : Hdr} {x : OpHStart} {s : State} {n : Nat} (hi : s.issues h { helper := false } = true)
    (hun : s.me.unresolved = none) (hfree : s.freeCtx s.cur = some n) :
    exec (.hstart h x) s =
      .next (((s.helperStarted x n).setMe ((s.helperStarted x n).me.ws x.a (BitVec.ofNat 64 n))).goOn h) := by
  simp only [exec, execHstart]
  rw [issue_issues _ _ _ _ hi]
  rw [State.firm, hun, hfree]
  rfl

/-- What a search among the helpers of a core finds (R246). -/
theorem freeCtx_spec {s : State} {c n : Nat} (hfree : s.freeCtx c = some n) :
    1 ≤ n ∧ n ≤ 15 ∧ (s.ctx c n).live = false ∧ ∀ m, 1 ≤ m → m < n → (s.ctx c m).live = true := by
  unfold State.freeCtx at hfree
  rw [List.find?_map, Option.map_eq_some_iff] at hfree
  obtain ⟨i, hi, rfl⟩ := hfree
  obtain ⟨hlive, hlt, hmin⟩ := List.find?_range_eq_some.mp hi
  have hi15 := List.mem_range.mp hlt
  refine ⟨by omega, by omega, by simpa using hlive, fun m hm hmn => ?_⟩
  obtain ⟨j, rfl⟩ : ∃ j, m = j + 1 := ⟨m - 1, by omega⟩
  simpa using hmin j (by omega)

/-- The contexts of the core where a helper has started: its own is new, and no other changed. -/
theorem State.ctx_helperStarted (s : State) (x : OpHStart) (n y : Nat) :
    (s.helperStarted x n).ctx s.cur y = if y = n then s.helperCtx x n else s.ctx s.cur y := by
  have hcore : ((s.helperStarted x n).core s.cur).ctxs = Tab.put (s.core s.cur).ctxs n (s.helperCtx x n) := by
    unfold State.helperStarted
    dsimp only
    rw [State.setMycore, State.mycore, show (s.fresh.2.setCtx s.cur n (s.helperCtx x n)).cur = s.cur from rfl,
      State.core_setCore_self, State.setCtx, State.core_setCore_self]
    rfl
  rw [State.ctx, hcore]
  split
  next he => rw [he]; exact Tab.getD_put_self _ _ _ _
  next he => exact Tab.getD_put_ne _ _ _ _ _ he

/-- What a helper starts with (R47, R246). -/
theorem helperCtx_starts (s : State) (x : OpHStart) (n : Nat) :
    let k := s.helperCtx x n
    k.live = true ∧ k.pc = branchTo s.me.pc x.off ∧ k.level = s.me.level ∧ k.ovt = s.me.ovt ∧ k.inUnit = s.me.inUnit ∧
      k.rs 1 = s.me.rs x.b ∧ k.rs 2 = BitVec.ofNat 64 n ∧
      (∀ l, s.me.inUnit = true → s.launchOf s.cur = some l → k.rs 3 = BitVec.ofNat 64 l.team ∧ k.xlat = l.xlat) ∧
      (∀ i : SReg, i ≠ 1 → i ≠ 2 → i ≠ 3 → k.rs i = 0) ∧ (∀ i : VReg, k.rv i = 0) ∧ (∀ i : PReg, i ≠ 7 → k.rp i = 0) := by
  intro k
  refine ⟨rfl, rfl, rfl, rfl, rfl, ?_, ?_, fun l hu hl => ⟨?_, ?_⟩, fun i h1 h2 h3 => ?_, fun i => ?_, fun i h7 => ?_⟩
  · simp [k, State.helperCtx]
  · simp [k, State.helperCtx]
  · simp [k, State.helperCtx, Ctx.rs_ws, hu, hl]
  · show ((if s.me.inUnit then s.launchOf s.cur else none).map (·.xlat)).getD s.me.xlat = l.xlat
    rw [if_pos hu, hl]
    rfl
  · simp only [k, State.helperCtx, Ctx.rs_ws, if_neg h1, if_neg h2, if_neg h3]
    simp [Ctx.rs, State.freshCtx, Ctx.reset]
  · show (Vector.replicate 16 0)[i.toNat] = 0
    simp
  · show (if i = 7 then (-1 : Word) else (Vector.replicate 8 0)[i.toNat]) = 0
    rw [if_neg h7]
    simp

/-- A control context issues what no helper may. -/
theorem curCtx_of_issues {s : State} {h : Hdr} (hi : s.issues h { helper := false } = true) : s.curCtx = 0 := by
  simp only [State.issues, contextOk, Bool.and_eq_true] at hi
  simpa using hi.1.1.2.1.1

/-- What `hstart` does (R16, R47, R246). -/
theorem hstart_effect {h : Hdr} {x : OpHStart} {s : State} {n : Nat} (hi : s.issues h { helper := false } = true)
    (hun : s.me.unresolved = none) (hfree : s.freeCtx s.cur = some n) :
    ∃ t : State, exec (.hstart h x) s = .next (t.goOn h) ∧ MemoryKept s t ∧
      (1 ≤ n ∧ n ≤ 15 ∧ (s.ctx s.cur n).live = false ∧ ∀ m, 1 ≤ m → m < n → (s.ctx s.cur m).live = true) ∧
      t.me.rs x.a = (if x.a = 0 then 0 else BitVec.ofNat 64 n) ∧ RegsKept [.s x.a.toNat] s.me t.me ∧
      t.ctx s.cur n = s.helperCtx x n ∧ (∀ y, y ≠ n → y ≠ s.curCtx → t.ctx s.cur y = s.ctx s.cur y) := by
  have hspec := freeCtx_spec hfree
  have hcur := curCtx_of_issues hi
  have hn : s.curCtx ≠ n := by omega
  have hme : (s.helperStarted x n).me = s.me := (State.ctx_helperStarted s x n s.curCtx).trans (if_neg hn)
  have hother (y : Nat) (k : Ctx) (hy : y ≠ s.curCtx) :
      ((s.helperStarted x n).setMe k).ctx s.cur y = (s.helperStarted x n).ctx s.cur y :=
    State.ctx_setMe_ne (s.helperStarted x n) k y hy
  refine ⟨_, exec_hstart hi hun hfree, ⟨fun _ => rfl, fun _ => rfl, rfl⟩, hspec, ?_, ?_, ?_, fun y hyn hy => ?_⟩
  · rw [State.me_setMe, Ctx.rs_ws]
    split
    · rfl
    · rw [if_pos rfl]
  · rw [State.me_setMe, hme]
    exact (Ctx.ws_kept _ _ _).1
  · rw [hother n _ (Ne.symm hn), State.ctx_helperStarted, if_pos rfl]
  · rw [hother y _ hy, State.ctx_helperStarted, if_neg hyn]

/-! ### Contexts end -/

/-- A helper ends where it has nothing under way (R247). -/
theorem exec_hend {h : Hdr} {s : State} (hi : s.issues h { control := false } = true) (hun : s.me.unresolved = none)
    (htick : s.me.ticket = none) (hdrained : s.ctxDrained s.cur s.curCtx = true) (hloads : ∀ l ∈ s.mycore.loads, l.ctx ≠ s.curCtx) :
    exec (.hend h) s = .next ((s.setMe { s.me with live := false, q := .replicate 4 [], irqs := [] }).begun h) := by
  have hnone : s.mycore.loads.any (·.ctx == s.curCtx) = false :=
    List.any_eq_false.mpr fun l hl => by simpa using hloads l hl
  simp only [exec, execHend]
  rw [issue_issues _ _ _ _ hi]
  rw [State.firm, hun, htick, hdrained, hnone]
  rfl

/-- The wait for a helper (R248). -/
theorem exec_hwait {h : Hdr} {b : SReg} {s : State} (hi : s.issues h {} = true) (h1 : 1 ≤ (s.me.rs b).toNat) (h16 : (s.me.rs b).toNat < 16)
    (hme : (s.me.rs b).toNat ≠ s.curCtx) :
    exec (.hwait h b) s = .next (if (s.ctx s.cur (s.me.rs b).toNat).live then s.held else s.goOn h) := by
  have hok : ((s.me.rs b).toNat = 0 || decide (16 ≤ (s.me.rs b).toNat) || (s.me.rs b).toNat = s.curCtx) = false := by
    simp; omega
  simp only [exec, execHwait]
  rw [issue_issues _ _ _ _ hi]
  rw [if_neg (by simpa using hok)]
  split <;> rfl

/-- `yield` is `nop` with the yield hint (R258). -/
theorem exec_yield {h : Hdr} {s : State} (hi : s.issues h {} = true) : exec (.yield h) s = .next (s.goOn { h with yield := true }) := by
  have hg : guardTrue s.me h = true := by
    simp only [State.issues, Bool.and_eq_true] at hi
    exact hi.1.1.1.1.1
  show issue (if guardTrue s.me h then { h with yield := true } else h) plain (fun s => .done s) s = _
  rw [if_pos hg]
  exact issue_done hi rfl

/-- What `uend` leaves where nothing of the unit is under way (R73). -/
def State.uended (s : State) : State :=
  let t := s.endTicket s.cur 0
  if s.me.inUnit || s.mycore.unit.isNone then t.unitEnds s.cur else t.setCtx s.cur 0 { t.ctx s.cur 0 with live := false, q := .replicate 4 [] }

theorem exec_uend {h : Hdr} {s : State} (hi : s.issues h { helper := false } = true) (hun : s.me.unresolved = none)
    (hquiet : s.unitQuiet s.cur = true) : exec (.uend h) s = .next (s.uended.begun h) := by
  simp only [exec, execUend]
  rw [issue_issues _ _ _ _ hi]
  rw [State.firm, hun, hquiet]
  rfl

/-- The end of a unit, with its boundary (R73, R167, R228, R234). -/
theorem unitEnds_effect (s : State) (c : Nat) :
    let t := s.unitEnds c
    let aside := (s.setAside c).map (·.2)
    t.mem = s.mem ∧ t.banks = s.banks ∧ (t.ctx c 0).live = false ∧ (t.core c).unit = none ∧
    (∀ p, (s.hitch p).st = .hitched → (s.hitch p).holder = c → p ∉ aside → (t.hitch p).st = .free) ∧
    (∀ n p, t.slotBank c n = some p → (t.hitch p).st = .frozen ∨ p ∈ aside) ∧
    (∀ u l, (s.core c).unit = some u → s.launch? u = some l →
      ∃ l', t.launch? u = some l' ∧ (s.core c).rank ∈ l'.ended ∧ ∀ r ∈ l.ended, r ∈ l'.ended) := by
  intro t aside
  obtain ⟨⟨_, _, _, _, _, hover⟩, hhitch, hlive, haside, hended⟩ := unitOver_effect s c
  obtain ⟨⟨_, _, _, hb⟩, hunit, hctxs, hfree, hslots⟩ := boundary_effect (s.unitOver c) c
  have ht : t = (s.unitOver c).boundary c := State.unitEnds_eq s c
  have hkept {p : Nat} (hp : p ∈ ((s.unitOver c).setAside c).map (·.2)) : p ∈ aside := by
    obtain ⟨e, he, rfl⟩ := List.mem_map.mp hp
    exact List.mem_map_of_mem (haside e he)
  have hmem : (s.unitOver c).mem = s.mem := by rw [hover]
  have hbanks : (s.unitOver c).banks = s.banks := by rw [hover]
  refine ⟨?_, ?_, ?_, ?_, fun p hst hh hp => ?_, fun n p hp => ?_, fun u l hu hl => ?_⟩
  · rw [ht, hb]; exact hmem
  · rw [ht, hb]; exact hbanks
  · rw [ht, State.ctx, hctxs]; exact hlive
  · rw [ht]; exact hunit
  · rw [ht]
    exact hfree p (by rw [hhitch]; exact hst) (by rw [hhitch]; exact hh) (fun hk => hp (hkept hk))
  · rw [ht] at hp ⊢
    exact (hslots n p hp).imp_right hkept
  · obtain ⟨l', hl', hr⟩ := hended u l hu hl
    refine ⟨l', ?_, hr⟩
    rw [ht, hb]
    exact hl'

theorem clusters_endTicket (s : State) (c x : Nat) : (s.endTicket c x).clusters = s.clusters := by
  unfold State.endTicket
  dsimp only
  split <;> rfl

/-- A unit's end is still its core's and its context's step. -/
theorem unitEnds_turn (s : State) (c : Nat) : (s.unitEnds c).cur = s.cur ∧ (s.unitEnds c).curCtx = s.curCtx := by
  obtain ⟨⟨_, _, _, _, _, hover⟩, -⟩ := unitOver_effect s c
  obtain ⟨⟨_, _, _, hb⟩, -⟩ := boundary_effect (s.unitOver c) c
  have hcur : (s.unitOver c).cur = s.cur := by rw [hover]
  have hctx : (s.unitOver c).curCtx = s.curCtx := by rw [hover]
  rw [State.unitEnds_eq, hb]
  exact ⟨hcur, hctx⟩

theorem uended_turn (s : State) : s.uended.cur = s.cur ∧ s.uended.curCtx = s.curCtx := by
  obtain ⟨⟨_, _, _, _, hrest⟩, -⟩ := banksStay_endTicket s s.cur 0
  have hcur : (s.endTicket s.cur 0).cur = s.cur := by rw [hrest]
  have hctx : (s.endTicket s.cur 0).curCtx = s.curCtx := by rw [hrest]
  obtain ⟨hc, hx⟩ := unitEnds_turn (s.endTicket s.cur 0) s.cur
  unfold State.uended
  dsimp only
  split
  · exact ⟨hc.trans hcur, hx.trans hctx⟩
  · exact ⟨hcur, hctx⟩

/-- What `uend` leaves (R73). -/
theorem uended_effect {s : State} (hcur : s.curCtx = 0) :
    let t := s.uended
    t.mem = s.mem ∧ t.banks = s.banks ∧ t.me.live = false ∧
    (s.me.inUnit = true ∨ s.mycore.unit = none →
      (let aside := (s.setAside s.cur).map (·.2)
       t.mycore.unit = none ∧
       (∀ p, (s.hitch p).st = .hitched → (s.hitch p).holder = s.cur → p ∉ aside → (t.hitch p).st = .free) ∧
       (∀ n p, t.slotBank s.cur n = some p → (t.hitch p).st = .frozen ∨ p ∈ aside) ∧
       (∀ u l, s.mycore.unit = some u → s.launch? u = some l →
         ∃ l', t.launch? u = some l' ∧ s.mycore.rank ∈ l'.ended ∧ ∀ r ∈ l.ended, r ∈ l'.ended))) ∧
    (s.me.inUnit = false → s.mycore.unit.isSome = true → t.mycore.unit = s.mycore.unit ∧ t.clusters = s.clusters ∧
      t.launches = s.launches) := by
  intro t
  let u := s.endTicket s.cur 0
  obtain ⟨⟨_, _, _, _, hrest⟩, hhitch, -⟩ := banksStay_endTicket s s.cur 0
  obtain ⟨ctxs, hcore⟩ := core_endTicket s s.cur 0
  have hunit : (u.core s.cur).unit = s.mycore.unit := by rw [show u.core s.cur = _ from hcore]; rfl
  have hrank : (u.core s.cur).rank = s.mycore.rank := by rw [show u.core s.cur = _ from hcore]; rfl
  have hlaunches : u.launches = s.launches := by rw [show u = _ from hrest]
  have hlaunch (v : Nat × Nat) : u.launch? v = s.launch? v := by rw [State.launch?, hlaunches]; rfl
  by_cases hends : (s.me.inUnit || s.mycore.unit.isNone) = true
  · have ht : t = u.unitEnds s.cur := if_pos hends
    obtain ⟨hmem, hbanks, hlive, hnone, hfree, hslots, hended⟩ := unitEnds_effect u s.cur
    have haside : u.setAside s.cur = s.setAside s.cur := by rw [State.setAside, hlaunches]; rfl
    have htcur : t.cur = s.cur := (uended_turn s).1
    have htctx : t.curCtx = 0 := (uended_turn s).2.trans hcur
    refine ⟨?_, ?_, ?_, fun _ => ⟨?_, fun p hst hh hp => ?_, fun n p hp => ?_, fun v l hv hl => ?_⟩, fun hin hsome => ?_⟩
    · rw [ht, hmem, show u = _ from hrest]
    · rw [ht, hbanks, show u = _ from hrest]
    · rw [State.me, htcur, htctx, ht]; exact hlive
    · rw [State.mycore, htcur, ht]; exact hnone
    · rw [ht]
      exact hfree p (by rw [show u.hitch = _ from hhitch]; exact hst) (by rw [show u.hitch = _ from hhitch]; exact hh)
        (by rw [haside]; exact hp)
    · rw [ht] at hp ⊢
      rw [← haside]
      exact hslots n p hp
    · rw [ht, ← hrank]
      exact hended v l (hunit.trans hv) ((hlaunch v).trans hl)
    · rw [hin, Bool.false_or, Option.isNone_iff_eq_none] at hends
      rw [hends] at hsome
      cases hsome
  · have ht : t = u.setCtx s.cur 0 { u.ctx s.cur 0 with live := false, q := .replicate 4 [] } := if_neg hends
    have htcur : t.cur = s.cur := (uended_turn s).1
    have htctx : t.curCtx = 0 := (uended_turn s).2.trans hcur
    rw [Bool.or_eq_true, not_or, Bool.not_eq_true, Option.isNone_iff_eq_none] at hends
    refine ⟨?_, ?_, ?_, fun hor => absurd hor (by rw [hends.1]; simpa using hends.2), fun _ _ => ⟨?_, ?_, ?_⟩⟩
    · rw [ht]; show u.mem = s.mem; rw [show u = _ from hrest]
    · rw [ht]; show u.banks = s.banks; rw [show u = _ from hrest]
    · rw [State.me, htcur, htctx, ht, State.ctx_setCtx_self]
    · rw [State.mycore, htcur, ht, State.setCtx, State.core_setCore_self]; exact hunit
    · rw [ht]; exact clusters_endTicket s s.cur 0
    · rw [ht]; exact hlaunches

/-- Settles O37: a helper is `hstart_effect` and `helperCtx_starts`, its end and the wait for it are those of R247 and R248, and a unit's
end is its ticket's, its own (`unitOver_effect`) and its boundary's (`boundary_effect`). -/
theorem contextsStartAndEnd : Obligations.ContextsStartAndEnd := by
  unfold Obligations.ContextsStartAndEnd
  intro h x b s
  refine ⟨fun n hi hun hfree => ?_, fun hi hun ht hd hl => exec_hend hi hun ht hd hl, ?_, ?_, fun hi hun hq => ?_⟩
  · obtain ⟨t, ht, hm, hs, hr, hk, hn, ho⟩ := hstart_effect (x := x) hi hun hfree
    refine ⟨t, ht, hm, hs, hr, hk, ?_, ho⟩
    rw [hn]
    exact helperCtx_starts s x n
  · exact fun hi h1 h16 hne => exec_hwait hi h1 h16 hne
  · refine fun hi => ⟨exec_yield hi, ?_⟩
    rw [State.goOn, State.me_advance]
  · obtain ⟨hm, hb, hlive, hunit, hother⟩ := uended_effect (curCtx_of_issues hi)
    exact ⟨_, exec_uend hi hun hq, hm, hb, hlive, hunit, hother⟩

end Sys2Proof.Machine
end

section
/-!
O38, refuted by the twin launches of O26: a store that is not aligned is made part by part, its first write turns its team's phase, and its
second part traps.
-/

namespace Sys2Proof.Machine

open Sys2Proof

/-- The twin launches with s2 two bytes behind the window's start. -/
def twinStoring : State := twinLaunches.setMe (twinLaunches.me.ws 2 0x1000000000000002)

/-- A store of s3 to the address in s2. -/
def storeS3 : OpLd := { ty := .n32, r := 3, base := 2, disp := 0 }

/-- The store of the compute class ends with its context still on it. -/
theorem carried_twinStoring : (carried (.st computeHdr storeS3) 3 twinStoring).map (fun t => t.me.pc) = some 0x10000 := by
  decide +kernel

/-- Refutes O38: on two launches of one name the first part of a store of the compute class turns its team's phase, so its second part
traps, and the store never ends behind itself. -/
theorem not_localWindowAccesses : ¬ Obligations.LocalWindowAccesses := by
  unfold Obligations.LocalWindowAccesses
  rintro ⟨h, -⟩
  obtain ⟨-, -, -, hst, -⟩ := h computeHdr .n32 3 2 0 .core twinStoring 0x1000000000000002 5 (by decide +kernel) (by decide +kernel)
    (by decide +kernel) (by decide) (by decide) (by decide) rfl (by decide +kernel)
  obtain ⟨t, hends, hme, -⟩ := hst
  obtain ⟨-, n, hn⟩ := (if_neg (by decide)).mp hends (by decide +kernel)
  obtain ⟨u, hu, hpc⟩ := Option.map_eq_some_iff.mp carried_twinStoring
  rw [carried_unique hu hn, State.goOn, State.me_advance, hme, show twinStoring.me.pc = 0x10000 by decide +kernel] at hpc
  cases hpc

end Sys2Proof.Machine
end

section
/-!
O39: loads, stores and prefetch of the spaces 0, 2, 3 and 4. An aligned access is one part; what it leaves follows from its request alone.
-/

namespace Sys2Proof.Machine

open Sys2Proof

/-! ### An aligned access is one part (R129) -/

/-- The sizes of the aligned parts of an access. -/
def PartSized (n : Nat) : Prop := n = 1 ∨ n = 2 ∨ n = 4 ∨ n = 8 ∨ n = 64

theorem partSized_size (ty : ETy) : PartSized ty.size := by cases ty <;> simp [PartSized, ETy.size]

theorem partSize_aligned {a n : Nat} (hn : PartSized n) (ha : a % n = 0) : partSize a n = n := by
  obtain rfl | rfl | rfl | rfl | rfl := hn <;> simp [partSize, ha]

theorem partsOf_aligned {a n : Nat} (hn : PartSized n) (ha : a % n = 0) : partsOf a n 0 n = [(0, n)] := by
  obtain ⟨k, rfl⟩ : ∃ k, n = k + 1 := by
    unfold PartSized at hn
    exact ⟨n - 1, by omega⟩
  have hrest : partsOf a k (k + 1) 0 = [] := by cases k <;> rfl
  rw [partsOf, if_neg (Nat.succ_ne_zero k)]
  dsimp only
  rw [Nat.add_zero, partSize_aligned hn ha, Nat.sub_self, Nat.zero_add, hrest]

/-- The one part of an access that goes to a destination whole. -/
def wholeCut (n : Nat) (d : Dest) (cross : Bool) : Cut := { at_ := 0, size := n, dest := d, cross := cross }

theorem cutsTo_aligned {a n : Nat} (hn : PartSized n) (ha : a % n = 0) (cross : Bool) (f : Nat → Dest) :
    cutsTo a n cross f = [wholeCut n (f 0) cross] := by rw [cutsTo, partsOf_aligned hn ha]; rfl

theorem cutsOf_aligned {c va n a : Nat} {e : Tlb} (hn : PartSized n) (ha : va % n = 0) (hk : e.kind ≠ 3) :
    cutsOf c va n [((a, n), e)] = [wholeCut n (homeAt n a e) (homeDie (homeOf e a) != dieOf c)] := by
  have h0 : 0 < n := by unfold PartSized at hn; omega
  simp [cutsOf, partsOf_aligned hn ha, byteAt, h0, hk, wholeCut, homeAt]

/-! ### What an access of one part leaves (R137, R138) -/

/-- Only the launches' bookkeeping may differ. -/
def LaunchesOnly (s t : State) : Prop := ∃ ls, t = { s with launches := ls }

theorem launchesOnly_refl (s : State) : LaunchesOnly s s := ⟨_, rfl⟩

theorem launchesOnly_noRoll (s : State) (c : Nat) : LaunchesOnly s (s.noRoll c) := by
  unfold State.noRoll
  split <;> exact ⟨_, rfl⟩

/-- The access that a request of one part puts on its way. -/
def State.onePart (s : State) (q : MemReq) (c : Cut) (p asid : Nat) (j : Option Nat) : Access :=
  { id := s.nonce, core := s.cur, ctx := s.curCtx, born := s.me.born, path := .ls, kind := q.kind, dest := c.dest
    size := c.size, data := q.data / 256 ^ c.at_ % 256 ^ c.size, jrn := j, pc := s.me.pc
    va := p, crossDie := c.cross, performed := false, value := 0, refused := none, release := q.rel
    part := s.partOf s.cur, asid := asid, since := s.time, group := s.nonce, at_ := c.at_, got := 0, bridged := none
    told := false }

/-- Whether a destination is this device's or the host's. -/
def Dest.near (d : Dest) : Prop := ∀ dv a l, d ≠ .peer dv a l

/-- A request whose target is not the local window, in one part that goes to no peer device. -/
structure OneWay (q : MemReq) (t : Tgt) (d : Dest) : Prop where
  target : ∀ slot off, t ≠ .win slot off
  near : d.near
  size : q.size ≠ 512

/-- Whether the context of a request waits for its parts. -/
def MemReq.waited (q : MemReq) (t : Tgt) (cs : List Cut) : Bool :=
  q.blocks t || (q.kind == .load && (cs.any Cut.toPeer || q.size == 512)) || (match t with | .win .. => true | _ => false)

theorem OneWay.waited {q : MemReq} {t : Tgt} {d : Dest} (ho : OneWay q t d) (cross : Bool) :
    q.waited t [wholeCut q.size d cross] = q.blocks t := by
  have hpeer : Cut.toPeer (wholeCut q.size d cross) = false := by
    cases d with
    | peer dv a l => exact absurd rfl (ho.near dv a l)
    | slot c sl o => rfl
    | dev ss hs => rfl
    | host a => rfl
  have hrest : (q.kind == .load && ([wholeCut q.size d cross].any Cut.toPeer || q.size == 512)) = false := by simp [hpeer, ho.size]
  unfold MemReq.waited
  rw [hrest, Bool.or_false]
  cases t with
  | win slot off => exact absurd rfl (ho.target slot off)
  | glb va => exact Bool.or_false _
  | rem c slot off => exact Bool.or_false _
  | host a => exact Bool.or_false _
  | shape off => exact Bool.or_false _

/-- The parts of an access put on their way, where it is known whether its context waits. -/
def State.launchParts (s : State) (q : MemReq) (cs : List Cut) (p asid : Nat) (blocks : Bool) : Res :=
  let posted := q.kind != .load && !blocks
  match (if posted then s.journalSlot s.cur else some 0) with
  | none => .hold
  | some e =>
    let part (c : Cut) (i : Nat) : Access := { s.onePart q c p asid (if posted then some e else none) with id := s.nonce + i }
    let u : State := { s with net := s.net ++ (cs.zip (List.range cs.length)).map (fun c => part c.1 c.2), nonce := s.nonce + cs.length }
    let u := if posted then u.takeJournal s.cur e else u
    let u : State := match posted, q.reg with
      | false, some r => u.setMycore { u.mycore with loads := u.mycore.loads ++ [{ pendingLoad u r q.ty with id := s.nonce }] }
      | _, _ => u
    if blocks then .wait (u.setMe { u.me with wait := .access s.nonce }) else .done u

theorem launchAccess_eq (s : State) (q : MemReq) (t : Tgt) (cs : List Cut) (p asid : Nat) :
    s.launchAccess q t cs p asid = s.launchParts q cs p asid (q.waited t cs) := rfl

/-- What is not posted leaves with its register pending; its context goes on, or waits for it. -/
theorem launchAccess_load {s : State} {q : MemReq} {t : Tgt} {d : Dest} {g : Reg} (ho : OneWay q t d)
    (hposted : (q.kind != .load && !(q.blocks t)) = false) (hreg : q.reg = some g) (hdata : q.data = 0) (cross : Bool) (p asid : Nat) :
    ∃ u : State, s.launchAccess q t [wholeCut q.size d cross] p asid =
        (if q.blocks t then .wait (u.setMe { s.me with wait := .access s.nonce }) else .done u) ∧
      u.cur = s.cur ∧ u.curCtx = s.curCtx ∧
      u.me = s.me ∧ u.mycore = { s.mycore with loads := s.mycore.loads ++ [pendingLoad s g q.ty] } ∧ sentAs s u d q.kind q.size 0 none := by
  let w : State := { s with net := s.net ++ [s.onePart q (wholeCut q.size d cross) p asid none], nonce := s.nonce + 1 }
  let u : State := w.setMycore { w.mycore with loads := w.mycore.loads ++ [pendingLoad s g q.ty] }
  have hme : u.me = s.me := w.me_setMycore rfl
  have hcore : u.mycore = { s.mycore with loads := s.mycore.loads ++ [pendingLoad s g q.ty] } := State.core_setCore_self w s.cur _
  refine ⟨u, ?_, rfl, rfl, hme, hcore, ⟨fun _ => rfl, fun _ => rfl, rfl⟩, ?_⟩
  · rw [launchAccess_eq, ho.waited cross]
    simp only [State.launchParts, hposted, Bool.false_eq_true, if_false, hreg]
    split
    · rw [← hme]; rfl
    · rfl
  · exact ⟨s.onePart q (wholeCut q.size d cross) p asid none, rfl, rfl, rfl, rfl, rfl, rfl, rfl, by
      show q.data / 256 ^ 0 % 256 ^ q.size = 0
      rw [hdata, Nat.zero_div, Nat.zero_mod], rfl, rfl, rfl, rfl, rfl⟩

/-- What is posted leaves with a journal entry, and its context goes on. -/
theorem launchAccess_store {s : State} {q : MemReq} {t : Tgt} {d : Dest} {e : Nat} (ho : OneWay q t d) (hk : (q.kind != .load) = true)
    (hblocks : q.blocks t = false) (he : s.journalSlot s.cur = some e) (cross : Bool) (p asid : Nat) :
    ∃ u : State, s.launchAccess q t [wholeCut q.size d cross] p asid = .done u ∧ u.me = s.me ∧ u.mycore.loads = s.mycore.loads ∧
      u.mycore.journal = insertSet e s.mycore.journal ∧ sentAs s u d q.kind q.size (q.data % 256 ^ q.size) (some e) := by
  let w : State := { s with net := s.net ++ [s.onePart q (wholeCut q.size d cross) p asid (some e)], nonce := s.nonce + 1 }
  let u : State := w.takeJournal s.cur e
  have hposted : (q.kind != .load && !false) = true := by rw [hk]; rfl
  have hme : u.me = s.me := w.me_setMycore (k := { s.mycore with journal := insertSet e s.mycore.journal }) rfl
  have hcore : u.mycore = { s.mycore with journal := insertSet e s.mycore.journal } := State.core_setCore_self w s.cur _
  refine ⟨u, ?_, hme, by rw [hcore], by rw [hcore], ⟨fun _ => rfl, fun _ => rfl, rfl⟩, ?_⟩
  · rw [launchAccess_eq, ho.waited cross, hblocks]
    simp only [State.launchParts, hposted, if_true, he]
    rfl
  · exact ⟨s.onePart q (wholeCut q.size d cross) p asid (some e), rfl, rfl, rfl, rfl, rfl, rfl, rfl, by
      show q.data / 256 ^ 0 % 256 ^ q.size = q.data % 256 ^ q.size
      rw [pow_zero, Nat.div_one], rfl, rfl, rfl, rfl, rfl⟩

/-! ### The way to an access's target (R174, R175) -/

/-- The state that an access which may write leaves from: its step cannot be rolled back (R314). -/
def State.leftBy (s : State) (writes : Bool) : State := if writes then s.noRoll s.cur else s

theorem launchesOnly_leftBy (s : State) (writes : Bool) : LaunchesOnly s (s.leftBy writes) := by
  unfold State.leftBy
  split
  · exact launchesOnly_noRoll s s.cur
  · exact launchesOnly_refl s

theorem setDirty_dirty {e : Tlb} (he : e.dirty = true) (s : State) (c p : Nat) : s.setDirty c p [e] = s := by
  simp only [State.setDirty, State.each, List.foldl_cons, List.foldl_nil, he, if_true]

/-- Whole bytes at a home that is there, with nothing in the way, leave. -/
theorem partsOk_whole {s : State} {va n a acc : Nat} {e : Tlb} (hticket : s.me.ticket = none) (habsent : s.hub.absent = [])
    (hdev : s.devOk a = true) (hbad : s.memBad a n = false) (tx cross bad : Bool) (p : Nat) (k : Res) :
    s.partsOk tx p va acc [wholeCut n (homeAt n a e) cross] bad k = k := by
  simp [State.partsOk, wholeCut, homeAt, hdev, habsent, hbad]
  intro _ h
  simp [State.undeclared, hticket] at h

theorem globalAccess_bytes {s : State} {q : MemReq} {va level a : Nat} {e : Tlb} (hn : PartSized q.size)
    (hb : bytesAt s va q.size level q.acc a e) (t : Tgt) (p : Nat) :
    s.globalAccess q t p va s.me.xlat.toNat level = (s.leftBy q.writes).launchAccess q t
      [wholeCut q.size (homeAt q.size a e) (homeDie (homeOf e a) != dieOf s.cur)] p (xlatAsid s.me.xlat.toNat) := by
  obtain ⟨htop, halign, hticket, habsent, htrans, hkind, hdirty, hdev, hbad⟩ := hb
  have hcuts : cutsOf s.cur va q.size ([(a, q.size)].zip [e]) =
      [wholeCut q.size (homeAt q.size a e) (homeDie (homeOf e a) != dieOf s.cur)] := cutsOf_aligned hn halign hkind
  unfold State.globalAccess State.withPages
  dsimp only
  rw [if_neg (Nat.not_lt.mpr htop), htrans]
  dsimp only
  rw [hcuts, partsOk_whole hticket habsent hdev hbad, setDirty_dirty hdirty]
  rfl

/-- What every request that leaves must pass: nothing of its context is in the way, and its pointer's space is one of its own (R175). -/
structure Passes (s : State) (q : MemReq) (p : Nat) : Prop where
  firm : s.me.unresolved = none
  pointer : displace q.base.toNat q.disp = some p
  space : q.spaces.contains (bits p 63 60) = true
  shape : q.writes = true → bits p 63 60 ≠ 4
  waits : s.mustWait q = false
  size : PartSized q.size
  aligned : p % 2 ^ 48 % q.size = 0
  align : q.align = 1 ∨ q.align = q.size

theorem Passes.off {s : State} {q : MemReq} {p : Nat} (hp : Passes s q p) : (p % 2 ^ 48 % q.align != 0) = false := by
  obtain h | h := hp.align
  · rw [h, Nat.mod_one]; rfl
  · rw [h, hp.aligned]; rfl

/-- What stands behind the checks of a pointer's space. -/
def State.memOpAt (s : State) (q : MemReq) (p : Nat) : Tgt → Res
  | .glb va =>
    if va % q.align != 0 then s.raiseAt p .misalign
    else if s.mustWait q then .hold
    else s.globalAccess q (.glb va) p va s.me.xlat.toNat s.me.level
  | .shape off =>
    if off % q.size != 0 then s.raiseAt p .misalign
    else s.globalAccess q (.shape off) p (bits (fieldB (s.recordOf s.cur) 8 8) 47 0 + off) s.me.xlat.toNat 1
  | .win slot off =>
    if off % q.align != 0 || decide (65536 < off + q.size) then s.raiseAt p .misalign
    else if s.mustWait q then .hold
    else if q.size = 512 then
      (match s.openSlot s.cur slot with
      | .error e => s.raiseAt p e slot
      | .ok _ => s.launchAccess q (.win slot off) (cutsTo off 512 false (fun o => .slot s.cur slot (off + o))) p 0)
    else s.windowAccess q p slot off
  | .rem d slot off =>
    if !s.reaches s.cur (clusterOf d) then s.raiseAt p .perm (pageDetail 0 false q.acc)
    else if off % q.align != 0 || decide (65536 < off + q.size) then s.raiseAt p .misalign
    else if s.mustWait q then .hold
    else
      let u := if q.writes && !((s.launchOf s.cur).map (s.inTeam · d)).getD true then s.noRoll s.cur else s
      if q.writes || !u.hub.absent.contains (dieOf d) then
        u.launchAccess q (.rem d slot off) (cutsTo off q.size (dieOf d != dieOf s.cur) (fun o => .slot d slot (off + o))) p 0
      else u.raiseAt p .dieAbsent (dieOf d)
  | .host a =>
    if q.scope.isSome && q.scope != some .sys then s.raise .illegal
    else if a % q.align != 0 then s.raiseAt p .misalign
    else if !s.hostOk s.cur then s.raiseAt p .perm (pageDetail 0 false q.acc)
    else
      match q.kind with
      | .atomic op ty _ _ _ =>
        let code := match op with | .add => 0 | .swap => 1 | .cas => 2 | _ => 3
        if code = 3 || !ty.isAtm || !Config.hostAtomic code ty.size then s.raiseAt p .hostAtomicUnsupported
        else if s.mustWait q then .hold
        else (s.noRoll s.cur).launchAccess q (.host a) (cutsTo a q.size false (fun o => .host (a + o))) p 0
      | _ =>
        if s.mustWait q then .hold
        else (s.leftBy q.writes).launchAccess q (.host a) (cutsTo a q.size false (fun o => .host (a + o))) p 0

theorem memOp_passes {s : State} {q : MemReq} {p : Nat} {t : Tgt} (hp : Passes s q p) (ht : s.resolve s.cur p = some t) :
    s.memOp q = s.memOpAt q p t := by
  have hshape : (q.writes && decide (bits p 63 60 = 4)) = false := by
    cases hw : q.writes with
    | false => rfl
    | true => simp [hp.shape hw]
  unfold State.memOp
  dsimp only
  rw [hp.pointer]
  dsimp only
  rw [hp.firm, hp.space, ht]
  simp only [Option.isSome_none, Bool.false_and, hshape, Bool.not_true, Bool.false_eq_true, if_false]
  cases t with
  | host a => unfold State.memOpAt; cases q.kind <;> rfl
  | glb va => rfl
  | win slot off => rfl
  | rem d slot off => rfl
  | shape off => rfl

/-- A request whose one part leaves for a destination whole, from a state that differs in the launches' bookkeeping at most. -/
def State.SendsTo (s : State) (q : MemReq) (t : Tgt) (d : Dest) : Prop :=
  OneWay q t d ∧ ∃ (u : State) (cross : Bool) (p asid : Nat), LaunchesOnly s u ∧
    s.memOp q = u.launchAccess q t [wholeCut q.size d cross] p asid

theorem PartSized.ne512 {n : Nat} (hn : PartSized n) : n ≠ 512 := by unfold PartSized at hn; omega

theorem PartSized.dvd {n : Nat} (hn : PartSized n) : n ∣ 65536 := by
  obtain rfl | rfl | rfl | rfl | rfl := hn <;> decide

theorem resolve_low {s : State} {c p : Nat} (hp : p < 2 ^ 48) : s.resolve c p = some (.glb p) ∧ bits p 63 60 = 0 ∧ p % 2 ^ 48 = p := by
  have h60 : bits p 63 60 = 0 := by unfold bits; omega
  have hown : bits p 59 48 = 0 := by unfold bits; omega
  have hmod : p % 2 ^ 48 = p := Nat.mod_eq_of_lt hp
  refine ⟨?_, h60, hmod⟩
  unfold State.resolve
  rw [h60, hown, bits_offset, hmod]
  rfl

/-- An access to space 0 (R174, R178). -/
theorem sends_glb {s : State} {q : MemReq} {p a : Nat} {e : Tlb} (hp : Passes s q p) (hlow : p < 2 ^ 48)
    (hb : bytesAt s p q.size s.me.level q.acc a e) : s.SendsTo q (.glb p) (homeAt q.size a e) := by
  obtain ⟨hres, -, hmod⟩ := resolve_low (s := s) (c := s.cur) hlow
  have hoff := hp.off
  rw [hmod] at hoff
  refine ⟨⟨nofun, nofun, hp.size.ne512⟩, s.leftBy q.writes, homeDie (homeOf e a) != dieOf s.cur, p, xlatAsid s.me.xlat.toNat, launchesOnly_leftBy s _, ?_⟩
  rw [memOp_passes hp hres, State.memOpAt, hoff, hp.waits, if_neg Bool.false_ne_true, if_neg Bool.false_ne_true]
  exact globalAccess_bytes hp.size hb _ _

/-- What a pointer of space 4 names. -/
theorem resolve_shape {s : State} {c p off : Nat} (h : s.resolve c p = some (.shape off)) : bits p 63 60 = 4 ∧ off = p % 2 ^ 48 := by
  rw [← bits_offset]
  unfold State.resolve at h
  dsimp only at h
  split at h
  all_goals first
    | (split at h <;> cases h <;> exact ⟨by assumption, rfl⟩)
    | cases h

/-- An access to the launch's shape record (R174). -/
theorem sends_shape {s : State} {q : MemReq} {p off a : Nat} {e : Tlb} (hp : Passes s q p) (hres : s.resolve s.cur p = some (.shape off))
    (hb : bytesAt s (bits (fieldB (s.recordOf s.cur) 8 8) 47 0 + off) q.size 1 q.acc a e) :
    s.SendsTo q (.shape off) (homeAt q.size a e) := by
  have hoff : (off % q.size != 0) = false := by rw [(resolve_shape hres).2, hp.aligned]; rfl
  refine ⟨⟨nofun, nofun, hp.size.ne512⟩, s.leftBy q.writes, homeDie (homeOf e a) != dieOf s.cur, p, xlatAsid s.me.xlat.toNat, launchesOnly_leftBy s _, ?_⟩
  rw [memOp_passes hp hres, State.memOpAt, hoff, if_neg Bool.false_ne_true]
  exact globalAccess_bytes hp.size hb _ _

/-- What a pointer of space 2 names. -/
theorem resolve_rem {s : State} {c p d slot off : Nat} (h : s.resolve c p = some (.rem d slot off)) :
    bits p 63 60 = 2 ∧ off = p % 2 ^ 48 % 65536 := by
  rw [← bits_offset]
  unfold State.resolve at h
  dsimp only at h
  split at h
  all_goals first
    | (split at h <;> cases h <;> exact ⟨by assumption, rfl⟩)
    | cases h

/-- An access to another core's window (R161, R174). -/
theorem sends_rem {s : State} {q : MemReq} {p d slot off : Nat} (hp : Passes s q p) (hres : s.resolve s.cur p = some (.rem d slot off))
    (hreach : s.reaches s.cur (clusterOf d) = true) (habsent : s.hub.absent = []) (hin : off + q.size ≤ 65536) :
    s.SendsTo q (.rem d slot off) (.slot d slot off) := by
  have hmod : off % q.size = 0 := by
    rw [(resolve_rem hres).2, Nat.mod_mod_of_dvd _ hp.size.dvd]
    exact hp.aligned
  have hoff : (off % q.align != 0) = false := by
    obtain h | h := hp.align
    · rw [h, Nat.mod_one]; rfl
    · rw [h, hmod]; rfl
  let u := if q.writes && !((s.launchOf s.cur).map (s.inTeam · d)).getD true then s.noRoll s.cur else s
  have hu : LaunchesOnly s u := by
    unfold u
    split
    · exact launchesOnly_noRoll s s.cur
    · exact launchesOnly_refl s
  have hthere : (q.writes || !u.hub.absent.contains (dieOf d)) = true := by
    obtain ⟨ls, hls⟩ := hu
    rw [hls]
    simp [habsent]
  refine ⟨⟨nofun, nofun, hp.size.ne512⟩, u, dieOf d != dieOf s.cur, p, 0, hu, ?_⟩
  rw [memOp_passes hp hres, State.memOpAt, hreach, hoff, hp.waits, decide_eq_false (Nat.not_lt.mpr hin)]
  dsimp only
  rw [if_neg (by decide), if_neg (by decide), if_neg (by decide), if_pos hthere, cutsTo_aligned hp.size hmod]
  rfl

theorem resolve_host {s : State} {c p : Nat} (hp : p / 2 ^ 48 = 0x3000) :
    s.resolve c p = some (.host (p % 2 ^ 48)) ∧ bits p 63 60 = 3 := by
  have h60 : bits p 63 60 = 3 := by unfold bits; omega
  have hown : bits p 59 48 = 0 := by unfold bits; omega
  refine ⟨?_, h60⟩
  unfold State.resolve
  rw [h60, hown, bits_offset]
  rfl

/-- A load or a store of host memory (R181). -/
theorem sends_host {s : State} {q : MemReq} {p : Nat} (hp : Passes s q p) (hspace : p / 2 ^ 48 = 0x3000) (hok : s.hostOk s.cur = true)
    (hscope : q.scope = none ∨ q.scope = some .sys) (hkind : q.kind = .load ∨ q.kind = .store) :
    s.SendsTo q (.host (p % 2 ^ 48)) (.host (p % 2 ^ 48)) := by
  obtain ⟨hres, -⟩ := resolve_host (s := s) (c := s.cur) hspace
  have hsc : (q.scope.isSome && q.scope != some .sys) = false := by obtain h | h := hscope <;> rw [h] <;> rfl
  refine ⟨⟨nofun, nofun, hp.size.ne512⟩, s.leftBy q.writes, false, p, 0, launchesOnly_leftBy s _, ?_⟩
  rw [memOp_passes hp hres, State.memOpAt, hsc, hp.off, hok]
  dsimp only
  obtain h | h := hkind
  all_goals
    rw [h]
    dsimp only
    rw [hp.waits, cutsTo_aligned hp.size hp.aligned]
    rfl

/-! ### What a load or a store of one part leaves -/

/-- A load that does not wait leaves its register pending. -/
theorem State.SendsTo.loadLeaves {h : Hdr} {i : Instr} {s : State} {q : MemReq} {t : Tgt} {d : Dest} {g : Reg} (hs : s.SendsTo q t d)
    (hexec : exec i s = (s.memOp q).out h s) (hk : q.kind = .load) (hreg : q.reg = some g) (hdata : q.data = 0)
    (hblocks : q.blocks t = false) : loadLeaves h s i d g q.ty q.size := by
  obtain ⟨ho, u, cross, p, asid, ⟨ls, rfl⟩, hmem⟩ := hs
  obtain ⟨v, hv, -, -, hme, hcore, hsent⟩ := launchAccess_load (s := { s with launches := ls }) ho (by rw [hk]; rfl) hreg hdata cross p asid
  rw [hk] at hsent
  refine ⟨v, ?_, hme, by rw [hcore]; rfl, hsent⟩
  rw [hexec, hmem, hv, hblocks]
  rfl

/-- A load that its context waits for. -/
theorem State.SendsTo.loadWaits {h : Hdr} {i : Instr} {s : State} {q : MemReq} {t : Tgt} {d : Dest} {g : Reg} (hs : s.SendsTo q t d)
    (hexec : exec i s = (s.memOp q).out h s) (hk : q.kind = .load) (hreg : q.reg = some g) (hdata : q.data = 0)
    (hblocks : q.blocks t = true) : loadWaits h s i d g q.ty q.size := by
  obtain ⟨ho, u, cross, p, asid, ⟨ls, rfl⟩, hmem⟩ := hs
  obtain ⟨v, hv, hcur, hctx, hme, hcore, hsent⟩ := launchAccess_load (s := { s with launches := ls }) ho (by rw [hk]; rfl) hreg hdata cross p asid
  rw [hk] at hsent
  refine ⟨v.setMe { s.me with wait := .access s.nonce }, ?_, v.me_setMe _, ?_, hsent⟩
  · rw [hexec, hmem, hv, hblocks]
    rfl
  · rw [v.mycore_setMe, hcore]
    rfl

/-- A store leaves with its journal entry. -/
theorem State.SendsTo.storeLeaves {h : Hdr} {i : Instr} {s : State} {q : MemReq} {t : Tgt} {d : Dest} {e : Nat} (hs : s.SendsTo q t d)
    (hexec : exec i s = (s.memOp q).out h s) (hk : q.kind = .store) (he : s.journalSlot s.cur = some e) :
    storeLeaves h s i d q.size q.data e := by
  obtain ⟨ho, u, cross, p, asid, ⟨ls, rfl⟩, hmem⟩ := hs
  obtain ⟨v, hv, hme, hloads, hjournal, hsent⟩ := launchAccess_store (s := { s with launches := ls }) ho (by rw [hk]; rfl) (by simp only [MemReq.blocks, hk]) he cross p asid
  rw [hk] at hsent
  exact ⟨v, by rw [hexec, hmem, hv]; rfl, hme, hloads, hjournal, hsent⟩

/-! ### The requests of loads and stores (R81, R176, R177) -/

theorem passes_load {s : State} {ty : ETy} {r base : SReg} {disp : BitVec 12} {spaces : List Nat} {p : Nat} (sc : Option Scope)
    (hun : s.me.unresolved = none) (hdisp : displace (s.me.rs base).toNat (dispBytes ty disp) = some p)
    (halign : p % 2 ^ 48 % ty.size = 0) (hspace : spaces.contains (bits p 63 60) = true) :
    Passes s (s.loadReq spaces ty r base disp sc) p :=
  { firm := hun, pointer := hdisp, space := hspace, shape := nofun, waits := rfl, size := partSized_size ty, aligned := halign
    align := by cases sc <;> simp [State.loadReq] }

theorem passes_store {s : State} {ty : ETy} {r base : SReg} {disp : BitVec 12} {spaces : List Nat} {p : Nat} {sc : Option Scope}
    (hun : s.me.unresolved = none) (hdisp : displace (s.me.rs base).toNat (dispBytes ty disp) = some p)
    (halign : p % 2 ^ 48 % ty.size = 0) (hspace : spaces.contains (bits p 63 60) = true) (h4 : bits p 63 60 ≠ 4)
    (hquiet : sc = none ∨ s.quiet s.cur s.curCtx = true) : Passes s (s.storeReq spaces ty r base disp sc) p :=
  { firm := hun, pointer := hdisp, space := hspace, shape := fun _ => h4, size := partSized_size ty, aligned := halign
    waits := by
      obtain rfl | h := hquiet
      · rfl
      · show (sc.isSome && !s.quiet s.cur s.curCtx) = false
        rw [h]; simp
    align := by cases sc <;> simp [State.storeReq] }

/-- A vector load's request. -/
def State.vloadReq (s : State) (x : OpVMem) : MemReq :=
  { spaces := [0, 1, 2, 4], base := s.me.rs x.base, disp := dispBytes x.ty x.disp, kind := .load, size := 64
    align := 64, data := 0, scope := none, acq := false, rel := false, reg := some (.v x.v.toNat), ty := x.ty }

/-- A vector store's request. -/
def State.vstoreReq (s : State) (x : OpVMem) : MemReq :=
  { spaces := [0, 1, 2], base := s.me.rs x.base, disp := dispBytes x.ty x.disp, kind := .store, size := 64
    align := 64, data := (s.me.rv x.v).toNat, scope := none, acq := false, rel := false, reg := none, ty := x.ty }

section
variable {s : State} {x : OpVMem} {p : Nat} (hun : s.me.unresolved = none)
  (hdisp : displace (s.me.rs x.base).toNat (dispBytes x.ty x.disp) = some p) (halign : p % 2 ^ 48 % 64 = 0)
include hun hdisp halign

theorem passes_vload (hspace : [0, 1, 2, 4].contains (bits p 63 60) = true) : Passes s (s.vloadReq x) p :=
  { firm := hun, pointer := hdisp, space := hspace, shape := nofun, waits := rfl, size := by simp [PartSized, State.vloadReq]
    aligned := halign, align := .inr rfl }

theorem passes_vstore (hspace : [0, 1, 2].contains (bits p 63 60) = true) (h4 : bits p 63 60 ≠ 4) : Passes s (s.vstoreReq x) p :=
  { firm := hun, pointer := hdisp, space := hspace, shape := fun _ => h4, waits := rfl, size := by simp [PartSized, State.vstoreReq]
    aligned := halign, align := .inr rfl }

end

/-! ### Prefetch (R182) -/

/-- The walks as a walker of a die takes the next of them. -/
theorem takeWalk_walks (s : State) (d : Nat) : ∃ (f : Walk → Walk) (hub : Hub), s.takeWalk d = { s with walks := s.walks.map f, hub := hub } ∧
    ∀ w, ∃ b, f w = { w with taken := b } := by
  have hsame : s = { s with walks := s.walks.map id, hub := s.hub } := by rw [List.map_id]
  unfold State.takeWalk
  split
  · split
    next w _ _ => exact ⟨fun v => if v.id == w.id then { v with taken := true } else v, _, rfl, fun v => by
      dsimp only; split <;> exact ⟨_, rfl⟩⟩
    · exact ⟨id, s.hub, hsame, fun w => ⟨w.taken, rfl⟩⟩
  · exact ⟨id, s.hub, hsame, fun w => ⟨w.taken, rfl⟩⟩

/-- A walk that a prefetch starts (R268). -/
theorem startWalk_effect (s : State) (c x va : Nat) (fetch pref : Bool) :
    (∃ nonce walks hub, s.startWalk c x va fetch pref = { s with nonce := nonce, walks := walks, hub := hub }) ∧
    (s.startWalk c x va fetch pref).walks.length = s.walks.length + 1 ∧
    ∃ w ∈ (s.startWalk c x va fetch pref).walks, w.core = c ∧ w.va = va ∧ w.pref = pref ∧ w.fault = none := by
  let w : Walk := { id := s.nonce, core := c, ctx := x, born := (s.ctx c x).born, asid := xlatAsid (s.ctx c x).xlat.toNat
                    root := xlatRoot (s.ctx c x).xlat.toNat, va := va, part := s.partOf c, seq := s.hub.invSeq
                    fetch := fetch, fault := none, pref := pref, taken := false }
  let u : State := { s with nonce := s.nonce + 1, walks := s.walks ++ [w] }
  have hstart : s.startWalk c x va fetch pref = u.takeWalk (dieOf c) := rfl
  obtain ⟨f, hub, ht, hf⟩ := takeWalk_walks u (dieOf c)
  obtain ⟨b, hb⟩ := hf w
  rw [hstart, ht]
  refine ⟨⟨_, _, _, rfl⟩, ?_, f w, ?_, ?_⟩
  · simp [u]
  · exact List.mem_map_of_mem (List.mem_append_right _ (List.mem_singleton.mpr rfl))
  · rw [hb]; exact ⟨rfl, rfl, rfl, rfl⟩

/-- What `prefetch` does. -/
theorem prefetch_effect (s : State) (va : Nat) :
    let asid := xlatAsid s.me.xlat.toNat
    let first := tlbHit s.mycore.l1 asid va
    let second := tlbHit (s.cluster (clusterOf s.cur)).l2 asid va
    let t := s.prefetch va
    t.me = s.me ∧ t.net = s.net ∧ MemoryKept s t ∧
      (first = none → second = none → t.mycore.l1 = s.mycore.l1 ∧ t.walks.length = s.walks.length + 1 ∧
        ∃ w ∈ t.walks, w.core = s.cur ∧ w.va = va ∧ w.pref = true ∧ w.fault = none) ∧
      (first.isSome = true → t.mycore.l1 = s.mycore.l1 ∧ t.walks = s.walks) ∧
      (∀ f, first = none → second = some f → t.mycore.l1 = tlbAdd 128 f s.mycore.l1 ∧ t.walks = s.walks) := by
  intro asid first second t
  have ht : t = match first, second with
    | some _, _ => s
    | none, some e => s.fillFirst s.cur e
    | none, none => s.startWalk s.cur s.curCtx va false true := by
      show s.prefetch va = _
      unfold State.prefetch
      rfl
  cases hfirst : first with
  | some e =>
    have h : t = s := by rw [ht, hfirst]
    rw [h]
    exact ⟨rfl, rfl, ⟨fun _ => rfl, fun _ => rfl, rfl⟩, nofun, fun _ => ⟨rfl, rfl⟩, nofun⟩
  | none =>
    cases hsecond : second with
    | some e =>
      have h : t = s.setMycore { s.mycore with l1 := tlbAdd 128 e s.mycore.l1 } := by rw [ht, hfirst, hsecond]; rfl
      rw [h]
      refine ⟨s.me_setMycore rfl, rfl, ⟨fun _ => rfl, fun _ => rfl, rfl⟩, nofun, nofun, fun f _ hf => ⟨?_, rfl⟩⟩
      obtain rfl := Option.some.inj hf
      exact congrArg Core.l1 (State.core_setCore_self s s.cur _)
    | none =>
      have h : t = s.startWalk s.cur s.curCtx va false true := by rw [ht, hfirst, hsecond]
      obtain ⟨⟨_, _, _, hrest⟩, hlen, hw⟩ := startWalk_effect s s.cur s.curCtx va false true
      rw [h]
      refine ⟨?_, ?_, ?_, fun _ _ => ⟨?_, hlen, hw⟩, nofun, nofun⟩
      · rw [hrest]; rfl
      · rw [hrest]
      · rw [hrest]; exact ⟨fun _ => rfl, fun _ => rfl, rfl⟩
      · rw [hrest]; rfl

/-- An instruction whose effect is one request of memory. -/
theorem exec_memOp {i : Instr} {h : Hdr} {s : State} {req : State → MemReq} (hi : s.issues h {} = true)
    (hexec : exec i s = issue h plain (fun s => s.memOp (req s)) s) : exec i s = (s.memOp (req s)).out h s := by
  rw [hexec]
  exact issue_issues h plain _ s hi

theorem blocks_load_near {s : State} {spaces : List Nat} {ty : ETy} {r base : SReg} {disp : BitVec 12} {t : Tgt} (sc : Option Scope)
    (ht : (∃ va, t = .glb va) ∨ ∃ off, t = .shape off) : (s.loadReq spaces ty r base disp sc).blocks t = sc.isSome := by
  obtain ⟨_, rfl⟩ | ⟨_, rfl⟩ := ht <;> exact Bool.or_false _

theorem blocks_load_far {s : State} {spaces : List Nat} {ty : ETy} {r base : SReg} {disp : BitVec 12} {t : Tgt} (sc : Option Scope)
    (ht : (∃ d slot off, t = .rem d slot off) ∨ ∃ a, t = .host a) : (s.loadReq spaces ty r base disp sc).blocks t = true := by
  obtain ⟨_, _, _, rfl⟩ | ⟨_, rfl⟩ := ht <;> exact Bool.or_true _

/-! ### Each instruction is its request (R176) -/

section
variable {h : Hdr} {s : State} (hi : s.issues h {} = true)
include hi

theorem exec_ld (x : OpLd) : exec (.ld h x) s = (s.memOp (s.loadReq [0, 1, 2, 4] x.ty x.r x.base x.disp none)).out h s :=
  exec_memOp (req := fun s => s.loadReq [0, 1, 2, 4] x.ty x.r x.base x.disp none) hi rfl

theorem exec_ldAcq (x : OpLdO) : exec (.ldAcq h x) s = (s.memOp (s.loadReq [0, 1, 2] x.ty x.r x.base x.disp (some x.sc))).out h s :=
  exec_memOp (req := fun s => s.loadReq [0, 1, 2] x.ty x.r x.base x.disp (some x.sc)) hi rfl

theorem exec_st (x : OpLd) : exec (.st h x) s = (s.memOp (s.storeReq [0, 1, 2] x.ty x.r x.base x.disp none)).out h s :=
  exec_memOp (req := fun s => s.storeReq [0, 1, 2] x.ty x.r x.base x.disp none) hi rfl

theorem exec_stRel (x : OpLdO) : exec (.stRel h x) s = (s.memOp (s.storeReq [0, 1, 2] x.ty x.r x.base x.disp (some x.sc))).out h s :=
  exec_memOp (req := fun s => s.storeReq [0, 1, 2] x.ty x.r x.base x.disp (some x.sc)) hi rfl

theorem exec_ldg (x : OpLd) : exec (.ldg h x) s = (s.memOp (s.loadReq [0] x.ty x.r x.base x.disp none)).out h s :=
  exec_memOp (req := fun s => s.loadReq [0] x.ty x.r x.base x.disp none) hi rfl

theorem exec_ldgAcq (x : OpLdO) : exec (.ldgAcq h x) s = (s.memOp (s.loadReq [0] x.ty x.r x.base x.disp (some x.sc))).out h s :=
  exec_memOp (req := fun s => s.loadReq [0] x.ty x.r x.base x.disp (some x.sc)) hi rfl

theorem exec_stg (x : OpLd) : exec (.stg h x) s = (s.memOp (s.storeReq [0] x.ty x.r x.base x.disp none)).out h s :=
  exec_memOp (req := fun s => s.storeReq [0] x.ty x.r x.base x.disp none) hi rfl

theorem exec_stgRel (x : OpLdO) : exec (.stgRel h x) s = (s.memOp (s.storeReq [0] x.ty x.r x.base x.disp (some x.sc))).out h s :=
  exec_memOp (req := fun s => s.storeReq [0] x.ty x.r x.base x.disp (some x.sc)) hi rfl

theorem exec_ldh (x : OpLd) : exec (.ldh h x) s = (s.memOp (s.loadReq [3] x.ty x.r x.base x.disp none)).out h s :=
  exec_memOp (req := fun s => s.loadReq [3] x.ty x.r x.base x.disp none) hi rfl

theorem exec_ldhAcq (x : OpLdO) : exec (.ldhAcq h x) s = (s.memOp (s.loadReq [3] x.ty x.r x.base x.disp (some x.sc))).out h s :=
  exec_memOp (req := fun s => s.loadReq [3] x.ty x.r x.base x.disp (some x.sc)) hi rfl

theorem exec_sth (x : OpLd) : exec (.sth h x) s = (s.memOp (s.storeReq [3] x.ty x.r x.base x.disp none)).out h s :=
  exec_memOp (req := fun s => s.storeReq [3] x.ty x.r x.base x.disp none) hi rfl

theorem exec_sthRel (x : OpLdO) : exec (.sthRel h x) s = (s.memOp (s.storeReq [3] x.ty x.r x.base x.disp (some x.sc))).out h s :=
  exec_memOp (req := fun s => s.storeReq [3] x.ty x.r x.base x.disp (some x.sc)) hi rfl

theorem exec_vld (x : OpVMem) : exec (.vld h x) s = (s.memOp (s.vloadReq x)).out h s := exec_memOp (req := fun s => s.vloadReq x) hi rfl

theorem exec_vst (x : OpVMem) : exec (.vst h x) s = (s.memOp (s.vstoreReq x)).out h s := exec_memOp (req := fun s => s.vstoreReq x) hi rfl

end

section
variable {h : Hdr} {ty : ETy} {r base : SReg} {disp : BitVec 12} {s : State} {p : Nat} (hi : s.issues h {} = true)
  (hun : s.me.unresolved = none) (hdisp : displace (s.me.rs base).toNat (dispBytes ty disp) = some p) (halign : p % 2 ^ 48 % ty.size = 0)
include hi hun hdisp halign

/-- Loads of space 0 (R176, R179). -/
theorem loads_glb {a : Nat} {t : Tlb} (sc : Scope) (hlow : p < 2 ^ 48) (hb : bytesAt s p ty.size s.me.level 0 a t) :
    let d := homeAt ty.size a t
    let x : OpLd := { ty := ty, r := r, base := base, disp := disp }
    let y : OpLdO := { ty := ty, r := r, sc := sc, base := base, disp := disp }
    loadLeaves h s (.ld h x) d (.s r.toNat) ty ty.size ∧ loadLeaves h s (.ldg h x) d (.s r.toNat) ty ty.size ∧
      loadWaits h s (.ldAcq h y) d (.s r.toNat) ty ty.size ∧ loadWaits h s (.ldgAcq h y) d (.s r.toNat) ty ty.size := by
  intro d x y
  have h60 := (resolve_low (s := s) (c := s.cur) hlow).2.1
  have hld (spaces) (sc) (hs : spaces.contains 0 = true) :=
    sends_glb (passes_load (r := r) (spaces := spaces) sc hun hdisp halign (by rw [h60]; exact hs)) hlow hb
  exact ⟨(hld [0, 1, 2, 4] none rfl).loadLeaves (exec_ld hi x) rfl rfl rfl (blocks_load_near _ (.inl ⟨_, rfl⟩)),
    (hld [0] none rfl).loadLeaves (exec_ldg hi x) rfl rfl rfl (blocks_load_near _ (.inl ⟨_, rfl⟩)),
    (hld [0, 1, 2] (some sc) rfl).loadWaits (exec_ldAcq hi y) rfl rfl rfl (blocks_load_near _ (.inl ⟨_, rfl⟩)),
    (hld [0] (some sc) rfl).loadWaits (exec_ldgAcq hi y) rfl rfl rfl (blocks_load_near _ (.inl ⟨_, rfl⟩))⟩

/-- Stores to space 0 (R176, R180). -/
theorem stores_glb {a : Nat} {t : Tlb} (sc : Scope) (hlow : p < 2 ^ 48) (hb : bytesAt s p ty.size s.me.level 1 a t) :
    let d := homeAt ty.size a t
    let x : OpLd := { ty := ty, r := r, base := base, disp := disp }
    let y : OpLdO := { ty := ty, r := r, sc := sc, base := base, disp := disp }
    let stores : Instr → Prop := fun i => ∀ e, s.journalSlot s.cur = some e → storeLeaves h s i d ty.size (codeS s.me ty r) e
    stores (.st h x) ∧ stores (.stg h x) ∧ (s.quiet s.cur s.curCtx = true → stores (.stRel h y)) ∧
      (s.quiet s.cur s.curCtx = true → stores (.stgRel h y)) := by
  intro d x y stores
  have h60 := (resolve_low (s := s) (c := s.cur) hlow).2.1
  have hst (spaces) (sc) (hs : spaces.contains 0 = true) (hq : sc = none ∨ s.quiet s.cur s.curCtx = true) :=
    sends_glb (passes_store (r := r) (spaces := spaces) hun hdisp halign (by rw [h60]; exact hs) (by rw [h60]; decide) hq) hlow hb
  exact ⟨fun e he => (hst [0, 1, 2] none rfl (.inl rfl)).storeLeaves (exec_st hi x) rfl he,
    fun e he => (hst [0] none rfl (.inl rfl)).storeLeaves (exec_stg hi x) rfl he,
    fun hq e he => (hst [0, 1, 2] (some sc) rfl (.inr hq)).storeLeaves (exec_stRel hi y) rfl he,
    fun hq e he => (hst [0] (some sc) rfl (.inr hq)).storeLeaves (exec_stgRel hi y) rfl he⟩

/-- Loads and stores of another core's window (R161, R179). -/
theorem accesses_rem {d slot off : Nat} (sc : Scope) (hres : s.resolve s.cur p = some (.rem d slot off))
    (hreach : s.reaches s.cur (clusterOf d) = true) (habsent : s.hub.absent = []) (hin : off + ty.size ≤ 65536) :
    let x : OpLd := { ty := ty, r := r, base := base, disp := disp }
    let y : OpLdO := { ty := ty, r := r, sc := sc, base := base, disp := disp }
    let stores : Instr → Prop := fun i =>
      ∀ e, s.journalSlot s.cur = some e → storeLeaves h s i (.slot d slot off) ty.size (codeS s.me ty r) e
    loadWaits h s (.ld h x) (.slot d slot off) (.s r.toNat) ty ty.size ∧ loadWaits h s (.ldAcq h y) (.slot d slot off) (.s r.toNat) ty ty.size ∧
      stores (.st h x) ∧ (s.quiet s.cur s.curCtx = true → stores (.stRel h y)) := by
  intro x y stores
  obtain ⟨h60, -⟩ := resolve_rem hres
  have hld (spaces) (sc) (hs : spaces.contains 2 = true) :=
    sends_rem (passes_load (r := r) (spaces := spaces) sc hun hdisp halign (by rw [h60]; exact hs)) hres hreach habsent hin
  have hst (sc) (hq : sc = none ∨ s.quiet s.cur s.curCtx = true) :=
    sends_rem (passes_store (r := r) (spaces := [0, 1, 2]) hun hdisp halign (by rw [h60]; rfl) (by rw [h60]; decide) hq) hres hreach
      habsent hin
  exact ⟨(hld [0, 1, 2, 4] none rfl).loadWaits (exec_ld hi x) rfl rfl rfl (blocks_load_far _ (.inl ⟨_, _, _, rfl⟩)),
    (hld [0, 1, 2] (some sc) rfl).loadWaits (exec_ldAcq hi y) rfl rfl rfl (blocks_load_far _ (.inl ⟨_, _, _, rfl⟩)),
    fun e he => (hst none (.inl rfl)).storeLeaves (exec_st hi x) rfl he,
    fun hq e he => (hst (some sc) (.inr hq)).storeLeaves (exec_stRel hi y) rfl he⟩

/-- A load of the launch's shape record (R174). -/
theorem loads_shape {off a : Nat} {t : Tlb} (hres : s.resolve s.cur p = some (.shape off))
    (hb : bytesAt s (bits (fieldB (s.recordOf s.cur) 8 8) 47 0 + off) ty.size 1 0 a t) :
    loadLeaves h s (.ld h { ty := ty, r := r, base := base, disp := disp }) (homeAt ty.size a t) (.s r.toNat) ty ty.size := by
  have h60 := (resolve_shape hres).1
  exact (sends_shape (passes_load (r := r) (spaces := [0, 1, 2, 4]) none hun hdisp halign (by rw [h60]; rfl)) hres hb).loadLeaves
    (exec_ld hi { ty := ty, r := r, base := base, disp := disp }) rfl rfl rfl (blocks_load_near _ (.inr ⟨_, rfl⟩))

/-- Loads and stores of host memory (R181). -/
theorem accesses_host (sc : Scope) (hspace : p / 2 ^ 48 = 0x3000) (hok : s.hostOk s.cur = true) :
    let d := Dest.host (p % 2 ^ 48)
    let x : OpLd := { ty := ty, r := r, base := base, disp := disp }
    let y : OpLdO := { ty := ty, r := r, sc := sc, base := base, disp := disp }
    let stores : Instr → Prop := fun i => ∀ e, s.journalSlot s.cur = some e → storeLeaves h s i d ty.size (codeS s.me ty r) e
    loadWaits h s (.ldh h x) d (.s r.toNat) ty ty.size ∧ stores (.sth h x) ∧
      (sc = .sys → loadWaits h s (.ldhAcq h y) d (.s r.toNat) ty ty.size ∧ (s.quiet s.cur s.curCtx = true → stores (.sthRel h y))) := by
  intro d x y stores
  obtain ⟨-, h60⟩ := resolve_host (s := s) (c := s.cur) hspace
  have hld (sc : Option Scope) (hsc : sc = none ∨ sc = some .sys) :=
    sends_host (passes_load (r := r) (spaces := [3]) sc hun hdisp halign (by rw [h60]; rfl)) hspace hok hsc (.inl rfl)
  have hst (sc : Option Scope) (hsc : sc = none ∨ sc = some .sys) (hq : sc = none ∨ s.quiet s.cur s.curCtx = true) :=
    sends_host (passes_store (r := r) (spaces := [3]) hun hdisp halign (by rw [h60]; rfl) (by rw [h60]; decide) hq) hspace hok hsc
      (.inr rfl)
  refine ⟨(hld none (.inl rfl)).loadWaits (exec_ldh hi x) rfl rfl rfl (blocks_load_far _ (.inr ⟨_, rfl⟩)),
    fun e he => (hst none (.inl rfl) (.inl rfl)).storeLeaves (exec_sth hi x) rfl he, fun hsys => ?_⟩
  have hsc : some sc = some Scope.sys := congrArg some hsys
  exact ⟨(hld (some sc) (.inr hsc)).loadWaits (exec_ldhAcq hi y) rfl rfl rfl (blocks_load_far _ (.inr ⟨_, rfl⟩)),
    fun hq e he => (hst (some sc) (.inr hsc) (.inr hq)).storeLeaves (exec_sthRel hi y) rfl he⟩

end

/-- What a pointer of space 0 or 3 without an owner names. -/
theorem resolve_flat {s : State} {c p : Nat} (hp : p / 2 ^ 48 = 0 ∨ p / 2 ^ 48 = 0x3000) :
    s.resolve c p = if p / 2 ^ 48 = 0 then some (.glb (p % 2 ^ 48)) else some (.host (p % 2 ^ 48)) := by
  obtain h | h := hp
  · rw [if_pos h]
    have hlow : p < 2 ^ 48 := by omega
    rw [(resolve_low hlow).1, (resolve_low (s := s) (c := c) hlow).2.2]
  · rw [if_neg (by omega), (resolve_host h).1]

theorem resolve_glb {s : State} {c p va : Nat} (h : s.resolve c p = some (.glb va)) : va = p % 2 ^ 48 := by
  rw [← bits_offset]
  unfold State.resolve at h
  dsimp only at h
  split at h
  all_goals first
    | (split at h <;> cases h <;> rfl)
    | cases h

theorem resolve_hostOff {s : State} {c p a : Nat} (h : s.resolve c p = some (.host a)) : a = p % 2 ^ 48 := by
  rw [← bits_offset]
  unfold State.resolve at h
  dsimp only at h
  split at h
  all_goals first
    | (split at h <;> cases h <;> rfl)
    | cases h

/-- A prefetch that issues. -/
theorem pref_effect {h : Hdr} {z : OpPref} {s : State} {p : Nat} (hi : s.issues h {} = true)
    (hdisp : displace (s.me.rs z.base).toNat (dispBytes z.ty z.disp) = some p) :
    ∃ t, exec (.pref h z) s = .next (t.goOn h) ∧ (t = s ∨ t = s.prefetch (p % 2 ^ 48)) ∧
      (p / 2 ^ 48 = 0 ∨ p / 2 ^ 48 = 0x3000 → t = s.prefetch (p % 2 ^ 48)) := by
  have hexec (t : State) (ht : (match s.resolve s.cur p with
      | some (.glb va) => Res.done (s.prefetch va)
      | some (.host a) => .done (s.prefetch a)
      | _ => .done s) = .done t) : exec (.pref h z) s = .next (t.goOn h) := by
    simp only [exec, execPref]
    exact issue_done hi (by rw [hdisp]; exact ht)
  cases hres : s.resolve s.cur p with
  | none => exact ⟨s, hexec s (by rw [hres]), .inl rfl, fun hspace => absurd hres (by rw [resolve_flat hspace]; split <;> nofun)⟩
  | some tgt =>
    have hflat (hspace : p / 2 ^ 48 = 0 ∨ p / 2 ^ 48 = 0x3000) := (resolve_flat (s := s) (c := s.cur) hspace).symm.trans hres
    cases tgt with
    | glb va =>
      obtain rfl := resolve_glb hres
      exact ⟨_, hexec _ (by rw [hres]), .inr rfl, fun _ => rfl⟩
    | host a =>
      obtain rfl := resolve_hostOff hres
      exact ⟨_, hexec _ (by rw [hres]), .inr rfl, fun _ => rfl⟩
    | win slot off => exact ⟨s, hexec s (by rw [hres]), .inl rfl, fun hspace => absurd (hflat hspace) (by split <;> nofun)⟩
    | rem d slot off => exact ⟨s, hexec s (by rw [hres]), .inl rfl, fun hspace => absurd (hflat hspace) (by split <;> nofun)⟩
    | shape off => exact ⟨s, hexec s (by rw [hres]), .inl rfl, fun hspace => absurd (hflat hspace) (by split <;> nofun)⟩

/-- Settles O39: each request passes its checks (`passes_load`, `passes_store`), its one part is sent to its destination (`sends_glb`,
`sends_shape`, `sends_rem`, `sends_host`), and what is sent leaves as a load or a store does; prefetch is `prefetch_effect`. -/
theorem globalAndHostAccesses : Obligations.GlobalAndHostAccesses := by
  unfold Obligations.GlobalAndHostAccesses
  refine ⟨fun h ty r base disp sc s p hi hun hdisp halign => ?_, fun h v s p hi hun hdisp halign => ?_⟩
  · intro x y loads waits stores releases
    refine ⟨fun a t hlow hb => ?_, fun d slot off hres hreach habsent hin => accesses_rem hi hun hdisp halign sc hres hreach habsent hin,
      fun off a t hres hb => loads_shape hi hun hdisp halign hres hb, fun hspace hok => accesses_host hi hun hdisp halign sc hspace hok, ?_⟩
    · obtain ⟨h1, h2, h3, h4⟩ := loads_glb (r := r) hi hun hdisp halign sc hlow (hb 0 (by decide))
      exact ⟨h1, h2, h3, h4, stores_glb hi hun hdisp halign sc hlow (hb 1 (by decide))⟩
    · intro z va asid first second
      obtain ⟨t, ht, hor, hpref⟩ := pref_effect (z := z) hi hdisp
      obtain ⟨hme, hnet, hmem, hwalk⟩ := prefetch_effect s va
      refine ⟨t, ht, ?_, ?_, ?_, fun hspace => ?_⟩
      · obtain rfl | rfl := hor
        · rfl
        · exact hme
      · obtain rfl | rfl := hor
        · rfl
        · exact hnet
      · obtain rfl | rfl := hor
        · exact ⟨fun _ => rfl, fun _ => rfl, rfl⟩
        · exact hmem
      · rw [hpref hspace]; exact hwalk
  · intro stores
    refine ⟨fun a t hlow hb => ?_, fun d slot off hres hreach habsent => ?_, fun off a t hres hb => ?_⟩
    · obtain ⟨-, h60, -⟩ := resolve_low (s := s) (c := s.cur) hlow
      exact ⟨(sends_glb (passes_vload hun hdisp halign (by rw [h60]; rfl)) hlow (hb 0 (by decide))).loadLeaves
          (exec_vld hi v) rfl rfl rfl rfl,
        fun e he => (sends_glb (passes_vstore hun hdisp halign (by rw [h60]; rfl) (by rw [h60]; decide)) hlow (hb 1 (by decide))).storeLeaves
          (exec_vst hi v) rfl he⟩
    · obtain ⟨h60, hoff⟩ := resolve_rem hres
      have hin : off + 64 ≤ 65536 := by omega
      exact ⟨(sends_rem (passes_vload hun hdisp halign (by rw [h60]; rfl)) hres hreach habsent hin).loadWaits
          (exec_vld hi v) rfl rfl rfl rfl,
        fun e he => (sends_rem (passes_vstore hun hdisp halign (by rw [h60]; rfl) (by rw [h60]; decide)) hres hreach habsent hin).storeLeaves
          (exec_vst hi v) rfl he⟩
    · have h60 := (resolve_shape hres).1
      exact (sends_shape (passes_vload hun hdisp halign (by rw [h60]; rfl)) hres hb).loadLeaves
        (exec_vld hi v) rfl rfl rfl rfl

end Sys2Proof.Machine
end

section
/-!
O40: the journey of an access. Its arrival is one of a buffer or of a destination; its end is an acknowledgement, a value or a refusal.
-/

namespace Sys2Proof.Machine

open Sys2Proof

/-! ### Bytes that a write does not store, in any memory -/

theorem Memory.byte_set_ne (m : Memory) {a b : Nat} (v : Byte) (hb : b ≠ a) : (m.set a v).byte b = m.byte b := by
  induction m with
  | nil =>
    unfold Memory.set
    split
    · rfl
    · exact if_neg (Ne.symm hb)
  | cons c m ih =>
    unfold Memory.set
    split
    · split
      · rfl
      · exact if_neg (Ne.symm hb)
    · split
      next hc =>
        have hskip : Memory.byte (c :: m) b = Memory.byte m b := if_neg (by omega)
        split
        · exact hskip.symm
        · exact (if_neg (Ne.symm hb)).trans hskip.symm
      · unfold Memory.byte
        split
        · rfl
        · exact ih

theorem Memory.byte_write_out (m : Memory) (a n v : Nat) {b : Nat} (hb : b < a ∨ a + n ≤ b) : (m.write a n v).byte b = m.byte b := by
  induction n generalizing m a v with
  | zero => rfl
  | succ n ih =>
    rw [Memory.write, ih _ _ _ (by omega)]
    exact Memory.byte_set_ne m _ (by omega)

/-! ### The accesses under way -/

theorem State.id_of_access? {s : State} {id : Nat} {a : Access} (ha : s.access? id = some a) : a.id = id := by
  simpa using List.find?_some ha

/-- An access replaced is the one found under its number. -/
theorem State.access?_setAccess {s : State} {id : Nat} {a b : Access} (ha : s.access? id = some a) (hb : b.id = a.id) :
    (s.setAccess b).access? id = some b := by
  have hid := State.id_of_access? ha
  unfold State.access? State.setAccess at *
  dsimp only
  generalize s.net = ns at ha
  induction ns with
  | nil => cases ha
  | cons n ns ih =>
    by_cases hn : n.id = id
    · simp [hb, hid, hn]
    · rw [List.find?_cons_of_neg (by simpa using hn)] at ha
      rw [List.map_cons, List.find?_cons_of_neg]
      · exact ih ha
      · rw [if_neg (by rw [hb, hid]; simpa using hn)]
        simpa using hn

/-! ### Values (R58, R131) -/

/-- A scalar register of a load written, and the context that waits for it gone on. -/
theorem scalar_written (u : State) (c x : Nat) (i : SReg) (ty : ETy) (v : Nat) :
    let w := u.writeReg c x (.s i.toNat) ty v
    MemoryKept u w ∧ w.net = u.net ∧ w.ctx c x = (u.ctx c x).ws i (widen ty v) := by
  intro w
  have hrest := u.countUnits_rest c x [.s i.toNat]
  obtain ⟨us, hus⟩ := u.core_countUnits c x [.s i.toNat]
  have hctx : (u.countUnits c x [.s i.toNat]).ctx c x = u.ctx c x := by rw [State.ctx, hus]; rfl
  have hw : w = (u.countUnits c x [.s i.toNat]).setCtx c x ((u.ctx c x).ws i (widen ty v)) := by
    have hi : BitVec.ofNat 5 i.toNat = i := by simp
    show (u.countUnits c x [.s i.toNat]).setCtx c x
      (((u.countUnits c x [.s i.toNat]).ctx c x).ws (BitVec.ofNat 5 i.toNat) (widen ty v)) = _
    rw [hi, hctx]
  have hmem := congrArg State.mem hrest
  have hbanks := congrArg State.banks hrest
  have htags := congrArg State.tags hrest
  have hnet := congrArg State.net hrest
  rw [hw]
  exact ⟨⟨fun b => congrArg (Memory.byte · b) hmem, fun b => congrArg (Memory.byte · b) hbanks, htags⟩, hnet, State.ctx_setCtx_self _ _ _ _⟩

/-- What the whole value of an access leaves, where a load of a scalar register waits for it. -/
theorem deliver_scalar {s : State} {a : Access} {l : Load} {i : SReg} (halive : s.aliveFor a = true)
    (hload : (s.core a.core).loads.find? (·.id == a.group) = some l) (hreg : l.reg = .s i.toNat) (v : Nat) :
    let k := s.ctx a.core a.ctx
    ∃ t : State, s.deliver a v = some t ∧ MemoryKept s t ∧ t.net = s.net ∧
      (t.ctx a.core a.ctx).rs i = (if i = 0 then 0 else widen l.ty v) ∧ RegsKept [.s i.toNat] k (t.ctx a.core a.ctx) ∧
      (k.wait = .access a.group → (t.ctx a.core a.ctx).wait = .none ∧ (t.ctx a.core a.ctx).pc = (k.pc + 12) % 2 ^ 48) ∧
      (k.wait ≠ .access a.group → (t.ctx a.core a.ctx).wait = k.wait ∧ (t.ctx a.core a.ctx).pc = k.pc) := by
  intro k
  let u := s.dropLoad a.core a.group
  let w := u.writeReg a.core a.ctx (.s i.toNat) l.ty v
  have hdeliver : s.deliver a v = some (if k.wait == .access a.group then w.finishWait a.core a.ctx else w) := by
    unfold State.deliver
    simp only [halive, Bool.not_true, Bool.false_eq_true, if_false, hload, hreg]
    rfl
  have huctx : u.ctx a.core a.ctx = k := by
    have hcore : u.core a.core = { s.core a.core with loads := (s.core a.core).loads.filter (·.id != a.group) } := State.core_setCore_self _ _ _
    rw [State.ctx, hcore]
    rfl
  obtain ⟨hmem, hnet, hctx⟩ := scalar_written u a.core a.ctx i l.ty v
  rw [huctx] at hctx
  obtain ⟨hkept, hbeside⟩ := k.ws_kept i (widen l.ty v)
  have hvalue : (k.ws i (widen l.ty v)).rs i = if i = 0 then 0 else widen l.ty v := by rw [Ctx.rs_ws, if_pos rfl]
  by_cases hwait : k.wait = .access a.group
  · have hfin : (w.finishWait a.core a.ctx).ctx a.core a.ctx = { k.ws i (widen l.ty v) with
        pc := ((k.ws i (widen l.ty v)).pc + 12) % 2 ^ 48, wait := .none, finish := none
        stall := (w.core a.core).cc + 1 + (k.ws i (widen l.ty v)).finish.getD 0 } := by
      rw [State.finishWait, State.ctx_setCtx_self, hctx]
    refine ⟨w.finishWait a.core a.ctx, ?_, hmem, hnet, ?_, ?_, fun _ => ?_, fun h => absurd hwait h⟩
    · rw [hdeliver, if_pos (by simpa using hwait)]
    · rw [hfin]; exact hvalue
    · rw [hfin]; exact hkept
    · rw [hfin, Ctx.pc_ws]; exact ⟨rfl, rfl⟩
  · refine ⟨w, ?_, hmem, hnet, ?_, ?_, fun h => absurd h hwait, fun _ => ?_⟩
    · rw [hdeliver, if_neg (by simpa using hwait)]
    · rw [hctx]; exact hvalue
    · rw [hctx]; exact hkept
    · rw [hctx, Ctx.pc_ws]; exact ⟨by unfold Ctx.ws; split <;> rfl, rfl⟩

/-- What the value of a part leaves (R129): it joins the others', or the last one's gives the whole. -/
theorem giveValue_effect {s : State} {a : Access} {id : Nat} (ha : s.access? id = some a) (v : Nat) :
    let k := s.ctx a.core a.ctx
    let rest := (s.dropAccess id).net.find? (·.group == a.group)
    (∀ b, rest = some b → s.giveValue a v = some ((s.dropAccess id).setAccess
        { b with got := b.got + (a.got + v * 256 ^ a.at_), told := b.told || a.told })) ∧
    ∀ (l : Load) (i : SReg), rest = none → (s.core a.core).loads.find? (·.id == a.group) = some l → l.reg = .s i.toNat →
      s.aliveFor a = true →
      ∃ t : State, s.giveValue a v = some t ∧ MemoryKept s t ∧ t.net = s.net.filter (·.id != id) ∧
        (t.ctx a.core a.ctx).rs i = (if i = 0 then 0 else widen l.ty (a.got + v * 256 ^ a.at_)) ∧
        RegsKept [.s i.toNat] k (t.ctx a.core a.ctx) ∧
        (k.wait = .access a.group → (t.ctx a.core a.ctx).wait = .none ∧ (t.ctx a.core a.ctx).pc = (k.pc + 12) % 2 ^ 48) ∧
        (k.wait ≠ .access a.group → (t.ctx a.core a.ctx).wait = k.wait ∧ (t.ctx a.core a.ctx).pc = k.pc) := by
  intro k rest
  have hgive : s.giveValue a v = match rest with
      | some b => some ((s.dropAccess id).setAccess { b with got := b.got + (a.got + v * 256 ^ a.at_), told := b.told || a.told })
      | none => (s.dropAccess id).deliver a (a.got + v * 256 ^ a.at_) := by
    unfold State.giveValue rest
    rw [State.id_of_access? ha] <;> rfl
  refine ⟨fun b hb => by rw [hgive, hb], fun l i hnone hload hreg halive => ?_⟩
  rw [hgive, hnone]
  exact deliver_scalar (s := s.dropAccess id) halive hload hreg _

/-! ### Buffers and destinations (R129, R145) -/

/-- What may be performed does not enter a buffer any more. -/
theorem mayEnter_of_mayArrive {s : State} {a : Access} (h : s.mayArrive a = true) : s.mayEnter a = false := by
  unfold State.mayArrive at h
  unfold State.mayEnter
  cases hc : a.crossDie with
  | false => simp
  | true =>
    cases hb : a.bridged with
    | none => simp [hc, hb] at h
    | some n => simp

theorem exec_arrival {s : State} {id : Nat} {a : Access} (ha : s.access? id = some a) (h : s.mayArrive a = true) :
    exec (.accessArrival id) s = .next (s.performAt a) := by
  have harrive : s.arrive a = s.performAt a := by rw [State.arrive, mayEnter_of_mayArrive h, if_neg (by decide), if_pos h]
  simp only [exec, execAccessArrival, ha, harrive]

theorem exec_enter {s : State} {id : Nat} {a : Access} (ha : s.access? id = some a) (h : s.mayEnter a = true) :
    exec (.accessArrival id) s = .next (s.enterBuffer a) := by
  have harrive : s.arrive a = s.enterBuffer a := if_pos h
  simp only [exec, execAccessArrival, ha, harrive]

/-- Charges change the partitions only. -/
theorem State.charges_rest {α : Type} (s : State) (xs : List α) (p : α → Bool) (part : Nat) (i units : α → Nat) :
    ∃ ps, s.each xs (fun s x => if p x then s.charge part (i x) (units x) else s) = { s with parts := ps } := by
  refine State.each_ind (P := fun t => ∃ ps, t = { s with parts := ps }) ?_ ⟨_, rfl⟩ xs
  rintro _ x ⟨ps, rfl⟩
  split <;> exact ⟨_, rfl⟩

/-- An access performed at its home agent, which is there. -/
theorem performAt_home {s : State} {a : Access} {q n : Nat} {hs : List Nat} (hd : a.dest = .dev [(q, n)] hs) (habsent : s.hub.absent = [])
    (hcut : s.cutOff a = false) (hbad : (a.kind != .load) = false → s.memBad q n = false) (hkind : ∀ op t m c d, a.kind ≠ .atomic op t m c d) :
    ∃ ps, s.performAt a = State.setAccess { (s.atHome [(q, n)] a.kind a.data).2 with parts := ps }
      { a with performed := true, value := (s.atHome [(q, n)] a.kind a.data).1 } := by
  have hbad' : (a.kind != .store && [(q, n)].any (fun g => s.memBad g.1 g.2)) = false := by
    cases hk : a.kind with
    | store => rfl
    | load => simp [hbad (by rw [hk]; rfl)]
    | atomic op t m c d => exact absurd hk (hkind op t m c d)
  obtain ⟨ps, hps⟩ := State.charges_rest (s.atHome [(q, n)] a.kind a.data).2 ([(q, n)].zip hs) (fun p => decide (p.2 < 512)) a.part
    (fun p => 2 + homeDie p.2) (fun p => cdiv p.1.2 64)
  simp only [decide_eq_true_eq] at hps
  refine ⟨ps, ?_⟩
  unfold State.performAt
  rw [if_neg (by rw [hcut]; decide)]
  simp only [hd]
  rw [hbad', habsent, hps]
  simp

/-- A store performed at its home agent. -/
theorem arrival_store {s : State} {id : Nat} {a : Access} {q n : Nat} {hs : List Nat} (ha : s.access? id = some a)
    (hmay : s.mayArrive a = true) (hd : a.dest = .dev [(q, n)] hs) (habsent : s.hub.absent = []) (hcut : s.cutOff a = false)
    (hk : a.kind = .store) :
    ∃ t : State, exec (.accessArrival id) s = .next t ∧ t.cores = s.cores ∧ t.banks = s.banks ∧
      t.mem = s.mem.write q n (a.data % 256 ^ n) ∧ (∀ b, b < q ∨ q + n ≤ b → t.mem.byte b = s.mem.byte b) ∧
      t.access? id = some { a with performed := true, value := 0 } := by
  obtain ⟨ps, hperform⟩ := performAt_home hd habsent hcut (fun h => by rw [hk] at h; cases h) (fun op t m c d h => by rw [hk] at h; cases h)
  have hhome : s.atHome [(q, n)] a.kind a.data = (0, s.devWrite q n (a.data % 256 ^ n)) := by rw [hk]; rfl
  obtain ⟨bad, hub, hw⟩ := s.devWrite_rest q n (a.data % 256 ^ n)
  rw [hhome, hw] at hperform
  refine ⟨_, (exec_arrival ha hmay).trans (congrArg _ hperform), rfl, rfl, rfl, fun b hb => ?_, ?_⟩
  · exact Memory.byte_write_out _ _ _ _ hb
  · exact State.access?_setAccess (s := { s with mem := _, badMem := bad, hub := hub, parts := ps }) ha rfl

/-- A load performed at its home agent. -/
theorem arrival_load {s : State} {id : Nat} {a : Access} {q n : Nat} {hs : List Nat} (ha : s.access? id = some a)
    (hmay : s.mayArrive a = true) (hd : a.dest = .dev [(q, n)] hs) (habsent : s.hub.absent = []) (hcut : s.cutOff a = false)
    (hk : a.kind = .load) (hbad : s.memBad q n = false) :
    ∃ t : State, exec (.accessArrival id) s = .next t ∧ t.cores = s.cores ∧
      MemoryKept s t ∧ t.access? id = some { a with performed := true, value := s.mem.read q n } := by
  obtain ⟨ps, hperform⟩ := performAt_home hd habsent hcut (fun _ => hbad) (fun op t m c d h => by rw [hk] at h; cases h)
  have hhome : s.atHome [(q, n)] a.kind a.data = (s.mem.read q n, s) := by rw [hk]; exact Prod.ext (by simp [State.atHome, State.readSegs]) rfl
  rw [hhome] at hperform
  exact ⟨_, (exec_arrival ha hmay).trans (congrArg _ hperform), rfl, ⟨fun _ => rfl, fun _ => rfl, rfl⟩,
    State.access?_setAccess (s := { s with parts := ps }) ha rfl⟩

/-- The bytes of the banks after a write of a bank. -/
theorem State.bankWrite_bytes (s : State) (pkg off n v : Nat) :
    (s.bankWrite pkg off n v).mem = s.mem ∧ (s.bankWrite pkg off n v).banks = s.banks.write (pkg * 65536 + off) n v := by
  by_cases hn : n = 0
  · subst hn
    exact ⟨rfl, rfl⟩
  · obtain ⟨u, hu, ht⟩ := s.bankWrite_eq pkg off v hn
    have hrest : s.bankWrite pkg off n v = { u.bankRaw pkg off n v with tags := (s.bankWrite pkg off n v).tags } := by
      rw [ht, State.mixTag_rest, State.mixTag_rest (u.bankRaw pkg off n v)]
    have hum : u.mem = s.mem := by rw [show u = _ from hu]
    have hub : u.banks = s.banks := by rw [show u = _ from hu]
    have hbanks := (congrArg State.banks hrest).trans (u.banks_bankRaw pkg off n v)
    exact ⟨(congrArg State.mem hrest).trans hum, by rw [hbanks, hub]⟩

/-- A store performed at a bank, or refused there. -/
theorem arrival_slot {s : State} {id : Nat} {a : Access} {d sl off : Nat} (ha : s.access? id = some a)
    (hmay : s.mayArrive a = true) (hd : a.dest = .slot d sl off) (habsent : s.hub.absent = []) (hcut : s.cutOff a = false)
    (hk : a.kind = .store) :
    (∀ pkg, s.bankFor a.core d sl a.id = .ok pkg → ∃ t : State, exec (.accessArrival id) s = .next t ∧ t.mem = s.mem ∧
      t.banks = s.banks.write (pkg * 65536 + off) a.size a.data) ∧
    (∀ c, s.bankFor a.core d sl a.id = .error c → ∃ t : State, exec (.accessArrival id) s = .next t ∧ MemoryKept s t ∧
      t.access? id = some { a with refused := some c.code }) := by
  have hnot (pkg : Nat) : (a.kind != .store && s.bankBad pkg off a.size) = false := by rw [hk]; rfl
  have hperform : s.performAt a = match s.bankFor a.core d sl a.id with
      | .error c => s.setAccess { a with refused := some c.code }
      | .ok pkg => (s.bankWrite pkg off a.size a.data).setAccess { a with performed := true, value := 0, told := a.told } := by
    unfold State.performAt
    rw [if_neg (by rw [hcut]; decide)]
    simp only [hd]
    rw [if_neg (by rw [habsent]; simp)]
    cases s.bankFor a.core d sl a.id with
    | error c => rfl
    | ok pkg =>
      dsimp only
      rw [hnot pkg, hk]
      simp [State.atBank]
  refine ⟨fun pkg hpkg => ?_, fun c hc => ?_⟩
  · obtain ⟨hm, hb⟩ := s.bankWrite_bytes pkg off a.size a.data
    refine ⟨_, (exec_arrival ha hmay).trans (congrArg _ hperform), ?_, ?_⟩ <;> rw [hpkg]
    · exact hm
    · exact hb
  · refine ⟨_, (exec_arrival ha hmay).trans (congrArg _ hperform), ?_, ?_⟩ <;> rw [hc]
    · exact ⟨fun _ => rfl, fun _ => rfl, rfl⟩
    · exact State.access?_setAccess ha rfl

/-! ### The end of an access (R138, R149, R181) -/

/-- The accesses that are outdated keep their numbers and groups. -/
theorem outdate_net (s : State) (a : Access) : ∃ f : Access → Access, (∀ b, (f b).id = b.id ∧ (f b).group = b.group) ∧
    (s.outdate a).net = s.net.map f :=
  ⟨_, fun b => by constructor <;> split_ifs <;> rfl, rfl⟩

/-- What the acknowledgement of a part leaves. -/
theorem acknowledge_effect {s : State} {id e : Nat} {a : Access} (ha : s.access? id = some a) (hj : a.jrn = some e) :
    let t := s.acknowledge a
    let rest := (s.dropAccess id).net.find? (·.group == a.group)
    MemoryKept s t ∧ t.net.map (fun b => b.id) = (s.net.filter (·.id != id)).map (fun b => b.id) ∧
      (t.core a.core).journal = (if a.told = true ∨ rest.isSome = true then (s.core a.core).journal
        else (s.core a.core).journal.filter (· != e)) := by
  intro t rest
  let u := (s.dropAccess id).outdate a
  have ht : t = if a.told || u.net.any (·.group == a.group) then u else u.freeJournal a.core (some e) := by
    unfold t State.acknowledge
    rw [State.id_of_access? ha, hj]
  obtain ⟨f, hf, hnet⟩ := outdate_net (s.dropAccess id) a
  have hids : u.net.map (fun b => b.id) = (s.net.filter (·.id != id)).map (fun b => b.id) := by
    rw [show u.net = _ from hnet, List.map_map]
    exact List.map_congr_left fun b _ => (hf b).1
  have hgroups : u.net.any (·.group == a.group) = rest.isSome := by
    rw [Bool.eq_iff_iff, List.find?_isSome, List.any_eq_true, show u.net = _ from hnet]
    simp [hf]
  by_cases hstays : a.told = true ∨ rest.isSome = true
  · have : t = u := by rw [ht, hgroups, if_pos (by simpa using hstays)]
    rw [this, if_pos hstays]
    exact ⟨⟨fun _ => rfl, fun _ => rfl, rfl⟩, hids, rfl⟩
  · have : t = u.freeJournal a.core (some e) := by rw [ht, hgroups, if_neg (by simpa using hstays)]
    rw [this, if_neg hstays]
    refine ⟨⟨fun _ => rfl, fun _ => rfl, rfl⟩, hids, ?_⟩
    rw [State.freeJournal, State.core_setCore_self]
    rfl

/-- A refusal pends its trap once. -/
theorem refused_effect {s : State} {id c e : Nat} {a : Access} (ha : s.access? id = some a) (hr : a.refused = some c) (hj : a.jrn = some e)
    (halive : s.aliveFor a = true) (hroll : s.rollingBack a.core = false) :
    (a.told = true → exec (.remoteRefused id) s = .next (s.acknowledge a)) ∧
    (a.told = false → ∃ t : State, exec (.remoteRefused id) s = .next t ∧ MemoryKept s t ∧
      t.net = (s.net.filter (·.id != id)).map (fun b => if b.group == a.group then { b with told := true } else b) ∧
      (t.core a.core).journal = (s.core a.core).journal ∧
      (let tr : Trap := { cause := 0x0F, detail := c, resume := 0, fpc := a.pc, va := a.va, ipa := 0, jrn := some e, async := true }
       (t.ctx a.core a.ctx).traps = (s.ctx a.core a.ctx).traps ++ [tr])) := by
  refine ⟨fun htold => ?_, fun htold => ?_⟩
  · simp only [exec, execRemoteRefused, ha, hr, hj, halive, hroll, htold]
    rfl
  · let u : State := { s with net := (s.net.filter (·.id != id)).map (fun b => if b.group == a.group then { b with told := true } else b) }
    let tr : Trap := { cause := 0x0F, detail := c, resume := 0, fpc := a.pc, va := a.va, ipa := 0, jrn := some e, async := true }
    have hexec : exec (.remoteRefused id) s = .next (u.pendTrap a.core a.ctx tr) := by
      simp only [exec, execRemoteRefused, ha, hr, hj, halive, hroll, htold]
      rfl
    refine ⟨_, hexec, ⟨fun _ => rfl, fun _ => rfl, rfl⟩, rfl, ?_, ?_⟩
    · rw [State.pendTrap, State.core_setCtx_self]
      rfl
    · rw [State.pendTrap, State.ctx_setCtx_self]
      rfl

/-- A host that has not answered in time (R181). -/
theorem timeout_effect {s : State} {id : Nat} {a : Access} (ha : s.access? id = some a) (hhost : a.atHost = true) (hlate : a.since + 50000 ≤ s.time) :
    (a.jrn.isSome = true → ∃ t : State, exec (.hostTimeout id) s = .next t ∧ MemoryKept s t ∧
      t.access? id = some { a with refused := some 0x11 }) ∧
    (∀ t, a.jrn = none → s.refuseWaiting a 0x11 1 = some t → exec (.hostTimeout id) s = .next t) := by
  have hlate' : (!a.atHost || decide (s.time < a.since + 50000)) = false := by rw [hhost]; simpa using hlate
  have hexec : exec (.hostTimeout id) s = if a.jrn.isSome then .next (s.setAccess { a with refused := some 0x11 })
      else .next ((s.refuseWaiting a 0x11 1).getD (s.setAccess { a with refused := some 0x11, value := 1 })) := by
    simp only [exec, execHostTimeout, ha]
    rw [hlate']
    rfl
  refine ⟨fun hj => ⟨_, hexec.trans (if_pos hj), ⟨fun _ => rfl, fun _ => rfl, rfl⟩, State.access?_setAccess ha rfl⟩, fun t hj ht => ?_⟩
  rw [hexec, hj, ht]
  rfl

/-! ### Walks (R268, R269) -/

/-- What a translation that is brought in may change: memory and its marks, charges and egress. -/
def Fetches (s t : State) : Prop := ∃ nonce mem bad parts hub, t = { s with nonce := nonce, mem := mem, badMem := bad, parts := parts, hub := hub }

theorem Fetches.refl (s : State) : Fetches s s := ⟨_, _, _, _, _, rfl⟩

theorem Fetches.trans {s t u : State} (hst : Fetches s t) (htu : Fetches t u) : Fetches s u := by
  obtain ⟨_, _, _, _, _, rfl⟩ := hst
  obtain ⟨_, _, _, _, _, rfl⟩ := htu
  exact ⟨_, _, _, _, _, rfl⟩

theorem chargeEntries_rest (s : State) (p : Nat) (es : List Nat) : ∃ ps, s.chargeEntries p es = { s with parts := ps } := by
  refine State.each_ind (P := fun t => ∃ ps, t = { s with parts := ps }) ?_ ⟨_, rfl⟩ es
  rintro _ x ⟨ps, rfl⟩
  split <;> exact ⟨_, rfl⟩

theorem fetches_devWrite (s : State) (a n v : Nat) : Fetches s (s.devWrite a n v) := by
  obtain ⟨bad, hub, h⟩ := s.devWrite_rest a n v
  exact ⟨_, _, _, _, _, h⟩

theorem fetches_orEntries (s : State) (p : Nat) (es : List Nat) (m : Nat) : Fetches s (s.orEntries p es m) := by
  obtain ⟨ps, hps⟩ := chargeEntries_rest s p es
  refine State.each_ind (P := Fetches s) (fun t a ht => ht.trans ?_) ⟨_, _, _, _, _, hps⟩ es
  dsimp only
  split
  · split
    · exact Fetches.refl t
    · exact ⟨_, _, _, _, _, rfl⟩
  · exact fetches_devWrite t _ _ _

/-- A translation that fills the TLBs of a core. -/
theorem fill_effect (s : State) (c : Nat) (e : Tlb) (used : List Nat) :
    let t := s.fill c e used
    t.walks = s.walks ∧ t.banks = s.banks ∧ (t.core c).l1 = tlbAdd 128 e (s.core c).l1 ∧
      (t.cluster (clusterOf c)).l2 = tlbAdd 4096 e (s.cluster (clusterOf c)).l2 ∧ (t.core c).ctxs = (s.core c).ctxs := by
  intro t
  obtain ⟨ps, hps⟩ := chargeEntries_rest s (s.partOf c) used
  obtain ⟨nonce, mem, bad, parts, hub, hu⟩ := (show Fetches s _ from ⟨_, _, _, _, _, hps⟩).trans
    (fetches_orEntries (s.chargeEntries (s.partOf c) used) (s.partOf c) used 64)
  generalize hw : (s.chargeEntries (s.partOf c) used).orEntries (s.partOf c) used 64 = u at hu
  have ht : t = (u.setCore c { u.core c with l1 := tlbAdd 128 e (u.core c).l1 }).setCluster (clusterOf c)
      { u.cluster (clusterOf c) with l2 := tlbAdd 4096 e (u.cluster (clusterOf c)).l2 } := by
    rw [← hw]; rfl
  have hcore : t.core c = { s.core c with l1 := tlbAdd 128 e (s.core c).l1 } := by
    rw [ht]
    refine (State.core_setCore_self u c _).trans ?_
    rw [hu]
    rfl
  have hcluster : t.cluster (clusterOf c) = { s.cluster (clusterOf c) with l2 := tlbAdd 4096 e (s.cluster (clusterOf c)).l2 } := by
    rw [ht, State.cluster_setCluster, if_pos rfl, hu]
    rfl
  refine ⟨by rw [ht, hu]; rfl, by rw [ht, hu]; rfl, by rw [hcore], by rw [hcluster], by rw [hcore]⟩

/-- A context that waits for a walk goes on. -/
theorem wakeWalk_effect (s : State) (w : Walk) :
    ∃ k : Ctx, (s.wakeWalk w = s.setCtx w.core w.ctx k ∨ s.wakeWalk w = s) ∧
      ((s.ctx w.core w.ctx).live = true → (s.ctx w.core w.ctx).born = w.born → (s.ctx w.core w.ctx).wait = .walk →
        ((s.wakeWalk w).ctx w.core w.ctx).wait = .none) := by
  refine ⟨{ s.ctx w.core w.ctx with wait := .none }, ?_, fun hl hb hw => ?_⟩
  · unfold State.wakeWalk
    dsimp only
    split
    · exact .inl rfl
    · exact .inr rfl
  · have hcond : ((s.ctx w.core w.ctx).live && (s.ctx w.core w.ctx).born == w.born && (s.ctx w.core w.ctx).wait == .walk) = true := by
      rw [hl, hb, hw]; simp
    unfold State.wakeWalk
    dsimp only
    rw [if_pos hcond, State.ctx_setCtx_self]

/-- A walk that a walker has taken ends (R268, R269). -/
theorem walk_ends {idx : Nat} {s : State} {w : Walk} (hw : s.walks[idx]? = some w) (hnone : w.fault = none) (htaken : w.taken = true)
    (hstale : s.walkStale w = false) (hpref : w.pref = false) :
    (∀ e us, walkBoth s (s.part w.part).vdev w.asid w.root w.va = .ok (e, us) →
      ∃ t : State, exec (.pageWalkFill idx) s = .next t ∧ t.walks.map (·.id) = (s.walks.eraseIdx idx).map (·.id) ∧
        t.banks = s.banks ∧ (t.core w.core).l1 = tlbAdd 128 e (s.core w.core).l1 ∧
        (t.cluster (clusterOf w.core)).l2 = tlbAdd 4096 e (s.cluster (clusterOf w.core)).l2 ∧
        ((s.ctx w.core w.ctx).live = true → (s.ctx w.core w.ctx).born = w.born → (s.ctx w.core w.ctx).wait = .walk →
          (t.ctx w.core w.ctx).wait = .none)) ∧
    (∀ f, walkBoth s (s.part w.part).vdev w.asid w.root w.va = .error f →
      ∃ t : State, exec (.pageWalkFill idx) s = .next t ∧ MemoryKept s t ∧ t.walks.map (·.id) = s.walks.map (·.id) ∧
        (t.walks[idx]?).map (·.fault) = some (some (f.stage, b2n f.bad, f.ipa))) := by
  have hgoes : (w.fault.isSome || !w.taken) = false := by rw [hnone, htaken]; rfl
  refine ⟨fun e us hok => ?_, fun f herr => ?_⟩
  · let u : State := { s with walks := s.walks.eraseIdx idx }
    let v := u.fill w.core e us
    have hexec : exec (.pageWalkFill idx) s = .next ((v.wakeWalk w).takeWalk (dieOf w.core)) := by
      simp only [exec, execPageWalkFill, hw, hgoes, hstale, hok]
      rfl
    obtain ⟨hwalks, hbanks, hl1, hl2, hctxs⟩ := fill_effect u w.core e us
    obtain ⟨g, hub, htake, hg⟩ := takeWalk_walks (v.wakeWalk w) (dieOf w.core)
    obtain ⟨k, hwake, hgo⟩ := wakeWalk_effect v w
    have hvctx : v.ctx w.core w.ctx = s.ctx w.core w.ctx := by rw [State.ctx, show (v.core w.core).ctxs = _ from hctxs]; rfl
    have hids (l : List Walk) : (l.map g).map (·.id) = l.map (·.id) := by
      rw [List.map_map]
      refine List.map_congr_left fun x _ => ?_
      obtain ⟨b, hb⟩ := hg x
      show (g x).id = x.id
      rw [hb]
    refine ⟨_, hexec, ?_, ?_, ?_, ?_, fun hl hb hwt => ?_⟩
    · rw [htake]
      show ((v.wakeWalk w).walks.map g).map (·.id) = _
      rw [hids]
      have : (v.wakeWalk w).walks = u.walks := by obtain h | h := hwake <;> rw [h] <;> exact hwalks
      rw [this]
    · rw [htake]
      show (v.wakeWalk w).banks = _
      obtain h | h := hwake <;> rw [h] <;> exact hbanks
    · rw [htake]
      show ((v.wakeWalk w).core w.core).l1 = _
      obtain h | h := hwake
      · rw [h, State.core_setCtx_self]; exact hl1
      · rw [h]; exact hl1
    · rw [htake]
      show ((v.wakeWalk w).cluster (clusterOf w.core)).l2 = _
      obtain h | h := hwake <;> rw [h] <;> exact hl2
    · rw [htake]
      exact hgo (by rw [hvctx]; exact hl) (by rw [hvctx]; exact hb) (by rw [hvctx]; exact hwt)
  · obtain ⟨ps, hps⟩ := chargeEntries_rest s w.part f.used
    let u : State := { s with parts := ps, walks := s.walks.set idx { w with fault := some (f.stage, b2n f.bad, f.ipa) } }
    have hexec : exec (.pageWalkFill idx) s = .next ((u.wakeWalk w).takeWalk (dieOf w.core)) := by
      simp only [exec, execPageWalkFill, hw, hgoes, hstale, herr, hps, Bool.false_eq_true, if_false]
      rw [if_neg (by rw [hpref]; decide)]
    obtain ⟨g, hub, htake, hg⟩ := takeWalk_walks (u.wakeWalk w) (dieOf w.core)
    obtain ⟨k, hwake, -⟩ := wakeWalk_effect u w
    have hwalks : (u.wakeWalk w).walks = u.walks := by obtain h | h := hwake <;> rw [h] <;> rfl
    have hlt : idx < s.walks.length := (List.getElem?_eq_some_iff.mp hw).1
    have hself : s.walks[idx] = w := (List.getElem?_eq_some_iff.mp hw).2
    refine ⟨_, hexec, ?_, ?_, ?_⟩
    · rw [htake]
      obtain h | h := hwake <;> rw [h] <;> exact ⟨fun _ => rfl, fun _ => rfl, rfl⟩
    · rw [htake]
      show ((u.wakeWalk w).walks.map g).map (·.id) = _
      rw [hwalks]
      refine List.ext_getElem (by simp [u]) fun i h1 h2 => ?_
      simp only [u, List.getElem_map, List.getElem_set]
      obtain ⟨b, hb⟩ := hg (if idx = i then { w with fault := some (f.stage, b2n f.bad, f.ipa) } else s.walks[i]'(by simpa using h2))
      rw [hb]
      split
      next hi => subst hi; rw [hself]
      · rfl
    · rw [htake]
      show (((u.wakeWalk w).walks.map g)[idx]?).map (·.fault) = _
      rw [hwalks]
      obtain ⟨b, hb⟩ := hg { w with fault := some (f.stage, b2n f.bad, f.ipa) }
      simp [u, hlt, hb]

/-- Settles O40: arrivals are `exec_enter` and `exec_arrival`, values `giveValue_effect`, and the ends of posted accesses and of walks have
a lemma each. -/
theorem accessEvents : Obligations.AccessEvents := by
  unfold Obligations.AccessEvents
  refine ⟨fun id s a ha => ?_, fun idx s w hw hnone htaken hstale hpref => walk_ends hw hnone htaken hstale hpref⟩
  intro k rest gives
  have hgives (ev : Instr) (v : Nat) (hev : exec ev s = .next ((s.giveValue a v).getD s)) : gives ev v := by
    obtain ⟨hpart, hlast⟩ := giveValue_effect ha v
    refine ⟨fun b hb => by rw [hev, hpart b hb]; rfl, fun l i hr hload hreg halive => ?_⟩
    obtain ⟨t, ht, h⟩ := hlast l i hr hload hreg halive
    exact ⟨t, by rw [hev, ht]; rfl, h⟩
  refine ⟨fun hmay => ⟨fun hnone => ?_, fun b v hk hb hv => ?_⟩, fun hmay hcut => ?_,
    fun q n hs hd hmay habsent hcut => ⟨fun hk => arrival_store ha hmay hd habsent hcut hk,
      fun hk hbad => arrival_load ha hmay hd habsent hcut hk hbad⟩,
    fun d sl off hd hmay habsent hk hcut => arrival_slot ha hmay hd habsent hcut hk,
    fun e hacked hj => ⟨s.acknowledge a, ?_, acknowledge_effect ha hj⟩, fun hmay hr => ?_, fun v hhost hj htime => ?_,
    fun c e hr hj halive hroll => refused_effect ha hr hj halive hroll, fun hhost hlate => timeout_effect ha hhost hlate⟩
  · have hval : (if a.kind == .load then (youngest (s.bridgeStores a)).bind (forwardFrom a) else none) = none := by
      split
      next hk =>
        obtain h | h := hnone
        · exact absurd (by simpa using hk) h
        · cases hy : youngest (s.bridgeStores a) with
          | none => rfl
          | some b => exact h b hy
      · rfl
    rw [exec_enter ha hmay, State.enterBuffer, hval]
  · have hval : (if a.kind == .load then (youngest (s.bridgeStores a)).bind (forwardFrom a) else none) = some v := by
      rw [if_pos (by rw [hk]; rfl), hb]
      exact hv
    rw [exec_enter ha hmay, State.enterBuffer, hval]
  · rw [exec_arrival ha hmay, State.performAt, if_pos hcut]
  · simp only [exec, execStoreAcknowledged, ha, event, hacked, if_true]
  · refine hgives _ _ ?_
    simp only [exec, execLoadValueReturn, ha, hmay, hr]
    rfl
  · refine hgives _ _ ?_
    have hgoes : (!a.atHost || decide (a.since + 50000 ≤ s.time)) = false := by rw [hhost]; simpa using htime
    simp only [exec, execHostCompletion, ha, hj]
    rw [hgoes]
    rfl

end Sys2Proof.Machine
end

section
/-!
O41: the bank atomics. In the local window they are one act at the bank; elsewhere their one part leaves as a load's or a store's does.
-/

namespace Sys2Proof.Machine

open Sys2Proof

/-! ### An atomic in the local window (R179, R183) -/

/-- The place of an aligned access in the local window. -/
structure InWindow (s : State) (q : MemReq) (p pkg : Nat) : Prop where
  passes : Passes s q p
  space : p / 2 ^ 48 = 0x1000
  offset : p % 2 ^ 48 < 0x200000
  inside : p % 65536 + q.size ≤ 65536
  slot : s.openSlot s.cur (p % 2 ^ 48 / 65536) = .ok pkg
  free : s.bankBusy s.cur .ls pkg = false
  fresh : s.me.mid = none

theorem InWindow.aligned {s : State} {q : MemReq} {p pkg : Nat} (hw : InWindow s q p pkg) : p % 65536 % q.size = 0 := by
  have hmod : p % 65536 = p % 2 ^ 48 % 65536 := by omega
  rw [hmod, Nat.mod_mod_of_dvd _ hw.passes.size.dvd]
  exact hw.passes.aligned

/-- An aligned access in the window is one act at its bank. -/
theorem memOp_window {s : State} {q : MemReq} {p pkg : Nat} (hw : InWindow s q p pkg)
    (hsound : (q.kind != .store && s.bankBad pkg (p % 65536) q.size) = false) :
    s.memOp q = ((s.atBank pkg (p % 65536) q.kind q.size (q.data % 256 ^ q.size)).2.windowEnd q
      (s.atBank pkg (p % 65536) q.kind q.size (q.data % 256 ^ q.size)).1) := by
  obtain ⟨-, hres⟩ := s.resolve_window s.cur hw.space hw.offset
  have hoff : (p % 65536 % q.align != 0 || decide (65536 < p % 65536 + q.size)) = false := by
    rw [decide_eq_false (Nat.not_lt.mpr hw.inside), Bool.or_false]
    obtain h | h := hw.passes.align
    · rw [h, Nat.mod_one]; rfl
    · rw [h, hw.aligned]; rfl
  rw [memOp_passes hw.passes hres, State.memOpAt, hoff, if_neg (by decide), hw.passes.waits, if_neg (by decide), if_neg hw.passes.size.ne512]
  unfold State.windowAccess
  dsimp only
  rw [hw.fresh]
  simp only [Option.isNone_none, if_true, hw.slot, Bool.true_and]
  rw [partsOf_aligned hw.passes.size hw.aligned, State.midway, hw.fresh]
  simp [hw.free, hsound]

/-- Every atomic is the request of its operation. -/
theorem exec_atomic {h : Hdr} {x : OpAtm} {s : State} (hi : s.issues h {} = true) {i : Instr × AtmOp} (hmem : i ∈ atomics h x) :
    exec i.1 s = (s.memOp (s.atmReq i.2 x)).out h s := by
  simp only [atomics, List.mem_cons, List.not_mem_nil, or_false] at hmem
  obtain rfl | rfl | rfl | rfl | rfl | rfl | rfl | rfl | rfl | rfl := hmem
  all_goals exact issue_issues h plain (fun s => s.memOp (s.atmReq _ x)) s hi

theorem passes_atomic {s : State} {x : OpAtm} {p : Nat} (op : AtmOp) (hun : s.me.unresolved = none)
    (hdisp : displace (s.me.rs x.base).toNat (dispBytes x.ty x.disp) = some p) (halign : p % 2 ^ 48 % x.ty.size = 0)
    (hspace : [0, 1, 2, 3].contains (bits p 63 60) = true) (h4 : bits p 63 60 ≠ 4)
    (hquiet : x.sc.isSome = true → s.quiet s.cur s.curCtx = true) : Passes s (s.atmReq op x) p :=
  { firm := hun, pointer := hdisp, space := hspace, shape := fun _ => h4, size := partSized_size x.ty, aligned := halign
    waits := by
      show (x.sc.isSome && !s.quiet s.cur s.curCtx) = false
      cases hsc : x.sc.isSome with
      | false => rfl
      | true => rw [hquiet hsc]; rfl
    align := .inr rfl }

theorem State.bankWrite_turn (s : State) (pkg off n v : Nat) : SameTurn s (s.bankWrite pkg off n v) := by
  by_cases hn : n = 0
  · subst hn
    exact ⟨rfl, rfl⟩
  · obtain ⟨u, hu, ht⟩ := s.bankWrite_eq pkg off v hn
    have hturn : SameTurn s u := by rw [show u = _ from hu]; exact ⟨rfl, rfl⟩
    rw [ht, State.mixTag_rest, State.mixTag_rest (u.bankRaw pkg off n v)]
    exact hturn

/-- What an atomic in the local window leaves: its place in the bank takes the new value, its register the old one. -/
theorem atomic_window {h : Hdr} {x : OpAtm} {s : State} {p pkg : Nat} {i : Instr × AtmOp} (hi : s.issues h {} = true)
    (hmem : i ∈ atomics h x) (hw : InWindow s (s.atmReq i.2 x) p pkg) (hsound : s.bankBad pkg (p % 65536) x.ty.size = false) :
    let old := s.bankRead pkg (p % 65536) x.ty.size
    let new := atmNew i.2 x.ty x.rnd old (codeS s.me x.ty x.c) (if i.2 == .cas then codeS s.me x.ty (x.c + 1) else 0)
    ∃ t : State, exec i.1 s = .next (t.goOn h) ∧ t.mem = s.mem ∧
      t.banks = s.banks.write (pkg * 65536 + p % 65536) x.ty.size new ∧ t.me = s.me.ws x.a (widen x.ty old) ∧
      (∀ a, a < pkg * 65536 + p % 65536 ∨ pkg * 65536 + p % 65536 + x.ty.size ≤ a → t.banks.byte a = s.banks.byte a) ∧
      (∀ b g, g < 16 → t.tag b g = if b = pkg ∧ g = p % 65536 / 4096 ∧ s.tag b g ≠ 0 then 15 else s.tag b g) ∧
      (∀ y, y ≠ s.curCtx → t.ctx s.cur y = s.ctx s.cur y) ∧ (∀ c, c ≠ s.cur → t.core c = s.core c) ∧
      ({ t.mycore with ctxs := [] } : Core) = { s.mycore with ctxs := [] } := by
  intro old new
  let u := s.bankWrite pkg (p % 65536) x.ty.size new
  have hsize : 0 < x.ty.size := by have := partSized_size x.ty; unfold PartSized at this; omega
  obtain ⟨hmem', hbanks, hcores, -, -, htag⟩ := s.bankWrite_changes pkg (p % 65536) x.ty.size new hsize hw.inside
  have hcur : u.cur = s.cur ∧ u.curCtx = s.curCtx := s.bankWrite_turn pkg (p % 65536) x.ty.size new
  have hcore (c : Nat) : u.core c = s.core c := by rw [State.core, show u.cores = _ from hcores]; rfl
  have hctx (y : Nat) : u.ctx s.cur y = s.ctx s.cur y := by rw [State.ctx, hcore]; rfl
  let t := u.setCtx s.cur s.curCtx (s.me.ws x.a (widen x.ty old))
  have hat : s.memOp (s.atmReq i.2 x) = .done t := by
    rw [memOp_window hw hsound]
    have ha : BitVec.ofNat 5 x.a.toNat = x.a := by simp
    show Res.done (u.putReg u.cur u.curCtx (.s x.a.toNat) x.ty old) = _
    rw [hcur.1, hcur.2]
    show Res.done (u.setCtx s.cur s.curCtx ((u.ctx s.cur s.curCtx).ws (BitVec.ofNat 5 x.a.toNat) (widen x.ty old))) = _
    rw [ha, hctx]
    rfl
  have hregion : (p % 65536 + x.ty.size - 1) / 4096 = p % 65536 / 4096 := by
    have := hw.aligned
    have hs := partSized_size x.ty
    change p % 65536 % x.ty.size = 0 at this
    unfold PartSized at hs
    generalize x.ty.size = n at *
    generalize p % 65536 = o at *
    obtain rfl | rfl | rfl | rfl | rfl := hs <;> omega
  have htcur : t.cur = s.cur := hcur.1
  have htctx : t.curCtx = s.curCtx := hcur.2
  refine ⟨t, ?_, hmem', hbanks, ?_, fun a ha => ?_, fun b g hg => ?_, fun y hy => ?_, fun c hc => ?_, ?_⟩
  · rw [exec_atomic hi hmem, hat]
    rfl
  · rw [State.me, htcur, htctx, State.ctx_setCtx_self]
  · show u.banks.byte a = _
    rw [show u.banks = _ from hbanks]
    exact Memory.byte_write_out _ _ _ _ ha
  · show u.tag b g = _
    rw [htag b g hg, hregion]
    simp only [or_self, and_assoc]
  · rw [State.ctx_setCtx_ne _ _ _ _ _ hy, hctx]
  · exact (State.core_setCore_ne u s.cur c _ hc).trans (hcore c)
  · rw [State.mycore, htcur, show t.core s.cur = _ from State.core_setCore_self u s.cur _, hcore]
    rfl

/-- An atomic that leaves for its home: posted with a journal entry, or with its context waiting (R185). -/
def atomicLeaves (h : Hdr) (x : OpAtm) (s : State) (d : Dest) (i : Instr × AtmOp) : Prop :=
  let k : AKind := .atomic i.2 x.ty x.rnd (codeS s.me x.ty x.c) (if i.2 = .cas then codeS s.me x.ty (x.c + 1) else 0)
  if x.a = 0 ∧ x.sc = none then ∀ e, s.journalSlot s.cur = some e →
    ∃ t : State, exec i.1 s = .next (t.goOn h) ∧ t.me = s.me ∧ t.mycore.journal = insertSet e s.mycore.journal ∧
      sentAs s t d k x.ty.size 0 (some e)
  else
    ∃ t : State, exec i.1 s = .next (t.begun h) ∧ t.me = { s.me with wait := .access s.nonce } ∧
      t.mycore.loads = s.mycore.loads ++ [pendingLoad s (.s x.a.toNat) x.ty] ∧ sentAs s t d k x.ty.size 0 none

theorem blocks_atomic (s : State) (op : AtmOp) (x : OpAtm) (t : Tgt) :
    (s.atmReq op x).blocks t = !decide (x.a = 0 ∧ x.sc = none) := by
  have ha : (some (Reg.s x.a.toNat) == some (Reg.s 0)) = decide (x.a = 0) := by
    rw [Bool.eq_iff_iff]
    simp [← BitVec.toNat_inj]
  show (!(some (Reg.s x.a.toNat) == some (Reg.s 0) && x.sc.isNone)) = _
  rw [ha, Bool.decide_and]
  cases x.sc <;> simp

theorem State.SendsTo.atomicLeaves {h : Hdr} {x : OpAtm} {s : State} {d : Dest} {t : Tgt} {i : Instr × AtmOp} (hi : s.issues h {} = true)
    (hmem : i ∈ atomics h x) (hs : s.SendsTo (s.atmReq i.2 x) t d) : atomicLeaves h x s d i := by
  obtain ⟨ho, u, cross, p, asid, ⟨ls, rfl⟩, hmemOp⟩ := hs
  have hkind : (s.atmReq i.2 x).kind =
      .atomic i.2 x.ty x.rnd (codeS s.me x.ty x.c) (if i.2 = .cas then codeS s.me x.ty (x.c + 1) else 0) := by
    simp [State.atmReq]
  have hblocks := blocks_atomic s i.2 x t
  unfold Sys2Proof.Machine.atomicLeaves
  dsimp only
  rw [← hkind]
  split
  next hpost =>
    rw [decide_eq_true hpost] at hblocks
    intro e he
    obtain ⟨v, hv, hme, -, hjournal, hsent⟩ := launchAccess_store (s := { s with launches := ls }) ho rfl hblocks he cross p asid
    refine ⟨v, by rw [exec_atomic hi hmem, hmemOp, hv]; rfl, hme, hjournal, ?_⟩
    rw [show (s.atmReq i.2 x).data = 0 from rfl, Nat.zero_mod] at hsent
    exact hsent
  next hpost =>
    rw [decide_eq_false hpost] at hblocks
    obtain ⟨v, hv, hcur, hctx, hme, hcore, hsent⟩ := launchAccess_load (s := { s with launches := ls }) ho
      (by rw [hblocks]; exact Bool.and_false _) (g := .s x.a.toNat) rfl rfl cross p asid
    refine ⟨v.setMe { s.me with wait := .access s.nonce }, ?_, v.me_setMe _, ?_, hsent⟩
    · rw [exec_atomic hi hmem, hmemOp, hv, hblocks]
      rfl
    · rw [v.mycore_setMe, hcore]
      rfl

/-- An atomic on host memory that the host supports (R185). -/
theorem sends_hostAtomic {s : State} {op : AtmOp} {x : OpAtm} {p code : Nat} (hp : Passes s (s.atmReq op x) p) (hspace : p / 2 ^ 48 = 0x3000)
    (hok : s.hostOk s.cur = true) (hscope : x.sc = none ∨ x.sc = some .sys) (hty : x.ty.isAtm = true)
    (hop : (op = .add ∧ code = 0) ∨ (op = .swap ∧ code = 1) ∨ (op = .cas ∧ code = 2)) (hcode : Config.hostAtomic code x.ty.size = true) :
    s.SendsTo (s.atmReq op x) (.host (p % 2 ^ 48)) (.host (p % 2 ^ 48)) := by
  obtain ⟨hres, -⟩ := resolve_host (s := s) (c := s.cur) hspace
  have hsc : ((s.atmReq op x).scope.isSome && (s.atmReq op x).scope != some .sys) = false := by
    show (x.sc.isSome && x.sc != some .sys) = false
    obtain h | h := hscope <;> rw [h] <;> rfl
  refine ⟨⟨nofun, nofun, hp.size.ne512⟩, s.noRoll s.cur, false, p, 0, launchesOnly_noRoll s s.cur, ?_⟩
  have hcuts : cutsTo (p % 2 ^ 48) (s.atmReq op x).size false (fun o => .host (p % 2 ^ 48 + o)) =
      [wholeCut (s.atmReq op x).size (.host (p % 2 ^ 48)) false] := cutsTo_aligned hp.size hp.aligned _ _
  rw [memOp_passes hp hres, State.memOpAt, hsc, hp.off, hok]
  dsimp only
  rw [hp.waits, hcuts]
  simp only [State.atmReq]
  obtain ⟨rfl, rfl⟩ | ⟨rfl, rfl⟩ | ⟨rfl, rfl⟩ := hop
  all_goals
    simp only [hty, hcode]
    rfl

/-- The new value of each atomic on a code of its type (R184). -/
theorem atmNew_code {ty : ETy} {c : Nat} (op : AtmOp) (md : RMode) (old c2 : Nat) (hc : c < 2 ^ ETy.w ty) :
    atmNew op ty md old c (if op == .cas then c2 else 0) = match op with
      | .add => (old + c) % 2 ^ ETy.w ty
      | .and => old &&& c
      | .or => old ||| c
      | .xor => old ^^^ c
      | .min => minE ty old c
      | .max => maxE ty old c
      | .fadd => addF ty { mode := md, sat := false, ovt := 0, conv := false } old c
      | .swap => c
      | .cas => if old = c then c2 % 2 ^ ETy.w ty else old
      | .incb => if intOf ty old < intOf ty c then (old + 1) % 2 ^ ETy.w ty else old := by
  unfold atmNew
  dsimp only
  rw [Nat.mod_eq_of_lt hc]
  cases op <;> rfl

/-- Settles O41: in the window by `atomic_window`, elsewhere by the ways of O39 and `State.SendsTo.atomicLeaves`. -/
theorem bankAtomics : Obligations.BankAtomics := by
  unfold Obligations.BankAtomics
  refine ⟨fun h x s p pkg hi hun hdisp hspace hoff halign hin hslot hfree hsound hquiet => ?_,
    fun h x s p hi hun hdisp halign hquiet => ?_⟩
  · intro old c w does
    have h60 : bits p 63 60 = 1 := (s.resolve_window s.cur hspace hoff).1
    have hfresh : s.me.mid = none := by
      simp only [State.issues, Bool.and_eq_true] at hi
      exact Option.isNone_iff_eq_none.mp hi.2
    have halign' : p % 2 ^ 48 % x.ty.size = 0 := by
      rw [← halign, show p % 65536 = p % 2 ^ 48 % 65536 by omega, Nat.mod_mod_of_dvd _ (partSized_size x.ty).dvd]
    have hw (op : AtmOp) : InWindow s (s.atmReq op x) p pkg :=
      ⟨passes_atomic op hun hdisp halign' (by rw [h60]; rfl) (by rw [h60]; decide) hquiet, hspace, hoff, hin, hslot, hfree, hfresh⟩
    have hdoes {i : Instr × AtmOp} (hmem : i ∈ atomics h x) {new : Nat}
        (hnew : atmNew i.2 x.ty x.rnd old c (if i.2 == .cas then codeS s.me x.ty (x.c + 1) else 0) = new) : does i.1 new := by
      rw [← hnew]
      exact atomic_window hi hmem (hw i.2) hsound
    have hnew (op : AtmOp) := atmNew_code op x.rnd old (codeS s.me x.ty (x.c + 1)) (codeS_lt s.me x.ty x.c)
    refine ⟨fun hty => ?_, fun hty => ?_⟩
    · have hint : x.ty.isInt = true := by revert hty; cases x.ty <;> decide
      refine ⟨?_, ?_, ?_, ?_, ?_, ?_, ?_, ?_, ?_⟩
      · exact hdoes (i := (.atmAdd h x, .add)) (by simp [atomics]) (hnew .add)
      · exact hdoes (i := (.atmAnd h x, .and)) (by simp [atomics]) (hnew .and)
      · exact hdoes (i := (.atmOr h x, .or)) (by simp [atomics]) (hnew .or)
      · exact hdoes (i := (.atmXor h x, .xor)) (by simp [atomics]) (hnew .xor)
      · exact hdoes (i := (.atmMin h x, .min)) (by simp [atomics]) ((hnew .min).trans (if_pos hint))
      · exact hdoes (i := (.atmMax h x, .max)) (by simp [atomics]) ((hnew .max).trans (if_pos hint))
      · exact hdoes (i := (.atmSwap h x, .swap)) (by simp [atomics]) (hnew .swap)
      · refine hdoes (i := (.atmCas h x, .cas)) (by simp [atomics]) ((hnew .cas).trans ?_)
        show (if old = c then codeS s.me x.ty (x.c + 1) % w else old) = _
        rw [Nat.mod_eq_of_lt (codeS_lt s.me x.ty (x.c + 1))]
      · exact hdoes (i := (.atmIncb h x, .incb)) (by simp [atomics]) (hnew .incb)
    · exact hdoes (i := (.atmFadd h x, .fadd)) (by simp [atomics]) (hnew .fadd)
  · intro leaves
    refine ⟨fun a t hlow hb i hmem => ?_, fun d slot off hres hreach habsent hin i hmem => ?_, fun hspace hok hscope hty => ?_⟩
    · have h60 := (resolve_low (s := s) (c := s.cur) hlow).2.1
      exact (sends_glb (passes_atomic i.2 hun hdisp halign (by rw [h60]; rfl) (by rw [h60]; decide) hquiet) hlow hb).atomicLeaves hi hmem
    · have h60 := (resolve_rem hres).1
      exact (sends_rem (passes_atomic i.2 hun hdisp halign (by rw [h60]; rfl) (by rw [h60]; decide) hquiet) hres hreach habsent
        hin).atomicLeaves hi hmem
    · have h60 := (resolve_host (s := s) (c := s.cur) hspace).2
      have hp (op : AtmOp) := passes_atomic op hun hdisp halign (by rw [h60]; rfl) (by rw [h60]; decide) hquiet
      exact ⟨fun hcode => (sends_hostAtomic (hp .add) hspace hok hscope hty (.inl ⟨rfl, rfl⟩) hcode).atomicLeaves
          (i := (.atmAdd h x, .add)) hi (by simp [atomics]),
        fun hcode => (sends_hostAtomic (hp .swap) hspace hok hscope hty (.inr (.inl ⟨rfl, rfl⟩)) hcode).atomicLeaves
          (i := (.atmSwap h x, .swap)) hi (by simp [atomics]),
        fun hcode => (sends_hostAtomic (hp .cas) hspace hok hscope hty (.inr (.inr ⟨rfl, rfl⟩)) hcode).atomicLeaves
          (i := (.atmCas h x, .cas)) hi (by simp [atomics])⟩

end Sys2Proof.Machine
end

section
/-!
O42: fences. Each is one wait on the context's accesses, and the package fence ends with the last reply of a bridge.
-/

namespace Sys2Proof.Machine

open Sys2Proof

/-- An instruction whose effect is known where it issues. -/
theorem exec_body {i : Instr} {h : Hdr} {s : State} {body : State → Res} (hi : s.issues h {} = true) (hexec : exec i s = issue h plain body s)
    {r : Res} (hr : body s = r) : exec i s = r.out h s := by
  rw [hexec, issue_issues h plain body s hi, hr]

theorem out_ite (h : Hdr) (s : State) (c : Prop) [Decidable c] (t : State) :
    (if c then Res.done t else .hold).out h s = .next (if c then t.goOn h else s.held) := by
  split <;> rfl

section
variable {h : Hdr} {s : State} (hi : s.issues h {} = true)
include hi

/-- The fences of one context, of a cluster, of a die and of the system wait for the same accesses (R139, R186). -/
theorem exec_fence {i : Instr} (hmem : i ∈ [Instr.fenceCtx h, .fenceClu h, .fenceDie h, .fenceSys h]) :
    exec i s = .next (if s.quiet s.cur s.curCtx then s.goOn h else s.held) := by
  have hfence : (fenceOp s).out h s = .next (if s.quiet s.cur s.curCtx then s.goOn h else s.held) := out_ite h s _ s
  simp only [List.mem_cons, List.not_mem_nil, or_false] at hmem
  obtain rfl | rfl | rfl | rfl := hmem
  all_goals exact (exec_body (body := fenceOp) hi rfl rfl).trans hfence

theorem exec_fenceCore :
    exec (.fenceCore h) s = .next (if s.quiet s.cur s.curCtx then (s.setMe { s.me with fenced := true }).goOn h else s.held) := by
  simp only [exec, execFenceCore]
  rw [issue_issues _ _ _ _ hi]
  cases hq : s.quiet s.cur s.curCtx with
  | true => simp only [fenceOp, hq, if_true]; rfl
  | false => simp only [fenceOp, hq, Bool.false_eq_true, if_false]; rfl

/-- A taken branch behind a `fence.core` sees new code (R19). -/
theorem exec_br_fenced (off : BitVec 24) (hf : s.me.fenced = true) :
    ∃ t : State, exec (.br h off) s = .next t ∧ t.me.code = s.mem ∧ t.me.fenced = false := by
  refine ⟨_, exec_goto (body := fun s => .goto s (branchTo s.me.pc off)) hi rfl rfl, ?_, ?_⟩
  · rw [State.me_advance, State.land, State.me_setMe, if_pos hf]
  · rw [State.me_advance, State.land, State.me_setMe]

theorem exec_fencep (x : OpFencep) :
    exec (.fencep h x) s = .next (if s.pathQuiet s.cur s.curCtx x.src then s.goOn h else s.held) :=
  (exec_body (body := fun s => if s.pathQuiet s.cur s.curCtx x.src then .done s else .hold) hi rfl rfl).trans (out_ite h s _ s)

theorem exec_fencePkg (hun : s.me.unresolved = none) : exec (.fencePkg h) s =
    if s.me.grant then .next ((s.setMe { s.me with wait := .marker s.nonce [0, 1, 2, 3] }).begun h) else (s.raise .perm).out h s := by
  simp only [exec, execFencePkg]
  rw [issue_issues _ _ _ _ hi, State.firm, hun]
  cases hg : s.me.grant <;> simp [State.need] <;> rfl

/-- A split fence begins with the next token of its context (R147). -/
theorem exec_fiss (a : SReg) (hun : s.me.unresolved = none) (hroom : s.openTokens.length < 4) :
    let q := (s.me.fseq + 1) % 65536
    let ids := (s.net.filter (fun e => s.owned e s.cur s.curCtx && e.kind != .load)).map (·.id)
    exec (.fiss h a) s = .next ((s.setMe (({ s.me with fseq := q, tokens := s.openTokens ++ [(q, ids)] } : Ctx).ws a
      (BitVec.ofNat 64 (2 ^ 63 + q)))).goOn h) := by
  intro q ids
  simp only [exec, execFiss]
  rw [issue_issues _ _ _ _ hi, State.firm, hun, if_neg (by simp), if_neg (by simpa using hroom)]
  rfl

/-- The end of a split fence waits for the stores older than its token (R147). -/
theorem exec_fwait {b : SReg} {q : Nat} (hq : q < 65536) (hb : s.me.rs b = BitVec.ofNat 64 (2 ^ 63 + q))
    (hold : (q + 65536 - s.me.fseq) % 65536 = 0 ∨ 32767 < (q + 65536 - s.me.fseq) % 65536) :
    exec (.fwait h b) s = .next (if s.openTokens.any (fun e => decide ((q + 65536 - e.1) % 65536 < 32768)) then s.held else s.goOn h) := by
  have htoken : (s.me.rs b).toNat = 2 ^ 63 + q := by
    rw [hb, BitVec.toNat_ofNat]
    omega
  have hlow : (2 ^ 63 + q) % 65536 = q := by omega
  have hbit : bit (2 ^ 63 + q) 63 = true := by
    have hodd : bits (2 ^ 63 + q) 63 63 = 1 := by unfold bits; omega
    rw [bit, hodd]
    rfl
  have hzero : bits (2 ^ 63 + q) 62 16 = 0 := by unfold bits; omega
  have hahead : (decide (1 ≤ (q + 65536 - s.me.fseq) % 65536) && decide ((q + 65536 - s.me.fseq) % 65536 ≤ 32767)) = false := by
    generalize (q + 65536 - s.me.fseq) % 65536 = n at *
    simp only [Bool.and_eq_false_iff, decide_eq_false_iff_not]
    omega
  simp only [exec, execFwait]
  rw [issue_issues _ _ _ _ hi, htoken, hlow, hbit, hzero, hahead, if_neg (by decide)]
  split <;> rfl

end

/-- A bridge replies; with the last reply the fence completes (R148). -/
theorem reply_effect {c x die since : Nat} {ds : List Nat} {s : State} (hw : (s.ctx c x).wait = .marker since ds)
    (hmay : s.mayReply c x die = true) :
    let r := ds.filter (· != die)
    (r ≠ [] → exec (.drainMarkerReply c x die) s = .next (s.setCtx c x { s.ctx c x with wait := .marker since r })) ∧
    (r = [] → ∃ t : State, exec (.drainMarkerReply c x die) s = .next t ∧ (t.ctx c x).wait = .none ∧
      (t.ctx c x).pc = ((s.ctx c x).pc + 12) % 2 ^ 48 ∧ MemoryKept s t ∧ RegsKept [] (s.ctx c x) (t.ctx c x)) := by
  intro r
  have hexec : exec (.drainMarkerReply c x die) s =
      .next (if r.isEmpty then s.finishWait c x else s.setCtx c x { s.ctx c x with wait := .marker since r }) := by
    simp only [exec, execDrainMarkerReply, hw, hmay]
    rfl
  refine ⟨fun hr => by rw [hexec, if_neg (by simpa using hr)], fun hr => ⟨s.finishWait c x, by rw [hexec, hr]; rfl, ?_⟩⟩
  rw [State.finishWait, State.ctx_setCtx_self]
  exact ⟨rfl, rfl, ⟨fun _ => rfl, fun _ => rfl, rfl⟩, ⟨fun _ _ => rfl, fun _ _ => rfl, fun _ _ => rfl⟩⟩

/-- Settles O42: each fence by its own equation, the reply by `reply_effect`. -/
theorem fences : Obligations.Fences := by
  unfold Obligations.Fences
  refine ⟨fun h x a b s hi => ⟨fun i hmem => exec_fence hi hmem, exec_fenceCore hi, fun off hf => exec_br_fenced hi off hf, exec_fencep hi x,
    fun hun hg => by rw [exec_fencePkg hi hun, if_pos hg], fun hun hg => ?_, fun hun hroom => ?_,
    fun q hq hb _ hold => exec_fwait hi hq hb hold⟩, fun c x die since ds s hw hmay => reply_effect hw hmay⟩
  · rw [exec_fencePkg hi hun, hg]
    rfl
  · intro q
    obtain ⟨hkept, -⟩ := Ctx.ws_kept ({ s.me with fseq := q, tokens := s.openTokens ++
      [(q, (s.net.filter (fun e => s.owned e s.cur s.curCtx && e.kind != .load)).map (·.id))] } : Ctx) a (BitVec.ofNat 64 (2 ^ 63 + q))
    refine ⟨_, exec_fiss hi a hun hroom, ?_, ?_, hkept, ?_⟩
    · unfold Ctx.ws; split <;> rfl
    · rw [Ctx.rs_ws, if_pos rfl]
    · unfold Ctx.ws; split <;> rfl

end Sys2Proof.Machine
end

section
/-!
O43: order-first transactions are declared, submitted, waited for and ended.
-/

namespace Sys2Proof.Machine

open Sys2Proof

/-! ### Instructions (R187 to R189) -/

section
variable {h : Hdr} {s : State} (hi : s.issues h {} = true)
include hi

/-- A slice declared joins the claim set under its home agent. -/
theorem txdecl_effect {b : SReg} {w : Bool} {at_ : Nat} {e : Tlb} (hlow : (s.me.rs b).toNat < 2 ^ 48) (halign : (s.me.rs b).toNat % 256 = 0)
    (htick : s.me.ticket = none) (hroom : s.me.claims.length < 32)
    (htrans : s.translate s.cur (s.vdevOf s.cur) s.me.xlat.toNat s.me.level (s.me.rs b).toNat 1 (b2n w) false = .ok [(at_, 1)] [e])
    (hkind : e.kind < 2) (hdev : s.devOk at_ = true) (hnew : ∀ c ∈ s.me.claims, c.1 ≠ homeOf e at_ * 2 ^ 48 + at_ % 2 ^ 48) :
    exec (if w then .txdeclW h b else .txdeclR h b) s =
      .next ((s.setMe { s.me with claims := s.me.claims ++ [(homeOf e at_ * 2 ^ 48 + at_ % 2 ^ 48, w)] }).goOn h) := by
  have hnone : s.me.claims.any (·.1 == homeOf e at_ * 2 ^ 48 + at_ % 2 ^ 48) = false :=
    List.any_eq_false.mpr fun c hc => by simpa using hnew c hc
  have h23 : (e.kind == 2 || e.kind == 3) = false := by
    have h2 : e.kind ≠ 2 := by omega
    have h3 : e.kind ≠ 3 := by omega
    simp [h2, h3]
  have hbody : txdecl w b s = .done (s.setMe { s.me with claims := s.me.claims ++ [(homeOf e at_ * 2 ^ 48 + at_ % 2 ^ 48, w)] }) := by
    unfold txdecl
    dsimp only
    rw [if_neg (by rw [htick]; exact Bool.false_ne_true), (resolve_low hlow).1]
    dsimp only
    rw [if_neg (by rw [halign]; exact Bool.false_ne_true)]
    unfold State.withPages
    dsimp only
    rw [htrans]
    dsimp only [List.headD_cons]
    have hdev' : ¬ (!s.devOk at_) = true := by rw [hdev]; exact Bool.false_ne_true
    have hroom' : ¬ decide (32 ≤ s.me.claims.length) = true := by simpa using hroom
    exact (if_neg (by rw [h23]; exact Bool.false_ne_true)).trans ((if_neg hdev').trans
      ((if_neg (by rw [hnone]; exact Bool.false_ne_true)).trans (if_neg hroom')))
  cases w with
  | true => exact exec_done (body := txdecl true b) hi rfl hbody
  | false => exact exec_done (body := txdecl false b) hi rfl hbody

/-- A submission waits for its sequencer. -/
theorem txsub_effect (a : SReg) (hun : s.me.unresolved = none) (hclaims : s.me.claims ≠ []) (htick : s.me.ticket = none) :
    ∃ t : State, exec (.txsub h a) s = .next (t.begun h) ∧ MemoryKept s t ∧ t.submits = s.submits ++ [(s.cur, s.curCtx)] ∧
      t.me = { s.me with wait := .submit a.toNat } := by
  obtain ⟨ls, hls⟩ := launchesOnly_noRoll s s.cur
  let u : State := { s.noRoll s.cur with submits := s.submits ++ [(s.cur, s.curCtx)] }
  have hu : u = { s with launches := ls, submits := s.submits ++ [(s.cur, s.curCtx)] } := by unfold u; rw [hls]
  have hstop : (s.me.claims.isEmpty || s.me.ticket.isSome) = false := by
    rw [htick]; simpa using hclaims
  refine ⟨u.setMe { u.me with wait := .submit a.toNat }, ?_, ?_, ?_, ?_⟩
  · simp only [exec, execTxsub]
    rw [issue_issues _ _ _ _ hi, State.firm, hun, hstop]
    have hsub : (s.noRoll s.cur).cur = s.cur ∧ (s.noRoll s.cur).curCtx = s.curCtx ∧ (s.noRoll s.cur).submits = s.submits := by rw [hls]; exact ⟨rfl, rfl, rfl⟩
    rw [if_neg (by simp), if_neg (by simp)]
    rfl
  · rw [hu]; exact ⟨fun _ => rfl, fun _ => rfl, rfl⟩
  · rfl
  · rw [State.me_setMe, hu]
    rfl

/-- The wait opens the transaction once no grant is missing. -/
theorem txwait_effect {b : SReg} (htick : s.me.ticket = some (s.me.rs b).toNat) (hlost : s.me.lostDies = []) :
    exec (.txwait h b) s = .next (if s.me.wanting.isEmpty then (s.setMe { s.me with txOpen := true }).goOn h else s.held) := by
  have hnone : s.me.newlyLost.or s.me.lostDies.head? = none := by rw [Ctx.newlyLost, hlost]; rfl
  simp only [exec, execTxwait]
  rw [issue_issues _ _ _ _ hi, hnone, htick, if_neg (by simp)]
  exact out_ite h s _ _

/-- The end of a transaction gives every slice back. -/
theorem txend_effect {b : SReg} (hun : s.me.unresolved = none) (htick : s.me.ticket = some (s.me.rs b).toNat) (hlost : s.me.lostDies = [])
    (hwant : s.me.wanting = []) (hquiet : s.quiet s.cur s.curCtx = true) :
    ∃ t : State, exec (.txend h b) s = .next (t.goOn h) ∧ MemoryKept s t ∧ RegsKept [] s.me t.me ∧
      t.me.ticket = none ∧ t.me.claims = [] ∧ t.me.grants = [] ∧ t.me.txOpen = false ∧
      t.releases = s.releases ++ s.slices.filter (fun e => e.born == s.me.born && some e.ticket == s.me.ticket) := by
  obtain ⟨ls, hls⟩ := launchesOnly_noRoll s s.cur
  let k : Ctx := { s.me with ticket := none, claims := [], grants := [], txOpen := false, lostDies := [] }
  let t : State := { (s.noRoll s.cur).setCtx s.cur s.curCtx k with
    releases := s.releases ++ s.slices.filter (fun e => e.born == s.me.born && some e.ticket == s.me.ticket) }
  have hend : (s.noRoll s.cur).endTicket s.cur s.curCtx = t := by
    unfold t
    rw [hls]
    unfold State.endTicket
    dsimp only
    rw [if_neg (by rw [show (State.ctx { s with launches := ls } s.cur s.curCtx).ticket = _ from htick]; exact Bool.false_ne_true)]
    rfl
  have hme : t.me = k := by
    unfold t
    rw [hls]
    exact State.me_setMe { s with launches := ls } k
  have hlostNone : s.me.newlyLost.isSome = false := by rw [Ctx.newlyLost, hlost]; rfl
  refine ⟨t, ?_, ?_, ?_, ?_, ?_, ?_, ?_, rfl⟩
  · simp only [exec, execTxend]
    rw [issue_issues _ _ _ _ hi, State.firm, hun, hlostNone, hwant, hquiet, hend, htick]
    simp only [bne_self_eq_false, Bool.false_eq_true, Option.isSome_none, if_false, List.isEmpty_nil, Bool.and_self, if_true]
    rfl
  · unfold t
    rw [hls]
    exact ⟨fun _ => rfl, fun _ => rfl, rfl⟩
  · rw [hme]; exact ⟨fun _ _ => rfl, fun _ _ => rfl, fun _ _ => rfl⟩
  all_goals rw [hme]

end

/-! ### The acceptance of a submission (R204) -/

/-- The beats passed are full, so the first one with room is found before the submissions are used up. -/
theorem roomFrom_spec (q : Sequencer) (n b : Nat) (hn : (q.open_.filter (fun u => decide (b ≤ u.beat))).length < n) :
    b ≤ roomFrom q n b ∧ (q.open_.filter (·.beat == roomFrom q n b)).length < 64 := by
  induction n generalizing b with
  | zero => omega
  | succ n ih =>
    unfold roomFrom
    split
    next hfull =>
      rw [decide_eq_true_eq] at hfull
      have hsplit : (q.open_.filter (fun u => decide (b ≤ u.beat))).length =
          (q.open_.filter (·.beat == b)).length + (q.open_.filter (fun u => decide (b + 1 ≤ u.beat))).length := by
        generalize q.open_ = us
        induction us with
        | nil => rfl
        | cons u us ih =>
          simp only [List.filter_cons]
          by_cases h1 : u.beat = b
          · simp [h1, ih]; omega
          · by_cases h2 : b ≤ u.beat
            · have h3 : b + 1 ≤ u.beat := by omega
              simp [h1, h2, h3, ih]; omega
            · have h3 : ¬ b + 1 ≤ u.beat := by omega
              simp [h1, h2, h3, ih]
      obtain ⟨hle, hroom⟩ := ih (b + 1) (by omega)
      exact ⟨by omega, hroom⟩
    next hroom =>
      rw [decide_eq_true_eq, Nat.not_le] at hroom
      exact ⟨Nat.le_refl b, hroom⟩

theorem State.seqOf_setSeq_self (s : State) {d : Nat} (hd : d < 4) (q : Sequencer) : (s.setSeq d q).seqOf d = q := by
  simp [State.seqOf, State.setSeq, hd]

theorem State.seqOf_setSeq_ne (s : State) {d e : Nat} (he : e ≠ d) (q : Sequencer) : (s.setSeq d q).seqOf e = s.seqOf e := by
  simp [State.seqOf, State.setSeq, List.getElem?_set_ne (Ne.symm he)]

/-- The submission of a context, as its sequencer accepts it at beat b with a ticket. -/
def State.acceptedAs (s : State) (c x b ticket : Nat) : Subm :=
  { beat := b, die := dieOf c, core := c, ctx := x, born := (s.ctx c x).born, ticket := ticket
    slices := if s.hub.failed.contains (dieOf c) then [] else (s.ctx c x).claims }

/-- What the acceptance of a submission leaves. -/
theorem accepted_effect {c x r : Nat} {s : State} (hc : c < 1536) (hw : (s.ctx c x).wait = .submit r) (hlive : (s.ctx c x).live = true)
    (hmem : (c, x) ∈ s.submits) :
    ∃ (t : State) (b ix : Nat), exec (.submissionAccepted c x) s = .next t ∧ MemoryKept s t ∧ beatOf s.time ≤ b ∧ ix < 64 ∧
      let k := t.ctx c x
      k.ticket = some (ticketOf b (dieOf c) ix x) ∧ k.claims = (s.ctx c x).claims ∧ k.grants = [] ∧ k.wait = .none ∧
      k.rs (BitVec.ofNat 5 r) = (if BitVec.ofNat 5 r = 0 then 0 else BitVec.ofNat 64 (ticketOf b (dieOf c) ix x)) ∧
      k.pc = ((s.ctx c x).pc + 12) % 2 ^ 48 ∧ (c, x) ∉ t.submits ∧
      ∃ u, (t.seqOf (dieOf c)).open_ = (s.seqOf (dieOf c)).open_ ++ [u] ∧ u.beat = b ∧ u.core = c ∧ u.ctx = x ∧
        u.slices = (if dieOf c ∈ s.hub.failed then [] else (s.ctx c x).claims) ∧ u.ticket = ticketOf b (dieOf c) ix x := by
  let q := s.seqOf (dieOf c)
  let b := roomFrom q (q.open_.length + 1) (beatOf s.time)
  let ix := (q.open_.filter (·.beat == b)).length
  let ticket := ticketOf b (dieOf c) ix x
  let k : Ctx := { s.ctx c x with ticket := some ticket, txOpen := false, grants := [], lostDies := [] }
  let s1 : State := { s with submits := s.submits.filter (· != (c, x)) }
  let s2 := (s1.setSeq (dieOf c) { q with open_ := q.open_ ++ [s.acceptedAs c x b ticket] }).setCtx c x k
  let s3 := s2.writeReg c x (.s r) .n64 ticket
  have hd : dieOf c < 4 := by unfold dieOf; omega
  have hexec : exec (.submissionAccepted c x) s = .next (s3.finishWait c x) := by
    have hgo : (!s.submits.contains (c, x) || !(s.ctx c x).live) = false := by
      rw [hlive, List.contains_iff_mem.mpr hmem]; rfl
    show execSubmissionAccepted c x s = _
    unfold execSubmissionAccepted
    dsimp only
    split
    next r' hr' =>
      obtain rfl : r = r' := Wait.submit.inj (hw.symm.trans hr')
      rw [if_neg (by rw [hgo]; exact Bool.false_ne_true)]
      rfl
    next hne => exact absurd hw (hne r)
  obtain ⟨hle, hroom⟩ := roomFrom_spec q (q.open_.length + 1) (beatOf s.time) (Nat.lt_succ_of_le (List.length_filter_le _ _))
  have hrest := s2.countUnits_rest c x [.s r]
  obtain ⟨us, hus⟩ := s2.core_countUnits c x [.s r]
  have hctx2 : (s2.countUnits c x [.s r]).ctx c x = k := by
    rw [State.ctx, hus]
    exact State.ctx_setCtx_self (s1.setSeq (dieOf c) { q with open_ := q.open_ ++ [s.acceptedAs c x b ticket] }) c x k
  have hctx3 : s3.ctx c x = k.ws (BitVec.ofNat 5 r) (widen .n64 ticket) := by
    rw [← hctx2]
    exact State.ctx_setCtx_self (s2.countUnits c x [.s r]) c x _
  have hfin : (s3.finishWait c x).ctx c x = { k.ws (BitVec.ofNat 5 r) (widen .n64 ticket) with
      pc := ((k.ws (BitVec.ofNat 5 r) (widen .n64 ticket)).pc + 12) % 2 ^ 48, wait := .none, finish := none
      stall := (s3.core c).cc + 1 + (k.ws (BitVec.ofNat 5 r) (widen .n64 ticket)).finish.getD 0 } := by
    rw [State.finishWait, State.ctx_setCtx_self, hctx3]
  have hwiden : widen .n64 ticket = BitVec.ofNat 64 ticket := by
    refine BitVec.eq_of_toNat_eq ?_
    rw [show widen .n64 ticket = BitVec.ofNat 64 (ticket % 2 ^ 64) from rfl, BitVec.toNat_ofNat, BitVec.toNat_ofNat, Nat.mod_mod]
  have hmem3 := congrArg State.mem hrest
  have hbanks3 := congrArg State.banks hrest
  have htags3 := congrArg State.tags hrest
  have hsub3 := congrArg State.submits hrest
  have hseq3 := congrArg State.seqs hrest
  refine ⟨s3.finishWait c x, b, ix, hexec, ⟨fun a => congrArg (Memory.byte · a) hmem3, fun a => congrArg (Memory.byte · a) hbanks3, htags3⟩,
    hle, hroom, ?_⟩
  dsimp only
  rw [hfin]
  refine ⟨?_, ?_, ?_, rfl, ?_, ?_, ?_, s.acceptedAs c x b ticket, ?_, rfl, rfl, rfl, ?_, rfl⟩
  · show (k.ws (BitVec.ofNat 5 r) (widen .n64 ticket)).ticket = _
    unfold Ctx.ws; split <;> rfl
  · show (k.ws (BitVec.ofNat 5 r) (widen .n64 ticket)).claims = _
    unfold Ctx.ws; split <;> rfl
  · show (k.ws (BitVec.ofNat 5 r) (widen .n64 ticket)).grants = _
    unfold Ctx.ws; split <;> rfl
  · show (k.ws (BitVec.ofNat 5 r) (widen .n64 ticket)).rs (BitVec.ofNat 5 r) = _
    rw [Ctx.rs_ws, if_pos rfl, hwiden]
  · rw [Ctx.pc_ws]
  · rw [show (s3.finishWait c x).submits = s.submits.filter (· != (c, x)) from hsub3]
    simp
  · have hq : (s3.finishWait c x).seqOf (dieOf c) = (s1.setSeq (dieOf c) { q with open_ := q.open_ ++ [s.acceptedAs c x b ticket] }).seqOf (dieOf c) :=
      congrArg (fun v : Vector Sequencer 4 => v.toList.getD (dieOf c) Sequencer.reset) hseq3
    rw [hq, State.seqOf_setSeq_self _ hd]
  · simp only [State.acceptedAs, List.contains_iff_mem]

/-- Settles O43: each instruction by its own effect, and the acceptance by `accepted_effect`. -/
theorem transactions : Obligations.Transactions := by
  unfold Obligations.Transactions
  refine ⟨fun h a b s hi => ?_, fun c x r s hc hw hlive hmem => accepted_effect hc hw hlive hmem⟩
  intro k p
  exact ⟨fun w at_ e hlow halign htick hroom htrans hkind hdev => txdecl_effect hi hlow halign htick hroom htrans hkind hdev,
    fun hun hclaims htick => txsub_effect hi a hun hclaims htick, fun htick hlost => txwait_effect hi htick hlost,
    fun hun htick hlost hwant hquiet => txend_effect hi hun htick hlost hwant hquiet⟩

end Sys2Proof.Machine
end

section
/-!
O44: the sequencers close and apply their beats, and the slice queues grant and release.
-/

namespace Sys2Proof.Machine

open Sys2Proof

/-! ### Sequencers (R205 to R207) -/

theorem close_effect {d : Nat} {s : State} (hd : d < 4) (hmay : s.mayClose d = true) :
    ∃ t : State, exec (.batchClose d) s = .next t ∧ MemoryKept s t ∧
      t.seqOf d = { s.seqOf d with closed := beatOf s.time } ∧ ∀ e, e ≠ d → t.seqOf e = s.seqOf e := by
  refine ⟨s.setSeq d { s.seqOf d with closed := beatOf s.time }, ?_, ⟨fun _ => rfl, fun _ => rfl, rfl⟩, State.seqOf_setSeq_self s hd _,
    fun e he => State.seqOf_setSeq_ne s he _⟩
  simp only [exec, execBatchClose, event, hmay, hd, decide_true, Bool.and_self, if_true]

/-- Only the slice queues, what is released at once, and the sequencer itself change as entries are appended. -/
theorem applyRest_rest (d : Nat) (es : List Slice) (s : State) :
    ∃ (l : List Slice) (rs : List Slice) (r : List Slice), s.applyRest d es =
      State.setSeq { s with slices := s.slices ++ l, releases := rs } d { s.seqOf d with rest := r } ∧ es = l ++ r ∧
      (s.slices.length + es.length ≤ 256 → r = []) ∧ (∀ e es', es = e :: es' → s.sliceRoom e = true → ∃ l', l = e :: l') := by
  induction es generalizing s with
  | nil => exact ⟨[], s.releases, [], by rw [List.append_nil]; rfl, rfl, fun _ => rfl, nofun⟩
  | cons e es ih =>
    by_cases hroom : s.sliceRoom e = true
    · let u : State := { s with slices := s.slices ++ [e], releases := if s.entryLive e then s.releases else s.releases ++ [e] }
      obtain ⟨l, rs, r, hl, hes, hfit, -⟩ := ih u
      refine ⟨e :: l, rs, r, ?_, by rw [hes]; rfl, fun hlen => hfit ?_, fun e' es' heq _ => ⟨l, ?_⟩⟩
      · rw [State.applyRest, if_pos hroom, hl]
        simp only [u, List.append_assoc, List.singleton_append]
        rfl
      · simp only [u, List.length_append, List.length_singleton]
        simp only [List.length_cons] at hlen
        omega
      · rw [(List.cons.inj heq).1]
    · refine ⟨[], s.releases, e :: es, ?_, rfl, fun hlen => absurd ?_ hroom, fun e' es' heq hroom' => absurd ?_ hroom⟩
      · rw [State.applyRest, if_neg hroom, List.append_nil]
      · have hle := List.length_filter_le (fun f => sliceHome f.addr == sliceHome e.addr) s.slices
        simp only [List.length_cons] at hlen
        simp only [State.sliceRoom, decide_eq_true_eq]
        omega
      · rw [(List.cons.inj heq).1]; exact hroom'

/-- Pruning forgets submissions only. -/
theorem pruneBeats_seqOf (s : State) (d : Nat) : (s.pruneBeats.seqOf d).applied = (s.seqOf d).applied ∧
    (s.pruneBeats.seqOf d).rest = (s.seqOf d).rest := by
  unfold State.pruneBeats State.seqOf
  dsimp only
  simp only [Vector.toList_map, List.getD_eq_getElem?_getD, List.getElem?_map]
  cases s.seqs.toList[d]? <;> exact ⟨rfl, rfl⟩

theorem apply_effect {d b : Nat} {s : State} (hd : d < 4) (hb : s.nextBeat d = some b) (hmay : s.mayApply d = true)
    (habsent : s.hub.absent = []) :
    let es := ((List.range 4).flatMap (fun e => (s.seqOf e).open_.filter (fun u => u.beat == b))).flatMap (fun u =>
      (u.slices.filter (fun c => onDie d c.1)).map (fun c =>
        ({ addr := c.1, write := c.2, core := u.core, ctx := u.ctx, born := u.born, ticket := u.ticket, granted := false } : Slice)))
    s.slices.length + es.length ≤ 256 →
    ∃ t : State, exec (.batchApply d) s = .next t ∧ MemoryKept s t ∧ t.slices = s.slices ++ es ∧
      (t.seqOf d).applied = b + 1 ∧ (t.seqOf d).rest = [] := by
  intro es hlen
  let u := s.setSeq d { s.seqOf d with applied := b + 1 }
  have hmark (us : List Subm) : s.each us (fun s u => s.each s.hub.absent (fun s d => s.markLost u d)) = s :=
    State.each_ind (P := fun t => t = s) (fun t x ht => by rw [ht, habsent]; rfl) rfl us
  have hexec : exec (.batchApply d) s = .next (u.applyRest d es).pruneBeats := by
    simp only [exec, execBatchApply, hb, hmay, hmark]
    rfl
  obtain ⟨l, rs, r, happly, hes, hfit, -⟩ := applyRest_rest d es u
  obtain rfl := hfit hlen
  rw [List.append_nil] at hes
  have hseq : (u.applyRest d es).seqOf d = { s.seqOf d with applied := b + 1, rest := [] } := by
    rw [happly, State.seqOf_setSeq_self _ hd, State.seqOf_setSeq_self _ hd]
  obtain ⟨hap, hrest⟩ := pruneBeats_seqOf (u.applyRest d es) d
  refine ⟨_, hexec, ?_, ?_, ?_, ?_⟩
  · rw [happly]; exact ⟨fun _ => rfl, fun _ => rfl, rfl⟩
  · rw [happly, hes]; rfl
  · rw [hap, hseq]
  · rw [hrest, hseq]

theorem resume_effect {d : Nat} {s : State} {e : Slice} {r : List Slice} (hr : (s.seqOf d).rest = e :: r) (hroom : s.sliceRoom e = true) :
    ∃ t : State, exec (.sequencerApplyResume d) s = .next t ∧ MemoryKept s t ∧ ∃ l, t.slices = s.slices ++ e :: l := by
  have hmay : s.mayResume d = true := by rw [State.mayResume, hr]; exact hroom
  obtain ⟨l, rs, rest, happly, -, -, hfirst⟩ := applyRest_rest d (e :: r) s
  obtain ⟨l', rfl⟩ := hfirst e r rfl hroom
  refine ⟨(s.applyRest d (e :: r)).pruneBeats, ?_, ?_, l', ?_⟩
  · simp only [exec, execSequencerApplyResume, event, hmay, if_true, hr]
  · rw [happly]; exact ⟨fun _ => rfl, fun _ => rfl, rfl⟩
  · rw [happly]; rfl

/-! ### Slice queues (R208, R209, R212) -/

/-- A write is granted at the head of its queue only. -/
theorem mayGrant_write {i : Nat} {s : State} {e : Slice} (he : s.slices[i]? = some e) (hmay : s.mayGrant i = true) (hw : e.write = true)
    {j : Nat} {f : Slice} (hj : j < i) (hf : s.slices[j]? = some f) : f.addr ≠ e.addr := by
  unfold State.mayGrant at hmay
  rw [he] at hmay
  dsimp only at hmay
  rw [hw, if_pos rfl, Bool.and_eq_true] at hmay
  intro haddr
  have hmem : f ∈ (s.slices.take i).filter (fun f => f.addr == e.addr) := by
    rw [List.mem_filter]
    refine ⟨?_, by simpa using haddr⟩
    obtain ⟨hlt, rfl⟩ := List.getElem?_eq_some_iff.mp hf
    exact List.mem_take_iff_getElem.mpr ⟨j, by omega, rfl⟩
  rw [List.isEmpty_iff] at hmay
  rw [hmay.2] at hmem
  cases hmem

theorem noRollOut_rest (s : State) (c born : Nat) : LaunchesOnly s (s.noRollOut c born) := by
  unfold State.noRollOut
  split <;> exact ⟨_, rfl⟩

/-- A grant reaches its context, or the table of its core. -/
theorem deliverGrant_effect (s : State) (e : Slice) :
    (∃ cores ls, s.deliverGrant e = { s with cores := cores, launches := ls }) ∧
      ((s.ctx e.core e.ctx).born = e.born → (s.ctx e.core e.ctx).ticket = some e.ticket →
        ((s.deliverGrant e).ctx e.core e.ctx).grants = (s.ctx e.core e.ctx).grants ++ [e.addr] ∧
        ((s.deliverGrant e).ctx e.core e.ctx).lastGrant = (s.core e.core).cc) := by
  refine ⟨?_, fun hborn htick => ?_⟩
  · unfold State.deliverGrant
    dsimp only
    split
    · obtain ⟨ls, hls⟩ := launchesOnly_noRoll (s.setCtx e.core e.ctx { s.ctx e.core e.ctx with
        grants := (s.ctx e.core e.ctx).grants ++ [e.addr], lastGrant := (s.core e.core).cc }) e.core
      exact ⟨_, _, hls⟩
    · split
      · split
        · exact ⟨s.cores, s.launches, rfl⟩
        · obtain ⟨ls, hls⟩ := noRollOut_rest _ _ _
          exact ⟨_, _, hls⟩
      · exact ⟨s.cores, s.launches, rfl⟩
  · have hholds : s.holdsTicket e = true := by rw [State.holdsTicket, hborn, htick]; simp
    let k : Ctx := { s.ctx e.core e.ctx with grants := (s.ctx e.core e.ctx).grants ++ [e.addr], lastGrant := (s.core e.core).cc }
    have hd : s.deliverGrant e = (s.setCtx e.core e.ctx k).noRoll e.core := if_pos hholds
    obtain ⟨ls, hls⟩ := launchesOnly_noRoll (s.setCtx e.core e.ctx k) e.core
    have hctx : (s.deliverGrant e).ctx e.core e.ctx = k := by
      rw [hd, hls]
      exact State.ctx_setCtx_self s e.core e.ctx k
    rw [hctx]
    exact ⟨rfl, rfl⟩

theorem grant_effect {i : Nat} {s : State} {e : Slice} (he : s.slices[i]? = some e) (hmay : s.mayGrant i = true) :
    ∃ t : State, exec (.sliceGrant i) s = .next t ∧ MemoryKept s t ∧ t.slices = s.slices.set i { e with granted := true } ∧
      ((s.ctx e.core e.ctx).born = e.born → (s.ctx e.core e.ctx).ticket = some e.ticket →
        (t.ctx e.core e.ctx).grants = (s.ctx e.core e.ctx).grants ++ [e.addr] ∧
        (t.ctx e.core e.ctx).lastGrant = (s.core e.core).cc) := by
  obtain ⟨⟨cores, ls, hrest⟩, hgrant⟩ := deliverGrant_effect { s with slices := s.slices.set i { e with granted := true } } e
  refine ⟨_, ?_, ?_, ?_, hgrant⟩
  · simp only [exec, execSliceGrant, he, event, hmay, if_true]
  · rw [hrest]; exact ⟨fun _ => rfl, fun _ => rfl, rfl⟩
  · rw [hrest]

theorem release_effect {i : Nat} {s : State} {e : Slice} (he : s.releases[i]? = some e) (hmay : s.mayRelease i = true) :
    ∃ t : State, exec (.sliceRelease i) s = .next t ∧ MemoryKept s t ∧ t.releases = s.releases.eraseIdx i ∧
      (∀ f ∈ t.slices, ¬ (f.addr = e.addr ∧ f.born = e.born ∧ f.ticket = e.ticket)) ∧
      (∀ f ∈ s.slices, ¬ (f.addr = e.addr ∧ f.born = e.born ∧ f.ticket = e.ticket) → f ∈ t.slices) := by
  have hkeep (f : Slice) : (!(f.addr == e.addr && f.born == e.born && f.ticket == e.ticket)) = true ↔
      ¬ (f.addr = e.addr ∧ f.born = e.born ∧ f.ticket = e.ticket) := by
    simp
    tauto
  refine ⟨{ s with
      releases := s.releases.eraseIdx i
      slices := s.slices.filter (fun f => !(f.addr == e.addr && f.born == e.born && f.ticket == e.ticket)) }, ?_,
    ⟨fun _ => rfl, fun _ => rfl, rfl⟩, rfl, fun f hf => (hkeep f).mp (List.mem_filter.mp hf).2,
    fun f hf hne => List.mem_filter.mpr ⟨hf, (hkeep f).mpr hne⟩⟩
  simp only [exec, execSliceRelease, he, event, hmay, if_true]

/-- A release leaves once the posted stores of its context have ended (R212). -/
theorem mayRelease_stores {i : Nat} {s : State} (hmay : s.mayRelease i = true) : ∃ e, s.releases[i]? = some e ∧
    ∀ a ∈ s.net, ¬ (a.core = e.core ∧ a.ctx = e.ctx ∧ a.born = e.born ∧ a.jrn.isSome = true ∧ a.refused = none) := by
  unfold State.mayRelease at hmay
  cases he : s.releases[i]? with
  | none => rw [he] at hmay; cases hmay
  | some e =>
    rw [he] at hmay
    dsimp only at hmay
    rw [Bool.and_eq_true, List.all_eq_true] at hmay
    refine ⟨e, rfl, fun a ha ⟨h1, h2, h3, h4, h5⟩ => ?_⟩
    have := hmay.1 a ha
    simp [h1, h2, h3, h4, h5] at this

theorem hold_effect {c x : Nat} {s : State} (hmay : s.mayHold c x = true) :
    ∃ (t : State) (tr : Trap), exec (.txHold c x) s = .next t ∧ MemoryKept s t ∧
      (t.ctx c x).traps = (s.ctx c x).traps ++ [tr] ∧ tr.cause = 0x0E ∧ tr.async = true ∧
      (t.ctx c x).lastGrant = (s.core c).cc := by
  let k : Ctx := { s.ctx c x with lastGrant := (s.core c).cc }
  let tr : Trap := { cause := 0x0E, detail := 0, resume := 0, fpc := (s.ctx c x).pc, va := 0, ipa := 0, jrn := none, async := true }
  have hctx : ((s.setCtx c x k).pendTrap c x tr).ctx c x = { k with traps := k.traps ++ [tr] } := by
    rw [State.pendTrap, State.ctx_setCtx_self, State.ctx_setCtx_self]
  refine ⟨(s.setCtx c x k).pendTrap c x tr, tr, ?_, ⟨fun _ => rfl, fun _ => rfl, rfl⟩, ?_, rfl, rfl, ?_⟩
  · simp only [exec, execTxHold, event, hmay, if_true]
    rfl
  · rw [hctx]
  · rw [hctx]

/-- Settles O44: a sequencer's beats by `close_effect`, `apply_effect` and `resume_effect`, a slice queue's entries by `grant_effect`,
`release_effect` and `hold_effect`. -/
theorem sequencersAndSlices : Obligations.SequencersAndSlices := by
  unfold Obligations.SequencersAndSlices
  exact ⟨fun d s hd => ⟨fun hmay => close_effect hd hmay, fun b hb hmay habsent => apply_effect hd hb hmay habsent,
      fun e r hr hroom => resume_effect hr hroom⟩,
    fun i s e he hmay => ⟨fun hw j f hj hf => mayGrant_write he hmay hw hj hf, grant_effect he hmay⟩,
    fun i s e he hmay => release_effect he hmay, fun i s hmay => mayRelease_stores hmay, fun c x s hmay => hold_effect hmay⟩

end Sys2Proof.Machine
end

section
/-!
O45: banks change hands. Each operation on slots and attach tables says once what it does to the slot, to the bank's entry and to every
other; the instructions and the events of the attach tables are put together from them.
-/

namespace Sys2Proof.Machine

open Sys2Proof

/-! ### Operations on slots and attach tables -/

/-- Slots, attach tables and bookkeeping may differ; every context stands as before. -/
structure BankShift (s t : State) : Prop where
  rest : ∃ cores clusters launches hub, t = { s with cores := cores, clusters := clusters, launches := launches, hub := hub }
  ctxs : ∀ c, (t.core c).ctxs = (s.core c).ctxs

theorem BankShift.refl (s : State) : BankShift s s := ⟨⟨_, _, _, _, rfl⟩, fun _ => rfl⟩

theorem BankShift.trans {s t u : State} (hst : BankShift s t) (htu : BankShift t u) : BankShift s u := by
  obtain ⟨⟨_, _, _, _, rfl⟩, hx⟩ := hst
  obtain ⟨⟨_, _, _, _, rfl⟩, hx'⟩ := htu
  exact ⟨⟨_, _, _, _, rfl⟩, fun c => (hx' c).trans (hx c)⟩

theorem BankShift.kept {s t : State} (h : BankShift s t) : MemoryKept s t := by
  obtain ⟨⟨_, _, _, _, rfl⟩, -⟩ := h
  exact ⟨fun _ => rfl, fun _ => rfl, rfl⟩

theorem BankShift.me {s t : State} (h : BankShift s t) : t.me = s.me := by
  have hx := h.ctxs s.cur
  obtain ⟨⟨_, _, _, _, rfl⟩, -⟩ := h
  rw [State.me, State.ctx, hx]
  rfl

theorem BankShift.nonce {s t : State} (h : BankShift s t) : t.nonce = s.nonce := by
  obtain ⟨⟨_, _, _, _, rfl⟩, -⟩ := h
  rfl

theorem BankShift.cur {s t : State} (h : BankShift s t) : t.cur = s.cur := by
  obtain ⟨⟨_, _, _, _, rfl⟩, -⟩ := h
  rfl

theorem bankShift_setCore (s : State) (c : Nat) {k : Core} (hk : k.ctxs = (s.core c).ctxs) : BankShift s (s.setCore c k) := by
  refine ⟨⟨_, s.clusters, s.launches, s.hub, rfl⟩, fun d => ?_⟩
  by_cases hd : d = c
  · rw [hd, State.core_setCore_self]; exact hk
  · rw [State.core_setCore_ne _ _ _ _ hd]

theorem bankShift_setHitch (s : State) (pkg : Nat) (h : Hitch) : BankShift s (s.setHitch pkg h) := ⟨⟨_, _, _, _, rfl⟩, fun _ => rfl⟩

theorem bankShift_noRoll (s : State) (c : Nat) : BankShift s (s.noRoll c) := by
  obtain ⟨ls, hls⟩ := launchesOnly_noRoll s c
  exact ⟨⟨s.cores, s.clusters, ls, s.hub, hls⟩, fun d => by rw [hls]; rfl⟩

theorem noRoll_cores (s : State) (c : Nat) : (s.noRoll c).cores = s.cores := by
  obtain ⟨ls, hls⟩ := launchesOnly_noRoll s c
  rw [hls]

theorem noRoll_slotBank (s : State) (c d n : Nat) : (s.noRoll c).slotBank d n = s.slotBank d n := by
  obtain ⟨ls, hls⟩ := launchesOnly_noRoll s c
  rw [hls]
  rfl

theorem noRoll_hitch (s : State) (c : Nat) : (s.noRoll c).hitch = s.hitch := by
  obtain ⟨ls, hls⟩ := launchesOnly_noRoll s c
  rw [hls]
  rfl

theorem noRoll_core (s : State) (c d : Nat) : (s.noRoll c).core d = s.core d := by
  obtain ⟨ls, hls⟩ := launchesOnly_noRoll s c
  rw [hls]
  rfl

theorem freeBank_cores (s : State) (pkg : Nat) : (s.freeBank pkg).cores = s.cores := by
  unfold State.freeBank State.unplace
  dsimp only
  split <;> rfl

theorem freeBank_core (s : State) (pkg c : Nat) : (s.freeBank pkg).core c = s.core c := by rw [State.core, freeBank_cores]; rfl

theorem bankShift_freeBank (s : State) (pkg : Nat) : BankShift s (s.freeBank pkg) := by
  obtain ⟨_, _, _, h, -⟩ := banksMove_freeBank 0 s pkg
  exact ⟨⟨_, _, _, _, h⟩, fun c => by rw [freeBank_core]⟩

/-- What became of the bank handed from a slot changes no slot. -/
theorem reoutbound_effect (s : State) (c slot pkg status : Nat) :
    let t := s.reoutbound c slot pkg status
    BankShift s t ∧ t.hitch = s.hitch ∧ (∀ d n, t.slotBank d n = s.slotBank d n) ∧ (∀ d, (t.core d).unit = (s.core d).unit) ∧
      t.launches = s.launches := by
  intro t
  have houtbound (p : Nat) : BankShift s (s.outbound c slot p status) ∧ (s.outbound c slot p status).hitch = s.hitch ∧
      (∀ d n, (s.outbound c slot p status).slotBank d n = s.slotBank d n) ∧
      (∀ d, ((s.outbound c slot p status).core d).unit = (s.core d).unit) ∧ (s.outbound c slot p status).launches = s.launches := by
    refine ⟨bankShift_setCore s c rfl, rfl, fun d n => ?_, fun d => ?_, rfl⟩
    · by_cases hd : d = c
      · rw [hd, State.slotBank, State.outbound, State.core_setCore_self]; rfl
      · rw [State.slotBank, State.outbound, State.core_setCore_ne _ _ _ _ hd]; rfl
    · by_cases hd : d = c
      · rw [hd, State.outbound, State.core_setCore_self]
      · rw [State.outbound, State.core_setCore_ne _ _ _ _ hd]
  have hsame : BankShift s s ∧ s.hitch = s.hitch ∧ (∀ d n, s.slotBank d n = s.slotBank d n) ∧
      (∀ d, (s.core d).unit = (s.core d).unit) ∧ s.launches = s.launches := ⟨BankShift.refl s, rfl, fun _ _ => rfl, fun _ => rfl, rfl⟩
  unfold t State.reoutbound
  split
  · split
    · exact houtbound pkg
    · exact hsame
  · exact hsame

/-- A bank put into a slot (R159). -/
theorem hitchTo_effect (s : State) (pkg c slot : Nat) :
    let t := s.hitchTo pkg c slot
    BankShift s t ∧ t.slotBank c slot = some pkg ∧ (∀ m, m ≠ slot → t.slotBank c m = s.slotBank c m) ∧
      t.hitch pkg = { Hitch.reset with st := .hitched, holder := c, slot := slot, owner := (s.core c).unit } ∧
      (∀ p, p ≠ pkg → t.hitch p = s.hitch p) := by
  intro t
  let h : Hitch := { Hitch.reset with st := .hitched, holder := c, slot := slot, owner := (s.core c).unit }
  let u := (s.freeBank pkg).setHitch pkg h
  have ht : t = u.setCore c { u.core c with slots := Tab.put (u.core c).slots slot pkg } := rfl
  have hu : u.core c = s.core c := freeBank_core s pkg c
  refine ⟨((bankShift_freeBank s pkg).trans (bankShift_setHitch _ pkg h)).trans (bankShift_setCore u c rfl), ?_, fun m hm => ?_, ?_, fun p hp => ?_⟩
  · rw [State.slotBank, ht, State.core_setCore_self]
    exact Tab.get?_put_self _ _ _
  · rw [State.slotBank, ht, State.core_setCore_self, State.slotBank, ← hu]
    exact Tab.get?_put_ne _ _ _ _ hm
  · show u.hitch pkg = h
    rw [State.hitch_setHitch, if_pos rfl]
  · show u.hitch p = s.hitch p
    rw [State.hitch_setHitch, if_neg hp, hitch_freeBank, if_neg hp]

/-- A table filtered by its keys. -/
theorem get?_filter_key {α : Type} (t : Tab α) (f : Nat → Bool) (k : Nat) :
    Tab.get? (t.filter (fun e => f e.1)) k = if f k then Tab.get? t k else none := by
  induction t with
  | nil => split <;> rfl
  | cons e t ih =>
    obtain ⟨j, a⟩ := e
    by_cases hj : j = k
    · subst hj
      cases hf : f j with
      | true => simp [hf, Tab.get?]
      | false => simpa [hf] using ih
    · cases hf : f j with
      | true => simpa [hf, Tab.get?, hj] using ih
      | false => simpa [hf, Tab.get?, hj] using ih

theorem get?_drop_ne {α : Type} (t : Tab α) {k j : Nat} (h : j ≠ k) : Tab.get? (Tab.drop t k) j = Tab.get? t j :=
  (get?_filter_key t (· != k) j).trans (if_pos (by simpa using h))

/-- A byte wiped, in any memory. -/
theorem byte_wiped (m : Memory) (a n b : Nat) : (m.wipe a n).byte b = if a ≤ b ∧ b < a + n then 0 else m.byte b := by
  induction m with
  | nil => split <;> rfl
  | cons c m ih =>
    unfold Memory.wipe at ih ⊢
    rw [List.filter_cons]
    by_cases hc : c.1 < a ∨ a + n ≤ c.1
    · rw [if_pos (by simpa using hc)]
      by_cases hb : c.1 = b
      · rw [if_neg (by omega)]
        simp [Memory.byte, hb]
      · simpa [Memory.byte, hb] using ih
    · rw [if_neg (by simpa using hc), ih]
      by_cases hb : c.1 = b
      · rw [if_pos (by omega), if_pos (by omega)]
      · simp [Memory.byte, hb]

theorem get?_drop_self {α : Type} (t : Tab α) (k : Nat) : Tab.get? (Tab.drop t k) k = none := by
  refine Tab.get?_of_not_mem_keys fun h => ?_
  obtain ⟨e, he, hk⟩ := List.mem_map.mp h
  have := (List.mem_filter.mp he).2
  simp [hk] at this

/-- A bank out of its slot. -/
theorem emptySlot_effect (s : State) (c slot : Nat) :
    let t := s.emptySlot c slot
    BankShift s t ∧ t.hitch = s.hitch ∧ t.slotBank c slot = none ∧ (∀ d, (t.core d).unit = (s.core d).unit) ∧ t.launches = s.launches := by
  refine ⟨bankShift_setCore s c rfl, rfl, ?_, fun d => ?_, rfl⟩
  · rw [State.slotBank, State.emptySlot, State.core_setCore_self]
    exact get?_drop_self _ _
  · by_cases hd : d = c
    · rw [hd, State.emptySlot, State.core_setCore_self]
    · rw [State.emptySlot, State.core_setCore_ne _ _ _ _ hd]

/-- A bank revoked is out of its slot, and wiping (R168). -/
theorem revoke_effect (s : State) (pkg : Nat) :
    let t := s.revoke pkg
    BankShift s t ∧ t.hitch pkg = { Hitch.reset with st := .wiping } ∧
      (s.slotBank (s.hitch pkg).holder (s.hitch pkg).slot = some pkg → t.slotBank (s.hitch pkg).holder (s.hitch pkg).slot = none) := by
  intro t
  let k := s.hitch pkg
  let u := if s.slotBank k.holder k.slot == some pkg then s.emptySlot k.holder k.slot else s
  let flying := k.st == .draining || k.st == .transit || k.st == .returning
  let v := if flying then u.reoutbound k.holder k.slot pkg 5 else u
  have ht : t = (v.freeBank pkg).setHitch pkg { Hitch.reset with st := .wiping } := rfl
  have hu : BankShift s u ∧ (s.slotBank k.holder k.slot = some pkg → u.slotBank k.holder k.slot = none) := by
    obtain ⟨hshift, -, hnone, -⟩ := emptySlot_effect s k.holder k.slot
    unfold u
    split
    · exact ⟨hshift, fun _ => hnone⟩
    next hne => exact ⟨BankShift.refl s, fun h => absurd (by simpa using h) hne⟩
  have hv : BankShift u v ∧ v.slotBank k.holder k.slot = u.slotBank k.holder k.slot := by
    obtain ⟨hshift, -, hslots, -⟩ := reoutbound_effect u k.holder k.slot pkg 5
    unfold v
    split
    · exact ⟨hshift, hslots _ _⟩
    · exact ⟨BankShift.refl u, rfl⟩
  have hfree : (v.freeBank pkg).slotBank k.holder k.slot = v.slotBank k.holder k.slot := by
    rw [State.slotBank, freeBank_core]; rfl
  refine ⟨((hu.1.trans hv.1).trans (bankShift_freeBank v pkg)).trans (bankShift_setHitch _ pkg _), ?_, fun hs => ?_⟩
  · rw [ht, State.hitch_setHitch, if_pos rfl]
  · exact hfree.trans (hv.2.trans (hu.2 hs))

/-- The unit that a bank is for is found in what no bank operation touches. -/
theorem unitAt_noRoll {s u : State} {c v : Nat} (hunit : ∀ d, (u.core d).unit = (s.core d).unit) (hl : u.launches = (s.noRoll c).launches) :
    u.unitAt c v = s.unitAt c v := by
  have hlaunchOf : u.launchOf c = (s.noRoll c).launchOf c := by
    unfold State.launchOf State.launch?
    rw [hunit, hl, noRoll_core]
  unfold State.unitAt
  rw [hlaunchOf, hunit]
  cases hs : s.launchOf c with
  | none =>
    have hn : s.noRoll c = s := by unfold State.noRoll; rw [hs]
    rw [hn, hs]
  | some l =>
    have hn : s.noRoll c = s.setLaunch { l with noRoll := true } := by unfold State.noRoll; rw [hs]
    have hfound : (s.setLaunch { l with noRoll := true }).launchOf c = some { l with noRoll := true } := by
      unfold State.launchOf at hs ⊢
      cases hu : (s.core c).unit with
      | none => rw [hu] at hs; cases hs
      | some k =>
        rw [hu] at hs
        rw [show ((s.setLaunch { l with noRoll := true }).core c).unit = some k from hu]
        exact launch?_setLaunch hs rfl rfl
    rw [hn, hfound]

/-- The fields of a slot's status word (R170). -/
theorem status_bits {o st pkg : Nat} (hst : st < 4) (hpkg : pkg < 2 ^ 14) :
    let w := o * 2 ^ 29 + st * 2 ^ 27 + pkg * 2 ^ 13
    bits w 28 27 = st ∧ bits w 26 13 = pkg ∧ w / 2 ^ 29 = o := by
  intro w
  unfold bits w
  omega

/-! ### Instructions (R162, R163, R165, R168, R170, R191) -/

section
variable {h : Hdr} {s : State} (hi : s.issues h {} = true)
include hi

theorem battach_effect {x : OpSlotC} (hun : s.me.unresolved = none) (hv : (s.me.rs x.c).toNat < 60)
    (hslot : s.slotBank s.cur x.slot.toNat = none) (hfree : (s.hitch (clusterOf s.cur * 64 + (s.me.rs x.c).toNat)).st = .free) :
    let c := s.cur
    let n := x.slot.toNat
    let v := (s.me.rs x.c).toNat
    ∃ t : State, exec (.battach h x) s = .next (t.goOn h) ∧ t.me = s.me ∧ MemoryKept s t ∧
      t.slotBank c n = some (clusterOf c * 64 + v) ∧ (∀ m, m ≠ n → t.slotBank c m = s.slotBank c m) ∧
      t.hitch (clusterOf c * 64 + v) = { Hitch.reset with st := .hitched, holder := c, slot := n, owner := s.mycore.unit } ∧
      (∀ p, p ≠ clusterOf c * 64 + v → t.hitch p = s.hitch p) := by
  intro c n v
  obtain ⟨hshift, hself, hother, hentry, hrest⟩ := hitchTo_effect (s.noRoll c) (clusterOf c * 64 + v) c n
  have hall := (bankShift_noRoll s c).trans hshift
  refine ⟨_, ?_, hall.me, hall.kept, hself, fun m hm => (hother m hm).trans (noRoll_slotBank s c c m), ?_,
    fun p hp => (hrest p hp).trans (congrFun (noRoll_hitch s c) p)⟩
  · simp only [exec, execBattach]
    rw [issue_issues _ _ _ _ hi, State.firm, hun, hslot, hfree, if_neg (by simp), if_neg (by simpa using hv), if_neg (by decide)]
    rfl
  · rw [hentry, noRoll_core]
    rfl

theorem bhand_effect {x : OpSlotC} {pkg : Nat} (hun : s.me.unresolved = none) (hopen : s.openSlot s.cur x.slot.toNat = .ok pkg)
    (hv : (s.me.rs x.c).toNat < 1536) (hne : (s.me.rs x.c).toNat ≠ s.cur)
    (hpart : (s.cluster (clusterOf (s.me.rs x.c).toNat)).part = (s.cluster (clusterOf s.cur)).part)
    (hreach : s.reaches s.cur (clusterOf (s.me.rs x.c).toNat) = true) (hreachable : reachable pkg (s.me.rs x.c).toNat = true) :
    let c := s.cur
    let n := x.slot.toNat
    let v := (s.me.rs x.c).toNat
    ∃ t : State, exec (.bhand h x) s = .next (t.goOn h) ∧ t.me = s.me ∧ MemoryKept s t ∧ t.slotBank c n = none ∧
      t.hitch pkg = { st := .draining, holder := c, slot := n, target := v, order := s.nonce, doomed := false,
                      owner := s.mycore.unit, dest := s.unitAt c v } ∧
      (∀ p, p ≠ pkg → t.hitch p = s.hitch p) ∧ Tab.get? t.mycore.outb n = some { status := 1, pkg := pkg } := by
  intro c n v
  obtain ⟨hempty, hhitch, hnone, hunit, hlaunches⟩ := emptySlot_effect (s.noRoll c) c n
  let u := (s.noRoll c).emptySlot c n
  have hunit' (d : Nat) : (u.core d).unit = (s.core d).unit := (hunit d).trans (congrArg Core.unit (noRoll_core s c d))
  have hall := (bankShift_noRoll s c).trans hempty
  have hdest : u.unitAt c v = s.unitAt c v := unitAt_noRoll hunit' hlaunches
  let k : Hitch := { st := .draining, holder := c, slot := n, target := v, order := s.nonce, doomed := false
                     owner := s.mycore.unit, dest := s.unitAt c v }
  let w := u.setHitch pkg k
  have hw : w = u.setHitch pkg { st := .draining, holder := c, slot := n, target := v, order := u.nonce, doomed := false
                                 owner := (u.core c).unit, dest := u.unitAt c v } := by
    rw [hdest, hunit' c, show u.nonce = s.nonce from hall.nonce]
    rfl
  have hshift := (hall.trans (bankShift_setHitch u pkg k)).trans
    (bankShift_setCore w c (k := { w.core c with outb := Tab.put (w.core c).outb n { status := 1, pkg := pkg } }) rfl)
  have hcur : (w.outbound c n pkg 1).cur = s.cur := hall.cur
  refine ⟨w.outbound c n pkg 1, ?_, hshift.me, hshift.kept, ?_, ?_, fun p hp => ?_, ?_⟩
  · have hp : ((s.cluster (clusterOf v)).part != (s.cluster (clusterOf c)).part || !s.reaches c (clusterOf v)) = false := by
      rw [hpart, hreach]; simp [c]
    have ht : (decide (1536 ≤ v) || decide (v = c)) = false := by simp; omega
    simp only [exec, execBhand]
    rw [issue_issues _ _ _ _ hi, State.firm, hun, hopen, if_neg (by simp)]
    dsimp only
    rw [if_neg (by rw [ht]; decide), if_neg (by rw [hp]; decide), if_neg (by rw [hreachable]; decide), hw]
    rfl
  · rw [State.slotBank, State.outbound, State.core_setCore_self]
    exact hnone
  · show w.hitch pkg = k
    rw [State.hitch_setHitch, if_pos rfl]
  · show w.hitch p = s.hitch p
    rw [State.hitch_setHitch, if_neg hp, show u.hitch = _ from hhitch, noRoll_hitch]
  · rw [State.mycore, hcur, State.outbound, State.core_setCore_self]
    exact Tab.get?_put_self _ _ _

theorem bwait_effect {slot : BitVec 5} (hun : s.me.unresolved = none) :
    let n := slot.toNat
    ((s.slotBank s.cur n).isSome = true → exec (.bwait h slot) s = .next (s.goOn h)) ∧
    (s.slotBank s.cur n = none → s.waiting s.cur n = none → exec (.bwait h slot) s = .next s.held) ∧
    (∀ pkg, s.slotBank s.cur n = none → s.waiting s.cur n = some pkg →
      ∃ t : State, exec (.bwait h slot) s = .next (t.goOn h) ∧ MemoryKept s t ∧ RegsKept [] s.me t.me ∧ t.slotBank s.cur n = some pkg ∧
        t.hitch pkg = { Hitch.reset with st := .hitched, holder := s.cur, slot := n, owner := s.mycore.unit }) := by
  intro n
  have hexec : exec (.bwait h slot) s = (if (s.slotBank s.cur n).isSome then Res.done s else match s.waiting s.cur n with
      | some pkg => .done (s.accept s.cur n pkg)
      | none => .hold).out h s := by
    simp only [exec, execBwait]
    rw [issue_issues _ _ _ _ hi]
    simp only [State.firm, hun, Option.isSome_none, Bool.false_eq_true, if_false]
    rfl
  refine ⟨fun hs => by rw [hexec, if_pos hs]; rfl, fun hs hw => by rw [hexec, hs, hw]; rfl, fun pkg hs hw => ?_⟩
  obtain ⟨hshift, hself, -, hentry, -⟩ := hitchTo_effect s pkg s.cur n
  obtain ⟨hshift', hhitch', hslots', -⟩ := reoutbound_effect (s.hitchTo pkg s.cur n) (s.hitch pkg).holder n pkg
    (if (s.hitch pkg).st == .transit then 3 else 4)
  have hall := hshift.trans hshift'
  refine ⟨s.accept s.cur n pkg, by rw [hexec, hs, hw]; rfl, hall.kept, ?_, ?_, ?_⟩
  · rw [show (s.accept s.cur n pkg).me = _ from hall.me]
    exact ⟨fun _ _ => rfl, fun _ _ => rfl, fun _ _ => rfl⟩
  · exact (hslots' s.cur n).trans hself
  · rw [show (s.accept s.cur n pkg).hitch = _ from hhitch', hentry]
    rfl

theorem bstat_effect {y : OpASlot} :
    let c := s.cur
    ∃ w : Nat, exec (.bstat h y) s = .next (s.wroteS h y.a (BitVec.ofNat 64 w)) ∧
      let m := y.slot.toNat
      let o := Tab.getD s.mycore.outb m { status := 0, pkg := 0 }
      (o.pkg < 2 ^ 14 → ∀ pkg, s.slotBank c m = some pkg → pkg < 2 ^ 14 →
        bits w 28 27 = (if m ∈ s.mycore.frozen then 2 else 1) ∧ bits w 26 13 = pkg ∧ w / 2 ^ 29 = o.status) ∧
      (o.pkg < 2 ^ 14 → s.slotBank c m = none →
        bits w 28 27 = (if (s.waiting c m).isSome then 3 else 0) ∧ bits w 26 13 = o.pkg ∧ w / 2 ^ 29 = o.status) := by
  intro c
  refine ⟨s.slotStatus c y.slot.toNat, exec_done
    (body := fun s => .done (s.setMe (s.me.ws y.a (BitVec.ofNat 64 (s.slotStatus s.cur y.slot.toNat))))) hi rfl rfl, ?_⟩
  intro m o
  refine ⟨fun _ pkg hs hpkg => ?_, fun ho hs => ?_⟩
  · have hw : s.slotStatus c m = o.status * 2 ^ 29 + (if m ∈ s.mycore.frozen then 2 else 1) * 2 ^ 27 + pkg * 2 ^ 13 := by
      unfold State.slotStatus
      rw [hs]
      simp only [List.contains_iff_mem, Option.getD_some]
      rfl
    rw [hw]
    exact status_bits (by split <;> decide) hpkg
  · have hw : s.slotStatus c m = o.status * 2 ^ 29 + (if (s.waiting c m).isSome then 3 else 0) * 2 ^ 27 + o.pkg * 2 ^ 13 := by
      unfold State.slotStatus
      rw [hs]
      rfl
    rw [hw]
    exact status_bits (by split <;> decide) ho

theorem bswz_effect {z : OpSCode} {pkg : Nat} (hun : s.me.unresolved = none) (hspace : (s.me.rs z.b).toNat / 2 ^ 48 = 0x1000)
    (hoff : (s.me.rs z.b).toNat % 2 ^ 48 < 0x200000) (halign : (s.me.rs z.b).toNat % 4096 = 0)
    (hopen : s.openSlot s.cur ((s.me.rs z.b).toNat % 2 ^ 48 / 65536) = .ok pkg) (hbusy : s.bankBusy s.cur .ls pkg = false) :
    let p := (s.me.rs z.b).toNat
    ∃ t : State, exec (.bswz h z) s = .next (t.goOn h) ∧ t.me = s.me ∧ t.mem = s.mem ∧ t.banks = s.banks ∧
      t.tag pkg (p % 65536 / 4096) = z.code.toNat ∧
      (∀ q g, q * 16 + g ≠ pkg * 16 + p % 65536 / 4096 → t.tag q g = s.tag q g) := by
  intro p
  obtain ⟨-, hres⟩ := s.resolve_window s.cur hspace hoff
  let u := s.logLine pkg (p % 65536 / 64)
  have hu : LogsOnly s u := s.logLine_logsOnly pkg (p % 65536 / 64)
  have hme : u.me = s.me := by rw [show u = _ from hu]; rfl
  have hmem : u.mem = s.mem := by rw [show u = _ from hu]
  have hbanks : u.banks = s.banks := by rw [show u = _ from hu]
  have htag : u.tag = s.tag := by rw [show u = _ from hu]; rfl
  have hset (q g : Nat) : (u.setTag pkg (p % 65536 / 4096) z.code.toNat).tag q g =
      if q * 16 + g = pkg * 16 + p % 65536 / 4096 then z.code.toNat else s.tag q g := by
    rw [← htag]
    simp only [State.tag, State.setTag]
    split
    next h0 =>
      by_cases hk : q * 16 + g = pkg * 16 + p % 65536 / 4096
      · rw [if_pos hk, hk, h0, Tab.getD, get?_drop_self]
        rfl
      · rw [if_neg hk, Tab.getD, get?_drop_ne _ hk]
        rfl
    next =>
      by_cases hk : q * 16 + g = pkg * 16 + p % 65536 / 4096
      · rw [if_pos hk, hk, Tab.getD_put_self]
      · rw [if_neg hk, Tab.getD_put_ne _ _ _ _ _ hk]
  refine ⟨u.setTag pkg (p % 65536 / 4096) z.code.toNat, ?_, hme, hmem, hbanks, ?_, fun q g hqg => ?_⟩
  · simp only [exec, execBswz]
    rw [issue_issues _ _ _ _ hi]
    simp only [State.firm, hun, Option.isSome_none, Bool.false_eq_true, if_false]
    rw [hres]
    dsimp only
    rw [if_neg (by rw [halign]; decide), hopen]
    dsimp only
    rw [if_neg (by rw [hbusy]; decide)]
    rfl
  · rw [hset, if_pos rfl]
  · rw [hset, if_neg hqg]

theorem brevoke_effect {b : SReg} (hun : s.me.unresolved = none) (hlevel : 1 ≤ s.me.level) (hpkg : (s.me.rs b).toNat < 192 * 64)
    (hbank : (s.me.rs b).toNat % 64 < 60) (hpart : (s.cluster ((s.me.rs b).toNat / 64)).part = (s.cluster (clusterOf s.cur)).part) :
    let pkg := (s.me.rs b).toNat
    ∃ t : State, exec (.brevoke h b) s = .next (t.goOn h) ∧ MemoryKept s t ∧ RegsKept [] s.me t.me ∧
      t.hitch pkg = { Hitch.reset with st := .wiping } ∧
      (s.slotBank (s.hitch pkg).holder (s.hitch pkg).slot = some pkg → t.slotBank (s.hitch pkg).holder (s.hitch pkg).slot = none) := by
  intro pkg
  obtain ⟨hshift, hentry, hslot⟩ := revoke_effect (s.noRoll s.cur) pkg
  have hall := (bankShift_noRoll s s.cur).trans hshift
  refine ⟨(s.noRoll s.cur).revoke pkg, ?_, hall.kept, ?_, hentry, fun hs => ?_⟩
  · have hp : (decide (192 * 64 ≤ pkg) || (s.cluster (pkg / 64)).part != (s.cluster (clusterOf s.cur)).part) = false := by
      rw [show (s.cluster (pkg / 64)).part = _ from hpart]
      simpa using hpkg
    simp only [exec, execBrevoke]
    rw [issue_issues _ _ _ _ hi]
    simp only [State.firm, hun, Option.isSome_none, Bool.false_eq_true, if_false]
    rw [if_neg (by omega), if_neg (by rw [hp]; decide), if_neg (by simpa using hbank)]
    rfl
  · rw [show ((s.noRoll s.cur).revoke pkg).me = _ from hall.me]
    exact ⟨fun _ _ => rfl, fun _ _ => rfl, fun _ _ => rfl⟩
  · rw [noRoll_hitch] at hslot
    exact hslot (by rw [noRoll_slotBank]; exact hs)

end

/-! ### Events of the attach tables (R163 to R168) -/

theorem handOver_effect {pkg : Nat} {s : State} (hmay : s.mayHandOver pkg = true) :
    let k := s.hitch pkg
    (k.doomed = false → (s.core k.target).dead = false →
      ∃ t : State, exec (.handoverPoint pkg) s = .next t ∧ MemoryKept s t ∧
        t.hitch pkg = { k with st := .transit, order := s.nonce } ∧ ∀ p, p ≠ pkg → t.hitch p = s.hitch p) ∧
    (k.doomed = true → ∃ t : State, exec (.handoverPoint pkg) s = .next t ∧ MemoryKept s t ∧ (t.hitch pkg).st = .frozen) := by
  intro k
  obtain ⟨hshift, hhitch, -⟩ := reoutbound_effect s k.holder k.slot pkg 2
  refine ⟨fun hdoom hdead => ?_, fun hdoom => ?_⟩
  · refine ⟨(s.reoutbound k.holder k.slot pkg 2).setHitch pkg { k with st := .transit, order := s.nonce }, ?_,
      (hshift.trans (bankShift_setHitch _ pkg _)).kept, ?_, fun p hp => ?_⟩
    · simp only [exec, execHandoverPoint, event, hmay, if_true]
      rw [if_neg (by rw [show (s.hitch pkg).doomed = false from hdoom]; decide),
        if_neg (by rw [show (s.core (s.hitch pkg).target).dead = false from hdead]; decide)]
    · rw [State.hitch_setHitch, if_pos rfl]
    · rw [State.hitch_setHitch, if_neg hp, hhitch]
  · refine ⟨s.setHitch pkg { k with st := .frozen, target := 0, order := 0, doomed := false }, ?_, (bankShift_setHitch s pkg _).kept, ?_⟩
    · simp only [exec, execHandoverPoint, event, hmay, if_true]
      rw [if_pos hdoom]
    · rw [State.hitch_setHitch, if_pos rfl]

theorem return_effect {pkg : Nat} {s : State} (hmay : s.mayReturn pkg = true) (hdead : (s.core (s.hitch pkg).holder).dead = false)
    (haway : s.senderAway pkg = none) (hslot : s.slotBank (s.hitch pkg).holder (s.hitch pkg).slot = none) :
    let k := s.hitch pkg
    ∃ t : State, exec (.bankReturn pkg) s = .next t ∧ MemoryKept s t ∧ t.slotBank k.holder k.slot = some pkg ∧
      t.hitch pkg = { Hitch.reset with st := .hitched, holder := k.holder, slot := k.slot, owner := (s.core k.holder).unit } := by
  intro k
  obtain ⟨hshift, hhitch, hslots, hunit, hlaunches⟩ := reoutbound_effect s k.holder k.slot pkg 4
  let u := s.reoutbound k.holder k.slot pkg 4
  obtain ⟨hshift', hself, -, hentry, -⟩ := hitchTo_effect u pkg k.holder k.slot
  have hfree : s.slotFree pkg = true := by
    unfold State.slotFree
    dsimp only
    rw [haway, hslot]
    rfl
  have huaway : u.senderAway pkg = s.senderAway pkg := by
    have hparked (v : Option (Nat × Nat)) (c : Nat) : u.parkedOf v c = s.parkedOf v c := by
      unfold State.parkedOf State.launch?
      rw [show u.launches = _ from hlaunches]
    unfold State.senderAway State.awayFrom
    dsimp only
    rw [show u.hitch = _ from hhitch, hparked, show (u.core (s.hitch pkg).holder).unit = _ from hunit _]
  refine ⟨u.hitchTo pkg k.holder k.slot, ?_, (hshift.trans hshift').kept, hself, ?_⟩
  · have htake : u.takeBack pkg = u.hitchTo pkg k.holder k.slot := by
      unfold State.takeBack
      dsimp only
      rw [huaway, haway, show u.hitch = _ from hhitch]
    simp only [exec, execBankReturn, event, hmay, if_true, hfree]
    rw [if_neg (by rw [hdead]; decide), ← htake]
  · rw [hentry, show (u.core k.holder).unit = _ from hunit _]

theorem wipeDone_effect {pkg : Nat} {s : State} (hst : (s.hitch pkg).st = .wiping) :
    ∃ t : State, exec (.bankWipeDone pkg) s = .next t ∧ t.mem = s.mem ∧ t.hitch pkg = Hitch.reset ∧
      (∀ a, t.banks.byte a = if a / 65536 = pkg then 0 else s.banks.byte a) ∧
      (∀ q g, g < 16 → t.tag q g = if q = pkg then 0 else s.tag q g) := by
  obtain ⟨⟨cores, clusters, launches, hub, hrest⟩, -⟩ := bankShift_freeBank (s.bankWipe pkg) pkg
  refine ⟨(s.bankWipe pkg).freeBank pkg, ?_, ?_, ?_, fun a => ?_, fun q g hg => ?_⟩
  · simp only [exec, execBankWipeDone, event, hst, beq_self_eq_true, if_true]
  · rw [hrest]; rfl
  · rw [hitch_freeBank, if_pos rfl]
  · rw [hrest]
    show (s.banks.wipe (pkg * 65536) 65536).byte a = _
    rw [byte_wiped]
    by_cases ha : a / 65536 = pkg
    · rw [if_pos ha, if_pos (by omega)]
    · rw [if_neg ha, if_neg (by omega)]
  · rw [hrest]
    show Tab.getD (s.tags.filter (fun e => e.1 / 16 != pkg)) (q * 16 + g) 0 = _
    rw [Tab.getD, get?_filter_key s.tags (fun k => k / 16 != pkg)]
    by_cases hq : q = pkg
    · rw [if_pos hq, if_neg (by simp; omega)]; rfl
    · rw [if_neg hq, if_pos (by simp; omega)]; rfl

/-- Settles O45: each instruction and each event by its own effect. -/
theorem banksChangeHands : Obligations.BanksChangeHands := by
  unfold Obligations.BanksChangeHands
  refine ⟨fun h x y z b s hi hun => ?_, fun pkg s => ?_⟩
  · intro c n v
    obtain ⟨hhas, hnone, hwaits⟩ := bwait_effect hi (slot := x.slot) hun
    exact ⟨fun hv hslot hfree => battach_effect hi hun hv hslot hfree,
      fun pkg hopen hv hne hpart hreach hreachable => bhand_effect hi hun hopen hv hne hpart hreach hreachable, hhas, hnone, hwaits,
      bstat_effect hi, fun pkg hspace hoff halign hopen hbusy => bswz_effect hi hun hspace hoff halign hopen hbusy,
      fun hlevel hpkg hbank hpart => brevoke_effect hi hun hlevel hpkg hbank hpart⟩
  · intro k
    exact ⟨fun hmay hdoom hdead => (handOver_effect hmay).1 hdoom hdead, fun hmay hdoom => (handOver_effect hmay).2 hdoom,
      fun hmay hdead haway hslot => return_effect hmay hdead haway hslot, fun hst => wipeDone_effect hst⟩

end Sys2Proof.Machine
end

section
/-!
O46: the engine instructions. A start whose checks hold hands its work on or goes into the commit buffer; reads of strands touch neither
a context nor a channel, so what a start on a swap channel reads first does not show in what it hands on.
-/

namespace Sys2Proof.Machine

open Sys2Proof

/-! ### Reads of strands -/

theorem fetches_chargeEntries (s : State) (p : Nat) (es : List Nat) : Fetches s (s.chargeEntries p es) := by
  obtain ⟨ps, hps⟩ := chargeEntries_rest s p es
  exact ⟨_, _, _, _, _, hps⟩

theorem fetches_touchPtr (s : State) (g : Agent) (p n : Nat) : Fetches s (s.touchPtr g p n) := by
  unfold State.touchPtr
  split
  · refine State.each_ind (P := Fetches s) (fun t a ht => ?_) (Fetches.refl s) _
    split
    · exact ht
    · split
      · exact (ht.trans (fetches_chargeEntries _ _ _)).trans (fetches_orEntries _ _ _ _)
      · exact ht.trans (fetches_chargeEntries _ _ _)
  · exact Fetches.refl s

theorem fetches_chargePieces (s : State) (p : Nat) (ps : List Piece) : Fetches s (s.chargePieces p ps) := by
  refine State.each_ind (P := Fetches s) (fun t a ht => ?_) (Fetches.refl s) _
  split
  · split
    · exact ht.trans ⟨_, _, _, _, _, rfl⟩
    · exact ht
  · exact ht

theorem fetches_bulkRead {s t : State} {g : Agent} {p n v : Nat} (hr : s.bulkRead g p n = .ok (v, t)) : Fetches s t := by
  unfold State.bulkRead at hr
  split at hr
  · cases hr
  · split at hr
    · cases hr
    · cases hr
      exact (fetches_touchPtr _ _ _ _).trans (fetches_chargePieces _ _ _)

theorem fetches_readStrand {s t : State} {g : Agent} {p v : Nat} (hr : s.readStrand g p = .ok (v, t)) : Fetches s t := by
  unfold State.readStrand at hr
  split at hr
  · cases hr
  · split at hr
    · cases hr
    · split at hr
      · cases hr
      · next r hb =>
        cases hr
        exact fetches_bulkRead hb

theorem fetches_arrivals (g : Agent) (n : Nat) : ∀ (s : State) (seen : List Nat) (p : Nat), Fetches s (s.arrivals g seen n p).2 := by
  induction n with
  | zero => exact fun s _ _ => Fetches.refl s
  | succ n ih =>
    intro s seen p
    unfold State.arrivals
    split
    · exact Fetches.refl s
    · split
      · exact Fetches.refl s
      · next v t ht =>
        have hst := fetches_readStrand ht
        split
        · exact hst
        · refine hst.trans (Fetches.trans ?_ (ih _ _ _))
          split
          · split
            · next hb => exact fetches_bulkRead hb
            · exact Fetches.refl t
          · exact Fetches.refl t

theorem Fetches.me {s t : State} (h : Fetches s t) : t.me = s.me := by
  obtain ⟨_, _, _, _, _, rfl⟩ := h
  rfl

/-! ### Starts -/

/-- What a start hands to its channel (R196), of a context as it stands in a state whose reads are done. -/
theorem startChain_effect (u : State) (chan q ident head : Nat) :
    ∃ a : Chain, (u.startChain u.cur u.curCtx chan q ident head).me = u.me ∧
      MemoryKept u (u.startChain u.cur u.curCtx chan q ident head) ∧
      (u.startChain u.cur u.curCtx chan q ident head).chains = u.chains ++ [a] ∧
      (u.startChain u.cur u.curCtx chan q ident head).parts = u.parts ∧
      a.chan = chan ∧ a.cur = head ∧ a.q = q ∧ a.ident = ident ∧ a.core = u.cur ∧ a.ctx = u.curCtx ∧ a.first = true ∧
      a.unit = (if u.me.inUnit then u.mycore.unit else none) ∧ a.mode = 0 := by
  unfold State.startChain
  dsimp only
  obtain ⟨ls, hls⟩ := launchesOnly_noRoll u.fresh.2 u.cur
  refine ⟨_, ?_, ?_, rfl, ?_, rfl, rfl, rfl, rfl, rfl, rfl, rfl, rfl, rfl⟩
  · rw [hls]; rfl
  · rw [hls]; exact ⟨fun _ => rfl, fun _ => rfl, rfl⟩
  · rw [hls]; rfl

section
variable {s : State} {x : OpQGo} {chan : Nat}

theorem startOp_eq (hchk : s.startChecks chan x = none) (i : Instr) : startOp chan i x s = s.engineCmd i (s.me.rs x.b) := by
  unfold startOp
  rw [hchk]

/-- Under an unresolved branch a command goes into the commit buffer (R136). -/
theorem engineCmd_buffered (i : Instr) (sv : Word) (hun : s.me.unresolved ≠ none) (hroom : s.mycore.commit.length < 16) :
    s.engineCmd i sv = .done (s.setMycore { s.mycore with
      commit := s.mycore.commit ++ [{ ctx := s.curCtx, cmd := i, sv := sv, pc := s.me.pc, firm := false }] }) := by
  have hsome : s.me.unresolved.isSome = true := Option.isSome_iff_ne_none.mpr hun
  have hnone : s.me.unresolved.isNone = false := Option.isNone_eq_false_iff.mpr hsome
  have hb : s.buffers = true := by simp only [State.buffers, hsome, Bool.true_or]
  unfold State.engineCmd
  rw [if_pos hb]
  have hbuf : s.buffered i sv = some (s.setMycore { s.mycore with
      commit := s.mycore.commit ++ [{ ctx := s.curCtx, cmd := i, sv := sv, pc := s.me.pc, firm := false }] }) := by
    unfold State.buffered
    dsimp only
    rw [if_neg (by simpa using hroom), hnone]
  rw [hbuf]

/-- With no branch unresolved and nothing held back, a command begins (R196). -/
theorem engineCmd_begins {i : Instr} {sv : Word} {t : State} (hun : s.me.unresolved = none)
    (hfree : ∀ e ∈ s.mycore.commit, e.ctx ≠ s.curCtx) (hbegin : s.beginCmd s.cur s.curCtx i sv = some t) :
    s.engineCmd i sv = .done t := by
  have hb : s.buffers = false := by
    simp only [State.buffers, hun, Option.isSome_none, Bool.false_or, List.any_eq_false, beq_iff_eq]
    exact hfree
  unfold State.engineCmd
  rw [if_neg (by rw [hb]; exact Bool.false_ne_true), hbegin]

/-- A gather or a contribution handed to its engine (R200, R201). -/
theorem workOf_spec (q ident desc : Nat) :
    let w := s.workOf s.cur s.curCtx q ident desc
    w.desc = desc ∧ w.q = q ∧ w.ident = ident ∧ w.core = s.cur ∧ w.ctx = s.curCtx ∧
      w.unit = (if s.me.inUnit then s.mycore.unit else none) ∧ w.bad = none :=
  ⟨rfl, rfl, rfl, rfl, rfl, rfl, rfl⟩

end

theorem contextOk_unit {s : State} {h : Hdr} (hi : s.issues h {} = true) (hin : s.me.inUnit = true) (hu : s.mycore.unit ≠ none) :
    s.issues h { unit := true } = true := by
  have hsome : s.mycore.unit.isSome = true := Option.isSome_iff_ne_none.mpr hu
  unfold State.issues contextOk at hi ⊢
  dsimp only at hi ⊢
  rw [hin, hsome]
  exact hi

/-! ### Queue registers and user interrupts -/

theorem exec_cpwait {h : Hdr} {s : State} (hi : s.issues h {} = true) (id : BitVec 16) :
    exec (.cpwait h id) s = .next (if (id.toNat, true) ∈ s.mycore.record then
      ((s.setMycore { s.mycore with record := s.mycore.record.filter (fun e => e != (id.toNat, true)) }).observe s.cur s.curCtx
        id.toNat).goOn h
      else s.held) := by
  simp only [exec, execCpwait]
  rw [issue_issues _ _ _ _ hi]
  simp only [List.contains_iff_mem]
  exact out_ite h s _ _

theorem exec_qpush {h : Hdr} {s : State} (hi : s.issues h {} = true) (y : OpQPush) :
    exec (.qpush h y) s = (if y.q.toNat < 6 then s.raise .illegal
      else if 16 ≤ (s.me.q.toList.getD (y.q.toNat - 4) []).length then s.raise .queueOverrun y.q.toNat
      else .done (s.setMe { s.me with q := s.me.q.setIfInBounds (y.q.toNat - 4) (s.me.q.toList.getD (y.q.toNat - 4) [] ++ [match y.b with
          | .s r => { wide := false, val := (s.me.rs r).setWidth 512 }
          | .v r => { wide := true, val := s.me.rv r }]) })).out h s := by
  refine exec_body (body := fun s => let n := y.q.toNat
    if n < 6 then s.raise .illegal
    else
      let q := s.me.q.toList.getD (n - 4) []
      let it : QItem := match y.b with
        | .s r => { wide := false, val := (s.me.rs r).setWidth 512 }
        | .v r => { wide := true, val := s.me.rv r }
      if decide (16 ≤ q.length) then s.raise .queueOverrun n
      else .done (s.setMe { s.me with q := s.me.q.setIfInBounds (n - 4) (q ++ [it]) })) hi rfl ?_
  simp only [decide_eq_true_eq]

/-- What `qpop` leaves of its context. -/
def popped (s : State) (z : OpQPop) (it : QItem) (r : List QItem) : Ctx :=
  match z.a with
  | .s d => ({ s.me with q := s.me.q.setIfInBounds (z.q.toNat - 4) r } : Ctx).ws d (it.val.setWidth 64)
  | .v d => ({ s.me with q := s.me.q.setIfInBounds (z.q.toNat - 4) r } : Ctx).wv d it.val

theorem exec_qpop {h : Hdr} {s : State} (hi : s.issues h {} = true) (z : OpQPop) (hn : 4 ≤ z.q.toNat) :
    (s.me.q.toList.getD (z.q.toNat - 4) [] = [] → exec (.qpop h z) s = .next s.held) ∧
    (∀ it r, s.me.q.toList.getD (z.q.toNat - 4) [] = it :: r → exec (.qpop h z) s = .next ((if 5 ≤ z.q.toNat ∧ it.wide = false then
      (s.setMe (popped s z it r)).observe s.cur s.curCtx (bits it.val.toNat 15 0) else s.setMe (popped s z it r)).goOn h)) := by
  refine ⟨fun hq => ?_, fun it r hq => ?_⟩
  · simp only [exec, execQpop]
    rw [issue_issues _ _ _ _ hi, if_neg (Nat.not_lt.mpr hn), hq]
    rfl
  · simp only [exec, execQpop]
    rw [issue_issues _ _ _ _ hi, if_neg (Nat.not_lt.mpr hn), hq]
    dsimp only
    have hcond : (decide (5 ≤ z.q.toNat) && !it.wide) = true ↔ 5 ≤ z.q.toNat ∧ it.wide = false := by simp
    by_cases hc : 5 ≤ z.q.toNat ∧ it.wide = false
    · rw [if_pos hc, if_pos (hcond.mpr hc)]
      rfl
    · rw [if_neg hc, if_neg (fun e => hc (hcond.mp e))]
      rfl

theorem popped_spec (s : State) (z : OpQPop) (it : QItem) (r : List QItem) :
    (popped s z it r).q = s.me.q.setIfInBounds (z.q.toNat - 4) r ∧
      (match z.a with
        | .s d => (popped s z it r).rs d = (if d = 0 then 0 else it.val.setWidth 64) ∧ RegsKept [.s d.toNat] s.me (popped s z it r)
        | .v d => (popped s z it r).rv d = it.val ∧ RegsKept [.v d.toNat] s.me (popped s z it r)) := by
  unfold popped
  cases z.a with
  | s d =>
    refine ⟨Ctx.q_ws _ _ _, ?_, (Ctx.ws_kept _ d _).1⟩
    rw [Ctx.rs_ws, if_pos rfl]
  | v d => exact ⟨rfl, Ctx.rv_wv_self _ _ _, (Ctx.wv_kept _ d _).1⟩

/-- A return from a user interrupt goes back to the interrupted place (R199). -/
theorem exec_uiret {h : Hdr} {s : State} (hi : s.issues h {} = true) (hun : s.me.unresolved = none) (hh : s.me.uiHold = true) :
    exec (.uiret h) s = .next ((s.setMe { s.me with uiHold := false }).land.advance h s.me.uirqpc.toNat) := by
  simp only [exec, execUiret]
  rw [issue_issues _ _ _ _ hi]
  simp only [State.firm, hun, Option.isSome_none, Bool.false_eq_true, if_false, State.need, if_pos hh]
  rfl

theorem State.me_land (s : State) :
    s.land.me = { s.me with code := if s.me.fenced then s.mem else s.me.code, fenced := false } := by
  rw [State.land, State.me_setMe]

theorem userInterrupt_effect {c x : Nat} {s : State} {u : UIrq} {r : List UIrq} (hmay : s.mayInterrupt c x = true)
    (hirqs : (s.ctx c x).irqs = u :: r) :
    exec (.userInterrupt c x) s = .next ((s.setCtx c x { s.ctx c x with
      uirqpc := BitVec.ofNat 64 (s.ctx c x).pc, uirqxfer := BitVec.ofNat 64 u.xfer, uiHold := true, pc := u.handler, irqs := r
      wait := .none, stall := 0 }).observe c x u.xfer) := by
  show execUserInterrupt c x s = _
  unfold execUserInterrupt
  dsimp only
  split
  · next hnil => rw [hirqs] at hnil; cases hnil
  · next u' r' hcons =>
    rw [hirqs] at hcons
    cases hcons
    exact if_pos hmay

section
variable {h : Hdr} {s : State} (hi : s.issues h {} = true) {x : OpQGo}
include hi

theorem exec_cpgo {r : Res} (hchk : s.startChecks (copyChan s.cur x.ch.toNat) x = none)
    (hr : s.engineCmd (.cpgo h x) (s.me.rs x.b) = r) : exec (.cpgo h x) s = r.out h s :=
  exec_body (body := fun s => startOp (copyChan s.cur x.ch.toNat) (.cpgo h x) x s) hi rfl ((startOp_eq hchk _).trans hr)

theorem exec_swgo {r : Res} (hchk : s.startChecks (swapChan x.ch.toNat) x = none)
    (hr : s.engineCmd (.swgo h x) (s.me.rs x.b) = r) : exec (.swgo h x) s = r.out h s :=
  exec_body (body := fun s => startOp (swapChan x.ch.toNat) (.swgo h x) x s) hi rfl ((startOp_eq hchk _).trans hr)

theorem exec_gath {r : Res} (hchk : s.startChecks 0 x = none)
    (hr : s.engineCmd (.gath h x) (s.me.rs x.b) = r) : exec (.gath h x) s = r.out h s :=
  exec_body (body := startOp 0 (.gath h x) x) hi rfl ((startOp_eq hchk _).trans hr)

theorem exec_coll {r : Res} (hchk : s.startChecks 0 x = none) (hin : s.me.inUnit = true) (hu : s.mycore.unit ≠ none)
    (hr : s.engineCmd (.coll h x) (s.me.rs x.b) = r) : exec (.coll h x) s = r.out h s := by
  show issue h (fun _ => { unit := true }) (startOp 0 (.coll h x) x) s = _
  rw [issue_issues _ _ _ _ (contextOk_unit hi hin hu), startOp_eq hchk, hr]

end

section
variable (s : State) (h : Hdr) (x : OpQGo)

theorem beginCmd_cpgo
    (hroom : (s.chains.filter (fun a => a.chan == copyChan s.cur x.ch.toNat && a.mode == 0)).length < 8) :
    s.beginCmd s.cur s.curCtx (.cpgo h x) (s.me.rs x.b) =
      some (s.startChain s.cur s.curCtx (copyChan s.cur x.ch.toNat) x.q.toNat x.id.toNat (s.me.rs x.b).toNat) :=
  if_pos (decide_eq_true hroom)

theorem beginCmd_swgo (hroom : (s.chains.filter (fun a => a.chan == swapChan x.ch.toNat && a.mode == 0)).length < 8)
    {a : List Nat × State} (ha : s.arrivals s.self [] allStrands (s.me.rs x.b).toNat = a)
    (hr : (recordArrivals (a.2.part (s.partOf s.cur)).residence a.1).length ≤ 4096) :
    s.beginCmd s.cur s.curCtx (.swgo h x) (s.me.rs x.b) =
      some ((a.2.setPart (s.partOf s.cur) { a.2.part (s.partOf s.cur) with
        residence := recordArrivals (a.2.part (s.partOf s.cur)).residence a.1 }).startChain s.cur s.curCtx (swapChan x.ch.toNat)
          x.q.toNat x.id.toNat (s.me.rs x.b).toNat) := by
  subst ha
  refine (if_neg ?_).trans (if_neg ?_)
  · have hd : decide ((s.chains.filter (fun a => a.chan == swapChan x.ch.toNat && a.mode == 0)).length < 8) = true := decide_eq_true hroom
    simpa using hd
  · rw [decide_eq_true_eq]
    exact Nat.not_lt.mpr hr

/-- Work handed to an engine, in a state made by `noRoll` from a fresh number. -/
theorem noRoll_fresh_rest (c : Nat) : ∃ ls, s.fresh.2.noRoll c = { s.fresh.2 with launches := ls } := launchesOnly_noRoll _ _

end

/-- Settles O46: starts by `startOp` and `beginCmd`, the queue registers and the interrupts by their equations. -/
theorem engineInstructions : Obligations.EngineInstructions := by
  unfold Obligations.EngineInstructions
  refine ⟨fun h x id y z s hi => ?_, fun c x s u r hmay hirqs => ?_⟩
  · intro k tr head free given begun buffered
    have hbegun : ∀ {i : Instr} {f : State → List Work} {t : State}, exec i s = .next (t.goOn h) → t.me = s.me → MemoryKept s t →
        f t = f s ++ [s.workOf s.cur s.curCtx x.q.toNat x.id.toNat (s.me.rs x.b).toNat] → begun i f :=
      fun hexec hme hkept hf => ⟨_, _, hexec, hme, hkept, hf, workOf_spec _ _ _⟩
    refine ⟨fun hchk => ⟨fun hun hroom => ?_, fun hfree hroom => ?_⟩, fun hchk => ⟨fun hun hroom => ?_, ?_⟩,
      fun hchk => ⟨fun hun hroom => ?_, fun hfree => ?_, fun hin hu => ⟨fun hun hroom => ?_, fun hfree => ?_⟩⟩, exec_cpwait hi id, ?_, ?_, ?_⟩
    · exact exec_cpgo hi hchk (engineCmd_buffered _ _ hun hroom)
    · obtain ⟨a, hme, hkept, hchains, hparts, hspec⟩ := startChain_effect s (copyChan s.cur x.ch.toNat) x.q.toNat x.id.toNat head
      obtain ⟨h1, h2, h3, h4, h5, h6, h7, h8, h9⟩ := hspec
      refine ⟨_, a, exec_cpgo hi hchk (engineCmd_begins hfree.1 hfree.2 (beginCmd_cpgo s h x hroom)), hme, hkept, hchains, h1, h2, h3, h4,
        h5, h6, h7, h8, h9, ?_⟩
      exact congrArg (fun ps => (Tab.getD ps (s.partOf s.cur) Part.reset).residence) hparts
    · exact exec_swgo hi hchk (engineCmd_buffered _ _ hun hroom)
    · intro a r hfree hroom hr
      obtain ⟨nonce, mem, bad, parts, hub, ha⟩ := fetches_arrivals s.self allStrands s [] head
      have hbegin := beginCmd_swgo s h x hroom (a := a) rfl hr
      have hexec := exec_swgo hi hchk (engineCmd_begins hfree.1 hfree.2 hbegin)
      generalize hu : a.2.setPart (s.partOf s.cur) { a.2.part (s.partOf s.cur) with residence := r } = u at hexec
      have hrest : ∃ parts, u = { s with nonce := nonce, mem := mem, badMem := bad, parts := parts, hub := hub } := by
        subst hu
        rw [show a.2 = _ from ha]
        exact ⟨_, rfl⟩
      have hpart : (u.part (s.partOf s.cur)).residence = r := by
        rw [← hu, State.part_setPart_self]
      have hkept' : MemoryKept a.2 u := by
        rw [← hu]
        exact ⟨fun _ => rfl, fun _ => rfl, rfl⟩
      obtain ⟨parts', hrest⟩ := hrest
      obtain ⟨w, hme, hkept, hchains, hparts, hspec⟩ := startChain_effect u (swapChan x.ch.toNat) x.q.toNat x.id.toNat head
      obtain ⟨h1, h2, h3, h4, h5, h6, h7, h8, h9⟩ := hspec
      have hcur : u.cur = s.cur := by rw [hrest]
      have hctx : u.curCtx = s.curCtx := by rw [hrest]
      have hume : u.me = s.me := by rw [hrest]; rfl
      have hcore : u.mycore = s.mycore := by rw [hrest]; rfl
      have huch : u.chains = s.chains := by rw [hrest]
      rw [hcur, hctx] at hme hkept hchains hparts
      rw [hume, hcore] at h8
      refine ⟨_, w, hexec, hme.trans hume, ?_, hchains.trans (by rw [huch]), h1, h2, h3, h4, h5.trans hcur, h6.trans hctx, h7, h8, h9, ?_⟩
      · exact ⟨fun a => (hkept.1 a).trans (hkept'.1 a), fun a => (hkept.2.1 a).trans (hkept'.2.1 a), hkept.2.2.trans hkept'.2.2⟩
      · rw [State.part, hparts]
        exact hpart
    · exact exec_gath hi hchk (engineCmd_buffered _ _ hun hroom)
    · obtain ⟨ls, hls⟩ := noRoll_fresh_rest s s.cur
      refine hbegun (exec_gath hi hchk (engineCmd_begins hfree.1 hfree.2 rfl)) ?_ ?_ rfl
      · rw [hls]; rfl
      · rw [hls]; exact ⟨fun _ => rfl, fun _ => rfl, rfl⟩
    · exact exec_coll hi hchk hin hu (engineCmd_buffered _ _ hun hroom)
    · obtain ⟨ls, hls⟩ := noRoll_fresh_rest s s.cur
      refine hbegun (exec_coll hi hchk hin hu (engineCmd_begins hfree.1 hfree.2 rfl)) ?_ ?_ rfl
      · rw [hls]; rfl
      · rw [hls]; exact ⟨fun _ => rfl, fun _ => rfl, rfl⟩
    · intro n q
      have hpush := exec_qpush hi y
      refine ⟨fun hn => hpush.trans (by rw [if_pos hn]; rfl), fun hn => ⟨fun hq => hpush.trans ?_, fun hq => hpush.trans ?_⟩⟩
      · rw [if_neg (Nat.not_lt.mpr hn), if_neg (Nat.not_le.mpr hq)]
        rfl
      · rw [if_neg (Nat.not_lt.mpr hn), if_pos hq]
        rfl
    · intro n
      refine ⟨fun hn => ?_, fun hn => ⟨(exec_qpop hi z hn).1, fun it r hq => ⟨popped s z it r, (exec_qpop hi z hn).2 it r hq, popped_spec s z it r⟩⟩⟩
      simp only [exec, execQpop]
      rw [issue_issues _ _ _ _ hi, if_pos hn]
      rfl
    · intro hun hh
      refine ⟨_, exec_uiret hi hun hh, ⟨fun _ => rfl, fun _ => rfl, rfl⟩, ?_, ?_, ?_⟩
      · refine RegsKept.of_advance _ h _ ?_
        rw [State.me_setMe]
        exact ⟨fun _ _ => rfl, fun _ _ => rfl, fun _ _ => rfl⟩
      · rw [State.me_advance, State.me_land, State.me_setMe]
      · rw [State.me_advance]
  · refine ⟨_, userInterrupt_effect hmay hirqs, ⟨fun _ => rfl, fun _ => rfl, rfl⟩, ?_⟩
    have hctx : ∀ t : State, (t.observe c x u.xfer).ctx c x = t.ctx c x := fun _ => rfl
    rw [hctx, State.ctx_setCtx_self]
    exact ⟨⟨fun _ _ => rfl, fun _ _ => rfl, fun _ _ => rfl⟩, rfl, rfl, rfl, rfl, rfl⟩

end Sys2Proof.Machine
end

section
/-!
O48: launching, waiting, cancelling and progress.
-/

namespace Sys2Proof.Machine

open Sys2Proof

theorem State.queue_setQueue_self (s : State) (q : Nat) (k : WQueue) : (s.setQueue q k).queue q = k := Tab.getD_put_self _ _ _ _

theorem State.queue_noRoll (s : State) (c q : Nat) : (s.noRoll c).queue q = s.queue q := by
  obtain ⟨ls, hls⟩ := launchesOnly_noRoll s c
  rw [hls]
  rfl

/-- What a launch does where its record's bytes translate (R249). -/
def State.launchBody (s : State) (h : Hdr) (x : OpRR) (p n : Nat) : Res :=
  if s.buffers then (match s.buffered (.launch h x) (s.me.rs x.b) with
    | some t => .wait (t.setMe { t.me with wait := .commit })
    | none => .hold)
  else if !(s.ctxDrained s.cur s.curCtx) then .hold
  else match s.bulkRead s.self p (64 * n) with
    | .error t => s.trip t
    | .ok r =>
      let u := (s.mycore.unit.getD (0, 0)).1
      let q := s.queue u
      if decide (256 ≤ q.pending.length) then .hold
      else
        let s := (r.2.setQueue u (q.accept n r.1)).noRoll s.cur
        .done (s.setMe (s.me.ws x.a (BitVec.ofNat 64 (2 ^ 61 + u * 2 ^ 48 + q.nextSeq))))

/-- The points that `prog` reports (R257). -/
def State.reported (s : State) : SrcDS → List (Nat × Nat)
  | .d d => (s.mycore.d[d.toNat]).lane 0
  | .s r => List.replicate 8 ((s.me.rs r).toNat % 2 ^ 32, 8192)

section
variable {h : Hdr} {s : State} (hi : s.issues h {} = true)
include hi

theorem exec_launch {x : OpRR} {segs : List (Nat × Nat)} {es : List Tlb} (hin : s.me.inUnit = true) (hu : s.mycore.unit ≠ none)
    (hlow : (s.me.rs x.b).toNat < 2 ^ 48) (halign : bits (s.me.rs x.b).toNat 5 3 = 0)
    (htr : s.translate s.cur (s.vdevOf s.cur) s.me.xlat.toNat s.me.level ((s.me.rs x.b).toNat / 64 * 64)
      (64 * ((s.me.rs x.b).toNat % 8 + 1)) 0 false = .ok segs es) :
    exec (.launch h x) s = (s.launchBody h x ((s.me.rs x.b).toNat / 64 * 64) ((s.me.rs x.b).toNat % 8 + 1)).out h s := by
  show execLaunch h x s = _
  unfold execLaunch
  rw [issue_issues _ _ _ _ (contextOk_unit hi hin hu)]
  dsimp only
  have hn : bits (s.me.rs x.b).toNat 2 0 = (s.me.rs x.b).toNat % 8 := by simp [bits]
  obtain ⟨hres, -, -⟩ := resolve_low (s := s) (c := s.cur) (p := (s.me.rs x.b).toNat / 64 * 64) (by omega)
  rw [hn, hres, halign]
  refine congrArg (Res.out h s) ((if_neg (by decide)).trans ?_)
  unfold State.withPages
  dsimp only
  rw [htr]
  rfl

/-- A record goes into the unit's own queue (R219, R249). -/
theorem launch_accepted {x : OpRR} {segs : List (Nat × Nat)} {es : List Tlb} {v : Nat} {t0 : State} (hin : s.me.inUnit = true)
    (hu : s.mycore.unit ≠ none) (hbuf : s.buffers = false) (hlow : (s.me.rs x.b).toNat < 2 ^ 48)
    (halign : bits (s.me.rs x.b).toNat 5 3 = 0) (hdrained : s.ctxDrained s.cur s.curCtx = true)
    (htr : s.translate s.cur (s.vdevOf s.cur) s.me.xlat.toNat s.me.level ((s.me.rs x.b).toNat / 64 * 64)
      (64 * ((s.me.rs x.b).toNat % 8 + 1)) 0 false = .ok segs es)
    (hread : s.bulkRead s.self ((s.me.rs x.b).toNat / 64 * 64) (64 * ((s.me.rs x.b).toNat % 8 + 1)) = .ok (v, t0))
    (hroom : (s.queue (s.mycore.unit.getD (0, 0)).1).pending.length < 256) {u : Nat} (hq : (s.mycore.unit.getD (0, 0)).1 = u) {w : State}
    (hw : (t0.setQueue u ((s.queue u).accept ((s.me.rs x.b).toNat % 8 + 1) v)).noRoll s.cur = w) :
    exec (.launch h x) s =
      .next ((w.setMe (w.me.ws x.a (BitVec.ofNat 64 (2 ^ 61 + u * 2 ^ 48 + (s.queue u).nextSeq)))).goOn h) := by
  subst hw
  subst hq
  rw [exec_launch hi hin hu hlow halign htr, State.launchBody, hbuf, hdrained, if_neg Bool.false_ne_true, if_neg (by decide), hread]
  dsimp only
  rw [if_neg (by simpa using hroom)]
  rfl

/-- Under an unresolved branch a launch waits in the commit buffer (R245). -/
theorem launch_buffered {x : OpRR} {segs : List (Nat × Nat)} {es : List Tlb} (hin : s.me.inUnit = true) (hu : s.mycore.unit ≠ none)
    (hun : s.me.unresolved ≠ none) (hroom : s.mycore.commit.length < 16) (hlow : (s.me.rs x.b).toNat < 2 ^ 48)
    (halign : bits (s.me.rs x.b).toNat 5 3 = 0)
    (htr : s.translate s.cur (s.vdevOf s.cur) s.me.xlat.toNat s.me.level ((s.me.rs x.b).toNat / 64 * 64)
      (64 * ((s.me.rs x.b).toNat % 8 + 1)) 0 false = .ok segs es) :
    let k : Core := { s.mycore with
      commit := s.mycore.commit ++ [{ ctx := s.curCtx, cmd := .launch h x, sv := s.me.rs x.b, pc := s.me.pc, firm := false }] }
    exec (.launch h x) s = .next (((s.setMycore k).setMe { s.me with wait := .commit }).begun h) := by
  intro k
  have hme : (s.setMycore k).me = s.me := State.me_setMycore s rfl
  have hcmd := engineCmd_buffered (.launch h x) (s.me.rs x.b) hun hroom
  have hsome : s.me.unresolved.isSome = true := Option.isSome_iff_ne_none.mpr hun
  have hb : s.buffers = true := by simp only [State.buffers, hsome, Bool.true_or]
  have hbuf : s.buffered (.launch h x) (s.me.rs x.b) = some (s.setMycore k) := by
    rw [State.engineCmd, if_pos hb] at hcmd
    split at hcmd
    · next t ht =>
      cases hcmd
      exact ht
    · cases hcmd
  rw [exec_launch hi hin hu hlow halign htr, State.launchBody, if_pos hb, hbuf]
  dsimp only
  rw [hme]
  rfl

theorem exec_lwait_launch {b : SReg} (hok : handleOk (s.me.rs b).toNat = true) (hlevel : handleLevel (s.me.rs b).toNat = 1)
    (hmine : (s.queue (handleQueue (s.me.rs b).toNat)).part = s.partOf s.cur)
    (hpast : 2 ^ 31 ≤ (handleName (s.me.rs b).toNat + 2 ^ 32 - (s.queue (handleQueue (s.me.rs b).toNat)).nextSeq) % 2 ^ 32) :
    exec (.lwait h b) s = .next (if ((s.queue (handleQueue (s.me.rs b).toNat)).nextSeq + 2 ^ 32 - handleName (s.me.rs b).toNat) % 2 ^ 32 ≤ 4096
        ∧ s.launchOpen (handleQueue (s.me.rs b).toNat) (handleName (s.me.rs b).toNat) = true then s.held else s.goOn h) := by
  show execLwait h b s = _
  unfold execLwait
  rw [issue_issues _ _ _ _ hi]
  dsimp only
  rw [hok, hlevel, hmine, if_neg (by simp), if_neg (by simp), if_neg (by decide), if_neg (by simpa using hpast)]
  generalize (2 : Nat) ^ 32 = m
  by_cases hc : ((s.queue (handleQueue (s.me.rs b).toNat)).nextSeq + m - handleName (s.me.rs b).toNat) % m ≤ 4096
      ∧ s.launchOpen (handleQueue (s.me.rs b).toNat) (handleName (s.me.rs b).toNat) = true
  · rw [if_pos hc, if_neg (by simpa using hc)]
    rfl
  · rw [if_neg hc, if_pos (by
      by_cases hage : ((s.queue (handleQueue (s.me.rs b).toNat)).nextSeq + m - handleName (s.me.rs b).toNat) % m ≤ 4096
      · have hopen : s.launchOpen (handleQueue (s.me.rs b).toNat) (handleName (s.me.rs b).toNat) = false :=
          Bool.eq_false_iff.mpr (fun e => hc ⟨hage, e⟩)
        rw [hopen, Bool.not_false, Bool.or_true]
      · rw [decide_eq_true (Nat.lt_of_not_le hage), Bool.true_or])]
    rfl

theorem exec_lwait_graph {b : SReg} (hok : handleOk (s.me.rs b).toNat = true) (hlevel : handleLevel (s.me.rs b).toNat = 2)
    (hname : handleName (s.me.rs b).toNat ≠ 0) (hmine : (s.queue (handleQueue (s.me.rs b).toNat)).part = s.partOf s.cur) :
    exec (.lwait h b) s =
      .next (if s.graphDone (handleQueue (s.me.rs b).toNat) (handleName (s.me.rs b).toNat) then s.goOn h else s.held) := by
  show execLwait h b s = _
  unfold execLwait
  rw [issue_issues _ _ _ _ hi]
  dsimp only
  rw [hok, hlevel, hmine, if_neg (by simpa using hname), if_neg (by simp), if_pos rfl]
  exact out_ite h s _ s

/-- A cancellation whose checks hold is an engine command (R245, R251). -/
theorem exec_cancel {b : SReg} {l : Nat} {i : Instr} (hmem : (l, i) ∈
      [(1, Instr.cancelLaunch h b), (2, .cancelGraph h b), (3, .cancelSession h b), (4, .cancelJob h b)])
    (hlevel : 3 ≤ l → 1 ≤ s.me.level) (hok : handleOk (s.me.rs b).toNat = true) (hl : handleLevel (s.me.rs b).toNat = l)
    (hmine : (s.queue (handleQueue (s.me.rs b).toNat)).part = s.partOf s.cur) :
    exec i s = (s.engineCmd i (s.me.rs b)).out h s ∧ s.beginCmd s.cur s.curCtx i (s.me.rs b) = some (s.sendCancel s.cur (s.me.rs b).toNat) := by
  have hop : cancelOp l i b s = s.engineCmd i (s.me.rs b) := by
    unfold cancelOp
    dsimp only
    rw [hok, hl, hmine, if_neg (by simp), if_neg (by simp), if_neg]
    simp only [Bool.and_eq_true, decide_eq_true_eq, not_and]
    intro h3
    have := hlevel h3
    omega
  have hexec : exec i s = issue h plain (cancelOp l i b) s := by
    simp only [List.mem_cons, List.not_mem_nil, or_false, Prod.mk.injEq] at hmem
    obtain ⟨rfl, rfl⟩ | ⟨rfl, rfl⟩ | ⟨rfl, rfl⟩ | ⟨rfl, rfl⟩ := hmem <;> rfl
  refine ⟨by rw [hexec, issue_issues _ _ _ _ hi, hop], ?_⟩
  simp only [List.mem_cons, List.not_mem_nil, or_false, Prod.mk.injEq] at hmem
  obtain ⟨-, rfl⟩ | ⟨-, rfl⟩ | ⟨-, rfl⟩ | ⟨-, rfl⟩ := hmem <;> rfl

theorem exec_prog (p : SrcDS) (hin : s.me.inUnit = true) (hu : s.mycore.unit ≠ none) (hun : s.me.unresolved = none)
    (hctrl : (∃ d, p = .d d) → s.curCtx = 0) :
    let u := (s.mycore.unit.getD (0, 0)).1
    exec (.prog h p) s = .next (((s.setQueue u { s.queue u with progress := some (s.time, s.reported p) }).noRoll s.cur).goOn h) := by
  intro u
  have hneed : ∀ isS : Bool, (isS = false → s.curCtx = 0) → s.issues h { helper := isS, unit := true } = true := by
    intro isS hS
    have hplain := contextOk_unit hi hin hu
    cases isS with
    | true => exact hplain
    | false =>
      have h0 := hS rfl
      unfold State.issues contextOk at hplain ⊢
      dsimp only at hplain ⊢
      rw [h0] at hplain ⊢
      exact hplain
  show execProg h p s = _
  unfold execProg
  dsimp only
  cases p with
  | s r =>
    rw [issue_issues _ _ _ _ (hneed true nofun), State.firm, hun]
    rfl
  | d d =>
    rw [issue_issues _ _ _ _ (hneed false fun _ => hctrl ⟨d, rfl⟩), State.firm, hun]
    rfl

end

theorem State.me_noRoll (s : State) (c : Nat) : (s.noRoll c).me = s.me := by
  obtain ⟨ls, hls⟩ := launchesOnly_noRoll s c
  rw [hls]
  rfl

theorem memoryKept_noRoll (s : State) (c : Nat) : MemoryKept s (s.noRoll c) := by
  obtain ⟨ls, hls⟩ := launchesOnly_noRoll s c
  rw [hls]
  exact ⟨fun _ => rfl, fun _ => rfl, rfl⟩

/-- Settles O48: the launch by its body, the waits by their equations, the cancellations as engine commands. -/
theorem launchInstructions : Obligations.LaunchInstructions := by
  unfold Obligations.LaunchInstructions
  intro h x b p s hi u w q mine
  refine ⟨fun segs es v t0 hin hu hbuf hlow halign hdrained htr hread hme hroom => ?_,
    fun segs es hin hu hun hroom hlow halign htr => ?_,
    fun hok hlevel hmine hpast => exec_lwait_launch hi hok hlevel hmine hpast,
    fun hok hlevel hname hmine => exec_lwait_graph hi hok hlevel hname hmine,
    fun e he hl1 hok hlevel hmine => ?_, fun hin hu hun hctrl => ?_⟩
  · generalize hw : (t0.setQueue u ((s.queue u).accept ((s.me.rs x.b).toNat % 8 + 1) v)).noRoll s.cur = z
    have hexec := launch_accepted hi hin hu hbuf hlow halign hdrained htr hread hroom rfl hw
    have hzme : z.me = s.me := by rw [← hw, State.me_noRoll]; exact hme
    have hzq : z.queue u = (s.queue u).accept ((s.me.rs x.b).toNat % 8 + 1) v := by rw [← hw, State.queue_noRoll, State.queue_setQueue_self]
    have hzkept : MemoryKept t0 z := by rw [← hw]; exact memoryKept_noRoll (t0.setQueue u _) s.cur
    have hq : ∀ k : Ctx, (z.setMe k).queue u = (s.queue u).accept ((s.me.rs x.b).toNat % 8 + 1) v := fun _ => hzq
    refine ⟨z.setMe (z.me.ws x.a (BitVec.ofNat 64 (2 ^ 61 + u * 2 ^ 48 + (s.queue u).nextSeq))), _, hexec, ?_, ?_, (congrArg WQueue.pending (hq _)).trans rfl, congrArg WQueue.nextSeq (hq _), rfl, rfl, rfl, rfl, hzkept⟩
    · rw [State.me_setMe, Ctx.rs_ws, if_pos rfl]
    · rw [State.me_setMe, hzme]
      exact (Ctx.ws_kept _ _ _).1
  · refine ⟨_, launch_buffered hi hin hu hun hroom hlow halign htr, ⟨fun _ => rfl, fun _ => rfl, rfl⟩, State.me_setMe _ _, rfl, ?_⟩
    refine (congrArg Core.commit (State.core_setCore_self _ _ _)).trans ?_
    exact congrArg Core.commit (State.core_setCore_self s s.cur _)
  · obtain ⟨l, i⟩ := e
    obtain ⟨hexec, hbegin⟩ := exec_cancel hi he hl1 hok hlevel hmine
    refine ⟨fun hbuf => ?_, fun hbuf hroom => ?_⟩
    · have hcmd : s.engineCmd i (s.me.rs b) = .done (s.sendCancel s.cur (s.me.rs b).toNat) := by
        unfold State.engineCmd
        rw [if_neg (by rw [hbuf]; exact Bool.false_ne_true), hbegin]
      refine ⟨s.sendCancel s.cur (s.me.rs b).toNat, by rw [hexec, hcmd]; rfl, State.me_noRoll s s.cur, memoryKept_noRoll s s.cur, ?_⟩
      have hw : handleLevel (s.me.rs b).toNat = l := hlevel
      rw [← hw]
      rfl
    · have hcmd : s.engineCmd i (s.me.rs b) = .done (s.setMycore { s.mycore with
          commit := s.mycore.commit ++ [{ ctx := s.curCtx, cmd := i, sv := s.me.rs b, pc := s.me.pc, firm := s.me.unresolved.isNone }] }) := by
        unfold State.engineCmd
        rw [if_pos hbuf, State.buffered, if_neg (by simpa using hroom)]
      rw [hexec, hcmd]
      rfl
  · refine ⟨_, exec_prog hi p hin hu hun hctrl, State.me_noRoll (s.setQueue _ _) s.cur, memoryKept_noRoll (s.setQueue _ _) s.cur, ?_⟩
    refine (congrArg WQueue.progress ((State.queue_noRoll _ _ _).trans (State.queue_setQueue_self _ _ _))).trans ?_
    cases p <;> rfl

end Sys2Proof.Machine
end

section
/-!
O49: the team. The barrier says once what it does to each core of its team, a delivery what it does to the network, and the rings what
they leave of themselves.
-/

namespace Sys2Proof.Machine

open Sys2Proof

/-- An instruction whose effect is known where it issues, with what it asks of its context. -/
theorem exec_needs {i : Instr} {h : Hdr} {n : Need} {s : State} {body : State → Res} (hi : s.issues h n = true)
    (hexec : exec i s = issue h (fun _ => n) body s) {r : Res} (hr : body s = r) : exec i s = r.out h s := by
  rw [hexec, issue_issues h (fun _ => n) body s hi, hr]

/-! ### Arrival at the barrier -/

section
variable {h : Hdr} {s : State} (hi : s.issues h { helper := false, unit := true } = true) (hun : s.me.unresolved = none)

/-- The launch of a core notes an arrival. -/
def State.arrives (s : State) : State :=
  match (s.setMycore { s.mycore with arrived := true }).launchOf s.cur with
  | some l => (s.setMycore { s.mycore with arrived := true }).setLaunch { l with lastArr := s.time }
  | none => s.setMycore { s.mycore with arrived := true }

theorem State.launchOf_arrived (s : State) : (s.setMycore { s.mycore with arrived := true }).launchOf s.cur = s.launchOf s.cur := by
  unfold State.launchOf
  rw [State.setMycore, State.core_setCore_self]
  rfl

theorem arrives_rest (s : State) : ∃ ls, s.arrives = { s.setMycore { s.mycore with arrived := true } with launches := ls } := by
  unfold State.arrives
  split <;> exact ⟨_, rfl⟩

include hi hun

theorem exec_bar {r : Res} (hr : (if s.mycore.barDone then Res.done (s.setMycore { s.mycore with barDone := false, arrived := false })
    else if s.mycore.arrived then .wait (s.setMe { s.me with wait := .bar })
    else if !s.mayArriveAt s.cur then .hold else .wait (s.arrives.setMe { s.arrives.me with wait := .bar })) = r) :
    exec (.bar h) s = r.out h s := by
  show execBar h s = _
  unfold execBar
  rw [issue_issues _ _ _ _ hi, State.firm, hun, ← hr]
  rfl

theorem bar_arrives (hdone : s.mycore.barDone = false) (harr : s.mycore.arrived = false) (hmay : s.mayArriveAt s.cur = true) :
    ∃ t : State, exec (.bar h) s = .next (t.begun h) ∧ MemoryKept s t ∧ t.me = { s.me with wait := .bar } ∧ t.mycore.arrived = true ∧
      ∀ l, s.launchOf s.cur = some l → ∃ l', t.launchOf s.cur = some l' ∧ l'.lastArr = s.time := by
  have hexec := exec_bar hi hun rfl
  rw [hdone, harr, hmay, if_neg Bool.false_ne_true, if_neg Bool.false_ne_true, if_neg (by decide)] at hexec
  obtain ⟨ls, hls⟩ := arrives_rest s
  have hme : s.arrives.me = s.me := by rw [hls]; exact State.me_setMycore s rfl
  have hcore : s.arrives.mycore = { s.mycore with arrived := true } := by
    rw [hls]
    exact State.mycore_setMycore _ _
  refine ⟨_, hexec, ⟨fun _ => by rw [hls]; rfl, fun _ => by rw [hls]; rfl, by rw [hls]; rfl⟩, ?_, ?_, fun l hl => ?_⟩
  · rw [State.me_setMe, hme]
  · rw [State.mycore_setMe, hcore]
  · refine ⟨{ l with lastArr := s.time }, ?_, rfl⟩
    have hcur : s.arrives.cur = s.cur := by rw [hls]; rfl
    have hl' : s.arrives.launchOf s.cur = some { l with lastArr := s.time } := by
      unfold State.arrives
      rw [State.launchOf_arrived, hl]
      unfold State.launchOf at hl ⊢
      rw [show ((s.setMycore { s.mycore with arrived := true }).setLaunch { l with lastArr := s.time }).core s.cur =
        { s.mycore with arrived := true } from State.core_setCore_self _ _ _]
      cases hu : (s.core s.cur).unit with
      | none => rw [hu] at hl; cases hl
      | some u =>
        rw [hu] at hl
        rw [show ({ s.mycore with arrived := true } : Core).unit = some u from hu]
        exact launch?_setLaunch (s := s.setMycore { s.mycore with arrived := true }) hl rfl rfl
    unfold State.launchOf at hl' ⊢
    have hunit : ((s.arrives.setMe { s.arrives.me with wait := .bar }).core s.cur).unit = (s.arrives.core s.cur).unit := by
      rw [← hcur, State.core_setMe_self]
    rw [hunit]
    exact hl'

end

/-! ### The exchange -/

section
variable {h : Hdr} {s : State} (hi : s.issues h { helper := false, unit := true } = true) (hp : s.phase = 1)
include hi hp

theorem issues_exchange : s.issues h { helper := false, unit := true, exchange := true } = true := by
  unfold State.issues at hi ⊢
  dsimp only at hi ⊢
  rw [hp]
  exact hi

theorem xsend_effect {x : OpXsend} {d : Nat} {l : Option Nat} {e : Nat} (htarget : s.xTarget (s.me.rs x.a).toNat = .ok (d, l))
    (hreach : s.reaches s.cur (clusterOf d) = true) (halign : (l.getD 0) % 64 = 0) (hun : s.me.unresolved = none)
    (hcyc : s.cycleOk x.cyc = true) (hslot : s.journalSlot s.cur = some e) :
    ∃ (t : State) (m : XMsg), exec (.xsend h x) s = .next (t.goOn h) ∧ t.me = s.me ∧ MemoryKept s t ∧ t.xnet = s.xnet ++ [m] ∧
      m.id = s.nonce ∧ m.src = s.cur ∧ m.ctx = s.curCtx ∧ m.jrn = e ∧ m.target = d ∧ m.line = l ∧ m.val = s.me.rv x.b ∧
      m.unit = s.unitAt s.cur d ∧ m.by_ = s.mycore.unit ∧ m.pc = s.me.pc ∧ m.va = (s.me.rs x.a).toNat ∧ m.stage = 0 ∧
      t.mycore.journal = insertSet e s.mycore.journal := by
  generalize hu : (if ((s.launchOf s.cur).map (s.inTeam · d)).getD true then s else s.noRoll s.cur) = u
  have hrest : ∃ ls, u = { s with launches := ls } := by
    rw [← hu]
    split
    · exact ⟨_, rfl⟩
    · exact launchesOnly_noRoll s s.cur
  have hunit : u.unitAt s.cur d = s.unitAt s.cur d := by
    rw [← hu]
    split
    · rfl
    · exact unitAt_noRoll (fun v => by rw [noRoll_core]) rfl
  have hexec : exec (.xsend h x) s = .next (({ u.fresh.2.takeJournal s.cur e with
      xnet := (u.fresh.2.takeJournal s.cur e).xnet ++ [{ id := u.nonce, src := s.cur, ctx := u.curCtx, jrn := e, target := d, line := l
                                                         unit := u.unitAt s.cur d, val := u.me.rv x.b, pc := u.me.pc
                                                         va := (s.me.rs x.a).toNat, stage := 0, by_ := u.mycore.unit }] } : State).goOn h) := by
    show execXsend h x s = _
    unfold execXsend
    rw [issue_issues _ _ _ _ (issues_exchange hi hp)]
    dsimp only
    rw [htarget]
    dsimp only
    rw [hreach, halign, State.firm, hun, hcyc, hslot, hu]
    rfl
  obtain ⟨ls, rfl⟩ := hrest
  refine ⟨_, { id := s.nonce, src := s.cur, ctx := s.curCtx, jrn := e, target := d, line := l, unit := s.unitAt s.cur d, val := s.me.rv x.b
               pc := s.me.pc, va := (s.me.rs x.a).toNat, stage := 0, by_ := s.mycore.unit }, hexec, ?_, ⟨fun _ => rfl, fun _ => rfl, rfl⟩, ?_,
    rfl, rfl, rfl, rfl, rfl, rfl, rfl, rfl, rfl, rfl, rfl, rfl, ?_⟩
  · exact State.me_setMycore s (k := { s.mycore with journal := insertSet e s.mycore.journal }) rfl
  · rw [hunit]
    rfl
  · exact congrArg Core.journal (State.core_setCore_self s s.cur { s.mycore with journal := insertSet e s.mycore.journal })

theorem exec_xrecv (y : OpXrecv) {it : QItem} {r : List QItem} (hcyc : s.cycleOk y.cyc = true) (hq : s.me.q.toList.getD 0 [] = it :: r) :
    exec (.xrecv h y) s = .next ((s.setMe (({ s.me with q := s.me.q.setIfInBounds 0 r } : Ctx).wv y.a it.val)).goOn h) := by
  show execXrecv h y s = _
  unfold execXrecv
  rw [issue_issues _ _ _ _ (issues_exchange hi hp), hcyc, if_neg (by decide), hq]
  rfl

theorem xrecv_waits (y : OpXrecv) (hq : s.me.q.toList.getD 0 [] = []) : exec (.xrecv h y) s = .next s.held := by
  show execXrecv h y s = _
  unfold execXrecv
  rw [issue_issues _ _ _ _ (issues_exchange hi hp), hq]
  dsimp only
  split <;> rfl

end

/-! ### Rings (R255, R256) -/

theorem ring_setRing (s : State) (r : Nat) (g : Ring) : (s.setRing r g).ring r = g := by
  unfold State.setRing State.ring
  rw [State.cluster_setCluster, if_pos rfl]
  exact Tab.getD_put_self _ _ _ _

theorem ring_noRoll (s : State) (c r : Nat) : (s.noRoll c).ring r = s.ring r := by
  obtain ⟨ls, hls⟩ := launchesOnly_noRoll s c
  rw [hls]
  rfl

/-- What may issue in a unit may issue without asking for one. -/
theorem issues_of_unit {h : Hdr} {s : State} (hi : s.issues h { helper := false, unit := true } = true) :
    s.me.inUnit = true ∧ s.issues h { helper := false } = true := by
  unfold State.issues contextOk at hi ⊢
  simp only [Bool.and_eq_true, Bool.not_true, Bool.false_or, Bool.not_false, Bool.true_or] at hi ⊢
  obtain ⟨⟨⟨hpre, hctx, hin, -⟩, hex⟩, hmid⟩ := hi
  exact ⟨hin, ⟨⟨hpre, hctx, trivial⟩, hex⟩, hmid⟩

/-- What `rpush` appends (R255). -/
def State.pushed (s : State) : SrcSV → Vec
  | .s a => (s.me.rs a).setWidth 512
  | .v a => s.me.rv a

section
variable {h : Hdr} {s : State} (hi : s.issues h { helper := false, unit := true } = true) (hun : s.me.unresolved = none) {r : Nat}
include hi hun

theorem rpush_effect {b : SrcSV} (hr : s.mycore.ringOut = some r) (hreos : s.mycore.reos = false) (hen : (s.ring r).enable = true)
    (hwide : match b with | .s _ => True | .v _ => (s.ring r).wide = true) (hroom : (s.ring r).items.length < (s.ring r).cap) :
    ∃ t : State, exec (.rpush h b) s = .next (t.goOn h) ∧ t.me = s.me ∧ MemoryKept s t ∧
      t.ring r = { s.ring r with items := (s.ring r).items ++ [s.pushed b] } := by
  have hexec : exec (.rpush h b) s = .next (((s.setRing r { s.ring r with
      items := (s.ring r).items ++ [s.pushed b] }).noRoll s.cur).goOn h) := by
    show execRpush h b s = _
    unfold execRpush
    rw [issue_issues _ _ _ _ hi, hr]
    dsimp only
    cases b with
    | s a =>
      rw [if_neg (by rw [hreos, hen]; exact Bool.false_ne_true), State.firm, hun, if_neg (by decide), if_neg (by simpa using hroom)]
      rfl
    | v a =>
      rw [if_neg (by rw [hreos, hen, show (s.ring r).wide = true from hwide]; exact Bool.false_ne_true), State.firm, hun,
        if_neg (by decide), if_neg (by simpa using hroom)]
      rfl
  refine ⟨_, hexec, State.me_noRoll (s.setRing r _) _, memoryKept_noRoll (s.setRing r _) _, ?_⟩
  rw [ring_noRoll, ring_setRing]

theorem reos_effect (hr : s.mycore.ringOut = some r) (hreos : s.mycore.reos = false) (hen : (s.ring r).enable = true) :
    ∃ t : State, exec (.reos h) s = .next (t.goOn h) ∧ t.me = s.me ∧ MemoryKept s t ∧ t.mycore.reos = true ∧
      t.ring r = { s.ring r with prods := (s.ring r).prods - 1, ended := (s.ring r).ended || (s.ring r).prods - 1 == 0 } := by
  obtain ⟨hin, hi⟩ := issues_of_unit hi
  have hexec : exec (.reos h) s = .next (((s.noRoll s.cur).reosOf s.cur).goOn h) := by
    show execReos h s = _
    unfold execReos
    rw [issue_issues _ _ _ _ hi, hin, if_pos rfl, hr]
    dsimp only
    rw [hreos, State.firm, hun]
    rfl
  obtain ⟨ls, hls⟩ := launchesOnly_noRoll s s.cur
  have hring : ((s.noRoll s.cur).ring r).enable = true := by rw [ring_noRoll, hen]
  have hcore : (s.noRoll s.cur).core s.cur = s.mycore := noRoll_core s s.cur s.cur
  have heq : (s.noRoll s.cur).reosOf s.cur = ((s.noRoll s.cur).setCore s.cur { s.mycore with reos := true }).setRing r
      { s.ring r with prods := (s.ring r).prods - 1, ended := (s.ring r).ended || (s.ring r).prods - 1 == 0 } := by
    unfold State.reosOf
    rw [hcore]
    dsimp only
    rw [hr]
    dsimp only
    rw [hreos, if_neg Bool.false_ne_true, State.endProducer]
    dsimp only
    rw [if_neg, ← ring_noRoll s s.cur r]
    · rfl
    · show ¬(!((s.noRoll s.cur).ring r).enable) = true
      rw [hring]
      decide
  refine ⟨_, hexec, ?_, ?_, ?_, ?_⟩
  · rw [heq, hls]
    exact State.me_setMycore s (k := { s.mycore with reos := true }) rfl
  · rw [heq, hls]
    exact ⟨fun _ => rfl, fun _ => rfl, rfl⟩
  · rw [heq, hls]
    exact congrArg Core.reos (State.core_setCore_self s s.cur { s.mycore with reos := true })
  · rw [heq, ring_setRing]

/-- The end-of-stream flag raised (R255). -/
theorem rpop_ended {z : OpRPop} (hr : s.mycore.ringIn = some r) (hen : (s.ring r).enable = true)
    (hend : s.mycore.released = true ∨ (s.ring r).items = [] ∧ (s.ring r).ended = true) :
    ∃ t : State, exec (.rpop h z) s = .next (t.goOn h) ∧ MemoryKept s t ∧ t.ring r = s.ring r ∧ t.me.rp z.p = BitVec.allOnes 64 ∧
      RegsKept [.p z.p.toNat] s.me t.me := by
  have hme : (s.noRoll s.cur).me = s.me := State.me_noRoll s s.cur
  have hexec : exec (.rpop h z) s = .next (((s.noRoll s.cur).setMe ((s.noRoll s.cur).me.wp z.p (predAll true))).goOn h) := by
    show execRpop h z s = _
    unfold execRpop
    rw [issue_issues _ _ _ _ hi, hr]
    dsimp only
    rw [if_neg (by rw [hen]; decide), State.firm, hun, if_neg (by decide)]
    rcases hend with hrel | ⟨hitems, hended⟩
    · rw [hrel]
      rfl
    · by_cases hrel : s.mycore.released = true
      · rw [if_pos hrel]
        rfl
      · rw [if_neg hrel, hitems]
        dsimp only
        rw [if_pos hended]
        rfl
  refine ⟨_, hexec, memoryKept_noRoll s s.cur, ring_noRoll s s.cur r, ?_, ?_⟩
  · rw [State.me_setMe, Ctx.rp_wp]
    split
    · rfl
    · rw [if_pos rfl]
      rfl
  · rw [State.me_setMe, hme]
    exact (Ctx.wp_kept _ _ _).1

/-- The oldest item taken (R255). -/
theorem rpop_item {z : OpRPop} {it : Vec} {rest : List Vec} (hr : s.mycore.ringIn = some r) (hen : (s.ring r).enable = true)
    (hrel : s.mycore.released = false) (hitems : (s.ring r).items = it :: rest) :
    ∃ t : State, exec (.rpop h z) s = .next (t.goOn h) ∧ MemoryKept s t ∧ t.ring r = { s.ring r with items := rest } ∧
      (z.p ≠ 7 → t.me.rp z.p = 0) ∧ (match z.b with
        | .s d => t.me.rs d = (if d = 0 then 0 else it.setWidth 64) ∧ RegsKept [.s d.toNat, .p z.p.toNat] s.me t.me
        | .v d => t.me.rv d = it ∧ RegsKept [.v d.toNat, .p z.p.toNat] s.me t.me) := by
  generalize hu : (s.setRing r { s.ring r with items := rest }).noRoll s.cur = u
  have hme : u.me = s.me := by rw [← hu]; exact State.me_noRoll (s.setRing r _) _
  have hkept : MemoryKept s u := by rw [← hu]; exact memoryKept_noRoll (s.setRing r _) _
  have hring : u.ring r = { s.ring r with items := rest } := by rw [← hu, ring_noRoll, ring_setRing]
  have hexec : exec (.rpop h z) s = .next (((u.setMe (match z.b with | .s d => u.me.ws d (it.setWidth 64) | .v d => u.me.wv d it)).setMe
      ((u.setMe (match z.b with | .s d => u.me.ws d (it.setWidth 64) | .v d => u.me.wv d it)).me.wp z.p (predAll false))).goOn h) := by
    show execRpop h z s = _
    unfold execRpop
    rw [issue_issues _ _ _ _ hi, hr]
    dsimp only
    rw [if_neg (by rw [hen]; decide), State.firm, hun, if_neg (by decide), if_neg (by rw [hrel]; exact Bool.false_ne_true), hitems]
    dsimp only
    rw [hu]
    rfl
  refine ⟨_, hexec, hkept, hring, fun hp => ?_, ?_⟩
  · rw [State.me_setMe, Ctx.rp_wp_self _ _ _ hp]
    rfl
  · rw [State.me_setMe, State.me_setMe, hme]
    cases z.b with
    | s d =>
      dsimp only
      refine ⟨?_, ((Ctx.ws_kept _ _ _).1).append ((Ctx.wp_kept _ _ _).1)⟩
      rw [((Ctx.wp_kept (s.me.ws d (it.setWidth 64)) z.p (predAll false)).1).1 d (by simp), Ctx.rs_ws, if_pos rfl]
    | v d =>
      dsimp only
      refine ⟨?_, ((Ctx.wv_kept _ _ _).1).append ((Ctx.wp_kept _ _ _).1)⟩
      rw [((Ctx.wp_kept (s.me.wv d it) z.p (predAll false)).1).2.1 d (by simp), Ctx.rv_wv_self]

theorem rpop_waits {z : OpRPop} (hr : s.mycore.ringIn = some r) (hen : (s.ring r).enable = true)
    (hrel : s.mycore.released = false) (hitems : (s.ring r).items = []) (hended : (s.ring r).ended = false) :
    exec (.rpop h z) s = .next s.held := by
  show execRpop h z s = _
  unfold execRpop
  rw [issue_issues _ _ _ _ hi, hr]
  dsimp only
  rw [if_neg (by rw [hen]; decide), State.firm, hun, if_neg (by decide), if_neg (by rw [hrel]; exact Bool.false_ne_true), hitems]
  dsimp only
  rw [if_neg (by rw [hended]; exact Bool.false_ne_true)]
  rfl

end

/-! ### The barrier -/

/-- What the end of a barrier leaves of a core of its team. -/
def State.barOne (s : State) (c : Nat) : State :=
  if (s.ctx c 0).live && (s.ctx c 0).wait == .bar then
    (s.finishWait c 0).setCore c { (s.finishWait c 0).core c with arrived := false, barDone := false }
  else s.setCore c { s.core c with barDone := true }

/-- The launch after its barrier. -/
def Launch.turned (l : Launch) : Launch :=
  { l with phase := if l.phase = 1 then 2 else 1, t0 := barT0 l, parked := l.parked.map (fun p => { p with barDone := true }) }

theorem exec_barrierComplete {q n : Nat} {s : State} {l : Launch} (hl : s.launch? (q, n) = some l) (hmay : s.mayComplete l = true) :
    exec (.barrierComplete q n) s = .next (((s.each (s.teamCores l) State.barOne).setLaunch l.turned).checkpoint l.turned) := by
  show execBarrierComplete q n s = _
  unfold execBarrierComplete
  rw [hl]
  dsimp only
  rw [hmay]
  rfl

/-- Only cores change, and none its unit. -/
def OnlyCores (s t : State) : Prop := (∃ cores, t = { s with cores := cores }) ∧ ∀ c, (t.core c).unit = (s.core c).unit

theorem OnlyCores.refl (s : State) : OnlyCores s s := ⟨⟨_, rfl⟩, fun _ => rfl⟩

theorem OnlyCores.trans {s t u : State} (hst : OnlyCores s t) (htu : OnlyCores t u) : OnlyCores s u := by
  obtain ⟨⟨_, rfl⟩, hx⟩ := hst
  obtain ⟨⟨_, rfl⟩, hx'⟩ := htu
  exact ⟨⟨_, rfl⟩, fun c => (hx' c).trans (hx c)⟩

theorem onlyCores_setCore (s : State) (c : Nat) {k : Core} (hk : k.unit = (s.core c).unit) : OnlyCores s (s.setCore c k) := by
  refine ⟨⟨_, rfl⟩, fun d => ?_⟩
  by_cases hd : d = c
  · rw [hd, State.core_setCore_self, hk]
  · rw [State.core_setCore_ne _ _ _ _ hd]

theorem onlyCores_barOne (s : State) (c : Nat) : OnlyCores s (s.barOne c) := by
  unfold State.barOne
  split
  · exact (onlyCores_setCore s c (by rfl)).trans (onlyCores_setCore _ c (by rfl))
  · exact onlyCores_setCore s c (by rfl)

theorem onlyCores_takeFrame (s : State) (c : Nat) : OnlyCores s (s.takeFrame c) := onlyCores_setCore s c (by rfl)

theorem ctx_setCore_ctxs {s : State} {c : Nat} {k : Core} (hk : k.ctxs = (s.core c).ctxs) (d x : Nat) : (s.setCore c k).ctx d x = s.ctx d x := by
  by_cases hd : d = c
  · simp only [State.ctx, hd, State.core_setCore_self, hk]
  · simp only [State.ctx, State.core_setCore_ne _ _ _ _ hd]

/-- The wait of a core's control context is over, and its pc is past the barrier. -/
def PastBar (s t : State) (c : Nat) : Prop := (t.ctx c 0).wait = .none ∧ (t.ctx c 0).pc = ((s.ctx c 0).pc + 12) % 2 ^ 48

theorem ctx_barOne_ne (t : State) {c d : Nat} (hd : c ≠ d) : (t.barOne d).ctx c 0 = t.ctx c 0 := by
  unfold State.barOne
  split
  · exact (ctx_setCore_ctxs (by rfl) _ _).trans (State.ctx_setCtx_core_ne _ _ _ _ _ _ hd)
  · exact ctx_setCore_ctxs (by rfl) _ _

theorem barOne_waiting {t : State} {c : Nat} (hlive : (t.ctx c 0).live = true) (hw : (t.ctx c 0).wait = .bar) :
    PastBar t (t.barOne c) c := by
  have hctx : (t.barOne c).ctx c 0 = (t.finishWait c 0).ctx c 0 := by
    unfold State.barOne
    rw [if_pos (by rw [hlive, hw]; rfl)]
    exact ctx_setCore_ctxs (by rfl) _ _
  unfold PastBar
  rw [hctx, State.finishWait, State.ctx_setCtx_self]
  exact ⟨rfl, rfl⟩

theorem pastBar_barOne {s t : State} {c : Nat} (d : Nat) (h : PastBar s t c) : PastBar s (t.barOne d) c := by
  obtain ⟨hw, hpc⟩ := h
  unfold PastBar
  by_cases hd : c = d
  · subst hd
    have hctx : (t.barOne c).ctx c 0 = t.ctx c 0 := by
      unfold State.barOne
      rw [if_neg (by rw [hw]; simp)]
      exact ctx_setCore_ctxs (by rfl) _ _
    rw [hctx]
    exact ⟨hw, hpc⟩
  · rw [ctx_barOne_ne t hd]
    exact ⟨hw, hpc⟩

theorem each_barOne_past {s : State} {c : Nat} {xs : List Nat} (hc : c ∈ xs) (hlive : (s.ctx c 0).live = true) (hw : (s.ctx c 0).wait = .bar) :
    PastBar s (s.each xs State.barOne) c := by
  refine State.each_makes (P := fun t => t.ctx c 0 = s.ctx c 0 ∨ PastBar s t c) (Q := fun t => PastBar s t c) (fun t d ht => ?_)
    (fun t ht => ?_) (fun t d ht => pastBar_barOne d ht) (Or.inl rfl) hc
  · rcases ht with ht | ht
    · by_cases hd : c = d
      · subst hd
        have hpast := barOne_waiting (t := t) (c := c) (by rw [ht]; exact hlive) (by rw [ht]; exact hw)
        rw [PastBar, ht] at hpast
        exact Or.inr hpast
      · exact Or.inl ((ctx_barOne_ne t hd).trans ht)
    · exact Or.inr (pastBar_barOne d ht)
  · rcases ht with ht | ht
    · have hpast := barOne_waiting (t := t) (c := c) (by rw [ht]; exact hlive) (by rw [ht]; exact hw)
      rw [PastBar, ht] at hpast
      exact hpast
    · exact pastBar_barOne c ht

/-- A core has its checkpoint (R312). -/
def Framed (t : State) (c : Nat) : Prop := (t.core c).frame.isSome = true ∧ (t.core c).units = [] ∧ (t.core c).t0cc = (t.core c).cc

theorem framed_takeFrame (t : State) (c : Nat) : Framed (t.takeFrame c) c := by
  unfold Framed State.takeFrame
  rw [State.core_setCore_self]
  exact ⟨rfl, rfl, rfl⟩

theorem Framed.kept {t : State} {c : Nat} (h : Framed t c) (d : Nat) : Framed (t.takeFrame d) c := by
  by_cases hd : c = d
  · exact hd ▸ framed_takeFrame t d
  · unfold Framed State.takeFrame
    rw [State.core_setCore_ne _ _ _ _ hd]
    exact h

theorem ctx_takeFrame (t : State) (c d x : Nat) : (t.takeFrame c).ctx d x = t.ctx d x := ctx_setCore_ctxs (by rfl) _ _

theorem emptyUndo_rest (s : State) (l : Launch) : ∃ cl, s.emptyUndo l = { s with clusters := cl } := by
  refine State.each_ind (P := fun t => ∃ cl, t = { s with clusters := cl }) ?_ ⟨_, rfl⟩ s.clusters
  rintro _ e ⟨cl, rfl⟩
  exact ⟨_, rfl⟩

theorem barT0_bounds {s : State} {l : Launch} (hmay : s.mayComplete l = true) :
    (l.lastArr + 128 + 63) / 64 * 64 ≤ s.time ∧ l.lastArr + 128 ≤ (l.lastArr + 128 + 63) / 64 * 64 ∧
      barT0 l = (l.lastArr + 128 + 63) / 64 * 64 := by
  have hT : barT0 l = (l.lastArr + 128 + 63) / 64 * 64 := rfl
  simp only [State.mayComplete, Bool.and_eq_true, decide_eq_true_eq] at hmay
  refine ⟨hT ▸ hmay.1.1.1.1.2, by omega, hT⟩

theorem barrier_effect {q n : Nat} {s : State} {l : Launch} (hl : s.launch? (q, n) = some l) :
    let t := ((s.each (s.teamCores l) State.barOne).setLaunch l.turned).checkpoint l.turned
    MemoryKept s t ∧ ∃ l', t.launch? (q, n) = some l' ∧ l'.phase = (if l.phase = 1 then 2 else 1) ∧ l'.t0 = barT0 l ∧ l'.replayed = false ∧
      l'.rbPending = false ∧ l'.cores = l.cores ∧ (∀ c ∈ s.teamCores l, Framed t c) ∧
      (∀ c ∈ s.teamCores l, (s.ctx c 0).live = true → (s.ctx c 0).wait = .bar → PastBar s t c) := by
  intro t
  obtain ⟨⟨cores, hu⟩, hunits⟩ := State.each_ind (P := OnlyCores s) (fun t c ht => ht.trans (onlyCores_barOne t c)) (OnlyCores.refl s)
    (s.teamCores l)
  generalize hbar : s.each (s.teamCores l) State.barOne = u at hu hunits
  have ht : t = (u.setLaunch l.turned).checkpoint l.turned := by rw [← hbar]
  have hteam : (u.setLaunch l.turned).teamCores l.turned = s.teamCores l :=
    List.filter_congr fun c _ => congrArg (· == some (l.queue, l.seq)) (hunits c)
  have hlu : (u.setLaunch l.turned).launch? (q, n) = some l.turned :=
    launch?_setLaunch (s := u) (l := l) (by rw [hu]; exact hl) rfl rfl
  obtain ⟨⟨cores', hv⟩, -⟩ := State.each_ind (P := OnlyCores (u.setLaunch l.turned)) (fun t c ht => ht.trans (onlyCores_takeFrame t c))
    (OnlyCores.refl _) (s.teamCores l)
  generalize hfr : (u.setLaunch l.turned).each (s.teamCores l) State.takeFrame = v at hv
  obtain ⟨cl, hw⟩ := emptyUndo_rest v l.turned
  have htv : ∃ b, t = (v.emptyUndo l.turned).setLaunch { l.turned with noRoll := b, replayed := false, rbPending := false } := by
    rw [ht, State.checkpoint, hteam, hfr]
    exact ⟨_, rfl⟩
  obtain ⟨b, htv⟩ := htv
  have hcores : ∀ c, t.core c = v.core c := fun c => by rw [htv, hw]; rfl
  have hfound : (v.emptyUndo l.turned).launch? (q, n) = some l.turned := by rw [hw, hv]; exact hlu
  refine ⟨?_, { l.turned with noRoll := b, replayed := false, rbPending := false }, by rw [htv]; exact launch?_setLaunch hfound (by rfl) (by rfl), rfl, rfl, rfl, rfl, rfl, fun c hc => ?_, fun c hc hlive hwait => ?_⟩
  · rw [htv, hw, hv, hu]
    exact ⟨fun _ => rfl, fun _ => rfl, rfl⟩
  · have hframed : Framed v c := by
      rw [← hfr]
      exact State.each_makes (P := fun _ => True) (Q := fun t => Framed t c) (fun _ _ _ => trivial) (fun t _ => framed_takeFrame t c) (fun t d h => h.kept d) trivial hc
    unfold Framed
    rw [hcores]
    exact hframed
  · have hpast : PastBar s u c := hbar ▸ each_barOne_past hc hlive hwait
    have hctx : t.ctx c 0 = u.ctx c 0 := by
      have hvu : v.ctx c 0 = u.ctx c 0 := by
        rw [← hfr]
        exact State.each_ind (P := fun t => t.ctx c 0 = u.ctx c 0) (s := u.setLaunch l.turned)
          (fun t d ht => (ctx_takeFrame t d c 0).trans ht) rfl _
      rw [← hvu, State.ctx, hcores]
      rfl
    unfold PastBar
    rw [hctx]
    exact hpast

/-! ### Deliveries (R236, R253) -/

theorem State.xnet_bankWrite (s : State) (pkg off n v : Nat) : (s.bankWrite pkg off n v).xnet = s.xnet := by
  by_cases hn : n = 0
  · subst hn
    rfl
  · obtain ⟨u, hu, ht⟩ := s.bankWrite_eq pkg off v hn
    rw [ht, State.mixTag_rest, State.mixTag_rest (u.bankRaw pkg off n v), show u = _ from hu]
    rfl

theorem delivered_rest (s : State) (m : XMsg) : ∃ ls, s.delivered m = { s with xnet := s.xnet.filter (·.id != m.id), launches := ls } := by
  unfold State.delivered
  dsimp only
  split <;> exact ⟨_, rfl⟩

section
variable {id : Nat} {s : State} {m : XMsg} (hm : s.xnet.find? (fun m => m.id == id) = some m) (htorn : id ∉ s.torn)

theorem id_of_found (hm : s.xnet.find? (fun m => m.id == id) = some m) : m.id = id := by
  have := List.find?_some hm
  simpa using this

include hm htorn

theorem exec_delivery_line {l : Nat} (hline : m.line = some l) (habsent : dieOf m.target ∉ s.hub.absent) :
    exec (.exchangeDelivery id) s = (match s.bankForUnit (m.by_.or (s.core m.src).unit) m.src m.target (l / 65536) m.id with
      | .error e => .next (if !(s.ctx m.src m.ctx).live || ((s.launchOf m.src).map (·.rbPending)).getD false then
          (s.freeJournal m.src (some m.jrn)).delivered m
        else (s.delivered m).pendTrap m.src m.ctx
          { cause := Cause.remoteRefused.code, detail := e.code, resume := 0, fpc := m.pc
            va := m.va, ipa := 0, jrn := some m.jrn, async := true })
      | .ok pkg => .next (((s.bankWrite pkg (l % 65536) 64 m.val.toNat).freeJournal m.src (some m.jrn)).delivered m)) := by
  have hid := id_of_found hm
  show execExchangeDelivery id s = _
  unfold execExchangeDelivery
  rw [hm]
  dsimp only
  rw [if_neg (by rw [hid]; simpa using htorn), hline]
  dsimp only
  rw [if_neg (by simpa using habsent)] <;> rfl

theorem exec_delivery_item (hline : m.line = none) : exec (.exchangeDelivery id) s = .next ((s.moveItem m).getD s) := by
  have hid := id_of_found hm
  show execExchangeDelivery id s = _
  unfold execExchangeDelivery
  rw [hm]
  dsimp only
  rw [if_neg (by rw [hid]; simpa using htorn), hline]

end

section
variable {id : Nat} {s : State} {m : XMsg} (hm : s.xnet.find? (fun m => m.id == id) = some m) (htorn : id ∉ s.torn) {l : Nat}
  (hline : m.line = some l) (habsent : dieOf m.target ∉ s.hub.absent)
include hm htorn hline habsent

theorem delivery_written {pkg : Nat} (hbank : s.bankForUnit (m.by_.or (s.core m.src).unit) m.src m.target (l / 65536) m.id = .ok pkg) :
    ∃ t : State, exec (.exchangeDelivery id) s = .next t ∧ t.mem = s.mem ∧ t.xnet = s.xnet.filter (fun n => n.id != id) ∧
      t.banks = s.banks.write (pkg * 65536 + l % 65536) 64 m.val.toNat := by
  have hexec := exec_delivery_line hm htorn hline habsent
  rw [hbank] at hexec
  dsimp only at hexec
  obtain ⟨ls, hls⟩ := delivered_rest ((s.bankWrite pkg (l % 65536) 64 m.val.toNat).freeJournal m.src (some m.jrn)) m
  have hrest := s.bankWrite_bytes pkg (l % 65536) 64 m.val.toNat
  have hx := s.xnet_bankWrite pkg (l % 65536) 64 m.val.toNat
  generalize s.bankWrite pkg (l % 65536) 64 m.val.toNat = w at hexec hls hrest hx
  obtain ⟨hmem, hb⟩ := hrest
  refine ⟨_, hexec, ?_, ?_, ?_⟩
  · rw [hls]; exact hmem
  · rw [hls, ← id_of_found hm]
    exact congrArg (List.filter _) hx
  · rw [hls]; exact hb

theorem delivery_refused {e : Cause} (hbank : s.bankForUnit (m.by_.or (s.core m.src).unit) m.src m.target (l / 65536) m.id = .error e)
    (hlive : (s.ctx m.src m.ctx).live = true) (hrb : ∀ k, s.launchOf m.src = some k → k.rbPending = false) :
    ∃ t : State, exec (.exchangeDelivery id) s = .next t ∧ MemoryKept s t ∧ t.xnet = s.xnet.filter (fun n => n.id != id) ∧
      (t.ctx m.src m.ctx).traps = (s.ctx m.src m.ctx).traps ++
        [{ cause := 0x0F, detail := e.code, resume := 0, fpc := m.pc, va := m.va, ipa := 0, jrn := some m.jrn, async := true }] := by
  have hexec := exec_delivery_line hm htorn hline habsent
  have hroll : ((s.launchOf m.src).map (·.rbPending)).getD false = false := by
    cases hk : s.launchOf m.src with
    | none => rfl
    | some k => exact hrb k hk
  rw [hbank, hlive, hroll] at hexec
  dsimp only at hexec
  rw [if_neg (by decide)] at hexec
  obtain ⟨ls, hls⟩ := delivered_rest s m
  refine ⟨_, hexec, ?_, ?_, ?_⟩
  · rw [hls]; exact ⟨fun _ => rfl, fun _ => rfl, rfl⟩
  · rw [hls, ← id_of_found hm]; rfl
  · rw [hls, State.pendTrap, State.ctx_setCtx_self]
    rfl

end

section
variable {s : State} {m : XMsg} (hstage : m.stage = 0)
  (hfirst : ∀ n ∈ s.xnet, n.src = m.src → n.target = m.target ∧ n.unit = m.unit ∧ n.line = none → n.stage = 0 → m.id ≤ n.id)
include hfirst

/-- No earlier message of the sender waits for the same context. -/
theorem moveItem_first : s.xnet.any (fun n => decide (n.id < m.id) && n.src == m.src &&
    (n.target == m.target && n.unit == m.unit && n.line.isNone) && n.stage == 0) = false := by
  rw [List.any_eq_false]
  intro n hn
  simp only [Bool.and_eq_true, decide_eq_true_eq, beq_iff_eq, Option.isNone_iff_eq_none, not_and]
  rintro ⟨⟨hlt, hsrc⟩, ⟨htgt, hunit⟩, hl⟩ hst
  have := hfirst n hn hsrc ⟨htgt, hunit, hl⟩ hst
  omega

include hstage

theorem moveItem_given (hat : s.controlOf m.target m.unit = .here 0) (htakes : (s.ctx m.target 0).takesItem = true)
    (hnone : ∀ n ∈ s.xnet, n.target = m.target ∧ n.unit = m.unit ∧ n.line = none → n.stage = 0) : s.moveItem m = some (s.giveItem m) := by
  have hwait : s.xnet.filter (fun n => (n.target == m.target && n.unit == m.unit && n.line.isNone) && n.stage != 0) = [] := by
    rw [List.filter_eq_nil_iff]
    intro n hn
    simp only [Bool.and_eq_true, beq_iff_eq, Option.isNone_iff_eq_none, bne_iff_ne, not_and, not_not]
    intro hplace
    exact hnone n hn ⟨hplace.1.1, hplace.1.2, hplace.2⟩
  unfold State.moveItem
  dsimp only
  rw [hwait, moveItem_first hfirst, hat, htakes, hstage, if_neg (by decide), if_pos rfl, if_neg Bool.false_ne_true, if_pos (by decide)]

theorem moveItem_away (hat : s.controlOf m.target m.unit = .away 0) (hcredit : s.atInterface m.target (.away 0) < 4) :
    s.moveItem m = some { s.fresh.2 with xnet := s.xnet.filter (·.id != m.id) ++ [{ m with stage := 1, came := s.nonce }] } := by
  unfold State.moveItem
  dsimp only
  rw [moveItem_first hfirst, hat, if_neg (by decide), if_pos hstage, if_neg Bool.false_ne_true, if_neg (by
    rw [show ((Place.away 0 == Place.here 0) = false) from by decide]
    simp), if_pos (by simpa using hcredit)]

end

theorem giveItem_effect (s : State) (m : XMsg) : MemoryKept s (s.giveItem m) ∧ (s.giveItem m).xnet = s.xnet.filter (fun n => n.id != m.id) ∧
    ((s.giveItem m).ctx m.target 0).q.toList.getD 0 [] = (s.ctx m.target 0).q.toList.getD 0 [] ++ [{ wide := true, val := m.val }] := by
  unfold State.giveItem
  dsimp only
  generalize hk : ({ s.ctx m.target 0 with
    q := (s.ctx m.target 0).q.setIfInBounds 0 ((s.ctx m.target 0).q.toList.getD 0 [] ++ [{ wide := true, val := m.val }]) } : Ctx) = k
  obtain ⟨ls, hls⟩ := delivered_rest ((s.setCtx m.target 0 k).freeJournal m.src (some m.jrn)) m
  refine ⟨?_, ?_, ?_⟩
  · rw [hls]; exact ⟨fun _ => rfl, fun _ => rfl, rfl⟩
  · rw [hls]; rfl
  · rw [hls]
    have hctx : ((s.setCtx m.target 0 k).freeJournal m.src (some m.jrn)).ctx m.target 0 = k :=
      (ctx_setCore_ctxs (by rfl) _ _).trans (State.ctx_setCtx_self _ _ _ _)
    refine (congrArg (fun k : Ctx => k.q.toList.getD 0 []) hctx).trans ?_
    rw [← hk]
    simp

/-- Settles O49: the barrier by `barrier_effect`, the exchange and the rings by their equations. -/
theorem teamInstructions : Obligations.TeamInstructions := by
  unfold Obligations.TeamInstructions
  refine ⟨fun h x y b z s hi => ?_, fun q n s l hl hmay => ?_, fun id s m hm hmay htorn => ?_⟩
  · intro c
    refine ⟨fun hun hdone harr hmay => bar_arrives hi hun hdone harr hmay, fun hun hdone harr => ?_, fun hun hdone harr hmay => ?_,
      fun hun hdone => ?_, fun hp _ => ⟨fun d l e ht hr ha hun hcyc hslot => xsend_effect hi hp ht hr ha hun hcyc hslot,
        fun it r hcyc hq => ⟨_, exec_xrecv hi hp y hcyc hq, Ctx.rv_wv_self _ _ _, (Ctx.wv_kept _ _ _).1, rfl⟩,
        fun hq => xrecv_waits hi hp y hq⟩,
      fun r hr hreos hen hun => ⟨fun hwide hroom => by
        cases b <;> exact rpush_effect hi hun hr hreos hen hwide hroom, reos_effect hi hun hr hreos hen⟩,
      fun r hr hen hun hrel => rpop_ended hi hun hr hen (Or.inl hrel),
      fun r hr hen hun hrel => ⟨fun it rest hitems => rpop_item hi hun hr hen hrel hitems, fun hitems hended => ?_,
        fun hitems hended => rpop_waits hi hun hr hen hrel hitems hended⟩⟩
    · refine exec_bar hi hun (r := .wait _) ?_
      rw [if_neg (by rw [hdone]; exact Bool.false_ne_true), if_pos harr]
    · refine exec_bar hi hun (r := .hold) ?_
      rw [if_neg (by rw [hdone]; exact Bool.false_ne_true), if_neg (by rw [harr]; exact Bool.false_ne_true),
        if_pos (by rw [show s.mayArriveAt s.cur = false from hmay]; rfl)]
    · exact exec_bar hi hun (r := .done _) (if_pos hdone)
    · obtain ⟨t, hexec, hkept, -, hp, hregs⟩ := rpop_ended hi hun hr hen (z := z) (Or.inr ⟨hitems, hended⟩)
      exact ⟨t, hexec, hkept, hp, hregs⟩
  · intro t0
    obtain ⟨hle, hge, hT⟩ := barT0_bounds hmay
    obtain ⟨hkept, l', hl', hphase, ht0, hrep, hrb, hcores, hframed, hpast⟩ := barrier_effect hl
    exact ⟨hle, hge, _, l', exec_barrierComplete hl hmay, hkept, hl', hphase, ht0.trans hT, hrep, hrb, hcores, hframed, hpast⟩
  · intro by_
    refine ⟨fun l hline habsent => ⟨fun pkg hbank => delivery_written hm htorn hline habsent hbank,
      fun e hbank hlive hrb => delivery_refused hm htorn hline habsent hbank hlive hrb⟩, ?_⟩
    intro same hline hstage hfirst
    have hid := id_of_found hm
    refine ⟨fun hat htakes hnone => ?_, fun hat hcredit => ?_⟩
    · obtain ⟨hkept, hx, hq⟩ := giveItem_effect s m
      have hexec := exec_delivery_item hm htorn hline
      rw [moveItem_given hstage hfirst hat htakes hnone] at hexec
      refine ⟨s.giveItem m, hexec, hkept, ?_, hq⟩
      rw [hx, hid]
    · have hexec := exec_delivery_item hm htorn hline
      rw [moveItem_away hstage hfirst hat hcredit] at hexec
      refine ⟨_, hexec, ⟨fun _ => rfl, fun _ => rfl, rfl⟩, ?_⟩
      rw [hid]
      rfl

end Sys2Proof.Machine
end

section
/-!
O50, refuted: a context's level is a number of the model, and nothing in the statement keeps it below 4. At level 4 the write of a register
that no level may write passes the level check (the model asks level 4 for it) and goes on without effect.
-/

namespace Sys2Proof.Machine

open Sys2Proof

/-- Context 0 of core 0 at a level above every level of the spec. -/
def highState : State := runningState.setMe { runningState.me with level := 4 }

/-- The place of the issuing context after an outcome. -/
def placeAfter (o : Out) : Option Nat :=
  match o with
  | .next t => some t.me.pc
  | _ => none

/-- There a write of the time register goes on at the next instruction. -/
theorem place_sysw_time : placeAfter (exec (.sysw bareHdr { num := 0x002, b := 0 }) highState) = some 0x1000C := by decide +kernel

/-- Refutes O50: at level 4 `sysw` of the time register raises no PRIV. -/
theorem not_systemRegisters : ¬ Obligations.SystemRegisters := by
  unfold Obligations.SystemRegisters
  intro h
  obtain ⟨-, -, -, -, -, ⟨-, -, hpriv⟩, -⟩ := h bareHdr 0 highState (by decide +kernel)
  have hplace := congrArg placeAfter hpriv
  rw [place_sysw_time] at hplace
  revert hplace
  decide +kernel

end Sys2Proof.Machine
end

section
/-!
O51: the other instructions of class 0xE. Each operation says what it changes of TLBs, memory and clusters.
-/

namespace Sys2Proof.Machine

open Sys2Proof

/-! ### The overflow table (R47, R48) -/

/-- The rows of the table, each by its two bits. -/
theorem tableOk_iff {w : Nat} (hw : w < 2 ^ 64) : tableOk w = true ↔
    w < 2 ^ 12 ∧ (∀ i, i < 6 → bits w (2 * i + 1) (2 * i) ≠ 3) ∧ bits w 1 0 ≠ 1 ∧ bits w 3 2 ≠ 1 := by
  have htop : bits w 63 12 = 0 ↔ w < 2 ^ 12 := by unfold bits; omega
  simp only [tableOk, Bool.and_eq_true, beq_iff_eq, bne_iff_ne, List.all_eq_true, List.mem_range, htop, and_assoc]

section
variable {h : Hdr} {s : State} (hi : s.issues h { level := 1 } = true)
include hi

theorem exec_ovtld (r : SReg) (hun : s.me.unresolved = none) : exec (.ovtld h r) s =
    (if tableOk (s.me.rs r).toNat then Res.done (s.setMe { s.me with ovt := (s.me.rs r).setWidth 12 }) else s.raise .illegalTable).out h s := by
  show execOvtld h r s = _
  unfold execOvtld
  rw [issue_issues _ _ _ _ hi]
  simp only [State.need, State.firm, hun, Option.isSome_none, Bool.false_eq_true, if_false]

end

/-! ### Invalidations (R296, R297) -/

/-- An entry that a filter keeps does not match. -/
theorem not_matches_of_mem_filter {v : Inval} {l : List Tlb} {e : Tlb} (he : e ∈ l.filter (fun t => !invMatches v t)) : invMatches v e = false := by
  have := (List.mem_filter.mp he).2
  simpa using this

/-- A core lies in its cluster. -/
theorem mem_coresOf_clusterOf (c : Nat) : c ∈ coresOf (clusterOf c) := by
  refine List.mem_map.mpr ⟨inCluster c, List.mem_range.mpr ?_, ?_⟩
  · unfold inCluster rowOf colOf
    omega
  · unfold coreIn clusterOf inCluster rowOf colOf dieOf
    omega

theorem Tab.getD_of_not_mem_keys {α : Type} {t : Tab α} {k : Nat} (hk : k ∉ Tab.keys t) (d : α) : Tab.getD t k d = d := by
  rw [Tab.getD, Tab.get?_of_not_mem_keys hk]
  rfl

/-- The entries of a core's own TLB dropped. -/
def State.invCore (v : Inval) (s : State) (e : Nat × Core) : State :=
  s.setCore e.1 { s.core e.1 with l1 := (s.core e.1).l1.filter (fun t => !invMatches v t) }

/-- The entries of a cluster's TLB dropped. -/
def State.invCluster (v : Inval) (s : State) (e : Nat × Cluster) : State :=
  s.setCluster e.1 { s.cluster e.1 with l2 := (s.cluster e.1).l2.filter (fun t => !invMatches v t) }

/-- No entry that the invalidation matches is left. -/
def Clears (v : Inval) (l : List Tlb) : Prop := ∀ e ∈ l, invMatches v e = false

theorem clears_filter (v : Inval) (l : List Tlb) : Clears v (l.filter (fun t => !invMatches v t)) := fun _ he => not_matches_of_mem_filter he

theorem clears_invCore {v : Inval} {s : State} {d : Nat} (h : Clears v (s.core d).l1) (e : Nat × Core) :
    Clears v ((s.invCore v e).core d).l1 := by
  by_cases hd : d = e.1
  · rw [State.invCore, hd, State.core_setCore_self]
    exact clears_filter _ _
  · rw [State.invCore, State.core_setCore_ne _ _ _ _ hd]
    exact h

theorem clears_invCluster {v : Inval} {s : State} {r : Nat} (h : Clears v (s.cluster r).l2) (e : Nat × Cluster) :
    Clears v ((s.invCluster v e).cluster r).l2 := by
  rw [State.invCluster, State.cluster_setCluster]
  split
  · exact clears_filter _ _
  · exact h

/-- Every core in scope is cleared: one that the table does not list has an empty TLB. -/
theorem each_invCore_clears (v : Inval) (s : State) {d : Nat} (hd : invCovers v d = true) :
    Clears v ((s.each (s.cores.filter (fun e => invCovers v e.1)) (State.invCore v)).core d).l1 := by
  by_cases hk : d ∈ Tab.keys s.cores
  · obtain ⟨e, he, rfl⟩ := List.mem_map.mp hk
    refine State.each_makes (P := fun _ => True) (Q := fun t => Clears v (t.core e.1).l1) (a := e) (fun _ _ _ => trivial) (fun t _ => ?_)
      (fun t e' ht => clears_invCore ht e') trivial (List.mem_filter.mpr ⟨he, hd⟩)
    rw [State.invCore, State.core_setCore_self]
    exact clears_filter _ _
  · refine State.each_ind (P := fun t => Clears v (t.core d).l1) (fun t e ht => clears_invCore ht e) ?_ _
    rw [State.core, Tab.getD_of_not_mem_keys hk]
    exact fun _ he => absurd he List.not_mem_nil

theorem each_invCluster_clears (v : Inval) (s : State) {d : Nat} (hd : invCovers v d = true) :
    Clears v ((s.each (s.clusters.filter (fun e => (coresOf e.1).any (invCovers v))) (State.invCluster v)).cluster (clusterOf d)).l2 := by
  by_cases hk : clusterOf d ∈ Tab.keys s.clusters
  · obtain ⟨e, he, hr⟩ := List.mem_map.mp hk
    rw [← hr]
    refine State.each_makes (P := fun _ => True) (Q := fun t => Clears v (t.cluster e.1).l2) (a := e) (fun _ _ _ => trivial) (fun t _ => ?_)
      (fun t e' ht => clears_invCluster ht e') trivial (List.mem_filter.mpr ⟨he, List.any_eq_true.mpr ⟨d, hr ▸ mem_coresOf_clusterOf d, hd⟩⟩)
    rw [State.invCluster, State.cluster_setCluster, if_pos rfl]
    exact clears_filter _ _
  · refine State.each_ind (P := fun t => Clears v (t.cluster (clusterOf d)).l2) (fun t e ht => clears_invCluster ht e) ?_ _
    rw [State.cluster, Tab.getD_of_not_mem_keys hk]
    exact fun _ he => absurd he List.not_mem_nil

/-- An invalidation with its number and what it waits for. -/
def State.numbered (s : State) (v : Inval) : Inval :=
  { v with
    seq := s.hub.invSeq + 1
    waits := (s.net.filter (fun a => invCovers v a.core && (2 ≤ v.kind || a.asid == v.asid) && (match a.dest with
        | .dev .. => true
        | .peer .. => true
        | _ => false))).map (·.id)
      ++ (s.posts.filter (fun p => invCovers v p.core && (2 ≤ v.kind || p.asid == v.asid) && !p.atCore)).map (·.id) }

/-- An invalidation noted by the hub. -/
def State.noted (s : State) (u : Inval) : State := { s with hub := { s.hub with invSeq := u.seq }, invals := s.invals ++ [u] }

def State.clearCores (s : State) (u : Inval) : State := s.each (s.cores.filter (fun e => invCovers u e.1)) (State.invCore u)

def State.clearClusters (s : State) (u : Inval) : State :=
  s.each (s.clusters.filter (fun e => (coresOf e.1).any (invCovers u))) (State.invCluster u)

theorem invalidate_eq (s : State) (v : Inval) :
    s.invalidate v = ((s.noted (s.numbered v)).clearCores (s.numbered v)).clearClusters (s.numbered v) := rfl

theorem clearCores_rest (s : State) (u : Inval) : (∃ cores, s.clearCores u = { s with cores := cores }) ∧
    ∀ c, ((s.clearCores u).core c).ctxs = (s.core c).ctxs := by
  refine State.each_ind (P := fun t : State => (∃ cores, t = { s with cores := cores }) ∧ ∀ c, (t.core c).ctxs = (s.core c).ctxs)
    (fun t e ht => ?_) ⟨⟨_, rfl⟩, fun _ => rfl⟩ _
  obtain ⟨⟨_, rfl⟩, hx⟩ := ht
  refine ⟨⟨_, rfl⟩, fun c => (Eq.trans ?_ (hx c))⟩
  by_cases hc : c = e.1
  · rw [State.invCore, hc, State.core_setCore_self]
  · rw [State.invCore, State.core_setCore_ne _ _ _ _ hc]

theorem clearClusters_rest (s : State) (u : Inval) : ∃ cl, s.clearClusters u = { s with clusters := cl } := by
  refine State.each_ind (P := fun t : State => ∃ cl, t = { s with clusters := cl }) ?_ ⟨_, rfl⟩ _
  rintro _ e ⟨_, rfl⟩
  exact ⟨_, rfl⟩

/-- What an invalidation leaves (R269, R296). -/
theorem invalidate_effect (s : State) (v : Inval) :
    (∃ cores clusters hub, s.invalidate v = { s with cores := cores, clusters := clusters, hub := hub, invals := s.invals ++ [s.numbered v] }) ∧
    (∀ c, ((s.invalidate v).core c).ctxs = (s.core c).ctxs) ∧
    (∀ d, invCovers (s.numbered v) d = true → Clears (s.numbered v) ((s.invalidate v).core d).l1) ∧
    (∀ d, invCovers (s.numbered v) d = true → Clears (s.numbered v) ((s.invalidate v).cluster (clusterOf d)).l2) := by
  rw [invalidate_eq]
  generalize s.numbered v = u
  obtain ⟨⟨cores, hcores⟩, hctxs⟩ := clearCores_rest (s.noted u) u
  have hclear := fun d (hd : invCovers u d = true) => each_invCore_clears u (s.noted u) hd
  change ∀ d, _ → Clears u (((s.noted u).clearCores u).core d).l1 at hclear
  generalize (s.noted u).clearCores u = t at hcores hctxs hclear
  obtain ⟨cl, hz⟩ := clearClusters_rest t u
  have hclear2 := fun d (hd : invCovers u d = true) => each_invCluster_clears u t hd
  change ∀ d, _ → Clears u ((t.clearClusters u).cluster (clusterOf d)).l2 at hclear2
  have hcore : ∀ c, (t.clearClusters u).core c = t.core c := fun c => by rw [hz]; rfl
  refine ⟨⟨cores, cl, { s.hub with invSeq := u.seq }, ?_⟩, fun c => ?_, fun d hd => ?_, hclear2⟩
  · rw [hz, hcores]
    rfl
  · rw [hcore, hctxs]
    rfl
  · rw [hcore]
    exact hclear d hd

/-- A page zeroed at its homes (R301). -/
def State.wipedPage (s : State) (at_ : Nat) (e : Tlb) : State :=
  ((s.noRoll s.cur).devWipe at_ 65536).each (granules (65536 / 8192 + 2) at_ 65536) (fun s r =>
    s.charge (s.partOf s.cur) (2 + homeDie (homeOf e r.1)) (cdiv r.2 64))

theorem wipedPage_rest (s : State) (at_ : Nat) (e : Tlb) :
    ∃ ps, s.wipedPage at_ e = { (s.noRoll s.cur).devWipe at_ 65536 with parts := ps } := by
  refine State.each_ind (P := fun t => ∃ ps, t = { (s.noRoll s.cur).devWipe at_ 65536 with parts := ps }) ?_ ⟨_, rfl⟩ _
  rintro _ r ⟨ps, rfl⟩
  exact ⟨_, rfl⟩

theorem devWipe_rest (s : State) (a n : Nat) : ∃ bad hub, s.devWipe a n = { s with mem := s.mem.wipe a n, badMem := bad, hub := hub } := by
  unfold State.devWipe State.mark
  split <;> exact ⟨_, _, rfl⟩

section
variable {h : Hdr} {s : State} (hi : s.issues h { level := 1 } = true) (hun : s.me.unresolved = none)
include hi

theorem tlbsync_effect :
    ((∀ v ∈ s.invals, v.seq ∈ s.me.invs → s.invDone v = true) → exec (.tlbsync h) s =
      .next ((s.pruneInvals.setMe { s.me with invs := [] }).goOn h)) ∧
    ((∃ v ∈ s.invals, v.seq ∈ s.me.invs ∧ s.invDone v = false) → exec (.tlbsync h) s = .next s.held) := by
  have hexec {r : Res} (hr : (if s.me.invs.any (fun n => s.pruneInvals.invals.any (·.seq == n)) then Res.hold
      else .done (s.pruneInvals.setMe { s.me with invs := [] })) = r) : exec (.tlbsync h) s = r.out h s := by
    show execTlbsync h s = _
    unfold execTlbsync
    rw [issue_issues _ _ _ _ hi, ← hr]
    rfl
  refine ⟨fun hdone => ?_, fun hopen => ?_⟩
  · refine hexec (r := .done _) (if_neg ?_)
    simp only [List.any_eq_true, beq_iff_eq, State.pruneInvals, not_exists, not_and]
    intro n hn v hv hseq
    obtain ⟨hmem, hnot⟩ := List.mem_filter.mp hv
    rw [hdone v hmem (hseq ▸ hn)] at hnot
    cases hnot
  · obtain ⟨v, hv, hseq, hnot⟩ := hopen
    refine hexec (r := .hold) (if_pos ?_)
    simp only [List.any_eq_true, beq_iff_eq, State.pruneInvals]
    exact ⟨v.seq, hseq, v, List.mem_filter.mpr ⟨hv, by rw [hnot]; rfl⟩, rfl⟩

include hun

theorem tlbinv_effect {x : OpBC} (hok : invSpecOk (s.me.rs x.c).toNat = true)
    (haddr : bits (s.me.rs x.c).toNat 60 58 = 0 ∨ bits (s.me.rs x.c).toNat 60 58 = 2 → (s.me.rs x.b).toNat < 2 ^ 48)
    (hasid : bits (s.me.rs x.c).toNat 60 58 < 2 → (s.part (s.partOf s.cur)).holdsAsid (bits (s.me.rs x.c).toNat 13 0) = true)
    (hlevel : 2 ≤ bits (s.me.rs x.c).toNat 60 58 → 2 ≤ s.me.level) (hroom : s.me.invs.length < 8) :
    ∃ (t : State) (v : Inval), exec (.tlbinv h x) s = .next (t.goOn h) ∧ MemoryKept s t ∧ RegsKept [] s.me t.me ∧ v ∈ t.invals ∧
      v.seq = s.hub.invSeq + 1 ∧ v.seq ∈ t.me.invs ∧ v.scope = bits (s.me.rs x.c).toNat 63 61 ∧ v.kind = bits (s.me.rs x.c).toNat 60 58 ∧
      v.addr = bits (s.me.rs x.b).toNat 47 0 ∧ v.core = s.cur ∧ v.asid = bits (s.me.rs x.c).toNat 13 0 ∧
      v.vdev = bits (s.me.rs x.c).toNat 53 48 ∧
      (∀ d, invCovers v d = true → ∀ e ∈ (t.core d).l1, invMatches v e = false) ∧
      (∀ d, invCovers v d = true → ∀ e ∈ (t.cluster (clusterOf d)).l2, invMatches v e = false) := by
  generalize hv : ({ seq := 0, scope := bits (s.me.rs x.c).toNat 63 61, core := s.cur, kind := bits (s.me.rs x.c).toNat 60 58
                     addr := bits (s.me.rs x.b).toNat 47 0, vdev := bits (s.me.rs x.c).toNat 53 48
                     asid := bits (s.me.rs x.c).toNat 13 0, waits := [] } : Inval) = v
  generalize hopen : s.pruneInvals.me.invs.filter (fun n => s.pruneInvals.invals.any (·.seq == n)) = open_
  generalize hu : s.pruneInvals.setMe { s.pruneInvals.me with invs := open_ ++ [s.pruneInvals.hub.invSeq + 1] } = u
  have hfew : open_.length < 8 := by
    rw [← hopen]
    exact lt_of_le_of_lt (List.length_filter_le _ _) hroom
  have hexec : exec (.tlbinv h x) s = .next ((u.invalidate v).goOn h) := by
    show execTlbinv h x s = _
    unfold execTlbinv
    rw [issue_issues _ _ _ _ hi]
    dsimp only
    rw [if_neg (by rw [hok]; decide), if_neg ?addr, if_neg ?perm, State.firm, hun, if_neg (by decide), hopen,
      if_neg (by simpa using hfew)]
    · rw [← hu, ← hv]
      rfl
    case addr =>
      simp only [Bool.and_eq_true, Bool.or_eq_true, beq_iff_eq, bne_iff_ne, not_and, not_not]
      intro hk
      have := haddr hk
      unfold bits
      omega
    case perm =>
      by_cases hk : bits (s.me.rs x.c).toNat 60 58 < 2
      · rw [if_pos hk, hasid hk]
        decide
      · rw [if_neg hk]
        have := hlevel (Nat.not_lt.mp hk)
        simp only [decide_eq_true_eq]
        omega
  obtain ⟨⟨cores, clusters, hub, hrest⟩, hctxs, hl1, hl2⟩ := invalidate_effect u v
  have hucur : u.cur = s.cur := by rw [← hu]; rfl
  have huctx : u.curCtx = s.curCtx := by rw [← hu]; rfl
  have hme : (u.invalidate v).me = { s.me with invs := open_ ++ [s.hub.invSeq + 1] } := by
    have hkeep : (u.invalidate v).me = u.me := by
      rw [State.me, State.me, State.ctx, State.ctx, hctxs, hrest]
    rw [hkeep, ← hu, State.me_setMe]
    rfl
  have hseq : (u.numbered v).seq = s.hub.invSeq + 1 := by rw [← hu]; rfl
  refine ⟨_, u.numbered v, hexec, ?_, ?_, ?_, hseq, ?_, ?_, ?_, ?_, ?_, ?_, ?_, hl1, hl2⟩
  · rw [hrest, ← hu]
    exact ⟨fun _ => rfl, fun _ => rfl, rfl⟩
  · rw [hme]
    exact ⟨fun _ _ => rfl, fun _ _ => rfl, fun _ _ => rfl⟩
  · rw [hrest]
    exact List.mem_append_right _ List.mem_cons_self
  · rw [hme, hseq]
    exact List.mem_append_right _ List.mem_cons_self
  all_goals rw [← hv]; rfl

/-! ### Wiping (R301) -/

theorem wipe_bank {x : OpBC} {pkg : Nat} (hspace : (s.me.rs x.b).toNat / 2 ^ 48 = 0x1000) (hlow : (s.me.rs x.b).toNat % 2 ^ 48 < 0x200000)
    (halign : (s.me.rs x.b).toNat % 65536 = 0) (hc : (s.me.rs x.c).toNat = 0)
    (hopen : s.openSlot s.cur ((s.me.rs x.b).toNat % 2 ^ 48 / 65536) = .ok pkg) (hbusy : s.bankBusy s.cur .ls pkg = false) :
    exec (.wipe h x) s = .next (((s.noRoll s.cur).bankWipe pkg).goOn h) := by
  obtain ⟨-, hres⟩ := s.resolve_window s.cur hspace hlow
  show execWipe h x s = _
  unfold execWipe
  rw [issue_issues _ _ _ _ hi]
  dsimp only
  rw [hres]
  dsimp only
  rw [halign, hc, hopen]
  dsimp only
  rw [if_neg (by decide), if_neg (by decide), State.firm, hun, hbusy]
  rfl

theorem wipe_page {x : OpBC} {at_ : Nat} {e : Tlb} (hlow : (s.me.rs x.b).toNat < 2 ^ 48) (halign : (s.me.rs x.b).toNat % 65536 = 0)
    (h1 : 1 ≤ (s.me.rs x.c).toNat) (hmax : (s.me.rs x.c).toNat ≤ 65536) (hticket : s.me.ticket = none) (hquiet : s.coreQuiet s.cur = true)
    (htr : s.translate s.cur (s.vdevOf s.cur) s.me.xlat.toNat s.me.level (s.me.rs x.b).toNat 65536 1 false = .ok [(at_, 65536)] [e])
    (hkind : e.kind < 2) (hdirty : e.dirty = true) (hdev : s.devOk at_ = true) (hend : s.devOk (at_ + 65535) = true) :
    let u := s.wipedPage at_ e
    let t := u.setMe ((u.me.ws x.b (BitVec.ofNat 64 ((s.me.rs x.b).toNat + 65536))).ws x.c (BitVec.ofNat 64 ((s.me.rs x.c).toNat - 1)))
    exec (.wipe h x) s = .next (if (s.me.rs x.c).toNat = 1 then t.goOn h else t.begun h) := by
  intro u t
  obtain ⟨hres, -, -⟩ := resolve_low (s := s) (c := s.cur) hlow
  have hkinds : [e].any (fun e => e.kind == 2 || e.kind == 3) = false := by simp; omega
  have hund : s.undeclared (cutsOf s.cur (s.me.rs x.b).toNat 65536 ([(at_, 65536)].zip [e])) true = false := by
    rw [State.undeclared, hticket]
    rfl
  have hthere : [((at_, 65536) : Nat × Nat)].find? (fun p => !s.devOk p.1 || !s.devOk (p.1 + p.2 - 1)) = none := by
    rw [List.find?_eq_none]
    intro p hp
    rw [List.mem_singleton.mp hp, hdev, show s.devOk (at_ + 65536 - 1) = true from hend]
    decide
  have hpage : s.wipePage x.b x.c = (if (s.me.rs x.c).toNat ≤ 1 then Res.done t else .wait t) := by
    unfold State.wipePage State.withPages
    dsimp only
    rw [htr]
    dsimp only
    rw [hkinds, if_neg Bool.false_ne_true, hund, if_neg Bool.false_ne_true, hthere]
    dsimp only
    rw [State.firm, hun, if_neg (by decide), hquiet, if_neg (by decide), setDirty_dirty hdirty]
    have hzip : (s.noRoll s.cur).each ([(at_, 65536)].zip [e]) (fun s e =>
        (s.devWipe e.1.1 e.1.2).each (granules (e.1.2 / 8192 + 2) e.1.1 e.1.2) fun s r =>
          s.charge (s.partOf s.cur) (2 + homeDie (homeOf e.2 r.1)) (cdiv r.2 64)) = u := by
      rw [List.zip_cons_cons, List.zip_nil_left, State.each, List.foldl_cons, List.foldl_nil]
      rfl
    rw [hzip]
  have hexec : exec (.wipe h x) s = (s.wipePage x.b x.c).out h s := by
    show execWipe h x s = _
    unfold execWipe
    rw [issue_issues _ _ _ _ hi]
    dsimp only
    rw [hres]
    dsimp only
    rw [halign, if_neg (by decide), if_neg]
    simp only [Bool.or_eq_true, decide_eq_true_eq, not_or]
    omega
  rw [hexec, hpage]
  by_cases hc : (s.me.rs x.c).toNat = 1
  · rw [if_pos hc, if_pos (le_of_eq hc)]
    rfl
  · rw [if_neg hc, if_neg (by omega)]
    rfl

theorem wipe_page_effect {x : OpBC} {at_ : Nat} {e : Tlb} (hlow : (s.me.rs x.b).toNat < 2 ^ 48) (halign : (s.me.rs x.b).toNat % 65536 = 0)
    (h1 : 1 ≤ (s.me.rs x.c).toNat) (hmax : (s.me.rs x.c).toNat ≤ 65536) (hticket : s.me.ticket = none) (hquiet : s.coreQuiet s.cur = true)
    (htr : s.translate s.cur (s.vdevOf s.cur) s.me.xlat.toNat s.me.level (s.me.rs x.b).toNat 65536 1 false = .ok [(at_, 65536)] [e])
    (hkind : e.kind < 2) (hdirty : e.dirty = true) (hdev : s.devOk at_ = true) (hend : s.devOk (at_ + 65535) = true) :
    ∃ t : State, exec (.wipe h x) s = .next (if (s.me.rs x.c).toNat = 1 then t.goOn h else t.begun h) ∧ t.banks = s.banks ∧
      (∀ a, t.mem.byte a = if at_ ≤ a ∧ a < at_ + 65536 then 0 else s.mem.byte a) ∧
      (x.b ≠ 0 → x.b ≠ x.c → t.me.rs x.b = BitVec.ofNat 64 ((s.me.rs x.b).toNat + 65536)) ∧
      t.me.rs x.c = BitVec.ofNat 64 ((s.me.rs x.c).toNat - 1) ∧ RegsKept [.s x.b.toNat, .s x.c.toNat] s.me t.me := by
  have hexec := wipe_page hi hun hlow halign h1 hmax hticket hquiet htr hkind hdirty hdev hend
  obtain ⟨ps, hps⟩ := wipedPage_rest s at_ e
  obtain ⟨bad, hub, hw⟩ := devWipe_rest (s.noRoll s.cur) at_ 65536
  obtain ⟨ls, hls⟩ := launchesOnly_noRoll s s.cur
  generalize s.wipedPage at_ e = u at hexec hps
  have hu : u = { s with launches := ls, mem := s.mem.wipe at_ 65536, badMem := bad, hub := hub, parts := ps } := by rw [hps, hw, hls]
  have hme : u.me = s.me := by rw [hu]; rfl
  have hne : x.c ≠ 0 := fun hz => by
    rw [hz, show s.me.rs 0 = 0 from rfl] at h1
    exact absurd h1 (by decide)
  refine ⟨_, hexec, ?_, fun a => ?_, fun hb hbc => ?_, ?_, ?_⟩
  · rw [hu]; rfl
  · rw [hu]
    exact byte_wiped s.mem at_ 65536 a
  · rw [State.me_setMe, Ctx.rs_ws, if_neg hb, if_neg hbc, Ctx.rs_ws, if_neg hb, if_pos rfl]
  · rw [State.me_setMe, Ctx.rs_ws, if_neg hne, if_pos rfl]
  · rw [State.me_setMe, hme]
    exact (Ctx.ws_kept _ _ _).1.append (Ctx.ws_kept _ _ _).1

end

/-! ### A cluster wiped (R282) -/

theorem core_emptySlot_ne (s : State) {c d : Nat} (slot : Nat) (hd : d ≠ c) : (s.emptySlot c slot).core d = s.core d :=
  State.core_setCore_ne _ _ _ _ hd

theorem core_reoutbound_ne (s : State) {c d : Nat} (slot pkg status : Nat) (hd : d ≠ c) :
    (s.reoutbound c slot pkg status).core d = s.core d := by
  unfold State.reoutbound State.outbound
  split
  · split
    · exact State.core_setCore_ne _ _ _ _ hd
    · rfl
  · rfl

theorem core_boundBank_ne (s : State) {c d : Nat} (kept : List Nat) (pkg : Nat) (hd : d ≠ c) : (s.boundBank c kept pkg).core d = s.core d := by
  unfold State.boundBank
  dsimp only
  split
  · exact freeBank_core _ _ _
  · split
    · rfl
    · split
      · rw [freeBank_core, core_reoutbound_ne _ _ _ _ hd]
      · rfl

/-- A unit boundary of a core leaves every other core. -/
theorem core_boundary_ne (s : State) {c d : Nat} (hd : d ≠ c) : (s.boundary c).core d = s.core d := by
  let kept := (s.setAside c).map (·.2)
  let s2 := (s.boundBanks c kept).emptySlots c
  let s3 := s2.setCore c { s2.core c with
    unit := none, ringIn := none, ringOut := none, reos := false, released := false
    arrived := false, barDone := false, frame := none, units := [], rank := 0, team := 0, ckptTiles := [] }
  have hbound : (s.boundBanks c kept).core d = s.core d :=
    State.each_ind (P := fun t => t.core d = s.core d) (fun t pkg ht => (core_boundBank_ne t kept pkg hd).trans ht) rfl _
  have hempty : s2.core d = (s.boundBanks c kept).core d := by
    refine State.each_ind (P := fun t => t.core d = (s.boundBanks c kept).core d) (fun t e ht => ?_) rfl _
    split
    · exact ht
    · exact (core_emptySlot_ne t e.1 hd).trans ht
  have hslots : (s3.reslot c).core d = s3.core d := by
    refine State.each_ind (P := fun t => t.core d = s3.core d) (f := fun t e => t.reslotOne c e) (fun t e ht => Eq.trans ?_ ht) rfl _
    unfold State.reslotOne
    split
    · exact State.core_setCore_ne _ _ _ _ hd
    · rfl
  exact hslots.trans ((State.core_setCore_ne _ _ _ _ hd).trans (hempty.trans hbound))

/-- A core of a cluster wiped: its bank ties broken, and its reset state. -/
def State.wipeOne (s : State) (c : Nat) : State := ((s.endAway c (fun _ => true)).boundary c).wipeCore c

/-- A core with no slot and no context. -/
def Bare (s : State) (c : Nat) : Prop := (s.core c).slots = [] ∧ (s.core c).ctxs = []

theorem bare_wipeOne (s : State) (c : Nat) : Bare (s.wipeOne c) c := by
  unfold Bare State.wipeOne State.wipeCore
  rw [State.core_setCore_self]
  exact ⟨rfl, rfl⟩

theorem Bare.wipeOne {s : State} {c : Nat} (h : Bare s c) (d : Nat) : Bare (s.wipeOne d) c := by
  by_cases hd : c = d
  · exact hd ▸ bare_wipeOne s c
  · have hcore : (s.wipeOne d).core c = s.core c := by
      unfold State.wipeOne State.wipeCore
      rw [State.core_setCore_ne _ _ _ _ hd, core_boundary_ne _ hd]
      exact State.core_setCore_ne _ _ _ _ hd
    unfold Bare
    rw [hcore]
    exact h

theorem wipeOne_banks (s : State) (c : Nat) : (s.wipeOne c).mem = s.mem ∧ (s.wipeOne c).banks = s.banks := by
  obtain ⟨⟨cores, clusters, hub, hb⟩, -⟩ := boundary_effect (s.endAway c (fun _ => true)) c
  unfold State.wipeOne
  rw [hb]
  exact ⟨rfl, rfl⟩

/-- A bank taken from where it is hitched. -/
def State.unhitch (s : State) (pkg : Nat) : State :=
  if s.slotBank (s.hitch pkg).holder (s.hitch pkg).slot == some pkg then s.emptySlot (s.hitch pkg).holder (s.hitch pkg).slot else s

theorem wipeBank_eq (s : State) (pkg : Nat) : s.wipeBank pkg = ((s.unhitch pkg).freeBank pkg).bankWipe pkg := rfl

theorem Bare.wipeBank {s : State} {c : Nat} (h : Bare s c) (pkg : Nat) : Bare (s.wipeBank pkg) c := by
  have hempty : Bare (s.unhitch pkg) c := by
    unfold State.unhitch
    split
    · by_cases hd : c = (s.hitch pkg).holder
      · unfold Bare
        rw [hd, State.emptySlot, State.core_setCore_self]
        rw [hd] at h
        obtain ⟨hslots, hctxs⟩ := h
        refine ⟨?_, hctxs⟩
        rw [hslots]
        rfl
      · unfold Bare
        rw [core_emptySlot_ne _ _ hd]
        exact h
    · exact h
  have hcore : (s.wipeBank pkg).core c = (s.unhitch pkg).core c := by
    rw [wipeBank_eq]
    exact freeBank_core _ _ _
  unfold Bare
  rw [hcore]
  exact hempty

theorem wipeBank_banks (s : State) (pkg : Nat) :
    (s.wipeBank pkg).mem = s.mem ∧ (s.wipeBank pkg).banks = s.banks.wipe (pkg * 65536) 65536 := by
  obtain ⟨⟨cores, clusters, launches, hub, hf⟩, -⟩ := bankShift_freeBank (s.unhitch pkg) pkg
  have hu : (s.unhitch pkg).mem = s.mem ∧ (s.unhitch pkg).banks = s.banks := by
    unfold State.unhitch
    split <;> exact ⟨rfl, rfl⟩
  rw [wipeBank_eq, State.bankWipe, hf]
  exact ⟨hu.1, congrArg (fun m : Memory => m.wipe (pkg * 65536) 65536) hu.2⟩

theorem byte_bankWiped (s : State) (pkg a : Nat) :
    (s.banks.wipe (pkg * 65536) 65536).byte a = if a / 65536 = pkg then 0 else s.banks.byte a := by
  rw [byte_wiped]
  by_cases ha : a / 65536 = pkg
  · rw [if_pos ha, if_pos (by omega)]
  · rw [if_neg ha, if_neg (by omega)]

theorem tag_bankWiped (s : State) (pkg p : Nat) {g : Nat} (hg : g < 16) : (s.bankWipe pkg).tag p g = if p = pkg then 0 else s.tag p g := by
  show Tab.getD (s.tags.filter (fun e => e.1 / 16 != pkg)) (p * 16 + g) 0 = _
  rw [Tab.getD, get?_filter_key s.tags (fun k => k / 16 != pkg)]
  by_cases hp : p = pkg
  · rw [if_pos hp, if_neg (by simp; omega)]; rfl
  · rw [if_neg hp, if_pos (by simp; omega)]; rfl

theorem byte_wipeBank (s : State) (pkg a : Nat) : (s.wipeBank pkg).banks.byte a = if a / 65536 = pkg then 0 else s.banks.byte a := by
  rw [(wipeBank_banks s pkg).2]
  exact byte_bankWiped s pkg a

/-- The cores of a cluster wiped, then its banks. -/
def State.wipeCores (s : State) (r : Nat) : State := s.each (coresOf r) State.wipeOne

def State.wipeBanks (s : State) (r : Nat) : State := s.each ((List.range 64).map (r * 64 + ·)) State.wipeBank

theorem wipeCluster_eq (s : State) (r : Nat) : s.wipeCluster r = ((s.wipeCores r).wipeBanks r).setCluster r
    { Cluster.reset r with part := (((s.wipeCores r).wipeBanks r).cluster r).part } := rfl

theorem wipeCores_effect (s : State) (r : Nat) : ((s.wipeCores r).mem = s.mem ∧ (s.wipeCores r).banks = s.banks) ∧
    ∀ c ∈ coresOf r, Bare (s.wipeCores r) c :=
  ⟨State.each_ind (P := fun t => t.mem = s.mem ∧ t.banks = s.banks)
      (fun t c ht => ⟨(wipeOne_banks t c).1.trans ht.1, (wipeOne_banks t c).2.trans ht.2⟩) ⟨rfl, rfl⟩ _,
    fun c hc => State.each_makes (P := fun _ => True) (Q := fun t => Bare t c) (fun _ _ _ => trivial) (fun t _ => bare_wipeOne t c)
      (fun _ d h => h.wipeOne d) trivial hc⟩

theorem wipeBanks_effect (s : State) (r : Nat) : (s.wipeBanks r).mem = s.mem ∧ (∀ c, Bare s c → Bare (s.wipeBanks r) c) ∧
    ∀ a, (s.wipeBanks r).banks.byte a = if a / 4194304 = r then 0 else s.banks.byte a := by
  refine ⟨State.each_ind (P := fun t => t.mem = s.mem) (fun t pkg ht => (wipeBank_banks t pkg).1.trans ht) rfl _, fun c hc =>
    State.each_ind (P := fun t => Bare t c) (fun t pkg ht => ht.wipeBank pkg) hc _, fun a => ?_⟩
  split
  · next ha =>
    refine State.each_makes (P := fun _ => True) (Q := fun t => t.banks.byte a = 0) (a := a / 65536) (fun _ _ _ => trivial) (fun t _ => ?_)
      (fun t pkg ht => ?_) trivial (List.mem_map.mpr ⟨a / 65536 % 64, List.mem_range.mpr (Nat.mod_lt _ (by decide)), by omega⟩)
    · rw [byte_wipeBank, if_pos rfl]
    · rw [byte_wipeBank]
      split
      · rfl
      · exact ht
  · next ha =>
    refine State.each_ind_mem (P := fun t => t.banks.byte a = s.banks.byte a) (fun t pkg hpkg ht => ?_) rfl
    obtain ⟨i, hi, rfl⟩ := List.mem_map.mp hpkg
    have := List.mem_range.mp hi
    rw [byte_wipeBank, if_neg (by omega)]
    exact ht

theorem wipeCluster_effect (s : State) (r : Nat) : (s.wipeCluster r).mem = s.mem ∧ (∀ d ∈ coresOf r, Bare (s.wipeCluster r) d) ∧
    ∀ a, (s.wipeCluster r).banks.byte a = if a / 4194304 = r then 0 else s.banks.byte a := by
  obtain ⟨⟨hmem, hbanks⟩, hbare⟩ := wipeCores_effect s r
  obtain ⟨hmem', hbare', hbytes⟩ := wipeBanks_effect (s.wipeCores r) r
  have hall := fun d hd => hbare' d (hbare d hd)
  rw [wipeCluster_eq, ← hmem, ← hbanks]
  generalize (s.wipeCores r).wipeBanks r = u at hmem' hall hbytes
  exact ⟨hmem', hall, hbytes⟩

theorem pmap_release (s : State) (r : Nat) :
    let t := (s.wipeCluster r).setCluster r { (s.wipeCluster r).cluster r with part := none }
    t.mem = s.mem ∧ (t.cluster r).part = none ∧ (∀ d ∈ coresOf r, (t.core d).slots = [] ∧ ∀ y, (t.ctx d y).live = false) ∧
      (∀ a, t.banks.byte a = if a / 4194304 = r then 0 else s.banks.byte a) := by
  obtain ⟨hmem, hbare, hbytes⟩ := wipeCluster_effect s r
  generalize s.wipeCluster r = u at hmem hbare hbytes
  refine ⟨hmem, ?_, fun d hd => ?_, hbytes⟩
  · rw [State.cluster_setCluster, if_pos rfl]
  · obtain ⟨hslots, hctxs⟩ := hbare d hd
    refine ⟨hslots, fun y => ?_⟩
    rw [State.ctx, show (u.setCluster r { u.cluster r with part := none }).core d = u.core d from rfl, hctxs]
    rfl

/-! ### Requests and partition membership (R300, R302) -/

section
variable {h : Hdr} {s : State} (hi : s.issues h { level := 2 } = true) (hun : s.me.unresolved = none)
include hi hun

theorem exec_evpost {y : OpRR} {s0 s1 : List (Nat × Nat)} {e0 e1 : List Tlb} (hlow : (s.me.rs y.b).toNat < 2 ^ 48)
    (halign : (s.me.rs y.b).toNat % 64 = 0)
    (hr : s.translate s.cur (s.vdevOf s.cur) s.me.xlat.toNat s.me.level (s.me.rs y.b).toNat 64 0 false = .ok s0 e0)
    (hw : s.translate s.cur (s.vdevOf s.cur) s.me.xlat.toNat s.me.level (s.me.rs y.b).toNat 64 1 false = .ok s1 e1) {r : Res}
    (hres : (if s.ownWaits (s.me.rs y.b).toNat 64 0 then Res.hold
        else match s.bulkRead s.self (s.me.rs y.b).toNat 64 with
        | .error t => s.trip t
        | .ok (v, t0) =>
          if !t0.requestOk v then t0.raise .illegal
          else
            let q : EvReq := { idx := t0.nonce, bytes := v, core := some (t0.cur, t0.curCtx), addr := (s.me.rs y.b).toNat, reg := y.a.toNat
                               post := t0.time }
            let u : State := { t0.fresh.2 with evicts := t0.evicts ++ [q] }
            .wait (u.setMe { u.me with wait := .evict q.idx })) = r) : exec (.evpost h y) s = r.out h s := by
  have htop : bits (s.me.rs y.b).toNat 63 48 = 0 := by unfold bits; omega
  show execEvpost h y s = _
  unfold execEvpost
  rw [issue_issues _ _ _ _ hi]
  dsimp only
  rw [htop, halign, if_neg (by decide), if_neg (by decide)]
  unfold State.withPages
  dsimp only
  rw [hr, hw, ← hres]
  dsimp only
  rw [State.firm, hun, if_neg (by decide)] <;> rfl

theorem evpost_effect {y : OpRR} {s0 s1 : List (Nat × Nat)} {e0 e1 : List Tlb} {v : Nat} {t0 : State} (hlow : (s.me.rs y.b).toNat < 2 ^ 48)
    (halign : (s.me.rs y.b).toNat % 64 = 0)
    (hr : s.translate s.cur (s.vdevOf s.cur) s.me.xlat.toNat s.me.level (s.me.rs y.b).toNat 64 0 false = .ok s0 e0)
    (hw : s.translate s.cur (s.vdevOf s.cur) s.me.xlat.toNat s.me.level (s.me.rs y.b).toNat 64 1 false = .ok s1 e1)
    (hown : s.ownWaits (s.me.rs y.b).toNat 64 0 = false) (hread : s.bulkRead s.self (s.me.rs y.b).toNat 64 = .ok (v, t0))
    (hok : t0.requestOk v = true) :
    ∃ (t : State) (q : EvReq), exec (.evpost h y) s = .next (t.begun h) ∧ t.evicts = s.evicts ++ [q] ∧ q.bytes = v ∧
      q.core = some (s.cur, s.curCtx) ∧ q.addr = (s.me.rs y.b).toNat ∧ q.reg = y.a.toNat ∧ q.post = s.time ∧ MemoryKept t0 t ∧
      t.me.wait = .evict q.idx ∧ RegsKept [] s.me t.me := by
  have hexec := exec_evpost hi hun hlow halign hr hw rfl
  rw [hown, if_neg Bool.false_ne_true, hread] at hexec
  dsimp only at hexec
  rw [hok, if_neg (by decide)] at hexec
  obtain ⟨nonce, mem, bad, parts, hub, rfl⟩ := fetches_bulkRead hread
  refine ⟨_, _, hexec, rfl, rfl, rfl, rfl, rfl, rfl, ⟨fun _ => rfl, fun _ => rfl, rfl⟩, ?_, ?_⟩
  · rw [State.me_setMe]
  · rw [State.me_setMe]
    exact ⟨fun _ _ => rfl, fun _ _ => rfl, fun _ _ => rfl⟩

theorem exec_pmap {x : OpBC} {p : Nat} {release : Bool} (hb : (s.me.rs x.b).toNat ≤ 191) (hp : p < 256)
    (hc : (s.me.rs x.c).toNat = b2n release * 2 ^ 63 + p) {t : State} (ht : s.pmapOp (s.me.rs x.b).toNat p release = some t) :
    exec (.pmap h x) s = .next (t.goOn h) := by
  have hmid : bits (s.me.rs x.c).toNat 62 8 = 0 := by rw [hc]; unfold bits b2n; split <;> omega
  have hlow : bits (s.me.rs x.c).toNat 7 0 = p := by rw [hc]; unfold bits b2n; split <;> omega
  have htop : bit (s.me.rs x.c).toNat 63 = release := by
    rw [hc]
    have hbits : bits (b2n release * 2 ^ 63 + p) 63 63 = b2n release := by unfold bits b2n; split <;> omega
    rw [bit, hbits]
    cases release <;> rfl
  show execPmap h x s = _
  unfold execPmap
  rw [issue_issues _ _ _ _ hi]
  dsimp only
  rw [hmid, hlow, htop, ht, if_neg (by simp; omega), State.firm, hun]
  rfl

end

/-- Settles O51: each operation by its effect. -/
theorem systemOperations : Obligations.SystemOperations := by
  unfold Obligations.SystemOperations
  intro h r x y s k b c pages
  refine ⟨fun hi hun => ⟨?_, fun hok haddr hasid hlevel hroom => tlbinv_effect hi hun hok haddr hasid hlevel hroom, fun hdone => ?_,
    (tlbsync_effect hi).2, fun pkg hspace hlow halign hc hopen hbusy => ?_,
    fun at_ e hlow halign h1 hmax hticket hquiet htr hkind hdirty hdev hend =>
      wipe_page_effect hi hun hlow halign h1 hmax hticket hquiet htr hkind hdirty hdev hend⟩,
    fun hi hun => ⟨fun v t0 s0 e0 s1 e1 => ?_, fun p hb hc hp hnone => ?_, fun p hb hc hp hmay => ?_⟩⟩
  · intro w good
    have hgood := tableOk_iff (w := w) (BitVec.isLt _)
    refine ⟨fun hg => ?_, fun hg => ?_⟩
    · rw [exec_ovtld hi r hun, if_pos (hgood.mpr hg)]
      rfl
    · rw [exec_ovtld hi r hun, if_neg (fun e => hg (hgood.mp e))]
      rfl
  · exact ⟨_, (tlbsync_effect hi).1 hdone, ⟨fun _ => rfl, fun _ => rfl, rfl⟩, State.me_setMe _ _⟩
  · obtain ⟨ls, hls⟩ := launchesOnly_noRoll s s.cur
    refine ⟨_, wipe_bank hi hun hspace hlow halign hc hopen hbusy, ?_, ?_, fun a => ?_, fun p g hg => ?_⟩
    · rw [hls]; rfl
    · rw [hls]; rfl
    · rw [hls]
      exact byte_bankWiped s pkg a
    · have htag := tag_bankWiped (s.noRoll s.cur) pkg p hg
      rw [hls] at htag
      rw [hls]
      exact htag
  · intro p hlow halign hr hw
    refine ⟨fun hown => ?_, fun hown hread hok => evpost_effect hi hun hlow halign hr hw hown hread hok⟩
    exact exec_evpost hi hun hlow halign hr hw (r := .hold) (if_pos hown)
  · have hpm : s.pmapOp b p false = some (s.setCluster b { s.cluster b with part := some p, perm := 2 ^ b, rings := [] }) := by
      unfold State.pmapOp
      rw [if_neg Bool.false_ne_true, hnone]
      rfl
    refine ⟨_, exec_pmap hi hun hb hp (hc.trans (by rw [b2n]; simp)) hpm, ⟨fun _ => rfl, fun _ => rfl, rfl⟩, rfl, ?_, ?_, ?_, fun d hd => ?_⟩
    · rw [State.cluster_setCluster, if_pos rfl]
    · rw [State.cluster_setCluster, if_pos rfl]
    · rw [State.cluster_setCluster, if_pos rfl]
    · rw [State.cluster_setCluster, if_neg hd]
  · have hpm : s.pmapOp b p true = some ((s.wipeCluster b).setCluster b { (s.wipeCluster b).cluster b with part := none }) := by
      unfold State.pmapOp
      rw [if_pos rfl, if_pos hmay]
    exact ⟨_, exec_pmap hi hun hb hp (hc.trans (by rw [b2n]; simp)) hpm, pmap_release s b⟩

end Sys2Proof.Machine
end

section
/-!
O55: branches that resolve, the commit buffer, and the governor.
-/

namespace Sys2Proof.Machine

open Sys2Proof

/-! ### Branches (R71, R136, R238) -/

theorem exec_resolves {c x : Nat} {s : State} {v : Bool} (hv : (s.ctx c x).unresolved = some v) : exec (.branchResolution c x) s =
    .next ((s.confirm c x).setCtx c x { s.ctx c x with
      unresolved := none, wait := if (s.ctx c x).wait == .branch then .none else (s.ctx c x).wait }) := by
  show execBranchResolution c x s = _
  unfold execBranchResolution
  dsimp only
  rw [hv]

theorem exec_leaves {c x : Nat} {s t : State} {e : Held} (hv : (s.ctx c x).unresolved = none) (he : (s.core c).commit.head? = some e)
    (hfirm : e.firm = true) (hx : e.ctx = x) (ht : s.leaveBuffer c e = some t) : exec (.branchResolution c x) s = .next t := by
  have hnext : s.nextHeld c = some e := by rw [State.nextHeld, he, Option.filter_some, if_pos hfirm]
  show execBranchResolution c x s = _
  unfold execBranchResolution
  dsimp only
  split
  · next hsome => rw [hv] at hsome; cases hsome
  · split
    · next hnone => rw [hnext] at hnone; cases hnone
    · next h hsome =>
      rw [hnext] at hsome
      cases hsome
      rw [if_pos (beq_iff_eq.mpr hx), ht]
      rfl

/-- A command that begins changes no core. -/
theorem beginCmd_core {s t : State} {c x : Nat} {i : Instr} {sv : Word} (h : s.beginCmd c x i sv = some t) (d : Nat) : t.core d = s.core d := by
  have hchain (s : State) (chan q ident head : Nat) : (s.startChain c x chan q ident head).core d = s.core d := by
    show ((s.fresh.2).noRoll c).core d = s.core d
    rw [noRoll_core]
    rfl
  have hwork (s : State) : (s.fresh.2.noRoll c).core d = s.core d := noRoll_core s.fresh.2 c d
  have hcancel : (s.sendCancel c sv.toNat).core d = s.core d := noRoll_core s c d
  unfold State.beginCmd at h
  dsimp only at h
  split at h
  · next o =>
    split at h
    · cases h; exact hchain _ _ _ _ _
    · cases h
  · next o =>
    split at h
    · cases h
    · split at h
      · cases h
      · cases h
        refine (hchain _ _ _ _ _).trans ?_
        obtain ⟨_, _, _, _, _, harr⟩ := fetches_arrivals { stamp := s.nonce, core := c, part := s.partOf c, vdev := s.vdevOf c
                                                           xlat := (s.ctx c x).xlat.toNat, level := (s.ctx c x).level } allStrands s [] sv.toNat
        rw [harr]
        rfl
  · cases h; exact hwork s
  · cases h; exact hwork s
  iterate 4
    · cases h; exact hcancel
  · cases h; rfl

/-- A command that leaves the buffer to begin its work. -/
theorem leaveBuffer_begins {s t0 : State} {c : Nat} {e : Held} (hcmd : ∀ h o, e.cmd ≠ .launch h o)
    (ht : s.beginCmd c e.ctx e.cmd e.sv = some t0) :
    s.leaveBuffer c e = some (t0.setCore c { t0.core c with commit := (t0.core c).commit.tail }) := by
  unfold State.leaveBuffer
  dsimp only
  split
  · next h o hl => exact absurd hl (hcmd h o)
  · rw [ht]
    rfl

theorem leaveBuffer_launch {s : State} {c : Nat} {e : Held} {h : Hdr} {o : OpRR} (hcmd : e.cmd = .launch h o) :
    s.leaveBuffer c e = some (let u := s.setCtx c e.ctx { s.ctx c e.ctx with wait := .none }
      u.setCore c { u.core c with commit := (u.core c).commit.tail }) := by
  unfold State.leaveBuffer
  rw [hcmd]

theorem commit_setCtx (s : State) (c x : Nat) (k : Ctx) : ((s.setCtx c x k).core c).commit = (s.core c).commit := by
  show ((s.setCore c _).core c).commit = _
  rw [State.core_setCore_self]

/-- A buffer that gives up its oldest command is one shorter. -/
theorem tail_length_of_head? {α : Type} {l : List α} {a : α} (h : l.head? = some a) : l.tail.length + 1 = l.length := by
  cases l with
  | nil => cases h
  | cons x l => rfl

/-- After a branch has resolved, its context goes on and the commands held under it are firm. -/
theorem resolves_effect (c x : Nat) (s : State) : let t := (s.confirm c x).setCtx c x { s.ctx c x with
      unresolved := none, wait := if (s.ctx c x).wait == .branch then .none else (s.ctx c x).wait }
    MemoryKept s t ∧ RegsKept [] (s.ctx c x) (t.ctx c x) ∧ (t.ctx c x).unresolved = none ∧ (t.ctx c x).pc = (s.ctx c x).pc ∧
      (t.ctx c x).wait ≠ .branch ∧ ∀ e ∈ (t.core c).commit, e.ctx = x → e.firm = true := by
  intro t
  have hctx : t.ctx c x = { s.ctx c x with
      unresolved := none, wait := if (s.ctx c x).wait == .branch then .none else (s.ctx c x).wait } := State.ctx_setCtx_self _ _ _ _
  rw [hctx]
  refine ⟨⟨fun _ => rfl, fun _ => rfl, rfl⟩, ⟨fun _ _ => rfl, fun _ _ => rfl, fun _ _ => rfl⟩, rfl, rfl, ?_, fun e he hx => ?_⟩
  · dsimp only
    split
    · exact fun h => by cases h
    · next hne => exact fun h => hne (by rw [h]; rfl)
  · have hcommit : (t.core c).commit = (s.core c).commit.map (fun h => if h.ctx == x then { h with firm := true } else h) := by
      show (((s.confirm c x).setCore c _).core c).commit = _
      rw [State.core_setCore_self, State.confirm, State.core_setCore_self]
    rw [hcommit] at he
    obtain ⟨h, -, rfl⟩ := List.mem_map.mp he
    by_cases hctx : (h.ctx == x) = true
    · rw [if_pos hctx]
    · rw [if_neg hctx] at hx
      exact absurd (beq_iff_eq.mpr hx) hctx

/-! ### The governor (R241) -/

/-- The clock, the governor's notes, and what every core runs and is promised to, stay. -/
def Seats (s t : State) : Prop :=
  t.time = s.time ∧ t.hub.govAt = s.hub.govAt ∧ ∀ d, (t.core d).heir = (s.core d).heir ∧ (t.core d).unit = (s.core d).unit

theorem Seats.refl (s : State) : Seats s s := ⟨rfl, rfl, fun _ => ⟨rfl, rfl⟩⟩

theorem Seats.trans {s t u : State} (hst : Seats s t) (htu : Seats t u) : Seats s u :=
  ⟨htu.1.trans hst.1, htu.2.1.trans hst.2.1, fun d => ⟨(htu.2.2 d).1.trans (hst.2.2 d).1, (htu.2.2 d).2.trans (hst.2.2 d).2⟩⟩

theorem seats_of_cores {s t : State} (htime : t.time = s.time) (hgov : t.hub.govAt = s.hub.govAt) (hcores : t.cores = s.cores) : Seats s t :=
  ⟨htime, hgov, fun d => by rw [State.core, hcores]; exact ⟨rfl, rfl⟩⟩

theorem seats_setCore (s : State) (c : Nat) {k : Core} (hheir : k.heir = (s.core c).heir) (hunit : k.unit = (s.core c).unit) :
    Seats s (s.setCore c k) := by
  refine ⟨rfl, rfl, fun d => ?_⟩
  by_cases hd : d = c
  · rw [hd, State.core_setCore_self]
    exact ⟨hheir, hunit⟩
  · rw [State.core_setCore_ne _ _ _ _ hd]
    exact ⟨rfl, rfl⟩

theorem seats_freeBank (s : State) (pkg : Nat) : Seats s (s.freeBank pkg) :=
  seats_of_cores (by unfold State.freeBank State.unplace; dsimp only; split <;> rfl)
    (by unfold State.freeBank State.unplace; dsimp only; split <;> rfl) (freeBank_cores s pkg)

theorem seats_clearSlots (s : State) (c : Nat) : Seats s (s.clearSlots c) := by
  refine Seats.trans (State.each_ind (P := Seats s) (fun t e ht => ?_) (Seats.refl s) _) (seats_setCore _ c rfl rfl)
  split
  · exact ht.trans (seats_freeBank t e.2)
  · exact ht

theorem seats_hitchTo (s : State) (pkg c slot : Nat) : Seats s (s.hitchTo pkg c slot) :=
  ((seats_freeBank s pkg).trans (seats_of_cores rfl rfl rfl)).trans (seats_setCore _ c (by rfl) (by rfl))

theorem seats_attachFresh (s : State) (c : Nat) (slots : List Nat) : Seats s (s.attachFresh c slots) := by
  refine State.each_ind (P := Seats s) (fun t k ht => ?_) (Seats.refl s) slots
  split
  · exact ht.trans (seats_hitchTo t _ c k)
  · exact ht

theorem seats_setRing (s : State) (r : Nat) (g : Ring) : Seats s (s.setRing r g) := seats_of_cores rfl rfl rfl

theorem seats_startUnit (s : State) (l : Launch) (c rank team : Nat) : Seats s (s.startUnit l c rank team) := by
  have hcore (k : Core) (hheir : k.heir = (s.core c).heir) (hunit : k.unit = (s.core c).unit) : Seats s (s.fresh.2.setCore c k) :=
    Seats.trans (t := s.fresh.2) (seats_of_cores rfl rfl rfl) (seats_setCore _ c hheir hunit)
  unfold State.startUnit
  dsimp only
  split
  · exact hcore _ rfl rfl
  · split
    · refine Seats.trans ?_ (seats_setRing _ _ _)
      exact hcore _ rfl rfl
    · exact hcore _ rfl rfl

theorem seats_takeFrame (s : State) (c : Nat) : Seats s (s.takeFrame c) := seats_setCore s c (by rfl) (by rfl)

theorem seats_checkpoint (s : State) (l : Launch) : Seats s (s.checkpoint l) := by
  unfold State.checkpoint
  dsimp only
  have hframes : Seats s (s.each (s.teamCores l) State.takeFrame) :=
    State.each_ind (P := Seats s) (fun t c ht => ht.trans (seats_takeFrame t c)) (Seats.refl s) _
  revert hframes
  generalize s.each _ _ = t
  intro hframes
  obtain ⟨cl, hcl⟩ := emptyUndo_rest t l
  rw [hcl]
  exact hframes.trans (seats_of_cores rfl rfl rfl)

theorem seats_beginLaunch (s : State) (l : Launch) : Seats s (s.beginLaunch l) :=
  ((State.each_ind (P := Seats s) (fun t e ht => ht.trans (seats_startUnit t l e.2 e.1 l.team)) (Seats.refl s) _).trans
    (seats_of_cores rfl rfl rfl)).trans (seats_checkpoint _ _)

theorem seats_preloaded (s : State) (l : Launch) : Seats s (s.preloaded l) := by
  have hset (k : Launch) : Seats s (s.setLaunch k) := seats_of_cores rfl rfl rfl
  unfold State.preloaded
  dsimp only
  split
  · split
    · exact ((hset _).trans (seats_startUnit _ _ _ _ _)).trans (seats_takeFrame _ _)
    · exact hset _
  · split
    · exact (hset _).trans (seats_beginLaunch _ _)
    · exact hset _

/-- A core given to a unit runs it and is promised to nobody. -/
theorem takeCore_effect (s : State) (u : Nat × Nat) (c rank team : Nat) : let t := s.takeCore u c rank team
    t.time = s.time ∧ t.hub.govAt = s.hub.govAt ∧ (t.core c).unit = some u ∧ (t.core c).heir = none ∧
      ∀ d, d ≠ c → (t.core d).heir = (s.core d).heir := by
  intro t
  obtain ⟨htime, hgov, hcores⟩ := seats_clearSlots s c
  have hself : t.core c = _ := State.core_setCore_self _ _ _
  refine ⟨htime, hgov, by rw [hself], by rw [hself]; rfl, fun d hd => ?_⟩
  exact (congrArg Core.heir (State.core_setCore_ne _ _ _ _ hd)).trans (hcores d).1

theorem launches_freeBank (s : State) (pkg : Nat) : (s.freeBank pkg).launches = s.launches := by
  unfold State.freeBank State.unplace
  dsimp only
  split <;> rfl

theorem launches_takeCore (s : State) (u : Nat × Nat) (c rank team : Nat) : (s.takeCore u c rank team).launches = s.launches := by
  show (s.each (s.core c).slots _).launches = s.launches
  refine State.each_ind (P := fun t => t.launches = s.launches) (fun t e ht => ?_) rfl _
  split
  · rw [launches_freeBank, ht]
  · exact ht

theorem launches_attachFresh (s : State) (c : Nat) (slots : List Nat) : (s.attachFresh c slots).launches = s.launches := by
  refine State.each_ind (P := fun t => t.launches = s.launches) (fun t k ht => ?_) rfl slots
  split
  · exact (launches_freeBank t _).trans ht
  · exact ht

theorem launches_startUnit (s : State) (l : Launch) (c rank team : Nat) : (s.startUnit l c rank team).launches = s.launches := by
  unfold State.startUnit
  dsimp only
  split
  · rfl
  · split <;> rfl

theorem launch?_key {s : State} {u : Nat × Nat} {l : Launch} (hl : s.launch? u = some l) : (l.queue, l.seq) = u := by
  have hkey := List.find?_some hl
  rw [Bool.and_eq_true, beq_iff_eq, beq_iff_eq] at hkey
  exact Prod.ext hkey.1 hkey.2

/-- The cores and the size of a launch's team. -/
def State.HasTeam (s : State) (u : Nat × Nat) (cores : List Nat) (team : Nat) : Prop :=
  ∃ l, s.launch? u = some l ∧ l.cores = cores ∧ l.team = team

theorem hasTeam_setLaunch {s : State} {u : Nat × Nat} {l k : Launch} (hl : s.launch? u = some l) (hk : (k.queue, k.seq) = u) :
    (s.setLaunch k).HasTeam u k.cores k.team := by
  have hkey : (k.queue, k.seq) = (l.queue, l.seq) := hk.trans (launch?_key hl).symm
  exact ⟨k, launch?_setLaunch hl (congrArg Prod.fst hkey) (congrArg Prod.snd hkey), rfl, rfl⟩

theorem hasTeam_of_launches {s t : State} {u : Nat × Nat} {cores : List Nat} {team : Nat} (h : s.HasTeam u cores team)
    (ht : t.launches = s.launches) : t.HasTeam u cores team := by
  unfold State.HasTeam State.launch? at *
  rw [ht]
  exact h

/-- A launch keeps its team as it begins. -/
theorem beginLaunch_hasTeam {s : State} {l k : Launch} (hl : s.launch? (k.queue, k.seq) = some l) :
    (s.beginLaunch k).HasTeam (k.queue, k.seq) k.cores k.team := by
  have hstart : (s.each ((List.range k.cores.length).zip k.cores) (fun s e => s.startUnit k e.2 e.1 k.team)).launches = s.launches :=
    State.each_ind (P := fun t => t.launches = s.launches) (fun t e ht => (launches_startUnit _ _ _ _ _).trans ht) rfl _
  unfold State.beginLaunch
  dsimp only
  revert hstart
  generalize s.each _ _ = t
  intro hstart
  have ht : t.launch? (k.queue, k.seq) = some l := by rw [State.launch?, hstart]; exact hl
  have hset := launch?_setLaunch (k := { k with begun := true, preload := k.cores.length }) ht
    (congrArg Prod.fst (launch?_key ht)).symm (congrArg Prod.snd (launch?_key ht)).symm
  unfold State.checkpoint
  dsimp only
  revert hset
  generalize t.setLaunch _ = u
  intro hset
  have hframes (xs : List Nat) : (u.each xs State.takeFrame).launches = u.launches :=
    State.each_ind (P := fun t => t.launches = u.launches) (f := State.takeFrame) (fun t c ht => ht) rfl xs
  generalize hv : u.each _ State.takeFrame = v
  have hvl : v.launches = u.launches := by rw [← hv]; exact hframes _
  obtain ⟨cl, hcl⟩ := emptyUndo_rest v { k with begun := true, preload := k.cores.length }
  rw [hcl]
  refine hasTeam_setLaunch (l := { k with begun := true, preload := k.cores.length }) ?_ rfl
  rw [State.launch?]
  dsimp only
  rw [hvl]
  exact hset

theorem preloaded_hasTeam {s : State} {l : Launch} (hl : s.launch? (l.queue, l.seq) = some l) :
    (s.preloaded l).HasTeam (l.queue, l.seq) l.cores l.team := by
  have hset : (s.setLaunch { l with preload := l.preload + 1 }).HasTeam (l.queue, l.seq) l.cores l.team :=
    hasTeam_setLaunch (k := { l with preload := l.preload + 1 }) hl rfl
  unfold State.preloaded
  rw [hl]
  dsimp only [Option.getD_some]
  split
  · split
    · exact hasTeam_of_launches hset (launches_startUnit _ _ _ _ _)
    · exact hset
  · split
    · exact beginLaunch_hasTeam (k := { l with preload := l.preload + 1 })
        (launch?_setLaunch (k := { l with preload := l.preload + 1 }) hl rfl rfl)
    · exact hset

/-- What a unit more leaves as it was: the clock, the governor's notes, and the heirs of the other cores. -/
theorem addUnit_rest (s : State) (u : Nat × Nat) (c : Nat) : let t := s.addUnit u c
    t.time = s.time ∧ t.hub.govAt = s.hub.govAt ∧ ∀ d, (s.core d).heir = none → (t.core d).heir = none := by
  intro t
  unfold t State.addUnit
  split
  · exact ⟨rfl, rfl, fun _ h => h⟩
  · next l hl =>
    split
    · exact ⟨rfl, rfl, fun _ h => h⟩
    · obtain ⟨htime, hgov, -, hself, hne⟩ := takeCore_effect s u c l.team (l.team + 1)
      dsimp only
      generalize s.takeCore u c l.team (l.team + 1) = v at htime hgov hself hne
      have hv : ∀ w, Seats v w → w.time = s.time ∧ w.hub.govAt = s.hub.govAt ∧ ∀ d, (s.core d).heir = none → (w.core d).heir = none := by
        refine fun w hw => ⟨hw.1.trans htime, hw.2.1.trans hgov, fun d hd => (hw.2.2 d).1.trans ?_⟩
        by_cases hdc : d = c
        · rw [hdc, hself]
        · rw [hne d hdc, hd]
      have hattach (k : Launch) : Seats v ((v.attachFresh c (recSlots l.bytes)).setLaunch k) :=
        (seats_attachFresh v c _).trans (seats_of_cores rfl rfl rfl)
      split
      · exact hv _ ((hattach _).trans (seats_preloaded _ _))
      · exact hv _ (hattach _)

/-- A unit more of a running launch whose banks are there: it runs on the core, and the team has grown by it. -/
theorem addUnit_effect {s : State} {u : Nat × Nat} {c : Nat} {l : Launch} (hl : s.launch? u = some l) (hst : l.status = 0)
    (hbanks : s.banksFor [c] (recSlots l.bytes).length = true) :
    ((s.addUnit u c).core c).unit = some u ∧ (s.addUnit u c).HasTeam u (l.cores ++ [c]) (l.team + 1) := by
  obtain ⟨-, -, hunit, -, -⟩ := takeCore_effect s u c l.team (l.team + 1)
  have hlaunches := (launches_attachFresh _ c (recSlots l.bytes)).trans (launches_takeCore s u c l.team (l.team + 1))
  have hkey := launch?_key hl
  unfold State.addUnit
  rw [hl]
  dsimp only
  rw [if_neg (by rw [hbanks, hst]; exact Bool.false_ne_true)]
  have hseats := seats_attachFresh (s.takeCore u c l.team (l.team + 1)) c (recSlots l.bytes)
  generalize (s.takeCore u c l.team (l.team + 1)).attachFresh c (recSlots l.bytes) = v at hlaunches hseats
  have hv : v.launch? u = some l := by rw [State.launch?, hlaunches]; exact hl
  have hset : Seats v (v.setLaunch { l with cores := l.cores ++ [c], team := l.team + 1 }) := seats_of_cores rfl rfl rfl
  split
  · refine ⟨((hseats.trans (hset.trans (seats_preloaded _ _))).2.2 c).2.trans hunit, ?_⟩
    have hpre := preloaded_hasTeam (s := v.setLaunch { l with cores := l.cores ++ [c], team := l.team + 1 })
      (l := { l with cores := l.cores ++ [c], team := l.team + 1 }) (launch?_setLaunch (l := l) (by rw [hkey]; exact hv) rfl rfl)
    rw [← hkey]
    exact hpre
  · exact ⟨((hseats.trans hset).2.2 c).2.trans hunit, hasTeam_setLaunch (k := { l with cores := l.cores ++ [c], team := l.team + 1 }) hv hkey⟩

/-- Clock and governor's notes, as they stand while the governor moves units. -/
def GovKept (s t : State) : Prop := t.time = s.time ∧ t.hub.govAt = s.hub.govAt

theorem govKept_release (s : State) (l : Launch) (e heir : Nat × Nat) : GovKept s (s.release l e heir) := by
  unfold State.release
  split <;> exact ⟨rfl, rfl⟩

theorem govKept_feed (s : State) (rank r : Nat) : GovKept s (s.feed rank r) := by
  unfold State.feed
  dsimp only
  split
  · split
    · split
      · exact ⟨(addUnit_rest _ _ _).1, (addUnit_rest _ _ _).2.1⟩
      · split
        · exact ⟨rfl, rfl⟩
        · exact govKept_release _ _ _ _
    · exact ⟨rfl, rfl⟩
  · exact ⟨rfl, rfl⟩

theorem GovKept.trans {s t u : State} (hst : GovKept s t) (htu : GovKept t u) : GovKept s u :=
  ⟨htu.1.trans hst.1, htu.2.trans hst.2⟩

/-- The units that come to cores left to them. -/
def State.heirsCome (s : State) (die : Nat) : State :=
  s.each (s.heirsReady die) (fun s e => (s.setCore e.1 { s.core e.1 with heir := none }).addUnit e.2 e.1)

theorem heirsCome_effect (s : State) (die : Nat) : GovKept s (s.heirsCome die) ∧
    ∀ e ∈ s.heirsReady die, ((s.heirsCome die).core e.1).heir = none := by
  have hone (t : State) (e : Nat × (Nat × Nat)) : let u := (t.setCore e.1 { t.core e.1 with heir := none }).addUnit e.2 e.1
      GovKept t u ∧ (u.core e.1).heir = none ∧ ∀ d, (t.core d).heir = none → (u.core d).heir = none := by
    intro u
    obtain ⟨htime, hgov, hheir⟩ := addUnit_rest (t.setCore e.1 { t.core e.1 with heir := none }) e.2 e.1
    refine ⟨⟨htime, hgov⟩, hheir e.1 (by rw [State.core_setCore_self]), fun d hd => hheir d ?_⟩
    by_cases hde : d = e.1
    · rw [hde, State.core_setCore_self]
    · rw [State.core_setCore_ne _ _ _ _ hde, hd]
  refine ⟨State.each_ind (P := GovKept s) (fun t e ht => ht.trans (hone t e).1) ⟨rfl, rfl⟩ _, fun e he => ?_⟩
  exact State.each_makes (a := e) (P := fun _ => True) (Q := fun t => (t.core e.1).heir = none) (fun _ _ _ => trivial)
    (fun t _ => (hone t e).2.1) (fun t d h => (hone t d).2.2 e.1 h) trivial he

theorem exec_governor {die : Nat} {s : State} (hdie : die < 4) (hmay : s.mayGovern die = true) : exec (.governorEvaluation die) s =
    .next (if (s.heirsCome die).hub.govAt.toList.getD die 0 < (s.heirsCome die).time / 1024 then
      let t : State := { s.heirsCome die with hub := { (s.heirsCome die).hub with
        govAt := (s.heirsCome die).hub.govAt.setIfInBounds die ((s.heirsCome die).time / 1024) } }
      t.each ((t.clusters.filter (fun e => e.1 / 48 == die)).map (·.1)) (fun s k => s.each (s.ringsOf k) (fun s r => s.feed k r))
    else s.heirsCome die) := by
  show execGovernorEvaluation die s = _
  unfold execGovernorEvaluation
  rw [if_neg (by rw [hmay, decide_eq_true hdie]; exact Bool.false_ne_true)]
  show (if (s.heirsCome die).hub.govAt.toList.getD die 0 < (s.heirsCome die).time / 1024 then _ else _) = _
  split <;> rfl

theorem getD_setIfInBounds {n : Nat} (v : Vector Nat n) {i : Nat} (hi : i < n) (x : Nat) : (v.setIfInBounds i x).toList.getD i 0 = x := by
  simp [List.getD, hi]

/-- Settles O55: resolution and the commit buffer by their equations, the governor by what a unit more changes. -/
theorem branchesResolveAndGovernor : Obligations.BranchesResolveAndGovernor := by
  unfold Obligations.BranchesResolveAndGovernor
  refine ⟨fun c x s => ⟨fun v hv => ⟨_, exec_resolves hv, resolves_effect c x s⟩, fun e hv he hfirm hx => ?_⟩, fun die s hdie hmay => ?_⟩
  · subst hx
    refine ⟨fun t0 hcmd ht0 => ?_, fun h o hcmd => ?_⟩
    · refine ⟨_, exec_leaves hv he hfirm rfl (leaveBuffer_begins hcmd ht0), ?_, rfl, rfl, rfl, rfl⟩
      rw [State.core_setCore_self]
      exact tail_length_of_head? (by rw [beginCmd_core ht0]; exact he)
    · refine ⟨_, exec_leaves hv he hfirm rfl (leaveBuffer_launch hcmd), ⟨fun _ => rfl, fun _ => rfl, rfl⟩, ?_, ?_⟩
      · rw [State.core_setCore_self]
        have hcommit := commit_setCtx s c e.ctx { s.ctx c e.ctx with wait := .none }
        exact (congrArg (fun l => l.tail.length + 1) hcommit).trans (tail_length_of_head? he)
      · exact (ctx_setCore_ctxs (by rfl) _ _).trans (State.ctx_setCtx_self _ _ _ _)
  · obtain ⟨⟨htime, hgov⟩, hheirs⟩ := heirsCome_effect s die
    refine ⟨_, exec_governor hdie hmay, fun hdue => ?_, fun hnot => ?_⟩
    · rw [if_pos (by rw [htime, hgov]; exact hdue)]
      dsimp only
      let u : State := ({ s.heirsCome die with hub := { (s.heirsCome die).hub with
        govAt := (s.heirsCome die).hub.govAt.setIfInBounds die ((s.heirsCome die).time / 1024) } } : State)
      have hfed : GovKept u (u.each ((u.clusters.filter (fun e => e.1 / 48 == die)).map (·.1))
          (fun s k => s.each (s.ringsOf k) (fun s r => s.feed k r))) :=
        State.each_ind (P := GovKept u) (fun t k ht =>
          State.each_ind (P := GovKept u) (fun v r hv => hv.trans (govKept_feed v k r)) ht _) ⟨rfl, rfl⟩ _
      rw [← htime]
      exact (congrArg (fun v : Vector Nat 4 => v.toList.getD die 0) hfed.2).trans (getD_setIfInBounds _ hdie _)
    · rw [if_neg (by rw [htime, hgov]; exact Nat.not_lt.mpr hnot)]
      refine ⟨hheirs, fun c u l hready hl hst hbanks => ?_⟩
      rw [State.heirsCome, hready]
      exact addUnit_effect (s := s.setCore c { s.core c with heir := none }) hl hst hbanks

end Sys2Proof.Machine
end

section
/-!
O58: the links. What the receiver corrects and what it compares with its sequence number.
-/

namespace Sys2Proof.Machine

open Sys2Proof

/-- The header of a flit of zeros whose sequence number is 16. -/
def lateHdr : Nat := 0x10000

/-- A flit of zeros in sequence, of which more bytes arrive wrong than the code corrects: what arrives has a header with another
sequence number, and the CRC that stands for it. -/
def garbledFlit : Flit :=
  let crc := crc32c (bytesOf 4 lateHdr ++ List.replicate 240 0)
  { hdr := 0, payload := List.replicate 240 0, crc := ~~~ (BitVec.ofNat 32 crc), parity := List.replicate 8 0
    errs := (2, 1) :: [244, 245, 246, 247].zip (bytesOf 4 crc), use := .none }

/-- The number that a link expects next, after an outcome. -/
def seqAfter (n : Nat) (o : Out) : Option Nat :=
  match o with
  | .next t => some (t.link n).seq
  | _ => none

/-- What arrives of that flit is out of sequence, and its check stands. -/
theorem garbledFlit_received : flitOk (flitReceived garbledFlit) = true ∧
    bits (flitReceived garbledFlit).hdr.toNat 23 12 ≠ (State.reset.link 0).seq := by decide +kernel

/-- The receiver takes it as the flit that was sent, and moves on. -/
theorem garbledFlit_taken : seqAfter 0 (exec (.flitReceive 0 garbledFlit) State.reset) = some 1 := by decide +kernel

/-- Refutes O58: a flit of which five bytes arrive wrong, with a CRC that stands and a sequence number that is not the link's, is not
left alone: the model compares the number that was sent, not the one received. -/
theorem not_linksAndMeasurements : ¬ Obligations.LinksAndMeasurements := by
  unfold Obligations.LinksAndMeasurements
  intro h
  obtain ⟨hok, hseq⟩ := garbledFlit_received
  have hlink := (h.1 State.reset 0 garbledFlit 0 (by decide)).1
  have hleft := (hlink (by decide +kernel) (by decide +kernel) (by decide +kernel)).1 hok hseq
  have htaken := garbledFlit_taken
  rw [hleft] at htaken
  exact absurd htaken (by decide +kernel)

end Sys2Proof.Machine
end

section
/-!
O57: what the host writes and reads, in the order of the statement: rings, checkpoint chains, the virtual-die map, trap queues and
other registers, islands, reads, and the migration bits.
-/

namespace Sys2Proof.Machine

open Sys2Proof

/-! ### Rings (R239) -/

theorem exec_ringcfgWrite {cl r : Nat} (w : Word) (s : State) (hcl : cl < 192) (hr : r < 32) :
    exec (.ringcfgWrite cl r w) s = .next ((s.ringWrite cl r w).getD s) := by
  show execRingcfgWrite cl r w s = _
  unfold execRingcfgWrite
  rw [if_pos (by rw [decide_eq_true hcl, decide_eq_true hr]; rfl)]

/-- A ring that is written keeps its ranges where it is enabled, and its items where it was. -/
theorem ringWrite_effect {s t : State} {cl n : Nat} {w : Word} (h : s.ringWrite cl n w = some t) :
    MemoryKept s t ∧ ((t.ring (cl * 32 + n)).enable = true → (t.ring (cl * 32 + n)).inRange = true) ∧
      ((s.ring (cl * 32 + n)).enable = true → (t.ring (cl * 32 + n)).items = (s.ring (cl * 32 + n)).items) := by
  have hkept (g : Ring) : MemoryKept s (s.setRing (cl * 32 + n) g) := ⟨fun _ => rfl, fun _ => rfl, rfl⟩
  unfold State.ringWrite at h
  dsimp only at h
  split at h
  · split at h
    · next hrange =>
      cases h
      rw [ring_setRing]
      exact ⟨hkept _, fun _ => hrange, fun _ => rfl⟩
    · cases h
  · next hoff =>
    split at h
    · next hnot =>
      cases h
      rw [ring_setRing]
      refine ⟨hkept _, fun hen => ?_, fun hen => absurd hen hoff⟩
      rw [Bool.not_eq_true'] at hnot
      exact absurd hen (by rw [hnot]; exact Bool.false_ne_true)
    · split at h
      · cases h
      · next hgood =>
        cases h
        rw [ring_setRing]
        refine ⟨hkept _, fun _ => ?_, fun hen => absurd hen hoff⟩
        rw [Bool.or_eq_true, Bool.or_eq_true, not_or, not_or] at hgood
        exact Bool.eq_true_of_not_eq_false fun hno => hgood.1.1 (by rw [Bool.not_eq_true']; exact hno)

/-! ### Checkpoint chains (R330) -/

theorem fetches_paramOf {s t : State} {g : Agent} {v b : Nat} (h : s.paramOf g v = .ok (b, t)) : Fetches s t := by
  unfold State.paramOf at h
  dsimp only at h
  split at h
  · split at h
    · cases h
    · cases h
      exact Fetches.refl s
  · split at h
    · cases h
    · split at h
      · cases h
      · split at h
        · cases h
        · next hb =>
          split at h
          · cases h
          · cases h
            exact fetches_bulkRead hb

theorem fetches_strandCheck {s t : State} {g : Agent} {swap : Bool} {v b : Nat} (h : s.strandCheck g swap v = .ok (b, t)) : Fetches s t := by
  unfold State.strandCheck at h
  dsimp only at h
  iterate 6
    split at h
    · cases h
  split at h
  · cases h
  · next hp =>
    split at h
    · cases h
    · cases h
      exact fetches_paramOf hp

theorem fetches_chainStrand {s t : State} {g : Agent} {v : Nat} {e : Nat × Nat} (h : s.chainStrand g v = some (e, t)) : Fetches s t := by
  unfold State.chainStrand at h
  split at h
  · cases h
  · split at h
    · cases h
    · next hc =>
      split at h
      · next hb =>
        split at h
        · cases h
        · split at h
          · cases h
            exact (fetches_strandCheck hc).trans (fetches_bulkRead hb)
          · cases h
      · cases h

theorem fetches_chainPages {g : Agent} {n : Nat} : ∀ {s t : State} {p : Nat} {es : List (Nat × Nat)},
    s.chainPages g n p = some (es, t) → Fetches s t := by
  induction n with
  | zero =>
    intro s t p es h
    unfold State.chainPages at h
    split at h
    · cases h
      exact Fetches.refl s
    · cases h
  | succ n ih =>
    intro s t p es h
    unfold State.chainPages at h
    split at h
    · cases h
      exact Fetches.refl s
    · split at h
      · cases h
      · split at h
        · cases h
        · next hr =>
          split at h
          · cases h
          · next hs =>
            obtain ⟨⟨es', t'⟩, hp, he⟩ := Option.map_eq_some_iff.mp h
            cases he
            exact ((fetches_readStrand hr).trans (fetches_chainStrand hs)).trans (ih hp)

/-- Pages put into the owner map are a queue's. -/
theorem get?_owners (q : Nat) : ∀ (ps : List Nat) (t : Tab Nat) (p : Nat),
    Tab.get? (ps.foldl (fun t p => Tab.put t p q) t) p = if p ∈ ps then some q else Tab.get? t p
  | [], _, _ => rfl
  | x :: ps, t, p => by
    rw [List.foldl_cons, get?_owners q ps]
    by_cases hps : p ∈ ps
    · rw [if_pos hps, if_pos (List.mem_cons_of_mem _ hps)]
    · by_cases hx : p = x
      · rw [if_neg hps, hx, Tab.get?_put_self, if_pos List.mem_cons_self]
      · rw [if_neg hps, Tab.get?_put_ne _ _ _ _ hx, if_neg (by rw [List.mem_cons]; tauto)]

theorem mem_inserted : ∀ (ps l : List Nat) {p : Nat}, (p ∈ ps ∨ p ∈ l) → p ∈ ps.foldl (fun l p => insertSet p l) l
  | [], _, _, h => h.resolve_left List.not_mem_nil
  | x :: ps, l, p, h => by
    rw [List.foldl_cons]
    refine mem_inserted ps _ ?_
    rcases h with h | h
    · rcases List.mem_cons.mp h with rfl | h
      · exact .inr (mem_insertSet_self _ _)
      · exact .inl h
    · exact .inr (mem_insertSet_of_mem h)

/-- A queue without a registered chain, at a head. -/
def State.chainOff (s : State) (q head : Nat) : State :=
  s.setQueue q { s.queue q with chainOn := false, chainHead := head, pages := [], ports := [] }

/-- Pages of a chain that no queue owns yet, registered. -/
def State.chained (s : State) (q head : Nat) (es : List (Nat × Nat)) : State :=
  let ps := es.map (·.1)
  let t : State := { s with hub := { s.hub with
    owner := ps.foldl (fun t p => Tab.put t p q) s.hub.owner
    ckpt := ps.foldl (fun l p => insertSet p l) s.hub.ckpt } }
  t.setQueue q { t.queue q with chainOn := true, chainHead := head, pages := ps, ports := es.map (·.2) }

/-- What a write of sr.wqchain comes to. -/
theorem chainWrite_cases {s : State} {q : Nat} (hq : s.chosenQueue q = false) (w : Word) :
    let d := s.disown q
    let walk := d.chainPages (d.hubAgent q) 4095 (bits w.toNat 47 6 * 64)
    ((w.getLsbD 63 = false ∨ walk = none) ∧ s.chainWrite q w = d.chainOff q (bits w.toNat 47 6 * 64)) ∨
    ∃ es u, w.getLsbD 63 = true ∧ walk = some (es, u) ∧ (s.chainWrite q w = u.chainOff q (bits w.toNat 47 6 * 64) ∨
      (es ≠ [] ∧ s.chainWrite q w = u.chained q (bits w.toNat 47 6 * 64) es)) := by
  intro d walk
  unfold State.chainWrite
  rw [if_neg (by rw [hq]; exact Bool.false_ne_true)]
  dsimp only
  split
  · next hon =>
    rw [Bool.not_eq_true'] at hon
    exact .inl ⟨.inl hon, rfl⟩
  · next hon =>
    rw [Bool.not_eq_true', Bool.not_eq_false] at hon
    split
    · next hnone => exact .inl ⟨.inr hnone, rfl⟩
    · next u hnil => exact .inr ⟨[], u, hon, hnil, .inl rfl⟩
    · next es u hne hsome =>
      refine .inr ⟨es, u, hon, hsome, ?_⟩
      split
      · exact .inl rfl
      · exact .inr ⟨fun hnil => hne hnil, rfl⟩

theorem memoryKept_setQueue (s : State) (q : Nat) (k : WQueue) : MemoryKept s (s.setQueue q k) := ⟨fun _ => rfl, fun _ => rfl, rfl⟩

theorem queue_chainOff (s : State) (q head : Nat) :
    (s.chainOff q head).queue q = { s.queue q with chainOn := false, chainHead := head, pages := [], ports := [] } := State.queue_setQueue_self _ _ _

theorem queue_chained (s : State) (q head : Nat) (es : List (Nat × Nat)) :
    (s.chained q head es).queue q = { s.queue q with chainOn := true, chainHead := head, pages := es.map (·.1), ports := es.map (·.2) } :=
  State.queue_setQueue_self _ _ _

theorem exec_wqchainWrite {q : Nat} (w : Word) (s : State) (hq : q < 8192) : exec (.wqchainWrite q w) s = .next (s.chainWrite q w) :=
  if_pos (decide_eq_true hq)

/-- What a write of sr.wqchain leaves. -/
theorem wqchain_effect {s : State} {q : Nat} {w : Word} (hq : s.chosenQueue q = false) :
    let d := s.disown q
    let walk := d.chainPages (d.hubAgent q) 4095 (bits w.toNat 47 6 * 64)
    let t := s.chainWrite q w
    (t.queue q).chainHead = bits w.toNat 47 6 * 64 ∧
      ((w.getLsbD 63 = false ∨ walk = none) → MemoryKept s t ∧ (t.queue q).chainOn = false) ∧
      (∀ es u, w.getLsbD 63 = true → walk = some (es, u) → MemoryKept u t ∧
        ((t.queue q).chainOn = true → (t.queue q).pages = es.map (fun e => e.1) ∧ (t.queue q).ports = es.map (fun e => e.2))) ∧
      (w.getLsbD 63 = false → (t.queue q).chainOn = false ∧ (t.queue q).pages = [] ∧ ∀ e ∈ t.hub.owner, e.2 ≠ q) ∧
      ((t.queue q).chainOn = true → (t.queue q).pages ≠ [] ∧ ∀ p ∈ (t.queue q).pages, Tab.get? t.hub.owner p = some q ∧ p ∈ t.hub.ckpt) := by
  intro d walk t
  rcases chainWrite_cases hq w with ⟨hoff, ht⟩ | ⟨es, u, hon, hwalk, ht | ⟨hne, ht⟩⟩
  · have htq : t.queue q = _ := (congrArg (fun t => State.queue t q) ht).trans (queue_chainOff _ _ _)
    have hkept : MemoryKept s t := by
      rw [show t = _ from ht]
      exact memoryKept_setQueue d q _
    rw [htq]
    refine ⟨rfl, fun _ => ⟨hkept, rfl⟩, fun es u hon hwalk => ?_, fun _ => ⟨rfl, rfl, fun e he => ?_⟩, fun h => absurd h Bool.false_ne_true⟩
    · rcases hoff with hoff | hnone
      · rw [hon] at hoff; cases hoff
      · exact absurd (hnone.symm.trans hwalk) (by simp)
    · rw [show t = _ from ht] at he
      simpa using (List.mem_filter.mp he).2
  · have htq : t.queue q = _ := (congrArg (fun t => State.queue t q) ht).trans (queue_chainOff _ _ _)
    have hkept : MemoryKept u t := by
      rw [show t = _ from ht]
      exact memoryKept_setQueue u q _
    rw [htq]
    refine ⟨rfl, fun h => ?_, fun es' u' _ hwalk' => ?_, fun h => ?_, fun h => absurd h Bool.false_ne_true⟩
    · rcases h with h | h
      · rw [hon] at h; cases h
      · exact absurd (h.symm.trans hwalk) (by simp)
    · obtain ⟨rfl, rfl⟩ := Prod.mk.inj (Option.some.inj (hwalk.symm.trans hwalk'))
      exact ⟨hkept, fun h => absurd h Bool.false_ne_true⟩
    · rw [hon] at h; cases h
  · have htq : t.queue q = _ := (congrArg (fun t => State.queue t q) ht).trans (queue_chained _ _ _ _)
    have hkept : MemoryKept u t := by
      rw [show t = _ from ht]
      exact ⟨fun _ => rfl, fun _ => rfl, rfl⟩
    have hhub : t.hub = _ := congrArg State.hub ht
    rw [htq, hhub]
    refine ⟨rfl, fun h => ?_, fun es' u' _ hwalk' => ?_, fun h => ?_, fun _ => ⟨?_, fun p hp => ⟨?_, mem_inserted _ _ (.inl hp)⟩⟩⟩
    · rcases h with h | h
      · rw [hon] at h; cases h
      · exact absurd (h.symm.trans hwalk) (by simp)
    · obtain ⟨rfl, rfl⟩ := Prod.mk.inj (Option.some.inj (hwalk.symm.trans hwalk'))
      exact ⟨hkept, fun _ => ⟨rfl, rfl⟩⟩
    · rw [hon] at h; cases h
    · exact fun hnil => hne (List.map_eq_nil_iff.mp hnil)
    · exact (get?_owners q _ _ p).trans (if_pos hp)

/-! ### The virtual-die map (R267, R273, R274) -/

/-- Every rank is the cluster of a core. -/
theorem clusterOf_coreIn (r : Nat) : clusterOf (coreIn r 0) = r := by
  unfold clusterOf coreIn dieOf rowOf colOf
  omega

theorem invalidate_hub (s : State) (v : Inval) : (s.invalidate v).hub = { s.hub with invSeq := s.hub.invSeq + 1 } := by
  rw [invalidate_eq]
  obtain ⟨⟨cores, hcores⟩, -⟩ := clearCores_rest (s.noted (s.numbered v)) (s.numbered v)
  obtain ⟨cl, hcl⟩ := clearClusters_rest ((s.noted (s.numbered v)).clearCores (s.numbered v)) (s.numbered v)
  rw [hcl, hcores]
  rfl

/-- An invalidation of every TLB. -/
def everyTlb : Inval := { seq := 0, scope := 5, core := 0, kind := 4, addr := 0, vdev := 0, asid := 0, waits := [] }

theorem invalidate_everyTlb (s : State) : (∀ c, ((s.invalidate everyTlb).core c).l1 = []) ∧ ∀ r, ((s.invalidate everyTlb).cluster r).l2 = [] := by
  obtain ⟨-, -, hl1, hl2⟩ := invalidate_effect s everyTlb
  have hnil : ∀ {l : List Tlb}, Clears (s.numbered everyTlb) l → l = [] :=
    fun {l} h => List.eq_nil_iff_forall_not_mem.mpr fun e he => Bool.false_ne_true ((h e he).symm.trans rfl)
  exact ⟨fun c => hnil (hl1 c rfl), fun r => hnil (clusterOf_coreIn r ▸ hl2 (coreIn r 0) rfl)⟩

theorem exec_vdiemap_first {s : State} (w : Word) (hto : s.hub.mapTo = none) : exec (.vdiemapWrite w) s =
    (let new := bits w.toNat 7 0
     let t := s.invalidate everyTlb
     event s (mapOk new && !(s.changed new).any s.references) { t with hub := { t.hub with mapTo := some (new, t.hub.invSeq) } }) := by
  show execVdiemapWrite w s = _
  unfold execVdiemapWrite
  dsimp only
  rw [hto] <;> rfl

theorem exec_vdiemap_again {s : State} {w : Word} {m q : Nat} (hto : s.hub.mapTo = some (m, q)) : exec (.vdiemapWrite w) s =
    (let t := s.remap m
     event s (m == bits w.toNat 7 0 && s.mayRemap) { t with hub := { t.hub with mapTo := none } }) := by
  show execVdiemapWrite w s = _
  unfold execVdiemapWrite
  dsimp only
  rw [hto] <;> rfl

/-- Addresses renamed by an injective renaming of the four virtual dies stay apart. -/
theorem renameDie_inj {f : Nat → Nat} (hlt : ∀ d, d < 4 → f d < 4) (hinj : ∀ d e, d < 4 → e < 4 → f d = f e → d = e) {a b : Nat}
    (h : renameDie f a = renameDie f b) : a = b := by
  have hbits (a : Nat) : bits a 15 14 = a / 16384 % 4 := rfl
  unfold renameDie at h
  rw [hbits, hbits] at h
  have ha := hlt (a / 16384 % 4) (Nat.mod_lt _ (by decide))
  have hb := hlt (b / 16384 % 4) (Nat.mod_lt _ (by decide))
  have hsame := hinj (a / 16384 % 4) (b / 16384 % 4) (Nat.mod_lt _ (by decide)) (Nat.mod_lt _ (by decide))
  generalize f (a / 16384 % 4) = x at *
  generalize f (b / 16384 % 4) = y at *
  split at h
  · split at h
    · have hxy : x = y := by omega
      have := hsame hxy
      omega
    · omega
  · split at h
    · omega
    · exact h

theorem byte_cons (c : Host.Cell) (m : Memory) (a : Nat) : Memory.byte (c :: m) a = if c.1 = a then c.2 else Memory.byte m a := rfl

/-- The contents of a memory put down again at other places. -/
theorem byte_moved (f : Nat → Nat) (hf : ∀ a b, f a = f b → a = b) (a : Nat) : ∀ (m n : Memory), m.wf = true → n.wf = true →
    Memory.byte (m.foldl (fun (n : Memory) c => Memory.set n (f c.1) c.2) n) (f a) = if a ∈ m.map (·.1) then m.byte a else n.byte (f a)
  | [], _, _, _ => rfl
  | c :: m, n, hm, hn => by
    obtain ⟨-, hlt, hwf⟩ := (Memory.wf_cons c m).mp hm
    have hkey : c.1 ∉ m.map (·.1) := fun h => by
      obtain ⟨d, hd, he⟩ := List.mem_map.mp h
      exact absurd (hlt d hd) (by omega)
    rw [List.foldl_cons, byte_moved f hf a m _ hwf (Memory.set_wf _ _ _ hn), List.map_cons, byte_cons]
    by_cases hca : c.1 = a
    · subst hca
      rw [if_neg hkey, if_pos List.mem_cons_self, if_pos rfl]
      exact (Memory.byte_set n (f c.1) (f c.1) c.2 hn).trans (if_pos rfl)
    · have hne : f a ≠ f c.1 := fun h => hca (hf _ _ h).symm
      rw [if_neg hca]
      by_cases ha : a ∈ m.map (·.1)
      · rw [if_pos ha, if_pos (List.mem_cons_of_mem _ ha)]
      · rw [if_neg ha, if_neg (by rw [List.mem_cons]; rintro (rfl | h); exacts [hca rfl, ha h])]
        exact (Memory.byte_set n (f c.1) (f a) c.2 hn).trans (if_neg hne)

theorem byte_not_listed : ∀ (m : Memory) {a : Nat}, a ∉ m.map (·.1) → m.byte a = Memory.unlisted
  | [], _, _ => rfl
  | c :: m, a, h => by
    rw [List.map_cons, List.mem_cons, not_or] at h
    rw [byte_cons, if_neg (fun hc => h.1 hc.symm), byte_not_listed m h.2]

theorem stackOf_lt (m d : Nat) : stackOf m d < 4 := by
  have h : 2 * d + 1 + 1 - 2 * d = 2 := by omega
  unfold stackOf bits
  rw [h]
  exact Nat.mod_lt _ (by decide)

/-- A map of the four virtual dies is onto the stacks. -/
theorem exists_stackOf {m : Nat} (hm : mapOk m = true) {d : Nat} (hd : d < 4) : ∃ i, i < 4 ∧ stackOf m i = d := by
  obtain ⟨i, hi, he⟩ := List.any_eq_true.mp (List.all_eq_true.mp hm d (List.mem_range.mpr hd))
  exact ⟨i, List.mem_range.mp hi, beq_iff_eq.mp he⟩

/-- A map of the four virtual dies gives each its own stack. -/
theorem stackOf_inj {m : Nat} (hm : mapOk m = true) {d e : Nat} (hd : d < 4) (he : e < 4) (h : stackOf m d = stackOf m e) : d = e := by
  let f (i : Fin 4) : Fin 4 := ⟨stackOf m i, stackOf_lt m i⟩
  have hsurj : Function.Surjective f := fun y => by
    obtain ⟨i, hi, hs⟩ := exists_stackOf hm y.isLt
    exact ⟨⟨i, hi⟩, Fin.ext hs⟩
  have hinj := Finite.injective_iff_surjective.mpr hsurj
  exact congrArg Fin.val (hinj (a₁ := ⟨d, hd⟩) (a₂ := ⟨e, he⟩) (Fin.ext h))

theorem stackFrom_spec {old new : Nat} (hold : mapOk old = true) (d : Nat) :
    stackFrom old new d < 4 ∧ stackOf old (stackFrom old new d) = stackOf new d := by
  obtain ⟨i, hi, hs⟩ := exists_stackOf hold (stackOf_lt new d)
  unfold stackFrom
  cases hfind : (List.range 4).find? (fun w => stackOf old w == stackOf new d) with
  | none => exact absurd (List.find?_eq_none.mp hfind i (List.mem_range.mpr hi)) (by simp [hs])
  | some w =>
    have hsame : (stackOf old w == stackOf new d) = true := List.find?_some (p := fun w => stackOf old w == stackOf new d) hfind
    exact ⟨List.mem_range.mp (List.mem_of_find?_eq_some hfind), beq_iff_eq.mp hsame⟩

/-- Every byte of HBM stands, under a new map, where its virtual die's stack now is. -/
theorem byte_remap {s : State} {new : Nat} (hnew : mapOk new = true) (hold : mapOk s.hub.vdiemap = true) (hwf : s.mem.wf = true) (a : Nat) :
    (s.remap new).mem.byte (renameDie (stackFrom new s.hub.vdiemap) a) = s.mem.byte a := by
  have hinj : ∀ d e, d < 4 → e < 4 → stackFrom new s.hub.vdiemap d = stackFrom new s.hub.vdiemap e → d = e := fun d e hd he h =>
    stackOf_inj hold hd he ((stackFrom_spec hnew d).2.symm.trans ((congrArg (stackOf new) h).trans (stackFrom_spec hnew e).2))
  have hmoved := byte_moved (renameDie (stackFrom new s.hub.vdiemap))
    (fun a b h => renameDie_inj (fun d _ => (stackFrom_spec hnew d).1) hinj h) a s.mem [] hwf rfl
  refine hmoved.trans ?_
  split
  · rfl
  · next h => exact (byte_not_listed s.mem h).symm

theorem get?_map_val {α β : Type} (f : α → β) (k : Nat) : ∀ t : Tab α, Tab.get? (t.map (fun e => (e.1, f e.2))) k = (Tab.get? t k).map f
  | [] => rfl
  | e :: t => by
    rw [List.map_cons]
    unfold Tab.get?
    split
    · rfl
    · exact get?_map_val f k t

/-- A core and a cluster with an empty TLB. -/
def Core.noTlb (k : Core) : Core := { k with l1 := [] }

def Cluster.noTlb (k : Cluster) : Cluster := { k with l2 := [] }

theorem remap_rest (s : State) (new : Nat) : (s.remap new).hub.vdiemap = new ∧ (∀ c, (s.remap new).core c = { s.core c with l1 := [] }) ∧
    ∀ r, ((s.remap new).cluster r).l2 = [] := by
  have hcore (c : Nat) : (s.remap new).core c = ((Tab.get? s.cores c).map Core.noTlb).getD Core.reset :=
    congrArg (fun o : Option Core => o.getD Core.reset) (get?_map_val Core.noTlb c s.cores)
  have hcluster (r : Nat) : (s.remap new).cluster r = ((Tab.get? s.clusters r).map Cluster.noTlb).getD (Cluster.reset r) :=
    congrArg (fun o : Option Cluster => o.getD (Cluster.reset r)) (get?_map_val Cluster.noTlb r s.clusters)
  refine ⟨rfl, fun c => ?_, fun r => ?_⟩
  · rw [hcore, State.core, Tab.getD]
    cases Tab.get? s.cores c <;> rfl
  · rw [hcluster]
    cases Tab.get? s.clusters r <;> rfl

theorem changed_any (s : State) (new : Nat) (f : Nat → Bool) : (s.changed new).any f = true ↔
    ∃ d ∈ (List.range 4).filter (fun d => stackOf new d != stackOf s.hub.vdiemap d), f d = true := List.any_eq_true

theorem mayRemap_false {s : State} {new q : Nat} (hto : s.hub.mapTo = some (new, q))
    (h : (∃ v ∈ s.invals, v.seq = q ∧ s.invDone v = false) ∨ (∃ d ∈ s.changed new, s.references d = true)
      ∨ (∃ h ∈ s.chains, dieOf h.core ∈ s.changed new ∧ (h.await ≠ [] ∨ h.lane.isSome = true))) : s.mayRemap = false := by
  rw [Bool.eq_false_iff]
  intro hmay
  unfold State.mayRemap at hmay
  rw [hto] at hmay
  dsimp only at hmay
  rw [Bool.and_eq_true, Bool.and_eq_true, Bool.and_eq_true] at hmay
  obtain ⟨⟨⟨hinv, hrefs⟩, hchains⟩, -⟩ := hmay
  rcases h with ⟨v, hv, hseq, hdone⟩ | ⟨d, hd, href⟩ | ⟨k, hk, hdie, hbusy⟩
  · have := List.all_eq_true.mp hinv v hv
    simp [hseq, hdone] at this
  · rw [Bool.not_eq_true', List.any_eq_false] at hrefs
    exact hrefs d hd href
  · have := List.all_eq_true.mp hchains k hk
    rcases hbusy with hbusy | hbusy
    · simp [hdie, hbusy] at this
    · rw [Option.isSome_iff_ne_none] at hbusy
      simp [hdie, hbusy] at this

theorem vdiemap_first {s : State} {w : Word} (hto : s.hub.mapTo = none) (hok : mapOk (bits w.toNat 7 0) = true)
    (hrefs : (s.changed (bits w.toNat 7 0)).any s.references = false) :
    ∃ t : State, exec (.vdiemapWrite w) s = .next t ∧ MemoryKept s t ∧ t.hub.vdiemap = s.hub.vdiemap ∧
      t.hub.mapTo = some (bits w.toNat 7 0, s.hub.invSeq + 1) ∧ (∀ c, (t.core c).l1 = []) ∧ (∀ r, (t.cluster r).l2 = []) := by
  obtain ⟨hl1, hl2⟩ := invalidate_everyTlb s
  obtain ⟨⟨_, _, _, hrest⟩, -⟩ := invalidate_effect s everyTlb
  have hhub := invalidate_hub s everyTlb
  rw [exec_vdiemap_first w hto]
  dsimp only
  rw [hok, hrefs]
  generalize s.invalidate everyTlb = t at hl1 hl2 hrest hhub
  refine ⟨_, rfl, ⟨fun _ => by rw [hrest], fun _ => by rw [hrest], by rw [hrest]⟩, by rw [hhub], by rw [hhub], hl1, hl2⟩

/-! ### Trap queues and registers (R264, R286, R310, R311, R336) -/

theorem fatalClear_halted {p : Nat} {w : Word} (s : State) (hp : p < 256) (hw : w.getLsbD 63 = true) : exec (.fatalClear p w) s =
    .next (s.setPart p { s.part p with fatal := (s.part p).fatal &&& 0x7FFFFFFFFFFFFFFF#64 }) := by
  show event s (decide (p < 256)) (s.clearFatal p w) = _
  unfold State.clearFatal event
  rw [if_pos hw, if_pos (decide_eq_true hp)]

theorem chmask_written {p cl q : Nat} (w : Word) (s : State) (hp : p < 256) (hcl : cl < 192) (hq : q < 8192) :
    exec (.registerWrite (.sys 0x183 p cl q w)) s = .next (s.setPart p { s.part p with chmask := bits w.toNat 39 0 }) := by
  have hok : (decide (0x100 ≤ 0x183) && 0x183 != 0x181 && (sysWriteLevel 0x183).isSome && decide (p < 256) && decide (cl < 192) && decide (q < 8192)) = true := by
    rw [decide_eq_true hp, decide_eq_true hcl, decide_eq_true hq]
    rfl
  exact congrArg Host.Outcome.next (if_pos hok)

theorem rs_of_zeros {k : Ctx} (hs : k.s = .replicate 32 0) (i : SReg) : k.rs i = 0 := by
  unfold Ctx.rs
  rw [hs]
  split <;> simp

theorem startContext_effect {s : State} {c x : Nat} {pc : Word} (xlat : Word) (hc : c < 1536) (hx : x < 16) (hlive : (s.ctx c x).live = false)
    (hpart : (s.cluster (clusterOf c)).part ≠ none) (hdie : dieOf c ∉ s.hub.absent) (halign : pc.toNat % 4 = 0) (hpc : pc.toNat < 2 ^ 48) :
    ∃ t : State, exec (.registerWrite (.startContext c x pc xlat)) s = .next t ∧ MemoryKept s t ∧ (t.ctx c x).live = true ∧
      (t.ctx c x).level = 2 ∧ (t.ctx c x).pc = pc.toNat ∧ (t.ctx c x).xlat = xlat &&& 0xFFFCFFFFFFFFF000#64 ∧
      (∀ i : SReg, (t.ctx c x).rs i = 0) ∧ ∀ y, y ≠ x → t.ctx c y = s.ctx c y := by
  have hok : (decide (c < 1536) && decide (x < 16) && !(s.ctx c x).live && (s.cluster (clusterOf c)).part.isSome
      && !s.hub.absent.contains (dieOf c) && pc.toNat % 4 == 0 && decide (pc.toNat < 2 ^ 48)) = true := by
    rw [decide_eq_true hc, decide_eq_true hx, decide_eq_true hpc, hlive, halign, Option.isSome_iff_ne_none.mpr hpart]
    simpa using hdie
  have hself : (s.startL2 c x pc.toNat (xlat &&& 0xFFFCFFFFFFFFF000#64)).ctx c x = _ := State.ctx_setCtx_self _ _ _ _
  refine ⟨_, if_pos hok, ⟨fun _ => rfl, fun _ => rfl, rfl⟩, ?_, ?_, ?_, ?_,
    fun i => (congrArg (fun k => Ctx.rs k i) hself).trans (rs_of_zeros rfl i), fun y hy => State.ctx_setCtx_ne _ _ _ _ _ hy⟩
  all_goals rw [hself]
  all_goals rfl

/-! ### Islands (R284) -/

theorem island_setIsland {s : State} {n : Nat} (hn : n < 44) (i : Island) : let j := (s.setIsland n i).island n
    j.request = i.request ∧ j.cap = i.cap ∧ j.temp = i.temp ∧ j.thermal = i.thermal ∧ j.current = i.point s.hub.ready := by
  intro j
  have hj : j = if i.point s.hub.ready = i.current then i else { i with current := i.point s.hub.ready, busy := s.time + 2000 } := by
    simp [j, State.island, State.setIsland, List.getD, hn]
  rw [hj]
  split
  · next hsame => exact ⟨rfl, rfl, rfl, rfl, hsame.symm⟩
  · exact ⟨rfl, rfl, rfl, rfl, rfl⟩

theorem memoryKept_setIsland (s : State) (n : Nat) (i : Island) : MemoryKept s (s.setIsland n i) := ⟨fun _ => rfl, fun _ => rfl, rfl⟩

theorem vfctl_effect {s : State} {n : Nat} (hn : n < 44) (w : Word) : let i := s.island n
    ∃ t : State, exec (.vfctlWrite n w) s = .next t ∧ MemoryKept s t ∧ (t.island n).request = bits w.toNat 2 0 ∧
      (t.island n).current = (if s.hub.ready then min (bits w.toNat 2 0) (min i.cap i.thermal) else 0) := by
  obtain ⟨hrequest, -, -, -, hcurrent⟩ := island_setIsland (s := s) hn { s.island n with request := bits w.toNat 2 0 }
  exact ⟨_, if_pos (decide_eq_true hn), memoryKept_setIsland _ _ _, hrequest, hcurrent⟩

theorem cap_effect {s : State} {n p : Nat} (hn : n < 44) (hp : p < 8) : let i := s.island n
    ∃ t : State, exec (.registerWrite (.cap n p)) s = .next t ∧ MemoryKept s t ∧ (t.island n).cap = p ∧
      (t.island n).current = (if s.hub.ready then min i.request (min p i.thermal) else 0) := by
  obtain ⟨-, hcap, -, -, hcurrent⟩ := island_setIsland (s := s) hn { s.island n with cap := p }
  have hok : (decide (n < 44) && decide (p < 8)) = true := by rw [decide_eq_true hn, decide_eq_true hp]; rfl
  exact ⟨_, if_pos hok, memoryKept_setIsland _ _ _, hcap, hcurrent⟩

theorem pointChange_effect {s : State} {n : Nat} (hn : n < 44) (hbusy : (s.island n).busy ≠ 0) (hdue : (s.island n).busy ≤ s.time) :
    ∃ t : State, exec (.pointChangeDone n) s = .next t ∧ MemoryKept s t ∧ t.island n = { s.island n with busy := 0 } := by
  have hok : (decide (n < 44) && (s.island n).busy != 0 && decide ((s.island n).busy ≤ s.time)) = true := by
    rw [decide_eq_true hn, decide_eq_true hdue]
    simpa using hbusy
  refine ⟨_, if_pos hok, ⟨fun _ => rfl, fun _ => rfl, rfl⟩, ?_⟩
  simp [State.island, List.getD, hn]

theorem thermalStep_effect {s : State} {n : Nat} (hn : n < 44) (temp : BitVec 8) : let i := s.island n
    ∃ t : State, exec (.thermalStep n temp) s = .next t ∧ MemoryKept s t ∧ (t.island n).temp = temp.toNat ∧
      (t.island n).thermal = (if s.time / 1000000 ≤ i.thermAt then i.thermal else if 95 ≤ temp.toNat then i.thermal - 1
        else if temp.toNat ≤ 85 then min 7 (i.thermal + 1) else i.thermal) := by
  intro i
  by_cases hdue : i.thermAt < s.time / 1000000
  · obtain ⟨-, -, htemp, hthermal, -⟩ := island_setIsland (s := s) hn { i with
      temp := temp.toNat, thermAt := s.time / 1000000
      thermal := if 95 ≤ temp.toNat then i.thermal - 1 else if temp.toNat ≤ 85 then min 7 (i.thermal + 1) else i.thermal }
    refine ⟨_, (if_pos (decide_eq_true hn)).trans ?_, memoryKept_setIsland _ _ _, htemp, hthermal.trans ?_⟩
    · rw [if_pos hdue]
    · rw [if_neg (Nat.not_le.mpr hdue)]
  · obtain ⟨-, -, htemp, hthermal, -⟩ := island_setIsland (s := s) hn { i with temp := temp.toNat }
    refine ⟨_, (if_pos (decide_eq_true hn)).trans ?_, memoryKept_setIsland _ _ _, htemp, hthermal.trans ?_⟩
    · rw [if_neg hdue]
    · rw [if_pos (Nat.not_lt.mp hdue)]

/-! ### Reads and posted writes (R152, R221, R222, R275, R276, R280, R281, R283) -/

/-- A read answered with a message to the host. -/
def State.answers (s : State) (p : HostPlace) (k : Nat) (e : Egress) : Prop :=
  exec (.inboundRead p k) s = .next { s with hub := { s.hub with egress := s.hub.egress ++ [e] } }

section
variable {s : State} (hup : s.hub.failure = 0)
include hup

theorem device_written {a : Nat} {bs : List Byte} (hrange : s.devRange a bs.length = true) :
    ∃ t : State, exec (.inboundPostedWrite (.device a bs)) s = .next t ∧ t.banks = s.banks ∧ t.cores = s.cores ∧
      t.mem = s.mem.write a bs.length (ofBytes bs) := by
  obtain ⟨_, _, hrest⟩ := s.devWrite_rest a bs.length (ofBytes bs)
  have hok : (s.hub.failure == 0 && s.devRange a bs.length) = true := by rw [hup, hrange]; rfl
  exact ⟨_, if_pos hok, by rw [hrest], by rw [hrest], rfl⟩

theorem staging_written {vdev q off : Nat} {bs : List Byte} (hown : s.ownsQueue vdev q = true) (hoff : off + bs.length ≤ 512) :
    ∃ t : State, exec (.inboundPostedWrite (.staging vdev q off bs)) s = .next t ∧ MemoryKept s t ∧
      (t.queue q).staging = (s.queue q).staging.write off bs.length (ofBytes bs) := by
  have hok : (s.hub.failure == 0 && s.ownsQueue vdev q && decide (off + bs.length ≤ 512)) = true := by
    rw [hup, hown, decide_eq_true hoff]; rfl
  exact ⟨_, if_pos hok, memoryKept_setQueue _ _ _, congrArg WQueue.staging (State.queue_setQueue_self _ _ _)⟩

theorem device_read {a n : Nat} (hn : n ≠ 0) (hrange : s.devRange a n = true) : s.answers (.device a) n (.readData a (bytesOf n (s.mem.read a n))) := by
  have hok : (s.hub.failure == 0 && n != 0 && s.devRange a n) = true := by rw [hup, hrange]; simpa using hn
  exact if_pos hok

theorem bar0_read {v o n : Nat} (hv : v < 64) (hn : n ≠ 0) (ho : o + n ≤ 2 ^ 25) :
    s.answers (.bar0 v o) n (.barData v 0 o ((List.range n).map (fun i => s.windowByte v (o + i)))) := by
  have hok : (s.hub.failure == 0 && n != 0 && decide (v < 64) && decide (o + n ≤ 2 ^ 25)) = true := by
    rw [hup, decide_eq_true hv, decide_eq_true ho]; simpa using hn
  exact if_pos hok

end

/-- The bytes of a value, one by one. -/
theorem map_fieldB_bytesOf (n v : Nat) : (List.range n).map (fun i => BitVec.ofNat 8 (fieldB v i 1)) = bytesOf n v := by
  induction n generalizing v with
  | zero => rfl
  | succ n ih =>
    rw [List.range_succ_eq_map, List.map_cons, List.map_map, bytesOf, ← ih]
    refine congrArg₂ List.cons ?_ (List.map_congr_left fun i _ => ?_)
    · refine BitVec.eq_of_toNat_eq ?_
      simp [fieldB]
    · show BitVec.ofNat 8 (fieldB v (i + 1) 1) = BitVec.ofNat 8 (fieldB (v / 256) i 1)
      rw [fieldB, fieldB, Nat.div_div_eq_div_mul, Nat.pow_succ, Nat.mul_comm]

/-- A byte of the Status word as a queue's own function reads it. -/
theorem windowByte_status {s : State} {vdev q i : Nat} (hown : s.ownsQueue vdev q = true) (hi : i < 4) :
    s.windowByte vdev (4096 * q + 0x808 + i) = BitVec.ofNat 8 (fieldB (s.queue q).status i 1) := by
  have hq : (4096 * q + 0x808 + i) / 4096 = q := by omega
  have ho : (4096 * q + 0x808 + i) % 4096 = 0x808 + i := by omega
  have hin : (decide (0x808 ≤ 0x808 + i) && decide (0x808 + i < 0x80C)) = true := by
    rw [decide_eq_true (by omega), decide_eq_true (by omega)]; rfl
  unfold State.windowByte
  dsimp only
  rw [hq, ho, hown, Bool.not_true, if_neg Bool.false_ne_true, if_pos hin, Nat.add_sub_cancel_left]

/-- Another function's window reads zero. -/
theorem windowByte_other {s : State} {vdev q o : Nat} (hown : s.ownsQueue vdev q = false) (ho : o < 4096) : s.windowByte vdev (4096 * q + o) = 0 := by
  have hq : (4096 * q + o) / 4096 = q := by omega
  unfold State.windowByte
  dsimp only
  rw [hq, hown]
  rfl

theorem ownsQueue_lt {s : State} {vdev q : Nat} (h : s.ownsQueue vdev q = true) : q < 8192 := by
  rw [State.ownsQueue, Bool.and_eq_true, decide_eq_true_eq] at h
  exact h.1

theorem status_read {s : State} {vdev q : Nat} (hup : s.hub.failure = 0) (hv : vdev < 64) (hown : s.ownsQueue vdev q = true) :
    s.answers (.bar0 vdev (4096 * q + 0x808)) 4 (.barData vdev 0 (4096 * q + 0x808)
      (bytesOf 4 (b2n (s.queue q).overflow * 2 ^ 31 + (256 - (s.queue q).pending.length)))) := by
  have hq := ownsQueue_lt hown
  have hread := bar0_read hup (o := 4096 * q + 0x808) (n := 4) hv (by decide) (by omega)
  have hbytes : (List.range 4).map (fun i => s.windowByte vdev (4096 * q + 0x808 + i)) = bytesOf 4 (s.queue q).status := by
    rw [← map_fieldB_bytesOf]
    exact List.map_congr_left fun i hi => windowByte_status hown (List.mem_range.mp hi)
  rw [hbytes] at hread
  exact hread

theorem other_window_read {s : State} {vdev q off n : Nat} (hup : s.hub.failure = 0) (hv : vdev < 64) (hq : q < 8192)
    (hown : s.ownsQueue vdev q = false) (hn : n ≠ 0) (hoff : off + n ≤ 4096) :
    s.answers (.bar0 vdev (4096 * q + off)) n (.barData vdev 0 (4096 * q + off) (List.replicate n 0)) := by
  have hread := bar0_read hup (o := 4096 * q + off) (n := n) hv hn (by omega)
  have hbytes : (List.range n).map (fun i => s.windowByte vdev (4096 * q + off + i)) = List.replicate n 0 := by
    refine List.eq_replicate_iff.mpr ⟨by simp, fun b hb => ?_⟩
    obtain ⟨i, hi, rfl⟩ := List.mem_map.mp hb
    have := List.mem_range.mp hi
    rw [Nat.add_assoc]
    exact windowByte_other hown (by omega)
  rw [hbytes] at hread
  exact hread

theorem control_read {p cl k : Nat} (s : State) (n : Nat) (hp : p < 256) (hcl : cl < 192) (hk : k < 8192) :
    s.answers (.control 0x194 p cl k) n (.control 0x194 p cl k (s.queue k).xlat.toNat) := by
  have hok : ((sysReadLevel 0x194).any (decide <| · ≤ 2) && decide (0x100 ≤ 0x194) && 0x194 != 0x181 && decide (p < 256) && decide (cl < 192)
      && decide (k < 8192)) = true := by
    rw [decide_eq_true hp, decide_eq_true hcl, decide_eq_true hk]
    rfl
  exact if_pos hok

theorem bootstat_read (s : State) : s.answers (.bar2 0) 8 (.barData 0 2 0
    (bytesOf 8 (s.hub.failure * 2 ^ 8 + s.hub.life % 4 * 2 ^ 6 + s.hub.bootStep * 2 + b2n s.hub.ready))) := by
  have hbytes : (List.range 8).map (fun i => s.barByte (0 + i)) = bytesOf 8 s.hub.bootstat := by
    rw [← map_fieldB_bytesOf]
    refine List.map_congr_left fun i hi => ?_
    have hi8 := List.mem_range.mp hi
    have ho : (0 + i) / 8 * 8 = 0 := by omega
    have hm : (0 + i) % 8 = i := by omega
    unfold State.barByte
    rw [ho, hm]
    rfl
  show exec (.inboundRead (.bar2 0) 8) s = .next { s with hub := { s.hub with egress := s.hub.egress ++ [.barData 0 2 0 (bytesOf 8 s.hub.bootstat)] } }
  rw [← hbytes]
  rfl

theorem failed_boot {s : State} (h : s.hub.failure ≠ 0) (a n vdev q off : Nat) (bs : List Byte) :
    exec (.inboundPostedWrite (.device a bs)) s = .next s ∧ exec (.inboundPostedWrite (.staging vdev q off bs)) s = .next s ∧
      exec (.inboundRead (.device a) n) s = .next s ∧ exec (.inboundRead (.bar0 vdev off) n) s = .next s := by
  have hdown : (s.hub.failure == 0) = false := by simpa using h
  have hoff (b : Bool) (t : State) (hb : b = false) : event s b t = .next s := by rw [hb]; rfl
  exact ⟨hoff _ _ (by rw [hdown]; rfl), hoff _ _ (by rw [hdown]; rfl), hoff _ _ (by rw [hdown]; rfl), hoff _ _ (by rw [hdown]; rfl)⟩

/-! ### Migration bits (R336) -/

/-- A power of two added to a number without that bit sets the bit. -/
theorem testBit_add_two_pow {x k : Nat} (hk : x.testBit k = false) (i : Nat) : (x + 2 ^ k).testBit i = (x.testBit i || decide (i = k)) := by
  have hlow : x % 2 ^ k < 2 ^ k := Nat.mod_lt _ (Nat.two_pow_pos k)
  have hx : 2 ^ k * (x / 2 ^ k) + x % 2 ^ k = x := Nat.div_add_mod x (2 ^ k)
  have hodd : x / 2 ^ k % 2 = 0 := by
    rw [Nat.testBit_eq_decide_div_mod_eq] at hk
    have := of_decide_eq_false hk
    omega
  have hsum : x + 2 ^ k = 2 ^ k * (x / 2 ^ k + 1) + x % 2 ^ k := by rw [Nat.mul_add, Nat.mul_one]; omega
  rw [hsum]
  conv_rhs => rw [← hx]
  rw [Nat.testBit_two_pow_mul_add _ hlow, Nat.testBit_two_pow_mul_add _ hlow]
  by_cases hik : i < k
  · rw [if_pos hik, if_pos hik, decide_eq_false (by omega), Bool.or_false]
  · rw [if_neg hik, if_neg hik]
    obtain ⟨d, rfl⟩ := Nat.exists_eq_add_of_le (Nat.not_lt.mp hik)
    rw [Nat.add_sub_cancel_left]
    cases d with
    | zero => simp [Nat.testBit_zero]; omega
    | succ d =>
      rw [Nat.testBit_succ, Nat.testBit_succ, decide_eq_false (by omega), Bool.or_false]
      congr 1
      omega

/-- The bits of a sum of powers of two for the pages from one on, each once. -/
theorem testBit_pages (lo : Nat) : ∀ (l : List Nat) (acc : Nat), l.Nodup → (∀ p ∈ l, lo ≤ p) → (∀ p ∈ l, acc.testBit (p - lo) = false) →
    ∀ i, (l.foldl (fun a p => a + 2 ^ (p - lo)) acc).testBit i = (acc.testBit i || decide (lo + i ∈ l))
  | [], acc, _, _, _, i => by simp
  | p :: l, acc, hnd, hlo, hacc, i => by
    obtain ⟨hp, hl⟩ := List.nodup_cons.mp hnd
    have hlop := hlo p List.mem_cons_self
    have hbit := testBit_add_two_pow (hacc p List.mem_cons_self)
    rw [List.foldl_cons, testBit_pages lo l _ hl (fun q hq => hlo q (List.mem_cons_of_mem _ hq)) (fun q hq => ?_), hbit]
    · have hsame : (i = p - lo) ↔ lo + i = p := by omega
      rw [Bool.or_assoc]
      congr 1
      simp [List.mem_cons, hsame]
    · have hqlo := hlo q (List.mem_cons_of_mem _ hq)
      have hne : q ≠ p := fun h => hp (h ▸ hq)
      rw [hbit, hacc q (List.mem_cons_of_mem _ hq), decide_eq_false (by omega)]
      rfl

theorem dbword_effect (s : State) : let lo := 64 * s.hub.dbidx
    ∃ (t : State) (w : Nat), exec .dbword s = .next t ∧ MemoryKept s t ∧ t.hub.dbword = w ∧ t.hub.egress = s.hub.egress ++ [.dbword w] ∧
      (s.hub.migr.Nodup → ∀ i, i < 64 → w.testBit i = decide (lo + i ∈ s.hub.migr)) ∧
      ∀ p, p ∈ t.hub.migr ↔ (p ∈ s.hub.migr ∧ (p < lo ∨ lo + 64 ≤ p)) := by
  intro lo
  refine ⟨_, s.readDbword.1, rfl, ⟨fun _ => rfl, fun _ => rfl, rfl⟩, rfl, rfl, fun hnd i hi => ?_, fun p => ?_⟩
  · have hpages := testBit_pages lo (s.hub.migr.filter (fun p => decide (lo ≤ p) && decide (p < lo + 64))) 0 (hnd.filter _)
      (fun p hp => of_decide_eq_true (Bool.and_eq_true_iff.mp (List.mem_filter.mp hp).2).1) (fun _ _ => Nat.zero_testBit _) i
    refine hpages.trans ?_
    rw [Nat.zero_testBit, Bool.false_or]
    simp [hi]
  · show p ∈ s.hub.migr.filter (fun p => !(decide (lo ≤ p) && decide (p < lo + 64))) ↔ _
    rw [List.mem_filter]
    simp

/-- Settles O57, clause by clause: rings, chains, the map, registers, islands, reads and migration bits. -/
theorem hostRegisters : Obligations.HostRegisters := by
  unfold Obligations.HostRegisters
  refine ⟨fun s cl r w hcl hr => ⟨fun t ht => ⟨?_, ringWrite_effect ht⟩, fun hnone => ?_⟩, fun s q w hq hchosen => ?_, fun s w => ?_,
    fun s p k w hp => ⟨if_pos (decide_eq_true hp), fatalClear_halted s hp⟩, fun s v c x pc xlat w => ?_, fun s n w temp hn => ?_,
    fun s a n vdev q off bs => ?_, dbword_effect⟩
  · rw [exec_ringcfgWrite w s hcl hr, ht]; rfl
  · rw [exec_ringcfgWrite w s hcl hr, hnone]; rfl
  · exact ⟨_, exec_wqchainWrite w s hq, wqchain_effect hchosen⟩
  · intro new changed
    have hsome : (s.changed new).any s.references = true ↔ ∃ d ∈ changed, s.references d = true := List.any_eq_true
    have hnone : (s.changed new).any s.references = false ↔ ∀ d ∈ changed, s.references d = false := by
      simp only [List.any_eq_false, Bool.not_eq_true]
      exact Iff.rfl
    refine ⟨fun hto hok hrefs => vdiemap_first hto hok (hnone.mpr hrefs), fun hto hbad => ?_, fun q hto => ⟨fun hmay => ?_, fun hbad => ?_⟩⟩
    · rw [exec_vdiemap_first w hto]
      dsimp only
      rcases hbad with hbad | hbad
      · rw [show mapOk (bits w.toNat 7 0) = false from hbad]; rfl
      · rw [hsome.mpr hbad, Bool.not_true, Bool.and_false]; rfl
    · obtain ⟨hmap, hcore, hl2⟩ := remap_rest s new
      refine ⟨_, (exec_vdiemap_again hto).trans (if_pos (by rw [hmay]; simp [new])), hmap, rfl, hcore, hl2, fun hnew hold hwf a => ?_⟩
      exact byte_remap hnew hold hwf a
    · rw [exec_vdiemap_again hto]
      dsimp only
      rw [mayRemap_false hto hbad, Bool.and_false]
      rfl
  · exact ⟨fun hv => if_pos (decide_eq_true hv), fun p cl q => chmask_written w s, startContext_effect xlat⟩
  · exact ⟨vfctl_effect hn w, fun p hp => cap_effect hn hp, pointChange_effect hn, thermalStep_effect hn temp⟩
  · refine ⟨fun hup => ⟨fun _ => device_written hup, staging_written hup, device_read hup, status_read hup, fun hv hq hown hn hoff =>
      other_window_read hup hv hq hown hn hoff⟩, fun p cl k => control_read s n, rfl, bootstat_read s, fun h => failed_boot h a n vdev q off bs⟩

end Sys2Proof.Machine
end

section
/-!
O54, refuted by the twin launches of O26: the copy of a preload's strand writes a bank whose cluster's undo log is full, which leaves the
second of two launches of one name in the place of the first, and the preload that has run is then counted on the second.
-/

namespace Sys2Proof.Machine

open Sys2Proof

/-- What a computation gives, or another value where it stops. -/
def okD {ε α : Type} (e : Except ε α) (d : α) : α :=
  match e with
  | .ok a => a
  | .error _ => d

theorem eq_okD {ε α β : Type} {e : Except ε (α × β)} (h : e.isOk = true) (d : α × β) : e = .ok ((okD e d).1, (okD e d).2) := by
  cases e with
  | ok a => rfl
  | error _ => cases h

theorem ok_fst {ε α β : Type} {e : Except ε (α × β)} {a b : α} {c : β} (h : e = .ok (a, c)) (hab : a = b) : e = .ok (b, c) := hab ▸ h

/-! ### A preload of a launch with a twin -/

/-- The chain of a preload at the strand at the start of core 0's slot 0. -/
def twinChain : Chain :=
  { id := 0, chan := 0, core := 0, ctx := 0, born := 0, part := 0, q := 0, ident := 0, cur := 0x1000000000000000, prev := 0, first := true
    begun := false, lane := none, stamp := 0, cancelled := false, xlat := 0, level := 1, unit := some (0, 0), mode := 1, queue := 0, rank := 0
    again := false }

/-- The launch that its name finds: no unit of it is preloaded yet. -/
def firstTwin : Launch := { someLaunch with phase := 2, preload := 0 }

/-- A last strand that copies 64 bytes within the slot, from 0x100 to 0x200. -/
def twinStrand : Nat := 0x1000000000000100 * 256 ^ 8 + 0x1000000000000200 * 256 ^ 16 + 0x80000040 * 256 ^ 32

/-- The twin launches of O26, the second with five units preloaded, and the preload of the first on its channel. -/
def twinPreload : State :=
  { twinLaunches.bankRaw 5 0 64 twinStrand with
    launches := [firstTwin, { someLaunch with preload := 5 }], chains := [twinChain], running := [(0, 0)] }

/-- Its agent, and what the strand goes through: it is read, charged and checked, and copies. -/
abbrev twinAgent : Agent := twinPreload.chainAgent twinChain

abbrev twinWalked : State := twinPreload.endWalks twinAgent

def twinRead : Nat × State := okD (twinWalked.readStrand twinAgent twinChain.cur) (0, twinWalked)

abbrev twinCharged : State := twinRead.2.chargeStrand twinChain (cdiv (strandLen twinRead.1) 64)

def twinChecked : Nat × State := okD (twinCharged.strandCheck twinAgent false twinRead.1) (0, twinCharged)

def twinNext : Nat × State :=
  okD ((twinChecked.2.copyStrand (twinPreload.chainAgent twinChain) twinRead.1 twinChecked.1).2.2.bulkRead
    ((twinChecked.2.copyStrand (twinPreload.chainAgent twinChain) twinRead.1 twinChecked.1).2.2.chainAgent twinChain) twinChain.cur 8) (1, twinWalked)

theorem twinRead_eq : twinWalked.readStrand twinAgent twinChain.cur = .ok (twinRead.1, twinRead.2) := eq_okD (by decide +kernel) _

theorem twinChecked_eq : twinCharged.strandCheck twinAgent false twinRead.1 = .ok (twinChecked.1, twinChecked.2) := eq_okD (by decide +kernel) _

theorem twinNext_eq : (twinChecked.2.copyStrand (twinPreload.chainAgent twinChain) twinRead.1 twinChecked.1).2.2.bulkRead
    ((twinChecked.2.copyStrand (twinPreload.chainAgent twinChain) twinRead.1 twinChecked.1).2.2.chainAgent twinChain) twinChain.cur 8 = .ok (0, twinNext.2) :=
  ok_fst (eq_okD (by decide +kernel) (1, twinWalked)) (by decide +kernel)

/-- Units of a launch that have been preloaded, after an outcome. -/
def preloadAfter (u : Nat × Nat) (o : Out) : Option Nat :=
  match o with
  | .next t => (t.launch? u).map (fun l => l.preload)
  | _ => none

/-- Six units count as preloaded once the strand has run. -/
theorem preloadAfter_twin : preloadAfter (0, 0) (exec (.preloadRun 0 0) twinPreload) = some 6 := by decide +kernel

/-- Refutes O54: of two launches of one name, the first with no unit preloaded and the second with five, a strand of a preload that
writes a bank whose undo log is full leaves six preloaded, not one. -/
theorem not_recordsAndLaunches : ¬ Obligations.RecordsAndLaunches := by
  unfold Obligations.RecordsAndLaunches
  rintro ⟨-, -, -, hrun, -⟩
  have hpreload := ((hrun 0 0 twinPreload firstTwin (by decide +kernel)).1 rfl).2 twinChain (by decide +kernel) (by decide +kernel) rfl
  have hstrand := (hpreload.2 (by decide +kernel) (by decide +kernel) (by decide +kernel)).2 twinRead.1 twinRead.2 twinRead_eq
  have hcopy := (hstrand.2 (by decide +kernel)).2 twinChecked.1 twinChecked.2 twinChecked_eq (by decide +kernel)
  obtain ⟨t, l, ht, -, hl, hcount, -⟩ := hcopy.2.2 twinNext.2 (by decide +kernel) twinNext_eq
  have hafter := preloadAfter_twin
  rw [ht] at hafter
  simp only [preloadAfter, hl, Option.map_some, hcount] at hafter
  cases hafter

end Sys2Proof.Machine
end

section
/-!
O47, refuted by twin launches as O26 is: a collective ends on its two units in turn, and the second unit's write, which finds its
cluster's undo log full, leaves the second of two launches of one name in the place of the first. Where that one has the first unit
switched out, the first unit's record is another one, in which its part has not ended.
-/

namespace Sys2Proof.Machine

open Sys2Proof

/-- A sum of sixteen i32 under identifier 9, from offset 0x100 of a unit's slot 0 to offset 0x200. -/
def sumDesc : Nat := 2 * 256 + 64 * 256 ^ 4 + 0x1000000000000100 * 256 ^ 8 + 0x1000000000000200 * 256 ^ 16 + 9 * 256 ^ 24

/-- The part of the unit on a core in it. -/
def sumPart (c : Nat) : Work :=
  { id := 10 + c, core := c, ctx := 0, born := 0, part := 0, q := 5, ident := 9, desc := 0x1000000000000000, bad := none, xlat := 0, level := 0
    unit := some (0, 0) }

/-- The launch that its name finds, and its twin, of which a unit stands switched out of core 0. -/
def presentTwin : Launch := { someLaunch with phase := 2 }

def parkedTwin : Launch :=
  { someLaunch with parked := [{ rank := 5, core := 0, base := 0, reos := false, released := false, arrived := false, barDone := false
                                 record := [], banks := [], heir := none }] }

/-- Cores 0 and 1 run units of the twins, with banks 5 and 6 in their slots 0, both parts of the sum given, and one line left in the
cluster's undo log. -/
def twinSum : State :=
  let t := twinLaunches.setHitch 6 { Hitch.reset with st := .hitched, owner := some (0, 0), holder := 1 }
  let t := t.setCore 1 { t.core 1 with
    unit := some (0, 0), slots := [(0, 6)], frame := some { ctxs := [], d := [], tiles := [], held := [], barDone := false } }
  let t := t.setCluster 0 { t.cluster 0 with undo := List.replicate 2687 { line := 0, old := 0, tag := 0, bad := [] } }
  { (t.bankRaw 5 0 64 sumDesc).bankRaw 6 0 64 sumDesc with launches := [presentTwin, parkedTwin], colls := [sumPart 0, sumPart 1] }

/-- What is noted of a unit's work after an outcome: its core's record, and whether a message of it waits at Finish. -/
def notedAfter (c : Nat) (u : Option (Nat × Nat)) (o : Out) : Option (List (Nat × Bool) × List Bool) :=
  match o with
  | .next t => some (t.recordFor c u, t.posts.map Post.atCore)
  | _ => none

/-- After the sum the unit on core 0 has an empty record, and no message waits. -/
theorem notedAfter_twinSum : notedAfter 0 (some (0, 0)) (exec (.collectiveFinish 0 0 9) twinSum) = some ([], []) := by decide +kernel

/-- Refutes O47: of two launches of one name, the second with a unit switched out of core 0, a collective whose last write fills the undo
log's cluster leaves no trace of its end on core 0. -/
theorem not_engineEvents : ¬ Obligations.EngineEvents := by
  unfold Obligations.EngineEvents
  rintro ⟨-, -, -, hcoll, -⟩
  obtain ⟨t, ht, -, hended⟩ := hcoll 0 0 9 twinSum presentTwin [sumPart 0, sumPart 1] (by decide +kernel) (by decide +kernel)
    (by decide +kernel) (by decide +kernel) (by decide +kernel)
  have hnoted := notedAfter_twinSum
  rw [ht] at hnoted
  obtain ⟨hrecord, hposts⟩ := Prod.mk.inj (Option.some.inj hnoted)
  rcases hended (sumPart 0) (by simp) with hin | ⟨p, hp, -⟩
  · rw [show t.recordFor (sumPart 0).core (sumPart 0).unit = [] from hrecord] at hin
    cases hin
  · rw [List.map_eq_nil_iff.mp hposts] at hp
    cases hp

end Sys2Proof.Machine
end

section
/-!
What the end of a launch changes: its cores stop, its work is cancelled, and no memory, queue, slot or register of another core changes
(R201, R230 to R232, R256, R335).
-/

namespace Sys2Proof.Machine

open Sys2Proof

/-- No context comes alive, and no matrix queue fills. -/
structure OnlyStops (s t : State) : Prop where
  live : ∀ c x, (s.ctx c x).live = false → (t.ctx c x).live = false
  mq : ∀ c, (s.core c).mq = [] → (t.core c).mq = []

theorem OnlyStops.refl (s : State) : OnlyStops s s := ⟨fun _ _ h => h, fun _ h => h⟩

theorem OnlyStops.trans {s t u : State} (hst : OnlyStops s t) (htu : OnlyStops t u) : OnlyStops s u :=
  ⟨fun c x h => htu.live c x (hst.live c x h), fun c h => htu.mq c (hst.mq c h)⟩

theorem onlyStops_of_cores {s t : State} (h : t.cores = s.cores) : OnlyStops s t := by
  have hcore (c : Nat) : t.core c = s.core c := by rw [State.core, h]; rfl
  exact ⟨fun c x hl => by rw [State.ctx, hcore]; exact hl, fun c hm => by rw [hcore]; exact hm⟩

theorem onlyStops_setCore (s : State) (c : Nat) {k : Core} (hctxs : k.ctxs = (s.core c).ctxs) (hmq : (s.core c).mq = [] → k.mq = []) :
    OnlyStops s (s.setCore c k) := by
  refine ⟨fun d x h => by rw [ctx_setCore_ctxs hctxs]; exact h, fun d h => ?_⟩
  by_cases hd : d = c
  · subst hd; rw [State.core_setCore_self]; exact hmq h
  · rw [State.core_setCore_ne _ _ _ _ hd]; exact h

theorem onlyStops_setCtx (s : State) (c x : Nat) {k : Ctx} (hlive : (s.ctx c x).live = false → k.live = false) : OnlyStops s (s.setCtx c x k) := by
  refine ⟨fun d y h => ?_, fun d h => ?_⟩
  · by_cases hd : d = c
    · subst hd
      by_cases hy : y = x
      · subst hy; rw [State.ctx_setCtx_self]; exact hlive h
      · rw [State.ctx_setCtx_ne _ _ _ _ _ hy]; exact h
    · rw [State.ctx_setCtx_core_ne _ _ _ _ _ _ hd]; exact h
  · by_cases hd : d = c
    · subst hd
      exact (congrArg Core.mq (State.core_setCore_self s d _)).trans h
    · exact (congrArg Core.mq (State.core_setCore_ne s c d _ hd)).trans h

theorem onlyStops_endTicket (s : State) (c x : Nat) : OnlyStops s (s.endTicket c x) := by
  unfold State.endTicket
  dsimp only
  split
  · exact onlyStops_setCtx s c x fun h => h
  · exact (onlyStops_setCtx s c x (k := { s.ctx c x with ticket := none, claims := [], grants := [], txOpen := false, lostDies := [] })
      fun h => h).trans (onlyStops_of_cores rfl)

theorem onlyStops_stopCtx (s : State) (c x : Nat) : OnlyStops s (s.stopCtx c x) :=
  ((onlyStops_endTicket s c x).trans (onlyStops_setCore _ c (by rfl) fun h => h : OnlyStops _ ((s.endTicket c x).freeTraps c x))).trans
    (onlyStops_setCtx _ c x fun _ => rfl)

theorem cores_endProducer (s : State) (r : Nat) : (s.endProducer r).cores = s.cores := by
  unfold State.endProducer
  dsimp only
  split <;> rfl

theorem onlyStops_reosOf (s : State) (c : Nat) : OnlyStops s (s.reosOf c) := by
  unfold State.reosOf
  dsimp only
  split
  · exact OnlyStops.refl s
  · split
    · exact OnlyStops.refl s
    · refine OnlyStops.trans ?_ (onlyStops_of_cores (cores_endProducer _ _))
      exact onlyStops_setCore s c (by rfl) fun h => h

theorem onlyStops_stopCore (s : State) (c : Nat) (fatal : Bool) : OnlyStops s (s.stopCore c fatal) :=
  ((State.each_ind (P := OnlyStops s) (fun t x ht => ht.trans (onlyStops_stopCtx t c x)) (OnlyStops.refl s) _).trans
    (onlyStops_reosOf _ c)).trans (onlyStops_setCore _ c (by rfl) fun _ => rfl)

theorem mq_stopCore (s : State) (c : Nat) (fatal : Bool) : ((s.stopCore c fatal).core c).mq = [] :=
  congrArg Core.mq (State.core_setCore_self _ c _)

theorem onlyStops_endAway (s : State) (c : Nat) (p : Away → Bool) : OnlyStops s (s.endAway c p) :=
  (onlyStops_setCore s c (k := { s.core c with
    out := (s.core c).out.filter (fun o => !p o)
    grantTable := (s.core c).grantTable.filter (fun e => !(((s.core c).out.filter p).map (·.born)).contains e.1) }) rfl fun h => h).trans
    (onlyStops_of_cores rfl)

/-- Two states that differ in what the end of launches changes at most. -/
structure WindsDown (s t : State) : Prop where
  rest : ∃ cores clusters releases posts parts launches chains running colls, t = { s with
    cores := cores, clusters := clusters, releases := releases, posts := posts, parts := parts, launches := launches, chains := chains
    running := running, colls := colls }
  hitch : t.hitch = s.hitch
  partOf : ∀ c, t.partOf c = s.partOf c
  part : ∀ p, ∃ d, t.part p = { s.part p with deadline := d }
  stops : OnlyStops s t

theorem WindsDown.refl (s : State) : WindsDown s s := ⟨⟨_, _, _, _, _, _, _, _, _, rfl⟩, rfl, fun _ => rfl, fun _ => ⟨_, rfl⟩, OnlyStops.refl s⟩

theorem WindsDown.trans {s t u : State} (hst : WindsDown s t) (htu : WindsDown t u) : WindsDown s u := by
  refine ⟨?_, htu.hitch.trans hst.hitch, fun c => (htu.partOf c).trans (hst.partOf c), fun p => ?_, hst.stops.trans htu.stops⟩
  · obtain ⟨_, _, _, _, _, _, _, _, _, ht⟩ := hst.rest
    obtain ⟨_, _, _, _, _, _, _, _, _, hu⟩ := htu.rest
    exact ⟨_, _, _, _, _, _, _, _, _, by rw [hu, ht]⟩
  · obtain ⟨d, hd⟩ := hst.part p
    obtain ⟨e, he⟩ := htu.part p
    exact ⟨e, by rw [he, hd]⟩

theorem BanksStay.windsDown {s t : State} (h : BanksStay s t) (hs : OnlyStops s t) : WindsDown s t := by
  obtain ⟨⟨_, _, _, _, ht⟩, hh, hp⟩ := h
  exact ⟨⟨_, _, _, _, _, _, _, _, _, ht⟩, hh, hp, fun p => ⟨_, by rw [ht]; rfl⟩, hs⟩

theorem windsDown_stopCore (s : State) (c : Nat) (fatal : Bool) : WindsDown s (s.stopCore c fatal) :=
  (banksStay_stopCore s c fatal).windsDown (onlyStops_stopCore s c fatal)

theorem windsDown_endAway (s : State) (c : Nat) (p : Away → Bool) : WindsDown s (s.endAway c p) :=
  BanksStay.windsDown ⟨⟨_, _, _, _, rfl⟩, rfl, fun _ => rfl⟩ (onlyStops_endAway s c p)

theorem windsDown_endOut (s : State) (c : Nat) (u : Nat × Nat) : WindsDown s (s.endOut c u) := windsDown_endAway s c _

theorem windsDown_endProducer (s : State) (r : Nat) : WindsDown s (s.endProducer r) :=
  (banksStay_endProducer s r).windsDown (onlyStops_of_cores (cores_endProducer s r))

theorem windsDown_setLaunch (s : State) (l : Launch) : WindsDown s (s.setLaunch l) :=
  ⟨⟨_, _, _, _, _, _, _, _, _, rfl⟩, rfl, fun _ => rfl, fun _ => ⟨_, rfl⟩, onlyStops_of_cores rfl⟩

theorem windsDown_cancelWork (s : State) (u : Nat × Nat) : WindsDown s (s.cancelWork u) :=
  ⟨⟨_, _, _, _, _, _, _, _, _, rfl⟩, rfl, fun _ => rfl, fun _ => ⟨_, rfl⟩, onlyStops_of_cores rfl⟩

theorem State.part_setPart (s : State) (p q : Nat) (k : Part) : (s.setPart p k).part q = if q = p then k else s.part q := by
  split
  · next h => subst h; exact Tab.getD_put_self _ _ _ _
  · next h => exact Tab.getD_put_ne _ _ _ _ _ h

theorem windsDown_deadline (s : State) (p : Nat) (d : Option Deadline) : WindsDown s (s.setPart p { s.part p with deadline := d }) := by
  refine ⟨⟨_, _, _, _, _, _, _, _, _, rfl⟩, rfl, fun _ => rfl, fun q => ?_, onlyStops_of_cores rfl⟩
  rw [State.part_setPart]
  split
  · next h => subst h; exact ⟨_, rfl⟩
  · exact ⟨_, rfl⟩

theorem windsDown_hurry (s : State) (q : Nat) : WindsDown s (s.hurry q) := by
  unfold State.hurry
  dsimp only
  split
  · split
    · exact windsDown_deadline s _ _
    · exact WindsDown.refl s
  · exact WindsDown.refl s

theorem windsDown_dropParked (s : State) (u : Nat × Nat) (p : Parked) : WindsDown s (s.dropParked u p) := by
  unfold State.dropParked
  dsimp only
  refine WindsDown.trans ?_ (windsDown_endOut _ _ _)
  split
  · split
    · exact WindsDown.refl s
    · exact windsDown_endProducer s _
  · exact WindsDown.refl s

theorem windsDown_each {α : Type} {f : State → α → State} (hf : ∀ s a, WindsDown s (f s a)) (s : State) (xs : List α) : WindsDown s (s.each xs f) :=
  State.each_ind (P := WindsDown s) (fun t a ht => ht.trans (hf t a)) (WindsDown.refl s) xs

theorem windsDown_stopIf (s : State) (c : Nat) (u : Nat × Nat) :
    WindsDown s (if (s.core c).unit == some u then (s.stopCore c false).endOut c u else s) := by
  split
  · exact (windsDown_stopCore s c false).trans (windsDown_endOut _ c u)
  · exact WindsDown.refl s

theorem windsDown_endLaunch (s : State) (u : Nat × Nat) (status : Nat) : WindsDown s (s.endLaunch u status) := by
  unfold State.endLaunch
  split
  · exact WindsDown.refl s
  · split
    · exact WindsDown.refl s
    · dsimp only
      refine WindsDown.trans ?_ (windsDown_each (fun t c => windsDown_stopIf t c u) _ _)
      refine WindsDown.trans ?_ (windsDown_each (fun t p => windsDown_dropParked t u p) _ _)
      refine WindsDown.trans ?_ (windsDown_cancelWork _ u)
      split
      · exact WindsDown.trans (windsDown_setLaunch s _) (windsDown_hurry _ _)
      · exact windsDown_setLaunch s _

end Sys2Proof.Machine
end

section
/-!
O56: eviction deadlines and allowances. What discarding a queue changes comes from the end of its launches; a decision's answer writes the
request's bytes and the result register; a refill changes balances alone.
-/

namespace Sys2Proof.Machine

open Sys2Proof

/-! ### Bulk writes -/

/-- Two states that differ in what the writing of data changes at most: of the cores only in their TLBs. -/
structure DataOnly (s t : State) : Prop where
  rest : ∃ cores clusters launches nonce mem bad banks badBank tags parts hub net, t = { s with
    cores := cores, clusters := clusters, launches := launches, nonce := nonce, mem := mem, badMem := bad, banks := banks, badBank := badBank
    tags := tags, parts := parts, hub := hub, net := net }
  core : ∀ c, ∃ l1, t.core c = { s.core c with l1 := l1 }

theorem DataOnly.refl (s : State) : DataOnly s s := ⟨⟨_, _, _, _, _, _, _, _, _, _, _, _, rfl⟩, fun _ => ⟨_, rfl⟩⟩

theorem DataOnly.trans {s t u : State} (hst : DataOnly s t) (htu : DataOnly t u) : DataOnly s u := by
  refine ⟨?_, fun c => ?_⟩
  · obtain ⟨_, _, _, _, _, _, _, _, _, _, _, _, ht⟩ := hst.rest
    obtain ⟨_, _, _, _, _, _, _, _, _, _, _, _, hu⟩ := htu.rest
    exact ⟨_, _, _, _, _, _, _, _, _, _, _, _, by rw [hu, ht]⟩
  · obtain ⟨l1, ht⟩ := hst.core c
    obtain ⟨l2, hu⟩ := htu.core c
    exact ⟨l2, by rw [hu, ht]⟩

theorem DataOnly.ctx {s t : State} (h : DataOnly s t) (c x : Nat) : t.ctx c x = s.ctx c x := by
  obtain ⟨l1, hc⟩ := h.core c
  rw [State.ctx, hc]
  rfl

theorem Fetches.dataOnly {s t : State} (h : Fetches s t) : DataOnly s t := by
  obtain ⟨_, _, _, _, _, ht⟩ := h
  exact ⟨⟨_, _, _, _, _, _, _, _, _, _, _, _, ht⟩, fun c => ⟨_, by rw [ht]; rfl⟩⟩

theorem LogsOnly.dataOnly {s t : State} (h : LogsOnly s t) : DataOnly s t := by
  rw [LogsOnly] at h
  exact ⟨⟨_, _, _, _, _, _, _, _, _, _, _, _, h⟩, fun c => ⟨_, by rw [h]; rfl⟩⟩

theorem dataOnly_mixTag (s : State) (pkg r : Nat) : DataOnly s (s.mixTag pkg r) := by
  have h := s.mixTag_rest pkg r
  exact ⟨⟨_, _, _, _, _, _, _, _, _, _, _, _, h⟩, fun c => ⟨_, by rw [h]; rfl⟩⟩

theorem dataOnly_bankRaw (s : State) (pkg off n v : Nat) : DataOnly s (s.bankRaw pkg off n v) :=
  ⟨⟨_, _, _, _, _, _, _, _, _, _, _, _, rfl⟩, fun _ => ⟨_, rfl⟩⟩

theorem dataOnly_bankWrite (s : State) (pkg off n v : Nat) : DataOnly s (s.bankWrite pkg off n v) := by
  by_cases hn : n = 0
  · rw [State.bankWrite, if_pos hn]
    exact DataOnly.refl s
  · obtain ⟨t, hlogs, ht⟩ := s.bankWrite_eq pkg off v hn
    rw [ht]
    exact ((hlogs.dataOnly.trans (dataOnly_bankRaw t pkg off n v)).trans (dataOnly_mixTag _ _ _)).trans (dataOnly_mixTag _ _ _)

theorem dataOnly_bankLines (pkg k : Nat) : ∀ (s : State) (off n v : Nat), DataOnly s (s.bankLines pkg k off n v) := by
  induction k with
  | zero => exact fun s _ _ _ => DataOnly.refl s
  | succ k ih =>
    intro s off n v
    unfold State.bankLines
    split
    · exact DataOnly.refl s
    · exact (dataOnly_bankWrite _ _ _ _ _).trans (ih _ _ _ _)

theorem dataOnly_pieceWrite (s : State) (g : Agent) (p : Piece) (v : Nat) : DataOnly s (s.pieceWrite g p v) := by
  cases p with
  | bank pkg off n => exact dataOnly_bankLines _ _ _ _ _ _
  | dev a n h => exact (fetches_devWrite s a n _).dataOnly
  | peer a n l => exact ⟨⟨_, _, _, _, _, _, _, _, _, _, _, _, rfl⟩, fun _ => ⟨_, rfl⟩⟩
  | host a n => exact ⟨⟨_, _, _, _, _, _, _, _, _, _, _, _, rfl⟩, fun _ => ⟨_, rfl⟩⟩

theorem dataOnly_writePieces (g : Agent) (ps : List Piece) : ∀ (s : State) (v : Nat), DataOnly s (s.writePieces g ps v) := by
  induction ps with
  | nil => exact fun s _ => DataOnly.refl s
  | cons p ps ih => exact fun s v => (dataOnly_pieceWrite s g p _).trans (ih _ _)

theorem dataOnly_setTlb (s : State) (c : Nat) (l1 l2 : List Tlb) :
    DataOnly s ((s.setCore c { s.core c with l1 := l1 }).setCluster (clusterOf c) { s.cluster (clusterOf c) with l2 := l2 }) := by
  refine ⟨⟨_, _, _, _, _, _, _, _, _, _, _, _, rfl⟩, fun d => ?_⟩
  by_cases hd : d = c
  · subst hd
    exact ⟨l1, State.core_setCore_self s d _⟩
  · exact ⟨_, State.core_setCore_ne s c d _ hd⟩

theorem dataOnly_setDirty (s : State) (c p : Nat) (es : List Tlb) : DataOnly s (s.setDirty c p es) := by
  refine State.each_ind (P := DataOnly s) (fun t e ht => ht.trans ?_) (DataOnly.refl s) es
  split
  · exact DataOnly.refl t
  · split
    · exact (fetches_orEntries t p e.leaves 128).dataOnly
    · exact (fetches_orEntries t p e.leaves 128).dataOnly.trans (dataOnly_setTlb _ c _ _)

theorem dataOnly_bulkWrite {s t : State} {g : Agent} {p n v : Nat} (hw : s.bulkWrite g p n v = .ok t) : DataOnly s t := by
  unfold State.bulkWrite at hw
  split at hw
  · cases hw
  · cases hw
    exact (((fetches_touchPtr _ _ _ _).dataOnly.trans (dataOnly_setDirty _ _ _ _)).trans (fetches_chargePieces _ _ _).dataOnly).trans
      (dataOnly_writePieces _ _ _ _)

/-! ### Requests (R300) -/

theorem bar2Evpost_posts {s : State} {bs : List Byte} (hok : s.requestOk (ofBytes (bs.take 64)) = true) :
    ∃ (t : State) (r : EvReq), exec (.bar2Evpost bs) s = .next t ∧ MemoryKept s t ∧ t.evicts = s.evicts ++ [r] ∧
      r.bytes = ofBytes (bs.take 64) ∧ r.core = none :=
  ⟨_, _, if_pos hok, ⟨fun _ => rfl, fun _ => rfl, rfl⟩, rfl, rfl, rfl⟩

theorem bar2Evpost_refuses {s : State} {bs : List Byte} (hok : s.requestOk (ofBytes (bs.take 64)) = false) :
    ∃ t : State, exec (.bar2Evpost bs) s = .next t ∧ t.evicts = s.evicts ∧ t.hub.evResult = s.hub.evResult ++ [(0x01, 0)] :=
  ⟨_, if_neg (by rw [hok]; exact Bool.false_ne_true), rfl, rfl⟩

/-! ### Queues discarded (R334) -/

/-- Two states that differ in what discarding and disabling queues changes at most. -/
structure Discards (s t : State) : Prop where
  rest : ∃ cores clusters releases posts parts launches chains running colls queues, t = { s with
    cores := cores, clusters := clusters, releases := releases, posts := posts, parts := parts, launches := launches, chains := chains
    running := running, colls := colls, queues := queues }
  enabled : ∀ q, (s.queue q).enabled = false → (t.queue q).enabled = false
  pages : ∀ q, (t.queue q).pages = (s.queue q).pages
  part : ∀ q, ∃ d f, t.part q = { s.part q with deadline := d, freed := f }

theorem Discards.refl (s : State) : Discards s s := ⟨⟨_, _, _, _, _, _, _, _, _, _, rfl⟩, fun _ h => h, fun _ => rfl, fun _ => ⟨_, _, rfl⟩⟩

theorem Discards.trans {s t u : State} (hst : Discards s t) (htu : Discards t u) : Discards s u := by
  refine ⟨?_, fun q h => htu.enabled q (hst.enabled q h), fun q => (htu.pages q).trans (hst.pages q), fun q => ?_⟩
  · obtain ⟨_, _, _, _, _, _, _, _, _, _, ht⟩ := hst.rest
    obtain ⟨_, _, _, _, _, _, _, _, _, _, hu⟩ := htu.rest
    exact ⟨_, _, _, _, _, _, _, _, _, _, by rw [hu, ht]⟩
  · obtain ⟨d, f, hd⟩ := hst.part q
    obtain ⟨e, g, he⟩ := htu.part q
    exact ⟨e, g, by rw [he, hd]⟩

theorem WindsDown.queue {s t : State} (h : WindsDown s t) (q : Nat) : t.queue q = s.queue q := by
  obtain ⟨_, _, _, _, _, _, _, _, _, ht⟩ := h.rest
  rw [ht]
  rfl

theorem WindsDown.discards {s t : State} (h : WindsDown s t) : Discards s t := by
  refine ⟨?_, fun q hq => by rw [h.queue]; exact hq, fun q => by rw [h.queue], fun q => ?_⟩
  · obtain ⟨_, _, _, _, _, _, _, _, _, ht⟩ := h.rest
    exact ⟨_, _, _, _, _, _, _, _, _, _, ht⟩
  · obtain ⟨d, hd⟩ := h.part q
    exact ⟨d, _, hd⟩

theorem State.queue_setQueue (s : State) (q r : Nat) (k : WQueue) : (s.setQueue q k).queue r = if r = q then k else s.queue r := by
  split
  · next h => subst h; exact Tab.getD_put_self _ _ _ _
  · next h => exact Tab.getD_put_ne _ _ _ _ _ h

/-- A queue disabled. -/
def State.disable (s : State) (q : Nat) : State := s.setQueue q { s.queue q with enabled := false }

theorem State.queue_disable (s : State) (q r : Nat) : (s.disable q).queue r = if r = q then { s.queue q with enabled := false } else s.queue r :=
  s.queue_setQueue q r _

theorem discards_disable (s : State) (q : Nat) : Discards s (s.disable q) := by
  refine ⟨⟨_, _, _, _, _, _, _, _, _, _, rfl⟩, fun r hr => ?_, fun r => ?_, fun r => ⟨_, _, rfl⟩⟩
  · rw [State.queue_disable]
    split
    · rfl
    · exact hr
  · rw [State.queue_disable]
    split
    · next h => rw [h]
    · rfl

theorem windsDown_ends (s : State) (q status : Nat) : WindsDown s (s.each (s.startedOf q) (fun s l => s.endLaunch (l.queue, l.seq) status)) :=
  windsDown_each (fun t (l : Launch) => windsDown_endLaunch t (l.queue, l.seq) status) s _

theorem discardQueue_eq (s : State) (q : Nat) :
    s.discardQueue q = (s.each (s.startedOf q) (fun s l => s.endLaunch (l.queue, l.seq) 2)).disable q := rfl

theorem discards_discardQueue (s : State) (q : Nat) : Discards s (s.discardQueue q) :=
  (windsDown_ends s q 2).discards.trans (discards_disable _ q)

theorem enabled_disable (s : State) (q : Nat) : ((s.disable q).queue q).enabled = false := by
  rw [State.queue_disable, if_pos rfl]

theorem enabled_discardQueue (s : State) (q : Nat) : ((s.discardQueue q).queue q).enabled = false := enabled_disable _ q

theorem freed_discardQueue (s : State) (q p : Nat) : ((s.discardQueue q).part p).freed = (s.part p).freed := by
  obtain ⟨d, hd⟩ := (windsDown_ends s q 2).part p
  exact (congrArg Part.freed (show (s.discardQueue q).part p = _ from hd)).trans rfl

theorem discards_setPart (s : State) (p : Nat) (d : Option Deadline) (f : Nat) : Discards s (s.setPart p { s.part p with deadline := d, freed := f }) := by
  refine ⟨⟨_, _, _, _, _, _, _, _, _, _, rfl⟩, fun _ h => h, fun _ => rfl, fun q => ?_⟩
  rw [State.part_setPart]
  split
  · next h => subst h; exact ⟨_, _, rfl⟩
  · exact ⟨_, _, rfl⟩

theorem discards_freedOf (s : State) (p q : Nat) : Discards s (s.freedOf p q) := discards_setPart s p _ _

theorem freed_freedOf (s : State) (p q : Nat) : ((s.freedOf p q).part p).freed = ((s.part p).freed + (s.queue q).pages.length) % 2 ^ 48 := by
  rw [State.freedOf, State.part_setPart, if_pos rfl]

theorem discards_setStage (s : State) (p q stage : Nat) : Discards s (s.setStage p q stage) := by
  unfold State.setStage
  split
  · exact Discards.refl s
  · exact discards_setPart s p _ _

theorem freed_setStage (s : State) (p q stage : Nat) : ((s.setStage p q stage).part p).freed = (s.part p).freed := by
  unfold State.setStage
  split
  · rfl
  · rw [State.part_setPart, if_pos rfl]

theorem Discards.memoryKept {s t : State} (h : Discards s t) : MemoryKept s t := by
  obtain ⟨_, _, _, _, _, _, _, _, _, _, ht⟩ := h.rest
  exact ⟨fun a => by rw [ht], fun a => by rw [ht], by rw [ht]⟩

/-! ### Deadlines met and abandoned (R334, R335) -/

/-- A deadline that is met, or not yet. -/
theorem meet_effect (s : State) (p : Nat) :
    (∃ parts chains running lanes, s.meet p = { s with parts := parts, chains := chains, running := running, lanes := lanes }) ∧
      ∃ e d, (s.meet p).part p = { s.part p with evState := e, deadline := d } ∧ (e = (s.part p).evState ∨ e = 2) := by
  unfold State.meet
  dsimp only
  split
  · exact ⟨⟨_, _, _, _, rfl⟩, _, _, rfl, .inl rfl⟩
  · split
    · exact ⟨⟨_, _, _, _, rfl⟩, _, _, rfl, .inl rfl⟩
    · refine ⟨⟨_, _, _, _, rfl⟩, 2, none, ?_, .inr rfl⟩
      exact (State.part_setPart s p p _).trans (if_pos rfl)

theorem memoryKept_meet (s : State) (p : Nat) : MemoryKept s (s.meet p) := by
  obtain ⟨⟨_, _, _, _, ht⟩, -⟩ := meet_effect s p
  exact ⟨fun a => by rw [ht], fun a => by rw [ht], by rw [ht]⟩

theorem freed_meet (s : State) (p : Nat) : ((s.meet p).part p).freed = (s.part p).freed := by
  obtain ⟨-, e, d, ht, -⟩ := meet_effect s p
  rw [ht]

theorem queue_meet (s : State) (p q : Nat) : (s.meet p).queue q = s.queue q := by
  obtain ⟨⟨_, _, _, _, ht⟩, -⟩ := meet_effect s p
  rw [ht]
  rfl

theorem MemoryKept.trans' {s t u : State} (hst : MemoryKept s t) (htu : MemoryKept t u) : MemoryKept s u :=
  ⟨fun a => (htu.1 a).trans (hst.1 a), fun a => (htu.2.1 a).trans (hst.2.1 a), htu.2.2.trans hst.2.2⟩

/-- No chosen chain of a partition is left behind. -/
theorem chains_dropChosen {s : State} {p : Chain → Bool} {k : Chain} (hk : k ∈ (s.dropChosen p).chains) : ¬ (2 ≤ k.mode ∧ p k = true) := by
  intro ⟨hmode, hp⟩
  obtain ⟨hin, hid⟩ := List.mem_filter.mp hk
  have hmine : k.id ∈ (s.chains.filter (fun h => decide (2 ≤ h.mode) && p h)).map (·.id) :=
    List.mem_map_of_mem (List.mem_filter.mpr ⟨hin, by rw [hp, Bool.and_true]; exact decide_eq_true hmode⟩)
  rw [List.contains_iff_mem.mpr hmine] at hid
  exact Bool.false_ne_true hid

/-! ### Decisions (R333) -/

/-- What an accepted deadline does with one pick (R334). -/
def State.takePick (p : Nat) (s : State) (c : Nat × Choice) : State :=
  if c.2 == .discard then (s.discardQueue c.1).freedOf p c.1 else s.disable c.1

theorem discards_takePick (p : Nat) (s : State) (c : Nat × Choice) : Discards s (s.takePick p c) := by
  unfold State.takePick
  split
  · exact (discards_discardQueue s c.1).trans (discards_freedOf _ p c.1)
  · exact discards_disable s c.1

theorem enabled_takePick (p : Nat) (s : State) (c : Nat × Choice) : ((s.takePick p c).queue c.1).enabled = false := by
  unfold State.takePick
  split
  · exact (discards_freedOf _ p c.1).enabled _ (enabled_discardQueue s c.1)
  · exact enabled_disable s c.1

/-- A state with the deadline of a partition accepted. -/
def State.accepted (s : State) (p deadline : Nat) (pl : Plan) : State :=
  let d : Deadline := { deadline := deadline, need := pl.need, last := pl.last, worst := pl.worst, chans := pl.chans
                        ports := pl.ports, order := s.nonce, stopped := false
                        picks := pl.picks.map (fun c => (c.1, c.2, if c.2 == .discard then 2 else 0)) }
  s.setPart p { s.part p with evdl := deadline, evState := 1, freed := 0, deadline := some d }

theorem acceptDeadline_eq (s : State) (p deadline : Nat) (pl : Plan) :
    s.acceptDeadline p deadline pl = ((s.accepted p deadline pl).each pl.picks (State.takePick p)).meet p := rfl

theorem acceptDeadline_effect (s : State) (p deadline : Nat) (pl : Plan) :
    let t := s.acceptDeadline p deadline pl
    t.mem = s.mem ∧ t.evicts = s.evicts ∧ t.hub = s.hub ∧ (t.part p).evdl = deadline ∧ ((t.part p).evState = 1 ∨ (t.part p).evState = 2) ∧
      ∀ c ∈ pl.picks, (t.queue c.1).enabled = false := by
  intro t
  have hd : Discards (s.accepted p deadline pl) ((s.accepted p deadline pl).each pl.picks (State.takePick p)) :=
    State.each_ind (P := Discards (s.accepted p deadline pl)) (fun u c hu => hu.trans (discards_takePick p u c)) (Discards.refl _) _
  have hpicks (c : Nat × Choice) (hc : c ∈ pl.picks) :
      (((s.accepted p deadline pl).each pl.picks (State.takePick p)).queue c.1).enabled = false :=
    State.each_makes (P := fun _ => True) (Q := fun u => (u.queue c.1).enabled = false) (a := c) (fun _ _ h => h)
      (fun u _ => enabled_takePick p u c) (fun u b hu => (discards_takePick p u b).enabled _ hu) trivial hc
  have ht : t = ((s.accepted p deadline pl).each pl.picks (State.takePick p)).meet p := acceptDeadline_eq s p deadline pl
  generalize (s.accepted p deadline pl).each pl.picks (State.takePick p) = u at hd hpicks ht
  obtain ⟨_, _, _, _, _, _, _, _, _, _, hu⟩ := hd.rest
  obtain ⟨d, f, hpart⟩ := hd.part p
  obtain ⟨⟨_, _, _, _, hmeet⟩, e, d', hpart', he⟩ := meet_effect u p
  have hacc : (s.accepted p deadline pl).part p = _ := (State.part_setPart s p p _).trans (if_pos rfl)
  have hev : (u.part p).evdl = deadline ∧ (u.part p).evState = 1 := by rw [hpart, hacc]; exact ⟨rfl, rfl⟩
  refine ⟨by rw [ht, hmeet, hu]; rfl, by rw [ht, hmeet, hu]; rfl, by rw [ht, hmeet, hu]; rfl, ?_, ?_, fun c hc => ?_⟩
  · rw [ht, hpart']; exact hev.1
  · rw [ht, hpart', ← hev.2]
    rcases he with h | h
    · exact .inl (h.trans rfl)
    · exact .inr h
  · rw [ht, queue_meet]; exact hpicks c hc

/-- A state without the request of a number. -/
def State.unposted (s : State) (idx : Nat) : State := { s with evicts := s.evicts.filter (fun e => e.idx != idx) }

/-- A decision's result word and output (R333). -/
def State.verdict (s : State) (v : Nat) : Nat × Nat :=
  let p := fieldB v 16 1
  let pl := s.plan p (fieldB v 0 8) (fieldB v 8 8)
  if (s.part p).deadline.isSome then (3, 0) else if pl.ok then (1, pl.worst) else (2, pl.soonest)

/-- The state after a decision, before its answer. -/
def State.decided (s : State) (v : Nat) : State :=
  let p := fieldB v 16 1
  if (s.verdict v).1 = 1 then s.acceptDeadline p (fieldB v 0 8) (s.plan p (fieldB v 0 8) (fieldB v 8 8)) else s

theorem judge_eq (s : State) (v : Nat) : s.judge v = ((s.verdict v).1, (s.verdict v).2, s.decided v) := by
  unfold State.judge State.decided State.verdict
  dsimp only
  split
  · rfl
  · split <;> rfl

theorem decision_unissued {s : State} {idx : Nat} {r : EvReq} (hr : s.evicts.find? (fun e => e.idx == idx) = some r) (hcore : r.core = none) :
    exec (.evictionDecision idx) s = .next { (s.unposted idx).decided r.bytes with hub := { ((s.unposted idx).decided r.bytes).hub with
      evResult := ((s.unposted idx).decided r.bytes).hub.evResult ++
        [(((s.unposted idx).verdict r.bytes).1 * 2 ^ 62, ((s.unposted idx).verdict r.bytes).2)] } } := by
  show execEvictionDecision idx s = _
  unfold execEvictionDecision
  rw [hr]
  dsimp only
  rw [hcore]
  dsimp only
  rw [show ({ s with evicts := s.evicts.filter (·.idx != idx) } : State) = s.unposted idx from rfl, judge_eq]

theorem widen_n64 (v : Nat) : widen .n64 v = BitVec.ofNat 64 v := by
  refine BitVec.eq_of_toNat_eq ?_
  rw [show widen .n64 v = BitVec.ofNat 64 (v % 2 ^ 64) from rfl, BitVec.toNat_ofNat, BitVec.toNat_ofNat, Nat.mod_mod]

/-- The answer of a decision in the register of the context that waits for it. -/
theorem answered_effect (u : State) (c x r v : Nat) :
    let t := (u.writeReg c x (.s r) .n64 v).finishWait c x
    MemoryKept u t ∧ t.parts = u.parts ∧ t.queues = u.queues ∧
      (t.ctx c x).rs (BitVec.ofNat 5 r) = (if BitVec.ofNat 5 r = 0 then 0 else BitVec.ofNat 64 v) ∧
      RegsKept [.s (r % 32)] (u.ctx c x) (t.ctx c x) ∧ (t.ctx c x).wait = .none ∧ (t.ctx c x).pc = ((u.ctx c x).pc + 12) % 2 ^ 48 := by
  intro t
  have hrest := u.countUnits_rest c x [.s r]
  obtain ⟨us, hus⟩ := u.core_countUnits c x [.s r]
  have hctx : (u.countUnits c x [.s r]).ctx c x = u.ctx c x := by rw [State.ctx, hus]; rfl
  generalize hw : u.countUnits c x [.s r] = w at hrest hctx
  let k := (u.ctx c x).ws (BitVec.ofNat 5 r) (widen .n64 v)
  have ht : t = (w.setCtx c x k).finishWait c x := by
    show ((u.countUnits c x [.s r]).setCtx c x (((u.countUnits c x [.s r]).ctx c x).ws _ _)).finishWait c x = _
    rw [hw, hctx]
  have hme : t.ctx c x = { k with pc := (k.pc + 12) % 2 ^ 48, wait := .none, finish := none
                                  stall := ((w.setCtx c x k).core c).cc + 1 + k.finish.getD 0 } := by
    rw [ht, State.finishWait, State.ctx_setCtx_self, State.ctx_setCtx_self]
  obtain ⟨hkept, -⟩ := (u.ctx c x).ws_kept (BitVec.ofNat 5 r) (widen .n64 v)
  rw [show (BitVec.ofNat 5 r).toNat = r % 32 from BitVec.toNat_ofNat r 5] at hkept
  have hpc : k.pc = (u.ctx c x).pc := Ctx.pc_ws _ _ _
  refine ⟨?_, by rw [ht, hrest]; rfl, by rw [ht, hrest]; rfl, ?_, by rw [hme]; exact hkept, by rw [hme], by rw [hme, ← hpc]⟩
  · rw [ht, hrest]
    exact ⟨fun _ => rfl, fun _ => rfl, rfl⟩
  · rw [hme]
    refine (Ctx.rs_ws (u.ctx c x) _ _ _).trans ?_
    rw [if_pos rfl, widen_n64]

theorem decision_issued {s t0 : State} {idx c x : Nat} {r : EvReq} (hr : s.evicts.find? (fun e => e.idx == idx) = some r)
    (hcore : r.core = some (c, x)) (hlive : (((s.unposted idx).decided r.bytes).ctx c x).live = true)
    (hwait : (((s.unposted idx).decided r.bytes).ctx c x).wait = .evict idx)
    (hw : ((s.unposted idx).decided r.bytes).bulkWrite
      { stamp := ((s.unposted idx).decided r.bytes).nonce, core := c, part := ((s.unposted idx).decided r.bytes).partOf c
        vdev := ((s.unposted idx).decided r.bytes).vdevOf c, xlat := (((s.unposted idx).decided r.bytes).ctx c x).xlat.toNat
        level := (((s.unposted idx).decided r.bytes).ctx c x).level } (r.addr + 24) 8 ((s.unposted idx).verdict r.bytes).2 = .ok t0) :
    exec (.evictionDecision idx) s =
      .next ((t0.writeReg c x (.s r.reg) .n64 (((s.unposted idx).verdict r.bytes).1 * 2 ^ 62)).finishWait c x) := by
  show execEvictionDecision idx s = _
  unfold execEvictionDecision
  rw [hr]
  dsimp only
  rw [hcore]
  dsimp only
  rw [show ({ s with evicts := s.evicts.filter (·.idx != idx) } : State) = s.unposted idx from rfl, judge_eq]
  dsimp only
  rw [if_neg (by rw [hlive, hwait]; simp), hw]

/-! ### What a plan promises (R332, R333) -/

theorem takeUntil_got (need : Nat) (v : Nat → Nat) (qs : List Nat) : ∀ got,
    (takeUntil need v got qs).2 = got + ((takeUntil need v got qs).1.map v).sum := by
  induction qs with
  | nil => exact fun got => rfl
  | cons q qs ih =>
    intro got
    unfold takeUntil
    split
    · rfl
    · dsimp only
      rw [ih, List.map_cons, List.sum_cons, Nat.add_assoc]

/-- A pick marked for its checkpoint keeps its queue. -/
theorem marked_pages (s : State) (late : Nat × Choice → Bool) (c : Nat × Choice) :
    ((fun c : Nat × Choice => (s.queue c.1).pages.length) ∘ fun c => if late c = true then (c.1, .checkpoint) else c) c =
      (s.queue c.1).pages.length := by
  rw [Function.comp_apply]
  split <;> rfl

/-- A plan that is accepted frees what is asked, by a last safe moment that is not past. -/
theorem plan_ok {s : State} {p deadline vac : Nat} (hok : (s.plan p deadline vac).ok = true) :
    vac / 65536 ≤ ((s.plan p deadline vac).picks.map (fun c => (s.queue c.1).pages.length)).sum ∧
      (s.time : Int) + 2000 ≤ (s.plan p deadline vac).last := by
  unfold State.plan at hok ⊢
  dsimp only at hok ⊢
  obtain ⟨henough, hlast⟩ := Bool.and_eq_true_iff.mp hok
  obtain ⟨hneed, -⟩ := Bool.and_eq_true_iff.mp henough
  refine ⟨?_, of_decide_eq_true hlast⟩
  have hgot := of_decide_eq_true hneed
  rw [takeUntil_got, takeUntil_got, Nat.zero_add] at hgot
  refine hgot.trans (le_of_eq ?_)
  rw [List.map_map, ← List.sum_append, List.map_congr_left (fun c _ => marked_pages s _ c), List.map_append, List.map_map, List.map_map,
    takeUntil_got, Nat.zero_add]
  rfl

/-! ### An accepted deadline carried out (R334, R335) -/

theorem lastSafeMoment_stops {s : State} {p : Nat} {d : Deadline} (hd : (s.part p).deadline = some d) (hmay : s.mayStop p = true) :
    exec (.lastSafeMoment p) s = .next (s.setPart p { s.part p with deadline := some { d with stopped := true } }) := by
  show execLastSafeMoment p s = _
  unfold execLastSafeMoment
  rw [hd, hmay]
  rfl

theorem chainStart_starts {s : State} {p q : Nat} (hm : s.moveFor p q = .start) :
    ∃ (t : State) (k : Chain), exec (.deadlineChainStart p q) s = .next t ∧ MemoryKept s t ∧ t.chains = s.chains ++ [k] ∧ k.mode = 3 ∧
      k.queue = q ∧ k.part = p ∧ k.cur = (s.queue q).chainHead := by
  have hexec : exec (.deadlineChainStart p q) s = .next (s.startChosen p q) := by
    show execDeadlineChainStart p q s = _
    unfold execDeadlineChainStart
    rw [hm]
  obtain ⟨_, _, _, _, _, _, _, _, _, _, ht⟩ := (discards_setStage s p q 1).rest
  have hchains : (s.setStage p q 1).chains = s.chains := by
    unfold State.setStage
    split <;> rfl
  exact ⟨_, _, hexec, (discards_setStage s p q 1).memoryKept, congrArg (· ++ _) hchains, rfl, rfl, rfl, rfl⟩

theorem chainStart_finishes {s : State} {p q : Nat} (hm : s.moveFor p q = .finish) :
    ∃ t : State, exec (.deadlineChainStart p q) s = .next t ∧ MemoryKept s t ∧
      (t.part p).freed = ((s.part p).freed + (s.queue q).pages.length) % 2 ^ 48 := by
  have hexec : exec (.deadlineChainStart p q) s = .next ((((s.dropChosen (·.queue == q)).freedOf p q).setStage p q 2).meet p) := by
    show execDeadlineChainStart p q s = _
    unfold execDeadlineChainStart
    rw [hm]
  refine ⟨_, hexec, ?_, ?_⟩
  · exact ((discards_freedOf (s.dropChosen _) p q).trans (discards_setStage _ p q 2)).memoryKept.trans' (memoryKept_meet _ p)
  · rw [freed_meet, freed_setStage, freed_freedOf]
    rfl

theorem chainStart_discards {s : State} {p q : Nat} (hm : s.moveFor p q = .discard) :
    ∃ t : State, exec (.deadlineChainStart p q) s = .next t ∧ MemoryKept s t ∧ (t.queue q).enabled = false ∧
      (t.part p).freed = ((s.part p).freed + (s.queue q).pages.length) % 2 ^ 48 := by
  have hexec : exec (.deadlineChainStart p q) s = .next ((((s.discardQueue q).freedOf p q).setStage p q 2).meet p) := by
    show execDeadlineChainStart p q s = _
    unfold execDeadlineChainStart
    rw [hm]
  have hmore := (discards_freedOf (s.discardQueue q) p q).trans (discards_setStage _ p q 2)
  refine ⟨_, hexec, ((discards_discardQueue s q).trans hmore).memoryKept.trans' (memoryKept_meet _ p), ?_, ?_⟩
  · rw [queue_meet]
    exact hmore.enabled q (enabled_discardQueue s q)
  · rw [freed_meet, freed_setStage, freed_freedOf, freed_discardQueue, (discards_discardQueue s q).pages]

/-- A unit of a queue asked for its core, to its area (R318). -/
def State.askFor (q : Nat) (s : State) (e : Nat × Option Nat) : State :=
  match e.2 with
  | some c =>
    if (s.core c).preempt.isSome then s
    else s.setCore c { s.core c with preempt := some ((s.queue q).saveBase + e.1 * 0x200000) }
  | none => s

theorem preemptQueue_eq (s : State) (q : Nat) :
    s.preemptQueue q = s.each ((List.range (s.unitsOf q).length).zip (s.unitsOf q)) (State.askFor q) := rfl

theorem askFor_effect (q : Nat) (s : State) (e : Nat × Option Nat) :
    (∃ cores, s.askFor q e = { s with cores := cores }) ∧ ∀ c, (s.core c).preempt.isSome = true → ((s.askFor q e).core c).preempt.isSome = true := by
  obtain ⟨i, o⟩ := e
  cases o with
  | none => exact ⟨⟨_, rfl⟩, fun _ h => h⟩
  | some d =>
    unfold State.askFor
    dsimp only
    split
    · exact ⟨⟨_, rfl⟩, fun _ h => h⟩
    · refine ⟨⟨_, rfl⟩, fun c h => ?_⟩
      by_cases hc : c = d
      · subst hc; rw [State.core_setCore_self]; rfl
      · rw [State.core_setCore_ne _ _ _ _ hc]; exact h

theorem askFor_asks (q : Nat) (s : State) (i c : Nat) : ((s.askFor q (i, some c)).core c).preempt.isSome = true := by
  unfold State.askFor
  dsimp only
  split
  · assumption
  · rw [State.core_setCore_self]; rfl

theorem chainStart_preempts {s : State} {p q : Nat} (hm : s.moveFor p q = .preempt) :
    ∃ t : State, exec (.deadlineChainStart p q) s = .next t ∧ MemoryKept s t ∧ ∀ c, some c ∈ s.unitsOf q → (t.core c).preempt.isSome = true := by
  have hexec : exec (.deadlineChainStart p q) s = .next (s.preemptQueue q) := by
    show execDeadlineChainStart p q s = _
    unfold execDeadlineChainStart
    rw [hm]
  rw [preemptQueue_eq] at hexec
  obtain ⟨cores, hrest⟩ : ∃ cores, s.each ((List.range (s.unitsOf q).length).zip (s.unitsOf q)) (State.askFor q) = { s with cores := cores } := by
    refine State.each_ind (P := fun t => ∃ cores, t = { s with cores := cores }) (fun t e ht => ?_) ⟨_, rfl⟩ _
    obtain ⟨cores, ht⟩ := ht
    obtain ⟨⟨cores', h⟩, -⟩ := askFor_effect q t e
    exact ⟨cores', by rw [h, ht]⟩
  refine ⟨_, hexec, by rw [hrest]; exact ⟨fun _ => rfl, fun _ => rfl, rfl⟩, fun c hc => ?_⟩
  obtain ⟨i, hi, hget⟩ := List.mem_iff_getElem.mp hc
  have hin : (i, some c) ∈ (List.range (s.unitsOf q).length).zip (s.unitsOf q) :=
    List.mem_iff_getElem.mpr ⟨i, by simpa using hi, by simp [hget]⟩
  exact State.each_makes (P := fun _ => True) (Q := fun u => (u.core c).preempt.isSome = true) (a := (i, some c)) (fun _ _ h => h)
    (fun u _ => askFor_asks q u i c) (fun u e hu => (askFor_effect q u e).2 c hu) trivial hin

theorem chainStart_fails {s : State} {p q : Nat} {d : Deadline} (hd : (s.part p).deadline = some d) (hm : s.moveFor p q = .fail) :
    ∃ t : State, exec (.deadlineChainStart p q) s = .next t ∧ MemoryKept s t ∧ (t.part p).deadline = none ∧ (t.part p).evState = 3 ∧
      ∀ k ∈ t.chains, ¬ (2 ≤ k.mode ∧ k.part = p) := by
  have hexec : exec (.deadlineChainStart p q) s = .next (s.abandon p) := by
    show execDeadlineChainStart p q s = _
    unfold execDeadlineChainStart
    rw [hm]
  have hpart : (s.abandon p).part p = { s.part p with evState := if (s.part p).deadline.isSome then 3 else (s.part p).evState, deadline := none } :=
    (State.part_setPart s p p _).trans (if_pos rfl)
  refine ⟨_, hexec, ⟨fun _ => rfl, fun _ => rfl, rfl⟩, by rw [hpart], by rw [hpart, hd]; rfl, fun k hk h => ?_⟩
  exact chains_dropChosen hk ⟨h.1, by rw [h.2]; exact beq_self_eq_true p⟩

/-! ### Allowances (R271) -/

/-- The balances of one entry of the partition table refilled. -/
def State.refill (n : Nat) (s : State) (e : Nat × Part) : State := s.setPart e.1 { e.2 with allow := e.2.allow.map (·.refilled n) }

theorem refilled_reset (n : Nat) : Allow.reset.refilled n = Allow.reset := by
  simp [Allow.refilled, Allow.reset]

theorem Tab.not_mem_keys_of_get? {α : Type} {t : Tab α} {k : Nat} (h : Tab.get? t k = none) : k ∉ Tab.keys t := by
  induction t with
  | nil => exact List.not_mem_nil
  | cons e t ih =>
    obtain ⟨j, a⟩ := e
    rw [Tab.get?] at h
    split at h
    · cases h
    · next hj =>
      rw [Tab.keys, List.map_cons, List.mem_cons, not_or]
      exact ⟨fun hk => hj hk.symm, ih h⟩

/-- Refilling the entries of a list leaves the partitions outside it as they were. -/
theorem part_refill_ne {n p : Nat} {es : List (Nat × Part)} (hp : p ∉ es.map (·.1)) (s : State) :
    (s.each es (State.refill n)).part p = s.part p := by
  refine State.each_ind_mem (P := fun t => t.part p = s.part p) (fun t e he ht => ?_) rfl
  have hne : p ≠ e.1 := fun h => hp (h ▸ List.mem_map_of_mem he)
  rw [State.refill, State.part_setPart, if_neg hne, ht]

theorem part_refill {n p : Nat} {k : Part} {es : List (Nat × Part)} (hnd : (es.map (·.1)).Nodup) (hk : (p, k) ∈ es) (s : State) :
    (s.each es (State.refill n)).part p = { k with allow := k.allow.map (·.refilled n) } := by
  induction es generalizing s with
  | nil => cases hk
  | cons e es ih =>
    rw [List.map_cons, List.nodup_cons] at hnd
    show ((s.refill n e).each es (State.refill n)).part p = _
    rcases List.mem_cons.mp hk with rfl | hk
    · rw [part_refill_ne hnd.1, State.refill, State.part_setPart, if_pos rfl]
    · exact ih hnd.2 hk _

theorem refill_effect {s : State} (hmay : s.mayRefill = true) (hnd : (Tab.keys s.parts).Nodup) :
    ∃ t : State, exec .allowanceRefill s = .next t ∧ MemoryKept s t ∧ t.hub.refillAt = s.time / 1000 ∧
      ∀ p (i : Fin 6), (t.part p).allow[i] = ((s.part p).allow[i]).refilled (s.time / 1000 - s.hub.refillAt) := by
  let n := s.time / 1000 - s.hub.refillAt
  obtain ⟨ps, hrest⟩ : ∃ ps, s.each s.parts (State.refill n) = { s with parts := ps } := by
    refine State.each_ind (P := fun t => ∃ ps, t = { s with parts := ps }) (fun t e ht => ?_) ⟨_, rfl⟩ _
    obtain ⟨ps, ht⟩ := ht
    exact ⟨_, by rw [State.refill, ht]; rfl⟩
  let t := s.each s.parts (State.refill n)
  have hexec : exec .allowanceRefill s = .next { t with hub := { t.hub with refillAt := s.time / 1000 } } := by
    show event s s.mayRefill { t with hub := { t.hub with refillAt := s.time / 1000 } } = _
    rw [hmay]
    rfl
  refine ⟨_, hexec, by rw [show t = _ from hrest]; exact ⟨fun _ => rfl, fun _ => rfl, rfl⟩, rfl, fun p i => ?_⟩
  show (t.part p).allow[i] = _
  cases hp : Tab.get? s.parts p with
  | some k =>
    have hpart : s.part p = k := by rw [State.part, Tab.getD, hp]; rfl
    rw [show t.part p = _ from part_refill hnd (Tab.mem_of_get? hp) s, hpart]
    exact Vector.getElem_map _ _
  | none =>
    have hpart : s.part p = Part.reset := by rw [State.part, Tab.getD, hp]; rfl
    rw [show t.part p = _ from part_refill_ne (Tab.not_mem_keys_of_get? hp) s, hpart, Fin.getElem_fin]
    simp [Part.reset, refilled_reset]

/-- A result given to the host queue controls. -/
def State.tell (s : State) (w v : Nat) : State := { s with hub := { s.hub with evResult := s.hub.evResult ++ [(w, v)] } }

theorem decision_told {s : State} {idx w o : Nat} {r : EvReq} (hr : s.evicts.find? (fun e => e.idx == idx) = some r) (hcore : r.core = none)
    (hv : (s.unposted idx).verdict r.bytes = (w, o)) :
    exec (.evictionDecision idx) s = .next (((s.unposted idx).decided r.bytes).tell (w * 2 ^ 62) o) := by
  refine (decision_unissued hr hcore).trans ?_
  rw [hv]
  rfl

theorem decided_other {s : State} {v w o : Nat} (hv : s.verdict v = (w, o)) (hw : w ≠ 1) : s.decided v = s := by
  rw [State.decided, hv]
  exact if_neg hw

/-- What a decision of the host's request answers, and what an accepted one leaves (R333). -/
theorem decision_answers {s : State} {idx : Nat} {r : EvReq} (hr : s.evicts.find? (fun e => e.idx == idx) = some r) (hcore : r.core = none) :
    let u : State := { s with evicts := s.evicts.filter (fun e => e.idx != idx) }
    let p := fieldB r.bytes 16 1
    let pl := u.plan p (fieldB r.bytes 0 8) (fieldB r.bytes 8 8)
    ∃ t : State, exec (.evictionDecision idx) s = .next t ∧ t.evicts = u.evicts ∧ t.mem = s.mem ∧
      ((s.part p).deadline.isSome = true → t.parts = s.parts ∧ t.hub.evResult = s.hub.evResult ++ [(3 * 2 ^ 62, 0)]) ∧
      ((s.part p).deadline = none → pl.ok = false → t.parts = s.parts ∧ t.hub.evResult = s.hub.evResult ++ [(2 * 2 ^ 62, pl.soonest)]) ∧
      ((s.part p).deadline = none → pl.ok = true → (t.part p).evdl = fieldB r.bytes 0 8 ∧
        ((t.part p).evState = 1 ∨ (t.part p).evState = 2) ∧ t.hub.evResult = s.hub.evResult ++ [(2 ^ 62, pl.worst)] ∧
        ∀ c ∈ pl.picks, (t.queue c.1).enabled = false) := by
  intro u p pl
  have hv : (s.unposted idx).verdict r.bytes = if (s.part p).deadline.isSome then (3, 0) else if pl.ok then (1, pl.worst) else (2, pl.soonest) := rfl
  by_cases hbusy : (s.part p).deadline.isSome = true
  · rw [if_pos hbusy] at hv
    have hexec := decision_told hr hcore hv
    rw [decided_other hv (by decide)] at hexec
    have hsome : (s.part p).deadline ≠ none := fun h => Option.isSome_iff_ne_none.mp hbusy h
    exact ⟨_, hexec, rfl, rfl, fun _ => ⟨rfl, rfl⟩, fun h => absurd h hsome, fun h => absurd h hsome⟩
  · rw [if_neg hbusy] at hv
    by_cases hok : pl.ok = true
    · rw [if_pos hok] at hv
      have hexec := decision_told hr hcore hv
      have hdec : (s.unposted idx).decided r.bytes = u.acceptDeadline p (fieldB r.bytes 0 8) pl := by
        rw [State.decided, hv]
        exact if_pos rfl
      have heff := acceptDeadline_effect u p (fieldB r.bytes 0 8) pl
      rw [hdec, Nat.one_mul] at hexec
      generalize u.acceptDeadline p (fieldB r.bytes 0 8) pl = w at hexec heff
      obtain ⟨hmem, hevicts, hhub, hevdl, hev, hpicks⟩ := heff
      refine ⟨_, hexec, hevicts, hmem, fun h => absurd h hbusy, fun _ h => absurd hok (ne_of_eq_of_ne h Bool.false_ne_true),
        fun _ _ => ⟨hevdl, hev, ?_, hpicks⟩⟩
      exact congrArg (fun h : Hub => h.evResult ++ [(2 ^ 62, pl.worst)]) hhub
    · rw [if_neg hok] at hv
      have hexec := decision_told hr hcore hv
      rw [decided_other hv (show (2 : Nat) ≠ 1 by decide)] at hexec
      exact ⟨_, hexec, rfl, rfl, fun h => absurd h hbusy, fun _ _ => ⟨rfl, rfl⟩, fun _ h => absurd h hok⟩

/-- Settles O56, from the effects above of each event of a deadline and of the refill. -/
theorem evictionDeadlines : Obligations.EvictionDeadlines := by
  unfold Obligations.EvictionDeadlines
  refine ⟨fun bs s => ⟨bar2Evpost_posts, bar2Evpost_refuses⟩, ?_, ?_, fun s p deadline vac => plan_ok, ?_, fun s hmay hnd => refill_effect hmay hnd⟩
  · exact fun idx s r => decision_answers
  · intro idx c x s r hr hcore u p pl a v k g t0 hc hlive hwait hw
    have hexec := decision_issued hr hcore hlive hwait hw
    obtain ⟨hkept, hparts, hqueues, hrs, hregs, hwait', hpc⟩ := answered_effect t0 c x r.reg (((s.unposted idx).verdict r.bytes).1 * 2 ^ 62)
    rw [(dataOnly_bulkWrite hw).ctx c x] at hregs hpc
    exact ⟨_, hexec, hkept, hparts, hqueues, hrs, hregs, hwait', hpc⟩
  · intro p q s d hd
    exact ⟨lastSafeMoment_stops hd, chainStart_starts, chainStart_finishes, chainStart_discards, chainStart_preempts, chainStart_fails hd⟩

end Sys2Proof.Machine
end

section
/-!
What teardowns, die resets and wipes leave: the partition of each cluster, the memory, the banks, and the cores that run nothing (R213, R228,
R278, R322).
-/

namespace Sys2Proof.Machine

open Sys2Proof

/-! ### The partition of every cluster -/

/-- Every cluster belongs to the partition that it did. -/
def Belongs (s t : State) : Prop := ∀ r, (t.cluster r).part = (s.cluster r).part

theorem Belongs.refl (s : State) : Belongs s s := fun _ => rfl

theorem Belongs.trans {s t u : State} (hst : Belongs s t) (htu : Belongs t u) : Belongs s u := fun r => (htu r).trans (hst r)

theorem belongs_of_clusters {s t : State} (h : t.clusters = s.clusters) : Belongs s t := fun r => by rw [State.cluster, h]; rfl

theorem belongs_setCluster (s : State) (r : Nat) {k : Cluster} (hk : k.part = (s.cluster r).part) : Belongs s (s.setCluster r k) := by
  intro q
  rw [State.cluster_setCluster]
  split
  · next h => rw [h]; exact hk
  · rfl

theorem belongs_each {α : Type} {f : State → α → State} (hf : ∀ s a, Belongs s (f s a)) (s : State) (xs : List α) : Belongs s (s.each xs f) :=
  State.each_ind (P := Belongs s) (fun t a ht => ht.trans (hf t a)) (Belongs.refl s) xs

theorem belongs_setHitch (s : State) (pkg : Nat) (h : Hitch) : Belongs s (s.setHitch pkg h) := belongs_setCluster s _ rfl

theorem belongs_freeBank (s : State) (pkg : Nat) : Belongs s (s.freeBank pkg) := by
  have hplace (t : State) : Belongs t (t.unplace pkg) := by
    unfold State.unplace
    split
    · exact Belongs.refl t
    · exact belongs_of_clusters rfl
  exact ((belongs_setHitch s pkg _).trans (hplace _)).trans (belongs_setCluster _ _ rfl)

theorem belongs_reoutbound (s : State) (c slot pkg status : Nat) : Belongs s (s.reoutbound c slot pkg status) := by
  unfold State.reoutbound
  split
  · split
    · exact belongs_of_clusters rfl
    · exact Belongs.refl s
  · exact Belongs.refl s

theorem belongs_boundBank (s : State) (c : Nat) (kept : List Nat) (pkg : Nat) : Belongs s (s.boundBank c kept pkg) := by
  unfold State.boundBank
  dsimp only
  split
  · exact belongs_freeBank s pkg
  · split
    · exact belongs_setHitch s pkg _
    · split
      · exact (belongs_reoutbound s c _ _ _).trans (belongs_freeBank _ pkg)
      · exact Belongs.refl s

theorem SlotsMove.belongs {c : Nat} {s t : State} (h : SlotsMove c s t) : Belongs s t := by
  obtain ⟨_, _, _, rfl, -⟩ := h
  exact belongs_of_clusters rfl

theorem belongs_boundary (s : State) (c : Nat) : Belongs s (s.boundary c) := by
  have hbound : Belongs s (s.boundBanks c ((s.setAside c).map (·.2))) := belongs_each (fun t pkg => belongs_boundBank t c _ pkg) s _
  refine Belongs.trans ?_ (slotsMove_reslot _ c).belongs
  exact (hbound.trans (slotsMove_emptySlots _ c).belongs).trans (belongs_of_clusters rfl)

theorem belongs_wipeOne (s : State) (c : Nat) : Belongs s (s.wipeOne c) :=
  ((belongs_of_clusters rfl : Belongs s (s.endAway c (fun _ => true))).trans (belongs_boundary _ c)).trans (belongs_of_clusters rfl)

theorem belongs_wipeBank (s : State) (pkg : Nat) : Belongs s (s.wipeBank pkg) := by
  have hun : Belongs s (s.unhitch pkg) := by
    unfold State.unhitch
    split
    · exact belongs_of_clusters rfl
    · exact Belongs.refl s
  exact (hun.trans (belongs_freeBank _ pkg)).trans (belongs_of_clusters rfl)

theorem belongs_wipeCluster (s : State) (r : Nat) : Belongs s (s.wipeCluster r) := by
  have hwiped : Belongs s ((s.wipeCores r).wipeBanks r) := (belongs_each belongs_wipeOne s _).trans (belongs_each belongs_wipeBank _ _)
  rw [wipeCluster_eq]
  generalize (s.wipeCores r).wipeBanks r = u at hwiped
  exact hwiped.trans (belongs_setCluster u r rfl)

theorem belongs_endProducer (s : State) (r : Nat) : Belongs s (s.endProducer r) := by
  unfold State.endProducer
  dsimp only
  split
  · exact Belongs.refl s
  · exact belongs_setCluster s _ rfl

theorem belongs_reosOf (s : State) (c : Nat) : Belongs s (s.reosOf c) := by
  unfold State.reosOf
  dsimp only
  split
  · exact Belongs.refl s
  · split
    · exact Belongs.refl s
    · exact (belongs_of_clusters rfl : Belongs s (s.setCore c _)).trans (belongs_endProducer _ _)

theorem belongs_stopCtx (s : State) (c x : Nat) : Belongs s (s.stopCtx c x) := by
  refine Belongs.trans (t := s.endTicket c x) ?_ (belongs_of_clusters rfl)
  unfold State.endTicket
  dsimp only
  split <;> exact belongs_of_clusters rfl

theorem belongs_stopCore (s : State) (c : Nat) (fatal : Bool) : Belongs s (s.stopCore c fatal) := by
  have hctxs : Belongs s (s.stopCtxs c) := belongs_each (fun t x => belongs_stopCtx t c x) s _
  exact (hctxs.trans (belongs_reosOf _ c)).trans (belongs_of_clusters rfl)

theorem belongs_endOut (s : State) (c : Nat) (u : Nat × Nat) : Belongs s (s.endOut c u) := by
  unfold State.endOut State.endAway
  exact belongs_of_clusters rfl

theorem belongs_hurry (s : State) (q : Nat) : Belongs s (s.hurry q) := by
  obtain ⟨ps, hps⟩ : ∃ ps, s.hurry q = { s with parts := ps } := by
    unfold State.hurry
    dsimp only
    split
    · split <;> exact ⟨_, rfl⟩
    · exact ⟨_, rfl⟩
  exact belongs_of_clusters (by rw [hps])

theorem belongs_dropParked (s : State) (u : Nat × Nat) (p : Parked) : Belongs s (s.dropParked u p) := by
  unfold State.dropParked
  dsimp only
  refine Belongs.trans ?_ (belongs_endOut _ _ _)
  split
  · split
    · exact Belongs.refl s
    · exact belongs_endProducer s _
  · exact Belongs.refl s

theorem belongs_stopIf (s : State) (c : Nat) (u : Nat × Nat) : Belongs s (if (s.core c).unit == some u then (s.stopCore c false).endOut c u else s) := by
  split
  · exact (belongs_stopCore s c false).trans (belongs_endOut _ c u)
  · exact Belongs.refl s

theorem belongs_endLaunch (s : State) (u : Nat × Nat) (status : Nat) : Belongs s (s.endLaunch u status) := by
  unfold State.endLaunch
  split
  · exact Belongs.refl s
  · split
    · exact Belongs.refl s
    · dsimp only
      refine Belongs.trans ?_ (belongs_each (fun t c => belongs_stopIf t c u) _ _)
      refine Belongs.trans ?_ (belongs_each (fun t p => belongs_dropParked t u p) _ _)
      refine Belongs.trans ?_ (belongs_of_clusters rfl)
      split
      · exact Belongs.trans (belongs_of_clusters rfl) (belongs_hurry _ _)
      · exact belongs_of_clusters rfl

/-! ### Clusters wiped -/

theorem wipeOne_rest (s : State) (c : Nat) : ∃ cores clusters releases posts hub, s.wipeOne c = { s with
    cores := cores, clusters := clusters, releases := releases, posts := posts, hub := hub } := by
  obtain ⟨⟨cores, clusters, hub, hb⟩, -⟩ := boundary_effect (s.endAway c (fun _ => true)) c
  unfold State.wipeOne
  rw [hb]
  exact ⟨_, _, _, _, _, rfl⟩

theorem wipeBank_rest (s : State) (pkg : Nat) : ∃ cores clusters launches hub banks bad tags, s.wipeBank pkg = { s with
    cores := cores, clusters := clusters, launches := launches, hub := hub, banks := banks, badBank := bad, tags := tags } := by
  obtain ⟨⟨cores, clusters, launches, hub, hf⟩, -⟩ := bankShift_freeBank (s.unhitch pkg) pkg
  obtain ⟨cores', hu⟩ : ∃ cores', s.unhitch pkg = { s with cores := cores' } := by
    unfold State.unhitch
    split <;> exact ⟨_, rfl⟩
  rw [wipeBank_eq, State.bankWipe, hf, hu]
  exact ⟨_, _, _, _, _, _, _, rfl⟩

/-- Two states that differ in what the wiping of clusters changes at most. -/
def Wipes (s t : State) : Prop := ∃ cores clusters releases posts launches hub banks bad tags, t = { s with
  cores := cores, clusters := clusters, releases := releases, posts := posts, launches := launches, hub := hub
  banks := banks, badBank := bad, tags := tags }

theorem Wipes.refl (s : State) : Wipes s s := ⟨_, _, _, _, _, _, _, _, _, rfl⟩

theorem Wipes.trans {s t u : State} (hst : Wipes s t) (htu : Wipes t u) : Wipes s u := by
  obtain ⟨_, _, _, _, _, _, _, _, _, ht⟩ := hst
  obtain ⟨_, _, _, _, _, _, _, _, _, hu⟩ := htu
  exact ⟨_, _, _, _, _, _, _, _, _, by rw [hu, ht]⟩

theorem wipes_wipeCluster (s : State) (r : Nat) : Wipes s (s.wipeCluster r) := by
  have hcores : Wipes s (s.wipeCores r) := State.each_ind (P := Wipes s) (fun t c ht => ht.trans (by
    obtain ⟨_, _, _, _, _, h⟩ := wipeOne_rest t c
    exact ⟨_, _, _, _, _, _, _, _, _, h⟩)) (Wipes.refl s) _
  have hbanks : Wipes (s.wipeCores r) ((s.wipeCores r).wipeBanks r) := State.each_ind (P := Wipes _) (fun t b ht => ht.trans (by
    obtain ⟨_, _, _, _, _, _, _, h⟩ := wipeBank_rest t b
    exact ⟨_, _, _, _, _, _, _, _, _, h⟩)) (Wipes.refl _) _
  rw [wipeCluster_eq]
  exact (hcores.trans hbanks).trans ⟨_, _, _, _, _, _, _, _, _, rfl⟩

theorem Bare.wipeCluster {s : State} {c : Nat} (h : Bare s c) (r : Nat) : Bare (s.wipeCluster r) c := by
  rw [wipeCluster_eq]
  have hcores : Bare (s.wipeCores r) c := State.each_ind (P := fun t => Bare t c) (fun t d ht => ht.wipeOne d) h _
  have hbanks := (wipeBanks_effect (s.wipeCores r) r).2.1 c hcores
  generalize (s.wipeCores r).wipeBanks r = u at hbanks
  exact hbanks

end Sys2Proof.Machine
end

section
/-!
The parts of O59: what a reset, a die's reset and its return, and a partition's teardown leave (R213, R278, R280 to R282, R322).
-/

namespace Sys2Proof.Machine

open Sys2Proof

/-! ### Resets (R280, R282) -/

/-- A state that a wipe has left of another. -/
def WipedFrom (s t : State) : Prop :=
  t.mem = s.mem.filter (fun e => inTier e.1) ∧ t.banks = [] ∧ t.tags = [] ∧ t.net = [] ∧ t.launches = [] ∧
    (∀ c x, (t.ctx c x).live = false) ∧ (∀ r, (t.cluster r).part = none) ∧ (∀ q, (t.queue q).enabled = false) ∧
    ∀ p, (t.part p).keyNo = (s.part p).keyNo + (if p ∈ Tab.keys s.parts then 1 else 0) ∧ (t.part p).pageCtr = 0

/-- A partition's registers after a wipe: its slot takes a new key (R278, R282). -/
def Part.rekeyed (k : Part) : Part := { Part.reset with keyNo := k.keyNo + 1 }

theorem part_wiped (s : State) (p : Nat) :
    (s.wiped.part p).keyNo = (s.part p).keyNo + (if p ∈ Tab.keys s.parts then 1 else 0) ∧ (s.wiped.part p).pageCtr = 0 := by
  have hget : Tab.get? s.wiped.parts p = (Tab.get? s.parts p).map Part.rekeyed := get?_map_val Part.rekeyed p s.parts
  unfold State.part Tab.getD
  rw [hget]
  cases hp : Tab.get? s.parts p with
  | none => rw [if_neg (Tab.not_mem_keys_of_get? hp)]; exact ⟨rfl, rfl⟩
  | some k =>
    have hin : p ∈ Tab.keys s.parts := List.mem_map_of_mem (f := Prod.fst) (Tab.mem_of_get? hp)
    rw [if_pos hin]; exact ⟨rfl, rfl⟩

theorem wipedFrom_wiped (s : State) (time : Nat) (hub : Hub) : WipedFrom s { s.wiped with time := time, hub := hub } :=
  ⟨rfl, rfl, rfl, rfl, rfl, fun _ _ => rfl, fun _ => rfl, fun _ => rfl, part_wiped s⟩

/-- The first four measurements of a boot. -/
def State.measured (s : State) (b : BootInput) : State := s.each (List.range 4) (fun s i => s.extend i (b.measures.getD i []))

theorem measured_rest (s : State) (b : BootInput) : ∃ m, s.measured b = { s with hub := { s.hub with measure := m } } := by
  refine State.each_ind (P := fun t => ∃ m, t = { s with hub := { s.hub with measure := m } }) (fun t i ht => ?_) ⟨_, rfl⟩ _
  obtain ⟨m, rfl⟩ := ht
  exact ⟨_, rfl⟩

theorem islands_rest (s : State) (ns : List Nat) : ∃ is, s.each ns (fun s n => s.setIsland n (s.island n)) = { s with hub := { s.hub with islands := is } } := by
  refine State.each_ind (P := fun t => ∃ is, t = { s with hub := { s.hub with islands := is } }) (fun t n ht => ?_) ⟨_, rfl⟩ _
  obtain ⟨is, rfl⟩ := ht
  exact ⟨_, rfl⟩

/-- Each boot goes as far as its inputs let it (R280). -/
theorem boot_effect (s : State) (b : BootInput) : ∃ hub, s.boot b = { s with hub := hub } ∧
    (b.sigOk = false → hub.failure = 1 ∧ hub.ready = s.hub.ready) ∧
    (b.sigOk = true → b.fuseOk = false → hub.failure = 2 ∧ hub.ready = s.hub.ready) ∧
    (b.sigOk = true → b.fuseOk = true → b.trainOk = false → hub.failure = 3 ∧ hub.ready = s.hub.ready) ∧
    (b.sigOk = true → b.fuseOk = true → b.trainOk = true → hub.failure = 0 ∧ hub.ready = true ∧
      hub.vdiemap = if mapOk b.vdiemap.toNat then b.vdiemap.toNat else s.hub.vdiemap) := by
  obtain ⟨m, hm⟩ := measured_rest s b
  rw [State.measured] at hm
  unfold State.boot
  dsimp only
  cases hsig : b.sigOk with
  | false => exact ⟨_, rfl, fun _ => ⟨rfl, rfl⟩, nofun, nofun, nofun⟩
  | true =>
    cases hfuse : b.fuseOk with
    | false => exact ⟨_, rfl, nofun, fun _ _ => ⟨rfl, rfl⟩, nofun, nofun⟩
    | true =>
      cases htrain : b.trainOk with
      | false =>
        simp only [Bool.not_true, Bool.false_eq_true, if_false, Bool.not_false, if_true]
        rw [hm]
        exact ⟨_, rfl, nofun, nofun, fun _ _ _ => ⟨rfl, rfl⟩, nofun⟩
      | true =>
        simp only [Bool.not_true, Bool.false_eq_true, if_false]
        rw [hm]
        obtain ⟨is, his⟩ := islands_rest { s with hub := { s.hub with
          measure := m, bootStep := 4, failure := 0, vdiemap := if mapOk b.vdiemap.toNat then b.vdiemap.toNat else s.hub.vdiemap
          gib := Vector.ofFn (fun (i : Fin 4) => min 4096 (b.gib.getD i 0)), ready := true } } (List.range 44)
        exact ⟨_, his, nofun, nofun, nofun, fun _ _ _ => ⟨rfl, rfl, rfl⟩⟩

theorem deviceReset_effect (s : State) (b : BootInput) : ∃ t : State, exec (.deviceReset b) s = .next t ∧ WipedFrom s t ∧ t.time = 0 ∧
    (b.sigOk = false → t.hub.failure = 1 ∧ t.hub.ready = false) ∧
    (b.sigOk = true → b.fuseOk = false → t.hub.failure = 2 ∧ t.hub.ready = false) ∧
    (b.sigOk = true → b.fuseOk = true → b.trainOk = false → t.hub.failure = 3 ∧ t.hub.ready = false) ∧
    (b.sigOk = true → b.fuseOk = true → b.trainOk = true → t.hub.failure = 0 ∧ t.hub.ready = true ∧
      t.hub.vdiemap = (if mapOk b.vdiemap.toNat then b.vdiemap.toNat else 0xE4)) := by
  obtain ⟨hub, hboot, hcases⟩ := boot_effect s.wiped b
  refine ⟨s.wiped.boot b, rfl, ?_, ?_, ?_⟩
  · rw [hboot]; exact wipedFrom_wiped s _ hub
  · rw [hboot]; rfl
  · rw [hboot]; exact hcases

theorem lifeCycle_effect {s : State} (hlife : s.hub.life < 3) :
    ∃ t : State, exec (.lifeCycleAdvance true) s = .next t ∧ WipedFrom s t ∧ t.hub.life = s.hub.life + 1 := by
  have hgo : (true && decide (s.hub.life < 3)) = true := by rw [decide_eq_true hlife]; rfl
  let hub : Hub := { s.wiped.hub with life := s.hub.life + 1, measure := s.hub.measure, refillAt := s.hub.refillAt, govAt := s.hub.govAt }
  refine ⟨{ s.wiped with time := s.time, hub := hub }, ?_, wipedFrom_wiped s s.time hub, rfl⟩
  exact if_pos hgo

/-! ### A die goes (R213, R322) -/

/-- Two states that differ in what the reset of a die changes at most once its accesses are settled. -/
structure Falls (s t : State) : Prop where
  rest : ∃ cores clusters releases posts parts launches chains running colls hub mem bad, t = { s with
    cores := cores, clusters := clusters, releases := releases, posts := posts, parts := parts, launches := launches, chains := chains
    running := running, colls := colls, hub := hub, mem := mem, badMem := bad }
  hub : ∃ log ckpt migr, t.hub = { s.hub with log := log, ckpt := ckpt, migr := migr }
  stops : OnlyStops s t

theorem Falls.refl (s : State) : Falls s s := ⟨⟨_, _, _, _, _, _, _, _, _, _, _, _, rfl⟩, ⟨_, _, _, rfl⟩, OnlyStops.refl s⟩

theorem Falls.absent {s t : State} (h : Falls s t) : t.hub.absent = s.hub.absent := by
  obtain ⟨_, _, _, hh⟩ := h.hub
  rw [hh]

theorem Falls.trans {s t u : State} (hst : Falls s t) (htu : Falls t u) : Falls s u := by
  obtain ⟨_, _, _, _, _, _, _, _, _, _, _, _, ht⟩ := hst.rest
  obtain ⟨_, _, _, _, _, _, _, _, _, _, _, _, hu⟩ := htu.rest
  obtain ⟨_, _, _, hst'⟩ := hst.hub
  obtain ⟨_, _, _, htu'⟩ := htu.hub
  exact ⟨⟨_, _, _, _, _, _, _, _, _, _, _, _, by rw [hu, ht]⟩, ⟨_, _, _, by rw [htu', hst']⟩, hst.stops.trans htu.stops⟩

theorem WindsDown.falls {s t : State} (h : WindsDown s t) : Falls s t := by
  obtain ⟨_, _, _, _, _, _, _, _, _, ht⟩ := h.rest
  exact ⟨⟨_, _, _, _, _, _, _, _, _, _, _, _, ht⟩, ⟨_, _, _, by rw [ht]⟩, h.stops⟩

theorem falls_setPart (s : State) (p : Nat) (k : Part) : Falls s (s.setPart p k) :=
  ⟨⟨_, _, _, _, _, _, _, _, _, _, _, _, rfl⟩, ⟨_, _, _, rfl⟩, onlyStops_of_cores rfl⟩

theorem falls_devWrite (s : State) (a n v : Nat) : Falls s (s.devWrite a n v) := by
  obtain ⟨bad, hub, hw⟩ := s.devWrite_rest a n v
  refine ⟨⟨_, _, _, _, _, _, _, _, _, _, _, _, hw⟩, ?_, onlyStops_of_cores (by rw [hw])⟩
  unfold State.devWrite State.mark
  split <;> exact ⟨_, _, _, rfl⟩

theorem falls_setHitch (s : State) (pkg : Nat) (h : Hitch) : Falls s (s.setHitch pkg h) :=
  ⟨⟨_, _, _, _, _, _, _, _, _, _, _, _, rfl⟩, ⟨_, _, _, rfl⟩, onlyStops_of_cores rfl⟩

theorem falls_setCore (s : State) (c : Nat) {k : Core} (hctxs : k.ctxs = (s.core c).ctxs) (hmq : (s.core c).mq = [] → k.mq = []) :
    Falls s (s.setCore c k) := ⟨⟨_, _, _, _, _, _, _, _, _, _, _, _, rfl⟩, ⟨_, _, _, rfl⟩, onlyStops_setCore s c hctxs hmq⟩

theorem falls_freezeBank (s : State) (c pkg : Nat) : Falls s (s.freezeBank c pkg) := by
  unfold State.freezeBank
  dsimp only
  split
  · split
    · exact (falls_setHitch s pkg _).trans (falls_setCore _ c (by rfl) fun h => h)
    · exact falls_setHitch s pkg _
  · split
    · exact falls_setHitch s pkg _
    · split
      · exact falls_setHitch s pkg _
      · exact Falls.refl s

theorem falls_freezeBanks (s : State) (c : Nat) : Falls s (s.freezeBanks c) :=
  State.each_ind (P := Falls s) (fun t pkg ht => ht.trans (falls_freezeBank t c pkg)) (Falls.refl s) _

theorem falls_fatalCore (s : State) (c : Nat) : Falls s (s.fatalCore c) := by
  have hend : Falls s (s.felled c) := by
    unfold State.felled
    dsimp only
    have hset (t : State) : Falls t (t.setCore c { t.core c with dead := true, draining := true, unit := none, frame := none }) :=
      falls_setCore t c rfl fun h => h
    refine Falls.trans ?_ (hset _)
    split
    · exact (windsDown_stopCore s c true).falls.trans (windsDown_endOut _ c _).falls
    · exact (windsDown_stopCore s c true).falls
  rw [State.fatalCore_eq, State.freezeNow]
  split
  · generalize s.felled c = u at hend
    refine Falls.trans ?_ (falls_freezeBanks _ c)
    exact hend.trans (falls_setCore u c rfl fun h => h)
  · exact hend

theorem falls_haltPart (s : State) (p c x : Nat) (t : Trap) : Falls s (s.haltPart p c x t) := by
  unfold State.haltPart
  dsimp only
  refine State.each_ind (P := Falls s) (fun u l hu => hu.trans (windsDown_endLaunch u _ 3).falls) ?_ _
  refine State.each_ind (P := Falls s) (fun u d hu => ?_) ?_ _
  · split
    · exact hu.trans (falls_fatalCore u d)
    · exact hu
  · exact (falls_setPart s p _).trans ⟨⟨_, _, _, _, _, _, _, _, _, _, _, _, rfl⟩, ⟨_, _, _, rfl⟩, onlyStops_of_cores rfl⟩

theorem falls_postFatal (s : State) (p c x : Nat) (t : Trap) (level flags : Nat) : Falls s (s.postFatal p c x t level flags) := by
  unfold State.postFatal
  dsimp only
  split
  · exact Falls.refl s
  · split
    · exact falls_haltPart s p c x t
    · exact (falls_devWrite s _ _ _).trans (falls_setPart _ p _)

theorem falls_loseTicket (s : State) (c x born ticket d : Nat) : Falls s (s.loseTicket c x born ticket d) := by
  unfold State.loseTicket
  dsimp only
  split
  · split
    · exact Falls.refl s
    · exact ⟨⟨_, _, _, _, _, _, _, _, _, _, _, _, rfl⟩, ⟨_, _, _, rfl⟩, onlyStops_setCtx s c x fun h => h⟩
  · split
    · split
      · exact Falls.refl s
      · exact falls_setCore s c (by rfl) fun h => h
    · exact Falls.refl s

theorem falls_markLost (s : State) (u : Subm) (d : Nat) : Falls s (s.markLost u d) := by
  unfold State.markLost
  split
  · exact falls_loseTicket s _ _ _ _ _
  · exact Falls.refl s

/-- A die that loses its slices: none of them is left homed on it. -/
theorem loseSlices_effect (s : State) (d : Nat) :
    (∀ e ∈ (s.loseSlices d).slices, onDie d e.addr = false) ∧ (s.loseSlices d).banks = s.banks ∧ (s.loseSlices d).hub.absent = s.hub.absent := by
  unfold State.loseSlices
  dsimp only
  refine ⟨fun e he => ?_, ?_⟩
  · simpa using (List.mem_filter.mp he).2
  · have hfall (es : List Slice) (us : List Subm) : Falls s ((s.each es (fun s e => s.loseTicket e.core e.ctx e.born e.ticket d)).each us
        (fun s u => s.markLost u d)) :=
      State.each_ind (P := Falls s) (fun t u ht => ht.trans (falls_markLost t u d))
        (State.each_ind (P := Falls s) (fun t e ht => ht.trans (falls_loseTicket t _ _ _ _ _)) (Falls.refl s) _) _
    have hkept {t : State} (h : Falls s t) : t.banks = s.banks ∧ t.hub.absent = s.hub.absent := by
      obtain ⟨_, _, _, _, _, _, _, _, _, _, _, _, hr⟩ := h.rest
      exact ⟨by rw [hr], h.absent⟩
    exact hkept (hfall _ _)

/-- Every launch of a die ended. -/
def State.endDie (s : State) (d : Nat) : State :=
  s.each (s.launches.filter (fun l => !l.cores.isEmpty && (l.cores.any (fun c => dieOf c == d) || l.parked.any (fun p => dieOf p.core == d))))
    (fun s l => s.endLaunch (l.queue, l.seq) 3)

/-- A core of a die that goes stopped, with all that it holds of contexts switched out. -/
def State.dropCore (s : State) (c : Nat) : State := (s.stopCore c true).endAway c (fun _ => true)

/-- Every core of a die stopped. -/
def State.dropCores (s : State) (d : Nat) : State := s.each ((Tab.keys s.cores).filter (fun c => dieOf c == d)) State.dropCore

theorem windsDown_dropCore (s : State) (c : Nat) : WindsDown s (s.dropCore c) := (windsDown_stopCore s c true).trans (windsDown_endAway _ c _)

theorem windsDown_endDie (s : State) (d : Nat) : WindsDown s (s.endDie d) := windsDown_each (fun t (l : Launch) => windsDown_endLaunch t _ 3) s _

theorem windsDown_dropCores (s : State) (d : Nat) : WindsDown s (s.dropCores d) := windsDown_each windsDown_dropCore s _

/-- A core that has stopped: no context of it is live, and its matrix queue is empty. -/
def Stopped (s : State) (c : Nat) : Prop := (∀ x, (s.ctx c x).live = false) ∧ (s.core c).mq = []

theorem OnlyStops.stopped {s t : State} (h : OnlyStops s t) {c : Nat} (hc : Stopped s c) : Stopped t c :=
  ⟨fun x => h.live c x (hc.1 x), h.mq c hc.2⟩

theorem stopped_dropCore (s : State) (c : Nat) : Stopped (s.dropCore c) c :=
  (onlyStops_endAway _ c _).stopped ⟨live_stopCore s c true, mq_stopCore s c true⟩

theorem stopped_dropCores (s : State) {d c : Nat} (hc : dieOf c = d) : Stopped (s.dropCores d) c := by
  by_cases hk : c ∈ Tab.keys s.cores
  · exact State.each_makes (P := fun _ => True) (Q := fun t => Stopped t c) (a := c) (fun _ _ h => h) (fun t _ => stopped_dropCore t c)
      (fun t e ht => (windsDown_dropCore t e).stops.stopped ht) trivial (List.mem_filter.mpr ⟨hk, by rw [hc]; exact beq_self_eq_true d⟩)
  · have hcore : s.core c = Core.reset := Tab.getD_of_not_mem_keys hk _
    refine (windsDown_dropCores s d).stops.stopped ⟨fun x => ?_, ?_⟩
    · rw [State.ctx, hcore]; rfl
    · rw [hcore]; rfl

theorem stopDie_effect (s : State) (d : Nat) : (∀ c, dieOf c = d → Stopped (s.stopDie d) c) ∧ (s.stopDie d).banks = s.banks ∧
    (s.stopDie d).slices = s.slices ∧ (s.stopDie d).hub.absent = s.hub.absent := by
  have hcores : (s.stopDie d).cores = ((s.endDie d).dropCores d).cores := rfl
  have hrest : (s.stopDie d).banks = ((s.endDie d).dropCores d).banks ∧ (s.stopDie d).slices = ((s.endDie d).dropCores d).slices ∧
      (s.stopDie d).hub = ((s.endDie d).dropCores d).hub := ⟨rfl, rfl, rfl⟩
  obtain ⟨hbanks, hslices, hhub⟩ := hrest
  obtain ⟨_, _, _, _, _, _, _, _, _, hr⟩ := ((windsDown_endDie s d).trans (windsDown_dropCores _ d)).rest
  refine ⟨fun c hc => (onlyStops_of_cores hcores).stopped (stopped_dropCores _ hc), ?_, ?_, ?_⟩
  · rw [hbanks, hr]
  · rw [hslices, hr]
  · rw [hhub, hr]

theorem dieReset_effect {s : State} {d : Nat} (hd : d < 4) (hin : d ∉ s.hub.absent) :
    ∃ t : State, exec (.dieReset d) s = .next t ∧ d ∈ t.hub.absent ∧ t.banks = (s.settleDie d).banks ∧
      (∀ c x, dieOf c = d → (t.ctx c x).live = false) ∧ (∀ e ∈ t.slices, onDie d e.addr = false) ∧ (∀ c, dieOf c = d → (t.core c).mq = []) := by
  let u : State := { s.settleDie d with hub := { (s.settleDie d).hub with absent := insertSet d (s.settleDie d).hub.absent } }
  let here := (List.range 48).map (48 * d + ·)
  let w := (u.loseSlices d).stopDie d
  let post (v : State) (p : Nat) : State :=
    let c := ((here.filter (fun r => (v.cluster r).part == some p)).head?.map (fun r => coreIn r 0)).getD 0
    v.postFatal p c 0 { cause := Cause.dieAbsent.code, detail := d, resume := 0, fpc := 0, va := 0, ipa := 0, jrn := none, async := false } 0 4
  let ps := (here.filterMap (fun r => (u.cluster r).part)).eraseDups
  have hexec : exec (.dieReset d) s = .next (w.each ps post) := by
    show execDieReset d s = _
    unfold execDieReset
    rw [if_neg (by simp [hd, hin])]
  obtain ⟨hslices, hbanks, habsent⟩ := loseSlices_effect u d
  obtain ⟨hstopped, hbanks', hslices', habsent'⟩ := stopDie_effect (u.loseSlices d) d
  have hfall : Falls w (w.each ps post) := State.each_ind (P := Falls w) (fun v p hv => hv.trans (falls_postFatal v p _ 0 _ 0 4)) (Falls.refl w) _
  obtain ⟨_, _, _, _, _, _, _, _, _, _, _, _, hr⟩ := hfall.rest
  refine ⟨_, hexec, ?_, ?_, fun c x hc => (hfall.stops.stopped (hstopped c hc)).1 x, ?_, fun c hc => (hfall.stops.stopped (hstopped c hc)).2⟩
  · rw [hfall.absent, habsent', habsent]
    exact mem_insertSet_self d _
  · exact (congrArg State.banks hr).trans (hbanks'.trans (hbanks.trans rfl))
  · intro e he
    rw [hr] at he
    exact hslices e (hslices' ▸ he)

/-! ### A die comes back (R213, R322) -/

/-- Two states that differ in what a chain's going on changes at most. -/
def GoesOn (s t : State) : Prop := ∃ nonce mem bad parts hub chains walks torn running lanes, t = { s with
  nonce := nonce, mem := mem, badMem := bad, parts := parts, hub := hub, chains := chains, walks := walks, torn := torn
  running := running, lanes := lanes }

theorem goesOn_goNext (s : State) (h : Chain) : GoesOn s (s.goNext h) := by
  unfold State.goNext
  split
  · next n t hr =>
    obtain ⟨_, _, _, _, _, ht⟩ := fetches_bulkRead hr
    split
    · exact ⟨_, _, _, _, _, _, _, _, _, _, by rw [ht]; rfl⟩
    · exact ⟨_, _, _, _, _, _, _, _, _, _, by rw [ht]; rfl⟩
  · exact ⟨_, _, _, _, _, _, _, _, _, _, rfl⟩

theorem goesOn_each (s : State) (hs : List Chain) : GoesOn s (s.each hs State.goNext) := by
  refine State.each_ind (P := GoesOn s) (fun t h ht => ?_) ⟨_, _, _, _, _, _, _, _, _, _, rfl⟩ hs
  obtain ⟨_, _, _, _, _, _, _, _, _, _, ht⟩ := ht
  obtain ⟨_, _, _, _, _, _, _, _, _, _, hu⟩ := goesOn_goNext t h
  exact ⟨_, _, _, _, _, _, _, _, _, _, by rw [hu, ht]⟩

/-- The clusters of a die wiped. -/
def State.wipeDie (s : State) (d : Nat) : State := s.each ((List.range 48).map (48 * d + ·)) State.wipeCluster

theorem wipes_wipeDie (s : State) (d : Nat) : Wipes s (s.wipeDie d) :=
  State.each_ind (P := Wipes s) (fun t r ht => ht.trans (wipes_wipeCluster t r)) (Wipes.refl s) _

theorem Wipes.mem {s t : State} (h : Wipes s t) : t.mem = s.mem := by
  obtain ⟨_, _, _, _, _, _, _, _, _, h⟩ := h
  rw [h]

theorem Wipes.net {s t : State} (h : Wipes s t) : t.net = s.net := by
  obtain ⟨_, _, _, _, _, _, _, _, _, h⟩ := h
  rw [h]

theorem Wipes.part {s t : State} (h : Wipes s t) (p : Nat) : t.part p = s.part p := by
  obtain ⟨_, _, _, _, _, _, _, _, _, h⟩ := h
  rw [h]
  rfl

theorem bare_wipeDie (s : State) {d c : Nat} (hc : dieOf c = d) : Bare (s.wipeDie d) c := by
  have hr : clusterOf c ∈ (List.range 48).map (48 * d + ·) := by
    refine List.mem_map.mpr ⟨clusterOf c - 48 * d, List.mem_range.mpr ?_, ?_⟩ <;>
      · unfold clusterOf rowOf colOf dieOf at *
        omega
  exact State.each_makes (P := fun _ => True) (Q := fun t => Bare t c) (a := clusterOf c) (fun _ _ h => h)
    (fun t _ => (wipeCluster_effect t _).2.1 c (mem_coresOf_clusterOf c)) (fun t r ht => ht.wipeCluster r) trivial hr

theorem byte_wipeDie (s : State) (d a : Nat) : (s.wipeDie d).banks.byte a = if a / 4194304 / 48 = d then 0 else s.banks.byte a := by
  split
  · next ha =>
    refine State.each_makes (P := fun _ => True) (Q := fun t => t.banks.byte a = 0) (a := a / 4194304) (fun _ _ h => h) (fun t _ => ?_)
      (fun t r ht => ?_) trivial (List.mem_map.mpr ⟨a / 4194304 % 48, List.mem_range.mpr (Nat.mod_lt _ (by decide)), by omega⟩)
    · rw [(wipeCluster_effect t _).2.2, if_pos rfl]
    · rw [(wipeCluster_effect t r).2.2]
      split
      · rfl
      · exact ht
  · next ha =>
    refine State.each_ind_mem (P := fun t => t.banks.byte a = s.banks.byte a) (fun t r hr ht => ?_) rfl
    obtain ⟨i, hi, rfl⟩ := List.mem_map.mp hr
    have := List.mem_range.mp hi
    rw [(wipeCluster_effect t _).2.2, if_neg (by omega)]
    exact ht

/-- A state without the answers and the work of a die that comes back. -/
def State.dropAnswers (s : State) (d : Nat) : State := { s with
  net := s.net.filter (fun a => dieOf a.core != d || s.chains.any (·.await.contains a.id)), posts := s.posts.filter (fun p => dieOf p.core != d)
  gathers := s.gathers.filter (fun w => dieOf w.core != d), walks := s.walks.filter (fun w => dieOf w.core != d)
  chains := s.chains.filter (fun h => !(dieOf h.core == d && decide (h.chan < 0x1000)))
  running := s.running.filter (fun r => decide (0x1000 ≤ r.1) || r.1 / 192 != d) }

/-- A die present again, its sequencer behind the others'. -/
def State.present (s : State) (d : Nat) : State :=
  let others := (List.range 4).filter (· != d)
  let top (f : Sequencer → Nat) : Nat := others.foldl (fun m d => max m (f (s.seqOf d))) 0
  let s := s.setSeq d { open_ := (s.seqOf d).open_, closed := max (top (·.closed)) (s.seqOf d).closed, applied := top (·.applied), rest := [] }
  State.pruneBeats { s with hub := { s.hub with absent := s.hub.absent.filter (· != d), failed := s.hub.failed.filter (· != d) } }

theorem present_rest (s : State) (d : Nat) : ∃ seqs, s.present d =
    { s with seqs := seqs, hub := { s.hub with absent := s.hub.absent.filter (· != d), failed := s.hub.failed.filter (· != d) } } := ⟨_, rfl⟩

/-- The state of a die's return in which its chains that had done a strand have gone on. -/
def State.returning (s : State) (d : Nat) : State :=
  (s.dropAnswers d).each ((s.dropAnswers d).chains.filter (fun h => h.done && dieOf h.core == d)) State.goNext

theorem goesOn_returning (s : State) (d : Nat) : GoesOn (s.dropAnswers d) (s.returning d) := goesOn_each _ _

theorem returning_idle {s : State} {d : Nat} (hdone : ∀ h ∈ s.chains, h.done = true → dieOf h.core ≠ d) : s.returning d = s.dropAnswers d := by
  have hnone : (s.dropAnswers d).chains.filter (fun h => h.done && dieOf h.core == d) = [] := by
    refine List.filter_eq_nil_iff.mpr fun h hh hb => ?_
    obtain ⟨h1, h2⟩ := Bool.and_eq_true_iff.mp hb
    exact hdone h (List.mem_filter.mp hh).1 h1 (by simpa using h2)
  rw [State.returning, hnone]
  rfl

theorem exec_dieResetComplete {s : State} {d : Nat} (hmay : s.mayComeBack d = true) :
    exec (.dieResetComplete d) s = .next (((s.returning d).wipeDie d).present d) := by
  show execDieResetComplete d s = _
  unfold execDieResetComplete
  rw [if_neg (by rw [hmay]; exact Bool.false_ne_true)]
  unfold State.present State.wipeDie State.returning State.dropAnswers
  dsimp only

/-- What a die present again leaves, where its chains have gone on and its clusters are wiped. -/
theorem present_effect {s v w : State} {d : Nat} (hgo : GoesOn (s.dropAnswers d) v)
    (hidle : (∀ h ∈ s.chains, h.done = true → dieOf h.core ≠ d) → v = s.dropAnswers d) (hwipes : Wipes v w)
    (hbytes : ∀ a, w.banks.byte a = if a / 4194304 / 48 = d then 0 else v.banks.byte a) (hbare : ∀ c, dieOf c = d → Bare w c) :
    let t := w.present d
    d ∉ t.hub.absent ∧ d ∉ t.hub.failed ∧ ((∀ h ∈ s.chains, h.done = true → dieOf h.core ≠ d) → t.mem = s.mem) ∧
      (∀ a, t.banks.byte a = if a / 4194304 / 48 = d then 0 else s.banks.byte a) ∧
      (∀ c, c < 1536 → dieOf c = d → (t.core c).slots = [] ∧ (t.core c).ctxs = []) ∧
      (∀ a ∈ t.net, dieOf a.core ≠ d ∨ ∃ k ∈ s.chains, a.id ∈ k.await) := by
  obtain ⟨_, _, _, _, _, _, _, _, _, _, hgo⟩ := hgo
  obtain ⟨seqs, hpresent⟩ := present_rest w d
  have hnet : w.net = (s.dropAnswers d).net := by rw [hwipes.net, hgo]
  rw [hpresent]
  refine ⟨fun h => ?_, fun h => ?_, fun hdone => ?_, fun a => ?_, fun c _ hc => hbare c hc, fun a ha => ?_⟩
  · simpa using (List.mem_filter.mp h).2
  · simpa using (List.mem_filter.mp h).2
  · exact hwipes.mem.trans (by rw [hidle hdone]; rfl)
  · exact (hbytes a).trans (by rw [hgo]; rfl)
  · have hkeep := (List.mem_filter.mp (show a ∈ (s.dropAnswers d).net from hnet ▸ ha)).2
    rcases Bool.or_eq_true_iff.mp hkeep with h | h
    · exact .inl (by simpa using h)
    · obtain ⟨k, hk, hid⟩ := List.any_eq_true.mp h
      exact .inr ⟨k, hk, by simpa using hid⟩

theorem dieComesBack {s : State} {d : Nat} (hmay : s.mayComeBack d = true) :
    ∃ t : State, exec (.dieResetComplete d) s = .next t ∧ d ∉ t.hub.absent ∧ d ∉ t.hub.failed ∧
      ((∀ h ∈ s.chains, h.done = true → dieOf h.core ≠ d) → t.mem = s.mem) ∧
      (∀ a, t.banks.byte a = if a / 4194304 / 48 = d then 0 else s.banks.byte a) ∧
      (∀ c, c < 1536 → dieOf c = d → (t.core c).slots = [] ∧ (t.core c).ctxs = []) ∧
      (∀ a ∈ t.net, dieOf a.core ≠ d ∨ ∃ k ∈ s.chains, a.id ∈ k.await) :=
  ⟨_, exec_dieResetComplete hmay, present_effect (goesOn_returning s d) returning_idle (wipes_wipeDie _ d) (byte_wipeDie _ d)
    fun _ hc => bare_wipeDie _ hc⟩

/-! ### Partitions (R261, R278) -/

theorem partitionCreation_effect {s : State} {p v : Nat} (hp : p < 256) (hv : v < 64) : exec (.partitionCreation p v) s = .next (s.setPart p
    { s.part p with keyNo := (s.part p).keyNo + 1, keyGen := ((s.part p).keyGen + 1) % 256, pageCtr := 0, vdev := v }) := by
  let k : Part := { s.part p with keyNo := (s.part p).keyNo + 1, keyGen := ((s.part p).keyGen + 1) % 256, pageCtr := 0 }
  have hk : (s.setPart p k).part p = k := State.part_setPart_self s p k
  have hput : (s.setPart p k).setPart p { k with vdev := v } = s.setPart p { k with vdev := v } :=
    congrArg (fun ps => { s with parts := ps }) (Tab.put_put s.parts p k { k with vdev := v })
  have hgo : (decide (p < 256) && decide (v < 64)) = true := by simp [hp, hv]
  show event s (decide (p < 256) && decide (v < 64)) ((s.setPart p k).setPart p { (s.setPart p k).part p with vdev := v }) = _
  rw [hgo, hk, hput]
  rfl

/-- A cluster of a partition that is torn down. -/
def State.dropCluster (s : State) (r : Nat) : State :=
  let s := (s.each (coresOf r) (fun s c => s.stopCore c true)).wipeCluster r
  s.setCluster r { s.cluster r with part := none }

/-- Memory and every partition's registers as before; a cluster's partition too, or gone. -/
structure Leaves (s t : State) : Prop where
  mem : t.mem = s.mem
  part : ∀ p, t.part p = s.part p
  cluster : ∀ r p, (s.cluster r).part ≠ some p → (t.cluster r).part ≠ some p

theorem leaves_dropCluster (s : State) (r : Nat) : Leaves s (s.dropCluster r) ∧ ((s.dropCluster r).cluster r).part = none := by
  let u := s.each (coresOf r) (fun s c => s.stopCore c true)
  have hstay : BanksStay s u := State.each_ind (P := BanksStay s) (fun t c ht => ht.trans (banksStay_stopCore t c true)) (BanksStay.refl s) _
  have hbelongs : Belongs s (u.wipeCluster r) := (belongs_each (fun t c => belongs_stopCore t c true) s _).trans (belongs_wipeCluster u r)
  have hwipes := wipes_wipeCluster u r
  obtain ⟨_, _, _, _, hu⟩ := hstay.rest
  have ht : s.dropCluster r = (u.wipeCluster r).setCluster r { (u.wipeCluster r).cluster r with part := none } := rfl
  generalize u.wipeCluster r = v at hbelongs hwipes ht
  rw [ht]
  refine ⟨⟨hwipes.mem.trans (by rw [hu]), fun p => (hwipes.part p).trans (by rw [hu]; rfl), fun q p hq => ?_⟩, ?_⟩
  · rw [State.cluster_setCluster]
    split
    · exact nofun
    · rw [hbelongs q]; exact hq
  · rw [State.cluster_setCluster, if_pos rfl]

theorem Leaves.trans {s t u : State} (hst : Leaves s t) (htu : Leaves t u) : Leaves s u :=
  ⟨htu.mem.trans hst.mem, fun p => (htu.part p).trans (hst.part p), fun r p h => htu.cluster r p (hst.cluster r p h)⟩

/-- The clusters of a partition gone from it. -/
def State.dropClusters (s : State) (p : Nat) : State := s.each (s.clustersOf p) State.dropCluster

theorem dropClusters_effect (s : State) (p : Nat) : Leaves s (s.dropClusters p) ∧ ∀ r, ((s.dropClusters p).cluster r).part ≠ some p := by
  have hleaves (rs : List Nat) : Leaves s (s.each rs State.dropCluster) :=
    State.each_ind (P := Leaves s) (fun t r ht => ht.trans (leaves_dropCluster t r).1) ⟨rfl, fun _ => rfl, fun _ _ h => h⟩ rs
  refine ⟨hleaves _, fun r => ?_⟩
  by_cases hr : (s.cluster r).part = some p
  · have hin : r ∈ s.clustersOf p := by
      cases hget : Tab.get? s.clusters r with
      | none =>
        rw [State.cluster, Tab.getD, hget] at hr
        cases hr
      | some k =>
        rw [State.cluster, Tab.getD, hget] at hr
        exact List.mem_map.mpr ⟨(r, k), List.mem_filter.mpr ⟨Tab.mem_of_get? hget, by rw [show k.part = some p from hr]; exact beq_self_eq_true _⟩, rfl⟩
    exact State.each_makes (P := fun _ => True) (Q := fun t => (t.cluster r).part ≠ some p) (a := r) (fun _ _ h => h)
      (fun t _ => by rw [(leaves_dropCluster t r).2]; exact nofun) (fun t q ht => (leaves_dropCluster t q).1.cluster r p ht) trivial hin
  · exact (hleaves _).cluster r p hr

/-- A page of every memory wiped (R282). -/
def State.zeroPage (s : State) (g : Nat) : State := s.each (List.range 5) (fun s i => s.devWipe (i * 2 ^ 48 + g * 65536) 65536)

theorem byte_devWipe (s : State) (b n a : Nat) : (s.devWipe b n).mem.byte a = if b ≤ a ∧ a < b + n then 0 else s.mem.byte a := by
  obtain ⟨bad, hub, h⟩ := devWipe_rest s b n
  rw [h]
  exact byte_wiped _ _ _ _

theorem byte_zeroPage_zero (s : State) {g a : Nat} (hg : a % 2 ^ 48 / 65536 = g) (ha : a / 2 ^ 48 < 5) : (s.zeroPage g).mem.byte a = 0 := by
  refine State.each_makes (P := fun _ => True) (Q := fun t => t.mem.byte a = 0) (a := a / 2 ^ 48) (fun _ _ h => h) (fun t _ => ?_)
    (fun t i ht => ?_) trivial (List.mem_range.mpr ha)
  · rw [byte_devWipe, if_pos (by omega)]
  · rw [byte_devWipe]
    split
    · rfl
    · exact ht

theorem byte_zeroPage_zeroed {s : State} {a : Nat} (ha : s.mem.byte a = 0) (g : Nat) : (s.zeroPage g).mem.byte a = 0 := by
  refine State.each_ind (P := fun t => t.mem.byte a = 0) (fun t i ht => ?_) ha _
  rw [byte_devWipe]
  split
  · rfl
  · exact ht

theorem byte_zeroPage_ne (s : State) {g a : Nat} (hg : g < 2 ^ 23) (hne : a % 2 ^ 48 / 65536 ≠ g) : (s.zeroPage g).mem.byte a = s.mem.byte a := by
  refine State.each_ind_mem (P := fun t => t.mem.byte a = s.mem.byte a) (fun t i hi ht => ?_) rfl
  have := List.mem_range.mp hi
  rw [byte_devWipe, if_neg (by omega)]
  exact ht

theorem zeroPage_rest (s : State) (g : Nat) : ∃ mem bad hub, s.zeroPage g = { s with mem := mem, badMem := bad, hub := hub } := by
  refine State.each_ind (P := fun t => ∃ mem bad hub, t = { s with mem := mem, badMem := bad, hub := hub }) (fun t i ht => ?_) ⟨_, _, _, rfl⟩ _
  obtain ⟨_, _, _, ht⟩ := ht
  obtain ⟨_, _, h⟩ := devWipe_rest t (i * 2 ^ 48 + g * 65536) 65536
  exact ⟨_, _, _, by rw [h, ht]⟩

/-- Pages wiped, as far as they are HBM pages. -/
def State.zeroPages (s : State) (pages : List Nat) : State := s.each (pages.filter (fun g => decide (g < 2 ^ 23))) State.zeroPage

theorem zeroPages_effect (s : State) (pages : List Nat) :
    (∃ mem bad hub, s.zeroPages pages = { s with mem := mem, badMem := bad, hub := hub }) ∧
    (∀ a, a % 2 ^ 48 / 65536 ∈ pages → a % 2 ^ 48 < 2 ^ 39 → a / 2 ^ 48 < 5 → (s.zeroPages pages).mem.byte a = 0) ∧
    (∀ a, a % 2 ^ 48 / 65536 ∉ pages → (s.zeroPages pages).mem.byte a = s.mem.byte a) := by
  refine ⟨?_, fun a hin hlt ha => ?_, fun a hin => ?_⟩
  · refine State.each_ind (P := fun t => ∃ mem bad hub, t = { s with mem := mem, badMem := bad, hub := hub }) (fun t g ht => ?_) ⟨_, _, _, rfl⟩ _
    obtain ⟨_, _, _, ht⟩ := ht
    obtain ⟨_, _, _, h⟩ := zeroPage_rest t g
    exact ⟨_, _, _, by rw [h, ht]⟩
  · have hg : a % 2 ^ 48 / 65536 < 2 ^ 23 := by omega
    exact State.each_makes (P := fun _ => True) (Q := fun t => t.mem.byte a = 0) (a := a % 2 ^ 48 / 65536) (fun _ _ h => h)
      (fun t _ => byte_zeroPage_zero t rfl ha) (fun t g ht => byte_zeroPage_zeroed ht g) trivial
      (List.mem_filter.mpr ⟨hin, decide_eq_true hg⟩)
  · refine State.each_ind_mem (P := fun t => t.mem.byte a = s.mem.byte a) (fun t g hg ht => ?_) rfl
    obtain ⟨hgin, hlt⟩ := List.mem_filter.mp hg
    exact (byte_zeroPage_ne t (of_decide_eq_true hlt) (fun h => hin (h ▸ hgin))).trans ht

theorem partitionTeardown_effect {s : State} {p : Nat} (hp : p < 256) (pages : List Nat) :
    ∃ t : State, exec (.partitionTeardown p pages) s = .next t ∧ (∀ r, (t.cluster r).part ≠ some p) ∧
      (∀ a, a % 2 ^ 48 / 65536 ∈ pages → a % 2 ^ 48 < 2 ^ 39 → a / 2 ^ 48 < 5 → t.mem.byte a = 0) ∧
      (∀ a, a % 2 ^ 48 / 65536 ∉ pages → t.mem.byte a = s.mem.byte a) ∧
      (t.part p).keyNo = (s.part p).keyNo + 1 ∧ (t.part p).keyGen = ((s.part p).keyGen + 1) % 256 ∧ (t.part p).pageCtr = 0 := by
  let a1 := (s.abandon p).each ((s.abandon p).launches.filter (fun l => !l.cores.isEmpty && ((s.abandon p).queue l.queue).part == p))
    (fun s l => s.endLaunch (l.queue, l.seq) 2)
  let a2 : State := { a1 with chains := a1.chains.map (fun h => if h.part == p then { h with cancelled := true } else h) }
  let a4 := (a2.dropClusters p).zeroPages pages
  let k : Part := { a4.part p with halted := false, tqHeld := [], tqFatal := [], residence := [] }
  have hexec : exec (.partitionTeardown p pages) s = .next ((a4.setPart p k).newKey p) := by
    show execPartitionTeardown p pages s = _
    unfold execPartitionTeardown
    rw [if_neg (by omega)]
    rfl
  have hdown : WindsDown (s.abandon p) a1 := windsDown_each (fun t (l : Launch) => windsDown_endLaunch t (l.queue, l.seq) 2) _ _
  obtain ⟨_, _, _, _, _, _, _, _, _, hrest⟩ := hdown.rest
  obtain ⟨e, hpart⟩ := hdown.part p
  have habandon : (s.abandon p).part p = { s.part p with evState := if (s.part p).deadline.isSome then 3 else (s.part p).evState, deadline := none } :=
    (State.part_setPart s p p _).trans (if_pos rfl)
  have hkey : (a2.part p).keyNo = (s.part p).keyNo ∧ (a2.part p).keyGen = (s.part p).keyGen := by
    rw [show a2.part p = a1.part p from rfl, hpart, habandon]
    exact ⟨rfl, rfl⟩
  have hmem : a2.mem = s.mem := by
    rw [show a2.mem = a1.mem from rfl, hrest]
    rfl
  obtain ⟨hleaves, hgone⟩ := dropClusters_effect a2 p
  obtain ⟨⟨mem, bad, hub, hwiped⟩, hzero, hkept⟩ := zeroPages_effect (a2.dropClusters p) pages
  have hpart4 : a4.part p = a2.part p := by
    rw [show a4 = _ from hwiped]
    exact hleaves.part p
  have hnew : ((a4.setPart p k).newKey p).part p = { k with keyNo := k.keyNo + 1, keyGen := (k.keyGen + 1) % 256, pageCtr := 0 } := by
    rw [State.newKey, State.part_setPart, if_pos rfl, State.part_setPart, if_pos rfl]
  refine ⟨_, hexec, fun r => ?_, hzero, fun a ha => (hkept a ha).trans (by rw [hleaves.mem, hmem]), ?_, ?_, by rw [hnew]⟩
  · show (a4.cluster r).part ≠ some p
    rw [show a4 = _ from hwiped]
    exact hgone r
  · rw [hnew, ← hkey.1, ← hpart4]
  · rw [hnew, ← hkey.2, ← hpart4]

end Sys2Proof.Machine
end

section
/-!
O59: stops, cuts and restored images, and with the resets of the part before the whole statement. What comes of the flits that a restored
image lets go touches no queue.
-/

namespace Sys2Proof.Machine

open Sys2Proof

/-! ### Stops and cuts (R337, R339) -/

/-- A queue disabled, as its registers stand. -/
def WQueue.off (k : WQueue) : WQueue := { k with enabled := false }

/-- Every queue of a table disabled. -/
def offAll (qs : Tab WQueue) : Tab WQueue := qs.map (fun e => (e.1, e.2.off))

theorem queue_offAll (s : State) (q : Nat) : Tab.getD (offAll s.queues) q WQueue.reset = (s.queue q).off := by
  unfold State.queue Tab.getD offAll
  rw [get?_map_val WQueue.off q s.queues]
  cases Tab.get? s.queues q <;> rfl

theorem queue_beginStop (s : State) (a q : Nat) (job : Option Nat) : (s.beginStop a job).queue q = (s.queue q).off := queue_offAll s q

theorem migrationStop_begins {s : State} {a : Nat} (hno : s.hub.stopping = none) (hal : a % 4096 = 0) (hdev : s.devRange a 1 = true)
    (hmay : s.mayBeStopped = true) : ∃ t : State, exec (.migrationStop a) s = .next t ∧ MemoryKept s t ∧
      t.hub.stopping = some (a, none) ∧ t.hub.stopErr = false ∧ (∀ q, (t.queue q).enabled = false) ∧
      ∀ q, (t.queue q).pending = (s.queue q).pending := by
  have hexec : exec (.migrationStop a) s = .next (s.beginStop a none) := by
    show execMigrationStop a s = _
    unfold execMigrationStop
    rw [hno]
    dsimp only
    rw [if_neg (by simp [hal, hdev]), if_neg (by simp [hmay])]
  exact ⟨_, hexec, ⟨fun _ => rfl, fun _ => rfl, rfl⟩, rfl, rfl, fun q => by rw [queue_beginStop]; rfl, fun q => by rw [queue_beginStop]; rfl⟩

theorem migrationStop_refused {s : State} {a : Nat} (hno : s.hub.stopping = none) (hal : a % 4096 = 0) (hdev : s.devRange a 1 = true)
    (hmay : s.mayBeStopped = false) : exec (.migrationStop a) s = .next { s with hub := { s.hub with stopErr := true } } := by
  show execMigrationStop a s = _
  unfold execMigrationStop
  rw [hno]
  dsimp only
  rw [if_neg (by simp [hal, hdev]), if_pos (by simp [hmay])]

theorem jobCut_begins {s : State} {job : BitVec 32} (hno : s.hub.stopping = none) (hmay : s.mayBeStopped = true) :
    ∃ t : State, exec (.jobCut job) s = .next t ∧ MemoryKept s t ∧ t.hub.stopping = some (s.hub.stopAddr, some job.toNat) ∧
      (∀ q, (t.queue q).enabled = false) ∧ t.hub.egress = s.hub.egress ++ (s.jobLinks job.toNat).map (fun n => Egress.splice n job) := by
  let u : State := { s with hub := { s.hub with
    egress := s.hub.egress ++ (s.jobLinks job.toNat).map (fun n => Egress.splice n job), cutJob := some job.toNat } }
  have hexec : exec (.jobCut job) s = .next (u.beginStop s.hub.stopAddr (some job.toNat)) := by
    show execJobCut job s = _
    unfold execJobCut
    rw [hno]
    dsimp only
    rw [if_neg (by simp [hmay])]
  exact ⟨_, hexec, ⟨fun _ => rfl, fun _ => rfl, rfl⟩, rfl, fun q => by rw [queue_beginStop]; rfl, rfl⟩

/-! ### What a walk of a chain touches -/

/-- A relation of states that what fetches do keeps: writes of device memory, charges, and atomics sent to a peer's page tables. -/
structure Fetching (R : State → State → Prop) : Prop where
  refl : ∀ s, R s s
  trans : ∀ {s t u}, R s t → R t u → R s u
  write : ∀ s a n v, R s (s.devWrite a n v)
  charge : ∀ s p i n, R s (s.charge p i n)
  send : ∀ (s : State) links egress, R s { s.fresh.2 with hub := { s.hub with links := links, egress := egress } }

section
variable {R : State → State → Prop} (hR : Fetching R)
include hR

theorem Fetching.each {α : Type} {f : State → α → State} (hf : ∀ s a, R s (f s a)) (s : State) (xs : List α) : R s (s.each xs f) :=
  State.each_ind (P := R s) (fun t a ht => hR.trans ht (hf t a)) (hR.refl s) xs

theorem Fetching.chargeEntries (s : State) (p : Nat) (es : List Nat) : R s (s.chargeEntries p es) := by
  refine hR.each (fun t a => ?_) s es
  split
  · exact hR.charge t p _ 1
  · exact hR.refl t

theorem Fetching.orEntries (s : State) (p : Nat) (es : List Nat) (m : Nat) : R s (s.orEntries p es m) := by
  refine hR.trans (hR.chargeEntries s p es) (hR.each (fun t a => ?_) _ es)
  split
  · dsimp only
    split
    · exact hR.refl t
    · exact hR.send t _ _
  · exact hR.write t a 8 _

theorem Fetching.touchPtr (s : State) (g : Agent) (p n : Nat) : R s (s.touchPtr g p n) := by
  unfold State.touchPtr
  split
  · refine hR.each (fun t a => ?_) s _
    split
    · exact hR.refl t
    · split
      · exact hR.trans (hR.chargeEntries t _ _) (hR.orEntries _ _ _ _)
      · exact hR.chargeEntries t _ _
  · exact hR.refl s

theorem Fetching.chargePieces (s : State) (p : Nat) (ps : List Piece) : R s (s.chargePieces p ps) := by
  refine hR.each (fun t q => ?_) s ps
  split
  · split
    · exact hR.charge t p _ _
    · exact hR.refl t
  · exact hR.refl t

theorem Fetching.bulkRead {s t : State} {g : Agent} {p n v : Nat} (h : s.bulkRead g p n = .ok (v, t)) : R s t := by
  unfold State.bulkRead at h
  split at h
  · cases h
  · split at h
    · cases h
    · cases h
      exact hR.trans (hR.touchPtr _ _ _ _) (hR.chargePieces _ _ _)

theorem Fetching.readStrand {s t : State} {g : Agent} {p v : Nat} (h : s.readStrand g p = .ok (v, t)) : R s t := by
  unfold State.readStrand at h
  split at h
  · cases h
  · split at h
    · cases h
    · split at h
      · cases h
      · next hb =>
        cases h
        exact hR.bulkRead hb

theorem Fetching.paramOf {s t : State} {g : Agent} {v b : Nat} (h : s.paramOf g v = .ok (b, t)) : R s t := by
  unfold State.paramOf at h
  dsimp only at h
  split at h
  · split at h
    · cases h
    · cases h
      exact hR.refl s
  · split at h
    · cases h
    · split at h
      · cases h
      · split at h
        · cases h
        · next hb =>
          split at h
          · cases h
          · cases h
            exact hR.bulkRead hb

theorem Fetching.strandCheck {s t : State} {g : Agent} {swap : Bool} {v b : Nat} (h : s.strandCheck g swap v = .ok (b, t)) : R s t := by
  unfold State.strandCheck at h
  dsimp only at h
  iterate 6
    split at h
    · cases h
  split at h
  · cases h
  · next hp =>
    split at h
    · cases h
    · cases h
      exact hR.paramOf hp

theorem Fetching.chainStrand {s t : State} {g : Agent} {v : Nat} {e : Nat × Nat} (h : s.chainStrand g v = some (e, t)) : R s t := by
  unfold State.chainStrand at h
  split at h
  · cases h
  · split at h
    · cases h
    · next hc =>
      split at h
      · next hb =>
        split at h
        · cases h
        · split at h
          · cases h
            exact hR.trans (hR.strandCheck hc) (hR.bulkRead hb)
          · cases h
      · cases h

theorem Fetching.chainPages {g : Agent} {n : Nat} : ∀ {s t : State} {p : Nat} {es : List (Nat × Nat)}, s.chainPages g n p = some (es, t) → R s t := by
  induction n with
  | zero =>
    intro s t p es h
    unfold State.chainPages at h
    split at h
    · cases h
      exact hR.refl s
    · cases h
  | succ n ih =>
    intro s t p es h
    unfold State.chainPages at h
    split at h
    · cases h
      exact hR.refl s
    · split at h
      · cases h
      · split at h
        · cases h
        · next hr =>
          split at h
          · cases h
          · next hs =>
            obtain ⟨⟨es', t'⟩, hp, he⟩ := Option.map_eq_some_iff.mp h
            cases he
            exact hR.trans (hR.trans (hR.readStrand hr) (hR.chainStrand hs)) (ih hp)

end

/-! ### Flits let go (R339) -/

/-- The queues and what the hub says of stops and restored images are as they were. -/
structure QueuesKept (s t : State) : Prop where
  queues : t.queues = s.queues
  restoreErr : t.hub.restoreErr = s.hub.restoreErr
  stopping : t.hub.stopping = s.hub.stopping

theorem QueuesKept.refl (s : State) : QueuesKept s s := ⟨rfl, rfl, rfl⟩

theorem QueuesKept.trans {s t u : State} (hst : QueuesKept s t) (htu : QueuesKept t u) : QueuesKept s u :=
  ⟨htu.queues.trans hst.queues, htu.restoreErr.trans hst.restoreErr, htu.stopping.trans hst.stopping⟩

theorem Falls.queuesKept {s t : State} (h : Falls s t) : QueuesKept s t := by
  obtain ⟨_, _, _, _, _, _, _, _, _, _, _, _, ht⟩ := h.rest
  obtain ⟨_, _, _, hh⟩ := h.hub
  exact ⟨by rw [ht], by rw [hh], by rw [hh]⟩

theorem fetching_queuesKept : Fetching QueuesKept :=
  ⟨QueuesKept.refl, QueuesKept.trans, fun s a n v => (falls_devWrite s a n v).queuesKept, fun _ _ _ _ => ⟨rfl, rfl, rfl⟩, fun _ _ _ => ⟨rfl, rfl, rfl⟩⟩

theorem queuesKept_of {s t : State} (hq : t.queues = s.queues) (hh : t.hub = s.hub) : QueuesKept s t := ⟨hq, by rw [hh], by rw [hh]⟩

theorem queuesKept_writeReg (s : State) (c x : Nat) (r : Reg) (ty : ETy) (v : Nat) : QueuesKept s (s.writeReg c x r ty v) := by
  have hcount : QueuesKept s (s.countUnits c x [r]) := by
    have h := s.countUnits_rest c x [r]
    exact queuesKept_of (by rw [h]) (by rw [h])
  refine hcount.trans ?_
  cases r <;> exact queuesKept_of rfl rfl

theorem queuesKept_postRecord (s : State) (p c x : Nat) (t : Trap) (level flags : Nat) : QueuesKept s (s.postRecord p c x t level flags).1 := by
  unfold State.postRecord
  dsimp only
  split
  · exact QueuesKept.refl s
  · split
    · exact QueuesKept.refl s
    · exact ((falls_devWrite s _ _ _).trans (falls_setPart _ p _)).queuesKept

theorem queuesKept_fatalTrap (s : State) (c x : Nat) (t : Trap) (nested : Bool) : QueuesKept s (s.fatalTrap c x t nested) := by
  unfold State.fatalTrap
  dsimp only
  have hfell := ((falls_postFatal s (s.partOf c) c x t (s.ctx c x).level
    (b2n t.async * 2 + 4 + b2n nested * 8 + b2n (((s.launchOf c).map (·.noRoll)).getD false) * 32)).trans (falls_fatalCore _ c)).queuesKept
  split
  · exact hfell.trans (windsDown_endLaunch _ _ 3).falls.queuesKept
  · exact hfell

theorem queuesKept_setLaunch (s : State) (l : Launch) : QueuesKept s (s.setLaunch l) := queuesKept_of rfl rfl

theorem queuesKept_stopTeam (s : State) (l : Launch) (c x : Nat) : QueuesKept s (s.stopTeam l c x) := by
  refine State.each_ind (P := QueuesKept s) (fun t d ht => ?_) (QueuesKept.refl s) _
  refine State.each_ind (P := QueuesKept s) (fun u y hu => ?_) ht _
  split
  · exact hu
  · exact hu.trans (queuesKept_of rfl rfl)

theorem queuesKept_endHub (s : State) (c x : Nat) : QueuesKept s (s.endHub c x) := by
  obtain ⟨⟨_, _, _, _, hr⟩, -⟩ := banksStay_endTicket s c x
  have hend : QueuesKept s (s.endTicket c x) := queuesKept_of (by rw [hr]) (by rw [hr])
  exact hend.trans (queuesKept_of rfl rfl)

theorem queuesKept_enterHandler (s : State) (c x : Nat) (t : Trap) (slot : Option Nat) (rb : Bool) : QueuesKept s (s.enterHandler c x t slot rb) := by
  unfold State.enterHandler
  dsimp only
  have hraw (b o n v : Nat) : QueuesKept s (s.bankRaw b o n v) := ⟨rfl, rfl, rfl⟩
  have hset (u : State) (k : Ctx) : QueuesKept u (u.setCtx c x k) := queuesKept_of rfl rfl
  exact (hraw _ _ _ _).trans (hset _ _)

theorem queuesKept_takeTrap {s t : State} {c x : Nat} {tr : Trap} (h : s.takeTrap c x tr = some t) : QueuesKept s t := by
  unfold State.takeTrap at h
  dsimp only at h
  split at h
  · cases h
    exact (queuesKept_endHub s c x).trans ⟨rfl, rfl, rfl⟩
  · split at h
    · cases h
    · split at h
      · cases h; exact queuesKept_fatalTrap s c x tr true
      · split at h
        · split at h
          · cases h
          · cases h; exact (queuesKept_postRecord s _ c x tr 0 _).trans (queuesKept_enterHandler _ c x tr _ _)
        · split at h
          · split at h
            · cases h; exact queuesKept_fatalTrap s c x tr false
            · split at h
              · cases h
              · cases h
                refine QueuesKept.trans ?_ (queuesKept_enterHandler _ c x tr _ _)
                refine QueuesKept.trans ?_ (queuesKept_stopTeam _ _ c x)
                exact (queuesKept_postRecord s _ c x tr 0 _).trans (queuesKept_setLaunch _ _)
          · cases h; exact queuesKept_fatalTrap s c x tr false

theorem queuesKept_deliver {s t : State} {a : Access} {v : Nat} (h : s.deliver a v = some t) : QueuesKept s t := by
  have hon (u : State) (hu : QueuesKept s u) :
      QueuesKept s (if (s.ctx a.core a.ctx).wait == .access a.group then u.finishWait a.core a.ctx else u) := by
    split
    · exact hu.trans (queuesKept_of rfl rfl)
    · exact hu
  have hdrop : QueuesKept s (s.dropLoad a.core a.group) := queuesKept_of rfl rfl
  have htrap {cause detail va ipa : Nat} (hw : (s.dropLoad a.core a.group).trapWaiting a.core a.ctx cause detail va ipa = some t) : QueuesKept s t := by
    have hset (u : State) (k : Ctx) : QueuesKept u (u.setCtx a.core a.ctx k) := queuesKept_of rfl rfl
    exact (hdrop.trans (hset _ _)).trans (queuesKept_takeTrap (show State.takeTrap _ _ _ _ = some t from hw))
  unfold State.deliver at h
  dsimp only at h
  split at h
  · cases h; exact hdrop
  · split at h
    · cases h; exact hon s (QueuesKept.refl s)
    · split at h
      · split at h
        · exact htrap h
        · split at h
          · exact htrap h
          · cases h; exact hon _ (hdrop.trans (queuesKept_writeReg _ _ _ _ _ _))
      · cases h; exact hon _ (hdrop.trans (queuesKept_writeReg _ _ _ _ _ _))

theorem queuesKept_giveValue {s t : State} {a : Access} {v : Nat} (h : s.giveValue a v = some t) : QueuesKept s t := by
  have hdrop : QueuesKept s (s.dropAccess a.id) := queuesKept_of rfl rfl
  unfold State.giveValue at h
  dsimp only at h
  split at h
  · cases h; exact hdrop.trans (queuesKept_of rfl rfl)
  · exact hdrop.trans (queuesKept_deliver h)

theorem queuesKept_acknowledge (s : State) (a : Access) : QueuesKept s (s.acknowledge a) := by
  unfold State.acknowledge
  dsimp only
  split
  · exact queuesKept_of rfl rfl
  · cases a.jrn <;> exact queuesKept_of rfl rfl

theorem queuesKept_answer (s : State) (id : Nat) (payload : List Byte) : QueuesKept s (s.answer id payload) := by
  unfold State.answer
  split
  · exact QueuesKept.refl s
  · next a _ =>
    have hgive (b : Access) : QueuesKept s ((s.giveValue a (ofBytes (payload.take a.size))).getD (s.setAccess b)) := by
      cases h : s.giveValue a (ofBytes (payload.take a.size)) with
      | none => exact queuesKept_of rfl rfl
      | some t => exact queuesKept_giveValue h
    have hany (b : Bool) (c : Access) : QueuesKept s (if b then s else if a.jrn.isSome || a.path != .ls then s.acknowledge a
        else (s.giveValue a (ofBytes (payload.take a.size))).getD (s.setAccess c)) := by
      split
      · exact QueuesKept.refl s
      · split
        · exact queuesKept_acknowledge s a
        · exact hgive c
    exact hany _ _

theorem queuesKept_sendData (s : State) (n a : Nat) (bs : List Byte) : QueuesKept s (s.sendData n a bs) := ⟨rfl, rfl, rfl⟩

theorem queuesKept_deliverFlit (s : State) (n : Nat) (f : Flit) : QueuesKept s (s.deliverFlit n f) := by
  unfold State.deliverFlit
  split
  · exact ⟨rfl, rfl, rfl⟩
  · split
    · exact QueuesKept.refl s
    · exact queuesKept_answer s _ _
    · split
      · exact (falls_devWrite s _ _ _).queuesKept
      · exact QueuesKept.refl s
    · split
      · exact queuesKept_sendData s n _ _
      · exact QueuesKept.refl s
    · dsimp only
      split
      · exact (falls_devWrite s _ _ _).queuesKept.trans (queuesKept_sendData _ n _ _)
      · exact QueuesKept.refl s

/-- The flits that a link holds let go. -/
def State.releaseLink (s : State) (n : Nat) : State :=
  (s.setLink n { s.link n with cut := none, heldFlits := [] }).each (s.link n).heldFlits (fun s f => s.deliverFlit n f)

theorem releaseFlits_eq (s : State) : s.releaseFlits = s.each (List.range 8) State.releaseLink := rfl

theorem queuesKept_releaseFlits (s : State) : QueuesKept s s.releaseFlits := by
  rw [releaseFlits_eq]
  refine State.each_ind (P := QueuesKept s) (fun t n ht => ht.trans ?_) (QueuesKept.refl s) _
  have hset (k : Link) : QueuesKept t (t.setLink n k) := ⟨rfl, rfl, rfl⟩
  exact State.each_ind (P := QueuesKept t) (f := fun s f => s.deliverFlit n f) (fun u f hu => hu.trans (queuesKept_deliverFlit u n f)) (hset _)
    (t.link n).heldFlits

theorem heldFlits_setLink (s : State) (n m : Nat) {k : Link} (hk : k.heldFlits = []) (hm : (s.link m).heldFlits = []) :
    ((s.setLink n k).link m).heldFlits = [] := by
  show ((s.hub.links.setIfInBounds n k).toList.getD m Link.reset).heldFlits = []
  rw [Vector.toList_setIfInBounds, List.getD_eq_getElem?_getD, List.getElem?_set]
  split
  · split
    · exact hk
    · rfl
  · rw [← List.getD_eq_getElem?_getD]
    exact hm

/-- No flit held on any of the eight links. -/
def State.holdsNothing (s : State) : Prop := ∀ n, n < 8 → (s.link n).heldFlits = []

theorem releaseFlits_empty {s : State} (hs : s.holdsNothing) : s.releaseFlits.mem = s.mem := by
  rw [releaseFlits_eq]
  refine (State.each_ind_mem (P := fun t => t.mem = s.mem ∧ t.holdsNothing) (fun t n hn ht => ?_) ⟨rfl, hs⟩).1
  obtain ⟨hmem, hheld⟩ := ht
  have heq : t.releaseLink n = t.setLink n { t.link n with cut := none, heldFlits := [] } := by
    rw [State.releaseLink, hheld n (List.mem_range.mp hn)]
    rfl
  rw [heq]
  exact ⟨hmem, fun m hm => heldFlits_setLink t n m rfl (hheld m hm)⟩

/-! ### Queues put back (R338) -/

/-- A queue of an image as it is put back. -/
def WQueue.restored (k : WQueue) (q : QImage) : WQueue :=
  let next := fieldB q.word 4 4
  let c := fieldB q.word 8 8
  let base := next + 2 ^ 32 - q.recs.length
  { k with
    enabled := false, discard := bit c 62, weight := max 1 (bits c 55 48), prio := bits c 47 45, part := bits c 39 32, job := bits c 31 0
    saveOn := bit (fieldB q.word 24 8) 63, saveBase := bits (fieldB q.word 24 8) 47 21 * 2 ^ 21, nextSeq := next
    pending := q.recs.zipIdx.map (fun e => ({ seq := (base + e.2) % 2 ^ 32, n := e.1.1, bytes := e.1.2, read := false, dep := none
                                              eligible := none, arrival := [], chain := 0 } : PRec)) }

theorem restoreQueue_eq (s : State) (q : QImage) : s.restoreQueue q =
    (s.setQueue q.queue ((s.queue q.queue).restored q)).chainWrite q.queue (BitVec.ofNat 64 (fieldB q.word 16 8)) := rfl

/-- The records and the next number that an image gives a queue. -/
def Restored (s : State) (q : QImage) : Prop :=
  (s.queue q.queue).nextSeq = fieldB q.word 4 4 ∧ (s.queue q.queue).pending.map (fun r => (r.n, r.bytes)) = q.recs

theorem restored_queue (k : WQueue) (q : QImage) : (k.restored q).nextSeq = fieldB q.word 4 4 ∧
    (k.restored q).pending.map (fun r => (r.n, r.bytes)) = q.recs := by
  refine ⟨rfl, ?_⟩
  show (q.recs.zipIdx.map _).map _ = _
  rw [List.map_map]
  exact List.zipIdx_map_fst 0 q.recs

/-- A write of a queue's chain register changes other queues not, and of its own only what it says of the chain. -/
theorem chainWrite_queues (s : State) (q : Nat) (w : Word) :
    (∀ r, r ≠ q → (s.chainWrite q w).queue r = s.queue r) ∧
      ((s.chainWrite q w).queue q).nextSeq = (s.queue q).nextSeq ∧ ((s.chainWrite q w).queue q).pending = (s.queue q).pending ∧
      (s.chainWrite q w).hub.restoreErr = s.hub.restoreErr ∧ (s.chainWrite q w).hub.stopping = s.hub.stopping ∧
      (w.getLsbD 63 = false → (s.chainWrite q w).mem = s.mem ∧ (s.chainWrite q w).hub.links = s.hub.links) := by
  by_cases hq : s.chosenQueue q = true
  · rw [show s.chainWrite q w = s from if_pos hq]
    exact ⟨fun _ _ => rfl, rfl, rfl, rfl, rfl, fun _ => ⟨rfl, rfl⟩⟩
  · have hset {u t : State} (hu : QueuesKept s u) 
        (ht : ∃ k : WQueue, t.queues = Tab.put u.queues q k ∧ k.nextSeq = (u.queue q).nextSeq ∧ k.pending = (u.queue q).pending) (hh : t.hub.restoreErr = u.hub.restoreErr ∧ t.hub.stopping = u.hub.stopping) :
        (∀ r, r ≠ q → t.queue r = s.queue r) ∧ (t.queue q).nextSeq = (s.queue q).nextSeq ∧ (t.queue q).pending = (s.queue q).pending ∧
          t.hub.restoreErr = s.hub.restoreErr ∧ t.hub.stopping = s.hub.stopping := by
      obtain ⟨k, ht, hk⟩ := ht
      have hqu (r : Nat) : u.queue r = s.queue r := by rw [State.queue, hu.queues]; rfl
      have htq : t.queue q = k := by rw [State.queue, ht]; exact Tab.getD_put_self _ _ _ _
      refine ⟨fun r hr => ?_, ?_, ?_, hh.1.trans hu.restoreErr, hh.2.trans hu.stopping⟩
      · rw [← hqu r, State.queue, ht]
        exact Tab.getD_put_ne _ _ _ _ _ hr
      · rw [htq, hk.1, hqu]
      · rw [htq, hk.2, hqu]
    have hdis : QueuesKept s (s.disown q) := ⟨rfl, rfl, rfl⟩
    rcases chainWrite_cases (by simpa using hq) w with ⟨-, ht⟩ | ⟨es, u, hon, hwalk, ht | ⟨-, ht⟩⟩
    · rw [ht]
      obtain ⟨h1, h2, h3, h4, h5⟩ := hset (t := (s.disown q).chainOff q (bits w.toNat 47 6 * 64)) hdis ⟨_, rfl, rfl, rfl⟩ ⟨rfl, rfl⟩
      exact ⟨h1, h2, h3, h4, h5, fun _ => ⟨rfl, rfl⟩⟩
    · rw [ht]
      have hu := hdis.trans (fetching_queuesKept.chainPages hwalk)
      obtain ⟨h1, h2, h3, h4, h5⟩ := hset (t := u.chainOff q (bits w.toNat 47 6 * 64)) hu ⟨_, rfl, rfl, rfl⟩ ⟨rfl, rfl⟩
      exact ⟨h1, h2, h3, h4, h5, fun h => by rw [hon] at h; cases h⟩
    · rw [ht]
      have hu := hdis.trans (fetching_queuesKept.chainPages hwalk)
      obtain ⟨h1, h2, h3, h4, h5⟩ := hset (t := u.chained q (bits w.toNat 47 6 * 64) es) hu ⟨_, rfl, rfl, rfl⟩ ⟨rfl, rfl⟩
      exact ⟨h1, h2, h3, h4, h5, fun h => by rw [hon] at h; cases h⟩

theorem bit_eq_testBit (v i : Nat) : bit v i = v.testBit i := by
  rw [bit, bits, Nat.add_sub_cancel_left, Nat.pow_one, Nat.testBit_eq_decide_div_mod_eq]
  rfl

/-- What putting queues of an image back leaves. -/
structure PutBack (qs : List QImage) (s t : State) : Prop where
  others : ∀ r, r ∉ qs.map (fun e => e.queue) → t.queue r = s.queue r
  restored : ∀ e ∈ qs, Restored t e
  restoreErr : t.hub.restoreErr = s.hub.restoreErr
  stopping : t.hub.stopping = s.hub.stopping
  mem : (∀ e ∈ qs, bit (fieldB e.word 16 8) 63 = false) → t.mem = s.mem ∧ t.hub.links = s.hub.links

theorem restoreQueue_effect (s : State) (q : QImage) : PutBack [q] s (s.restoreQueue q) := by
  obtain ⟨hother, hnext, hpending, herr, hstop, hmem⟩ := chainWrite_queues (s.setQueue q.queue ((s.queue q.queue).restored q)) q.queue
    (BitVec.ofNat 64 (fieldB q.word 16 8))
  rw [← restoreQueue_eq] at hother hnext hpending herr hstop hmem
  obtain ⟨hk, hrecs⟩ := restored_queue (s.queue q.queue) q
  refine ⟨fun r hr => ?_, fun e he => ?_, herr, hstop, fun hall => hmem ?_⟩
  · have hne : r ≠ q.queue := by simpa using hr
    rw [hother r hne, State.queue_setQueue, if_neg hne]
  · obtain rfl := List.mem_singleton.mp he
    exact ⟨by rw [hnext, State.queue_setQueue_self]; exact hk, by rw [hpending, State.queue_setQueue_self]; exact hrecs⟩
  · rw [BitVec.getLsbD_ofNat]
    exact Bool.and_eq_false_iff.mpr (.inr ((bit_eq_testBit _ _).symm.trans (hall q List.mem_cons_self)))

theorem putBack_each : ∀ {qs : List QImage} (s : State), (qs.map (fun e => e.queue)).Nodup → PutBack qs s (s.each qs State.restoreQueue)
  | [], s, _ => ⟨fun _ _ => rfl, fun _ h => absurd h List.not_mem_nil, rfl, rfl, fun _ => ⟨rfl, rfl⟩⟩
  | q :: qs, s, hnd => by
    rw [List.map_cons, List.nodup_cons] at hnd
    obtain ⟨hq, hnd⟩ := hnd
    have hone := restoreQueue_effect s q
    have hrest := putBack_each (s.restoreQueue q) hnd
    refine ⟨fun r hr => ?_, fun e he => ?_, hrest.restoreErr.trans hone.restoreErr, hrest.stopping.trans hone.stopping, fun hall => ?_⟩
    · rw [List.map_cons, List.mem_cons, not_or] at hr
      exact (hrest.others r hr.2).trans (hone.others r (by simpa using hr.1))
    · rcases List.mem_cons.mp he with rfl | he
      · have hsame := hrest.others e.queue hq
        obtain ⟨hnext, hpending⟩ := hone.restored e List.mem_cons_self
        exact ⟨(congrArg WQueue.nextSeq hsame).trans hnext, (congrArg (fun k : WQueue => k.pending.map fun r => (r.n, r.bytes)) hsame).trans hpending⟩
      · exact hrest.restored e he
    · obtain ⟨hm, hl⟩ := hone.mem fun e he => hall e (List.mem_singleton.mp he ▸ List.mem_cons_self)
      obtain ⟨hm', hl'⟩ := hrest.mem fun e he => hall e (List.mem_cons_of_mem q he)
      exact ⟨hm'.trans hm, hl'.trans hl⟩

/-- A queue of an image enabled as its word says. -/
def State.enableAs (s : State) (q : QImage) : State := s.setQueue q.queue { s.queue q.queue with enabled := bit (fieldB q.word 8 8) 63 }

/-- Enabling queues changes nothing but whether they are enabled. -/
structure Enables (qs : List QImage) (s t : State) : Prop where
  rest : ∃ queues, t = { s with queues := queues }
  same : ∀ r, ∃ b, t.queue r = { s.queue r with enabled := b }
  others : ∀ r, r ∉ qs.map (fun e => e.queue) → t.queue r = s.queue r
  enabled : ∀ e ∈ qs, (t.queue e.queue).enabled = bit (fieldB e.word 8 8) 63

theorem enables_each : ∀ {qs : List QImage} (s : State), (qs.map (fun e => e.queue)).Nodup → Enables qs s (s.each qs State.enableAs)
  | [], s, _ => ⟨⟨_, rfl⟩, fun _ => ⟨_, rfl⟩, fun _ _ => rfl, fun _ h => absurd h List.not_mem_nil⟩
  | q :: qs, s, hnd => by
    rw [List.map_cons, List.nodup_cons] at hnd
    obtain ⟨hq, hnd⟩ := hnd
    have hone (r : Nat) : (s.enableAs q).queue r = if r = q.queue then { s.queue q.queue with enabled := bit (fieldB q.word 8 8) 63 } else s.queue r :=
      State.queue_setQueue s q.queue r _
    have hrest := enables_each (s.enableAs q) hnd
    obtain ⟨queues, hr⟩ := hrest.rest
    refine ⟨⟨queues, hr⟩, fun r => ?_, fun r hr => ?_, fun e he => ?_⟩
    · obtain ⟨b, hb⟩ := hrest.same r
      rw [hone] at hb
      split at hb
      · next h => exact ⟨b, by rw [h] at hb ⊢; exact hb⟩
      · exact ⟨b, hb⟩
    · rw [List.map_cons, List.mem_cons, not_or] at hr
      exact (hrest.others r hr.2).trans (by rw [hone, if_neg hr.1])
    · rcases List.mem_cons.mp he with rfl | he
      · exact (congrArg WQueue.enabled (hrest.others e.queue hq)).trans (by rw [hone, if_pos rfl])
      · exact hrest.enabled e he

/-- A device that takes an image: no stop is under way. -/
def State.unstopped (s : State) : State :=
  { s with hub := { s.hub with stopping := none, stopped := false, stopOn := [], cutJob := none, cutDone := false, restoreErr := false } }

theorem restore_fails {s : State} {a : Nat} (hal : a % 4096 = 0) (hdev : s.devRange a 1 = true) (hid : fieldB (s.mem.read a 64) 0 4 ≠ 0x56530001) :
    ∃ t : State, exec (.stopImageRestore a) s = .next t ∧ MemoryKept s t ∧ t.hub.restoreErr = true ∧ ∀ q, (t.queue q).enabled = false := by
  have hexec : exec (.stopImageRestore a) s = .next { s with queues := offAll s.queues, hub := { s.hub with restoreErr := true } } := by
    show execStopImageRestore a s = _
    unfold execStopImageRestore
    generalize s.mem.read a 64 = hd at hid ⊢
    dsimp only
    rw [if_neg (by simp [hal, hdev]), if_pos (by simpa using hid)]
    rfl
  exact ⟨_, hexec, ⟨fun _ => rfl, fun _ => rfl, rfl⟩, rfl, fun q => congrArg WQueue.enabled (queue_offAll s q)⟩

theorem exec_restore {s : State} {a : Nat} {qs : List QImage} (hal : a % 4096 = 0) (hdev : s.devRange a 1 = true)
    (hid : fieldB (s.mem.read a 64) 0 4 = 0x56530001) (hl : fieldB (s.mem.read a 64) 6 2 = 0) (hc : fieldB (s.mem.read a 64) 8 2 = 0)
    (hqs : (s.readQueues (fieldB (s.mem.read a 64) 4 2) (a + 64)).1 = qs) :
    exec (.stopImageRestore a) s = .next ((s.unstopped.each qs State.restoreQueue).each qs State.enableAs).releaseFlits := by
  show execStopImageRestore a s = _
  unfold execStopImageRestore
  generalize s.mem.read a 64 = hd at hid hl hc hqs ⊢
  dsimp only
  rw [if_neg (by simp [hal, hdev]), hid, hl, hc, hqs]
  rfl

theorem restore_puts {s : State} {a : Nat} {qs : List QImage} (hal : a % 4096 = 0) (hdev : s.devRange a 1 = true)
    (hid : fieldB (s.mem.read a 64) 0 4 = 0x56530001) (hl : fieldB (s.mem.read a 64) 6 2 = 0) (hc : fieldB (s.mem.read a 64) 8 2 = 0)
    (hqs : (s.readQueues (fieldB (s.mem.read a 64) 4 2) (a + 64)).1 = qs) (hnd : (qs.map (fun e => e.queue)).Nodup) :
    ∃ t : State, exec (.stopImageRestore a) s = .next t ∧
      ((∀ e ∈ qs, bit (fieldB e.word 16 8) 63 = false) → (∀ n, n < 8 → (s.link n).heldFlits = []) → t.mem = s.mem) ∧
      t.hub.restoreErr = false ∧ t.hub.stopping = none ∧
      ∀ e ∈ qs, (t.queue e.queue).enabled = bit (fieldB e.word 8 8) 63 ∧ (t.queue e.queue).nextSeq = fieldB e.word 4 4 ∧
        (t.queue e.queue).pending.map (fun r => (r.n, r.bytes)) = e.recs := by
  have hexec := exec_restore hal hdev hid hl hc hqs
  have hback := putBack_each s.unstopped hnd
  generalize s.unstopped.each qs State.restoreQueue = u at hexec hback
  have hon := enables_each u hnd
  generalize u.each qs State.enableAs = v at hexec hon
  obtain ⟨queues, hv⟩ := hon.rest
  have hkept := queuesKept_releaseFlits v
  refine ⟨_, hexec, fun hall hheld => ?_, ?_, ?_, fun e he => ?_⟩
  · obtain ⟨hmem, hlinks⟩ := hback.mem hall
    have hvlinks : v.hub.links = s.hub.links := by rw [hv]; exact hlinks
    have hnone : v.holdsNothing := fun n hn => by
      rw [State.link, hvlinks]
      exact hheld n hn
    rw [releaseFlits_empty hnone, hv]
    exact hmem
  · rw [hkept.restoreErr, hv]
    exact hback.restoreErr
  · rw [hkept.stopping, hv]
    exact hback.stopping
  · have hq : v.releaseFlits.queue e.queue = v.queue e.queue := congrArg (fun qs => Tab.getD qs e.queue WQueue.reset) hkept.queues
    obtain ⟨b, hb⟩ := hon.same e.queue
    obtain ⟨hnext, hpending⟩ := hback.restored e he
    refine ⟨by rw [hq]; exact hon.enabled e he, ?_, ?_⟩
    · rw [hq, hb]; exact hnext
    · rw [hq, hb]; exact hpending

/-- Settles O59, from what each event of the device's life leaves. -/
theorem deviceLife : Obligations.DeviceLife := by
  unfold Obligations.DeviceLife
  refine ⟨fun s b => ⟨deviceReset_effect s b, lifeCycle_effect, rfl⟩, fun s d hd => ⟨dieReset_effect hd, dieComesBack⟩,
    fun s p v pages hp => ⟨partitionTeardown_effect hp pages, partitionCreation_effect hp⟩,
    fun s a job hno => ⟨migrationStop_begins hno, migrationStop_refused hno, jobCut_begins hno⟩,
    fun s a hal hdev => ⟨restore_fails hal hdev, fun hid hl hc hnd => restore_puts hal hdev hid hl hc rfl hnd⟩⟩

end Sys2Proof.Machine
end

section
/-!
O53: a saved context is the context. The fields of a save area ascend, so each reads back as it was laid out, and what lies between
them reads zero (R320).
-/

namespace Sys2Proof.Machine

open Sys2Proof

/-! ### Records of ascending fields -/

/-- Fields that ascend without overlap from lo to hi. -/
def Ascends : Nat → Nat → List (Nat × Nat × Nat) → Prop
  | lo, hi, [] => lo ≤ hi
  | lo, hi, (o, n, _) :: fs => lo ≤ o ∧ Ascends (o + n) hi fs

theorem Ascends.append {lo mid hi : Nat} : ∀ {fs gs : List (Nat × Nat × Nat)}, Ascends lo mid fs → Ascends mid hi gs → Ascends lo hi (fs ++ gs)
  | [], [], hf, hg => le_trans hf hg
  | [], (_, _, _) :: _, hf, hg => ⟨le_trans hf hg.1, hg.2⟩
  | (_, _, _) :: _, _, hf, hg => ⟨hf.1, hf.2.append hg⟩

theorem Ascends.le {lo hi : Nat} : ∀ {fs : List (Nat × Nat × Nat)}, Ascends lo hi fs → lo ≤ hi
  | [], h => h
  | (o, n, _) :: _, h => le_trans h.1 (le_trans (Nat.le_add_right o n) h.2.le)

theorem Ascends.mono {lo hi hi' : Nat} (hle : hi ≤ hi') : ∀ {fs : List (Nat × Nat × Nat)}, Ascends lo hi fs → Ascends lo hi' fs
  | [], h => le_trans h hle
  | (_, _, _) :: _, h => ⟨h.1, h.2.mono hle⟩

theorem ascends_fileAt (n : Nat) (vs : List Nat) (o : Nat) : Ascends o (o + n * vs.length) (fileAt o n vs) := by
  have hgen (vs : List Nat) : ∀ k, Ascends (o + n * k) (o + n * (k + vs.length)) ((vs.zipIdx k).map (fun e => (o + n * e.2, n, e.1))) := by
    induction vs with
    | nil => exact fun k => le_refl _
    | cons v vs ih =>
      intro k
      refine ⟨le_refl _, ?_⟩
      have h := ih (k + 1)
      rw [show o + n * (k + 1) = o + n * k + n by ring, show k + 1 + vs.length = k + (v :: vs).length by rw [List.length_cons]; omega] at h
      exact h
  have h := hgen vs 0
  rwa [Nat.mul_zero, Nat.add_zero, Nat.zero_add] at h

theorem foldl_layout (fs : List (Nat × Nat × Nat)) : ∀ a, fs.foldl (fun a f => a + f.2.2 % 256 ^ f.2.1 * 256 ^ f.1) a = a + layout fs := by
  unfold layout
  induction fs with
  | nil => exact fun a => rfl
  | cons f fs ih =>
    intro a
    rw [List.foldl_cons, List.foldl_cons, ih, ih (0 + _), Nat.zero_add, Nat.add_assoc]

theorem layout_append (fs gs : List (Nat × Nat × Nat)) : layout (fs ++ gs) = layout fs + layout gs := by
  rw [layout, List.foldl_append, foldl_layout]
  rfl

theorem layout_cons (o n w : Nat) (fs : List (Nat × Nat × Nat)) : layout ((o, n, w) :: fs) = w % 256 ^ n * 256 ^ o + layout fs := by
  rw [layout, List.foldl_cons, foldl_layout, Nat.zero_add]

theorem pow_dvd_layout {lo hi : Nat} : ∀ {fs : List (Nat × Nat × Nat)}, Ascends lo hi fs → 256 ^ lo ∣ layout fs
  | [], _ => Nat.dvd_zero _
  | (o, n, w) :: fs, h => by
    rw [layout_cons]
    have htail := pow_dvd_layout h.2
    exact Nat.dvd_add (Dvd.dvd.mul_left (pow_dvd_pow 256 h.1) _) ((pow_dvd_pow 256 (le_trans h.1 (Nat.le_add_right o n))).trans htail)

theorem layout_lt {lo hi : Nat} : ∀ {fs : List (Nat × Nat × Nat)}, Ascends lo hi fs → layout fs < 256 ^ hi
  | [], _ => by positivity
  | (o, n, w) :: fs, h => by
    rw [layout_cons]
    obtain ⟨k, hk⟩ := pow_dvd_layout h.2
    have hhi := layout_lt h.2
    obtain ⟨j, rfl⟩ := Nat.exists_eq_add_of_le h.2.le
    have hlow : w % 256 ^ n * 256 ^ o < 256 ^ (o + n) := by
      rw [Nat.pow_add, Nat.mul_comm (256 ^ o)]
      exact Nat.mul_lt_mul_of_pos_right (Nat.mod_lt _ (by positivity)) (by positivity)
    rw [hk] at hhi ⊢
    rw [Nat.pow_add 256 (o + n) j] at hhi ⊢
    have hkj : k < 256 ^ j := Nat.lt_of_mul_lt_mul_left hhi
    calc w % 256 ^ n * 256 ^ o + 256 ^ (o + n) * k < 256 ^ (o + n) + 256 ^ (o + n) * k := Nat.add_lt_add_right hlow _
      _ = 256 ^ (o + n) * (k + 1) := by ring
      _ ≤ 256 ^ (o + n) * 256 ^ j := Nat.mul_le_mul_left _ hkj

/-- A field of a multiple of a higher power is zero. -/
theorem fieldB_of_dvd {v o n lo : Nat} (h : 256 ^ lo ∣ v) (hlo : o + n ≤ lo) : fieldB v o n = 0 := by
  obtain ⟨j, rfl⟩ := Nat.exists_eq_add_of_le hlo
  obtain ⟨k, rfl⟩ := h
  rw [fieldB, Nat.pow_add, Nat.pow_add, Nat.mul_assoc, Nat.mul_assoc, Nat.mul_div_cancel_left _ (by positivity), Nat.mul_mod_right]

/-- What lies below a field does not show in it. -/
theorem fieldB_add_low {a r m o n : Nat} (ha : a < 256 ^ m) (hr : 256 ^ m ∣ r) (hm : m ≤ o) : fieldB (a + r) o n = fieldB r o n := by
  obtain ⟨j, rfl⟩ := Nat.exists_eq_add_of_le hm
  obtain ⟨k, rfl⟩ := hr
  rw [fieldB, fieldB, Nat.pow_add, ← Nat.div_div_eq_div_mul, ← Nat.div_div_eq_div_mul, Nat.add_mul_div_left _ _ (by positivity),
    Nat.div_eq_of_lt ha, Nat.zero_add, Nat.mul_div_cancel_left _ (by positivity)]

theorem low_lt (w o n : Nat) : w % 256 ^ n * 256 ^ o < 256 ^ (o + n) := by
  rw [Nat.pow_add, Nat.mul_comm (256 ^ o)]
  exact Nat.mul_lt_mul_of_pos_right (Nat.mod_lt _ (by positivity)) (by positivity)

/-- A field that is laid out reads back. -/
theorem fieldB_layout {lo hi o n w : Nat} : ∀ {fs : List (Nat × Nat × Nat)}, Ascends lo hi fs → (o, n, w) ∈ fs → fieldB (layout fs) o n = w % 256 ^ n
  | (o', n', w') :: fs, h, hm => by
    rw [layout_cons]
    rcases List.mem_cons.mp hm with he | hm
    · obtain ⟨rfl, rfl, rfl⟩ : o = o' ∧ n = n' ∧ w = w' := by simpa using he
      obtain ⟨k, hk⟩ := pow_dvd_layout h.2
      rw [hk, fieldB, Nat.pow_add, Nat.mul_comm (w % 256 ^ n), Nat.mul_assoc, ← Nat.mul_add, Nat.mul_div_cancel_left _ (by positivity),
        Nat.add_mul_mod_self_left, Nat.mod_mod]
    · rw [fieldB_add_low (low_lt w' o' n') (pow_dvd_layout h.2) (start_le h.2 hm)]
      exact fieldB_layout h.2 hm
where
  start_le {lo hi o n w : Nat} : ∀ {fs : List (Nat × Nat × Nat)}, Ascends lo hi fs → (o, n, w) ∈ fs → lo ≤ o
    | (o', n', w') :: fs, h, hm => by
      rcases List.mem_cons.mp hm with he | hm
      · obtain ⟨rfl, -⟩ : o = o' ∧ n = n' ∧ w = w' := by simpa using he
        exact h.1
      · exact le_trans h.1 (le_trans (Nat.le_add_right _ _) (start_le h.2 hm))

/-- What lies between two runs of fields reads zero. -/
theorem fieldB_gap {lo a b hi o n : Nat} {fs gs : List (Nat × Nat × Nat)} (hf : Ascends lo a fs) (hg : Ascends b hi gs) (ha : a ≤ o)
    (hb : o + n ≤ b) : fieldB (layout (fs ++ gs)) o n = 0 := by
  rw [layout_append, fieldB_add_low (layout_lt hf) ((pow_dvd_pow 256 (by omega)).trans (pow_dvd_layout hg)) ha]
  exact fieldB_of_dvd (pow_dvd_layout hg) hb

theorem mem_fileAt {o n i w : Nat} {vs : List Nat} (h : vs[i]? = some w) : (o + n * i, n, w) ∈ fileAt o n vs :=
  List.mem_map.mpr ⟨(w, i), List.mem_zipIdx_iff_getElem?.mpr h, rfl⟩

/-! ### The fields of an area (R320) -/

/-- A queue register of a context. -/
def Ctx.queue (k : Ctx) (i : Nat) : List QItem := k.q.toList.getD i []

/-- How many items each queue register holds. -/
def Ctx.counts (k : Ctx) : Nat := packB ((List.range 4).map (fun i => (2, (k.queue i).length)))

/-- Which items of a queue are wide, a bit each. -/
def wideBits (is : List QItem) : Nat := is.zipIdx.foldl (fun a e => a + b2n e.1.wide * 2 ^ e.2) 0

def Ctx.widths (k : Ctx) : Nat := packB ((List.range 4).map (fun i => (2, wideBits (k.queue i))))

/-- The word of counters and flags. -/
def Ctx.flags (k : Ctx) : Nat :=
  k.tagCtr % 256 + k.fseq % 65536 * 2 ^ 16 + k.claims.length * 2 ^ 32 + b2n k.ticket.isSome * 2 ^ 40

/-- The header of an area before its CRC. -/
def State.areaTop (s : State) (c x : Nat) : List (Nat × Nat × Nat) :=
  [(0, 4, 0x56430001), (4, 1, x), (5, 1, b2n false), (6, 2, c), (8, 1, s.partOf c), (9, 1, dieOf c), (0x10, 8, s.time)]

/-- The registers behind the CRC. -/
def State.areaRegs (s : State) (c x pc : Nat) : List (Nat × Nat × Nat) :=
  let k := s.ctx c x
  [(0x40, 8, pc), (0x48, 8, k.cctl), (0x50, 8, k.xlat.toNat), (0x58, 8, k.uirqpc.toNat), (0x60, 8, k.uirqxfer.toNat),
    (0x68, 8, k.trapcause.toNat), (0x70, 8, k.trappc.toNat), (0x78, 8, k.trapdetail.toNat), (0x80, 8, k.trapjrn.toNat), (0x88, 8, k.ovt.toNat),
    (0x90, 8, k.flags), (0x98, 8, k.ticket.getD 0), (0xA0, 8, k.counts), (0xA8, 8, k.widths),
    (0xB0, 8, (s.spilled c x).length % 8 + k.irqs.length * 256)]

/-- The register files. -/
def Ctx.areaFiles (k : Ctx) : List (Nat × Nat × Nat) :=
  fileAt 0x100 8 (k.s.toList.map (·.toNat)) ++ fileAt 0x200 64 (k.v.toList.map (·.toNat)) ++ fileAt 0x600 8 (k.p.toList.map (·.toNat)) ++
    fileAt 0x640 8 (k.claims.map (fun e => e.1 + b2n e.2)) ++ fileAt 0x740 8 (k.irqs.map (fun u => u.xfer * 2 ^ 48 + u.handler))

/-- The queue registers and the spilled messages. -/
def State.areaQueues (s : State) (c x : Nat) : List (Nat × Nat × Nat) :=
  (List.range 4).flatMap (fun i => fileAt (0x800 + 1024 * i) 64 (((s.ctx c x).queue i).map (·.val.toNat))) ++ fileAt 0x1800 64 (s.spilled c x)

/-- The distribution registers, with the control context. -/
def State.areaDists (s : State) (c x : Nat) : List (Nat × Nat × Nat) :=
  if x = 0 then fileAt 0x2000 512 ((s.core c).d.toList.map Dist.image) else []

/-- The bytes that the CRC of an area is taken of. -/
def State.areaCrc (s : State) (c x pc : Nat) : Nat := crc32c (bytesOf (areaBytes false) (s.ctxPart c x false pc))

/-- The fields of an area behind its header. -/
def State.areaRest (s : State) (c x pc : Nat) : List (Nat × Nat × Nat) :=
  s.areaRegs c x pc ++ ((s.ctx c x).areaFiles ++ (s.areaQueues c x ++ s.areaDists c x))

theorem ctxPart_eq (s : State) (c x pc : Nat) : s.ctxPart c x false pc = layout (s.areaTop c x ++ s.areaRest c x pc) := by
  show layout (s.areaTop c x ++ s.areaRegs c x pc ++ _ ++ _ ++ _ ++ _ ++ _ ++ _ ++ _ ++ s.areaDists c x) = _
  unfold State.areaRest Ctx.areaFiles State.areaQueues
  simp only [List.append_assoc]
  rfl

theorem crcBits_bound (n : Nat) : ∀ {c : Nat}, c < 2 ^ 32 → crcBits n c < 2 ^ 32 := by
  induction n with
  | zero => exact fun h => h
  | succ n ih =>
    intro c hc
    refine ih ?_
    unfold crcBit
    split
    · exact Nat.xor_lt_two_pow (by omega) (by decide)
    · omega

theorem crc32c_bound (bs : List Byte) : crc32c bs < 256 ^ 4 := by
  have hfold (bs : List Byte) : ∀ {c : Nat}, c < 2 ^ 32 → bs.foldl (fun c b => crcBits 8 (c ^^^ b.toNat)) c < 2 ^ 32 := by
    induction bs with
    | nil => exact fun h => h
    | cons b bs ih =>
      exact fun hc => ih (crcBits_bound 8 (Nat.xor_lt_two_pow hc (lt_of_lt_of_le b.isLt (by decide))))
  exact Nat.xor_lt_two_pow (n := 32) (hfold bs (by decide)) (by decide)

theorem areaCrc_lt (s : State) (c x pc : Nat) : s.areaCrc c x pc < 256 ^ 4 := crc32c_bound _

/-- The fields of an area, its CRC among them. -/
def State.areaFields (s : State) (c x pc : Nat) : List (Nat × Nat × Nat) :=
  (s.areaTop c x ++ [(0x3C, 4, s.areaCrc c x pc)]) ++ s.areaRest c x pc

theorem area_eq_add (s : State) (c x pc : Nat) : s.area c x false pc = s.ctxPart c x false pc + s.areaCrc c x pc * 256 ^ 0x3C := by
  simp only [State.area, State.areaCrc, Bool.false_eq_true, if_false, Nat.add_zero]

/-- An area is its fields laid out. -/
theorem area_eq (s : State) (c x pc : Nat) : s.area c x false pc = layout (s.areaFields c x pc) := by
  rw [area_eq_add, State.areaFields, layout_append, layout_append, layout_cons, Nat.mod_eq_of_lt (areaCrc_lt s c x pc), ctxPart_eq, layout_append]
  generalize s.areaCrc c x pc * 256 ^ 0x3C = crc
  rw [show layout [] = 0 from rfl]
  omega

/-! ### The fields ascend -/

/-- A context whose queues, claims and pending interrupts fit their places in an area. -/
structure Ctx.Fits (k : Ctx) : Prop where
  queue : ∀ i : Fin 4, k.q[i].length ≤ 16
  claims : k.claims.length ≤ 32
  irqs : k.irqs.length ≤ 16

theorem Ctx.Fits.queue_le {k : Ctx} (h : k.Fits) (i : Nat) : (k.queue i).length ≤ 16 := by
  by_cases hi : i < 4
  · have hq : k.queue i = k.q[i] := by rw [Ctx.queue, List.getD_eq_getElem _ _ (by simpa using hi)]; exact Vector.getElem_toList _
    rw [hq]
    exact h.queue ⟨i, hi⟩
  · rw [Ctx.queue, List.getD_eq_default _ _ (by simpa using hi)]
    exact Nat.zero_le _

theorem ascends_file {o n : Nat} {vs : List Nat} {hi : Nat} (h : o + n * vs.length ≤ hi) : Ascends o hi (fileAt o n vs) := (ascends_fileAt n vs o).mono h

theorem ascends_top (s : State) (c x : Nat) : Ascends 0 0x18 (s.areaTop c x) := by simp [Ascends, State.areaTop]

theorem ascends_crc (crc : Nat) : Ascends 0x3C 0x40 [(0x3C, 4, crc)] := by simp [Ascends]

theorem ascends_regs (s : State) (c x pc : Nat) : Ascends 0x40 0xB8 (s.areaRegs c x pc) := by simp [Ascends, State.areaRegs]

theorem ascends_files {k : Ctx} (h : k.Fits) : Ascends 0x100 0x7C0 k.areaFiles := by
  have hclaims := h.claims
  have hirqs := h.irqs
  have hs : Ascends 0x100 0x200 (fileAt 0x100 8 (k.s.toList.map (·.toNat))) := ascends_file (by simp)
  have hv : Ascends 0x200 0x600 (fileAt 0x200 64 (k.v.toList.map (·.toNat))) := ascends_file (by simp)
  have hp : Ascends 0x600 0x640 (fileAt 0x600 8 (k.p.toList.map (·.toNat))) := ascends_file (by simp)
  have hc : Ascends 0x640 0x740 (fileAt 0x640 8 (k.claims.map (fun e => e.1 + b2n e.2))) := ascends_file (by rw [List.length_map]; omega)
  have hi : Ascends 0x740 0x7C0 (fileAt 0x740 8 (k.irqs.map (fun u => u.xfer * 2 ^ 48 + u.handler))) := ascends_file (by rw [List.length_map]; omega)
  exact (((hs.append hv).append hp).append hc).append hi

theorem ascends_queues {s : State} {c x : Nat} (h : (s.ctx c x).Fits) : Ascends 0x800 0x1900 (s.areaQueues c x) := by
  have hq (i : Nat) : Ascends (0x800 + 1024 * i) (0x800 + 1024 * (i + 1)) (fileAt (0x800 + 1024 * i) 64 (((s.ctx c x).queue i).map (·.val.toNat))) :=
    ascends_file (by have := h.queue_le i; rw [List.length_map]; omega)
  have hspill : Ascends 0x1800 0x1900 (fileAt 0x1800 64 (s.spilled c x)) := by
    refine ascends_file ?_
    have : (s.spilled c x).length ≤ 4 := List.length_take_le _ _
    omega
  have hall : Ascends 0x800 0x1800 ((List.range 4).flatMap (fun i => fileAt (0x800 + 1024 * i) 64 (((s.ctx c x).queue i).map (·.val.toNat)))) := by
    have h4 := (hq 0).append ((hq 1).append ((hq 2).append (hq 3)))
    simpa [List.range, List.range.loop] using h4
  exact hall.append hspill

theorem ascends_dists (s : State) (c x : Nat) : Ascends 0x2000 0x3000 (s.areaDists c x) := by
  unfold State.areaDists
  split
  · exact ascends_file (by simp)
  · exact (by decide : 0x2000 ≤ 0x3000)

section
variable {s : State} {c x pc : Nat} (hfit : (s.ctx c x).Fits)
include hfit

/-- What stands behind the register files. -/
theorem ascends_tail : Ascends 0x800 0x3000 (s.areaQueues c x ++ s.areaDists c x) :=
  ((ascends_queues hfit).mono (by decide)).append (ascends_dists s c x)

theorem ascends_rest : Ascends 0x40 0x3000 (s.areaRest c x pc) :=
  ((ascends_regs s c x pc).mono (by decide : 0xB8 ≤ 0x100)).append (((ascends_files hfit).mono (by decide : 0x7C0 ≤ 0x800)).append (ascends_tail hfit))

theorem ascends_area : Ascends 0 0x3000 (s.areaFields c x pc) :=
  (((ascends_top s c x).mono (by decide : 0x18 ≤ 0x3C)).append (ascends_crc _)).append (ascends_rest hfit)

theorem area_lt : s.area c x false pc < 256 ^ 0x3000 := by
  rw [area_eq]
  exact layout_lt (ascends_area hfit)

theorem area_field {o n w : Nat} (hm : (o, n, w) ∈ s.areaFields c x pc) : fieldB (s.area c x false pc) o n = w % 256 ^ n := by
  rw [area_eq]
  exact fieldB_layout (ascends_area hfit) hm

/-- Between two runs of an area's fields it reads zero. -/
theorem area_gap {a b o n : Nat} {fs gs : List (Nat × Nat × Nat)} (heq : s.areaFields c x pc = fs ++ gs) (hf : Ascends 0 a fs)
    (hg : Ascends b 0x3000 gs) (ha : a ≤ o) (hb : o + n ≤ b) : fieldB (s.area c x false pc) o n = 0 := by
  rw [area_eq, heq]
  exact fieldB_gap hf hg ha hb

theorem area_zeros : let v := s.area c x false pc
    fieldB v 0xA 6 = 0 ∧ fieldB v 0x18 36 = 0 ∧ fieldB v 0xB8 72 = 0 ∧ fieldB v 0x7C0 64 = 0 ∧ fieldB v 0x1900 1792 = 0 ∧
      (x ≠ 0 → fieldB v 0x2000 4096 = 0) := by
  intro v
  have hcrc := ascends_crc (s.areaCrc c x pc)
  have hhead := ((ascends_top s c x).mono (by decide : 0x18 ≤ 0x3C)).append hcrc
  have hregs := hhead.append (ascends_regs s c x pc)
  have hfiles := (hregs.mono (by decide : 0xB8 ≤ 0x100)).append (ascends_files hfit)
  have hqueues := (hfiles.mono (by decide : 0x7C0 ≤ 0x800)).append (ascends_queues hfit)
  refine ⟨?_, ?_, ?_, ?_, ?_, fun hx => ?_⟩
  · refine area_gap hfit (a := 0xA) (b := 0x10)
      (fs := [(0, 4, 0x56430001), (4, 1, x), (5, 1, b2n false), (6, 2, c), (8, 1, s.partOf c), (9, 1, dieOf c)])
      (gs := (0x10, 8, s.time) :: ([(0x3C, 4, s.areaCrc c x pc)] ++ s.areaRest c x pc)) rfl (by simp [Ascends]) ?_ (by decide) (by decide)
    exact ⟨le_refl _, ⟨by decide, (ascends_rest hfit)⟩⟩
  · exact area_gap hfit (fs := s.areaTop c x) (gs := [(0x3C, 4, s.areaCrc c x pc)] ++ s.areaRest c x pc) (List.append_assoc _ _ _)
      (ascends_top s c x) (hcrc.append (ascends_rest hfit)) (by decide) (by decide)
  · exact area_gap hfit (fs := _ ++ s.areaRegs c x pc) (gs := (s.ctx c x).areaFiles ++ (s.areaQueues c x ++ s.areaDists c x))
      (List.append_assoc _ _ _).symm hregs (((ascends_files hfit).mono (by decide)).append (ascends_tail hfit)) (by decide) (by decide)
  · exact area_gap hfit (fs := _ ++ s.areaRegs c x pc ++ (s.ctx c x).areaFiles) (gs := s.areaQueues c x ++ s.areaDists c x)
      (by simp only [State.areaFields, State.areaRest, List.append_assoc]) hfiles (ascends_tail hfit) (by decide) (by decide)
  · exact area_gap hfit (fs := _ ++ s.areaRegs c x pc ++ (s.ctx c x).areaFiles ++ s.areaQueues c x) (gs := s.areaDists c x)
      (by simp only [State.areaFields, State.areaRest, List.append_assoc]) hqueues (ascends_dists s c x) (by decide) (by decide)
  · have hnone : s.areaDists c x = [] := if_neg hx
    exact area_gap hfit (b := 0x3000) (fs := _ ++ s.areaRegs c x pc ++ (s.ctx c x).areaFiles ++ s.areaQueues c x) (gs := [])
      (by simp only [State.areaFields, State.areaRest, List.append_assoc, hnone]) hqueues (le_refl _) (by decide) (by decide)

end

end Sys2Proof.Machine
end

section
/-!
O53: the area that a save writes is valid, and the context that a load makes of it is the one saved (R294, R295, R320).
-/

namespace Sys2Proof.Machine

open Sys2Proof

/-! ### The words of an area -/

theorem word_field (w : Word) : BitVec.ofNat 64 (w.toNat % 256 ^ 8) = w := by
  rw [Nat.mod_eq_of_lt (lt_of_lt_of_eq w.isLt (by norm_num : 2 ^ 64 = 256 ^ 8))]
  exact BitVec.ofNat_toNat 64 w |>.trans (BitVec.setWidth_eq w)

theorem vec_field (w : Vec) : BitVec.ofNat 512 (w.toNat % 256 ^ 64) = w := by
  rw [Nat.mod_eq_of_lt (lt_of_lt_of_eq w.isLt (by rw [show 256 = 2 ^ 8 from rfl, ← Nat.pow_mul] : 2 ^ 512 = 256 ^ 64))]
  exact BitVec.ofNat_toNat 512 w |>.trans (BitVec.setWidth_eq w)

/-- The bits of a queue's wide items, as one number. -/
theorem wideBits_eq (is : List QItem) : wideBits is = (is.map (·.wide)).foldr (fun b a => b2n b + 2 * a) 0 := by
  have hgen (is : List QItem) : ∀ k a, (is.zipIdx k).foldl (fun a e => a + b2n e.1.wide * 2 ^ e.2) a =
      a + 2 ^ k * (is.map (·.wide)).foldr (fun b a => b2n b + 2 * a) 0 := by
    induction is with
    | nil => exact fun k a => by simp
    | cons i is ih =>
      intro k a
      rw [List.zipIdx_cons, List.foldl_cons, ih, List.map_cons, List.foldr_cons]
      ring
  rw [wideBits, hgen is 0 0, Nat.pow_zero, Nat.one_mul, Nat.zero_add]

theorem testBit_wideBits (is : List QItem) (j : Nat) : (wideBits is).testBit j = ((is.map (·.wide))[j]?).getD false := by
  rw [wideBits_eq, testBit_foldr_b2n]

theorem wideBits_lt (is : List QItem) : wideBits is < 2 ^ is.length := by
  rw [wideBits_eq]
  induction is with
  | nil => exact Nat.one_pos
  | cons i is ih =>
    rw [List.map_cons, List.foldr_cons, List.length_cons, Nat.pow_succ]
    have : b2n i.wide ≤ 1 := by unfold b2n; split <;> omega
    omega

/-- A field of a packed word inside a field of an area. -/
theorem fieldB_fieldB {v o m a b : Nat} (h : a + b ≤ m) : fieldB (fieldB v o m) a b = fieldB v (o + a) b := by
  obtain ⟨r, rfl⟩ := Nat.exists_eq_add_of_le h
  unfold fieldB
  rw [Nat.pow_add 256 o a, ← Nat.div_div_eq_div_mul, Nat.add_assoc, Nat.pow_add 256 a (b + r), Nat.mod_mul_right_div_self,
    Nat.pow_add 256 b r, Nat.mod_mul_right_mod]

/-! ### The context of a saved area -/

section
variable {s : State} {c x pc : Nat} (hfit : (s.ctx c x).Fits)
include hfit

theorem area_reg {o w : Nat} (hm : (o, 8, w) ∈ s.areaRegs c x pc) : fieldB (s.area c x false pc) o 8 = w % 256 ^ 8 :=
  area_field hfit (List.mem_append_right _ (List.mem_append_left _ hm))

theorem area_file {o n w : Nat} (hm : (o, n, w) ∈ (s.ctx c x).areaFiles) : fieldB (s.area c x false pc) o n = w % 256 ^ n :=
  area_field hfit (List.mem_append_right _ (List.mem_append_right _ (List.mem_append_left _ hm)))

theorem area_queue {o n w : Nat} (hm : (o, n, w) ∈ s.areaQueues c x) : fieldB (s.area c x false pc) o n = w % 256 ^ n :=
  area_field hfit (List.mem_append_right _ (List.mem_append_right _ (List.mem_append_right _ (List.mem_append_left _ hm))))

theorem area_top {o n w : Nat} (hm : (o, n, w) ∈ s.areaTop c x) : fieldB (s.area c x false pc) o n = w % 256 ^ n :=
  area_field hfit (List.mem_append_left _ (List.mem_append_left _ hm))

theorem area_crc : fieldB (s.area c x false pc) 0x3C 4 = s.areaCrc c x pc := by
  rw [area_field hfit (List.mem_append_left _ (List.mem_append_right _ List.mem_cons_self))]
  exact Nat.mod_eq_of_lt (areaCrc_lt s c x pc)

/-- The area that a save writes is valid for its number. -/
theorem area_ok (hx : x < 16) : areaOk (s.area c x false pc) x false = true := by
  obtain ⟨h1, h2, h3, h4, h5, h6⟩ := area_zeros (pc := pc) hfit
  have hid : fieldB (s.area c x false pc) 0 4 = 0x56430001 := (area_top hfit (w := 0x56430001) (by simp [State.areaTop])).trans (by norm_num)
  have hnum : fieldB (s.area c x false pc) 4 1 = x := (area_top hfit (w := x) (by simp [State.areaTop])).trans (Nat.mod_eq_of_lt (by omega))
  have hcore : fieldB (s.area c x false pc) 5 1 = b2n false := (area_top hfit (w := b2n false) (by simp [State.areaTop])).trans (by norm_num [b2n])
  have hcrc := area_crc (pc := pc) hfit
  have hbody : s.area c x false pc % 256 ^ areaBytes false - s.areaCrc c x pc * 256 ^ 0x3C = s.ctxPart c x false pc := by
    rw [show areaBytes false = 0x3000 from rfl, Nat.mod_eq_of_lt (area_lt hfit), area_eq_add, Nat.add_sub_cancel]
  have hlast : (x == 0 || fieldB (s.area c x false pc) 0x2000 4096 == 0) = true := by
    by_cases hx0 : x = 0
    · rw [hx0]; rfl
    · rw [h6 hx0]; simp
  unfold areaOk
  dsimp only
  rw [hcrc, hbody, hid, hnum, hcore, h1, h2, h3, h4, h5, hlast]
  simp only [beq_self_eq_true, Bool.and_true, Bool.true_and, Bool.not_false, Bool.true_or]
  exact beq_self_eq_true (s.areaCrc c x pc)

theorem area_word {o : Nat} {w : Word} (hm : (o, 8, w.toNat) ∈ s.areaRegs c x pc) : BitVec.ofNat 64 (fieldB (s.area c x false pc) o 8) = w := by
  rw [area_reg hfit hm]
  exact word_field w

theorem area_s (i : Fin 32) : BitVec.ofNat 64 (fieldB (s.area c x false pc) (0x100 + 8 * i) 8) = (s.ctx c x).s[i] := by
  rw [area_file hfit (w := (s.ctx c x).s[i].toNat) ?_]
  · exact word_field _
  · exact List.mem_append_left _ (List.mem_append_left _ (List.mem_append_left _ (List.mem_append_left _ (mem_fileAt (by simp)))))

theorem area_v (i : Fin 16) : BitVec.ofNat 512 (fieldB (s.area c x false pc) (0x200 + 64 * i) 64) = (s.ctx c x).v[i] := by
  rw [area_file hfit (w := (s.ctx c x).v[i].toNat) ?_]
  · exact vec_field _
  · exact List.mem_append_left _ (List.mem_append_left _ (List.mem_append_left _ (List.mem_append_right _ (mem_fileAt (by simp)))))

theorem area_p (i : Fin 8) : BitVec.ofNat 64 (fieldB (s.area c x false pc) (0x600 + 8 * i) 8) = (s.ctx c x).p[i] := by
  rw [area_file hfit (w := (s.ctx c x).p[i].toNat) ?_]
  · exact word_field _
  · exact List.mem_append_left _ (List.mem_append_left _ (List.mem_append_right _ (mem_fileAt (by simp))))

theorem area_count {i : Nat} (hi : i < 4) : fieldB (s.area c x false pc) (0xA0 + 2 * i) 2 = ((s.ctx c x).queue i).length := by
  have hq := hfit.queue_le i
  have hword : fieldB (s.area c x false pc) 0xA0 8 = (s.ctx c x).counts :=
    (area_reg hfit (w := (s.ctx c x).counts) (by simp [State.areaRegs])).trans (Nat.mod_eq_of_lt (packB_lt _))
  rw [← fieldB_fieldB (show 2 * i + 2 ≤ 8 by omega), hword, Ctx.counts,
    fieldB_packB_map (fun i => ((s.ctx c x).queue i).length) 2 (List.range 4) (List.getElem?_range hi), Nat.mod_eq_of_lt (by omega)]

theorem area_wide {i : Nat} (hi : i < 4) : fieldB (s.area c x false pc) (0xA8 + 2 * i) 2 = wideBits ((s.ctx c x).queue i) := by
  have hword : fieldB (s.area c x false pc) 0xA8 8 = (s.ctx c x).widths :=
    (area_reg hfit (w := (s.ctx c x).widths) (by simp [State.areaRegs])).trans (Nat.mod_eq_of_lt (packB_lt _))
  have hlt : wideBits ((s.ctx c x).queue i) < 256 ^ 2 :=
    lt_of_lt_of_le (wideBits_lt _) (Nat.pow_le_pow_right (by decide) (hfit.queue_le i))
  rw [← fieldB_fieldB (show 2 * i + 2 ≤ 8 by omega), hword, Ctx.widths,
    fieldB_packB_map (fun i => wideBits ((s.ctx c x).queue i)) 2 (List.range 4) (List.getElem?_range hi), Nat.mod_eq_of_lt hlt]

theorem area_item {i j : Nat} (hi : i < 4) (hj : j < ((s.ctx c x).queue i).length) :
    BitVec.ofNat 512 (fieldB (s.area c x false pc) (0x800 + 1024 * i + 64 * j) 64) = ((s.ctx c x).queue i)[j].val := by
  rw [area_queue hfit (w := ((s.ctx c x).queue i)[j].val.toNat) ?_]
  · exact vec_field _
  · exact List.mem_append_left _ (List.mem_flatMap.mpr ⟨i, List.mem_range.mpr hi, mem_fileAt (by simp [hj])⟩)

/-- A queue register as a load reads it from an area. -/
theorem area_items {i : Nat} (hi : i < 4) :
    (List.range (min 16 (fieldB (s.area c x false pc) (0xA0 + 2 * i) 2))).map (fun j =>
      ({ wide := bit (fieldB (s.area c x false pc) (0xA8 + 2 * i) 2) j
         val := BitVec.ofNat 512 (fieldB (s.area c x false pc) (0x800 + 1024 * i + 64 * j) 64) } : QItem)) = (s.ctx c x).queue i := by
  rw [area_count hfit hi, area_wide hfit hi, Nat.min_eq_right (hfit.queue_le i)]
  refine List.ext_getElem (by simp) fun j _ hj => ?_
  rw [List.getElem_map, List.getElem_range, area_item hfit hi hj, bit_eq_testBit, testBit_wideBits, List.getElem?_map, List.getElem?_eq_getElem hj]
  rfl

theorem area_flags (htag : (s.ctx c x).tagCtr < 256) (hseq : (s.ctx c x).fseq < 65536) : fieldB (s.area c x false pc) 0x90 8 =
    (s.ctx c x).tagCtr + (s.ctx c x).fseq * 2 ^ 16 + (s.ctx c x).claims.length * 2 ^ 32 + b2n (s.ctx c x).ticket.isSome * 2 ^ 40 := by
  have hclaims := hfit.claims
  have hb : b2n (s.ctx c x).ticket.isSome ≤ 1 := by unfold b2n; split <;> omega
  rw [area_reg hfit (w := (s.ctx c x).flags) (by simp [State.areaRegs]), Ctx.flags, Nat.mod_eq_of_lt htag, Nat.mod_eq_of_lt hseq]
  exact Nat.mod_eq_of_lt (by omega)

/-- A claim of an even address below 2^64, in eight bytes. -/
theorem area_claim (heven : ∀ e ∈ (s.ctx c x).claims, e.1 % 2 = 0 ∧ e.1 < 2 ^ 64) {i : Nat} (hi : i < (s.ctx c x).claims.length) :
    fieldB (s.area c x false pc) (0x640 + 8 * i) 8 = (s.ctx c x).claims[i].1 + b2n (s.ctx c x).claims[i].2 := by
  obtain ⟨he, hlt⟩ := heven _ (List.getElem_mem hi)
  rw [area_file hfit (w := (s.ctx c x).claims[i].1 + b2n (s.ctx c x).claims[i].2) ?_]
  · have hb : b2n (s.ctx c x).claims[i].2 ≤ 1 := by unfold b2n; split <;> omega
    exact Nat.mod_eq_of_lt (by omega)
  · exact List.mem_append_left _ (List.mem_append_right _ (mem_fileAt (by simp [hi])))

theorem area_irq (hlt : ∀ u ∈ (s.ctx c x).irqs, u.xfer < 2 ^ 16 ∧ u.handler < 2 ^ 48) {i : Nat} (hi : i < (s.ctx c x).irqs.length) :
    fieldB (s.area c x false pc) (0x740 + 8 * i) 8 = (s.ctx c x).irqs[i].xfer * 2 ^ 48 + (s.ctx c x).irqs[i].handler := by
  obtain ⟨hx, hh⟩ := hlt _ (List.getElem_mem hi)
  rw [area_file hfit (w := (s.ctx c x).irqs[i].xfer * 2 ^ 48 + (s.ctx c x).irqs[i].handler) ?_]
  · exact Nat.mod_eq_of_lt (by omega)
  · exact List.mem_append_right _ (mem_fileAt (by simp [hi]))

theorem area_irqCount : fieldB (s.area c x false pc) 0xB1 1 % 32 = (s.ctx c x).irqs.length := by
  have hirqs := hfit.irqs
  have hword : fieldB (s.area c x false pc) 0xB0 8 = (s.spilled c x).length % 8 + (s.ctx c x).irqs.length * 256 :=
    (area_reg hfit (w := (s.spilled c x).length % 8 + (s.ctx c x).irqs.length * 256) (by simp [State.areaRegs])).trans (Nat.mod_eq_of_lt (by omega))
  rw [show 0xB1 = 0xB0 + 1 from rfl, ← fieldB_fieldB (show 1 + 1 ≤ 8 by decide), hword, fieldB]
  omega

end

/-- A vector of four lists is that of its elements. -/
theorem vector_four {α : Type} (q : Vector (List α) 4) :
    #v[q.toList.getD 0 [], q.toList.getD 1 [], q.toList.getD 2 [], q.toList.getD 3 []] = q := by
  refine Vector.ext fun i hi => ?_
  match i, hi with
  | 0, _ | 1, _ | 2, _ | 3, _ => simp

theorem bit_b2n (b : Bool) {n : Nat} (hn : n % 2 = 0) : bit (n + b2n b) 0 = b ∧ (n + b2n b) / 2 * 2 = n := by
  unfold bit bits b2n
  cases b <;> simp <;> omega

/-- The parts of the word of counters and flags. -/
theorem flags_parts {w t f n b : Nat} (hw : w = t + f * 2 ^ 16 + n * 2 ^ 32 + b * 2 ^ 40) (ht : t < 256) (hf : f < 65536) (hn : n ≤ 32) (hb : b ≤ 1) :
    w % 256 = t ∧ w / 2 ^ 16 % 65536 = f ∧ bits w 37 32 = n ∧ bits w 40 40 = b := by
  unfold bits
  omega

theorem b2n_beq_one (b : Bool) : (b2n b == 1) = b := by cases b <;> rfl

/-- Settles O53: every field of the area reads back as it was laid out. -/
theorem saveAreaHoldsTheContext : Obligations.SaveAreaHoldsTheContext := by
  unfold Obligations.SaveAreaHoldsTheContext
  intro s c x pc born hx hpc k hq hclaims heven hirqs hirq hlevel htag hseq hticket v l
  have hfit : (s.ctx c x).Fits := ⟨hq, hclaims, hirqs⟩
  have hreg (o w : Nat) (hm : (o, 8, w) ∈ s.areaRegs c x pc) : fieldB v o 8 = w % 256 ^ 8 := area_reg hfit hm
  have hword (o : Nat) (w : Word) (hm : (o, 8, w.toNat) ∈ s.areaRegs c x pc) : BitVec.ofNat 64 (fieldB v o 8) = w := area_word hfit hm
  have hs := area_s (pc := pc) hfit
  have hv := area_v (pc := pc) hfit
  have hp := area_p (pc := pc) hfit
  have hitems := fun i => area_items (pc := pc) hfit (i := i)
  have hflags := area_flags (pc := pc) hfit htag hseq
  have hclaim := fun i => area_claim (pc := pc) hfit heven (i := i)
  have hirq' := fun i => area_irq (pc := pc) hfit hirq (i := i)
  have hirqn := area_irqCount (pc := pc) hfit
  have hlt := area_lt (pc := pc) hfit
  have hok := area_ok (pc := pc) hfit hx
  have hb : b2n k.ticket.isSome ≤ 1 := by unfold b2n; split <;> omega
  obtain ⟨hftag, hfseq, hfcl, hftk⟩ := flags_parts hflags htag hseq hclaims hb
  have hcctl : fieldB v 0x48 8 = k.cctl := (hreg 0x48 k.cctl (by simp [State.areaRegs, k])).trans (Nat.mod_eq_of_lt (by
    unfold Ctx.cctl b2n; split <;> split <;> omega))
  have hmask (o : Nat) (w m : Word) (hm : (o, 8, w.toNat) ∈ s.areaRegs c x pc) : BitVec.ofNat 64 (fieldB v o 8) &&& m = w &&& m := by
    rw [hword o w hm]
  refine ⟨hlt, hok, rfl, ?_, ?_, ?_, ?_, ?_, ?_, ?_, ?_, ?_, ?_, ?_, ?_, ?_, ?_, ?_, hword 0x58 _ (by simp [State.areaRegs, k]),
    hmask 0x60 _ _ (by simp [State.areaRegs, k]), hmask 0x68 _ _ (by simp [State.areaRegs, k]), hword 0x70 _ (by simp [State.areaRegs, k]),
    hword 0x78 _ (by simp [State.areaRegs, k]), hmask 0x80 _ _ (by simp [State.areaRegs, k])⟩
  · show fieldB v 0x40 8 % 2 ^ 48 = pc
    rw [hreg 0x40 pc (by simp [State.areaRegs])]
    omega
  · show fieldB v 0x48 8 % 4 = k.level
    rw [hcctl, Ctx.cctl]
    omega
  · show bit (fieldB v 0x48 8) 7 = k.grant
    rw [hcctl, Ctx.cctl, bit, bits, b2n, b2n]
    cases k.grant <;> cases k.uiHold <;> simp <;> omega
  · show bit (fieldB v 0x48 8) 6 = k.uiHold
    rw [hcctl, Ctx.cctl, bit, bits, b2n, b2n]
    cases k.grant <;> cases k.uiHold <;> simp <;> omega
  · show BitVec.ofNat 12 (fieldB v 0x88 8) = k.ovt
    rw [hreg 0x88 k.ovt.toNat (by simp [State.areaRegs, k]), Nat.mod_eq_of_lt (by omega)]
    simp
  · exact hmask 0x50 _ _ (by simp [State.areaRegs, k])
  · refine Vector.ext fun i hi => ?_
    exact (Vector.getElem_ofFn hi).trans (hs ⟨i, hi⟩)
  · refine Vector.ext fun i hi => ?_
    exact (Vector.getElem_ofFn hi).trans (hv ⟨i, hi⟩)
  · refine Vector.ext fun i hi => ?_
    exact (Vector.getElem_ofFn hi).trans (hp ⟨i, hi⟩)
  · refine Eq.trans ?_ (vector_four k.q)
    rw [← Ctx.queue, ← Ctx.queue, ← Ctx.queue, ← Ctx.queue, ← hitems 0 (by decide), ← hitems 1 (by decide), ← hitems 2 (by decide), ← hitems 3 (by decide)]
    rfl
  · show fieldB v 0x90 8 % 256 = k.tagCtr
    exact hftag
  · show fieldB v 0x90 8 / 2 ^ 16 % 65536 = k.fseq
    exact hfseq
  · have hn : bits (fieldB v 0x90 8) 37 32 = k.claims.length := hfcl
    show (List.range (min 32 (bits (fieldB v 0x90 8) 37 32))).map (fun i => (fieldB v (0x640 + 8 * i) 8 / 2 * 2, bit (fieldB v (0x640 + 8 * i) 8) 0)) = k.claims
    rw [hn, Nat.min_eq_right hclaims]
    refine List.ext_getElem (by simp) fun i _ hi => ?_
    obtain ⟨h0, h2⟩ := bit_b2n k.claims[i].2 (heven _ (List.getElem_mem hi)).1
    rw [List.getElem_map, List.getElem_range, hclaim i hi, h0, h2]
  · have hbit : bit (fieldB v 0x90 8) 40 = k.ticket.isSome := by
      rw [bit, show bits (fieldB v 0x90 8) 40 40 = _ from hftk, b2n_beq_one]
    show (if bit (fieldB v 0x90 8) 40 then some (fieldB v 0x98 8) else none) = k.ticket
    rw [hbit, hreg 0x98 (k.ticket.getD 0) (by simp [State.areaRegs, k])]
    cases ht : k.ticket with
    | none => rfl
    | some t =>
      have := hticket t ht
      exact congrArg some (Nat.mod_eq_of_lt (by rw [Option.getD_some]; omega))
  · show (List.range (min 16 (fieldB v 0xB1 1 % 32))).map (fun i => ({ xfer := fieldB v (0x740 + 8 * i) 8 / 2 ^ 48, handler := fieldB v (0x740 + 8 * i) 8 % 2 ^ 48 } : UIrq)) = k.irqs
    rw [hirqn, Nat.min_eq_right hirqs]
    refine List.ext_getElem (by simp) fun i _ hi => ?_
    obtain ⟨hx, hh⟩ := hirq _ (List.getElem_mem hi)
    rw [List.getElem_map, List.getElem_range, hirq' i hi, Nat.mul_comm, Nat.mul_add_div (by positivity), Nat.div_eq_of_lt hh, Nat.add_zero,
      Nat.mul_add_mod, Nat.mod_eq_of_lt hh]

end Sys2Proof.Machine
end

section
/-!
O52: contexts and cores are saved and loaded. A save writes the registers that loads have brought, then the area; what a context's save and a
core's resumption change of other contexts is nothing but what they are asked to (R294, R295, R318, R319).
-/

namespace Sys2Proof.Machine

open Sys2Proof

/-! ### A save's target stops (R294) -/

/-- A context without a stop request that has none is the same. -/
theorem Ctx.stopReq_eta {k : Ctx} (h : k.stopReq = false) : { k with stopReq := false } = k := by
  cases k
  cases h
  rfl

theorem letGo_effect (s : State) (c n : Nat) : (∃ cores, s.letGo c n = { s with cores := cores }) ∧
    (∀ y, y ≠ n → (s.letGo c n).ctx c y = s.ctx c y) ∧ (s.letGo c n).ctx c n = { s.ctx c n with stopReq := false } := by
  unfold State.letGo
  have hfirst : (∃ cores, (if (s.ctx c n).stopReq then s.setCtx c n { s.ctx c n with stopReq := false } else s) = { s with cores := cores }) ∧
      (∀ y, y ≠ n → (if (s.ctx c n).stopReq then s.setCtx c n { s.ctx c n with stopReq := false } else s).ctx c y = s.ctx c y) ∧
      (if (s.ctx c n).stopReq then s.setCtx c n { s.ctx c n with stopReq := false } else s).ctx c n = { s.ctx c n with stopReq := false } := by
    split
    · exact ⟨⟨_, rfl⟩, fun y hy => State.ctx_setCtx_ne _ _ _ _ _ hy, State.ctx_setCtx_self _ _ _ _⟩
    · next h => exact ⟨⟨_, rfl⟩, fun _ _ => rfl, (Ctx.stopReq_eta (by simpa using h)).symm⟩
  generalize (if (s.ctx c n).stopReq then s.setCtx c n { s.ctx c n with stopReq := false } else s) = t at hfirst
  obtain ⟨⟨cores, hrest⟩, hne, hself⟩ := hfirst
  dsimp only
  split
  · have hctx (y : Nat) : (t.setCore c { t.core c with unitStop := false }).ctx c y = t.ctx c y := ctx_setCore_ctxs (by rfl) c y
    exact ⟨⟨_, by rw [hrest]; rfl⟩, fun y hy => (hctx y).trans (hne y hy), (hctx n).trans hself⟩
  · exact ⟨⟨cores, hrest⟩, hne, hself⟩

/-! ### Registers that loads have brought -/

/-- Two states that differ in the registers of a context at most, and in what counting them has changed of its launch. -/
structure Lands (c x : Nat) (s t : State) : Prop where
  rest : ∃ cores launches, t = { s with cores := cores, launches := launches }
  other : ∀ d y, (d ≠ c ∨ y ≠ x) → t.ctx d y = s.ctx d y
  own : ∃ a b p, t.ctx c x = { s.ctx c x with s := a, v := b, p := p }
  unit : ∀ d, (t.core d).unit = (s.core d).unit
  parked : ∀ u l, s.launch? u = some l → ∃ l', t.launch? u = some l' ∧ l'.parked = l.parked

theorem Lands.refl (c x : Nat) (s : State) : Lands c x s s :=
  ⟨⟨_, _, rfl⟩, fun _ _ _ => rfl, ⟨_, _, _, rfl⟩, fun _ => rfl, fun _ l h => ⟨l, h, rfl⟩⟩

theorem Lands.trans {c x : Nat} {s t u : State} (hst : Lands c x s t) (htu : Lands c x t u) : Lands c x s u := by
  refine ⟨?_, fun d y h => (htu.other d y h).trans (hst.other d y h), ?_, fun d => (htu.unit d).trans (hst.unit d), fun v l h => ?_⟩
  · obtain ⟨_, _, ht⟩ := hst.rest
    obtain ⟨_, _, hu⟩ := htu.rest
    exact ⟨_, _, by rw [hu, ht]⟩
  · obtain ⟨_, _, _, ht⟩ := hst.own
    obtain ⟨_, _, _, hu⟩ := htu.own
    exact ⟨_, _, _, by rw [hu, ht]⟩
  · obtain ⟨l', hl', hp⟩ := hst.parked v l h
    obtain ⟨l'', hl'', hp'⟩ := htu.parked v l' hl'
    exact ⟨l'', hl'', hp'.trans hp⟩

theorem lands_setCore (x : Nat) (s : State) (c : Nat) {k : Core} (hctxs : k.ctxs = (s.core c).ctxs) (hunit : k.unit = (s.core c).unit) :
    Lands c x s (s.setCore c k) := by
  refine ⟨⟨_, _, rfl⟩, fun d y _ => ctx_setCore_ctxs hctxs d y, ⟨_, _, _, ctx_setCore_ctxs hctxs c x⟩, fun d => ?_, fun _ l h => ⟨l, h, rfl⟩⟩
  by_cases hd : d = c
  · subst hd; rw [State.core_setCore_self]; exact hunit
  · rw [State.core_setCore_ne _ _ _ _ hd]

theorem lands_setCtx (s : State) (c x : Nat) {k : Ctx} (hk : ∃ a b p, k = { s.ctx c x with s := a, v := b, p := p }) :
    Lands c x s (s.setCtx c x k) := by
  refine ⟨⟨_, _, rfl⟩, fun d y h => ?_, by rw [State.ctx_setCtx_self]; exact hk, fun d => ?_, fun _ l h => ⟨l, h, rfl⟩⟩
  · by_cases hd : d = c
    · subst hd; exact State.ctx_setCtx_ne _ _ _ _ _ (h.resolve_left (fun h => h rfl))
    · exact State.ctx_setCtx_core_ne _ _ _ _ _ _ hd
  · by_cases hd : d = c
    · subst hd; rw [State.setCtx, State.core_setCore_self]
    · rw [State.setCtx, State.core_setCore_ne _ _ _ _ hd]

/-- A write to a register changes registers only. -/
theorem Ctx.ws_registers (k : Ctx) (a : SReg) (w : Word) : ∃ s v p, k.ws a w = { k with s := s, v := v, p := p } := by
  unfold Ctx.ws
  split <;> exact ⟨_, _, _, rfl⟩

theorem Ctx.wp_registers (k : Ctx) (a : PReg) (w : Word) : ∃ s v p, k.wp a w = { k with s := s, v := v, p := p } := by
  unfold Ctx.wp
  split <;> exact ⟨_, _, _, rfl⟩

theorem launch?_setLaunch_ne (s : State) (k : Launch) {u : Nat × Nat} (hu : u ≠ (k.queue, k.seq)) : (s.setLaunch k).launch? u = s.launch? u := by
  unfold State.launch? State.setLaunch
  dsimp only
  induction s.launches with
  | nil => rfl
  | cons l ls ih =>
    rw [List.map_cons, List.find?_cons, List.find?_cons, ih]
    by_cases hl : (l.queue == k.queue && l.seq == k.seq) = true
    · rw [if_pos hl]
      rw [Bool.and_eq_true, beq_iff_eq, beq_iff_eq] at hl
      have hne : (k.queue == u.1 && k.seq == u.2) = false := by
        rw [Bool.eq_false_iff, Ne, Bool.and_eq_true, beq_iff_eq, beq_iff_eq]
        exact fun e => hu (Prod.ext e.1.symm e.2.symm)
      rw [hl.1, hl.2, hne]
    · rw [if_neg hl]

theorem launch?_noRoll (s : State) (c : Nat) (u : Nat × Nat) {l : Launch} (h : s.launch? u = some l) :
    ∃ l', (s.noRoll c).launch? u = some l' ∧ l'.parked = l.parked := by
  unfold State.noRoll
  split
  · next k hk =>
    obtain ⟨v, hv⟩ : ∃ v, s.launch? v = some k := by
      unfold State.launchOf at hk
      split at hk
      · exact ⟨_, hk⟩
      · cases hk
    have hvk := launch?_key hv
    by_cases hu : u = v
    · subst hu
      rw [h] at hv
      cases hv
      exact ⟨_, launch?_setLaunch h rfl rfl, rfl⟩
    · refine ⟨l, ?_, rfl⟩
      rw [launch?_setLaunch_ne]
      · exact h
      · exact fun e => hu (e.trans hvk)
  · exact ⟨l, h, rfl⟩

theorem lands_noRoll (s : State) (c x d : Nat) : Lands c x s (s.noRoll d) := by
  obtain ⟨ls, hls⟩ := launchesOnly_noRoll s d
  have hctx (a b : Nat) : (s.noRoll d).ctx a b = s.ctx a b := by rw [hls]; rfl
  exact ⟨⟨_, _, hls⟩, fun a b _ => hctx a b, ⟨_, _, _, hctx c x⟩, fun _ => by rw [hls]; rfl, fun u _ h => launch?_noRoll s d u h⟩

theorem lands_countUnits (s : State) (c x : Nat) (rs : List Reg) : Lands c x s (s.countUnits c x rs) := by
  unfold State.countUnits
  dsimp only
  split
  · exact Lands.refl c x s
  · split
    · exact (lands_setCore x s c (by rfl) (by rfl)).trans (lands_noRoll _ c x c)
    · exact lands_setCore x s c (by rfl) (by rfl)

theorem lands_putReg (s : State) (c x : Nat) (r : Reg) (t : ETy) (v : Nat) : Lands c x s (s.putReg c x r t v) := by
  cases r with
  | s i => exact lands_setCtx s c x (Ctx.ws_registers _ _ _)
  | v i => exact lands_setCtx s c x ⟨_, _, _, rfl⟩
  | p i => exact lands_setCtx s c x (Ctx.wp_registers _ _ _)
  | d i => exact lands_setCore (k := { s.core c with d := (s.core c).d.setIfInBounds i (distOf v) }) x s c (by rfl) (by rfl)

theorem lands_writeReg (s : State) (c x : Nat) (r : Reg) (t : ETy) (v : Nat) : Lands c x s (s.writeReg c x r t v) :=
  (lands_countUnits s c x [r]).trans (lands_putReg _ c x r t v)

theorem lands_settleLoads (s : State) (c x : Nat) : Lands c x s (s.settleLoads c x) := by
  unfold State.settleLoads
  dsimp only
  refine State.each_ind_mem (P := Lands c x s) (fun t l hl ht => ?_) (lands_setCore x s c (by rfl) (by rfl))
  obtain ⟨-, hp⟩ := List.mem_filter.mp hl
  rw [show l.ctx = x by simpa using (Bool.and_eq_true_iff.mp hp).1]
  exact ht.trans (lands_writeReg t c x _ _ _)

/-! ### A context switched out (R294) -/

theorem switchOut_rest (s : State) (c x base : Nat) (unit : Bool) :
    ∃ cores xnet posts, s.switchOut c x base unit = { s with cores := cores, xnet := xnet, posts := posts } := ⟨_, _, _, rfl⟩

theorem switchOut_ctxs (s : State) (c x base : Nat) (unit : Bool) :
    (∀ d y, (d ≠ c ∨ y ≠ x) → (s.switchOut c x base unit).ctx d y = s.ctx d y) ∧ ((s.switchOut c x base unit).ctx c x).live = false ∧
      ∀ d, (s.switchOut c x base unit).core d = { s.core d with
        ctxs := ((s.switchOut c x base unit).core d).ctxs, out := ((s.switchOut c x base unit).core d).out
        grantTable := ((s.switchOut c x base unit).core d).grantTable, loads := ((s.switchOut c x base unit).core d).loads } := by
  unfold State.switchOut
  dsimp only
  refine ⟨fun d y h => ?_, ?_, fun d => ?_⟩
  · rw [ctx_setCore_ctxs (by rfl) d y]
    by_cases hd : d = c
    · subst hd; exact State.ctx_setCtx_ne _ _ _ _ _ (h.resolve_left (fun h => h rfl))
    · exact State.ctx_setCtx_core_ne _ _ _ _ _ _ hd
  · rw [ctx_setCore_ctxs (by rfl) c x, State.ctx_setCtx_self]
  · by_cases hd : d = c
    · subst hd
      rw [State.core_setCore_self, State.setCtx, State.core_setCore_self]
      rfl
    · rw [State.core_setCore_ne _ _ _ _ hd, State.setCtx, State.core_setCore_ne _ _ _ _ hd]
      rfl

/-! ### A context switched in (R295) -/

/-- A context has what an area holds of its place and registers. -/
structure Woken (v : Nat) (k : Ctx) : Prop where
  live : k.live = true
  pc : k.pc = fieldB v 0x40 8 % 2 ^ 48
  level : k.level = fieldB v 0x48 8 % 4
  scalars : k.s = Vector.ofFn (fun (i : Fin 32) => BitVec.ofNat 64 (fieldB v (0x100 + 8 * i) 8))
  vectors : k.v = Vector.ofFn (fun (i : Fin 16) => BitVec.ofNat 512 (fieldB v (0x200 + 64 * i) 64))
  predicates : k.p = Vector.ofFn (fun (i : Fin 8) => BitVec.ofNat 64 (fieldB v (0x600 + 8 * i) 8))

theorem Woken.rs {v : Nat} {k : Ctx} (h : Woken v k) {i : SReg} (hi : i ≠ 0) : k.rs i = BitVec.ofNat 64 (fieldB v (0x100 + 8 * i.toNat) 8) := by
  rw [Ctx.rs, if_neg hi]
  simp only [h.scalars, Vector.getElem_ofFn]

theorem Woken.rv {v : Nat} {k : Ctx} (h : Woken v k) (i : VReg) : k.rv i = BitVec.ofNat 512 (fieldB v (0x200 + 64 * i.toNat) 64) := by
  rw [Ctx.rv]
  simp only [h.vectors, Vector.getElem_ofFn]

theorem Woken.rp {v : Nat} {k : Ctx} (h : Woken v k) {i : PReg} (hi : i ≠ 7) : k.rp i = BitVec.ofNat 64 (fieldB v (0x600 + 8 * i.toNat) 8) := by
  rw [Ctx.rp, if_neg hi]
  simp only [h.predicates, Vector.getElem_ofFn]

theorem moveWork_rest (s : State) (from_ c x born : Nat) (u : Option (Nat × Nat)) : ∃ chains posts gathers colls xnet,
    s.moveWork from_ c x born u = { s with chains := chains, posts := posts, gathers := gathers, colls := colls, xnet := xnet } := by
  unfold State.moveWork
  split <;> exact ⟨_, _, _, _, _, rfl⟩

/-- Messages that come back to an interface reach at most the q4 of a control context. -/
theorem unspill_effect (s : State) (c x v : Nat) (u : Option (Nat × Nat)) :
    (∃ cores xnet posts, s.unspill c x v u = { s with cores := cores, xnet := xnet, posts := posts }) ∧
    (∀ d y, (d ≠ c ∨ y ≠ x) → (s.unspill c x v u).ctx d y = s.ctx d y) ∧ ∃ q, (s.unspill c x v u).ctx c x = { s.ctx c x with q := q } := by
  unfold State.unspill
  dsimp only
  split
  · next h0 =>
    subst h0
    refine ⟨⟨_, _, _, rfl⟩, fun d y h => ?_, ⟨_, State.ctx_setCtx_self _ _ _ _⟩⟩
    by_cases hd : d = c
    · subst hd; exact State.ctx_setCtx_ne _ _ _ _ _ (h.resolve_left (fun h => h rfl))
    · exact State.ctx_setCtx_core_ne _ _ _ _ _ _ hd
  · exact ⟨⟨_, _, _, rfl⟩, fun _ _ _ => rfl, ⟨_, rfl⟩⟩

/-- What a context's coming back changes: the context, and what the package notes of the work that follows it. -/
structure Comes (c x v : Nat) (s t : State) : Prop where
  rest : ∃ cores launches nonce chains posts gathers colls xnet, t = { s with
    cores := cores, launches := launches, nonce := nonce, chains := chains, posts := posts, gathers := gathers, colls := colls, xnet := xnet }
  other : ∀ d y, (d ≠ c ∨ y ≠ x) → t.ctx d y = s.ctx d y
  own : Woken v (s.ctx c x) → Woken v (t.ctx c x)

theorem Comes.trans {c x v : Nat} {s t u : State} (hst : Comes c x v s t) (htu : Comes c x v t u) : Comes c x v s u := by
  refine ⟨?_, fun d y h => (htu.other d y h).trans (hst.other d y h), fun h => htu.own (hst.own h)⟩
  obtain ⟨_, _, _, _, _, _, _, _, ht⟩ := hst.rest
  obtain ⟨_, _, _, _, _, _, _, _, hu⟩ := htu.rest
  exact ⟨_, _, _, _, _, _, _, _, by rw [hu, ht]⟩

theorem Comes.refl (c x v : Nat) (s : State) : Comes c x v s s := ⟨⟨_, _, _, _, _, _, _, _, rfl⟩, fun _ _ _ => rfl, id⟩

theorem comes_setCore (c x v : Nat) (s : State) (d : Nat) {k : Core} (hctxs : k.ctxs = (s.core d).ctxs) : Comes c x v s (s.setCore d k) :=
  ⟨⟨_, _, _, _, _, _, _, _, rfl⟩, fun e y _ => ctx_setCore_ctxs hctxs e y, fun h => by rw [ctx_setCore_ctxs hctxs c x]; exact h⟩

theorem comes_setCtx {c x v : Nat} (s : State) {k : Ctx} (hk : Woken v k) : Comes c x v s (s.setCtx c x k) := by
  refine ⟨⟨_, _, _, _, _, _, _, _, rfl⟩, fun d y h => ?_, fun _ => by rw [State.ctx_setCtx_self]; exact hk⟩
  by_cases hd : d = c
  · subst hd; exact State.ctx_setCtx_ne _ _ _ _ _ (h.resolve_left (fun h => h rfl))
  · exact State.ctx_setCtx_core_ne _ _ _ _ _ _ hd

theorem comes_noRoll (c x v : Nat) (s : State) (d : Nat) : Comes c x v s (s.noRoll d) := by
  obtain ⟨ls, hls⟩ := launchesOnly_noRoll s d
  have hctx (a b : Nat) : (s.noRoll d).ctx a b = s.ctx a b := by rw [hls]; rfl
  exact ⟨⟨_, _, _, _, _, _, _, _, hls⟩, fun a b _ => hctx a b, fun h => by rw [hctx]; exact h⟩

theorem comes_unspill (c x v : Nat) (s : State) (u : Option (Nat × Nat)) : Comes c x v s (s.unspill c x v u) := by
  obtain ⟨⟨_, _, _, hrest⟩, hother, q, hown⟩ := unspill_effect s c x v u
  refine ⟨⟨_, _, _, _, _, _, _, _, hrest⟩, hother, fun h => ?_⟩
  rw [hown]
  exact { h with }

theorem comes_moveWork (c x v : Nat) (s : State) (from_ born : Nat) (u : Option (Nat × Nat)) : Comes c x v s (s.moveWork from_ c x born u) := by
  obtain ⟨_, _, _, _, _, h⟩ := moveWork_rest s from_ c x born u
  have hctx (a b : Nat) : (s.moveWork from_ c x born u).ctx a b = s.ctx a b := by rw [h]; rfl
  exact ⟨⟨_, _, _, _, _, _, _, _, h⟩, fun a b _ => hctx a b, fun h => by rw [hctx]; exact h⟩

/-- A context put on a core, with the messages and the errors of loads that its core has kept. -/
def State.seat (s : State) (c x v : Nat) (n : Ctx) (unit : Option (Nat × Nat)) (loads : List Load) : State :=
  let s := s.setCtx c x n
  let s := if n.grants.isEmpty then s else s.noRoll c
  let s := s.unspill c x v unit
  let s := s.setCore c { s.core c with loads := (s.core c).loads ++ loads }
  if x = 0 then s.setCore c { s.core c with d := Vector.ofFn (fun (i : Fin 8) => distOf (fieldB v (0x2000 + 512 * i) 512)) } else s

theorem seat_effect (s : State) (c x v : Nat) {n : Ctx} (hn : Woken v n) (unit : Option (Nat × Nat)) (loads : List Load) :
    Comes c x v s (s.seat c x v n unit loads) ∧ Woken v ((s.seat c x v n unit loads).ctx c x) := by
  have hset := comes_setCtx (c := c) (x := x) s hn
  have hown : Woken v ((s.setCtx c x n).ctx c x) := by rw [State.ctx_setCtx_self]; exact hn
  unfold State.seat
  dsimp only
  generalize s.setCtx c x n = t at hset hown
  have hrest : Comes c x v t ((if n.grants.isEmpty = true then t else t.noRoll c).unspill c x v unit) := by
    refine Comes.trans ?_ (comes_unspill c x v _ unit)
    split
    · exact Comes.refl c x v t
    · exact comes_noRoll c x v t c
  generalize (if n.grants.isEmpty = true then t else t.noRoll c).unspill c x v unit = r at hrest
  have hloads := hrest.trans (comes_setCore c x v r c (k := { r.core c with loads := (r.core c).loads ++ loads }) (by rfl))
  generalize r.setCore c { r.core c with loads := (r.core c).loads ++ loads } = w at hloads
  have hend : Comes c x v t (if x = 0 then w.setCore c { w.core c with d := Vector.ofFn (fun (i : Fin 8) => distOf (fieldB v (0x2000 + 512 * i) 512)) } else w) := by
    split
    · exact hloads.trans (comes_setCore c x v w c (by rfl))
    · exact hloads
  exact ⟨hset.trans hend, hend.own hown⟩

theorem switchIn_seats (s : State) (from_ c x v : Nat) (base : Option Nat) (u : Option (Nat × Nat)) :
    ∃ t n unit loads, s.switchIn from_ c x v base u = t.seat c x v n unit loads ∧ Comes c x v s t ∧ Woken v n := by
  refine ⟨_, _, _, _, rfl, ?_, ?_⟩
  · refine Comes.trans ?_ (comes_moveWork c x v _ from_ _ _)
    refine Comes.trans ?_ (comes_setCore c x v s.fresh.2 from_ (by rfl))
    exact ⟨⟨_, _, _, _, _, _, _, _, rfl⟩, fun _ _ _ => rfl, id⟩
  · split <;> exact ⟨rfl, rfl, rfl, rfl, rfl, rfl⟩

/-- A context that has come back: it has what its area holds, and only it has changed. -/
theorem switchIn_effect (s : State) (from_ c x v : Nat) (base : Option Nat) (u : Option (Nat × Nat)) :
    Comes c x v s (s.switchIn from_ c x v base u) ∧ Woken v ((s.switchIn from_ c x v base u).ctx c x) := by
  obtain ⟨t, n, unit, loads, heq, hcomes, hn⟩ := switchIn_seats s from_ c x v base u
  obtain ⟨harr, hwoken⟩ := seat_effect t c x v hn unit loads
  rw [heq]
  exact ⟨hcomes.trans harr, hwoken⟩

end Sys2Proof.Machine
end

section
/-!
O52: `ctxsave` and `ctxload`, pre-emption and resumption (R294, R295, R318, R319).
-/

namespace Sys2Proof.Machine

open Sys2Proof

/-! ### ctxsave and ctxload -/

theorem selectorOk_small {n : Nat} (hn : n < 16) : selectorOk n = true := by
  rw [selectorOk, bits, beq_iff_eq]
  rw [Nat.div_eq_of_lt (by omega)]
  rfl

theorem bit_small {n i : Nat} (hn : n < 16) (hi : 4 ≤ i) : bit n i = false := by
  have : n < 2 ^ i := (show n < 2 ^ 4 from hn).trans_le (Nat.pow_le_pow_right (n := 2) (by decide) hi)
  rw [bit, bits, Nat.div_eq_of_lt this]
  rfl

theorem Ctx.resumeAt_of_atBoundary {k : Ctx} (h : k.atBoundary = true) : k.resumeAt = k.pc := by
  unfold Ctx.atBoundary at h
  unfold Ctx.resumeAt
  split
  · next hw => rw [hw] at h; simp at h
  · rfl

section ctxsave

variable {h : Hdr} {x : OpBC} {s : State} (hi : s.issues h { level := 1 } = true) (hun : s.me.unresolved = none)
  (hn : (s.me.rs x.b).toNat < 16) (hp : (s.me.rs x.c).toNat < 2 ^ 48) (hal : (s.me.rs x.c).toNat % 4096 = 0)

include hi hun hn hp hal

/-- `ctxsave` of another context that is live, to pages that translate, past its checks. -/
theorem exec_ctxsave {segs : List (Nat × Nat)} {es : List Tlb} (hne : (s.me.rs x.b).toNat ≠ s.curCtx)
    (hlive : (s.ctx s.cur (s.me.rs x.b).toNat).live = true)
    (htr : (s.letGo s.cur (s.me.rs x.b).toNat).translate s.cur (s.vdevOf s.cur) s.me.xlat.toNat s.me.level (s.me.rs x.c).toNat 0x3000 1 false = .ok segs es) :
    exec (.ctxsave h x) s =
      (let f := s.letGo s.cur (s.me.rs x.b).toNat
       let n := (s.me.rs x.b).toNat
       let p := (s.me.rs x.c).toNat
       (if f.ownWaits p 0x3000 1 then .hold
        else if !f.mayLeave s.cur n false then .wait (f.askStop s.cur n false)
        else match (f.settleLoads s.cur n).bulkWrite (f.settleLoads s.cur n).self p 0x3000
            ((f.settleLoads s.cur n).area s.cur n false ((f.settleLoads s.cur n).ctx s.cur n).resumeAt) with
        | .error t => (f.settleLoads s.cur n).trip t
        | .ok t => .done (t.switchOut s.cur n 0 false) : Res).out h s) := by
  obtain ⟨⟨cores, hrest⟩, hother, hself⟩ := letGo_effect s s.cur (s.me.rs x.b).toNat
  show execCtxsave h x s = _
  unfold execCtxsave
  rw [issue_issues _ _ _ _ hi]
  dsimp only
  rw [Nat.mod_eq_of_lt hn, bit_small hn (by decide)]
  generalize s.letGo s.cur (s.me.rs x.b).toNat = f at *
  have hcur : f.cur = s.cur := by rw [hrest]
  have hcctx : f.curCtx = s.curCtx := by rw [hrest]
  have hme : f.me = s.me := by rw [State.me, hcur, hcctx]; exact hother _ (Ne.symm hne)
  have hself' : (f.ctx s.cur (s.me.rs x.b).toNat).live = true := by rw [hself]; exact hlive
  have hv : f.vdevOf s.cur = s.vdevOf s.cur := by rw [hrest]; rfl
  have hfc : f.firm = fun k => k := by funext k; rw [State.firm, hme, hun]; rfl
  have hbits : (bits (s.me.rs x.c).toNat 63 48 != 0) = false := by
    rw [bits, Nat.div_eq_of_lt hp]
    rfl
  rw [selectorOk_small hn, hself', hbits, hfc]
  rw [if_neg (by simpa [hcctx] using hne), if_neg (by simp), if_neg (by simpa using hal)]
  unfold State.withPages
  dsimp only
  rw [hcur, hv, hme, show areaBytes false = 0x3000 from rfl, htr]
  dsimp only
  rw [Bool.not_false, Bool.true_or, Bool.and_true]
  rfl

end ctxsave

theorem askStop_letGo (s : State) (c n : Nat) :
    (s.letGo c n).askStop c n false = (s.letGo c n).setCtx c n { s.ctx c n with stopReq := true } := by
  rw [State.askStop, (letGo_effect s c n).2.2]
  rfl

theorem regsKept_of_eq {k l : Ctx} (h : l = k) : RegsKept [] k l := by
  rw [h]
  exact ⟨fun _ _ => rfl, fun _ _ => rfl, fun _ _ => rfl⟩

/-- A context saved and switched out of its core. -/
theorem saved_effect {s t0 : State} {c n p v : Nat} {g : Agent} (hn : n ≠ s.curCtx) (hc : c = s.cur)
    (hw : ((s.letGo c n).settleLoads c n).bulkWrite g p 0x3000 v = .ok t0) :
    (t0.switchOut c n 0 false).mem = t0.mem ∧ (t0.switchOut c n 0 false).banks = t0.banks ∧
      ((t0.switchOut c n 0 false).ctx c n).live = false ∧ RegsKept [] s.me (t0.switchOut c n 0 false).me := by
  obtain ⟨⟨_, hrest⟩, hother, -⟩ := letGo_effect s c n
  have hlands := lands_settleLoads (s.letGo c n) c n
  have hdata := dataOnly_bulkWrite hw
  obtain ⟨hout, hlive, -⟩ := switchOut_ctxs t0 c n 0 false
  obtain ⟨_, _, _, hrest'⟩ := switchOut_rest t0 c n 0 false
  generalize t0.switchOut c n 0 false = t at *
  generalize (s.letGo c n).settleLoads c n = u at *
  generalize s.letGo c n = f at *
  obtain ⟨_, _, hu⟩ := hlands.rest
  obtain ⟨_, _, _, _, _, _, _, _, _, _, _, _, ht0⟩ := hdata.rest
  have hcur : t.cur = c := by rw [hrest', ht0, hu, hrest, hc]
  have hcctx : t.curCtx = s.curCtx := by rw [hrest', ht0, hu, hrest]
  refine ⟨by rw [hrest'], by rw [hrest'], hlive, regsKept_of_eq ?_⟩
  have hne : c ≠ c ∨ s.curCtx ≠ n := Or.inr hn.symm
  rw [State.me, hcur, hcctx, hout _ _ hne, hdata.ctx, hlands.other _ _ hne, hother _ hn.symm, hc]
  rfl

theorem ctxsave_saves (h : Hdr) (x : OpBC) (s : State) (hi : s.issues h { level := 1 } = true) (hun : s.me.unresolved = none)
    (hn : (s.me.rs x.b).toNat < 16) (hp : (s.me.rs x.c).toNat < 2 ^ 48) (hal : (s.me.rs x.c).toNat % 4096 = 0)
    (segs : List (Nat × Nat)) (es : List Tlb) (hne : (s.me.rs x.b).toNat ≠ s.curCtx) (hlive : (s.ctx s.cur (s.me.rs x.b).toNat).live = true) :
    let n := (s.me.rs x.b).toNat
    let p := (s.me.rs x.c).toNat
    let f := s.letGo s.cur n
    f.translate s.cur (s.vdevOf s.cur) s.me.xlat.toNat s.me.level p 0x3000 1 false = .ok segs es →
    (f.ownWaits p 0x3000 1 = true → exec (.ctxsave h x) s = .next s.held) ∧
    (f.ownWaits p 0x3000 1 = false → f.mayLeave s.cur n false = false →
      exec (.ctxsave h x) s = .next ((f.setCtx s.cur n { s.ctx s.cur n with stopReq := true }).begun h)) ∧
    (∀ t0, let u := f.settleLoads s.cur n
      f.ownWaits p 0x3000 1 = false → f.mayLeave s.cur n false = true →
      u.bulkWrite u.self p 0x3000 (u.area s.cur n false (s.ctx s.cur n).pc) = .ok t0 →
      ∃ t : State, exec (.ctxsave h x) s = .next (t.goOn h) ∧ t.mem = t0.mem ∧ t.banks = t0.banks ∧ (t.ctx s.cur n).live = false ∧
        RegsKept [] s.me t.me) := by
  intro n p f htr
  have hexec := exec_ctxsave hi hun hn hp hal hne hlive htr
  dsimp only at hexec
  refine ⟨fun how => ?_, fun how hmay => ?_, fun t0 => ?_⟩
  · rw [hexec, if_pos how]
    rfl
  · rw [hexec, if_neg (by rw [how]; exact Bool.false_ne_true), hmay, askStop_letGo]
    rfl
  · intro u how hmay hw
    have hresume : (u.ctx s.cur n).resumeAt = (s.ctx s.cur n).pc := by
      obtain ⟨_, _, _, hown⟩ := (lands_settleLoads f s.cur n).own
      have hbound : (f.ctx s.cur n).atBoundary = true := by
        unfold State.mayLeave at hmay
        simp only [Bool.and_eq_true, Bool.false_and, Bool.or_false] at hmay
        exact hmay.1.1.1.1.1.1.1.1
      have hpc : (f.ctx s.cur n).pc = (s.ctx s.cur n).pc := by rw [(letGo_effect s s.cur n).2.2]
      rw [hown, ← hpc, ← Ctx.resumeAt_of_atBoundary hbound]
      rfl
    rw [hexec, if_neg (by rw [how]; exact Bool.false_ne_true), hmay, hresume, hw]
    exact ⟨_, rfl, saved_effect hne rfl hw⟩

theorem ctxload_loads (h : Hdr) (x : OpBC) (s : State) (hi : s.issues h { level := 1 } = true) (hun : s.me.unresolved = none)
    (hn : (s.me.rs x.b).toNat < 16) (hp : (s.me.rs x.c).toNat < 2 ^ 48) (hal : (s.me.rs x.c).toNat % 4096 = 0)
    (segs : List (Nat × Nat)) (es : List Tlb) (v : Nat) (t0 : State) :
    let n := (s.me.rs x.b).toNat
    let p := (s.me.rs x.c).toNat
    n ≠ s.curCtx → (s.ctx s.cur n).live = false →
    s.translate s.cur (s.vdevOf s.cur) s.me.xlat.toNat s.me.level p 0x3000 0 false = .ok segs es →
    s.ownWaits p 0x3000 0 = false → s.bulkRead s.self p 0x3000 = .ok (v, t0) → areaOk v n false = true → bit (fieldB v 0x90 8) 40 = false →
    ∃ t : State, exec (.ctxload h x) s = .next (t.goOn h) ∧ t.mem = t0.mem ∧ t.banks = t0.banks ∧ RegsKept [] s.me t.me ∧
      Woken v (t.ctx s.cur n) := by
  intro n p hne hlive htr how hr hok hticket
  have hbits : (bits p 63 48 != 0) = false := by
    rw [bits, Nat.div_eq_of_lt hp]
    rfl
  have hfetch := fetches_bulkRead hr
  have hdata := hfetch.dataOnly
  obtain ⟨hcomes, hwoken⟩ := switchIn_effect t0 (fieldB v 6 2) s.cur n v none (if t0.me.inUnit then t0.mycore.unit else none)
  refine ⟨t0.switchIn (fieldB v 6 2) s.cur n v none (if t0.me.inUnit then t0.mycore.unit else none), ?_, ?_, ?_, ?_, hwoken⟩
  · show execCtxload h x s = _
    unfold execCtxload
    rw [issue_issues _ _ _ _ hi]
    dsimp only
    rw [Nat.mod_eq_of_lt hn, bit_small hn (by decide), selectorOk_small hn, hlive, if_neg (by simp), if_neg (by rw [hbits]; exact Bool.false_ne_true),
      if_neg (by simpa using hal)]
    unfold State.withPages
    dsimp only
    rw [show areaBytes false = 0x3000 from rfl, htr]
    dsimp only
    rw [State.firm, hun, if_neg (by exact Bool.false_ne_true), if_neg (by rw [how]; exact Bool.false_ne_true), hr]
    dsimp only
    rw [hok, hticket]
    rfl
  all_goals
    obtain ⟨_, _, _, _, _, _, _, _, ht⟩ := hcomes.rest
    generalize t0.switchIn (fieldB v 6 2) s.cur n v none (if t0.me.inUnit then t0.mycore.unit else none) = t at *
  · rw [ht]
  · rw [ht]
  · obtain ⟨_, _, _, _, _, _, _, _, _, _, _, _, ht0⟩ := hdata.rest
    have hcur : t.cur = s.cur := by rw [ht, ht0]
    have hcctx : t.curCtx = s.curCtx := by rw [ht, ht0]
    refine regsKept_of_eq ?_
    rw [State.me, hcur, hcctx, hcomes.other _ _ (Or.inr (Ne.symm hne)), hdata.ctx]
    rfl

end Sys2Proof.Machine
end

section
/-!
O52: a core pre-empted and resumed (R318, R319).
-/

namespace Sys2Proof.Machine

open Sys2Proof

/-! ### A pre-empted core's contexts leave -/

/-- What a step of a core's save keeps: no context of the core comes to life, its unit stays, and so does what its launch has parked. -/
structure Quiets (c : Nat) (s t : State) : Prop where
  rest : ∃ cores launches mem bad hub xnet posts, t = { s with
    cores := cores, launches := launches, mem := mem, badMem := bad, hub := hub, xnet := xnet, posts := posts }
  live : ∀ x, (t.ctx c x).live = true → (s.ctx c x).live = true
  unit : (t.core c).unit = (s.core c).unit
  parked : ∀ u l, s.launch? u = some l → ∃ l', t.launch? u = some l' ∧ l'.parked = l.parked

theorem Quiets.refl (c : Nat) (s : State) : Quiets c s s :=
  ⟨⟨_, _, _, _, _, _, _, rfl⟩, fun _ => id, rfl, fun _ l h => ⟨l, h, rfl⟩⟩

theorem Quiets.trans {c : Nat} {s t u : State} (hst : Quiets c s t) (htu : Quiets c t u) : Quiets c s u := by
  refine ⟨?_, fun x h => hst.live x (htu.live x h), htu.unit.trans hst.unit, fun v l h => ?_⟩
  · obtain ⟨_, _, _, _, _, _, _, ht⟩ := hst.rest
    obtain ⟨_, _, _, _, _, _, _, hu⟩ := htu.rest
    exact ⟨_, _, _, _, _, _, _, by rw [hu, ht]⟩
  · obtain ⟨l', hl', hp⟩ := hst.parked v l h
    obtain ⟨l'', hl'', hp'⟩ := htu.parked v l' hl'
    exact ⟨l'', hl'', hp'.trans hp⟩

theorem Lands.quiets {c x : Nat} {s t : State} (h : Lands c x s t) : Quiets c s t := by
  obtain ⟨_, _, hrest⟩ := h.rest
  refine ⟨⟨_, _, _, _, _, _, _, hrest⟩, fun y hy => ?_, h.unit c, h.parked⟩
  by_cases hyx : y = x
  · obtain ⟨_, _, _, hown⟩ := h.own
    rw [hyx, hown] at hy
    rw [hyx]
    exact hy
  · rw [h.other c y (Or.inr hyx)] at hy
    exact hy

theorem quiets_devWrite (c : Nat) (s : State) (a n v : Nat) : Quiets c s (s.devWrite a n v) := by
  obtain ⟨bad, hub, h⟩ := s.devWrite_rest a n v
  have hcore (d : Nat) : (s.devWrite a n v).core d = s.core d := by rw [h]; rfl
  have hlaunch (u : Nat × Nat) : (s.devWrite a n v).launch? u = s.launch? u := by rw [h]; rfl
  refine ⟨⟨_, _, _, _, _, _, _, h⟩, fun x hx => ?_, by rw [hcore], fun u l hl => ⟨l, by rw [hlaunch]; exact hl, rfl⟩⟩
  rw [State.ctx, hcore] at hx
  exact hx

theorem quiets_switchOut (c : Nat) (s : State) (x base : Nat) (unit : Bool) : Quiets c s (s.switchOut c x base unit) := by
  obtain ⟨hother, hself, hcore⟩ := switchOut_ctxs s c x base unit
  obtain ⟨_, _, _, hrest⟩ := switchOut_rest s c x base unit
  generalize s.switchOut c x base unit = t at *
  refine ⟨⟨_, _, _, _, _, _, _, hrest⟩, fun y hy => ?_, by rw [hcore], fun u l hl => ⟨l, by rw [hrest]; exact hl, rfl⟩⟩
  by_cases hyx : y = x
  · rw [hyx, hself] at hy
    cases hy
  · rw [hother c y (Or.inr hyx)] at hy
    exact hy

theorem quiets_each {α : Type} {c : Nat} {f : State → α → State} (hf : ∀ s a, Quiets c s (f s a)) (s : State) (xs : List α) : Quiets c s (s.each xs f) :=
  State.each_ind (P := Quiets c s) (fun t a ht => ht.trans (hf t a)) (Quiets.refl c s) xs

/-- Every context of a list that is switched out is not live any more. -/
theorem switchOuts_live (c base : Nat) (unit : Nat → Bool) : ∀ (xs : List Nat) (s : State), ∀ x ∈ xs,
    ((s.each xs (fun s x => s.switchOut c x base (unit x))).ctx c x).live = false := by
  intro xs
  induction xs with
  | nil => intro _ x hx; cases hx
  | cons y xs ih =>
    intro s x hx
    show (((s.switchOut c y base (unit y)).each xs (fun s x => s.switchOut c x base (unit x))).ctx c x).live = false
    by_cases hmem : x ∈ xs
    · exact ih _ x hmem
    · have hxy : x = y := (List.mem_cons.mp hx).resolve_right hmem
      have hq := quiets_each (fun s x => quiets_switchOut c s x base (unit x)) (s.switchOut c y base (unit y)) xs
      rw [Bool.eq_false_iff]
      intro hlive
      have hbefore := hq.live x hlive
      rw [hxy, (switchOut_ctxs s c y base (unit y)).2.1] at hbefore
      cases hbefore

theorem launchOf_unit {s : State} {c : Nat} {l : Launch} (h : s.launchOf c = some l) : (s.core c).unit = some (l.queue, l.seq) ∧ s.launch? (l.queue, l.seq) = some l := by
  unfold State.launchOf at h
  split at h
  · next u hu =>
    rw [launch?_key h]
    exact ⟨hu, h⟩
  · cases h

theorem live_mem_keys {s : State} {c x : Nat} (h : (s.ctx c x).live = true) : x ∈ (Tab.keys (s.core c).ctxs).filter (fun x => (s.ctx c x).live) := by
  refine List.mem_filter.mpr ⟨?_, h⟩
  by_contra hno
  rw [State.ctx, Tab.getD_of_not_mem_keys hno] at h
  cases h

/-- A pre-empted core's contexts switched out, its matrix unit cleared, and its unit gone. -/
def State.vacate (s : State) (c base : Nat) (xs : List Nat) (f : Core → Core) : State :=
  let s := (s.each xs (fun s x => s.switchOut c x base (x == 0))).clearUnit c
  s.setCore c (f (s.core c))

theorem vacate_effect (s : State) (c base : Nat) {xs : List Nat} (hxs : ∀ x, (s.ctx c x).live = true → x ∈ xs) {f : Core → Core}
    (hf : ∀ k, (f k).ctxs = k.ctxs ∧ (f k).mq = k.mq ∧ (f k).unit = none ∧ (f k).preempt = none) :
    (s.vacate c base xs f).banks = s.banks ∧ (s.vacate c base xs f).launches = s.launches ∧ ((s.vacate c base xs f).core c).unit = none ∧
      ((s.vacate c base xs f).core c).preempt = none ∧ (∀ x, ((s.vacate c base xs f).ctx c x).live = false) ∧
      ((s.vacate c base xs f).core c).mq = [] := by
  have hq := quiets_each (fun s x => quiets_switchOut c s x base (x == 0)) s xs
  have hout := switchOuts_live c base (fun x => x == 0) xs s
  have hl : (s.each xs (fun s x => s.switchOut c x base (x == 0))).launches = s.launches :=
    State.each_ind (P := fun t => t.launches = s.launches) (f := fun s x => s.switchOut c x base (x == 0)) (fun _ _ ht => ht) rfl xs
  unfold State.vacate
  dsimp only
  generalize s.each xs (fun s x => s.switchOut c x base (x == 0)) = t at hq hout hl
  have hcore : ((t.clearUnit c).setCore c (f ((t.clearUnit c).core c))).core c = f ((t.clearUnit c).core c) := State.core_setCore_self _ _ _
  have hmq : ((t.clearUnit c).core c).mq = [] := by rw [State.clearUnit, State.core_setCore_self]
  have hctx (x : Nat) : ((t.clearUnit c).setCore c (f ((t.clearUnit c).core c))).ctx c x = t.ctx c x :=
    (ctx_setCore_ctxs (hf _).1 c x).trans (ctx_setCore_ctxs (by rfl) c x)
  obtain ⟨_, _, _, _, _, _, _, ht⟩ := hq.rest
  refine ⟨by show t.banks = _; rw [ht], hl, by rw [hcore]; exact (hf _).2.2.1, by rw [hcore]; exact (hf _).2.2.2, fun x => ?_,
    by rw [hcore]; exact (hf _).2.1.trans hmq⟩
  rw [hctx, Bool.eq_false_iff]
  intro hlive
  have := hout x (hxs x (hq.live x hlive))
  rw [hlive] at this
  cases this

/-- A core without its unit: what stood in the core k goes with the unit. -/
def Core.left (k t : Core) : Core :=
  { t with unit := none, ringIn := none, ringOut := none, reos := false, released := false, arrived := false
           barDone := false, preempt := none, frame := none, units := [], ckptTiles := []
           heir := if k.unit.isSome then none else k.heir, record := if k.unit.isSome then [] else k.record }

/-- The unit of a core, as its launch keeps it of a save at base. -/
def Core.parked (k : Core) (c base : Nat) : Parked :=
  { rank := k.rank, core := c, base := base, reos := k.reos, released := k.released, arrived := k.arrived, barDone := k.barDone, record := k.record
    banks := k.slots.filter (fun e => !k.frozen.contains e.1), heir := k.heir }

/-- The launch of a core has its unit parked. -/
def State.park (s : State) (c base : Nat) : State :=
  match s.launchOf c with
  | some l => s.setLaunch { l with noRoll := true, parked := l.parked ++ [(s.core c).parked c base] }
  | none => s

theorem park_effect (s : State) (c base : Nat) : (∃ ls, s.park c base = { s with launches := ls }) ∧
    ∀ l, s.launchOf c = some l → ∃ l', (s.park c base).launch? (l.queue, l.seq) = some l' ∧ l'.parked = l.parked ++ [(s.core c).parked c base] := by
  unfold State.park
  split
  · next l hl =>
    refine ⟨⟨_, rfl⟩, fun k hk => ?_⟩
    rw [hl] at hk
    cases hk
    exact ⟨_, launch?_setLaunch (launchOf_unit hl).2 rfl rfl, rfl⟩
  · next hno =>
    refine ⟨⟨_, rfl⟩, fun k hk => ?_⟩
    rw [hno] at hk
    cases hk

/-- The areas of the contexts of a core written, once their registers are as the loads have left them. -/
def State.writeAreas (s : State) (c base : Nat) (xs : List Nat) : State :=
  (s.each xs (fun s x => s.settleLoads c x)).each xs
    (fun s x => s.devWrite (base + x * 0x20000) (areaBytes (x == 0)) (s.area c x (x == 0) (s.ctx c x).resumeAt))

theorem quiets_writeAreas (s : State) (c base : Nat) (xs : List Nat) : Quiets c s (s.writeAreas c base xs) :=
  (quiets_each (fun s x => (lands_settleLoads s c x).quiets) s xs).trans
    (quiets_each (f := fun s x => s.devWrite (base + x * 0x20000) (areaBytes (x == 0)) (s.area c x (x == 0) (s.ctx c x).resumeAt))
      (fun s _ => quiets_devWrite c s _ _ _) _ xs)

theorem preemptSave_eq (s : State) (c base : Nat) :
    let xs := (Tab.keys (s.core c).ctxs).filter (fun x => (s.ctx c x).live)
    let w := s.writeAreas c base xs
    s.preemptSave c base = (w.park c base).vacate c base xs (w.core c).left := rfl

/-- A core that was pre-empted is free: what its contexts held is in their areas, and its launch has its unit parked. -/
theorem preemptSave_effect (s : State) (c base : Nat) :
    (s.preemptSave c base).banks = s.banks ∧ ((s.preemptSave c base).core c).unit = none ∧ ((s.preemptSave c base).core c).preempt = none ∧
      (∀ x, ((s.preemptSave c base).ctx c x).live = false) ∧ ((s.preemptSave c base).core c).mq = [] ∧
      (∀ l, s.launchOf c = some l → ∃ l' q, (s.preemptSave c base).launch? (l.queue, l.seq) = some l' ∧ l'.parked = l.parked ++ [q] ∧
        q.core = c ∧ q.base = base) := by
  have hxs (x : Nat) (h : (s.ctx c x).live = true) := live_mem_keys h
  rw [preemptSave_eq]
  generalize (Tab.keys (s.core c).ctxs).filter (fun x => (s.ctx c x).live) = xs at hxs
  have hq := quiets_writeAreas s c base xs
  generalize s.writeAreas c base xs = w at hq
  obtain ⟨⟨ls, hpark⟩, hparked⟩ := park_effect w c base
  have hlive (x : Nat) (h : ((w.park c base).ctx c x).live = true) : x ∈ xs := by
    rw [hpark] at h
    exact hxs x (hq.live x h)
  obtain ⟨hb, hl, hu, hp, hx, hm⟩ := vacate_effect (w.park c base) c base hlive (f := (w.core c).left) (fun _ => ⟨rfl, rfl, rfl, rfl⟩)
  obtain ⟨_, _, _, _, _, _, _, hw⟩ := hq.rest
  refine ⟨hb.trans (by rw [hpark, hw]), hu, hp, hx, hm, fun l hls => ?_⟩
  obtain ⟨hunit, hfound⟩ := launchOf_unit hls
  obtain ⟨l1, hl1, hl1p⟩ := hq.parked _ l hfound
  have hof : w.launchOf c = some l1 := by rw [State.launchOf, hq.unit, hunit]; exact hl1
  obtain ⟨l', hl', hl'p⟩ := hparked l1 hof
  refine ⟨l', (w.core c).parked c base, ?_, by rw [hl'p, hl1p], rfl, rfl⟩
  rw [State.launch?, hl, ← launch?_key hl1]
  exact hl'

/-! ### A core resumed -/

/-- Whether a context is live, and its scalar and vector registers. -/
def Ctx.file (k : Ctx) : Bool × Vector Word 32 × Vector Vec 16 := (k.live, k.s, k.v)

theorem file_setCtx (s : State) (c x y : Nat) {k : Ctx} (hk : k.file = (s.ctx c x).file) : ((s.setCtx c x k).ctx c y).file = (s.ctx c y).file := by
  by_cases hy : y = x
  · rw [hy, State.ctx_setCtx_self, hk]
  · rw [State.ctx_setCtx_ne _ _ _ _ _ hy]

theorem file_waitOn (s : State) (c x id y : Nat) : ((s.waitOn c x id).ctx c y).file = (s.ctx c y).file :=
  file_setCtx s c x y (by simp only [Ctx.file])

theorem file_setCore (s : State) (c : Nat) {k : Core} (hk : k.ctxs = (s.core c).ctxs) (y : Nat) : ((s.setCore c k).ctx c y).file = (s.ctx c y).file := by
  rw [ctx_setCore_ctxs hk]

theorem file_queue (s : State) (c : Nat) (mq : List MCmd) (y : Nat) :
    ((s.fresh.2.setCore c { s.core c with mq := mq }).ctx c y).file = (s.ctx c y).file := file_setCore s.fresh.2 c (by rfl) y

theorem file_requeue (s : State) (c : Nat) (stamp : Option Nat) (word o1 o2 tbl scales start y : Nat) :
    ((s.requeue c stamp word o1 o2 tbl scales start).ctx c y).file = (s.ctx c y).file := by
  unfold State.requeue
  dsimp only
  split
  · exact (file_waitOn _ c _ _ y).trans ((file_queue _ c _ y).trans (file_setCore s c (by rfl) y))
  · exact (file_waitOn _ c _ _ y).trans ((file_queue _ c _ y).trans (file_setCore s c (by rfl) y))
  · split
    · rfl
    · exact (file_queue _ c _ y).trans (file_setCore s c (by rfl) y)
  · exact (file_queue _ c _ y).trans (file_setCore s c (by rfl) y)
  · exact (file_setCore _ c (by rfl) y).trans ((file_queue _ c _ y).trans (file_setCore s c (by rfl) y))
  · exact (file_queue _ c _ y).trans (file_setCore s c (by rfl) y)
  · exact file_queue s c _ y
  · exact (file_waitOn _ c _ _ y).trans (file_queue s c _ y)
  · exact (file_waitOn _ c _ _ y).trans (file_queue s c _ y)
  · exact file_queue s c _ y
  · rfl

theorem file_loadUnit (s : State) (c v : Nat) (stamps : List Nat) (y : Nat) : ((s.loadUnit c v stamps).ctx c y).file = (s.ctx c y).file := by
  unfold State.loadUnit
  dsimp only
  refine State.each_ind (P := fun t => (t.ctx c y).file = (s.ctx c y).file) (fun t i ht => (file_requeue t c _ _ _ _ _ _ _ y).trans ht) ?_ _
  exact file_setCore s c (by rfl) y

theorem Woken.of_file {v : Nat} {k l : Ctx} (h : Woken v k) (hl : l.file = k.file) : l.live = true ∧
    (∀ i : SReg, i ≠ 0 → l.rs i = BitVec.ofNat 64 (fieldB v (0x100 + 8 * i.toNat) 8)) ∧
    (∀ i : VReg, l.rv i = BitVec.ofNat 512 (fieldB v (0x200 + 64 * i.toNat) 64)) := by
  unfold Ctx.file at hl
  obtain ⟨hlive, hs, hv⟩ : l.live = k.live ∧ l.s = k.s ∧ l.v = k.v := by simpa using hl
  refine ⟨hlive.trans h.live, fun i hi => ?_, fun i => ?_⟩
  · rw [← h.rs hi, Ctx.rs, Ctx.rs, hs]
  · rw [← h.rv i, Ctx.rv, Ctx.rv, hv]

/-- Contexts switched in after a core's control context leave it as it is. -/
theorem switchIns_control (from_ c : Nat) (base : Option Nat) (u : Option (Nat × Nat)) (at_ : Nat → Nat) (s : State) {xs : List Nat} (hxs : ∀ x ∈ xs, x ≠ 0) :
    (s.each xs (fun s x => s.switchIn from_ c x (at_ x) base u)).ctx c 0 = s.ctx c 0 :=
  State.each_ind_mem (P := fun t => t.ctx c 0 = s.ctx c 0) (f := fun s x => s.switchIn from_ c x (at_ x) base u)
    (fun t x hx ht => ((switchIn_effect t from_ c x (at_ x) base u).1.other c 0 (Or.inr (Ne.symm (hxs x hx)))).trans ht) rfl

/-- The contexts of a saved core on a core, its matrix unit with them. -/
def State.reenter (s : State) (from_ c base : Nat) (u : Option (Nat × Nat)) (at_ : Nat → Nat) (xs stamps : List Nat) : State :=
  (s.each (0 :: xs) (fun s x => s.switchIn from_ c x (at_ x) (some base) u)).loadUnit c (at_ 0) stamps

theorem reenter_woken (s : State) (from_ c base : Nat) (u : Option (Nat × Nat)) (at_ : Nat → Nat) {xs : List Nat} (hxs : ∀ x ∈ xs, x ≠ 0) (stamps : List Nat) :
    ∃ k, Woken (at_ 0) k ∧ ((s.reenter from_ c base u at_ xs stamps).ctx c 0).file = k.file := by
  refine ⟨_, (switchIn_effect s from_ c 0 (at_ 0) (some base) u).2, ?_⟩
  refine (file_loadUnit _ c _ stamps 0).trans ?_
  exact congrArg Ctx.file (switchIns_control from_ c (some base) u at_ _ hxs)

/-- The area of a context in the save of a core at base. -/
def State.savedArea (s : State) (base x : Nat) : Nat := s.mem.read (base + x * 0x20000) (areaBytes (x == 0))

theorem savedArea_control (s : State) (base : Nat) : s.savedArea base 0 = s.mem.read base (areaBytes true) := by
  unfold State.savedArea
  rw [Nat.zero_mul, Nat.add_zero, show ((0 : Nat) == 0) = true from rfl]

theorem savedArea_other (s : State) (base : Nat) {x : Nat} (hx : x ≠ 0) : s.savedArea base x = s.mem.read (base + x * 0x20000) (areaBytes false) := by
  rw [State.savedArea, show (x == 0) = false from beq_false_of_ne hx]

/-- The contexts of a saved core, but its control context. -/
def State.helpersOf (s : State) (from_ base : Nat) : List Nat :=
  (((s.core from_).out.filter (fun o => o.base == base)).map (·.ctx)).filter (· != 0)

/-- Whether a saved core may come back, its control context's area apart. -/
def State.mayReenter (s : State) (base c : Nat) : Bool :=
  let v := s.savedArea base 0
  let saved := (s.core (fieldB v 6 2)).out.filter (fun o => o.base == base)
  decide (c < 1536) && s.freeCore (fieldB v 8 1) c && !(s.core c).tilesBusy
    && (s.helpersOf (fieldB v 6 2) base).all (fun x => areaOk (s.savedArea base x) x false) && s.banksCome (fieldB v 6 2) c v
    && (c == fieldB v 6 2 || saved.all (fun o => (Tab.get? (s.core (fieldB v 6 2)).grantTable o.born).isNone))

/-- The unit that was saved to a base on a core again, where its launch has it parked. -/
def State.unparkBy (s : State) (base from_ c : Nat) : State :=
  match s.parkedBy base from_ with
  | some (l, p) => s.unpark l p c
  | none => s

theorem unparkBy_none {s : State} {base from_ : Nat} (h : s.parkedBy base from_ = none) (c : Nat) : s.unparkBy base from_ c = s := by
  unfold State.unparkBy
  rw [h]

theorem unparkBy_some {s : State} {base from_ : Nat} {e : Launch × Parked} (h : s.parkedBy base from_ = some e) (c : Nat) :
    s.unparkBy base from_ c = s.unpark e.1 e.2 c := by
  unfold State.unparkBy
  rw [h]

theorem resumeCore_eq (s : State) (base c : Nat) :
    let v := s.savedArea base 0
    let from_ := fieldB v 6 2
    let saved := (s.core from_).out.filter (fun o => o.base == base)
    let unit := (s.parkedBy base from_).map (fun e => (e.1.queue, e.1.seq))
    let t := ((s.clearSlots c).moveBanks from_ c v unit).unparkBy base from_ c
    let r := t.reenter from_ c base unit (s.savedArea base) (s.helpersOf from_ base) (((saved.find? (·.ctx == 0)).map (·.stamps)).getD [])
    s.resumeCore base c = if !(decide (c < 1536) && s.freeCore (fieldB v 8 1) c && !(s.core c).tilesBusy) || !areaOk v 0 true
        || !(s.helpersOf from_ base).all (fun x => areaOk (s.savedArea base x) x false) || !s.banksCome from_ c v
        || !(c == from_ || saved.all (fun o => (Tab.get? (s.core from_).grantTable o.born).isNone)) then none
      else some (if (t.core c).barDone then r.takeFrame c else r) := by
  have hat : (fun x : Nat => s.mem.read (base + x * 0x20000) (areaBytes (x == 0))) = s.savedArea base := by
    funext x
    unfold State.savedArea
    rfl
  unfold State.resumeCore
  rw [hat]
  generalize s.savedArea base = at_
  dsimp only [State.reenter, State.helpersOf]
  generalize (s.clearSlots c).moveBanks (fieldB (at_ 0) 6 2) c (at_ 0) ((s.parkedBy base (fieldB (at_ 0) 6 2)).map (fun e => (e.1.queue, e.1.seq))) = w
  generalize fieldB (at_ 0) 6 2 = from_
  cases hp : w.parkedBy base from_ with
  | none => rw [unparkBy_none hp]; rfl
  | some e => rw [unparkBy_some hp]; rfl

theorem resumeCore_bad {s : State} {base c : Nat} (hbad : areaOk (s.savedArea base 0) 0 true = false) : s.resumeCore base c = none := by
  rw [resumeCore_eq, hbad, if_pos (by simp)]

/-- A core that comes back has its control context live, with the registers of its area. -/
theorem resumeCore_woken {s : State} {base c : Nat} (hmay : s.mayReenter base c = true) (hok : areaOk (s.savedArea base 0) 0 true = true) :
    ∃ t k, s.resumeCore base c = some t ∧ Woken (s.savedArea base 0) k ∧ (t.ctx c 0).file = k.file := by
  unfold State.mayReenter at hmay
  simp only [Bool.and_eq_true] at hmay
  obtain ⟨⟨⟨⟨⟨hc, hfree⟩, htiles⟩, hareas⟩, hbanks⟩, htickets⟩ := hmay
  rw [resumeCore_eq, hok, hc, hfree, htiles, hareas, hbanks, htickets, if_neg (by decide)]
  have hxs (from_ : Nat) : ∀ x ∈ s.helpersOf from_ base, x ≠ 0 := fun x hx => by simpa using (List.mem_filter.mp hx).2
  generalize ((s.clearSlots c).moveBanks _ c _ _).unparkBy base _ c = t
  obtain ⟨k, hk, hfile⟩ := reenter_woken t (fieldB (s.savedArea base 0) 6 2) c base
    ((s.parkedBy base (fieldB (s.savedArea base 0) 6 2)).map (fun e => (e.1.queue, e.1.seq))) (s.savedArea base) (hxs _)
    (((((s.core (fieldB (s.savedArea base 0) 6 2)).out.filter (fun o => o.base == base)).find? (·.ctx == 0)).map (·.stamps)).getD [])
  refine ⟨_, k, rfl, hk, ?_⟩
  split
  · rw [ctx_takeFrame]
    exact hfile
  · exact hfile

/-- Settles O52: what each saves, and what switching a context in or out leaves of the others. -/
theorem contextsSavedAndLoaded : Obligations.ContextsSavedAndLoaded := by
  unfold Obligations.ContextsSavedAndLoaded
  refine ⟨fun h x s hi hun hn hp hal => ⟨fun segs es hne hlive => ctxsave_saves h x s hi hun hn hp hal segs es hne hlive,
    fun segs es v t0 hne hlive htr how hr hok hticket => ?_⟩, fun c base s => ⟨fun hnone hal hrange hlive => ?_, fun hsome hmay => ?_, ?_⟩⟩
  · obtain ⟨t, hexec, hmem, hbanks, hregs, hw⟩ := ctxload_loads h x s hi hun hn hp hal segs es v t0 hne hlive htr how hr hok hticket
    exact ⟨t, hexec, hmem, hbanks, hregs, hw.live, hw.pc, hw.level, fun _ => hw.rs, hw.rv, fun _ => hw.rp⟩
  · show execPreemptRequest c base s = _
    have hany : (Tab.keys (s.core c).ctxs).any (fun x => (s.ctx c x).live) = true := by simpa using hlive
    unfold execPreemptRequest
    dsimp only
    rw [if_neg (by rw [hnone]; exact fun e => by cases e), hnone, hal, hrange, hany]
    rfl
  · refine ⟨s.preemptSave c base, ?_, preemptSave_effect s c base⟩
    show execPreemptRequest c base s = _
    unfold execPreemptRequest
    dsimp only
    rw [if_pos hsome, hmay]
    rfl
  · rw [← savedArea_control]
    dsimp only
    intro hc hfree htiles hbanks hareas htickets
    refine ⟨fun hok => ?_, fun hbad => ?_⟩
    · have hmay : s.mayReenter base c = true := by
        have hhelpers : (s.helpersOf (fieldB (s.savedArea base 0) 6 2) base).all (fun x => areaOk (s.savedArea base x) x false) = true := by
          refine List.all_eq_true.mpr fun x hx => ?_
          obtain ⟨hmem, hne⟩ := List.mem_filter.mp hx
          obtain ⟨o, ho, rfl⟩ := List.mem_map.mp hmem
          have hne : o.ctx ≠ 0 := by simpa using hne
          rw [savedArea_other s base hne]
          exact hareas o ho hne
        unfold State.mayReenter
        dsimp only
        rw [hfree, htiles, hbanks, hhelpers, decide_eq_true hc]
        rw [show (true && true && !false && true && true) = true from rfl, Bool.true_and, Bool.or_eq_true, beq_iff_eq, List.all_eq_true]
        exact htickets.imp_right fun hall o ho => Option.isNone_iff_eq_none.mpr (hall o ho)
      obtain ⟨t, k, hres, hk, hfile⟩ := resumeCore_woken hmay hok
      refine ⟨t, ?_, hk.of_file hfile⟩
      show execResumeRequest base c s = _
      rw [execResumeRequest, hres]
      rfl
    · show execResumeRequest base c s = _
      rw [execResumeRequest, resumeCore_bad hbad]
      rfl

end Sys2Proof.Machine
end

section
/-!
O8, the invariant of every memory: what an operation of the state asks of the states that it is made of, and the few operations that
write bytes (R3, R129).
-/

namespace Sys2Proof.Machine

open Sys2Proof

/-- The states that an effect leaves have their memories in canonical form. -/
def Res.MemWf : Res → Prop
  | .done t => t.MemWf
  | .goto t _ => t.MemWf
  | .trap t _ => t.MemWf
  | .more t => t.MemWf
  | .wait t => t.MemWf
  | .hold => True
  | .stop _ => True

/-- The state that an outcome leaves has its memories in canonical form. -/
def Out.MemWf (o : Out) : Prop := ∀ t, o = .next t → t.MemWf

/-- The state that a row's step leaves has its memories in canonical form. -/
def RowOut.MemWf : RowOut → Prop
  | .went t _ => t.MemWf
  | .stops t _ => t.MemWf

/-- The state that finding a strand leaves has its memories in canonical form. -/
def Found.MemWf : Found → Prop
  | .gone t => t.MemWf
  | .swap _ t => t.MemWf
  | .plain _ t => t.MemWf

theorem Out.MemWf.next {t : State} (h : t.MemWf) : Out.MemWf (.next t) := by
  rintro _ ⟨⟩
  exact h

theorem Out.MemWf.fault (f : Fault) : Out.MemWf (.fault f) := by
  rintro _ ⟨⟩

section upd

variable {s : State} {time nonce cur curCtx : Nat} {agenda : List Instr} {tags running jobs : Tab Nat} {badBank badMem torn : List Nat}
  {cores : Tab Core} {clusters : Tab Cluster} {parts : Tab Part} {launches : List Launch} {starting : Option (Nat × Nat)} {net : List Access}
  {xnet : List XMsg} {chains : List Chain} {posts : List Post} {lanes submits : List (Nat × Nat)} {gathers colls : List Work}
  {seqs : Vector Sequencer 4} {slices releases : List Slice} {walks : List Walk} {cancels : List Cancel} {evicts : List EvReq}
  {invals : List Inval} {hub : Hub}

/-- The parts of a state that hold no memory may be any. -/
theorem State.MemWf.upd (hwf : s.MemWf) : State.MemWf { s with
    time := time, nonce := nonce, cur := cur, curCtx := curCtx, agenda := agenda, tags := tags, badBank := badBank, badMem := badMem
    cores := cores, clusters := clusters, parts := parts, launches := launches, starting := starting, net := net, xnet := xnet
    chains := chains, running := running, posts := posts, lanes := lanes, gathers := gathers, colls := colls, seqs := seqs, slices := slices
    submits := submits, releases := releases, walks := walks, cancels := cancels, evicts := evicts, invals := invals, jobs := jobs
    torn := torn, hub := hub } := hwf

end upd

theorem State.MemWf.each {α : Type} {s : State} (hwf : s.MemWf) {xs : List α} {f : State → α → State} (hf : ∀ t a, t.MemWf → (f t a).MemWf) :
    (s.each xs f).MemWf := State.each_ind (P := State.MemWf) hf hwf xs

theorem State.MemWf.foldl {α : Type} {s : State} (hwf : s.MemWf) {xs : List α} {f : State → α → State} (hf : ∀ t a, t.MemWf → (f t a).MemWf) :
    (xs.foldl f s).MemWf := State.MemWf.each hwf hf

theorem State.MemWf.devWrite {s : State} (hwf : s.MemWf) {a n v : Nat} : (s.devWrite a n v).MemWf := by
  obtain ⟨bad, hub, hw⟩ := s.devWrite_rest a n v
  rw [hw]
  exact ⟨Memory.write_wf _ _ _ _ hwf.1, hwf.2.1, hwf.2.2⟩

theorem State.MemWf.bankRaw {s : State} (hwf : s.MemWf) {pkg off n v : Nat} : (s.bankRaw pkg off n v).MemWf :=
  ⟨hwf.1, Memory.write_wf _ _ _ _ hwf.2.1, hwf.2.2⟩

theorem State.MemWf.bankWipe {s : State} (hwf : s.MemWf) {pkg : Nat} : (s.bankWipe pkg).MemWf := ⟨hwf.1, Memory.wipe_wf _ _ _ hwf.2.1, hwf.2.2⟩

/-- The staging lines of a queue are in canonical form. -/
theorem State.MemWf.staging {s : State} (hwf : s.MemWf) (q : Nat) : (s.queue q).staging.wf = true := by
  rw [State.queue, Tab.getD]
  cases hq : Tab.get? s.queues q with
  | none => rfl
  | some k => exact hwf.2.2 _ (Tab.mem_of_get? hq)

theorem Tab.mem_put {α : Type} {t : Tab α} {k : Nat} {a : α} {e : Nat × α} (he : e ∈ Tab.put t k a) : e = (k, a) ∨ e ∈ t := by
  induction t with
  | nil => exact Or.inl (List.mem_singleton.mp he)
  | cons c t ih =>
    unfold Tab.put at he
    split at he
    · exact List.mem_cons.mp he
    · split at he
      · exact (List.mem_cons.mp he).imp_right (List.mem_cons_of_mem _)
      · rcases List.mem_cons.mp he with rfl | he
        · exact Or.inr List.mem_cons_self
        · exact (ih he).imp_right (List.mem_cons_of_mem _)

theorem State.MemWf.setQueue {s : State} (hwf : s.MemWf) {q : Nat} {k : WQueue} (hk : k.staging.wf = true) : (s.setQueue q k).MemWf := by
  refine ⟨hwf.1, hwf.2.1, fun e he => ?_⟩
  rcases Tab.mem_put he with rfl | he
  · exact hk
  · exact hwf.2.2 e he

theorem memWf_fst {α : Type} {p : State × α} {t : State} {a : α} (h : p.1.MemWf) (hp : p = (t, a)) : t.MemWf := by
  rw [hp] at h
  exact h

theorem memWf_snd {α : Type} {p : α × State} {t : State} {a : α} (h : p.2.MemWf) (hp : p = (a, t)) : t.MemWf := by
  rw [hp] at h
  exact h

theorem memWf_third {α β : Type} {p : α × β × State} {t : State} {a : α} {b : β} (h : p.2.2.MemWf) (hp : p = (a, b, t)) : t.MemWf := by
  rw [hp] at h
  exact h

theorem memWf_getD {o : Option State} {s : State} (ho : ∀ {t}, o = some t → t.MemWf) (hwf : s.MemWf) : (o.getD s).MemWf := by
  cases o with
  | none => exact hwf
  | some t => exact ho rfl

theorem memWf_went {r : RowOut} {t : State} {e : Epi} (hwf : r.MemWf) (hr : r = .went t e) : t.MemWf := by
  rw [hr] at hwf
  exact hwf

theorem memWf_stops {r : RowOut} {t : State} {e : Trip} (hwf : r.MemWf) (hr : r = .stops t e) : t.MemWf := by
  rw [hr] at hwf
  exact hwf

theorem memWf_gone {r : Found} {t : State} (hwf : r.MemWf) (hr : r = .gone t) : t.MemWf := by
  rw [hr] at hwf
  exact hwf

theorem memWf_swap {r : Found} {v : Nat} {t : State} (hwf : r.MemWf) (hr : r = .swap v t) : t.MemWf := by
  rw [hr] at hwf
  exact hwf

theorem memWf_plain {r : Found} {v : Nat} {t : State} (hwf : r.MemWf) (hr : r = .plain v t) : t.MemWf := by
  rw [hr] at hwf
  exact hwf

theorem memWf_ite {c : Prop} [Decidable c] {s t : State} (hs : s.MemWf) (ht : t.MemWf) : (if c then s else t).MemWf := by
  split
  · exact hs
  · exact ht

theorem resWf_ite {c : Prop} [Decidable c] {s t : Res} (hs : s.MemWf) (ht : t.MemWf) : (if c then s else t).MemWf := by
  split
  · exact hs
  · exact ht

theorem outWf_ite {c : Prop} [Decidable c] {s t : Out} (hs : Out.MemWf s) (ht : Out.MemWf t) : Out.MemWf (if c then s else t) := by
  split
  · exact hs
  · exact ht

theorem memWf_map {o : Option State} {f : State → State} {t : State} (ho : ∀ {u}, o = some u → u.MemWf) (hf : ∀ u, u.MemWf → (f u).MemWf)
    (hr : o.map f = some t) : t.MemWf := by
  cases o with
  | none => cases hr
  | some u =>
    cases hr
    exact hf u (ho rfl)

theorem memWf_bind {o : Option State} {f : State → Option State} {t : State} (ho : ∀ {u}, o = some u → u.MemWf)
    (hf : ∀ u v, u.MemWf → f u = some v → v.MemWf) (hr : o.bind f = some t) : t.MemWf := by
  cases o with
  | none => cases hr
  | some u => exact hf u t (ho rfl) hr

/-- A state that is worked on until something stops it. -/
theorem memWf_foldl_bind {α : Type} {f : State → α → Option State} (hf : ∀ u a v, u.MemWf → f u a = some v → v.MemWf) (xs : List α) :
    ∀ {o : Option State} {t : State}, (∀ {u}, o = some u → u.MemWf) → xs.foldl (fun m a => m.bind (fun u => f u a)) o = some t → t.MemWf := by
  induction xs with
  | nil => exact fun ho hr => ho hr
  | cons a xs ih => exact fun ho hr => ih (fun hu => memWf_bind ho (fun u v hwf => hf u a v hwf) hu) hr

/-- A part of a canonical memory is canonical. -/
theorem wf_filter (p : Host.Cell → Bool) (m : Memory) (h : m.wf = true) : Memory.wf (m.filter p) = true := by
  induction m with
  | nil => rfl
  | cons c m ih =>
    obtain ⟨h0, h1, h2⟩ := (Memory.wf_cons c m).mp h
    by_cases hc : p c = true
    · rw [List.filter_cons_of_pos hc]
      exact (Memory.wf_cons _ _).mpr ⟨h0, fun d hd => h1 d (List.mem_of_mem_filter hd), ih h2⟩
    · rw [List.filter_cons_of_neg hc]
      exact ih h2

/-- A memory made byte by byte is canonical. -/
theorem wf_foldl {α : Type} {f : Memory → α → Memory} (hf : ∀ m a, m.wf = true → (f m a).wf = true) (xs : List α) {m : Memory} (h : m.wf = true) :
    (xs.foldl f m).wf = true := by
  induction xs generalizing m with
  | nil => exact h
  | cons a xs ih => exact ih (hf m a h)

/-- What changes of queues but not their staging lines keeps the form. -/
theorem staging_map {s : State} (hwf : s.MemWf) {f : WQueue → WQueue} (hf : ∀ k, (f k).staging = k.staging) :
    ∀ e ∈ s.queues.map (fun e => (e.1, f e.2)), e.2.staging.wf = true := by
  intro e he
  obtain ⟨d, hd, rfl⟩ := List.mem_map.mp he
  exact (congrArg Memory.wf (hf d.2)).trans (hwf.2.2 d hd)

theorem memWf_some {s t : State} (hwf : s.MemWf) (hr : some s = some t) : t.MemWf := by
  cases hr
  exact hwf

theorem memWf_unless {c : Prop} [Decidable c] {s t : State} (hwf : s.MemWf) (hr : (if c then none else some s) = some t) : t.MemWf := by
  split at hr
  · cases hr
  · cases hr
    exact hwf

theorem resWf_foldl {α : Type} {f : Res → α → Res} (hf : ∀ r a, r.MemWf → (f r a).MemWf) {r : Res} (hr : r.MemWf) {xs : List α} :
    (xs.foldl f r).MemWf := by
  induction xs generalizing r with
  | nil => exact hr
  | cons a xs ih => exact ih (hf r a hr)

end Sys2Proof.Machine
end

section
/-!
O8: the operations of the state keep its memories in canonical form; each does what its parts do.
-/

namespace Sys2Proof.Machine

open Sys2Proof

/-! ### The state -/

theorem State.MemWf.reset : State.reset.MemWf := resetMemoryForm

/-! ### The operations of the state -/

theorem State.MemWf.setCore {s : State} {c : Nat} {k : Core} (hwf : s.MemWf) : (s.setCore c k).MemWf := hwf.upd

theorem State.MemWf.setCtx {s : State} {c x : Nat} {k : Ctx} (hwf : s.MemWf) : (s.setCtx c x k).MemWf := hwf.setCore

theorem State.MemWf.setMe {s : State} {k : Ctx} (hwf : s.MemWf) : (s.setMe k).MemWf := hwf.setCtx

theorem State.MemWf.setMycore {s : State} {k : Core} (hwf : s.MemWf) : (s.setMycore k).MemWf := hwf.setCore

theorem State.MemWf.setCluster {s : State} {r : Nat} {k : Cluster} (hwf : s.MemWf) : (s.setCluster r k).MemWf := hwf.upd

theorem State.MemWf.setPart {s : State} {p : Nat} {k : Part} (hwf : s.MemWf) : (s.setPart p k).MemWf := hwf.upd

theorem State.MemWf.setHitch {s : State} {pkg : Nat} {h : Hitch} (hwf : s.MemWf) : (s.setHitch pkg h).MemWf := hwf.setCluster

theorem State.MemWf.setLaunch {s : State} {l : Launch} (hwf : s.MemWf) : (s.setLaunch l).MemWf := hwf.upd

theorem State.MemWf.fresh {s : State} (hwf : s.MemWf) : s.fresh.2.MemWf := hwf.upd

theorem State.MemWf.mark {s : State} {a n : Nat} (hwf : s.MemWf) : (s.mark a n).MemWf := memWf_ite hwf.upd hwf

theorem State.MemWf.setTag {s : State} {pkg region t : Nat} (hwf : s.MemWf) : (s.setTag pkg region t).MemWf := hwf.upd

theorem State.MemWf.noRoll {s : State} {c : Nat} (hwf : s.MemWf) : (s.noRoll c).MemWf := by
  unfold State.noRoll
  split
  · exact hwf.setLaunch
  · exact hwf

theorem State.MemWf.countUnits {s : State} {c x : Nat} {rs : List Reg} (hwf : s.MemWf) : (s.countUnits c x rs).MemWf :=
  memWf_ite hwf (memWf_ite hwf.setCore.noRoll hwf.setCore)

theorem State.MemWf.unplace {s : State} {pkg : Nat} (hwf : s.MemWf) : (s.unplace pkg).MemWf := memWf_ite hwf hwf.upd

theorem State.MemWf.freeBank {s : State} {pkg : Nat} (hwf : s.MemWf) : (s.freeBank pkg).MemWf := hwf.setHitch.unplace.setCluster

theorem State.MemWf.logLine {s : State} {pkg line : Nat} (hwf : s.MemWf) : (s.logLine pkg line).MemWf := by
  unfold State.logLine
  split
  · exact hwf
  · exact memWf_ite hwf (memWf_ite hwf (memWf_ite (hwf.each (fun _ _ ht => ht.setLaunch)) hwf.setCluster))

theorem State.MemWf.repairLog {s : State} {pkg off n v : Nat} (hwf : s.MemWf) : (s.repairLog pkg off n v).MemWf := by
  unfold State.repairLog
  split
  · exact hwf
  · exact memWf_ite hwf.setCluster hwf

theorem State.MemWf.bankWrite {s : State} {pkg off n v : Nat} (hwf : s.MemWf) : (s.bankWrite pkg off n v).MemWf :=
  memWf_ite hwf (memWf_ite (memWf_ite hwf.logLine.logLine.repairLog.bankRaw hwf.logLine.logLine.repairLog.bankRaw.setTag)
    ((memWf_ite hwf.logLine.logLine.repairLog.bankRaw hwf.logLine.logLine.repairLog.bankRaw.setTag).setTag))

theorem State.MemWf.charge {s : State} {p i units : Nat} (hwf : s.MemWf) : (s.charge p i units).MemWf := hwf.setPart

theorem State.MemWf.endProducer {s : State} {r : Nat} (hwf : s.MemWf) : (s.endProducer r).MemWf := memWf_ite hwf hwf.setCluster

theorem State.MemWf.reosOf {s : State} {c : Nat} (hwf : s.MemWf) : (s.reosOf c).MemWf := by
  unfold State.reosOf
  dsimp only
  split
  · exact hwf
  · exact memWf_ite hwf hwf.setCore.endProducer

theorem State.MemWf.emptySlot {s : State} {c slot : Nat} (hwf : s.MemWf) : (s.emptySlot c slot).MemWf := hwf.setCore

theorem State.MemWf.giveBack {s : State} {pkg : Nat} (hwf : s.MemWf) : (s.giveBack pkg).MemWf := hwf.setHitch

theorem State.MemWf.outbound {s : State} {c slot pkg status : Nat} (hwf : s.MemWf) : (s.outbound c slot pkg status).MemWf := hwf.setCore

theorem State.MemWf.reoutbound {s : State} {c slot pkg status : Nat} (hwf : s.MemWf) : (s.reoutbound c slot pkg status).MemWf := by
  unfold State.reoutbound
  split
  · exact memWf_ite hwf.outbound hwf
  · exact hwf

theorem State.MemWf.reslot {s : State} {c : Nat} (hwf : s.MemWf) : (s.reslot c).MemWf := hwf.each (fun _ _ ht => memWf_ite ht.setCore ht)

theorem State.MemWf.boundary {s : State} {c : Nat} (hwf : s.MemWf) : (s.boundary c).MemWf :=
  (((hwf.each (fun _ _ ht => memWf_ite ht.freeBank (memWf_ite ht.giveBack (memWf_ite ht.reoutbound.freeBank ht)))).each
    (fun _ _ ht => memWf_ite ht ht.emptySlot)).setCore).reslot

theorem State.MemWf.endTicket {s : State} {c x : Nat} (hwf : s.MemWf) : (s.endTicket c x).MemWf := memWf_ite hwf.setCtx hwf.setCtx.upd

theorem State.MemWf.freeTraps {s : State} {c x : Nat} (hwf : s.MemWf) : (s.freeTraps c x).MemWf := hwf.setCore

theorem State.MemWf.stopCore {s : State} {c : Nat} {fatal : Bool} (hwf : s.MemWf) : (s.stopCore c fatal).MemWf :=
  ((hwf.each (fun _ _ ht => ht.endTicket.freeTraps.setCtx)).reosOf).setCore

theorem State.MemWf.cancelWork {s : State} {u : Nat × Nat} (hwf : s.MemWf) : (s.cancelWork u).MemWf := hwf.upd

theorem State.MemWf.endAway {s : State} {c : Nat} {p : Away → Bool} (hwf : s.MemWf) : (s.endAway c p).MemWf := hwf.setCore.upd

theorem State.MemWf.endOut {s : State} {c : Nat} {u : Nat × Nat} (hwf : s.MemWf) : (s.endOut c u).MemWf := hwf.endAway

theorem State.MemWf.dropParked {s : State} {u : Nat × Nat} {p : Parked} (hwf : s.MemWf) : (s.dropParked u p).MemWf := by
  unfold State.dropParked
  refine State.MemWf.endOut ?_
  split
  · exact memWf_ite hwf hwf.endProducer
  · exact hwf

theorem State.MemWf.freeParked {s : State} {u : Nat × Nat} {p : Parked} (hwf : s.MemWf) : (s.freeParked u p).MemWf :=
  (hwf.each (fun _ _ ht => memWf_ite ((memWf_ite ht.emptySlot ht).freeBank) ht)).each
    (fun _ _ ht => memWf_ite ht.giveBack (memWf_ite ht.reoutbound.freeBank ht))

theorem State.MemWf.hurry {s : State} {q : Nat} (hwf : s.MemWf) : (s.hurry q).MemWf := by
  unfold State.hurry
  dsimp only
  split
  · exact memWf_ite hwf.setPart hwf
  · exact hwf

theorem State.MemWf.endLaunch {s : State} {u : Nat × Nat} {status : Nat} (hwf : s.MemWf) : (s.endLaunch u status).MemWf := by
  unfold State.endLaunch
  split
  · exact hwf
  · exact memWf_ite hwf ((((memWf_ite hwf.setLaunch.hurry hwf.setLaunch).cancelWork).each (fun _ _ ht => ht.dropParked)).each (fun _ _ ht =>
      memWf_ite ht.stopCore.endOut ht))

theorem State.MemWf.postRecord {s : State} {p c x : Nat} {t : Trap} {level flags : Nat} (hwf : s.MemWf) :
    (s.postRecord p c x t level flags).1.MemWf := by
  unfold State.postRecord
  dsimp only
  split
  · exact hwf
  · split
    · exact hwf
    · exact hwf.devWrite.setPart

theorem State.MemWf.logErr {s : State} {cause : Nat} {words : List Nat} (hwf : s.MemWf) : (s.logErr cause words).MemWf := hwf.upd

theorem State.MemWf.freezeBanks {s : State} {c : Nat} (hwf : s.MemWf) : (s.freezeBanks c).MemWf :=
  hwf.each (fun _ _ ht => memWf_ite (memWf_ite ht.setHitch.setCore ht.setHitch) (memWf_ite ht.setHitch (memWf_ite ht.giveBack ht)))

theorem State.MemWf.freezeNow {s : State} {c : Nat} (hwf : s.MemWf) : (s.freezeNow c).MemWf := memWf_ite hwf.setCore.freezeBanks hwf

theorem State.MemWf.fatalCore {s : State} {c : Nat} (hwf : s.MemWf) : (s.fatalCore c).MemWf := by
  unfold State.fatalCore
  refine (State.MemWf.setCore ?_).freezeNow
  split
  · exact hwf.stopCore.endOut
  · exact hwf.stopCore

theorem State.MemWf.haltPart {s : State} {p c x : Nat} {t : Trap} (hwf : s.MemWf) : (s.haltPart p c x t).MemWf :=
  (hwf.setPart.logErr.each (fun _ _ hu => memWf_ite hu.fatalCore hu)).each (fun _ _ hu => hu.endLaunch)

theorem State.MemWf.postFatal {s : State} {p c x : Nat} {t : Trap} {level flags : Nat} (hwf : s.MemWf) : (s.postFatal p c x t level flags).MemWf := by
  unfold State.postFatal
  refine memWf_ite hwf ?_
  dsimp only
  split
  · exact hwf.haltPart
  · exact hwf.devWrite.setPart

theorem State.MemWf.fatalTrap {s : State} {c x : Nat} {t : Trap} {nested : Bool} (hwf : s.MemWf) : (s.fatalTrap c x t nested).MemWf := by
  unfold State.fatalTrap
  dsimp only
  split
  · exact hwf.postFatal.fatalCore.endLaunch
  · exact hwf.postFatal.fatalCore

theorem State.MemWf.enterHandler {s : State} {c x : Nat} {t : Trap} {slot : Option Nat} {rb : Bool} (hwf : s.MemWf) :
    (s.enterHandler c x t slot rb).MemWf := hwf.bankRaw.setCtx

theorem State.MemWf.stopTeam {s : State} {l : Launch} {c x : Nat} (hwf : s.MemWf) : (s.stopTeam l c x).MemWf :=
  hwf.each (fun _ _ ht => ht.each (fun _ _ hu => memWf_ite hu hu.setCtx))

theorem State.MemWf.endHub {s : State} {c x : Nat} (hwf : s.MemWf) : (s.endHub c x).MemWf := hwf.endTicket.freeTraps.setCtx.setCore

theorem State.MemWf.takeTrap {s : State} {c x : Nat} {t : Trap} (hwf : s.MemWf) {t' : State} (hr : s.takeTrap c x t = some t') : t'.MemWf := by
  unfold State.takeTrap at hr
  dsimp only at hr
  split at hr
  · cases hr
    exact hwf.endHub.logErr
  · split at hr
    · cases hr
    · split at hr
      · cases hr
        exact hwf.fatalTrap
      · split at hr
        · split at hr
          · cases hr
          · cases hr
            exact hwf.postRecord.enterHandler
        · split at hr
          · split at hr
            · cases hr
              exact hwf.fatalTrap
            · split at hr
              · cases hr
              · cases hr
                exact hwf.postRecord.setLaunch.stopTeam.enterHandler
          · cases hr
            exact hwf.fatalTrap

theorem State.MemWf.undoLine {s : State} {u : Undo} (hwf : s.MemWf) : (s.undoLine u).MemWf := hwf.bankRaw.setTag.upd

theorem State.MemWf.restoreFrame {s : State} {c : Nat} (hwf : s.MemWf) : (s.restoreFrame c).MemWf := by
  unfold State.restoreFrame
  dsimp only
  split
  · exact hwf
  · exact hwf.setCore

theorem State.MemWf.dropItems {s : State} {l : Launch} (hwf : s.MemWf) : (s.dropItems l).MemWf := hwf.upd.each (fun _ _ hu => hu.setCore)

theorem State.MemWf.rollBack {s : State} {l : Launch} (hwf : s.MemWf) : (s.rollBack l).MemWf :=
  (((hwf.each (fun _ _ ht => (ht.each (fun _ _ hw => hw.undoLine)).setCluster)).dropItems).each (fun _ _ ht => ht.restoreFrame)).setLaunch

theorem State.MemWf.trapReturn {s : State} {c x : Nat} (hwf : s.MemWf) {t' : State} (hr : s.trapReturn c x = some t') : t'.MemWf := by
  unfold State.trapReturn at hr
  dsimp only at hr
  split at hr
  · split at hr
    · split at hr
      · cases hr
        refine State.MemWf.rollBack ?_
        split
        · exact hwf.setPart
        · exact hwf
      · cases hr
    · cases hr
      split
      · exact hwf.setPart
      · exact hwf
  · split at hr
    · cases hr
    · cases hr
      refine (memWf_ite (State.MemWf.setCore ?_) ?_).setCtx
      · split
        · exact hwf.setPart
        · exact hwf
      · split
        · exact hwf.setPart
        · exact hwf

theorem State.MemWf.raiseW {s : State} {c : Cause} {detail va ipa : Nat} (hwf : s.MemWf) : (s.raiseW c detail va ipa).MemWf := hwf

theorem State.MemWf.raise {s : State} {c : Cause} {detail : Nat} (hwf : s.MemWf) : (s.raise c detail).MemWf := hwf.raiseW

theorem State.MemWf.raiseAt {s : State} {p : Nat} {c : Cause} {detail : Nat} (hwf : s.MemWf) : (s.raiseAt p c detail).MemWf := hwf.raiseW

theorem State.MemWf.raiseStray {s : State} (hwf : s.MemWf) : (s.raiseStray).MemWf := hwf.raiseAt

theorem State.MemWf.need {s : State} {ok : Bool} {c : Cause} {k : Res} (hwf : s.MemWf) (hk : k.MemWf) : (s.need ok c k).MemWf :=
  resWf_ite hk hwf.raise

theorem State.MemWf.stepMid {s : State} {m : Midway} {got : Nat} (hwf : s.MemWf) : (s.stepMid m got).MemWf := hwf.setMe

theorem State.MemWf.firm {s : State} {k : Res} (hwf : s.MemWf) (hk : k.MemWf) : (s.firm k).MemWf := resWf_ite trivial hk

theorem State.MemWf.held {s : State} (hwf : s.MemWf) : (s.held).MemWf := hwf.setMe

theorem State.MemWf.advance {s : State} {h : Hdr} {pc : Nat} (hwf : s.MemWf) : (s.advance h pc).MemWf := hwf.setMe

theorem State.MemWf.land {s : State} (hwf : s.MemWf) : (s.land).MemWf := hwf.setMe

theorem State.MemWf.trapOut {s : State} {t : Trap} (hwf : s.MemWf) : Out.MemWf (s.trapOut t) := by
  unfold State.trapOut
  split
  · next hr => exact Out.MemWf.next (hwf.takeTrap hr)
  · exact Out.MemWf.next hwf.held

theorem Res.MemWf.out {s : State} (hwf : s.MemWf) {hdr : Hdr} {r : Res} (hr : r.MemWf) : Out.MemWf (r.out hdr s) := by
  cases r with
  | done t => exact Out.MemWf.next (State.MemWf.advance hr)
  | goto t pc => exact Out.MemWf.next (State.MemWf.advance (State.MemWf.land hr))
  | trap t r => exact State.MemWf.trapOut hr
  | hold => exact Out.MemWf.next hwf.held
  | more t => exact Out.MemWf.next hr
  | wait t => exact Out.MemWf.next (State.MemWf.setMe hr)
  | stop f => exact Out.MemWf.fault f

theorem State.MemWf.issue {s : State} (hwf : s.MemWf) {hdr : Hdr} {n : State → Need} {body : State → Res} (hb : (body s).MemWf) :
    Out.MemWf (issue hdr n body s) := by
  unfold Machine.issue
  split
  · exact Out.MemWf.next hwf.advance
  · split
    · exact Res.MemWf.out hwf hwf.raise
    · split
      · exact Res.MemWf.out hwf hwf.raise
      · split
        · exact Res.MemWf.out hwf hwf.raise
        · split
          · exact Res.MemWf.out hwf hwf.raise
          · exact Res.MemWf.out hwf hb

theorem State.MemWf.event {s : State} {enabled : Bool} {t : State} (hwf : s.MemWf) (ht : t.MemWf) : Out.MemWf (event s enabled t) :=
  outWf_ite (Out.MemWf.next ht) (Out.MemWf.next hwf)

end Sys2Proof.Machine
end

section
/-!
O8: accesses, atomics, whole writes and the matrix unit.
-/

namespace Sys2Proof.Machine

open Sys2Proof

/-! ### Translation -/

theorem State.MemWf.chargeEntries {s : State} {p : Nat} {es : List Nat} (hwf : s.MemWf) : (s.chargeEntries p es).MemWf := by
  unfold State.chargeEntries
  refine hwf.each (fun _ _ ht => ?_)
  split
  · exact ht.charge
  · exact ht

theorem State.MemWf.orEntries {s : State} {p : Nat} {es : List Nat} {m : Nat} (hwf : s.MemWf) : (s.orEntries p es m).MemWf :=
  hwf.chargeEntries.each (fun _ _ ht => memWf_ite (memWf_ite ht ht.fresh.upd) ht.devWrite)

theorem State.MemWf.setDirty {s : State} {c p : Nat} {es : List Tlb} (hwf : s.MemWf) : (s.setDirty c p es).MemWf :=
  hwf.each (fun _ _ ht => memWf_ite ht (memWf_ite ht.orEntries ht.orEntries.setCore.setCluster))

theorem State.MemWf.fill {s : State} {c : Nat} {e : Tlb} {used : List Nat} (hwf : s.MemWf) : (s.fill c e used).MemWf :=
  hwf.chargeEntries.orEntries.setCore.setCluster

theorem State.MemWf.fillFirst {s : State} {c : Nat} {e : Tlb} (hwf : s.MemWf) : (s.fillFirst c e).MemWf := hwf.setCore

theorem State.MemWf.takeWalk {s : State} {d : Nat} (hwf : s.MemWf) : (s.takeWalk d).MemWf := by
  unfold State.takeWalk
  split
  · exact memWf_ite hwf.upd hwf
  · exact hwf

theorem State.MemWf.startWalk {s : State} {c x va : Nat} {fetch pref : Bool} (hwf : s.MemWf) : (s.startWalk c x va fetch pref).MemWf :=
  hwf.upd.upd.takeWalk

theorem State.MemWf.dropWalks {s : State} {c x : Nat} (hwf : s.MemWf) : (s.dropWalks c x).MemWf := hwf.upd

/-! ### Accesses (R129 to R138) -/

theorem State.MemWf.putReg {s : State} {c x : Nat} {r : Reg} {t : ETy} {v : Nat} (hwf : s.MemWf) : (s.putReg c x r t v).MemWf := by
  unfold State.putReg
  dsimp only
  split
  · exact hwf.setCtx
  · exact hwf.setCtx
  · exact hwf.setCtx
  · exact hwf.setCore

theorem State.MemWf.writeReg {s : State} {c x : Nat} {r : Reg} {t : ETy} {v : Nat} (hwf : s.MemWf) : (s.writeReg c x r t v).MemWf :=
  hwf.countUnits.putReg

theorem State.MemWf.returnDue {s : State} {c : Nat} (hwf : s.MemWf) : (s.returnDue c).MemWf := hwf.setCore.each (fun _ _ ht => ht.writeReg)

theorem State.MemWf.takeJournal {s : State} {c e : Nat} (hwf : s.MemWf) : (s.takeJournal c e).MemWf := hwf.setCore

theorem State.MemWf.freeJournal {s : State} {c : Nat} {e : Option Nat} (hwf : s.MemWf) : (s.freeJournal c e).MemWf := by
  unfold State.freeJournal
  split
  · exact hwf.setCore
  · exact hwf

theorem State.MemWf.atBank {s : State} {pkg off : Nat} {k : AKind} {n data : Nat} (hwf : s.MemWf) : (s.atBank pkg off k n data).2.MemWf := by
  unfold State.atBank
  dsimp only
  split
  · exact hwf
  · exact hwf.bankWrite
  · exact hwf.bankWrite

theorem State.MemWf.writeSegs {segs : List (Nat × Nat)} : ∀ {s : State} {v : Nat}, s.MemWf → (s.writeSegs segs v).MemWf := by
  induction segs with
  | nil => exact fun hwf => hwf
  | cons e r ih => exact fun hwf => ih hwf.devWrite

theorem State.MemWf.atHome {s : State} {segs : List (Nat × Nat)} {k : AKind} {data : Nat} (hwf : s.MemWf) : (s.atHome segs k data).2.MemWf := by
  unfold State.atHome
  dsimp only
  split
  · exact hwf
  · exact hwf.writeSegs
  · exact hwf.writeSegs

theorem State.MemWf.launchAccess {s : State} (hwf : s.MemWf) {q : MemReq} {t : Tgt} {cs : List Cut} {p asid : Nat} :
    (s.launchAccess q t cs p asid).MemWf := by
  unfold State.launchAccess
  dsimp only
  generalize (q.blocks t || (q.kind == .load && (cs.any Cut.toPeer || q.size == 512)) || (match t with | .win .. => true | _ => false)) = blocks
  generalize (q.kind != .load && !blocks) = posted
  cases (if posted = true then s.journalSlot s.cur else some 0) with
  | none => trivial
  | some e =>
    dsimp only
    have hsent (t : State) (ht : t.MemWf) : State.MemWf (match posted, q.reg with
        | false, some r => t.setMycore { t.mycore with loads := t.mycore.loads ++
            [{ id := s.nonce, ctx := t.curCtx, reg := r, ty := q.ty, val := none, due := 0, exposed := false }] }
        | _, _ => t) := by
      split
      · exact ht.setMycore
      · exact ht
    exact resWf_ite (State.MemWf.setMe (hsent _ (memWf_ite hwf.upd.takeJournal hwf.upd))) (hsent _ (memWf_ite hwf.upd.takeJournal hwf.upd))

theorem State.MemWf.withPages {s : State} {va n acc xlat level : Nat} {k : List (Nat × Nat) → List Tlb → Res} (hwf : s.MemWf)
    (hk : ∀ t u, (k t u).MemWf) :
    (s.withPages va n acc xlat level k).MemWf := by
  unfold State.withPages
  dsimp only
  split
  · split
    · exact hwf.dropWalks.raiseW
    · exact hwf.startWalk.setMe
  · exact hwf.raiseW
  · exact hk _ _

theorem State.MemWf.partsOk {s : State} {tx : Bool} {p va acc : Nat} {cs : List Cut} {bad : Bool} {k : Res} (hwf : s.MemWf) (hk : k.MemWf) :
    (s.partsOk tx p va acc cs bad k).MemWf := by
  unfold State.partsOk
  dsimp only
  split
  · exact hwf.raiseW
  · split
    · exact trivial
    · refine resWf_ite hwf.raiseAt (resWf_ite hk ?_)
      split
      · exact hwf.raiseAt
      · exact resWf_ite hwf.raiseAt hk

theorem State.MemWf.globalAccess {s : State} {q : MemReq} {t : Tgt} {p va xlat level : Nat} (hwf : s.MemWf) :
    (s.globalAccess q t p va xlat level).MemWf :=
  resWf_ite hwf.raiseAt (hwf.withPages (fun _ _ => hwf.partsOk ((memWf_ite hwf.setDirty.noRoll hwf).launchAccess)))

theorem State.MemWf.windowEnd {s : State} {q : MemReq} {v : Nat} (hwf : s.MemWf) : (s.windowEnd q v).MemWf := by
  unfold State.windowEnd
  split
  · exact resWf_ite hwf.putReg hwf.setMycore
  · exact hwf.putReg
  · exact hwf

theorem State.MemWf.windowAccess {s : State} {q : MemReq} {p slot off : Nat} (hwf : s.MemWf) : (s.windowAccess q p slot off).MemWf := by
  unfold State.windowAccess
  dsimp only
  split
  · exact hwf.raiseAt
  · exact resWf_ite trivial (resWf_ite hwf.raiseAt (resWf_ite hwf.atBank.stepMid hwf.atBank.windowEnd))

theorem State.MemWf.memOp {s : State} {q : MemReq} (hwf : s.MemWf) : (s.memOp q).MemWf := by
  unfold State.memOp
  dsimp only
  split
  · exact hwf.raiseStray
  · refine resWf_ite trivial (resWf_ite hwf.raiseAt (resWf_ite hwf.raiseAt ?_))
    split
    · exact hwf.raiseAt
    · split
      · exact resWf_ite hwf.raiseAt (resWf_ite trivial hwf.globalAccess)
      · exact resWf_ite hwf.raiseAt hwf.globalAccess
      · refine resWf_ite hwf.raiseAt (resWf_ite trivial (resWf_ite ?_ hwf.windowAccess))
        split
        · exact hwf.raiseAt
        · exact hwf.launchAccess
      · exact resWf_ite hwf.raiseAt (resWf_ite hwf.raiseAt (resWf_ite trivial (resWf_ite ((memWf_ite hwf.noRoll hwf).launchAccess) ((memWf_ite
          hwf.noRoll hwf).raiseAt))))
      · refine resWf_ite hwf.raise (resWf_ite hwf.raiseAt (resWf_ite hwf.raiseAt ?_))
        split
        · exact resWf_ite hwf.raiseAt (resWf_ite trivial hwf.noRoll.launchAccess)
        · exact resWf_ite trivial ((memWf_ite hwf.noRoll hwf).launchAccess)

theorem State.MemWf.setAccess {s : State} {a : Access} (hwf : s.MemWf) : (s.setAccess a).MemWf := hwf.upd

theorem State.MemWf.dropAccess {s : State} {id : Nat} (hwf : s.MemWf) : (s.dropAccess id).MemWf := hwf.upd

theorem State.MemWf.performAt {s : State} {a : Access} (hwf : s.MemWf) : (s.performAt a).MemWf := by
  unfold State.performAt
  refine memWf_ite hwf.setAccess ?_
  split
  · refine memWf_ite hwf.setAccess ?_
    split
    · exact hwf.setAccess
    · exact memWf_ite hwf.setAccess hwf.atBank.setAccess
  · exact memWf_ite hwf.setAccess (memWf_ite hwf.setAccess ((hwf.atHome.each (fun _ _ ht => memWf_ite ht.charge ht)).setAccess))
  · exact memWf_ite hwf.upd.setAccess hwf.setAccess
  · exact hwf.upd.setAccess

theorem State.MemWf.enterBuffer {s : State} {a : Access} (hwf : s.MemWf) : (s.enterBuffer a).MemWf := by
  unfold State.enterBuffer
  split
  · exact hwf.setAccess
  · exact hwf.fresh.setAccess

theorem State.MemWf.arrive {s : State} {a : Access} (hwf : s.MemWf) : (s.arrive a).MemWf := memWf_ite hwf.enterBuffer (memWf_ite hwf.performAt hwf)

theorem State.MemWf.finishWait {s : State} {c x : Nat} (hwf : s.MemWf) : (s.finishWait c x).MemWf := hwf.setCtx

theorem State.MemWf.trapWaiting {s : State} {c x : Nat} {cause detail va ipa : Nat} (hwf : s.MemWf) {t' : State}
    (hr : s.trapWaiting c x cause detail va ipa = some t') :
    t'.MemWf := hwf.setCtx.takeTrap hr

theorem State.MemWf.pendTrap {s : State} {c x : Nat} {t : Trap} (hwf : s.MemWf) : (s.pendTrap c x t).MemWf := hwf.setCtx

theorem State.MemWf.dropLoad {s : State} {c id : Nat} (hwf : s.MemWf) : (s.dropLoad c id).MemWf := hwf.setCore

theorem State.MemWf.deliver {s : State} {a : Access} {v : Nat} (hwf : s.MemWf) {t' : State} (hr : s.deliver a v = some t') : t'.MemWf := by
  unfold State.deliver at hr
  split at hr
  · cases hr
    exact hwf.dropLoad
  · dsimp only at hr
    split at hr
    · cases hr
      exact memWf_ite hwf.finishWait hwf
    · split at hr
      · split at hr
        · exact hwf.dropLoad.trapWaiting hr
        · split at hr
          · exact hwf.dropLoad.trapWaiting hr
          · cases hr
            exact memWf_ite hwf.dropLoad.writeReg.finishWait hwf.dropLoad.writeReg
      · cases hr
        exact memWf_ite hwf.dropLoad.writeReg.finishWait hwf.dropLoad.writeReg

theorem State.MemWf.giveValue {s : State} {a : Access} {v : Nat} (hwf : s.MemWf) {t' : State} (hr : s.giveValue a v = some t') : t'.MemWf := by
  unfold State.giveValue at hr
  dsimp only at hr
  split at hr
  · cases hr
    exact hwf.dropAccess.setAccess
  · exact hwf.dropAccess.deliver hr

/-! ### Atomics (R183 to R185) -/

theorem State.MemWf.execAtmAdd {h : Hdr} {x : OpAtm} {s : State} (hwf : s.MemWf) : Out.MemWf (execAtmAdd h x s) := hwf.issue hwf.memOp

theorem State.MemWf.execAtmAnd {h : Hdr} {x : OpAtm} {s : State} (hwf : s.MemWf) : Out.MemWf (execAtmAnd h x s) := hwf.issue hwf.memOp

theorem State.MemWf.execAtmOr {h : Hdr} {x : OpAtm} {s : State} (hwf : s.MemWf) : Out.MemWf (execAtmOr h x s) := hwf.issue hwf.memOp

theorem State.MemWf.execAtmXor {h : Hdr} {x : OpAtm} {s : State} (hwf : s.MemWf) : Out.MemWf (execAtmXor h x s) := hwf.issue hwf.memOp

theorem State.MemWf.execAtmMin {h : Hdr} {x : OpAtm} {s : State} (hwf : s.MemWf) : Out.MemWf (execAtmMin h x s) := hwf.issue hwf.memOp

theorem State.MemWf.execAtmMax {h : Hdr} {x : OpAtm} {s : State} (hwf : s.MemWf) : Out.MemWf (execAtmMax h x s) := hwf.issue hwf.memOp

theorem State.MemWf.execAtmFadd {h : Hdr} {x : OpAtm} {s : State} (hwf : s.MemWf) : Out.MemWf (execAtmFadd h x s) := hwf.issue hwf.memOp

theorem State.MemWf.execAtmSwap {h : Hdr} {x : OpAtm} {s : State} (hwf : s.MemWf) : Out.MemWf (execAtmSwap h x s) := hwf.issue hwf.memOp

theorem State.MemWf.execAtmCas {h : Hdr} {x : OpAtm} {s : State} (hwf : s.MemWf) : Out.MemWf (execAtmCas h x s) := hwf.issue hwf.memOp

theorem State.MemWf.execAtmIncb {h : Hdr} {x : OpAtm} {s : State} (hwf : s.MemWf) : Out.MemWf (execAtmIncb h x s) := hwf.issue hwf.memOp

/-! ### Whole reads and writes -/

theorem State.MemWf.bankLines {pkg k : Nat} : ∀ {s : State} {off n v : Nat}, s.MemWf → (s.bankLines pkg k off n v).MemWf := by
  induction k with
  | zero => exact fun hwf => hwf
  | succ k ih =>
    intro s off n v hwf
    unfold State.bankLines
    split
    · exact hwf
    · exact ih hwf.bankWrite

theorem State.MemWf.sendStore {s : State} {g : Agent} {group : Nat} {d : Dest} {n v : Nat} (hwf : s.MemWf) : (s.sendStore g group d n v).MemWf :=
  hwf.fresh.upd

theorem State.MemWf.pieceWrite {s : State} {g : Agent} {p : Piece} {v : Nat} (hwf : s.MemWf) : (s.pieceWrite g p v).MemWf := by
  unfold State.pieceWrite
  split
  · exact hwf.bankLines
  · exact hwf.devWrite
  · exact hwf.sendStore
  · exact hwf.upd

theorem State.MemWf.writePieces {g : Agent} {ps : List Piece} : ∀ {s : State} {v : Nat}, s.MemWf → (s.writePieces g ps v).MemWf := by
  induction ps with
  | nil => exact fun hwf => hwf
  | cons p r ih => exact fun hwf => ih hwf.pieceWrite

theorem State.MemWf.chargePieces {s : State} {p : Nat} {ps : List Piece} (hwf : s.MemWf) : (s.chargePieces p ps).MemWf := by
  unfold State.chargePieces
  refine hwf.each (fun _ _ ht => ?_)
  split
  · exact memWf_ite ht.charge ht
  · exact ht

theorem State.MemWf.touch {s : State} {g : Agent} {va n : Nat} (hwf : s.MemWf) : (s.touch g va n).MemWf := by
  unfold State.touch
  refine hwf.each (fun _ _ ht => ?_)
  split
  · exact ht
  · split
    · exact ht.chargeEntries.orEntries
    · exact ht.chargeEntries

theorem State.MemWf.touchPtr {s : State} {g : Agent} {p n : Nat} (hwf : s.MemWf) : (s.touchPtr g p n).MemWf := memWf_ite hwf.touch hwf

theorem State.MemWf.bulkRead {s : State} {g : Agent} {p n : Nat} (hwf : s.MemWf) {v' : Nat} {t' : State} (hr : s.bulkRead g p n = .ok (v', t')) :
    t'.MemWf := by
  unfold State.bulkRead at hr
  split at hr
  · cases hr
  · split at hr
    · cases hr
    · cases hr
      exact hwf.touchPtr.chargePieces

theorem State.MemWf.bulkWrite {s : State} {g : Agent} {p n v : Nat} (hwf : s.MemWf) {t' : State} (hr : s.bulkWrite g p n v = .ok t') : t'.MemWf := by
  unfold State.bulkWrite at hr
  split at hr
  · cases hr
  · cases hr
    exact hwf.touchPtr.setDirty.chargePieces.writePieces

theorem State.MemWf.walkPages {s : State} {g : Agent} {as : List Nat} (hwf : s.MemWf) : (s.walkPages g as).MemWf :=
  hwf.each (fun _ _ ht => ht.fresh.upd.takeWalk)

theorem State.MemWf.endWalks {s : State} {g : Agent} (hwf : s.MemWf) : (s.endWalks g).MemWf := hwf.upd

theorem State.MemWf.withRuns {s : State} {rs : List (Nat × Nat)} {k : State → Res} (hwf : s.MemWf) (hk : ∀ t, t.MemWf → (k t).MemWf) :
    (s.withRuns rs k).MemWf := by
  unfold State.withRuns
  dsimp only
  split
  · exact hwf.startWalk.setMe
  · exact hk _ hwf.dropWalks

theorem State.MemWf.trip {s : State} (hwf : s.MemWf) {t : Trip} : (s.trip t).MemWf := by
  cases t with
  | cause c d va ipa => exact hwf.raiseW
  | gone a => trivial
  | down va => exact hwf.raiseW

theorem State.MemWf.tripWaiting {s old : State} (hwf : s.MemWf) (hold : old.MemWf) {c x : Nat} {t : Trip} : Out.MemWf (s.tripWaiting old c x t) := by
  cases t with
  | cause e d va ipa => exact Out.MemWf.next (memWf_getD hwf.trapWaiting hold)
  | gone a => exact Out.MemWf.fault _
  | down va => exact Out.MemWf.next (memWf_getD hwf.trapWaiting hold)

/-! ### The matrix unit (R90 to R111) -/

theorem State.MemWf.readShape {s : State} {g : Agent} {sh : Nat} (hwf : s.MemWf) {v' : Nat} {t' : State} (hr : s.readShape g sh = .ok (v', t')) :
    t'.MemWf := by
  unfold State.readShape at hr
  dsimp only at hr
  split at hr
  · cases hr
  · split at hr
    · cases hr
    · split at hr
      · cases hr
      · exact hwf.bulkRead hr

theorem State.MemWf.enqueue {s : State} {i : Instr} {ops : List Word} {op : MOp} (hwf : s.MemWf) : (s.enqueue i ops op).2.MemWf := hwf.fresh.setMycore

theorem State.MemWf.queued {s : State} {i : Instr} {ops : List Word} {op : MOp} (hwf : s.MemWf) : (s.queued i ops op).MemWf := hwf.enqueue

theorem State.MemWf.queuedWait {s : State} {i : Instr} {ops : List Word} {op : MOp} (hwf : s.MemWf) : (s.queuedWait i ops op).MemWf :=
  hwf.enqueue.setMe

theorem State.MemWf.matrixOp {f : State → Res} {s : State} (hwf : s.MemWf) (hf : ∀ t, t.MemWf → (f t).MemWf) : (matrixOp f s).MemWf :=
  hwf.firm (resWf_ite trivial (hf _ hwf))

theorem State.MemWf.mldOp {isA : Bool} {i : Instr} {x : OpMld} {s : State} (hwf : s.MemWf) : (mldOp isA i x s).MemWf := by
  unfold Machine.mldOp
  dsimp only
  split
  · exact hwf.raiseStray
  · refine resWf_ite hwf.raiseAt (hwf.withRuns (fun _ ht => ?_))
    split
    · exact ht.trip
    · next hs =>
        split
        · exact ht.raise
        · next hw =>
            refine (ht.readShape hs).withRuns (fun _ hw => ?_)
            split
            · exact hw.trip
            · exact hw.setMycore.queuedWait

theorem State.MemWf.execMldA {h : Hdr} {x : OpMld} {s : State} (hwf : s.MemWf) : Out.MemWf (execMldA h x s) :=
  hwf.issue (hwf.matrixOp (fun _ ht => ht.mldOp))

theorem State.MemWf.execMldB {h : Hdr} {x : OpMld} {s : State} (hwf : s.MemWf) : Out.MemWf (execMldB h x s) :=
  hwf.issue (hwf.matrixOp (fun _ ht => ht.mldOp))

theorem State.MemWf.execMzero {h : Hdr} {a : AReg} {s : State} (hwf : s.MemWf) : Out.MemWf (execMzero h a s) := by
  unfold Machine.execMzero
  refine hwf.issue ?_
  refine hwf.matrixOp (fun _ ht => ?_)
  dsimp only
  split
  · exact trivial
  · exact ht.setMycore.queued

theorem State.MemWf.soil {s : State} {a ty : Nat} (hwf : s.MemWf) : (s.soil a ty).MemWf := hwf.setMycore

theorem State.MemWf.execMmac {h : Hdr} {x : OpMmac} {s : State} (hwf : s.MemWf) : Out.MemWf (execMmac h x s) := by
  unfold Machine.execMmac
  refine hwf.issue ?_
  refine hwf.matrixOp (fun _ ht => ?_)
  dsimp only
  split
  · exact resWf_ite ht.raise ht.soil.queued
  · exact ht.raise

theorem State.MemWf.execMmacSp {h : Hdr} {x : OpMmacSp} {s : State} (hwf : s.MemWf) : Out.MemWf (execMmacSp h x s) := by
  unfold Machine.execMmacSp
  refine hwf.issue ?_
  refine hwf.matrixOp (fun _ ht => ?_)
  dsimp only
  split
  · exact ht.raise
  · refine resWf_ite ht.raise (resWf_ite ht.raiseAt (resWf_ite ht.raiseAt (ht.withRuns (fun _ hu => ?_))))
    split
    · exact hu.trip
    · next hs =>
        split
        · exact hu.raise
        · exact ((hu.bulkRead hs).soil).queued

theorem State.MemWf.execMscale {h : Hdr} {x : OpMscale} {s : State} (hwf : s.MemWf) : Out.MemWf (execMscale h x s) :=
  hwf.issue (hwf.matrixOp (fun _ ht => resWf_ite ht.soil.queued ht.raise))

theorem State.MemWf.execMepi {h : Hdr} {x : OpMepi} {s : State} (hwf : s.MemWf) : Out.MemWf (execMepi h x s) := by
  unfold Machine.execMepi
  refine hwf.issue ?_
  refine hwf.matrixOp (fun _ ht => ?_)
  refine resWf_ite ht.raise ?_
  split
  · exact ht.raiseStray
  · exact resWf_ite ht.raiseAt (resWf_ite ht.raiseAt ht.queued)

theorem State.MemWf.execMdrain {h : Hdr} {a : AReg} {s : State} (hwf : s.MemWf) : Out.MemWf (execMdrain h a s) := hwf.issue (resWf_ite trivial hwf)

theorem State.MemWf.execMstat {h : Hdr} {x : OpMstat} {s : State} (hwf : s.MemWf) : Out.MemWf (execMstat h x s) :=
  hwf.issue (hwf.matrixOp (fun _ ht => ht.enqueue.setMycore))

theorem State.MemWf.execMrepl {h : Hdr} {b : SReg} {s : State} (hwf : s.MemWf) : Out.MemWf (execMrepl h b s) :=
  hwf.issue (hwf.matrixOp (fun _ ht => resWf_ite ht.raise ht.queuedWait))

theorem State.MemWf.execMswz {h : Hdr} {x : OpSCode} {s : State} (hwf : s.MemWf) : Out.MemWf (execMswz h x s) := by
  unfold Machine.execMswz
  refine hwf.issue ?_
  refine hwf.matrixOp (fun _ ht => ?_)
  dsimp only
  split
  · exact ht.trip
  · exact ht.queuedWait

theorem State.MemWf.rowPieces {g : Agent} {group : Nat} {ps : List Piece} :
    ∀ {s : State} {v : Nat}, s.MemWf → (s.rowPieces g group ps v).MemWf := by
  induction ps with
  | nil => exact fun hwf => hwf
  | cons p r ih =>
    intro s v hwf
    refine ih ?_
    split
    · exact hwf.pieceWrite
    · exact hwf.each (fun _ _ ht => ht.sendStore)

theorem State.MemWf.rowStep {s : State} (hwf : s.MemWf) {c : Nat} {g : Agent} {e : Epi} {elems : List Nat} : (s.rowStep c g e elems).MemWf := by
  unfold State.rowStep
  cases e.sent with
  | some n =>
    dsimp only
    split <;> exact hwf.upd
  | none =>
    dsimp only
    split
    · split
      · exact hwf
      · split
        · split
          · exact hwf
          · next hr => exact hwf.bulkWrite hr
        · exact hwf.each (fun _ _ ht => ht.sendStore)
    · split
      · exact hwf
      · split <;> exact ((hwf.touchPtr.setDirty).chargePieces).rowPieces

theorem State.MemWf.popCmd {s : State} {c : Nat} (hwf : s.MemWf) : (s.popCmd c).MemWf := hwf.setCore

theorem State.MemWf.cmdDone {s : State} {c : Nat} {m : MCmd} (hwf : s.MemWf) : (s.cmdDone c m).MemWf := memWf_ite hwf.finishWait hwf

theorem State.MemWf.reswizzle {s : State} {pkg region old new : Nat} (hwf : s.MemWf) : (s.reswizzle pkg region old new).MemWf :=
  ((hwf.each (fun _ _ ht => ht.logLine)).each (fun _ _ hu => hu.repairLog.bankRaw)).setTag

theorem State.MemWf.rowStored {s : State} {c : Nat} {e : Epi} (hwf : s.MemWf) : (s.rowStored c e).MemWf := memWf_ite hwf.noRoll hwf

theorem State.MemWf.tileWrite {s : State} {c p : Nat} (hwf : s.MemWf) : (s.tileWrite c p).MemWf := memWf_ite hwf.noRoll hwf

theorem State.MemWf.keepCmd {s : State} {c : Nat} {m : MCmd} {op : MOp} (hwf : s.MemWf) : (s.keepCmd c m op).MemWf := hwf.setCore

theorem State.MemWf.matrixRun {s : State} {c : Nat} {m : MCmd} (hwf : s.MemWf) : Out.MemWf (s.matrixRun c m) := by
  unfold State.matrixRun
  dsimp only
  split
  · exact Out.MemWf.next hwf.popCmd
  · split
    · exact Out.MemWf.next ((((hwf.popCmd.foldl (fun _ _ ht => ht.touchPtr)).chargePieces).setCore).cmdDone)
    · exact hwf.popCmd.setCore.tripWaiting hwf
  · split
    · exact outWf_ite (Out.MemWf.next hwf.popCmd) (Out.MemWf.next (((memWf_ite hwf.keepCmd hwf.popCmd).tileWrite).setCore))
    · exact Out.MemWf.next hwf.popCmd
  · exact Out.MemWf.next hwf.popCmd.tileWrite.setCore
  · split
    · next hs => exact Out.MemWf.next (memWf_ite (((memWf_went hwf.rowStep hs).rowStored).keepCmd) (((memWf_went hwf.rowStep hs).rowStored).popCmd))
    · exact Out.MemWf.fault _
    · next hw => exact Out.MemWf.next (((memWf_stops hwf.rowStep hw).popCmd).setCore)
  · exact Out.MemWf.next (memWf_ite hwf.popCmd.setCore.writeReg hwf.popCmd.setCore)
  · split
    · exact hwf.popCmd.tripWaiting hwf
    · exact outWf_ite (hwf.popCmd.tripWaiting hwf) (Out.MemWf.next hwf.popCmd.reswizzle.cmdDone)
  · split
    · exact hwf.popCmd.tripWaiting hwf
    · refine outWf_ite (Out.MemWf.next hwf.popCmd.setCore.cmdDone) ?_
      split
      · next hw => exact outWf_ite (Out.MemWf.next ((((memWf_went hwf.rowStep hw).rowStored).keepCmd).setCore)) (Out.MemWf.next (((((memWf_went
          hwf.rowStep hw).rowStored).popCmd).setCore).cmdDone))
      · exact Out.MemWf.fault _
      · next hv => exact Out.MemWf.next (memWf_getD ((((memWf_stops hwf.rowStep hv).popCmd).setCore).trapWaiting) hwf)

theorem State.MemWf.execMatrixCommandExecute {core : Nat} {s : State} (hwf : s.MemWf) : Out.MemWf (execMatrixCommandExecute core s) := by
  unfold Machine.execMatrixCommandExecute
  split
  · exact outWf_ite (Out.MemWf.next hwf) (outWf_ite hwf.endWalks.matrixRun (Out.MemWf.next hwf.walkPages))
  · exact Out.MemWf.next hwf

theorem State.MemWf.execEpilogueRowFault {core : Nat} {phys : Nat} {s : State} (hwf : s.MemWf) : Out.MemWf (execEpilogueRowFault core phys s) := by
  unfold Machine.execEpilogueRowFault
  split
  · split
    · exact Out.MemWf.next hwf.setCore.pendTrap
    · exact Out.MemWf.next hwf
  · exact Out.MemWf.next hwf

theorem State.MemWf.repaired {s : State} {place : Nat} (hwf : s.MemWf) : (s.repaired place).MemWf := hwf.upd

theorem State.MemWf.queueError {s : State} {core : Nat} (hwf : s.MemWf) : (s.queueError core).MemWf := by
  unfold State.queueError
  dsimp only
  split
  · exact hwf
  · exact memWf_ite hwf.setCore.repaired ((memWf_ite hwf.setCore.setCtx hwf.setCore).pendTrap)

theorem State.MemWf.lostFlit {s : State} {id : Nat} (hwf : s.MemWf) : (s.lostFlit id).MemWf := by
  unfold State.lostFlit
  split
  · exact hwf.setAccess
  · exact memWf_ite hwf.upd hwf

theorem State.MemWf.bridgeFails {s : State} {d : Nat} (hwf : s.MemWf) : (s.bridgeFails d).MemWf := memWf_ite hwf hwf.upd

theorem State.MemWf.execOperandQueueParityError {place : ErrorPlace} {s : State} (hwf : s.MemWf) :
    Out.MemWf (execOperandQueueParityError place s) := by
  unfold Machine.execOperandQueueParityError
  split
  · exact Out.MemWf.next hwf.queueError
  · exact Out.MemWf.next (memWf_ite hwf.repaired hwf.upd)
  · exact Out.MemWf.next (memWf_ite hwf.repaired hwf.upd)
  · exact Out.MemWf.next (memWf_ite hwf.repaired hwf.lostFlit)
  · exact Out.MemWf.next hwf.bridgeFails

theorem State.MemWf.refetchBufs {c : Nat} {g : Agent} {bs : List Nat} :
    ∀ {s t : State}, s.MemWf → s.refetchBufs c g bs = .ok t → t.MemWf := by
  induction bs with
  | nil =>
    rintro s _ hwf ⟨⟩
    exact hwf
  | cons b bs ih =>
    intro s t hwf hr
    unfold State.refetchBufs at hr
    split at hr
    · exact ih hwf hr
    · split at hr
      · cases hr
      · next hs =>
        split at hr
        · cases hr
        · split at hr
          · cases hr
          · exact ih (((hwf.readShape hs).foldl (fun _ _ ht => ht.touchPtr)).chargePieces.setCore) hr

theorem State.MemWf.refetchMeta {c : Nat} {g : Agent} {ms : List MCmd} :
    ∀ {s t : State} {before : List MCmd}, s.MemWf → s.refetchMeta c g before ms = .ok t → t.MemWf := by
  induction ms with
  | nil =>
    rintro s _ before hwf ⟨⟩
    exact hwf.setCore
  | cons m ms ih =>
    intro s t before hwf hr
    unfold State.refetchMeta at hr
    split at hr
    · dsimp only at hr
      split at hr
      · cases hr
      · next hs => exact ih (hwf.bulkRead hs) hr
    · exact ih hwf hr

theorem State.MemWf.refetchAll {s : State} {c : Nat} {g : Agent} (hwf : s.MemWf) {t' : State} (hr : s.refetchAll c g = .ok t') : t'.MemWf := by
  unfold State.refetchAll at hr
  split at hr
  · cases hr
  · next hs => exact (hwf.refetchBufs hs).refetchMeta hr

theorem State.MemWf.execPanelRefetch {core : Nat} {s : State} (hwf : s.MemWf) : Out.MemWf (execPanelRefetch core s) := by
  unfold Machine.execPanelRefetch
  refine outWf_ite (Out.MemWf.next hwf) (outWf_ite (Out.MemWf.next hwf.walkPages) ?_)
  split
  · next hr => exact Out.MemWf.next ((hwf.endWalks.refetchAll hr).setCore)
  · exact Out.MemWf.fault _
  · exact Out.MemWf.next hwf.endWalks.setCore.pendTrap

end Sys2Proof.Machine
end

section
/-!
O8: the engines and the banks.
-/

namespace Sys2Proof.Machine

open Sys2Proof

/-! ### The engines (R195 to R202) -/

theorem State.MemWf.recordSet {s : State} {c : Nat} {u : Option (Nat × Nat)} {id : Nat} {finished : Bool} (hwf : s.MemWf) :
    (s.recordSet c u id finished).MemWf := by
  unfold State.recordSet
  split
  · exact hwf.setLaunch
  · exact hwf.setCore

theorem State.MemWf.takePost {s : State} {p : Post} (hwf : s.MemWf) {t' : State} (hr : s.takePost p = some t') : t'.MemWf := by
  unfold State.takePost at hr
  split at hr
  · cases hr
    exact hwf
  · cases hr
  · dsimp only at hr
    split at hr
    · cases hr
    · cases hr
      exact hwf.setCtx

theorem State.MemWf.markPost {s : State} {p : Post} (hwf : s.MemWf) : (s.markPost p).MemWf := by
  unfold State.markPost
  split
  · exact hwf.recordSet
  · exact hwf

theorem State.MemWf.leaveFinish {s : State} (hwf : s.MemWf) {p : Post} {t : State} (hr : s.leaveFinish p = some t) : t.MemWf := by
  unfold State.leaveFinish at hr
  dsimp only at hr
  split at hr
  · next u hu =>
    cases hr
    split at hu
    · cases hu
    · exact (hwf.takePost hu).markPost
  · exact memWf_unless hwf.fresh.upd.markPost hr

theorem State.MemWf.post {s : State} {p : Post} (hwf : s.MemWf) : (s.post p).MemWf := by
  unfold State.post
  refine memWf_getD (fun hr => ?_) hwf.upd
  split at hr
  · cases hr
  · exact hwf.leaveFinish hr

theorem State.MemWf.movePost {s : State} {p : Post} (hwf : s.MemWf) {t' : State} (hr : s.movePost p = some t') : t'.MemWf := by
  unfold State.movePost at hr
  dsimp only at hr
  split at hr
  · split at hr
    · exact hwf.upd.takePost hr
    · cases hr
  · split at hr
    · cases hr
    · exact hwf.upd.leaveFinish hr

theorem State.MemWf.readStrand {s : State} {g : Agent} {p : Nat} (hwf : s.MemWf) {v' : Nat} {t' : State} (hr : s.readStrand g p = .ok (v', t')) :
    t'.MemWf := by
  unfold State.readStrand at hr
  split at hr
  · cases hr
  · split at hr
    · cases hr
    · split at hr
      · cases hr
      · next hv =>
          cases hr
          exact hwf.bulkRead hv

theorem State.MemWf.paramOf {s : State} {g : Agent} {v : Nat} (hwf : s.MemWf) {v' : Nat} {t' : State} (hr : s.paramOf g v = .ok (v', t')) :
    t'.MemWf := by
  unfold State.paramOf at hr
  dsimp only at hr
  split at hr
  · split at hr
    · cases hr
    · cases hr
      exact hwf
  · split at hr
    · cases hr
    · split at hr
      · cases hr
      · split at hr
        · cases hr
        · next hz =>
            split at hr
            · cases hr
            · cases hr
              exact hwf.bulkRead hz

theorem State.MemWf.strandCheck {s : State} {g : Agent} {swap : Bool} {v : Nat} (hwf : s.MemWf) {v' : Nat} {t' : State}
    (hr : s.strandCheck g swap v = .ok (v', t')) :
    t'.MemWf := by
  unfold State.strandCheck at hr
  dsimp only at hr
  split at hr
  · cases hr
  · split at hr
    · cases hr
    · split at hr
      · cases hr
      · split at hr
        · cases hr
        · split at hr
          · cases hr
          · split at hr
            · cases hr
            · split at hr
              · cases hr
              · next hs' =>
                  split at hr
                  · cases hr
                  · cases hr
                    exact hwf.paramOf hs'

theorem State.MemWf.bankCopy {s : State} (hwf : s.MemWf) {code pkg off n v : Nat} : (s.bankCopy code pkg off n v).MemWf := by
  have hput (ps : List Piece) : ∀ a : State × Nat, a.1.MemWf → (ps.foldl (fun (a : State × Nat) p => match p with
      | .bank b o m => (((a.1.repairLog b o m (a.2 % 256 ^ m)).bankRaw b o m (a.2 % 256 ^ m)), a.2 / 256 ^ m)
      | _ => a) a).1.MemWf := by
    induction ps with
    | nil => exact fun a ha => ha
    | cons p ps ih =>
      intro a ha
      refine ih _ ?_
      cases p with
      | bank b o m => exact ha.repairLog.bankRaw
      | dev | peer | host => exact ha
  exact (hput _ _ (hwf.each (fun _ _ ht => ht.logLine))).each (fun _ _ ht => ht.setTag)

theorem State.MemWf.copyPieces {g : Agent} {code : Nat} {ps : List Piece} :
    ∀ {s : State} {v : Nat}, s.MemWf → (s.copyPieces g code ps v).MemWf := by
  induction ps with
  | nil => exact fun hwf => hwf
  | cons p r ih =>
    intro s v hwf
    refine ih ?_
    split
    · split
      · exact hwf
      · exact hwf.bankCopy
    · exact hwf.pieceWrite

theorem State.MemWf.copyStrand {s : State} {g : Agent} {v par : Nat} (hwf : s.MemWf) : (s.copyStrand g v par).2.2.MemWf := by
  unfold State.copyStrand
  dsimp only
  split
  · exact hwf
  · split
    · exact hwf
    · split
      · exact hwf
      · split
        · split
          · split <;> exact hwf
          · exact hwf
        · exact (((((hwf.touchPtr.touchPtr.foldl (fun _ _ hu => hu.touchPtr)).setDirty).chargePieces).chargePieces).copyPieces).each (fun _ _ ht =>
            ht.setDirty.chargePieces.copyPieces)

theorem State.MemWf.finishStores {s : State} {g : Agent} {p v : Nat} {e : Ending} (hwf : s.MemWf) : (s.finishStores g p v e).2.MemWf := by
  unfold State.finishStores
  split
  · exact hwf
  · next hr =>
      split
      · exact hwf.bulkWrite hr
      · next hs =>
          split
          · exact (hwf.bulkWrite hr).bulkWrite hs
          · next hw => exact ((hwf.bulkWrite hr).bulkWrite hs).bulkWrite hw

theorem State.MemWf.dropChain {s : State} {h : Chain} (hwf : s.MemWf) : (s.dropChain h).MemWf := hwf.upd

theorem State.MemWf.setChain {s : State} {h : Chain} (hwf : s.MemWf) : (s.setChain h).MemWf := hwf.upd

theorem State.MemWf.blockOf {s : State} {g : Agent} {v : Nat} (hwf : s.MemWf) : (s.blockOf g v).2.MemWf := by
  unfold State.blockOf
  split
  · exact hwf
  · split
    · next hs => exact hwf.bulkRead hs
    · exact hwf

theorem State.MemWf.goNext {s : State} {h : Chain} (hwf : s.MemWf) : (s.goNext h).MemWf := by
  unfold State.goNext
  split
  · next hr => exact memWf_ite ((hwf.bulkRead hr).dropChain) ((hwf.bulkRead hr).setChain)
  · exact hwf.dropChain

theorem State.MemWf.nameWrites {s : State} {c : Nat} {path : Path} {id : Nat} (hwf : s.MemWf) : (s.nameWrites c path id).MemWf := hwf.upd

theorem State.MemWf.observe {s : State} {c x id : Nat} (hwf : s.MemWf) : (s.observe c x id).MemWf := hwf.upd

theorem State.MemWf.finishStrand {s : State} {h : Chain} {v : Nat} {block : Option Nat} {e : Ending} (hwf : s.MemWf) :
    (s.finishStrand h v block e).MemWf := by
  unfold State.finishStrand
  refine memWf_ite (State.MemWf.dropChain ?_) (memWf_ite ((State.MemWf.setChain ?_).upd) (((State.MemWf.setChain ?_).upd).goNext))
  · split
    · exact hwf.upd.finishStores.nameWrites.fresh.post.fresh.post
    · exact hwf.upd.finishStores.nameWrites.fresh.post
  · split
    · exact hwf.upd.finishStores.nameWrites.fresh.post.fresh.post
    · exact hwf.upd.finishStores.nameWrites.fresh.post
  · split
    · exact hwf.upd.finishStores.nameWrites.fresh.post.fresh.post
    · exact hwf.upd.finishStores.nameWrites.fresh.post

theorem State.MemWf.unreadable {s : State} {h : Chain} {cause : Nat} (hwf : s.MemWf) : (s.unreadable h cause).MemWf := hwf.fresh.post.dropChain

theorem State.MemWf.giveStrand {s : State} {n : Nat} {h : Chain} {v : Nat} (hwf : s.MemWf) : (s.giveStrand n h v).MemWf := hwf.fresh.upd

theorem State.MemWf.execChannelArbitration {ch : Nat} {s : State} (hwf : s.MemWf) : Out.MemWf (execChannelArbitration ch s) := by
  unfold Machine.execChannelArbitration
  split
  · exact hwf.event hwf.giveStrand
  · exact Out.MemWf.next hwf
  · exact hwf.event hwf.upd

theorem State.MemWf.chargeStrand {s : State} {h : Chain} {units : Nat} (hwf : s.MemWf) : (s.chargeStrand h units).MemWf := by
  unfold State.chargeStrand
  split
  · exact hwf.charge
  · exact hwf

theorem State.MemWf.runStrand {s : State} {h : Chain} {v : Nat} (hwf : s.MemWf) : (s.runStrand h v).MemWf := by
  unfold State.runStrand
  refine memWf_ite hwf.recordSet.chargeStrand.blockOf.finishStrand ?_
  split
  · exact hwf.recordSet.chargeStrand.blockOf.finishStrand
  · next hr => exact memWf_ite (((hwf.recordSet.chargeStrand.strandCheck hr).copyStrand).setChain) (((hwf.recordSet.chargeStrand.strandCheck
      hr).copyStrand).finishStrand)

theorem State.MemWf.endAwait {s : State} {h : Chain} (hwf : s.MemWf) {t' : State} (hr : s.endAwait h = some t') : t'.MemWf := by
  unfold State.endAwait at hr
  dsimp only at hr
  split at hr
  · cases hr
  · cases hr
    exact hwf.upd.finishStrand

theorem State.MemWf.leaveRecord {s : State} {part : Nat} {page : Option Nat} {done : Bool} (hwf : s.MemWf) :
    (s.leaveRecord part page done).MemWf := by
  unfold State.leaveRecord
  split
  · exact hwf
  · exact hwf.setPart

theorem State.MemWf.findStrand {s : State} (hwf : s.MemWf) {h : Chain} : (s.findStrand h).MemWf := by
  unfold State.findStrand
  split
  · exact hwf.dropChain
  · split
    · exact hwf.unreadable
    · next hr =>
      have ht := hwf.readStrand hr
      split
      · exact ht.dropChain
      · split
        · exact ((State.MemWf.blockOf (memWf_ite ht.leaveRecord ht)).recordSet).finishStrand
        · split <;> exact ht

theorem State.MemWf.resumeChain {s : State} {ch : Nat} (hwf : s.MemWf) : (s.resumeChain ch).MemWf := by
  unfold State.resumeChain
  split
  · exact hwf.goNext
  · exact hwf

theorem State.MemWf.movesOf {s : State} (hwf : s.MemWf) {ch : Nat} {t : State} (ht : t ∈ s.movesOf ch) : t.MemWf := by
  obtain ⟨p, -, hp⟩ := List.mem_filterMap.mp ht
  obtain ⟨u, hu, rfl⟩ := Option.map_eq_some_iff.mp hp
  have huw := hwf.movePost hu
  exact memWf_ite huw huw.resumeChain

theorem State.MemWf.withStrand {s : State} {h : Chain} {k : State → Out} (hwf : s.MemWf) (hk : ∀ t, t.MemWf → Out.MemWf (k t)) :
    Out.MemWf (s.withStrand h k) := outWf_ite (Out.MemWf.next hwf) (outWf_ite (hk _ hwf.endWalks) (Out.MemWf.next hwf.walkPages))

theorem State.MemWf.unchoose {s : State} {ch : Nat} (hwf : s.MemWf) : (s.unchoose ch).MemWf := hwf.upd

theorem State.MemWf.execStrandRun {s : State} (hwf : s.MemWf) {ch : Nat} : Out.MemWf (execStrandRun ch s) := by
  unfold Machine.execStrandRun
  split
  · next hr => exact Out.MemWf.next (hwf.movesOf (hr ▸ List.mem_cons_self))
  · split
    · exact Out.MemWf.next hwf
    · refine outWf_ite (Out.MemWf.next hwf) (outWf_ite (Out.MemWf.next (memWf_getD hwf.endAwait hwf))
        (outWf_ite (Out.MemWf.next hwf.unchoose) (hwf.withStrand (fun _ ht => ?_))))
      split
      · next hr => exact Out.MemWf.next (memWf_gone ht.findStrand hr)
      · exact Out.MemWf.next ht
      · next hr => exact Out.MemWf.next (memWf_plain ht.findStrand hr).runStrand

theorem State.MemWf.startChain {s : State} {c x chan q ident : Nat} {head : Nat} (hwf : s.MemWf) : (s.startChain c x chan q ident head).MemWf :=
  hwf.fresh.noRoll.upd

theorem State.MemWf.arrivals {g : Agent} {n : Nat} : ∀ {s : State} {seen : List Nat} {p : Nat}, s.MemWf → (s.arrivals g seen n p).2.MemWf := by
  induction n with
  | zero => exact fun hwf => hwf
  | succ n ih =>
    intro s seen p hwf
    unfold State.arrivals
    split
    · exact hwf
    · split
      · exact hwf
      · next hr =>
        have ht := hwf.readStrand hr
        split
        · exact ht
        · refine ih ?_
          split
          · split
            · next hs => exact ht.bulkRead hs
            · exact ht
          · exact ht

theorem State.MemWf.sendCancel {s : State} {c : Nat} {w : Nat} (hwf : s.MemWf) : (s.sendCancel c w).MemWf := hwf.noRoll.upd

theorem State.MemWf.beginCmd {s : State} {c x : Nat} {i : Instr} {sv : Word} (hwf : s.MemWf) {t' : State} (hr : s.beginCmd c x i sv = some t') :
    t'.MemWf := by
  unfold State.beginCmd at hr
  dsimp only at hr
  split at hr
  · split at hr
    · cases hr
      exact hwf.startChain
    · cases hr
  · split at hr
    · cases hr
    · split at hr
      · cases hr
      · cases hr
        exact hwf.arrivals.setPart.startChain
  · cases hr
    exact hwf.fresh.noRoll.upd
  · cases hr
    exact hwf.fresh.noRoll.upd
  · cases hr
    exact hwf.sendCancel
  · cases hr
    exact hwf.sendCancel
  · cases hr
    exact hwf.sendCancel
  · cases hr
    exact hwf.sendCancel
  · cases hr
    exact hwf

theorem State.MemWf.buffered {s : State} {i : Instr} {sv : Word} (hwf : s.MemWf) {t' : State} (hr : s.buffered i sv = some t') : t'.MemWf := by
  unfold State.buffered at hr
  dsimp only at hr
  split at hr
  · cases hr
  · cases hr
    exact hwf.setMycore

theorem State.MemWf.engineCmd {s : State} {i : Instr} {sv : Word} (hwf : s.MemWf) : (s.engineCmd i sv).MemWf := by
  unfold State.engineCmd
  refine resWf_ite ?_ ?_
  · split
    · next hr => exact hwf.buffered hr
    · exact trivial
  · split
    · next hr => exact hwf.beginCmd hr
    · exact trivial

theorem State.MemWf.startOp {chan : Nat} {i : Instr} {x : OpQGo} {s : State} (hwf : s.MemWf) : (startOp chan i x s).MemWf := by
  unfold Machine.startOp
  split
  · exact hwf.raiseAt
  · exact hwf.raiseAt
  · exact hwf.raise
  · exact hwf.engineCmd

theorem State.MemWf.execCpgo {h : Hdr} {x : OpQGo} {s : State} (hwf : s.MemWf) : Out.MemWf (execCpgo h x s) := hwf.issue hwf.startOp

theorem State.MemWf.execSwgo {h : Hdr} {x : OpQGo} {s : State} (hwf : s.MemWf) : Out.MemWf (execSwgo h x s) := hwf.issue hwf.startOp

theorem State.MemWf.execGath {h : Hdr} {x : OpQGo} {s : State} (hwf : s.MemWf) : Out.MemWf (execGath h x s) := hwf.issue hwf.startOp

theorem State.MemWf.execColl {h : Hdr} {x : OpQGo} {s : State} (hwf : s.MemWf) : Out.MemWf (execColl h x s) := hwf.issue hwf.startOp

theorem State.MemWf.execCpwait {h : Hdr} {id : BitVec 16} {s : State} (hwf : s.MemWf) : Out.MemWf (execCpwait h id s) :=
  hwf.issue (resWf_ite hwf.setMycore.observe trivial)

theorem State.MemWf.gatherRows {g : Agent} {v ixs n : Nat} : ∀ {s : State} {i : Nat}, s.MemWf → (s.gatherRows g v ixs n i).2.MemWf := by
  induction n with
  | zero => exact fun hwf => hwf
  | succ n ih =>
    intro s i hwf
    unfold State.gatherRows
    dsimp only
    generalize hrow : (if (fieldB v 36 4 != 0 && decide (fieldB v 36 4 ≤ fieldB ixs (4 * i) 4)) = true then Except.ok (0, s)
      else s.bulkRead g (ptrAt (fieldB v 8 8) (fieldB ixs (4 * i) 4 * fieldB v 32 4)) (fieldB v 28 4)) = row
    cases row with
    | error e => exact hwf
    | ok r =>
      have ht : r.2.MemWf := by
        split at hrow
        · cases hrow
          exact hwf
        · exact hwf.bulkRead hrow
      dsimp only
      split
      · exact ht
      · next hw => exact ih (ht.bulkWrite hw)

theorem State.MemWf.runGather {s : State} {w : Work} (hwf : s.MemWf) : (s.runGather w).2.MemWf := by
  unfold State.runGather
  dsimp only
  split
  · exact hwf
  · next hr =>
      split
      · exact hwf.bulkRead hr
      · split
        · exact hwf.bulkRead hr
        · next hw => exact ((hwf.bulkRead hr).bulkRead hw).gatherRows

theorem State.MemWf.endWork {s : State} {w : Work} {path : Path} {st : Nat} (hwf : s.MemWf) : (s.endWork w path st).MemWf :=
  hwf.upd.nameWrites.fresh.post

theorem State.MemWf.execGatherFinish {idx : Nat} {s : State} (hwf : s.MemWf) : Out.MemWf (execGatherFinish idx s) := by
  unfold Machine.execGatherFinish
  split
  · exact Out.MemWf.next hwf
  · exact outWf_ite (Out.MemWf.next hwf) (outWf_ite (Out.MemWf.next hwf.walkPages) (Out.MemWf.next hwf.endWalks.upd.runGather.endWork))

theorem State.MemWf.dropColls {s : State} {ws : List Work} (hwf : s.MemWf) : (s.dropColls ws).MemWf := hwf.upd

theorem State.MemWf.endColl {s : State} {ws : List Work} {st : Nat} (hwf : s.MemWf) : (s.endColl ws st).MemWf :=
  hwf.dropColls.each (fun _ _ ht => ht.endWork)

theorem State.MemWf.readParts {ws : List (Work × Nat × Nat)} : ∀ {s : State}, s.MemWf → (s.readParts ws).2.MemWf := by
  induction ws with
  | nil => exact fun hwf => hwf
  | cons e r ih =>
    intro s hwf
    unfold State.readParts
    split
    · exact hwf
    · next hr => exact ih (hwf.bulkRead hr)

theorem State.MemWf.runColl {s : State} {ws : List Work} (hwf : s.MemWf) : (s.runColl ws).MemWf := by
  unfold State.runColl
  split
  · next hr => exact (memWf_snd hwf.readParts hr).endColl
  · next hr =>
      refine memWf_ite ((memWf_snd hwf.readParts hr).endColl) ?_
      split
      · next hs => exact (memWf_snd ((memWf_snd hwf.readParts hr).readParts) hs).endColl
      · next hs =>
          refine ((memWf_snd ((memWf_snd hwf.readParts hr).readParts) hs).dropColls).each (fun _ _ hw => ?_)
          split
          · exact hw.endWork
          · next hv => exact (hw.bulkWrite hv).endWork

theorem State.MemWf.execCollectiveFinish {queue seq id : Nat} {s : State} (hwf : s.MemWf) : Out.MemWf (execCollectiveFinish queue seq id s) := by
  unfold Machine.execCollectiveFinish
  split
  · exact Out.MemWf.next hwf.endColl
  · split
    · exact Out.MemWf.next hwf
    · split
      · exact Out.MemWf.next hwf
      · exact outWf_ite (Out.MemWf.next hwf) (outWf_ite (Out.MemWf.next ((hwf.each (fun _ _ ht => ht.endWalks)).runColl)) (Out.MemWf.next (hwf.each
          (fun _ _ ht => ht.walkPages))))

theorem State.MemWf.execQpush {h : Hdr} {x : OpQPush} {s : State} (hwf : s.MemWf) : Out.MemWf (execQpush h x s) :=
  hwf.issue (resWf_ite hwf.raise (resWf_ite hwf.raise hwf.setMe))

theorem State.MemWf.execQpop {h : Hdr} {x : OpQPop} {s : State} (hwf : s.MemWf) : Out.MemWf (execQpop h x s) := by
  unfold Machine.execQpop
  refine hwf.issue ?_
  refine resWf_ite hwf.raise ?_
  split
  · exact trivial
  · exact memWf_ite hwf.setMe.observe hwf.setMe

theorem State.MemWf.execUserInterrupt {core : Nat} {ctx : Nat} {s : State} (hwf : s.MemWf) : Out.MemWf (execUserInterrupt core ctx s) := by
  unfold Machine.execUserInterrupt
  dsimp only
  split
  · exact Out.MemWf.next hwf
  · exact hwf.event hwf.setCtx.observe

theorem State.MemWf.execUiret {h : Hdr} {s : State} (hwf : s.MemWf) : Out.MemWf (execUiret h s) := hwf.issue (hwf.firm (hwf.need hwf.setMe))

/-! ### Banks (R162 to R172) -/

theorem State.MemWf.hitchTo {s : State} {pkg c slot : Nat} (hwf : s.MemWf) : (s.hitchTo pkg c slot).MemWf := hwf.freeBank.setHitch.setCore

theorem State.MemWf.execBattach {h : Hdr} {x : OpSlotC} {s : State} (hwf : s.MemWf) : Out.MemWf (execBattach h x s) :=
  hwf.issue (hwf.firm (resWf_ite hwf.raise (resWf_ite hwf.raise hwf.noRoll.hitchTo)))

theorem State.MemWf.execBhand {h : Hdr} {x : OpSlotC} {s : State} (hwf : s.MemWf) : Out.MemWf (execBhand h x s) := by
  unfold Machine.execBhand
  refine hwf.issue ?_
  refine hwf.firm ?_
  split
  · exact hwf.raise
  · exact resWf_ite hwf.raise (resWf_ite hwf.raise (resWf_ite hwf.raise hwf.noRoll.emptySlot.setHitch.outbound))

theorem State.MemWf.accept {s : State} {c slot pkg : Nat} (hwf : s.MemWf) : (s.accept c slot pkg).MemWf := hwf.hitchTo.reoutbound

theorem State.MemWf.execBwait {h : Hdr} {slot : BitVec 5} {s : State} (hwf : s.MemWf) : Out.MemWf (execBwait h slot s) := by
  unfold Machine.execBwait
  refine hwf.issue ?_
  refine resWf_ite hwf (hwf.firm ?_)
  split
  · exact hwf.accept
  · exact trivial

theorem State.MemWf.execBstat {h : Hdr} {x : OpASlot} {s : State} (hwf : s.MemWf) : Out.MemWf (execBstat h x s) := hwf.issue hwf.setMe

theorem State.MemWf.execBswz {h : Hdr} {x : OpSCode} {s : State} (hwf : s.MemWf) : Out.MemWf (execBswz h x s) := by
  unfold Machine.execBswz
  refine hwf.issue ?_
  refine hwf.firm ?_
  split
  · refine resWf_ite hwf.raiseAt ?_
    split
    · exact hwf.raiseAt
    · exact resWf_ite trivial hwf.logLine.setTag
  · exact hwf.raiseAt

theorem State.MemWf.revoke {s : State} {pkg : Nat} (hwf : s.MemWf) : (s.revoke pkg).MemWf :=
  ((memWf_ite ((memWf_ite hwf.emptySlot hwf).reoutbound) (memWf_ite hwf.emptySlot hwf)).freeBank).setHitch

theorem State.MemWf.execBrevoke {h : Hdr} {b : SReg} {s : State} (hwf : s.MemWf) : Out.MemWf (execBrevoke h b s) :=
  hwf.issue (hwf.firm (resWf_ite hwf.raise (resWf_ite hwf.raise (resWf_ite hwf.raise hwf.noRoll.revoke))))

theorem State.MemWf.execHandoverPoint {pkg : Nat} {s : State} (hwf : s.MemWf) : Out.MemWf (execHandoverPoint pkg s) :=
  hwf.event (memWf_ite hwf.setHitch (memWf_ite hwf.reoutbound.setHitch.giveBack hwf.reoutbound.setHitch))

theorem State.MemWf.takeBack {s : State} {pkg : Nat} (hwf : s.MemWf) : (s.takeBack pkg).MemWf := by
  unfold State.takeBack
  dsimp only
  split
  · exact memWf_ite hwf.setLaunch.freeBank.setHitch.reslot hwf.setLaunch.freeBank.setHitch
  · exact hwf.hitchTo

theorem State.MemWf.execBankReturn {pkg : Nat} {s : State} (hwf : s.MemWf) : Out.MemWf (execBankReturn pkg s) :=
  hwf.event (memWf_ite hwf.reoutbound.setHitch (memWf_ite hwf.reoutbound.takeBack hwf.reoutbound))

theorem State.MemWf.execBankWipeDone {pkg : Nat} {s : State} (hwf : s.MemWf) : Out.MemWf (execBankWipeDone pkg s) := hwf.event hwf.bankWipe.freeBank

end Sys2Proof.Machine
end

section
/-!
O8: control flow, distributions, fences and contexts.
-/

namespace Sys2Proof.Machine

open Sys2Proof

/-! ### Control flow (R69 to R74) -/

theorem State.MemWf.branch {s : State} (hwf : s.MemWf) {taken : Bool} {pc : Nat} : (s.branch taken pc).MemWf := by
  unfold State.branch
  cases Config.predict s.nonce with
  | none => exact resWf_ite hwf hwf
  | some ok => exact resWf_ite hwf.setMe hwf.setMe

theorem State.MemWf.execNop {h : Hdr} {s : State} (hwf : s.MemWf) : Out.MemWf (execNop h s) := hwf.issue hwf

theorem State.MemWf.execBr {h : Hdr} {off : BitVec 24} {s : State} (hwf : s.MemWf) : Out.MemWf (execBr h off s) := hwf.issue hwf

theorem State.MemWf.execBcZ {h : Hdr} {x : OpROff} {s : State} (hwf : s.MemWf) : Out.MemWf (execBcZ h x s) := hwf.issue hwf.branch

theorem State.MemWf.execBcNz {h : Hdr} {x : OpROff} {s : State} (hwf : s.MemWf) : Out.MemWf (execBcNz h x s) := hwf.issue hwf.branch

theorem State.MemWf.execCall {h : Hdr} {x : OpROff} {s : State} (hwf : s.MemWf) : Out.MemWf (execCall h x s) := hwf.issue hwf.setMe

theorem State.MemWf.execLoop {h : Hdr} {x : OpROff} {s : State} (hwf : s.MemWf) : Out.MemWf (execLoop h x s) := hwf.issue hwf.setMe.branch

theorem State.MemWf.indirect {s : State} {b : SReg} (hwf : s.MemWf) : (s.indirect b).MemWf := hwf.need (hwf.need hwf.branch)

theorem State.MemWf.execRet {h : Hdr} {b : SReg} {s : State} (hwf : s.MemWf) : Out.MemWf (execRet h b s) := hwf.issue hwf.indirect

theorem State.MemWf.execJmp {h : Hdr} {b : SReg} {s : State} (hwf : s.MemWf) : Out.MemWf (execJmp h b s) := hwf.issue hwf.indirect

theorem State.MemWf.unitEnds {s : State} {c : Nat} (hwf : s.MemWf) : (s.unitEnds c).MemWf := by
  unfold State.unitEnds
  refine State.MemWf.boundary ?_
  split
  · split
    · exact hwf.reosOf.setCtx.endOut.setLaunch
    · exact hwf.reosOf.setCtx
  · exact hwf.reosOf.setCtx

theorem State.MemWf.execUend {h : Hdr} {s : State} (hwf : s.MemWf) : Out.MemWf (execUend h s) :=
  hwf.issue (hwf.firm (resWf_ite trivial (memWf_ite hwf.endTicket.unitEnds hwf.endTicket.setCtx)))

theorem State.MemWf.execTrapi {h : Hdr} {code : BitVec 24} {s : State} (hwf : s.MemWf) : Out.MemWf (execTrapi h code s) := hwf.issue hwf

/-! ### Distributions (R112 to R124) -/

theorem State.MemWf.freshTag {s : State} (hwf : s.MemWf) : (s.freshTag).2.MemWf := hwf.setMe

theorem State.MemWf.wd {s : State} {d : DReg} {x : Dist} (hwf : s.MemWf) : (s.wd d x).MemWf := hwf.setMycore

theorem State.MemWf.distOp {s : State} (hwf : s.MemWf) {op : Nat → Nat → Nat} {x : OpD3} : (distOp op x s).MemWf := by
  unfold Machine.distOp
  dsimp only
  refine State.MemWf.wd ?_
  split
  · exact hwf
  · exact hwf.freshTag

theorem State.MemWf.execDadd {h : Hdr} {x : OpD3} {s : State} (hwf : s.MemWf) : Out.MemWf (execDadd h x s) := hwf.issue hwf.distOp

theorem State.MemWf.execDsub {h : Hdr} {x : OpD3} {s : State} (hwf : s.MemWf) : Out.MemWf (execDsub h x s) := hwf.issue hwf.distOp

theorem State.MemWf.execDmul {h : Hdr} {x : OpD3} {s : State} (hwf : s.MemWf) : Out.MemWf (execDmul h x s) := hwf.issue hwf.distOp

theorem State.MemWf.execDmax {h : Hdr} {x : OpD3} {s : State} (hwf : s.MemWf) : Out.MemWf (execDmax h x s) := hwf.issue hwf.distOp

theorem State.MemWf.execDmin {h : Hdr} {x : OpD3} {s : State} (hwf : s.MemWf) : Out.MemWf (execDmin h x s) := hwf.issue hwf.distOp

theorem State.MemWf.execDpt {h : Hdr} {x : OpDpt} {s : State} (hwf : s.MemWf) : Out.MemWf (execDpt h x s) := hwf.issue hwf.wd

theorem State.MemWf.execDmix {h : Hdr} {x : OpDmix} {s : State} (hwf : s.MemWf) : Out.MemWf (execDmix h x s) := hwf.issue hwf.freshTag.wd

theorem State.MemWf.execDtag {h : Hdr} {x : OpDtag} {s : State} (hwf : s.MemWf) : Out.MemWf (execDtag h x s) := hwf.issue hwf.wd

theorem State.MemWf.execDmom {h : Hdr} {x : OpDmom} {s : State} (hwf : s.MemWf) : Out.MemWf (execDmom h x s) := hwf.issue hwf.setMe

theorem State.MemWf.execDqnt {h : Hdr} {x : OpDqnt} {s : State} (hwf : s.MemWf) : Out.MemWf (execDqnt h x s) := hwf.issue hwf.setMe

theorem State.MemWf.imageAt {s : State} (hwf : s.MemWf) {x : OpDMem} {acc : Nat} {k : Nat → Res} (hk : ∀ p, (k p).MemWf) :
    (s.imageAt x acc k).MemWf := by
  unfold State.imageAt
  generalize 512 = n
  split
  · exact hwf.raiseStray
  · refine resWf_ite hwf.raiseAt ?_
    split
    · exact hwf.raiseAt
    · refine resWf_ite hwf.raiseAt ?_
      split
      · split
        · exact hwf.raiseAt
        · exact hwf.withPages (fun _ _ => hwf.partsOk (hk _))
      · exact resWf_ite (hk _) hwf.raiseAt
      · split
        · exact hwf.raiseAt
        · exact hk _
      · exact hwf.raiseAt

theorem State.MemWf.execDld {h : Hdr} {x : OpDMem} {s : State} (hwf : s.MemWf) : Out.MemWf (execDld h x s) := by
  unfold Machine.execDld
  refine hwf.issue ?_
  refine hwf.imageAt (fun p => ?_)
  generalize imageReq p .load 512 0 _ = q
  exact hwf.memOp

theorem State.MemWf.execDstr {h : Hdr} {x : OpDMem} {s : State} (hwf : s.MemWf) : Out.MemWf (execDstr h x s) := by
  unfold Machine.execDstr
  refine hwf.issue (hwf.firm ?_)
  refine hwf.imageAt (fun p => ?_)
  dsimp only
  generalize imageReq p .store 512 _ none = q
  refine resWf_ite hwf.memOp ?_
  split
  · trivial
  · generalize List.range 8 = l
    generalize 256 = n
    generalize 64 = m
    refine resWf_foldl (fun r _ hr => ?_) (show Res.MemWf (.done s) from hwf)
    cases r with
    | done t =>
      dsimp only
      generalize imageReq _ .store _ _ none = q
      exact State.MemWf.memOp hr
    | goto | trap | hold | more | wait | stop => exact hr

/-! ### Fences (R147 to R155) -/

theorem State.MemWf.fenceOp {s : State} (hwf : s.MemWf) : (fenceOp s).MemWf := resWf_ite hwf trivial

theorem State.MemWf.execFenceCtx {h : Hdr} {s : State} (hwf : s.MemWf) : Out.MemWf (execFenceCtx h s) := hwf.issue hwf.fenceOp

theorem State.MemWf.execFenceCore {h : Hdr} {s : State} (hwf : s.MemWf) : Out.MemWf (execFenceCore h s) := by
  refine hwf.issue ?_
  have hf := hwf.fenceOp
  dsimp only
  cases hr : Machine.fenceOp s with
  | done t => rw [hr] at hf; exact State.MemWf.setMe hf
  | goto | trap | hold | more | wait | stop => rw [hr] at hf; exact hf

theorem State.MemWf.execFenceClu {h : Hdr} {s : State} (hwf : s.MemWf) : Out.MemWf (execFenceClu h s) := hwf.issue hwf.fenceOp

theorem State.MemWf.execFenceDie {h : Hdr} {s : State} (hwf : s.MemWf) : Out.MemWf (execFenceDie h s) := hwf.issue hwf.fenceOp

theorem State.MemWf.execFenceSys {h : Hdr} {s : State} (hwf : s.MemWf) : Out.MemWf (execFenceSys h s) := hwf.issue hwf.fenceOp

theorem State.MemWf.execFencePkg {h : Hdr} {s : State} (hwf : s.MemWf) : Out.MemWf (execFencePkg h s) := hwf.issue (hwf.firm (hwf.need hwf.setMe))

theorem State.MemWf.execFencep {h : Hdr} {x : OpFencep} {s : State} (hwf : s.MemWf) : Out.MemWf (execFencep h x s) :=
  hwf.issue (resWf_ite hwf trivial)

theorem State.MemWf.execFiss {h : Hdr} {a : SReg} {s : State} (hwf : s.MemWf) : Out.MemWf (execFiss h a s) :=
  hwf.issue (hwf.firm (resWf_ite trivial hwf.setMe))

theorem State.MemWf.execFwait {h : Hdr} {b : SReg} {s : State} (hwf : s.MemWf) : Out.MemWf (execFwait h b s) :=
  hwf.issue (resWf_ite hwf.raise (resWf_ite trivial hwf))

theorem State.MemWf.execDrainMarkerReply {core : Nat} {ctx : Nat} {die : Nat} {s : State} (hwf : s.MemWf) :
    Out.MemWf (execDrainMarkerReply core ctx die s) := by
  unfold Machine.execDrainMarkerReply
  split
  · exact outWf_ite (Out.MemWf.next hwf) (Out.MemWf.next (memWf_ite hwf.finishWait hwf.setCtx))
  · exact Out.MemWf.next hwf

/-! ### Contexts (R244 to R248) -/

theorem State.MemWf.execHstart {h : Hdr} {x : OpHStart} {s : State} (hwf : s.MemWf) : Out.MemWf (execHstart h x s) := by
  unfold Machine.execHstart
  refine hwf.issue ?_
  refine hwf.firm ?_
  split
  · exact trivial
  · exact hwf.fresh.setCtx.setMycore.setMe

theorem State.MemWf.execHend {h : Hdr} {s : State} (hwf : s.MemWf) : Out.MemWf (execHend h s) :=
  hwf.issue (hwf.firm (resWf_ite hwf.raise (resWf_ite trivial hwf.setMe)))

theorem State.MemWf.execHwait {h : Hdr} {b : SReg} {s : State} (hwf : s.MemWf) : Out.MemWf (execHwait h b s) :=
  hwf.issue (resWf_ite hwf.raise (resWf_ite trivial hwf))

theorem State.MemWf.execYield {h : Hdr} {s : State} (hwf : s.MemWf) : Out.MemWf (execYield h s) := hwf.issue hwf

theorem State.MemWf.execLaunch {h : Hdr} {x : OpRR} {s : State} (hwf : s.MemWf) : Out.MemWf (execLaunch h x s) := by
  refine hwf.issue ?_
  dsimp only
  split
  · refine resWf_ite hwf.raiseAt (hwf.withPages (fun _ _ => resWf_ite ?_ (resWf_ite trivial ?_)))
    · split
      · next hr => exact State.MemWf.setMe (hwf.buffered hr)
      · trivial
    · split
      · exact hwf.trip
      · next hr =>
        refine resWf_ite trivial (State.MemWf.setMe (State.MemWf.noRoll ((hwf.bulkRead hr).setQueue ?_)))
        exact hwf.staging _
  · exact hwf.raiseAt

theorem State.MemWf.execLwait {h : Hdr} {b : SReg} {s : State} (hwf : s.MemWf) : Out.MemWf (execLwait h b s) :=
  hwf.issue (resWf_ite hwf.raise (resWf_ite hwf.raise (resWf_ite (resWf_ite hwf trivial) (resWf_ite hwf.raise (resWf_ite hwf trivial)))))

theorem State.MemWf.cancelOp {level : Nat} {i : Instr} {b : SReg} {s : State} (hwf : s.MemWf) : (cancelOp level i b s).MemWf :=
  resWf_ite hwf.raise (resWf_ite hwf.raise (resWf_ite hwf.raise hwf.engineCmd))

theorem State.MemWf.execCancelLaunch {h : Hdr} {b : SReg} {s : State} (hwf : s.MemWf) : Out.MemWf (execCancelLaunch h b s) := hwf.issue hwf.cancelOp

theorem State.MemWf.execCancelGraph {h : Hdr} {b : SReg} {s : State} (hwf : s.MemWf) : Out.MemWf (execCancelGraph h b s) := hwf.issue hwf.cancelOp

theorem State.MemWf.execCancelSession {h : Hdr} {b : SReg} {s : State} (hwf : s.MemWf) : Out.MemWf (execCancelSession h b s) := hwf.issue hwf.cancelOp

theorem State.MemWf.execCancelJob {h : Hdr} {b : SReg} {s : State} (hwf : s.MemWf) : Out.MemWf (execCancelJob h b s) := hwf.issue hwf.cancelOp

theorem State.MemWf.execBar {h : Hdr} {s : State} (hwf : s.MemWf) : Out.MemWf (execBar h s) := by
  unfold Machine.execBar
  refine hwf.issue ?_
  refine hwf.firm (resWf_ite hwf.setMycore (resWf_ite hwf.setMe (resWf_ite trivial (State.MemWf.setMe ?_))))
  split
  · exact hwf.setMycore.setLaunch
  · exact hwf.setMycore

theorem State.MemWf.takeFrame {s : State} {c : Nat} (hwf : s.MemWf) : (s.takeFrame c).MemWf := hwf.setCore

theorem State.MemWf.emptyUndo {s : State} {l : Launch} (hwf : s.MemWf) : (s.emptyUndo l).MemWf := hwf.each (fun _ _ ht => ht.setCluster)

theorem State.MemWf.checkpoint {s : State} {l : Launch} (hwf : s.MemWf) : (s.checkpoint l).MemWf :=
  ((hwf.each (fun _ _ ht => ht.takeFrame)).emptyUndo).setLaunch

theorem State.MemWf.execBarrierComplete {queue seq : Nat} {s : State} (hwf : s.MemWf) : Out.MemWf (execBarrierComplete queue seq s) := by
  unfold Machine.execBarrierComplete
  split
  · exact Out.MemWf.next hwf
  · exact outWf_ite (Out.MemWf.next hwf) (Out.MemWf.next (((hwf.each (fun _ _ ht => memWf_ite ht.finishWait.setCore
      ht.setCore)).setLaunch).checkpoint))

theorem State.MemWf.execXsend {h : Hdr} {x : OpXsend} {s : State} (hwf : s.MemWf) : Out.MemWf (execXsend h x s) := by
  unfold Machine.execXsend
  refine hwf.issue ?_
  dsimp only
  split
  · exact hwf.raiseAt
  · refine resWf_ite hwf.raiseAt (resWf_ite hwf.raiseAt (hwf.firm (resWf_ite trivial ?_)))
    split
    · exact trivial
    · exact (((memWf_ite hwf hwf.noRoll).fresh).takeJournal).upd

theorem State.MemWf.execXrecv {h : Hdr} {x : OpXrecv} {s : State} (hwf : s.MemWf) : Out.MemWf (execXrecv h x s) := by
  unfold Machine.execXrecv
  refine hwf.issue ?_
  refine resWf_ite trivial ?_
  split
  · exact trivial
  · exact hwf.setMe

theorem State.MemWf.delivered {s : State} {m : XMsg} (hwf : s.MemWf) : (s.delivered m).MemWf := by
  unfold State.delivered
  dsimp only
  split
  · exact hwf.upd.setLaunch
  · exact hwf.upd

theorem State.MemWf.giveItem {s : State} {m : XMsg} (hwf : s.MemWf) : (s.giveItem m).MemWf := hwf.setCtx.freeJournal.delivered

theorem State.MemWf.moveItem {s : State} {m : XMsg} (hwf : s.MemWf) {t' : State} (hr : s.moveItem m = some t') : t'.MemWf := by
  unfold State.moveItem at hr
  dsimp only at hr
  split at hr
  · cases hr
    exact hwf.freeJournal.delivered
  · split at hr
    · split at hr
      · cases hr
      · split at hr
        · cases hr
          exact hwf.giveItem
        · split at hr
          · cases hr
            exact hwf.fresh.upd
          · cases hr
    · split at hr
      · cases hr
        exact hwf.giveItem
      · cases hr

theorem State.MemWf.execExchangeDelivery {id : Nat} {s : State} (hwf : s.MemWf) : Out.MemWf (execExchangeDelivery id s) := by
  unfold Machine.execExchangeDelivery
  split
  · exact Out.MemWf.next hwf
  · refine outWf_ite (Out.MemWf.next ((memWf_ite hwf.freeJournal.delivered hwf.delivered.pendTrap).upd)) ?_
    split
    · exact Out.MemWf.next (memWf_getD hwf.moveItem hwf)
    · refine outWf_ite (Out.MemWf.next (memWf_ite hwf.freeJournal.delivered hwf.delivered.pendTrap)) ?_
      split
      · exact Out.MemWf.next (memWf_ite hwf.freeJournal.delivered hwf.delivered.pendTrap)
      · exact Out.MemWf.next hwf.bankWrite.freeJournal.delivered

theorem State.MemWf.setRing {s : State} {r : Nat} {g : Ring} (hwf : s.MemWf) : (s.setRing r g).MemWf := hwf.setCluster

theorem State.MemWf.execRpush {h : Hdr} {b : SrcSV} {s : State} (hwf : s.MemWf) : Out.MemWf (execRpush h b s) := by
  unfold Machine.execRpush
  refine hwf.issue ?_
  split
  · exact hwf.raise
  · exact resWf_ite hwf.raise (hwf.firm (resWf_ite trivial hwf.setRing.noRoll))

theorem State.MemWf.execRpop {h : Hdr} {x : OpRPop} {s : State} (hwf : s.MemWf) : Out.MemWf (execRpop h x s) := by
  unfold Machine.execRpop
  refine hwf.issue ?_
  split
  · exact hwf.raise
  · refine resWf_ite hwf.raise (hwf.firm (resWf_ite hwf.noRoll.setMe ?_))
    split
    · exact hwf.setRing.noRoll.setMe.setMe
    · exact resWf_ite hwf.noRoll.setMe trivial

theorem State.MemWf.execReos {h : Hdr} {s : State} (hwf : s.MemWf) : Out.MemWf (execReos h s) := by
  unfold Machine.execReos
  refine hwf.issue ?_
  split
  · exact hwf.firm hwf.noRoll
  · exact resWf_ite hwf.raise (hwf.firm hwf.noRoll.reosOf)

theorem State.MemWf.execProg {h : Hdr} {b : SrcDS} {s : State} (hwf : s.MemWf) : Out.MemWf (execProg h b s) := by
  unfold Machine.execProg
  refine hwf.issue ?_
  refine hwf.firm ((hwf.setQueue ?_).noRoll)
  exact hwf.staging _

theorem State.MemWf.confirm {s : State} {c x : Nat} (hwf : s.MemWf) : (s.confirm c x).MemWf := hwf.setCore

theorem State.MemWf.leaveBuffer {s : State} (hwf : s.MemWf) {c : Nat} {h : Held} {t : State} (hr : s.leaveBuffer c h = some t) : t.MemWf := by
  unfold State.leaveBuffer at hr
  dsimp only at hr
  split at hr
  · cases hr
    exact hwf.setCtx.setCore
  · exact memWf_map hwf.beginCmd (fun _ hu => hu.setCore) hr

theorem State.MemWf.execBranchResolution {core : Nat} {ctx : Nat} {s : State} (hwf : s.MemWf) : Out.MemWf (execBranchResolution core ctx s) := by
  unfold Machine.execBranchResolution
  dsimp only
  split
  · exact Out.MemWf.next hwf.confirm.setCtx
  · split
    · exact Out.MemWf.next hwf
    · exact outWf_ite (Out.MemWf.next (memWf_getD hwf.leaveBuffer hwf)) (Out.MemWf.next hwf)

end Sys2Proof.Machine
end

section
/-!
O8: launches and the network.
-/

namespace Sys2Proof.Machine

open Sys2Proof

/-! ### Records and launches (R215 to R230) -/

theorem State.MemWf.hubRead {s : State} {q p n acc : Nat} (hwf : s.MemWf) {v' : Nat} {t' : State} (hr : s.hubRead q p n acc = .ok (v', t')) :
    t'.MemWf := by
  unfold State.hubRead at hr
  dsimp only at hr
  split at hr
  · cases hr
  · split at hr
    · cases hr
    · cases hr
      exact hwf.touchPtr.chargePieces

theorem State.MemWf.hubAdd {s : State} {q p v : Nat} (hwf : s.MemWf) : (s.hubAdd q p v).MemWf := by
  unfold State.hubAdd
  dsimp only
  split
  · exact hwf
  · exact hwf.touchPtr.setDirty.chargePieces.writePieces

theorem State.MemWf.arrivalSet {s : State} {q p : Nat} (hwf : s.MemWf) {v' : List Nat} {t' : State} (hr : s.arrivalSet q p = some (v', t')) :
    t'.MemWf := by
  unfold State.arrivalSet at hr
  split at hr
  · cases hr
    exact hwf
  · split at hr
    · cases hr
    · next hw =>
        split at hr
        · cases hr
        · split at hr
          · cases hr
          · next hz =>
              dsimp only at hr
              split at hr
              · cases hr
                exact (hwf.hubRead hw).hubRead hz
              · cases hr

theorem State.MemWf.closeRecord {s : State} {q : Nat} {r : PRec} {status : Nat} (hwf : s.MemWf) : (s.closeRecord q r status).MemWf := by
  unfold State.closeRecord
  refine (hwf.setQueue ?_).upd
  exact hwf.staging _

theorem State.MemWf.setRecord {s : State} {q : Nat} {r : PRec} (hwf : s.MemWf) : (s.setRecord q r).MemWf := by
  unfold State.setRecord
  refine hwf.setQueue ?_
  exact hwf.staging _

theorem State.MemWf.execRecordRead {queue : Nat} {s : State} (hwf : s.MemWf) : Out.MemWf (execRecordRead queue s) := by
  have hrefuse (r : PRec) : Out.MemWf (.next (s.closeRecord queue r 6)) := Out.MemWf.next hwf.closeRecord
  unfold Machine.execRecordRead
  split
  · exact Out.MemWf.next hwf
  · next r _ =>
    refine outWf_ite (Out.MemWf.next hwf) (outWf_ite (hrefuse _) ?_)
    split
    · exact hrefuse _
    · next hr =>
      refine outWf_ite (hrefuse _) ?_
      split
      · exact hrefuse _
      · next ps u hs =>
        have hu := (hwf.hubRead hr).arrivalSet hs
        dsimp only
        generalize hw : (if fieldB r.bytes 32 8 = 0 then Except.ok (0, u) else u.hubRead queue (fieldB r.bytes 32 8) 4 0) = w
        cases w with
        | error e => exact hrefuse _
        | ok d =>
          refine Out.MemWf.next (State.MemWf.setRecord ?_)
          split at hw
          · cases hw
            exact hu
          · exact hu.hubRead hw

theorem State.MemWf.execDependenceReread {queue : Nat} {s : State} (hwf : s.MemWf) : Out.MemWf (execDependenceReread queue s) := by
  unfold Machine.execDependenceReread
  split
  · exact Out.MemWf.next hwf
  · refine outWf_ite (Out.MemWf.next hwf) ?_
    split
    · exact Out.MemWf.next hwf.closeRecord
    · next hs => exact Out.MemWf.next ((hwf.hubRead hs).setRecord)

theorem State.MemWf.execDoorbell {vdev queue : Nat} {value : BitVec 32} {s : State} (hwf : s.MemWf) :
    Out.MemWf (execDoorbell vdev queue value s) := by
  unfold Machine.execDoorbell
  refine outWf_ite (Out.MemWf.next hwf) (outWf_ite (Out.MemWf.next (hwf.setQueue ?_)) (Out.MemWf.next (hwf.setQueue ?_)))
  · exact hwf.staging _
  · exact hwf.staging _

theorem State.MemWf.execQueueStatusClear {vdev queue : Nat} {value : BitVec 32} {s : State} (hwf : s.MemWf) :
    Out.MemWf (execQueueStatusClear vdev queue value s) := by
  unfold Machine.execQueueStatusClear
  refine hwf.event (hwf.setQueue ?_)
  exact hwf.staging _

theorem State.MemWf.settle {s : State} {p : Nat} (hwf : s.MemWf) : (s.settle p).MemWf := hwf.each (fun _ _ ht => memWf_ite ht.closeRecord ht)

theorem State.MemWf.stampHeads {s : State} (hwf : s.MemWf) : (s.stampHeads).MemWf := by
  unfold State.stampHeads
  refine hwf.each (fun _ _ ht => ?_)
  split
  · exact memWf_ite ht.setRecord (memWf_ite ht.setRecord ht)
  · exact ht

theorem State.MemWf.execLaunchArbitration {part : Nat} {s : State} (hwf : s.MemWf) : Out.MemWf (execLaunchArbitration part s) :=
  outWf_ite (Out.MemWf.next hwf) (Out.MemWf.next hwf.settle.upd)

theorem State.MemWf.clearSlots {s : State} {c : Nat} (hwf : s.MemWf) : (s.clearSlots c).MemWf :=
  (hwf.each (fun _ _ ht => memWf_ite ht.freeBank ht)).setCore

theorem State.MemWf.takeCore {s : State} {u : Nat × Nat} {c rank team : Nat} (hwf : s.MemWf) : (s.takeCore u c rank team).MemWf :=
  hwf.clearSlots.setCore

theorem State.MemWf.attachFresh {s : State} {c : Nat} {slots : List Nat} (hwf : s.MemWf) : (s.attachFresh c slots).MemWf := by
  unfold State.attachFresh
  refine hwf.each (fun _ _ ht => ?_)
  split
  · exact ht.hitchTo
  · exact ht

theorem State.MemWf.startUnit {s : State} {l : Launch} {c rank team : Nat} (hwf : s.MemWf) : (s.startUnit l c rank team).MemWf := by
  unfold State.startUnit
  dsimp only
  split
  · exact hwf.fresh.setCore
  · exact memWf_ite hwf.fresh.setCore.setRing hwf.fresh.setCore

theorem State.MemWf.beginLaunch {s : State} {l : Launch} (hwf : s.MemWf) : (s.beginLaunch l).MemWf :=
  ((hwf.each (fun _ _ ht => ht.startUnit)).setLaunch).checkpoint

/-- The argument lines of a record, copied or not. -/
theorem memWf_argCopy {u v : State} (hu : u.MemWf) {b c : Prop} [Decidable b] [Decidable c] {g : Agent} {p n w : Nat}
    (hr : (if b then none else if c then some u else (u.bulkWrite g p n w).toOption) = some v) : v.MemWf := by
  split at hr
  · cases hr
  · split at hr
    · cases hr
      exact hu
    · cases hw : u.bulkWrite g p n w with
      | error e => rw [hw] at hr; cases hr
      | ok t =>
        rw [hw] at hr
        cases hr
        exact hu.bulkWrite hw

theorem State.MemWf.execLaunchStart {queue : Nat} {s : State} (hwf : s.MemWf) : Out.MemWf (execLaunchStart queue s) := by
  have hu : State.MemWf { s with starting := none } := hwf.upd
  unfold Machine.execLaunchStart
  refine outWf_ite (Out.MemWf.next hwf) ?_
  dsimp only
  generalize ({ s with starting := none } : State) = u at hu
  split
  · exact Out.MemWf.next hu
  · split
    · exact Out.MemWf.next hu
    · refine outWf_ite (Out.MemWf.next hu) ?_
      split
      · exact Out.MemWf.next hu.closeRecord
      · next hcopy =>
        have hw := memWf_argCopy hu hcopy
        refine Out.MemWf.next (memWf_ite (State.MemWf.beginLaunch ?_) ?_) <;>
          exact ((hw.setQueue (by exact hw.staging _)).upd).each (fun _ _ ht => ht.takeCore.attachFresh)

theorem State.MemWf.startPreload {s : State} {l : Launch} {c : Nat} (hwf : s.MemWf) : (s.startPreload l c).MemWf := hwf.fresh.upd

theorem State.MemWf.preloaded {s : State} {l : Launch} (hwf : s.MemWf) : (s.preloaded l).MemWf := by
  unfold State.preloaded
  refine memWf_ite ?_ (memWf_ite hwf.setLaunch.beginLaunch hwf.setLaunch)
  split
  · exact hwf.setLaunch.startUnit.takeFrame
  · exact hwf.setLaunch

theorem State.MemWf.preloadNext {s : State} (hwf : s.MemWf) {l : Launch} {h : Chain} {e : Ending} : (s.preloadNext l h e).MemWf := by
  have hnext : (match s.bulkRead (s.chainAgent h) h.cur 8 with | .ok r => r | .error _ => (0, s)).2.MemWf := by
    split
    · next hr => exact hwf.bulkRead hr
    · exact hwf
  exact memWf_ite hwf.endLaunch (memWf_ite hnext.dropChain.preloaded hnext.setChain.upd)

theorem State.MemWf.preloadStrand {s : State} {l : Launch} {h : Chain} (hwf : s.MemWf) : (s.preloadStrand l h).MemWf := by
  unfold State.preloadStrand
  dsimp only
  split
  · exact hwf.endLaunch
  · next hr =>
      refine memWf_ite (((hwf.readStrand hr).dropChain).preloaded) ?_
      split
      · exact ((hwf.readStrand hr).chargeStrand).endLaunch
      · next hs => exact memWf_ite (((((hwf.readStrand hr).chargeStrand).strandCheck hs).copyStrand).setChain) (((((hwf.readStrand
          hr).chargeStrand).strandCheck hs).copyStrand).preloadNext)

theorem State.MemWf.preloadStep {s : State} (hwf : s.MemWf) {l : Launch} {t : State} (hr : s.preloadStep l = some t) : t.MemWf := by
  unfold State.preloadStep at hr
  dsimp only at hr
  split at hr
  · cases hr
  · split at hr
    · obtain ⟨c, -, rfl⟩ := Option.map_eq_some_iff.mp hr
      exact hwf.startPreload
    · split at hr
      · cases hr
      · split at hr
        · split at hr
          · cases hr
            exact hwf.unchoose
          · split at hr
            · cases hr
            · split at hr
              · cases hr
                exact hwf.endWalks.preloadStrand
              · cases hr
                exact hwf.walkPages
        · split at hr
          · cases hr
          · cases hr
            exact hwf.upd.preloadNext

theorem State.MemWf.execPreloadRun {queue seq : Nat} {s : State} (hwf : s.MemWf) : Out.MemWf (execPreloadRun queue seq s) := by
  unfold Machine.execPreloadRun
  split
  · exact Out.MemWf.next hwf
  · exact Out.MemWf.next (memWf_getD hwf.preloadStep hwf)

theorem State.MemWf.writeCompletion {s : State} {l : Launch} {status : Nat} (hwf : s.MemWf) : (s.writeCompletion l status).MemWf := by
  unfold State.writeCompletion
  refine memWf_ite hwf (memWf_ite (memWf_ite hwf.upd.logErr hwf.upd) ?_)
  split
  · next hr => exact hwf.bulkWrite hr
  · exact hwf.logErr

theorem State.MemWf.decrement {s : State} {l : Launch} (hwf : s.MemWf) : (s.decrement l).MemWf := by
  unfold State.decrement
  refine memWf_ite hwf ?_
  split
  · exact hwf
  · next hr =>
      refine memWf_ite (hwf.hubRead hr) ?_
      split
      · exact hwf.hubRead hr
      · next hs => exact ((hwf.hubRead hr).hubRead hs).each (fun _ _ hw => memWf_ite hw.hubAdd hw)

theorem State.MemWf.countDone {s : State} {l : Launch} (hwf : s.MemWf) : (s.countDone l).MemWf := by
  unfold State.countDone
  refine (hwf.setQueue ?_).upd
  exact hwf.staging _

theorem State.MemWf.freeUnits {s : State} {l : Launch} (hwf : s.MemWf) : (s.freeUnits l).MemWf :=
  (hwf.each (fun _ _ ht => ht.freeParked)).each (fun _ _ ht => memWf_ite ht.boundary ht)

theorem State.MemWf.execLaunchComplete {queue seq : Nat} {s : State} (hwf : s.MemWf) : Out.MemWf (execLaunchComplete queue seq s) := by
  unfold Machine.execLaunchComplete
  split
  · exact Out.MemWf.next hwf
  · exact outWf_ite (Out.MemWf.next hwf) (Out.MemWf.next (memWf_ite ((((memWf_ite (((memWf_ite hwf
      hwf.setLaunch.freeUnits).writeCompletion).decrement) ((memWf_ite hwf hwf.setLaunch.freeUnits).writeCompletion)).countDone).upd).upd)
          (((memWf_ite (((memWf_ite hwf hwf.setLaunch.freeUnits).writeCompletion).decrement) ((memWf_ite hwf
              hwf.setLaunch.freeUnits).writeCompletion)).countDone).upd)))

theorem State.MemWf.cancelAll {s : State} {c : Cancel} (hwf : s.MemWf) : (s.cancelAll c).MemWf :=
  (hwf.each (fun _ _ ht => ht.each (fun _ _ hu => memWf_ite hu.closeRecord hu))).each (fun _ _ ht => memWf_ite ht.endLaunch ht)

theorem State.MemWf.execCancellation {idx : Nat} {s : State} (hwf : s.MemWf) : Out.MemWf (execCancellation idx s) := by
  unfold Machine.execCancellation
  split
  · exact Out.MemWf.next hwf
  · exact Out.MemWf.next hwf.upd.cancelAll

theorem State.MemWf.addUnit {s : State} {u : Nat × Nat} {c : Nat} (hwf : s.MemWf) : (s.addUnit u c).MemWf := by
  unfold State.addUnit
  split
  · exact hwf
  · exact memWf_ite hwf (memWf_ite hwf.takeCore.attachFresh.setLaunch.preloaded hwf.takeCore.attachFresh.setLaunch)

theorem State.MemWf.release {s : State} {l : Launch} {e : Nat × Nat} {heir : Nat × Nat} (hwf : s.MemWf) : (s.release l e heir).MemWf :=
  memWf_ite hwf.setLaunch hwf.setCore

theorem State.MemWf.feed {s : State} {rank r : Nat} (hwf : s.MemWf) : (s.feed rank r).MemWf := by
  unfold State.feed
  dsimp only
  split
  · refine memWf_ite ?_ hwf
    split
    · exact hwf.addUnit
    · split
      · exact hwf
      · exact hwf.release
  · exact hwf

theorem State.MemWf.execGovernorEvaluation {die : Nat} {s : State} (hwf : s.MemWf) : Out.MemWf (execGovernorEvaluation die s) :=
  outWf_ite (Out.MemWf.next hwf) (outWf_ite (Out.MemWf.next (((hwf.each (fun _ _ ht => ht.setCore.addUnit)).upd).each
    (fun _ _ ht => ht.each (fun _ _ hu => hu.feed)))) (Out.MemWf.next (hwf.each (fun _ _ ht => ht.setCore.addUnit))))

/-! ### The network and the host (R153, R273 to R276) -/

theorem State.MemWf.execIllegalWord {s : State} (hwf : s.MemWf) : Out.MemWf (execIllegalWord s) := hwf.trapOut

theorem State.MemWf.execStallExpiry {core ctx : Nat} {s : State} (hwf : s.MemWf) : Out.MemWf (execStallExpiry core ctx s) := hwf.event hwf.setCtx

theorem State.MemWf.execAccessArrival {id : Nat} {s : State} (hwf : s.MemWf) : Out.MemWf (execAccessArrival id s) := by
  unfold Machine.execAccessArrival
  split
  · exact Out.MemWf.next hwf
  · exact Out.MemWf.next hwf.arrive

theorem State.MemWf.outdate {s : State} {a : Access} (hwf : s.MemWf) : (s.outdate a).MemWf := hwf.upd

theorem State.MemWf.acknowledge {s : State} {a : Access} (hwf : s.MemWf) : (s.acknowledge a).MemWf :=
  memWf_ite hwf.dropAccess.outdate hwf.dropAccess.outdate.freeJournal

theorem State.MemWf.execStoreAcknowledged {id : Nat} {s : State} (hwf : s.MemWf) : Out.MemWf (execStoreAcknowledged id s) := by
  unfold Machine.execStoreAcknowledged
  split
  · exact Out.MemWf.next hwf
  · exact hwf.event hwf.acknowledge

theorem State.MemWf.execRemoteRefused {id : Nat} {s : State} (hwf : s.MemWf) : Out.MemWf (execRemoteRefused id s) := by
  unfold Machine.execRemoteRefused
  split
  · exact Out.MemWf.next hwf
  · split
    · exact outWf_ite (Out.MemWf.next hwf.acknowledge) (Out.MemWf.next hwf.upd.pendTrap)
    · exact Out.MemWf.next hwf

theorem State.MemWf.poisonLoad {s : State} {a : Access} (hwf : s.MemWf) : (s.poisonLoad a).MemWf := hwf.setCore

theorem State.MemWf.refuseWaiting {s : State} {a : Access} {cause detail : Nat} (hwf : s.MemWf) {t' : State}
    (hr : s.refuseWaiting a cause detail = some t') :
    t'.MemWf := by
  unfold State.refuseWaiting at hr
  dsimp only at hr
  split at hr
  · cases hr
    exact hwf.upd.dropLoad
  · split at hr
    · exact hwf.upd.dropLoad.trapWaiting hr
    · split at hr
      · cases hr
        exact hwf.upd.poisonLoad
      · split at hr
        · cases hr
          exact hwf.upd.dropLoad
        · cases hr
          exact hwf.upd.dropLoad.pendTrap

theorem State.MemWf.execLoadValueReturn {id : Nat} {s : State} (hwf : s.MemWf) : Out.MemWf (execLoadValueReturn id s) := by
  unfold Machine.execLoadValueReturn
  split
  · exact Out.MemWf.next hwf
  · refine outWf_ite (Out.MemWf.next hwf) ?_
    split
    · exact Out.MemWf.next (memWf_getD hwf.refuseWaiting hwf)
    · exact Out.MemWf.next (memWf_getD hwf.giveValue hwf)

theorem State.MemWf.wakeWalk {s : State} {w : Walk} (hwf : s.MemWf) : (s.wakeWalk w).MemWf := memWf_ite hwf.setCtx hwf

theorem State.MemWf.execPageWalkFill {idx : Nat} {s : State} (hwf : s.MemWf) : Out.MemWf (execPageWalkFill idx s) := by
  unfold Machine.execPageWalkFill
  split
  · exact Out.MemWf.next hwf
  · refine outWf_ite (Out.MemWf.next hwf) (outWf_ite (Out.MemWf.next hwf.upd) ?_)
    split
    · exact Out.MemWf.next hwf.upd.fill.wakeWalk.takeWalk
    · exact outWf_ite (Out.MemWf.next hwf.chargeEntries.upd.takeWalk) (Out.MemWf.next hwf.chargeEntries.upd.wakeWalk.takeWalk)

theorem State.MemWf.takePending {s : State} {c x : Nat} (hwf : s.MemWf) {t' : State} (hr : s.takePending c x = some t') : t'.MemWf := by
  unfold State.takePending at hr
  dsimp only at hr
  split at hr
  · cases hr
  · split at hr
    · cases hr
    · exact hwf.setCtx.freeJournal.takeTrap hr

theorem State.MemWf.execTrapEntry {core ctx : Nat} {s : State} (hwf : s.MemWf) : Out.MemWf (execTrapEntry core ctx s) :=
  outWf_ite (Out.MemWf.next (memWf_getD hwf.takePending hwf)) (Out.MemWf.next hwf)

theorem State.MemWf.execFatalTrap {core ctx : Nat} {s : State} (hwf : s.MemWf) : Out.MemWf (execFatalTrap core ctx s) :=
  outWf_ite (Out.MemWf.next hwf) (Out.MemWf.next (memWf_getD hwf.takePending hwf))

theorem State.MemWf.execHostCompletion {id : Nat} {answer : HostAnswer} {s : State} (hwf : s.MemWf) : Out.MemWf (execHostCompletion id answer s) := by
  unfold Machine.execHostCompletion
  split
  · exact Out.MemWf.next hwf
  · refine outWf_ite (Out.MemWf.next hwf) ?_
    dsimp only
    split
    · exact outWf_ite (Out.MemWf.next hwf.acknowledge) (Out.MemWf.next (memWf_getD hwf.giveValue hwf))
    · exact Out.MemWf.next (memWf_ite hwf.setAccess (memWf_getD hwf.refuseWaiting hwf.setAccess))
    · exact Out.MemWf.next (memWf_ite hwf.setAccess (memWf_getD hwf.refuseWaiting hwf.setAccess))

theorem State.MemWf.execHostTimeout {id : Nat} {s : State} (hwf : s.MemWf) : Out.MemWf (execHostTimeout id s) := by
  unfold Machine.execHostTimeout
  split
  · exact Out.MemWf.next hwf
  · exact outWf_ite (Out.MemWf.next hwf) (outWf_ite (Out.MemWf.next hwf.setAccess) (Out.MemWf.next (memWf_getD hwf.refuseWaiting hwf.setAccess)))

theorem State.MemWf.execInboundPostedWrite {w : HostWrite} {s : State} (hwf : s.MemWf) : Out.MemWf (execInboundPostedWrite w s) := by
  unfold Machine.execInboundPostedWrite
  split
  · exact hwf.event hwf.devWrite
  · exact hwf.event (hwf.setQueue (Memory.write_wf _ _ _ _ (hwf.staging _)))

theorem State.MemWf.readDbword {s : State} (hwf : s.MemWf) : (s.readDbword).2.MemWf := hwf.upd

theorem State.MemWf.setLink {s : State} {n : Nat} {l : Link} (hwf : s.MemWf) : (s.setLink n l).MemWf := hwf.upd

theorem State.MemWf.execLinkDown {link : Nat} {s : State} (hwf : s.MemWf) : Out.MemWf (execLinkDown link s) := hwf.event hwf.setLink.upd

theorem State.MemWf.execLinkRetrain {link : Nat} {s : State} (hwf : s.MemWf) : Out.MemWf (execLinkRetrain link s) := hwf.event hwf.setLink

theorem State.MemWf.answer {s : State} {id : Nat} {payload : List Byte} (hwf : s.MemWf) : (s.answer id payload).MemWf := by
  unfold State.answer
  split
  · exact hwf
  · exact memWf_ite hwf (memWf_ite hwf.acknowledge (memWf_getD hwf.giveValue hwf.setAccess))

theorem State.MemWf.splice {s : State} {n : Nat} {job : Nat} (hwf : s.MemWf) : (s.splice n job).MemWf := hwf.setLink

theorem State.MemWf.sendData {s : State} {n a : Nat} {bs : List Byte} (hwf : s.MemWf) : (s.sendData n a bs).MemWf := hwf.setLink.upd

theorem State.MemWf.deliverFlit {s : State} {n : Nat} {f : Flit} (hwf : s.MemWf) : (s.deliverFlit n f).MemWf := by
  unfold State.deliverFlit
  refine memWf_ite hwf.splice ?_
  split
  · exact hwf
  · exact hwf.answer
  · exact memWf_ite hwf.devWrite hwf
  · exact memWf_ite hwf.sendData hwf
  · exact memWf_ite hwf.devWrite.sendData hwf

theorem State.MemWf.execFlitReceive {link : Nat} {f : Flit} {s : State} (hwf : s.MemWf) : Out.MemWf (execFlitReceive link f s) :=
  outWf_ite (Out.MemWf.next hwf) (outWf_ite (outWf_ite hwf.execLinkDown (Out.MemWf.next hwf.setLink.repaired))
    (outWf_ite (Out.MemWf.next hwf) (outWf_ite (Out.MemWf.next (((memWf_ite hwf hwf.repaired).setLink).setLink))
    (Out.MemWf.next (((memWf_ite hwf hwf.repaired).setLink).deliverFlit)))))

theorem State.MemWf.execSpliceMarkerReceive {link : Nat} {job : BitVec 32} {s : State} (hwf : s.MemWf) :
    Out.MemWf (execSpliceMarkerReceive link job s) := hwf.event hwf.splice

end Sys2Proof.Machine
end

section
/-!
O8: swapped pages, deadlines, saving and loading.
-/

namespace Sys2Proof.Machine

open Sys2Proof

/-! ### Swapped pages (R323 to R328) -/

theorem State.MemWf.clearCkpt {s : State} {page : Nat} (hwf : s.MemWf) : (s.clearCkpt page).MemWf := hwf.upd

theorem State.MemWf.clearNamed {s : State} {g : Agent} {p : Nat} (hwf : s.MemWf) : (s.clearNamed g p).MemWf := by
  unfold State.clearNamed
  split
  · exact memWf_ite hwf.clearCkpt hwf
  · exact hwf

theorem State.MemWf.swapOut {s : State} {g : Agent} {v : Nat} (hwf : s.MemWf) : (s.swapOut g v).2.MemWf := by
  unfold State.swapOut
  dsimp only
  split
  · exact hwf
  · next hr =>
      split
      · exact hwf.bulkRead hr
      · split
        · exact hwf.bulkRead hr
        · exact (hwf.bulkRead hr).clearNamed
        · split
          · exact (hwf.bulkRead hr).clearCkpt
          · split
            · exact ((((hwf.bulkRead hr).clearCkpt).chargePieces).touchPtr).setPart
            · next hz =>
                split
                · exact (((((hwf.bulkRead hr).clearCkpt).chargePieces).touchPtr).setPart).bulkWrite hz
                · next hy =>
                    split
                    · exact ((((((hwf.bulkRead hr).clearCkpt).chargePieces).touchPtr).setPart).bulkWrite hz).bulkWrite hy
                    · next hr' => exact (((((((hwf.bulkRead hr).clearCkpt).chargePieces).touchPtr).setPart).bulkWrite hz).bulkWrite hy).bulkWrite hr'

theorem State.MemWf.swapIn {s : State} {g : Agent} {v : Nat} (hwf : s.MemWf) : (s.swapIn g v).2.MemWf := by
  unfold State.swapIn
  dsimp only
  split
  · exact hwf
  · next hr =>
      split
      · exact hwf.bulkRead hr
      · next hs =>
          split
          · exact (hwf.bulkRead hr).bulkRead hs
          · split
            · exact (hwf.bulkRead hr).bulkRead hs
            · split
              · exact (hwf.bulkRead hr).bulkRead hs
              · exact (hwf.bulkRead hr).bulkRead hs
              · split
                · exact (hwf.bulkRead hr).bulkRead hs
                · next hy =>
                    split
                    · exact ((hwf.bulkRead hr).bulkRead hs).bulkRead hy
                    · next hr' =>
                        split
                        · exact (((((((hwf.bulkRead hr).bulkRead hs).bulkRead hy).bulkRead hr').touchPtr).setDirty).chargePieces).writePieces
                        · split
                          · exact (((((((hwf.bulkRead hr).bulkRead hs).bulkRead hy).bulkRead hr').touchPtr).setDirty).chargePieces).writePieces
                          · next hw' => exact ((((((((hwf.bulkRead hr).bulkRead hs).bulkRead hy).bulkRead
                              hr').touchPtr).setDirty).chargePieces).writePieces).bulkWrite hw'

theorem State.MemWf.swapStrand {s : State} {g : Agent} {v : Nat} (hwf : s.MemWf) : (s.swapStrand g v).2.MemWf := by
  unfold State.swapStrand
  split
  · exact hwf
  · next hr =>
      split
      · exact hwf.strandCheck hr
      · split
        · exact (hwf.strandCheck hr).swapOut
        · exact (hwf.strandCheck hr).swapIn

theorem State.MemWf.beginSwap {s : State} {h : Chain} {v : Nat} (hwf : s.MemWf) : (s.beginSwap h v).MemWf := memWf_ite hwf hwf.recordSet.chargeStrand

theorem State.MemWf.execLaneGrant {ch : Nat} {s : State} (hwf : s.MemWf) : Out.MemWf (execLaneGrant ch s) := by
  unfold Machine.execLaneGrant
  split
  · exact outWf_ite (Out.MemWf.next hwf.unchoose) (Out.MemWf.next hwf.upd.setChain.beginSwap)
  · exact Out.MemWf.next hwf

theorem State.MemWf.chooserFailed {s : State} {h : Chain} (hwf : s.MemWf) : (s.chooserFailed h).MemWf := hwf.setChain.upd

theorem State.MemWf.runChosen {s : State} {h : Chain} {v : Nat} (hwf : s.MemWf) : (s.runChosen h v).MemWf :=
  memWf_ite hwf.dropChain (memWf_ite hwf.chargeStrand.swapStrand.chooserFailed hwf.chargeStrand.swapStrand.dropChain)

theorem State.MemWf.runSwap {s : State} {h : Chain} {v : Nat} (hwf : s.MemWf) : (s.runSwap h v).MemWf :=
  memWf_ite hwf.runChosen (memWf_ite (((memWf_ite hwf.blockOf hwf.blockOf.beginSwap).leaveRecord).finishStrand)
    ((memWf_ite ((memWf_ite hwf.blockOf hwf.blockOf.beginSwap).swapStrand)
    (((memWf_ite hwf.blockOf hwf.blockOf.beginSwap).swapStrand).leaveRecord)).finishStrand))

theorem State.MemWf.swapRun {s : State} {ch : Nat} {out : Bool} (hwf : s.MemWf) : Out.MemWf (s.swapRun ch out) := by
  unfold State.swapRun
  split
  · exact Out.MemWf.next hwf
  · exact outWf_ite (Out.MemWf.next hwf.unchoose) (hwf.withStrand (fun _ ht => Out.MemWf.next ht.runSwap))

theorem State.MemWf.execSwapOutStrand {ch : Nat} {s : State} (hwf : s.MemWf) : Out.MemWf (execSwapOutStrand ch s) := hwf.swapRun

theorem State.MemWf.execSwapInStrand {ch : Nat} {s : State} (hwf : s.MemWf) : Out.MemWf (execSwapInStrand ch s) := hwf.swapRun

theorem State.MemWf.chainStrand {s : State} {g : Agent} {v : Nat} (hwf : s.MemWf) {v' : (Nat × Nat)} {t' : State}
    (hr : s.chainStrand g v = some (v', t')) :
    t'.MemWf := by
  unfold State.chainStrand at hr
  split at hr
  · cases hr
  · split at hr
    · cases hr
    · next hw =>
        split at hr
        · next hz =>
            split at hr
            · cases hr
            · split at hr
              · cases hr
                exact (hwf.strandCheck hw).bulkRead hz
              · cases hr
        · cases hr

theorem State.MemWf.chainPages {g : Agent} {n : Nat} : ∀ {s t : State} {p : Nat} {es : List (Nat × Nat)},
    s.MemWf → s.chainPages g n p = some (es, t) → t.MemWf := by
  induction n with
  | zero =>
    intro s t p es hwf hr
    unfold State.chainPages at hr
    split at hr
    · cases hr
      exact hwf
    · cases hr
  | succ n ih =>
    intro s t p es hwf hr
    unfold State.chainPages at hr
    split at hr
    · cases hr
      exact hwf
    · split at hr
      · cases hr
      · split at hr
        · cases hr
        · next hs =>
          split at hr
          · cases hr
          · next hw =>
            obtain ⟨⟨es', u⟩, hu, hpair⟩ := Option.map_eq_some_iff.mp hr
            cases hpair
            exact ih ((hwf.readStrand hs).chainStrand hw) hu

theorem State.MemWf.disown {s : State} {q : Nat} (hwf : s.MemWf) : (s.disown q).MemWf := hwf.upd

theorem State.MemWf.chainWrite {s : State} (hwf : s.MemWf) {q : Nat} {w : Word} : (s.chainWrite q w).MemWf := by
  have hd := hwf.disown (q := q)
  have hoff {t : State} (ht : t.MemWf) (head : Nat) :
      (t.setQueue q { t.queue q with chainOn := false, chainHead := head, pages := [], ports := [] }).MemWf := ht.setQueue (ht.staging q)
  unfold State.chainWrite
  refine memWf_ite hwf (memWf_ite (hoff hd _) ?_)
  split
  · exact hoff hd _
  · next hr => exact hoff (State.MemWf.chainPages hd hr) _
  · next hr =>
    have ht := State.MemWf.chainPages hd hr
    exact memWf_ite (hoff ht _) (ht.upd.setQueue (ht.upd.staging q))

theorem State.MemWf.execWqchainWrite {queue : Nat} {value : Word} {s : State} (hwf : s.MemWf) : Out.MemWf (execWqchainWrite queue value s) :=
  hwf.event hwf.chainWrite

/-! ### Eviction deadlines (R331 to R335) -/

theorem State.MemWf.discardQueue {s : State} (hwf : s.MemWf) {q : Nat} : (s.discardQueue q).MemWf := by
  have hended := hwf.each (xs := s.startedOf q) (f := fun s l => s.endLaunch (l.queue, l.seq) 2) (fun _ _ ht => ht.endLaunch)
  exact hended.setQueue (hended.staging q)

theorem State.MemWf.freedOf {s : State} {p q : Nat} (hwf : s.MemWf) : (s.freedOf p q).MemWf := hwf.setPart

theorem State.MemWf.dropChosen {s : State} {p : Chain → Bool} (hwf : s.MemWf) : (s.dropChosen p).MemWf := hwf.upd

theorem State.MemWf.meet {s : State} {p : Nat} (hwf : s.MemWf) : (s.meet p).MemWf := by
  unfold State.meet
  dsimp only
  split
  · exact hwf
  · exact memWf_ite hwf hwf.setPart.dropChosen

theorem State.MemWf.abandon {s : State} {p : Nat} (hwf : s.MemWf) : (s.abandon p).MemWf := hwf.setPart.dropChosen

theorem State.MemWf.acceptDeadline {s : State} {p deadline : Nat} {pl : Plan} (hwf : s.MemWf) : (s.acceptDeadline p deadline pl).MemWf := by
  unfold State.acceptDeadline
  refine (hwf.setPart.each (fun _ _ ht => ?_)).meet
  refine memWf_ite ht.discardQueue.freedOf (ht.setQueue ?_)
  exact ht.staging _

theorem State.MemWf.judge {s : State} {v : Nat} (hwf : s.MemWf) : (s.judge v).2.2.MemWf := by
  unfold State.judge
  dsimp only
  split
  · exact hwf
  · split
    · exact hwf.acceptDeadline
    · exact hwf

theorem State.MemWf.execEvictionDecision {idx : Nat} {s : State} (hwf : s.MemWf) : Out.MemWf (execEvictionDecision idx s) := by
  unfold Machine.execEvictionDecision
  split
  · exact Out.MemWf.next hwf
  · dsimp only
    split
    · exact Out.MemWf.next hwf.upd.judge.upd
    · refine outWf_ite (Out.MemWf.next hwf.upd.judge) (Out.MemWf.next ((State.MemWf.writeReg ?_).finishWait))
      split
      · next hw => exact hwf.upd.judge.bulkWrite hw
      · exact hwf.upd.judge

theorem State.MemWf.execBar2Evpost {req : List Byte} {s : State} (hwf : s.MemWf) : Out.MemWf (execBar2Evpost req s) :=
  outWf_ite (Out.MemWf.next hwf.fresh.upd) (Out.MemWf.next hwf.upd)

theorem State.MemWf.execLastSafeMoment {part : Nat} {s : State} (hwf : s.MemWf) : Out.MemWf (execLastSafeMoment part s) := by
  unfold Machine.execLastSafeMoment
  split
  · exact Out.MemWf.next hwf
  · exact hwf.event hwf.setPart

theorem State.MemWf.preemptQueue {s : State} {q : Nat} (hwf : s.MemWf) : (s.preemptQueue q).MemWf := by
  unfold State.preemptQueue
  refine hwf.each (fun _ _ ht => ?_)
  split
  · exact memWf_ite ht ht.setCore
  · exact ht

theorem State.MemWf.setStage {s : State} {p q stage : Nat} (hwf : s.MemWf) : (s.setStage p q stage).MemWf := by
  unfold State.setStage
  split
  · exact hwf
  · exact hwf.setPart

theorem State.MemWf.startChosen {s : State} {p q : Nat} (hwf : s.MemWf) : (s.startChosen p q).MemWf := hwf.setStage.fresh.upd

theorem State.MemWf.execDeadlineChainStart {part queue : Nat} {s : State} (hwf : s.MemWf) : Out.MemWf (execDeadlineChainStart part queue s) := by
  unfold Machine.execDeadlineChainStart
  split
  · exact Out.MemWf.next hwf
  · exact Out.MemWf.next hwf.discardQueue.freedOf.setStage.meet
  · exact Out.MemWf.next hwf.preemptQueue
  · exact Out.MemWf.next hwf.startChosen
  · exact Out.MemWf.next hwf.dropChosen.freedOf.setStage.meet
  · exact Out.MemWf.next hwf.abandon

theorem State.MemWf.execAllowanceRefill {s : State} (hwf : s.MemWf) : Out.MemWf (execAllowanceRefill s) :=
  hwf.event ((hwf.each (fun _ _ ht => ht.setPart)).upd)

/-! ### Saving and loading (R294, R295, R318, R319) -/

theorem State.MemWf.settleLoads {s : State} {c x : Nat} (hwf : s.MemWf) : (s.settleLoads c x).MemWf := hwf.setCore.each (fun _ _ ht => ht.writeReg)

theorem State.MemWf.switchOut {s : State} {c x base : Nat} {unit : Bool} (hwf : s.MemWf) : (s.switchOut c x base unit).MemWf := hwf.upd.setCtx.setCore

theorem State.MemWf.clearUnit {s : State} {c : Nat} (hwf : s.MemWf) : (s.clearUnit c).MemWf := hwf.setCore

theorem State.MemWf.moveWork {s : State} {from_ c x born : Nat} {u : Option (Nat × Nat)} (hwf : s.MemWf) : (s.moveWork from_ c x born u).MemWf :=
  memWf_ite hwf hwf.upd

theorem State.MemWf.unspill {s : State} {c x v : Nat} {u : Option (Nat × Nat)} (hwf : s.MemWf) : (s.unspill c x v u).MemWf :=
  memWf_ite hwf.upd.setCtx hwf.upd

theorem State.MemWf.switchIn {s : State} {from_ c x v : Nat} {base : Option Nat} {u : Option (Nat × Nat)} (hwf : s.MemWf) :
    (s.switchIn from_ c x v base u).MemWf :=
  memWf_ite ((((memWf_ite hwf.fresh.setCore.moveWork.setCtx hwf.fresh.setCore.moveWork.setCtx.noRoll).unspill).setCore).setCore)
    (((memWf_ite hwf.fresh.setCore.moveWork.setCtx hwf.fresh.setCore.moveWork.setCtx.noRoll).unspill).setCore)

theorem State.MemWf.waitOn {s : State} {c x id : Nat} (hwf : s.MemWf) : (s.waitOn c x id).MemWf := hwf.setCtx

theorem State.MemWf.requeue {s : State} {c : Nat} {stamp : Option Nat} {word o1 o2 tbl scales start : Nat} (hwf : s.MemWf) :
    (s.requeue c stamp word o1 o2 tbl scales start).MemWf := by
  unfold State.requeue
  dsimp only
  split
  · exact hwf.setCore.fresh.setCore.waitOn
  · exact hwf.setCore.fresh.setCore.waitOn
  · split
    · exact hwf
    · exact hwf.setCore.fresh.setCore
  · exact hwf.setCore.fresh.setCore
  · exact hwf.setCore.fresh.setCore.setCore
  · exact hwf.setCore.fresh.setCore
  · exact hwf.fresh.setCore
  · exact hwf.fresh.setCore.waitOn
  · exact hwf.fresh.setCore.waitOn
  · exact hwf.fresh.setCore
  · exact hwf

theorem State.MemWf.loadUnit {s : State} {c v : Nat} {stamps : List Nat} (hwf : s.MemWf) : (s.loadUnit c v stamps).MemWf :=
  hwf.setCore.each (fun _ _ ht => ht.requeue)

theorem State.MemWf.moveFlights {s : State} {from_ c : Nat} {u : Option (Nat × Nat)} (hwf : s.MemWf) : (s.moveFlights from_ c u).MemWf :=
  (hwf.setCore.foldl (fun _ _ ht => ht.setCore)).each (fun _ _ ht => ht.setHitch)

theorem State.MemWf.moveBanks {s : State} {from_ c v : Nat} {u : Option (Nat × Nat)} (hwf : s.MemWf) : (s.moveBanks from_ c v u).MemWf :=
  memWf_ite (hwf.each (fun _ _ ht => memWf_ite ht.unplace (((memWf_ite ht.unplace.emptySlot ht.unplace).setHitch).setCore)))
    ((hwf.each (fun _ _ ht => memWf_ite ht.unplace (((memWf_ite ht.unplace.emptySlot ht.unplace).setHitch).setCore))).moveFlights)

theorem State.MemWf.unpark {s : State} {l : Launch} {p : Parked} {c : Nat} (hwf : s.MemWf) : (s.unpark l p c).MemWf := hwf.setCore.setLaunch

theorem State.MemWf.letGo {s : State} {c n : Nat} (hwf : s.MemWf) : (s.letGo c n).MemWf :=
  memWf_ite ((memWf_ite hwf.setCtx hwf).setCore) (memWf_ite hwf.setCtx hwf)

theorem State.MemWf.askStop {s : State} {c n : Nat} {core : Bool} (hwf : s.MemWf) : (s.askStop c n core).MemWf :=
  memWf_ite hwf.setCtx.setCore hwf.setCtx

theorem State.MemWf.execCtxsave {h : Hdr} {x : OpBC} {s : State} (hwf : s.MemWf) : Out.MemWf (execCtxsave h x s) := by
  unfold Machine.execCtxsave
  refine hwf.issue ?_
  refine resWf_ite hwf.letGo.raise (resWf_ite hwf.letGo.raiseAt (resWf_ite hwf.letGo.raiseAt (hwf.letGo.withPages (fun _ _ => ?_))))
  refine hwf.letGo.firm (resWf_ite trivial (resWf_ite hwf.letGo.askStop ?_))
  dsimp only
  split
  · exact hwf.letGo.settleLoads.trip
  · next hr => exact memWf_ite (((hwf.letGo.settleLoads.bulkWrite hr).switchOut).clearUnit) ((hwf.letGo.settleLoads.bulkWrite hr).switchOut)

theorem State.MemWf.execCtxload {h : Hdr} {x : OpBC} {s : State} (hwf : s.MemWf) : Out.MemWf (execCtxload h x s) := by
  unfold Machine.execCtxload
  refine hwf.issue ?_
  refine resWf_ite hwf.raise (resWf_ite hwf.raiseAt (resWf_ite hwf.raiseAt (hwf.withPages (fun _ _ => ?_))))
  refine hwf.firm (resWf_ite trivial ?_)
  split
  · exact hwf.trip
  · next hr => exact resWf_ite ((hwf.bulkRead hr).raise) (resWf_ite ((hwf.bulkRead hr).raise) (memWf_ite (((memWf_ite ((hwf.bulkRead hr).moveBanks)
      (hwf.bulkRead hr)).switchIn).loadUnit) ((memWf_ite ((hwf.bulkRead hr).moveBanks) (hwf.bulkRead hr)).switchIn)))

theorem State.MemWf.preemptSave {s : State} {c base : Nat} (hwf : s.MemWf) : (s.preemptSave c base).MemWf := by
  unfold State.preemptSave
  refine ((State.MemWf.each ?_ (fun _ _ ht => ht.switchOut)).clearUnit).setCore
  split
  · exact ((hwf.each (fun _ _ ht => ht.settleLoads)).each (fun _ _ ht => ht.devWrite)).setLaunch
  · exact (hwf.each (fun _ _ ht => ht.settleLoads)).each (fun _ _ ht => ht.devWrite)

theorem State.MemWf.execPreemptRequest {core base : Nat} {s : State} (hwf : s.MemWf) : Out.MemWf (execPreemptRequest core base s) :=
  outWf_ite (hwf.event hwf.preemptSave) (hwf.event hwf.setCore)

theorem State.MemWf.resumeCore {s : State} (hwf : s.MemWf) {base c : Nat} {t : State} (hr : s.resumeCore base c = some t) : t.MemWf := by
  rw [resumeCore_eq] at hr
  split at hr
  · cases hr
  · refine memWf_some ?_ hr
    have hunpark {w : State} (hw : w.MemWf) {from_ : Nat} : (w.unparkBy base from_ c).MemWf := by
      unfold State.unparkBy
      split
      · exact hw.unpark
      · exact hw
    have hback {w : State} (hw : w.MemWf) {from_ : Nat} {u : Option (Nat × Nat)} {xs stamps : List Nat} :
        (w.reenter from_ c base u (s.savedArea base) xs stamps).MemWf := (hw.each (fun _ _ ht => ht.switchIn)).loadUnit
    refine memWf_ite (State.MemWf.takeFrame (hback (hunpark ?_))) (hback (hunpark ?_)) <;> exact hwf.clearSlots.moveBanks

theorem State.MemWf.execResumeRequest {base core : Nat} {s : State} (hwf : s.MemWf) : Out.MemWf (execResumeRequest base core s) :=
  Out.MemWf.next (memWf_getD hwf.resumeCore hwf)

end Sys2Proof.Machine
end

section
/-!
O8: system operations, transactions and boot.
-/

namespace Sys2Proof.Machine

open Sys2Proof

/-! ### System registers and operations (R286 to R302) -/

theorem State.MemWf.execSysr {h : Hdr} {x : OpSys} {s : State} (hwf : s.MemWf) : Out.MemWf (execSysr h x s) := by
  unfold Machine.execSysr
  refine hwf.issue ?_
  refine resWf_ite hwf.raise ?_
  split
  · exact hwf.raise
  · exact hwf.setMe

theorem State.MemWf.ringWrite {s : State} {cl n : Nat} {w : Word} (hwf : s.MemWf) {t' : State} (hr : s.ringWrite cl n w = some t') : t'.MemWf := by
  unfold State.ringWrite at hr
  dsimp only at hr
  split at hr
  · split at hr
    · cases hr
      exact hwf.setRing
    · cases hr
  · split at hr
    · cases hr
      exact hwf.setRing
    · split at hr
      · cases hr
      · cases hr
        exact hwf.setRing

theorem State.MemWf.permWrite {s : State} {cl w lvl v : Nat} (hwf : s.MemWf) : (s.permWrite cl w lvl v).MemWf := hwf.setCluster

theorem State.MemWf.asidWrite {s : State} {p v : Nat} (hwf : s.MemWf) : (s.asidWrite p v).MemWf := memWf_ite hwf hwf.setPart

theorem State.MemWf.allowWrite {s : State} {p i v : Nat} (hwf : s.MemWf) : (s.allowWrite p i v).MemWf := memWf_ite hwf hwf.setPart

theorem State.MemWf.releaseFatal {s : State} {p k : Nat} (hwf : s.MemWf) : (s.releaseFatal p k).MemWf := hwf.setPart

theorem State.MemWf.clearFatal {s : State} {p : Nat} {w : Word} (hwf : s.MemWf) : (s.clearFatal p w).MemWf := memWf_ite hwf.setPart hwf

theorem State.MemWf.controlWrite {s : State} {q v : Nat} (hwf : s.MemWf) : (s.controlWrite q v).MemWf := by
  unfold State.controlWrite
  refine hwf.setQueue ?_
  exact hwf.staging _

theorem State.MemWf.setIsland {s : State} {n : Nat} {i : Island} (hwf : s.MemWf) : (s.setIsland n i).MemWf := hwf.upd

theorem State.MemWf.vfWrite {s : State} {n v : Nat} (hwf : s.MemWf) : (s.vfWrite n v).MemWf := hwf.setIsland

theorem State.MemWf.queueXlat {s : State} {q : Nat} {w : Word} (hwf : s.MemWf) {t' : State} (hr : s.queueXlat q w = some t') : t'.MemWf := by
  unfold State.queueXlat at hr
  dsimp only at hr
  split at hr
  · cases hr
    refine hwf.setQueue ?_
    exact hwf.staging _
  · cases hr

theorem State.MemWf.regWrite {s : State} (hwf : s.MemWf) {n p cl q lvl : Nat} {w : Word} {t : State} (hr : s.regWrite n p cl q lvl w = .ok t) :
    t.MemWf := by
  have hok {u : State} (hu : u.MemWf) (he : (Except.ok u : Except Cause State) = .ok t) : t.MemWf := by
    cases he
    exact hu
  have hset {k : WQueue} (hk : k.staging = (s.queue q).staging) : (s.setQueue q k).MemWf := hwf.setQueue (by rw [hk]; exact hwf.staging q)
  unfold State.regWrite at hr
  dsimp only at hr
  split at hr
  · split at hr
    · next hs => exact hok (hwf.ringWrite hs) hr
    · cases hr
  · split at hr
    · exact hok hwf.permWrite hr
    · split at hr
      · exact hok hwf.allowWrite hr
      · split at hr
        · exact hok (memWf_ite hwf.upd hwf) hr
        · split at hr
          · exact hok hwf.vfWrite hr
          · split at hr
            · exact hok hwf.asidWrite hr
            · exact hok hwf.upd hr
            · exact hok hwf.setPart hr
            · exact hok hwf.setPart hr
            · exact hok (memWf_ite hwf.releaseFatal hwf.setPart) hr
            · exact hok hwf.clearFatal hr
            · exact hok hwf.controlWrite hr
            · exact hok hwf.chainWrite hr
            · exact hok (hset (by rfl)) hr
            · exact hok (hset (by rfl)) hr
            · split at hr
              · next hs => exact hok (hwf.queueXlat hs) hr
              · cases hr
            · exact hok hwf hr

theorem State.MemWf.ctxRegWrite {s : State} {n : Nat} {w : Word} (hwf : s.MemWf) {t' : State} (hr : s.ctxRegWrite n w = .ok t') : t'.MemWf := by
  unfold State.ctxRegWrite at hr
  dsimp only at hr
  split at hr
  · cases hr
    exact hwf.setMe
  · cases hr
    exact hwf.setMe
  · cases hr
    exact hwf.setMe
  · cases hr
    exact memWf_ite hwf.setMe hwf
  · cases hr
    exact hwf.setMe
  · split at hr
    · cases hr
    · cases hr
      exact hwf.setMe
  · cases hr
    exact hwf

theorem State.MemWf.execSysw {h : Hdr} {x : OpSys} {s : State} (hwf : s.MemWf) : Out.MemWf (execSysw h x s) := by
  refine hwf.issue (resWf_ite hwf.raise ?_)
  split
  · exact hwf.raise
  · refine hwf.firm ?_
    split
    · next hr =>
      split at hr
      · exact hwf.ctxRegWrite hr
      · exact hwf.regWrite hr
    · exact hwf.raise

theorem State.MemWf.execOvtld {h : Hdr} {b : SReg} {s : State} (hwf : s.MemWf) : Out.MemWf (execOvtld h b s) :=
  hwf.issue (hwf.need (hwf.firm hwf.setMe))

theorem State.MemWf.pruneInvals {s : State} (hwf : s.MemWf) : (s.pruneInvals).MemWf := hwf.upd

theorem State.MemWf.invalidate {s : State} {v : Inval} (hwf : s.MemWf) : (s.invalidate v).MemWf :=
  (hwf.upd.each (fun _ _ ht => ht.setCore)).each (fun _ _ ht => ht.setCluster)

theorem State.MemWf.execTlbinv {h : Hdr} {x : OpBC} {s : State} (hwf : s.MemWf) : Out.MemWf (execTlbinv h x s) :=
  hwf.issue (resWf_ite hwf.raise (resWf_ite hwf.raise (resWf_ite hwf.raise (hwf.firm (resWf_ite trivial hwf.pruneInvals.setMe.invalidate)))))

theorem State.MemWf.execTlbsync {h : Hdr} {s : State} (hwf : s.MemWf) : Out.MemWf (execTlbsync h s) :=
  hwf.issue (resWf_ite trivial hwf.pruneInvals.setMe)

theorem State.MemWf.execHcall {h : Hdr} {code : BitVec 24} {s : State} (hwf : s.MemWf) : Out.MemWf (execHcall h code s) :=
  hwf.issue (resWf_ite hwf.raise hwf)

theorem State.MemWf.execTrapret {h : Hdr} {s : State} (hwf : s.MemWf) : Out.MemWf (execTrapret h s) := by
  unfold Machine.execTrapret
  refine hwf.issue ?_
  refine resWf_ite hwf.raise (hwf.firm ?_)
  split
  · exact trivial
  · next hr => exact hwf.trapReturn hr

theorem State.MemWf.execEvpost {h : Hdr} {x : OpRR} {s : State} (hwf : s.MemWf) : Out.MemWf (execEvpost h x s) := by
  unfold Machine.execEvpost
  refine hwf.issue ?_
  refine resWf_ite hwf.raiseAt (resWf_ite hwf.raiseAt (hwf.withPages (fun _ _ => ?_)))
  refine hwf.withPages (fun _ _ => ?_)
  refine hwf.firm (resWf_ite trivial ?_)
  split
  · exact hwf.trip
  · next hr => exact resWf_ite ((hwf.bulkRead hr).raise) ((((hwf.bulkRead hr).fresh).upd).setMe)

theorem State.MemWf.devWipe {s : State} (hwf : s.MemWf) {a n : Nat} : (s.devWipe a n).MemWf := by
  obtain ⟨bad, hub, h⟩ := devWipe_rest s a n
  rw [h]
  exact ⟨Memory.wipe_wf _ _ _ hwf.1, hwf.2.1, hwf.2.2⟩

theorem State.MemWf.wipePage {s : State} {b c : SReg} (hwf : s.MemWf) : (s.wipePage b c).MemWf := by
  unfold State.wipePage
  refine hwf.withPages (fun _ _ => ?_)
  refine resWf_ite hwf.raiseW (resWf_ite hwf.raiseAt ?_)
  split
  · exact trivial
  · exact hwf.firm (resWf_ite trivial (resWf_ite ((hwf.setDirty.noRoll.each (fun _ _ ht => ht.devWipe.each (fun _ _ hu => hu.charge))).setMe)
      ((hwf.setDirty.noRoll.each (fun _ _ ht => ht.devWipe.each (fun _ _ hu => hu.charge))).setMe)))

theorem State.MemWf.execWipe {h : Hdr} {x : OpBC} {s : State} (hwf : s.MemWf) : Out.MemWf (execWipe h x s) := by
  unfold Machine.execWipe
  refine hwf.issue ?_
  dsimp only
  split
  · exact resWf_ite hwf.raiseAt (resWf_ite hwf.raise hwf.wipePage)
  · refine resWf_ite hwf.raiseAt (resWf_ite hwf.raise ?_)
    split
    · exact hwf.raiseAt
    · exact hwf.firm (resWf_ite trivial hwf.noRoll.bankWipe)
  · exact hwf.raiseAt

theorem State.MemWf.wipeCore {s : State} {c : Nat} (hwf : s.MemWf) : (s.wipeCore c).MemWf := hwf.setCore

theorem State.MemWf.wipeBank {s : State} {pkg : Nat} (hwf : s.MemWf) : (s.wipeBank pkg).MemWf := ((memWf_ite hwf.emptySlot hwf).freeBank).bankWipe

theorem State.MemWf.wipeCluster {s : State} {r : Nat} (hwf : s.MemWf) : (s.wipeCluster r).MemWf :=
  ((hwf.each (fun _ _ ht => ht.endAway.boundary.wipeCore)).each (fun _ _ ht => ht.wipeBank)).setCluster

theorem State.MemWf.pmapOp {s : State} (hwf : s.MemWf) {r p : Nat} {release : Bool} {t : State} (hr : s.pmapOp r p release = some t) : t.MemWf := by
  unfold State.pmapOp at hr
  split at hr
  · split at hr
    · exact memWf_some hwf.wipeCluster.setCluster hr
    · cases hr
  · exact memWf_unless hwf.setCluster hr

theorem State.MemWf.execPmap {h : Hdr} {x : OpBC} {s : State} (hwf : s.MemWf) : Out.MemWf (execPmap h x s) := by
  unfold Machine.execPmap
  refine hwf.issue ?_
  refine resWf_ite hwf.raise (hwf.firm ?_)
  split
  · exact hwf.raise
  · next hr => exact hwf.pmapOp hr

/-! ### Transactions (R187 to R209) -/

theorem State.MemWf.txdecl {write : Bool} {b : SReg} {s : State} (hwf : s.MemWf) : (txdecl write b s).MemWf := by
  unfold Machine.txdecl
  refine resWf_ite hwf.raise ?_
  split
  · refine resWf_ite hwf.raiseAt (hwf.withPages (fun _ _ => ?_))
    split
    · exact resWf_ite hwf.raiseW (resWf_ite trivial (resWf_ite hwf.setMe (resWf_ite hwf.raise hwf.setMe)))
    · exact hwf.raiseAt
  · exact hwf.raiseAt

theorem State.MemWf.execTxdeclR {h : Hdr} {b : SReg} {s : State} (hwf : s.MemWf) : Out.MemWf (execTxdeclR h b s) := hwf.issue hwf.txdecl

theorem State.MemWf.execTxdeclW {h : Hdr} {b : SReg} {s : State} (hwf : s.MemWf) : Out.MemWf (execTxdeclW h b s) := hwf.issue hwf.txdecl

theorem State.MemWf.execTxsub {h : Hdr} {a : SReg} {s : State} (hwf : s.MemWf) : Out.MemWf (execTxsub h a s) :=
  hwf.issue (hwf.firm (resWf_ite hwf.raise hwf.noRoll.upd.setMe))

theorem State.MemWf.lostTrap {s : State} {d : Nat} (hwf : s.MemWf) : (lostTrap s d).MemWf := hwf.setMe.raise

theorem State.MemWf.execTxwait {h : Hdr} {b : SReg} {s : State} (hwf : s.MemWf) : Out.MemWf (execTxwait h b s) := by
  unfold Machine.execTxwait
  refine hwf.issue ?_
  refine resWf_ite hwf.raise ?_
  split
  · exact hwf.lostTrap
  · exact resWf_ite hwf.setMe trivial

theorem State.MemWf.execTxend {h : Hdr} {b : SReg} {s : State} (hwf : s.MemWf) : Out.MemWf (execTxend h b s) :=
  hwf.issue (hwf.firm (resWf_ite hwf.raise (resWf_ite hwf.lostTrap (resWf_ite hwf.noRoll.endTicket trivial))))

theorem State.MemWf.setSeq {s : State} {d : Nat} {q : Sequencer} (hwf : s.MemWf) : (s.setSeq d q).MemWf := hwf.upd

theorem State.MemWf.execSubmissionAccepted {core : Nat} {ctx : Nat} {s : State} (hwf : s.MemWf) : Out.MemWf (execSubmissionAccepted core ctx s) := by
  unfold Machine.execSubmissionAccepted
  dsimp only
  split
  · exact outWf_ite (Out.MemWf.next hwf) (Out.MemWf.next hwf.upd.setSeq.setCtx.writeReg.finishWait)
  · exact Out.MemWf.next hwf

theorem State.MemWf.execBatchClose {die : Nat} {s : State} (hwf : s.MemWf) : Out.MemWf (execBatchClose die s) := hwf.event hwf.setSeq

theorem State.MemWf.applyRest {d : Nat} {es : List Slice} : ∀ {s : State}, s.MemWf → (s.applyRest d es).MemWf := by
  induction es with
  | nil => exact fun hwf => hwf.setSeq
  | cons e r ih =>
    intro s hwf
    unfold State.applyRest
    split
    · exact ih hwf.upd
    · exact hwf.setSeq

theorem State.MemWf.pruneBeats {s : State} (hwf : s.MemWf) : (s.pruneBeats).MemWf := hwf.upd

theorem State.MemWf.loseTicket {s : State} {core ctx born ticket d : Nat} (hwf : s.MemWf) : (s.loseTicket core ctx born ticket d).MemWf := by
  unfold State.loseTicket
  refine memWf_ite (memWf_ite hwf hwf.setCtx) ?_
  split
  · exact memWf_ite hwf hwf.setCore
  · exact hwf

theorem State.MemWf.markLost {s : State} {u : Subm} {d : Nat} (hwf : s.MemWf) : (s.markLost u d).MemWf := memWf_ite hwf.loseTicket hwf

theorem State.MemWf.execBatchApply {die : Nat} {s : State} (hwf : s.MemWf) : Out.MemWf (execBatchApply die s) := by
  unfold Machine.execBatchApply
  split
  · exact Out.MemWf.next hwf
  · exact outWf_ite (Out.MemWf.next hwf) (Out.MemWf.next ((((hwf.each (fun _ _ ht => ht.each (fun _ _ hw =>
      hw.markLost))).setSeq).applyRest).pruneBeats))

theorem State.MemWf.execSequencerApplyResume {die : Nat} {s : State} (hwf : s.MemWf) : Out.MemWf (execSequencerApplyResume die s) :=
  hwf.event hwf.applyRest.pruneBeats

theorem State.MemWf.noRollOut {s : State} {c born : Nat} (hwf : s.MemWf) : (s.noRollOut c born).MemWf := by
  unfold State.noRollOut
  split
  · exact hwf.setLaunch
  · exact hwf

theorem State.MemWf.deliverGrant {s : State} {e : Slice} (hwf : s.MemWf) : (s.deliverGrant e).MemWf := by
  unfold State.deliverGrant
  refine memWf_ite hwf.setCtx.noRoll ?_
  split
  · exact memWf_ite hwf hwf.setCore.noRollOut
  · exact hwf

theorem State.MemWf.execSliceGrant {idx : Nat} {s : State} (hwf : s.MemWf) : Out.MemWf (execSliceGrant idx s) := by
  unfold Machine.execSliceGrant
  split
  · exact Out.MemWf.next hwf
  · exact hwf.event hwf.upd.deliverGrant

theorem State.MemWf.execSliceRelease {idx : Nat} {s : State} (hwf : s.MemWf) : Out.MemWf (execSliceRelease idx s) := by
  unfold Machine.execSliceRelease
  split
  · exact Out.MemWf.next hwf
  · exact hwf.event hwf.upd

theorem State.MemWf.execTxHold {core : Nat} {ctx : Nat} {s : State} (hwf : s.MemWf) : Out.MemWf (execTxHold core ctx s) :=
  hwf.event hwf.setCtx.pendTrap

/-! ### Reset and boot (R278 to R282) -/

theorem State.MemWf.execRingcfgWrite {cluster ring : Nat} {value : Word} {s : State} (hwf : s.MemWf) :
    Out.MemWf (execRingcfgWrite cluster ring value s) := Out.MemWf.next (memWf_ite (memWf_getD hwf.ringWrite hwf) hwf)

theorem State.MemWf.execTrapqWrite {part k : Nat} {s : State} (hwf : s.MemWf) : Out.MemWf (execTrapqWrite part k s) := hwf.event hwf.releaseFatal

theorem State.MemWf.execFatalClear {part : Nat} {value : Word} {s : State} (hwf : s.MemWf) : Out.MemWf (execFatalClear part value s) :=
  hwf.event hwf.clearFatal

theorem State.MemWf.execVfctlWrite {island : Nat} {value : Word} {s : State} (hwf : s.MemWf) : Out.MemWf (execVfctlWrite island value s) :=
  hwf.event hwf.vfWrite

theorem State.MemWf.startL2 {s : State} {c x pc : Nat} {xlat : Word} (hwf : s.MemWf) : (s.startL2 c x pc xlat).MemWf := hwf.fresh.setCtx

theorem State.MemWf.execRegisterWrite {w : RegWrite} {s : State} (hwf : s.MemWf) : Out.MemWf (execRegisterWrite w s) := by
  unfold Machine.execRegisterWrite
  split
  · refine Out.MemWf.next (memWf_ite ?_ hwf)
    split
    · next hr => exact hwf.regWrite hr
    · exact hwf
  · exact hwf.event hwf.upd
  · exact hwf.event hwf.startL2
  · exact hwf.event hwf.setIsland
  · exact Out.MemWf.next (memWf_ite (memWf_getD hwf.pmapOp hwf) hwf)
  · exact hwf.event hwf.upd

theorem State.MemWf.execInboundRead {addr : HostPlace} {size : Nat} {s : State} (hwf : s.MemWf) : Out.MemWf (execInboundRead addr size s) := by
  unfold Machine.execInboundRead
  dsimp only
  split
  · exact hwf.event hwf.upd
  · exact hwf.event hwf.upd
  · exact hwf.event ((memWf_ite hwf.readDbword hwf).upd)
  · exact hwf.event hwf.upd
  · exact Out.MemWf.next hwf.upd

theorem State.MemWf.extend {s : State} {r : Nat} {value : List Byte} (hwf : s.MemWf) : (s.extend r value).MemWf := hwf.upd

theorem State.MemWf.execGetMeasurements {s : State} (hwf : s.MemWf) : Out.MemWf (execGetMeasurements s) := hwf.event hwf.upd

theorem State.MemWf.execMeasurementExtend {reg : Nat} {value : List Byte} {s : State} (hwf : s.MemWf) :
    Out.MemWf (execMeasurementExtend reg value s) := hwf.event hwf.extend

theorem State.MemWf.execFirmwareUpdate {reg : Nat} {value : List Byte} {s : State} (hwf : s.MemWf) : Out.MemWf (execFirmwareUpdate reg value s) :=
  hwf.event hwf.extend

theorem State.MemWf.wiped {s : State} (hwf : s.MemWf) : s.wiped.MemWf :=
  ⟨wf_filter _ _ hwf.1, rfl, fun _ he => absurd he List.not_mem_nil⟩

theorem State.MemWf.boot {s : State} {b : BootInput} (hwf : s.MemWf) : (s.boot b).MemWf :=
  memWf_ite hwf.upd (memWf_ite hwf.upd (memWf_ite ((hwf.each (fun _ _ ht => ht.extend)).upd)
    ((((hwf.each (fun _ _ ht => ht.extend)).upd).upd).each (fun _ _ ht => ht.setIsland))))

theorem State.MemWf.execDeviceReset {b : BootInput} {s : State} (hwf : s.MemWf) : Out.MemWf (execDeviceReset b s) := Out.MemWf.next hwf.wiped.boot

theorem State.MemWf.execLifeCycleAdvance {signed : Bool} {s : State} (hwf : s.MemWf) : Out.MemWf (execLifeCycleAdvance signed s) :=
  hwf.event hwf.wiped.upd

theorem State.MemWf.settleDie {s : State} {d : Nat} (hwf : s.MemWf) : (s.settleDie d).MemWf := hwf.each (fun _ _ ht => ht.performAt)

theorem State.MemWf.loseSlices {s : State} {d : Nat} (hwf : s.MemWf) : (s.loseSlices d).MemWf :=
  ((hwf.each (fun _ _ ht => ht.loseTicket)).each (fun _ _ ht => ht.markLost)).upd

theorem State.MemWf.stopDie {s : State} {d : Nat} (hwf : s.MemWf) : (s.stopDie d).MemWf :=
  ((((hwf.each (fun _ _ ht => ht.endLaunch)).each (fun _ _ ht => ht.stopCore.endAway)).upd).setSeq).upd

theorem State.MemWf.execDieReset {die : Nat} {s : State} (hwf : s.MemWf) : Out.MemWf (execDieReset die s) :=
  outWf_ite (Out.MemWf.next hwf) (Out.MemWf.next (hwf.settleDie.upd.loseSlices.stopDie.each (fun _ _ ht => ht.postFatal)))

theorem State.MemWf.execDieResetComplete {die : Nat} {s : State} (hwf : s.MemWf) : Out.MemWf (execDieResetComplete die s) :=
  outWf_ite (Out.MemWf.next hwf) (Out.MemWf.next (((((hwf.upd.each (fun _ _ ht => ht.goNext)).each
    (fun _ _ ht => ht.wipeCluster)).setSeq).upd).pruneBeats))

theorem State.MemWf.newKey {s : State} {p : Nat} (hwf : s.MemWf) : (s.newKey p).MemWf := hwf.setPart

theorem State.MemWf.execPartitionCreation {part vdev : Nat} {s : State} (hwf : s.MemWf) : Out.MemWf (execPartitionCreation part vdev s) :=
  hwf.event hwf.newKey.setPart

theorem State.MemWf.execPartitionTeardown {part : Nat} {pages : List Nat} {s : State} (hwf : s.MemWf) :
    Out.MemWf (execPartitionTeardown part pages s) :=
  outWf_ite (Out.MemWf.next hwf) (Out.MemWf.next ((((((hwf.abandon.each (fun _ _ ht => ht.endLaunch)).upd).each
    (fun _ _ ht => ((ht.each (fun _ _ hu => hu.stopCore)).wipeCluster).setCluster)).each
    (fun _ _ ht => ht.each (fun _ _ hu => hu.devWipe))).setPart).newKey))

theorem State.MemWf.execThermalStep {island : Nat} {temp : BitVec 8} {s : State} (hwf : s.MemWf) : Out.MemWf (execThermalStep island temp s) :=
  hwf.event hwf.setIsland

theorem State.MemWf.execPointChangeDone {island : Nat} {s : State} (hwf : s.MemWf) : Out.MemWf (execPointChangeDone island s) := hwf.event hwf.upd

end Sys2Proof.Machine
end

section
/-!
O8: scalar and vector instructions, and migration.
-/

namespace Sys2Proof.Machine

open Sys2Proof

/-! ### Scalar floats -/

theorem State.MemWf.floatOp {x : OpFA} {f : Rnd → Nat → Nat → Nat} {s : State} (hwf : s.MemWf) : (floatOp x f s).MemWf := hwf.setMe

theorem State.MemWf.fcmpOp {c : Cond} {x : OpFCmp} {s : State} (hwf : s.MemWf) : (fcmpOp c x s).MemWf := hwf.setMe

theorem State.MemWf.execFadd {h : Hdr} {x : OpFA} {s : State} (hwf : s.MemWf) : Out.MemWf (execFadd h x s) := hwf.issue hwf.floatOp

theorem State.MemWf.execFsub {h : Hdr} {x : OpFA} {s : State} (hwf : s.MemWf) : Out.MemWf (execFsub h x s) := hwf.issue hwf.floatOp

theorem State.MemWf.execFmul {h : Hdr} {x : OpFA} {s : State} (hwf : s.MemWf) : Out.MemWf (execFmul h x s) := hwf.issue hwf.floatOp

theorem State.MemWf.execFdiv {h : Hdr} {x : OpFA} {s : State} (hwf : s.MemWf) : Out.MemWf (execFdiv h x s) := hwf.issue hwf.floatOp

theorem State.MemWf.execFmin {h : Hdr} {x : OpFA} {s : State} (hwf : s.MemWf) : Out.MemWf (execFmin h x s) := hwf.issue hwf.floatOp

theorem State.MemWf.execFmax {h : Hdr} {x : OpFA} {s : State} (hwf : s.MemWf) : Out.MemWf (execFmax h x s) := hwf.issue hwf.floatOp

theorem State.MemWf.execFfma {h : Hdr} {x : OpFA} {s : State} (hwf : s.MemWf) : Out.MemWf (execFfma h x s) := hwf.issue hwf.floatOp

theorem State.MemWf.execFsqrt {h : Hdr} {x : OpFU} {s : State} (hwf : s.MemWf) : Out.MemWf (execFsqrt h x s) := hwf.issue hwf.setMe

theorem State.MemWf.execFcvt {h : Hdr} {x : OpCvt} {s : State} (hwf : s.MemWf) : Out.MemWf (execFcvt h x s) := hwf.issue hwf.setMe

theorem State.MemWf.execFcmpEq {h : Hdr} {x : OpFCmp} {s : State} (hwf : s.MemWf) : Out.MemWf (execFcmpEq h x s) := hwf.issue hwf.fcmpOp

theorem State.MemWf.execFcmpNe {h : Hdr} {x : OpFCmp} {s : State} (hwf : s.MemWf) : Out.MemWf (execFcmpNe h x s) := hwf.issue hwf.fcmpOp

theorem State.MemWf.execFcmpLt {h : Hdr} {x : OpFCmp} {s : State} (hwf : s.MemWf) : Out.MemWf (execFcmpLt h x s) := hwf.issue hwf.fcmpOp

theorem State.MemWf.execFcmpLe {h : Hdr} {x : OpFCmp} {s : State} (hwf : s.MemWf) : Out.MemWf (execFcmpLe h x s) := hwf.issue hwf.fcmpOp

theorem State.MemWf.execFcmpGt {h : Hdr} {x : OpFCmp} {s : State} (hwf : s.MemWf) : Out.MemWf (execFcmpGt h x s) := hwf.issue hwf.fcmpOp

theorem State.MemWf.execFcmpGe {h : Hdr} {x : OpFCmp} {s : State} (hwf : s.MemWf) : Out.MemWf (execFcmpGe h x s) := hwf.issue hwf.fcmpOp

theorem State.MemWf.execFcmpUn {h : Hdr} {x : OpFCmp} {s : State} (hwf : s.MemWf) : Out.MemWf (execFcmpUn h x s) := hwf.issue hwf.fcmpOp

/-! ### Scalar integers -/

theorem State.MemWf.intOp {x : OpRRI} {f : Nat → Nat → Nat} {s : State} (hwf : s.MemWf) : (intOp x f s).MemWf := hwf.setMe

theorem State.MemWf.cmpOp {c : Cond} {x : OpCmp} {s : State} (hwf : s.MemWf) : (cmpOp c x s).MemWf := hwf.setMe

theorem State.MemWf.ptrPart {x : OpRR} {hi lo : Nat} {s : State} (hwf : s.MemWf) : (ptrPart x hi lo s).MemWf := hwf.setMe

theorem State.MemWf.execAdd {h : Hdr} {x : OpRRI} {s : State} (hwf : s.MemWf) : Out.MemWf (execAdd h x s) := hwf.issue hwf.intOp

theorem State.MemWf.execSub {h : Hdr} {x : OpRRI} {s : State} (hwf : s.MemWf) : Out.MemWf (execSub h x s) := hwf.issue hwf.intOp

theorem State.MemWf.execMul {h : Hdr} {x : OpRRI} {s : State} (hwf : s.MemWf) : Out.MemWf (execMul h x s) := hwf.issue hwf.intOp

theorem State.MemWf.execMulh {h : Hdr} {x : OpRRI} {s : State} (hwf : s.MemWf) : Out.MemWf (execMulh h x s) := hwf.issue hwf.intOp

theorem State.MemWf.execDiv {h : Hdr} {x : OpRRI} {s : State} (hwf : s.MemWf) : Out.MemWf (execDiv h x s) := hwf.issue hwf.intOp

theorem State.MemWf.execRem {h : Hdr} {x : OpRRI} {s : State} (hwf : s.MemWf) : Out.MemWf (execRem h x s) := hwf.issue hwf.intOp

theorem State.MemWf.execAnd {h : Hdr} {x : OpRRI} {s : State} (hwf : s.MemWf) : Out.MemWf (execAnd h x s) := hwf.issue hwf.intOp

theorem State.MemWf.execOr {h : Hdr} {x : OpRRI} {s : State} (hwf : s.MemWf) : Out.MemWf (execOr h x s) := hwf.issue hwf.intOp

theorem State.MemWf.execXor {h : Hdr} {x : OpRRI} {s : State} (hwf : s.MemWf) : Out.MemWf (execXor h x s) := hwf.issue hwf.intOp

theorem State.MemWf.execShl {h : Hdr} {x : OpRRI} {s : State} (hwf : s.MemWf) : Out.MemWf (execShl h x s) := hwf.issue hwf.intOp

theorem State.MemWf.execShr {h : Hdr} {x : OpRRI} {s : State} (hwf : s.MemWf) : Out.MemWf (execShr h x s) := hwf.issue hwf.intOp

theorem State.MemWf.execSar {h : Hdr} {x : OpRRI} {s : State} (hwf : s.MemWf) : Out.MemWf (execSar h x s) := hwf.issue hwf.intOp

theorem State.MemWf.execMin {h : Hdr} {x : OpRRI} {s : State} (hwf : s.MemWf) : Out.MemWf (execMin h x s) := hwf.issue hwf.intOp

theorem State.MemWf.execMax {h : Hdr} {x : OpRRI} {s : State} (hwf : s.MemWf) : Out.MemWf (execMax h x s) := hwf.issue hwf.intOp

theorem State.MemWf.execSel {h : Hdr} {x : OpSel} {s : State} (hwf : s.MemWf) : Out.MemWf (execSel h x s) := hwf.issue hwf.setMe

theorem State.MemWf.execLi {h : Hdr} {x : OpImm} {s : State} (hwf : s.MemWf) : Out.MemWf (execLi h x s) := hwf.issue hwf.setMe

theorem State.MemWf.execLui {h : Hdr} {x : OpImm} {s : State} (hwf : s.MemWf) : Out.MemWf (execLui h x s) := hwf.issue hwf.setMe

theorem State.MemWf.execMov {h : Hdr} {x : OpMov} {s : State} (hwf : s.MemWf) : Out.MemWf (execMov h x s) := hwf.issue hwf.setMe

theorem State.MemWf.execCmpEq {h : Hdr} {x : OpCmp} {s : State} (hwf : s.MemWf) : Out.MemWf (execCmpEq h x s) := hwf.issue hwf.cmpOp

theorem State.MemWf.execCmpNe {h : Hdr} {x : OpCmp} {s : State} (hwf : s.MemWf) : Out.MemWf (execCmpNe h x s) := hwf.issue hwf.cmpOp

theorem State.MemWf.execCmpLt {h : Hdr} {x : OpCmp} {s : State} (hwf : s.MemWf) : Out.MemWf (execCmpLt h x s) := hwf.issue hwf.cmpOp

theorem State.MemWf.execCmpLe {h : Hdr} {x : OpCmp} {s : State} (hwf : s.MemWf) : Out.MemWf (execCmpLe h x s) := hwf.issue hwf.cmpOp

theorem State.MemWf.execCmpGt {h : Hdr} {x : OpCmp} {s : State} (hwf : s.MemWf) : Out.MemWf (execCmpGt h x s) := hwf.issue hwf.cmpOp

theorem State.MemWf.execCmpGe {h : Hdr} {x : OpCmp} {s : State} (hwf : s.MemWf) : Out.MemWf (execCmpGe h x s) := hwf.issue hwf.cmpOp

theorem State.MemWf.execPtag {h : Hdr} {x : OpPtr} {s : State} (hwf : s.MemWf) : Out.MemWf (execPtag h x s) := hwf.issue (hwf.need hwf.setMe)

theorem State.MemWf.execPspace {h : Hdr} {x : OpRR} {s : State} (hwf : s.MemWf) : Out.MemWf (execPspace h x s) := hwf.issue hwf.ptrPart

theorem State.MemWf.execPowner {h : Hdr} {x : OpRR} {s : State} (hwf : s.MemWf) : Out.MemWf (execPowner h x s) := hwf.issue hwf.ptrPart

theorem State.MemWf.execPoff {h : Hdr} {x : OpRR} {s : State} (hwf : s.MemWf) : Out.MemWf (execPoff h x s) := hwf.issue hwf.ptrPart

theorem State.MemWf.execPadd {h : Hdr} {x : OpPtr} {s : State} (hwf : s.MemWf) : Out.MemWf (execPadd h x s) := hwf.issue (hwf.need hwf.setMe)

/-! ### Loads and stores -/

theorem State.MemWf.execLd {h : Hdr} {x : OpLd} {s : State} (hwf : s.MemWf) : Out.MemWf (execLd h x s) := hwf.issue hwf.memOp

theorem State.MemWf.execLdAcq {h : Hdr} {x : OpLdO} {s : State} (hwf : s.MemWf) : Out.MemWf (execLdAcq h x s) := hwf.issue hwf.memOp

theorem State.MemWf.execSt {h : Hdr} {x : OpLd} {s : State} (hwf : s.MemWf) : Out.MemWf (execSt h x s) := hwf.issue hwf.memOp

theorem State.MemWf.execStRel {h : Hdr} {x : OpLdO} {s : State} (hwf : s.MemWf) : Out.MemWf (execStRel h x s) := hwf.issue hwf.memOp

theorem State.MemWf.execLdg {h : Hdr} {x : OpLd} {s : State} (hwf : s.MemWf) : Out.MemWf (execLdg h x s) := hwf.issue hwf.memOp

theorem State.MemWf.execLdgAcq {h : Hdr} {x : OpLdO} {s : State} (hwf : s.MemWf) : Out.MemWf (execLdgAcq h x s) := hwf.issue hwf.memOp

theorem State.MemWf.execStg {h : Hdr} {x : OpLd} {s : State} (hwf : s.MemWf) : Out.MemWf (execStg h x s) := hwf.issue hwf.memOp

theorem State.MemWf.execStgRel {h : Hdr} {x : OpLdO} {s : State} (hwf : s.MemWf) : Out.MemWf (execStgRel h x s) := hwf.issue hwf.memOp

theorem State.MemWf.execLdh {h : Hdr} {x : OpLd} {s : State} (hwf : s.MemWf) : Out.MemWf (execLdh h x s) := hwf.issue hwf.memOp

theorem State.MemWf.execLdhAcq {h : Hdr} {x : OpLdO} {s : State} (hwf : s.MemWf) : Out.MemWf (execLdhAcq h x s) := hwf.issue hwf.memOp

theorem State.MemWf.execSth {h : Hdr} {x : OpLd} {s : State} (hwf : s.MemWf) : Out.MemWf (execSth h x s) := hwf.issue hwf.memOp

theorem State.MemWf.execSthRel {h : Hdr} {x : OpLdO} {s : State} (hwf : s.MemWf) : Out.MemWf (execSthRel h x s) := hwf.issue hwf.memOp

theorem State.MemWf.prefetch {s : State} {va : Nat} (hwf : s.MemWf) : (s.prefetch va).MemWf := by
  unfold State.prefetch
  dsimp only
  split
  · exact hwf
  · exact hwf.fillFirst
  · exact hwf.startWalk

theorem State.MemWf.execPref {h : Hdr} {x : OpPref} {s : State} (hwf : s.MemWf) : Out.MemWf (execPref h x s) := by
  unfold Machine.execPref
  refine hwf.issue ?_
  split
  · exact hwf
  · split
    · exact hwf.prefetch
    · exact hwf.prefetch
    · exact hwf

/-! ### Maps, stops and cuts (R266, R274, R337 to R339) -/

theorem State.MemWf.remap {s : State} (hwf : s.MemWf) {new : Nat} : (s.remap new).MemWf :=
  ⟨wf_foldl (fun m _ h => Memory.set_wf m _ _ h) _ rfl,
    wf_foldl (fun _ _ h => wf_foldl (fun m _ h => Memory.set_wf m _ _ h) _ h) _ rfl, hwf.2.2⟩

theorem State.MemWf.execVdiemapWrite {value : Word} {s : State} (hwf : s.MemWf) : Out.MemWf (execVdiemapWrite value s) := by
  unfold Machine.execVdiemapWrite
  dsimp only
  split
  · exact hwf.event hwf.remap.upd
  · exact hwf.event hwf.invalidate.upd

theorem State.MemWf.execDbword {s : State} (hwf : s.MemWf) : Out.MemWf (execDbword s) := Out.MemWf.next hwf.readDbword.upd

theorem State.MemWf.beginStop {s : State} (hwf : s.MemWf) {addr : Nat} {job : Option Nat} : (s.beginStop addr job).MemWf :=
  ⟨hwf.1, hwf.2.1, staging_map hwf (f := fun k => { k with enabled := false }) (fun _ => rfl)⟩

theorem State.MemWf.advanceStop {s : State} (hwf : s.MemWf) : (s.advanceStop).MemWf :=
  memWf_ite hwf (memWf_ite ((memWf_ite hwf.devWrite hwf).upd) (hwf.each (fun _ _ ht => ht.preemptQueue)))

theorem State.MemWf.execMigrationStop {addr : Nat} {s : State} (hwf : s.MemWf) : Out.MemWf (execMigrationStop addr s) := by
  unfold Machine.execMigrationStop
  split
  · exact Out.MemWf.next (memWf_ite hwf.advanceStop hwf)
  · exact outWf_ite (Out.MemWf.next hwf) (outWf_ite (Out.MemWf.next hwf.upd) (Out.MemWf.next hwf.beginStop))

theorem State.MemWf.execJobCut {job : BitVec 32} {s : State} (hwf : s.MemWf) : Out.MemWf (execJobCut job s) := by
  unfold Machine.execJobCut
  dsimp only
  split
  · exact outWf_ite (Out.MemWf.next hwf) (outWf_ite (Out.MemWf.next hwf.upd) (Out.MemWf.next hwf.advanceStop))
  · exact Out.MemWf.next hwf
  · exact outWf_ite (Out.MemWf.next hwf.upd) (Out.MemWf.next hwf.upd.beginStop)

theorem State.MemWf.restoreQueue {s : State} {q : QImage} (hwf : s.MemWf) : (s.restoreQueue q).MemWf := by
  unfold State.restoreQueue
  refine (hwf.setQueue ?_).chainWrite
  exact hwf.staging _

theorem State.MemWf.adoptLaunch {s : State} {w base : Nat} (hwf : s.MemWf) {t' : State} (hr : s.adoptLaunch w base = some t') : t'.MemWf := by
  unfold State.adoptLaunch at hr
  dsimp only at hr
  split at hr
  · cases hr
  · cases hr
    exact (hwf.each (fun _ _ ht => ht.setCore.upd)).upd

theorem State.MemWf.resumeLaunch {s : State} (hwf : s.MemWf) {q seq : Nat} {t : State} (hr : s.resumeLaunch q seq = some t) : t.MemWf := by
  unfold State.resumeLaunch at hr
  split at hr
  · cases hr
  · refine memWf_foldl_bind (f := fun t (p : Parked) => t.resumeCore p.base p.core) (fun _ _ _ hu => hu.resumeCore) _ ?_ hr
    rintro _ ⟨⟩
    exact hwf

theorem State.MemWf.restoreLaunch {s : State} (hwf : s.MemWf) {w u : Nat} {t : State} (hr : s.restoreLaunch w u = some t) : t.MemWf := by
  refine memWf_bind (fun hu => ?_) (fun _ _ hv => hv.resumeLaunch) hr
  split at hu
  · cases hu
    exact hwf
  · exact hwf.adoptLaunch hu

theorem State.MemWf.restoreChain {s : State} {w : Nat} (hwf : s.MemWf) : (s.restoreChain w).MemWf := memWf_ite hwf hwf.fresh.upd

theorem State.MemWf.releaseFlits {s : State} (hwf : s.MemWf) : (s.releaseFlits).MemWf :=
  hwf.each (fun _ _ ht => ht.setLink.each (fun _ _ hu => hu.deliverFlit))

theorem State.MemWf.execStopImageRestore {addr : Nat} {s : State} (hwf : s.MemWf) : Out.MemWf (execStopImageRestore addr s) := by
  unfold Machine.execStopImageRestore
  dsimp only
  refine outWf_ite (Out.MemWf.next hwf) ?_
  split
  · exact Out.MemWf.next ⟨hwf.1, hwf.2.1, staging_map hwf (f := fun k => { k with enabled := false }) (fun _ => rfl)⟩
  · next hr =>
    refine Out.MemWf.next (State.MemWf.releaseFlits (State.MemWf.each (State.MemWf.each ?_ (fun _ q ht => ht.setQueue (by exact ht.staging _)))
      (fun _ _ ht => ht.restoreChain)))
    split at hr
    · cases hr
    · refine memWf_foldl_bind (fun _ _ _ hu => hu.restoreLaunch) _ ?_ hr
      rintro _ ⟨⟩
      exact hwf.upd.each (fun _ _ ht => ht.restoreQueue)

/-! ### Special functions -/

theorem State.MemWf.sfnOp {f : Sfn} {x : OpSfn} {s : State} (hwf : s.MemWf) : (sfnOp f x s).MemWf := by
  unfold Machine.sfnOp
  dsimp only
  split <;> exact hwf.setMe

theorem State.MemWf.execExp2 {h : Hdr} {x : OpSfn} {s : State} (hwf : s.MemWf) : Out.MemWf (execExp2 h x s) := hwf.issue hwf.sfnOp

theorem State.MemWf.execLog2 {h : Hdr} {x : OpSfn} {s : State} (hwf : s.MemWf) : Out.MemWf (execLog2 h x s) := hwf.issue hwf.sfnOp

theorem State.MemWf.execExp {h : Hdr} {x : OpSfn} {s : State} (hwf : s.MemWf) : Out.MemWf (execExp h x s) := hwf.issue hwf.sfnOp

theorem State.MemWf.execLog {h : Hdr} {x : OpSfn} {s : State} (hwf : s.MemWf) : Out.MemWf (execLog h x s) := hwf.issue hwf.sfnOp

theorem State.MemWf.execRcp {h : Hdr} {x : OpSfn} {s : State} (hwf : s.MemWf) : Out.MemWf (execRcp h x s) := hwf.issue hwf.sfnOp

theorem State.MemWf.execRsqrt {h : Hdr} {x : OpSfn} {s : State} (hwf : s.MemWf) : Out.MemWf (execRsqrt h x s) := hwf.issue hwf.sfnOp

theorem State.MemWf.execTanh {h : Hdr} {x : OpSfn} {s : State} (hwf : s.MemWf) : Out.MemWf (execTanh h x s) := hwf.issue hwf.sfnOp

theorem State.MemWf.execSigm {h : Hdr} {x : OpSfn} {s : State} (hwf : s.MemWf) : Out.MemWf (execSigm h x s) := hwf.issue hwf.sfnOp

/-! ### Vectors -/

theorem State.MemWf.vecOp {x : OpVA} {f : Rnd → Nat → Nat → Nat → Nat} {s : State} (hwf : s.MemWf) : (vecOp x f s).MemWf := hwf.setMe

theorem State.MemWf.vcmpOp {c : Cond} {x : OpVCmp} {s : State} (hwf : s.MemWf) : (vcmpOp c x s).MemWf := hwf.setMe

theorem State.MemWf.execVadd {h : Hdr} {x : OpVA} {s : State} (hwf : s.MemWf) : Out.MemWf (execVadd h x s) := hwf.issue hwf.vecOp

theorem State.MemWf.execVsub {h : Hdr} {x : OpVA} {s : State} (hwf : s.MemWf) : Out.MemWf (execVsub h x s) := hwf.issue hwf.vecOp

theorem State.MemWf.execVmul {h : Hdr} {x : OpVA} {s : State} (hwf : s.MemWf) : Out.MemWf (execVmul h x s) := hwf.issue hwf.vecOp

theorem State.MemWf.execVfma {h : Hdr} {x : OpVA} {s : State} (hwf : s.MemWf) : Out.MemWf (execVfma h x s) := hwf.issue hwf.vecOp

theorem State.MemWf.execVmin {h : Hdr} {x : OpVA} {s : State} (hwf : s.MemWf) : Out.MemWf (execVmin h x s) := hwf.issue hwf.vecOp

theorem State.MemWf.execVmax {h : Hdr} {x : OpVA} {s : State} (hwf : s.MemWf) : Out.MemWf (execVmax h x s) := hwf.issue hwf.vecOp

theorem State.MemWf.execVand {h : Hdr} {x : OpVA} {s : State} (hwf : s.MemWf) : Out.MemWf (execVand h x s) := hwf.issue hwf.vecOp

theorem State.MemWf.execVor {h : Hdr} {x : OpVA} {s : State} (hwf : s.MemWf) : Out.MemWf (execVor h x s) := hwf.issue hwf.vecOp

theorem State.MemWf.execVxor {h : Hdr} {x : OpVA} {s : State} (hwf : s.MemWf) : Out.MemWf (execVxor h x s) := hwf.issue hwf.vecOp

theorem State.MemWf.execVcmpEq {h : Hdr} {x : OpVCmp} {s : State} (hwf : s.MemWf) : Out.MemWf (execVcmpEq h x s) := hwf.issue hwf.vcmpOp

theorem State.MemWf.execVcmpNe {h : Hdr} {x : OpVCmp} {s : State} (hwf : s.MemWf) : Out.MemWf (execVcmpNe h x s) := hwf.issue hwf.vcmpOp

theorem State.MemWf.execVcmpLt {h : Hdr} {x : OpVCmp} {s : State} (hwf : s.MemWf) : Out.MemWf (execVcmpLt h x s) := hwf.issue hwf.vcmpOp

theorem State.MemWf.execVcmpLe {h : Hdr} {x : OpVCmp} {s : State} (hwf : s.MemWf) : Out.MemWf (execVcmpLe h x s) := hwf.issue hwf.vcmpOp

theorem State.MemWf.execVcmpGt {h : Hdr} {x : OpVCmp} {s : State} (hwf : s.MemWf) : Out.MemWf (execVcmpGt h x s) := hwf.issue hwf.vcmpOp

theorem State.MemWf.execVcmpGe {h : Hdr} {x : OpVCmp} {s : State} (hwf : s.MemWf) : Out.MemWf (execVcmpGe h x s) := hwf.issue hwf.vcmpOp

theorem State.MemWf.execVcmpUn {h : Hdr} {x : OpVCmp} {s : State} (hwf : s.MemWf) : Out.MemWf (execVcmpUn h x s) := hwf.issue hwf.vcmpOp

theorem State.MemWf.execVsel {h : Hdr} {x : OpVSel} {s : State} (hwf : s.MemWf) : Out.MemWf (execVsel h x s) := hwf.issue hwf.setMe

theorem State.MemWf.execVbcast {h : Hdr} {x : OpVBc} {s : State} (hwf : s.MemWf) : Out.MemWf (execVbcast h x s) := hwf.issue hwf.setMe

theorem State.MemWf.execVshuf {h : Hdr} {x : OpVShuf} {s : State} (hwf : s.MemWf) : Out.MemWf (execVshuf h x s) := hwf.issue hwf.setMe

theorem State.MemWf.execVred {h : Hdr} {x : OpVRed} {s : State} (hwf : s.MemWf) : Out.MemWf (execVred h x s) := hwf.issue hwf.setMe

theorem State.MemWf.execVcvt {h : Hdr} {x : OpVCvt} {s : State} (hwf : s.MemWf) : Out.MemWf (execVcvt h x s) := hwf.issue hwf.setMe

theorem State.MemWf.execVld {h : Hdr} {x : OpVMem} {s : State} (hwf : s.MemWf) : Out.MemWf (execVld h x s) := hwf.issue hwf.memOp

theorem State.MemWf.execVst {h : Hdr} {x : OpVMem} {s : State} (hwf : s.MemWf) : Out.MemWf (execVst h x s) := hwf.issue hwf.memOp

/-! ### Sweeps (R82 to R88) -/

theorem State.MemWf.sweepRead {s : State} {m : Midway} {o n i : Nat} {k : Nat → Res} (hwf : s.MemWf) (hk : ∀ t, (k t).MemWf) :
    (sweepRead s m o n i k).MemWf := by
  unfold Machine.sweepRead
  split
  · exact hwf.raiseAt
  · exact resWf_ite hwf.raiseAt (hk _)

theorem State.MemWf.sweepRun {s : State} {segs : List (Nat × Nat)} {rlen : Nat} {rd : Bool} {f : Nat → Nat → Nat} (hwf : s.MemWf) :
    (sweepRun s segs rlen rd f).MemWf := by
  unfold Machine.sweepRun
  refine resWf_ite (hwf.sweepRead (fun _ => hwf.stepMid)) (resWf_ite (hwf.sweepRead (fun _ => hwf.stepMid)) ?_)
  split
  · exact hwf.raiseAt
  · exact resWf_ite hwf.bankWrite.stepMid hwf.bankWrite

theorem State.MemWf.sweepOp {dst src : SwAddr} {n : Nat} {dty sty : ETy} {rlen alen : Nat} {rd : Bool} {f : Nat → Nat → Nat} {s : State}
    (hwf : s.MemWf) :
    (sweepOp dst src n dty sty rlen alen rd f s).MemWf := by
  unfold Machine.sweepOp
  split
  · refine resWf_ite hwf.sweepRun (hwf.firm ?_)
    split
    · exact hwf.raiseAt
    · exact resWf_ite hwf.raise (resWf_ite trivial hwf.sweepRun)
  · exact hwf.raiseAt
  · exact hwf.raiseAt

theorem State.MemWf.sweepLanes {x : OpSw} {rd : Bool} {f : Rnd → Nat → Nat → Nat → Nat} {s : State} (hwf : s.MemWf) : (sweepLanes x rd f s).MemWf :=
  hwf.sweepOp

theorem State.MemWf.execWadd {h : Hdr} {x : OpSw} {s : State} (hwf : s.MemWf) : Out.MemWf (execWadd h x s) := hwf.issue hwf.sweepLanes

theorem State.MemWf.execWsub {h : Hdr} {x : OpSw} {s : State} (hwf : s.MemWf) : Out.MemWf (execWsub h x s) := hwf.issue hwf.sweepLanes

theorem State.MemWf.execWmul {h : Hdr} {x : OpSw} {s : State} (hwf : s.MemWf) : Out.MemWf (execWmul h x s) := hwf.issue hwf.sweepLanes

theorem State.MemWf.execWfma {h : Hdr} {x : OpSw} {s : State} (hwf : s.MemWf) : Out.MemWf (execWfma h x s) := hwf.issue hwf.sweepLanes

theorem State.MemWf.execWmin {h : Hdr} {x : OpSw} {s : State} (hwf : s.MemWf) : Out.MemWf (execWmin h x s) := hwf.issue hwf.sweepLanes

theorem State.MemWf.execWmax {h : Hdr} {x : OpSw} {s : State} (hwf : s.MemWf) : Out.MemWf (execWmax h x s) := hwf.issue hwf.sweepLanes

theorem State.MemWf.execWcvt {h : Hdr} {x : OpSwCvt} {s : State} (hwf : s.MemWf) : Out.MemWf (execWcvt h x s) := hwf.issue hwf.sweepOp

theorem State.MemWf.execWclamp {h : Hdr} {x : OpSwV} {s : State} (hwf : s.MemWf) : Out.MemWf (execWclamp h x s) := hwf.issue hwf.sweepOp

theorem State.MemWf.redRun {x : OpSwRed} {ss : List Nat} {s : State} (hwf : s.MemWf) : (redRun x ss s).MemWf := by
  unfold Machine.redRun
  exact hwf.sweepRead (fun _ => resWf_ite hwf.stepMid hwf.setMe)

theorem State.MemWf.execWred {h : Hdr} {x : OpSwRed} {s : State} (hwf : s.MemWf) : Out.MemWf (execWred h x s) := by
  unfold Machine.execWred
  refine hwf.issue ?_
  split
  · exact hwf.raiseAt
  · refine resWf_ite hwf.redRun ?_
    split
    · exact hwf.raiseAt
    · exact resWf_ite trivial hwf.redRun

theorem State.MemWf.execWcopy {h : Hdr} {x : OpSwCopy} {s : State} (hwf : s.MemWf) : Out.MemWf (execWcopy h x s) := hwf.issue hwf.sweepOp

end Sys2Proof.Machine
end

section
/-!
O8: the instructions, the events and the step.
-/

namespace Sys2Proof.Machine

open Sys2Proof

/-! ### The instructions and the events -/

theorem State.MemWf.exec {s : State} (hwf : s.MemWf) {i : Instr} : Out.MemWf (exec i s) := by
  cases i with
  | add => exact hwf.execAdd
  | sub => exact hwf.execSub
  | mul => exact hwf.execMul
  | mulh => exact hwf.execMulh
  | div => exact hwf.execDiv
  | rem => exact hwf.execRem
  | and => exact hwf.execAnd
  | or => exact hwf.execOr
  | xor => exact hwf.execXor
  | shl => exact hwf.execShl
  | shr => exact hwf.execShr
  | sar => exact hwf.execSar
  | min => exact hwf.execMin
  | max => exact hwf.execMax
  | sel => exact hwf.execSel
  | li => exact hwf.execLi
  | lui => exact hwf.execLui
  | mov => exact hwf.execMov
  | cmpEq => exact hwf.execCmpEq
  | cmpNe => exact hwf.execCmpNe
  | cmpLt => exact hwf.execCmpLt
  | cmpLe => exact hwf.execCmpLe
  | cmpGt => exact hwf.execCmpGt
  | cmpGe => exact hwf.execCmpGe
  | ptag => exact hwf.execPtag
  | pspace => exact hwf.execPspace
  | powner => exact hwf.execPowner
  | poff => exact hwf.execPoff
  | padd => exact hwf.execPadd
  | fadd => exact hwf.execFadd
  | fsub => exact hwf.execFsub
  | fmul => exact hwf.execFmul
  | ffma => exact hwf.execFfma
  | fdiv => exact hwf.execFdiv
  | fsqrt => exact hwf.execFsqrt
  | fmin => exact hwf.execFmin
  | fmax => exact hwf.execFmax
  | fcvt => exact hwf.execFcvt
  | fcmpEq => exact hwf.execFcmpEq
  | fcmpNe => exact hwf.execFcmpNe
  | fcmpLt => exact hwf.execFcmpLt
  | fcmpLe => exact hwf.execFcmpLe
  | fcmpGt => exact hwf.execFcmpGt
  | fcmpGe => exact hwf.execFcmpGe
  | fcmpUn => exact hwf.execFcmpUn
  | nop => exact hwf.execNop
  | br => exact hwf.execBr
  | bcZ => exact hwf.execBcZ
  | bcNz => exact hwf.execBcNz
  | call => exact hwf.execCall
  | ret => exact hwf.execRet
  | jmp => exact hwf.execJmp
  | loop => exact hwf.execLoop
  | uend => exact hwf.execUend
  | trapi => exact hwf.execTrapi
  | vadd => exact hwf.execVadd
  | vsub => exact hwf.execVsub
  | vmul => exact hwf.execVmul
  | vfma => exact hwf.execVfma
  | vmin => exact hwf.execVmin
  | vmax => exact hwf.execVmax
  | vand => exact hwf.execVand
  | vor => exact hwf.execVor
  | vxor => exact hwf.execVxor
  | vsel => exact hwf.execVsel
  | vcvt => exact hwf.execVcvt
  | vred => exact hwf.execVred
  | vbcast => exact hwf.execVbcast
  | vshuf => exact hwf.execVshuf
  | vcmpEq => exact hwf.execVcmpEq
  | vcmpNe => exact hwf.execVcmpNe
  | vcmpLt => exact hwf.execVcmpLt
  | vcmpLe => exact hwf.execVcmpLe
  | vcmpGt => exact hwf.execVcmpGt
  | vcmpGe => exact hwf.execVcmpGe
  | vcmpUn => exact hwf.execVcmpUn
  | vld => exact hwf.execVld
  | vst => exact hwf.execVst
  | wadd => exact hwf.execWadd
  | wsub => exact hwf.execWsub
  | wmul => exact hwf.execWmul
  | wfma => exact hwf.execWfma
  | wmin => exact hwf.execWmin
  | wmax => exact hwf.execWmax
  | wcvt => exact hwf.execWcvt
  | wclamp => exact hwf.execWclamp
  | wred => exact hwf.execWred
  | wcopy => exact hwf.execWcopy
  | exp2 => exact hwf.execExp2
  | log2 => exact hwf.execLog2
  | exp => exact hwf.execExp
  | log => exact hwf.execLog
  | rcp => exact hwf.execRcp
  | rsqrt => exact hwf.execRsqrt
  | tanh => exact hwf.execTanh
  | sigm => exact hwf.execSigm
  | mldA => exact hwf.execMldA
  | mldB => exact hwf.execMldB
  | mzero => exact hwf.execMzero
  | mmac => exact hwf.execMmac
  | mmacSp => exact hwf.execMmacSp
  | mscale => exact hwf.execMscale
  | mepi => exact hwf.execMepi
  | mdrain => exact hwf.execMdrain
  | mstat => exact hwf.execMstat
  | mrepl => exact hwf.execMrepl
  | mswz => exact hwf.execMswz
  | dld => exact hwf.execDld
  | dstr => exact hwf.execDstr
  | dpt => exact hwf.execDpt
  | dadd => exact hwf.execDadd
  | dsub => exact hwf.execDsub
  | dmul => exact hwf.execDmul
  | dmax => exact hwf.execDmax
  | dmin => exact hwf.execDmin
  | dmix => exact hwf.execDmix
  | dtag => exact hwf.execDtag
  | dmom => exact hwf.execDmom
  | dqnt => exact hwf.execDqnt
  | ld => exact hwf.execLd
  | ldAcq => exact hwf.execLdAcq
  | st => exact hwf.execSt
  | stRel => exact hwf.execStRel
  | ldg => exact hwf.execLdg
  | ldgAcq => exact hwf.execLdgAcq
  | stg => exact hwf.execStg
  | stgRel => exact hwf.execStgRel
  | ldh => exact hwf.execLdh
  | ldhAcq => exact hwf.execLdhAcq
  | sth => exact hwf.execSth
  | sthRel => exact hwf.execSthRel
  | pref => exact hwf.execPref
  | atmAdd => exact hwf.execAtmAdd
  | atmAnd => exact hwf.execAtmAnd
  | atmOr => exact hwf.execAtmOr
  | atmXor => exact hwf.execAtmXor
  | atmMin => exact hwf.execAtmMin
  | atmMax => exact hwf.execAtmMax
  | atmFadd => exact hwf.execAtmFadd
  | atmSwap => exact hwf.execAtmSwap
  | atmCas => exact hwf.execAtmCas
  | atmIncb => exact hwf.execAtmIncb
  | fenceCtx => exact hwf.execFenceCtx
  | fenceCore => exact hwf.execFenceCore
  | fenceClu => exact hwf.execFenceClu
  | fenceDie => exact hwf.execFenceDie
  | fenceSys => exact hwf.execFenceSys
  | fencePkg => exact hwf.execFencePkg
  | fencep => exact hwf.execFencep
  | fiss => exact hwf.execFiss
  | fwait => exact hwf.execFwait
  | txdeclR => exact hwf.execTxdeclR
  | txdeclW => exact hwf.execTxdeclW
  | txsub => exact hwf.execTxsub
  | txwait => exact hwf.execTxwait
  | txend => exact hwf.execTxend
  | bhand => exact hwf.execBhand
  | bwait => exact hwf.execBwait
  | bstat => exact hwf.execBstat
  | bswz => exact hwf.execBswz
  | battach => exact hwf.execBattach
  | brevoke => exact hwf.execBrevoke
  | cpgo => exact hwf.execCpgo
  | cpwait => exact hwf.execCpwait
  | swgo => exact hwf.execSwgo
  | gath => exact hwf.execGath
  | coll => exact hwf.execColl
  | qpush => exact hwf.execQpush
  | qpop => exact hwf.execQpop
  | uiret => exact hwf.execUiret
  | hstart => exact hwf.execHstart
  | hend => exact hwf.execHend
  | hwait => exact hwf.execHwait
  | launch => exact hwf.execLaunch
  | lwait => exact hwf.execLwait
  | cancelLaunch => exact hwf.execCancelLaunch
  | cancelGraph => exact hwf.execCancelGraph
  | cancelSession => exact hwf.execCancelSession
  | cancelJob => exact hwf.execCancelJob
  | bar => exact hwf.execBar
  | xsend => exact hwf.execXsend
  | xrecv => exact hwf.execXrecv
  | rpush => exact hwf.execRpush
  | rpop => exact hwf.execRpop
  | reos => exact hwf.execReos
  | prog => exact hwf.execProg
  | yield => exact hwf.execYield
  | sysr => exact hwf.execSysr
  | sysw => exact hwf.execSysw
  | ovtld => exact hwf.execOvtld
  | ctxsave => exact hwf.execCtxsave
  | ctxload => exact hwf.execCtxload
  | tlbinv => exact hwf.execTlbinv
  | tlbsync => exact hwf.execTlbsync
  | hcall => exact hwf.execHcall
  | trapret => exact hwf.execTrapret
  | evpost => exact hwf.execEvpost
  | wipe => exact hwf.execWipe
  | pmap => exact hwf.execPmap
  | matrixCommandExecute => exact hwf.execMatrixCommandExecute
  | epilogueRowFault => exact hwf.execEpilogueRowFault
  | panelRefetch => exact hwf.execPanelRefetch
  | drainMarkerReply => exact hwf.execDrainMarkerReply
  | submissionAccepted => exact hwf.execSubmissionAccepted
  | batchClose => exact hwf.execBatchClose
  | batchApply => exact hwf.execBatchApply
  | sequencerApplyResume => exact hwf.execSequencerApplyResume
  | sliceGrant => exact hwf.execSliceGrant
  | sliceRelease => exact hwf.execSliceRelease
  | txHold => exact hwf.execTxHold
  | handoverPoint => exact hwf.execHandoverPoint
  | bankReturn => exact hwf.execBankReturn
  | bankWipeDone => exact hwf.execBankWipeDone
  | channelArbitration => exact hwf.execChannelArbitration
  | strandRun => exact hwf.execStrandRun
  | userInterrupt => exact hwf.execUserInterrupt
  | gatherFinish => exact hwf.execGatherFinish
  | collectiveFinish => exact hwf.execCollectiveFinish
  | barrierComplete => exact hwf.execBarrierComplete
  | exchangeDelivery => exact hwf.execExchangeDelivery
  | governorEvaluation => exact hwf.execGovernorEvaluation
  | accessArrival => exact hwf.execAccessArrival
  | storeAcknowledged => exact hwf.execStoreAcknowledged
  | remoteRefused => exact hwf.execRemoteRefused
  | pageWalkFill => exact hwf.execPageWalkFill
  | trapEntry => exact hwf.execTrapEntry
  | fatalTrap => exact hwf.execFatalTrap
  | recordRead => exact hwf.execRecordRead
  | launchArbitration => exact hwf.execLaunchArbitration
  | dependenceReread => exact hwf.execDependenceReread
  | launchStart => exact hwf.execLaunchStart
  | preloadRun => exact hwf.execPreloadRun
  | launchComplete => exact hwf.execLaunchComplete
  | cancellation => exact hwf.execCancellation
  | hostTimeout => exact hwf.execHostTimeout
  | evictionDecision => exact hwf.execEvictionDecision
  | lastSafeMoment => exact hwf.execLastSafeMoment
  | deadlineChainStart => exact hwf.execDeadlineChainStart
  | laneGrant => exact hwf.execLaneGrant
  | swapOutStrand => exact hwf.execSwapOutStrand
  | swapInStrand => exact hwf.execSwapInStrand
  | dieResetComplete => exact hwf.execDieResetComplete
  | branchResolution => exact hwf.execBranchResolution
  | loadValueReturn => exact hwf.execLoadValueReturn
  | pointChangeDone => exact hwf.execPointChangeDone
  | ringcfgWrite => exact hwf.execRingcfgWrite
  | wqchainWrite => exact hwf.execWqchainWrite
  | vdiemapWrite => exact hwf.execVdiemapWrite
  | trapqWrite => exact hwf.execTrapqWrite
  | fatalClear => exact hwf.execFatalClear
  | registerWrite => exact hwf.execRegisterWrite
  | stopImageRestore => exact hwf.execStopImageRestore
  | deviceReset => exact hwf.execDeviceReset
  | measurementExtend => exact hwf.execMeasurementExtend
  | lifeCycleAdvance => exact hwf.execLifeCycleAdvance
  | dieReset => exact hwf.execDieReset
  | partitionTeardown => exact hwf.execPartitionTeardown
  | vfctlWrite => exact hwf.execVfctlWrite
  | partitionCreation => exact hwf.execPartitionCreation
  | firmwareUpdate => exact hwf.execFirmwareUpdate
  | doorbell => exact hwf.execDoorbell
  | queueStatusClear => exact hwf.execQueueStatusClear
  | inboundPostedWrite => exact hwf.execInboundPostedWrite
  | inboundRead => exact hwf.execInboundRead
  | hostCompletion => exact hwf.execHostCompletion
  | flitReceive => exact hwf.execFlitReceive
  | linkDown => exact hwf.execLinkDown
  | linkRetrain => exact hwf.execLinkRetrain
  | spliceMarkerReceive => exact hwf.execSpliceMarkerReceive
  | resumeRequest => exact hwf.execResumeRequest
  | bar2Evpost => exact hwf.execBar2Evpost
  | operandQueueParityError => exact hwf.execOperandQueueParityError
  | stallExpiry => exact hwf.execStallExpiry
  | preemptRequest => exact hwf.execPreemptRequest
  | thermalStep => exact hwf.execThermalStep
  | migrationStop => exact hwf.execMigrationStop
  | jobCut => exact hwf.execJobCut
  | illegalWord => exact hwf.execIllegalWord
  | dbword => exact hwf.execDbword
  | getMeasurements => exact hwf.execGetMeasurements
  | allowanceRefill => exact hwf.execAllowanceRefill

/-! ### One step (R233) -/

theorem State.MemWf.counted {s : State} {i : Instr} {t : State} (ht : t.MemWf) : (s.counted i t).MemWf := memWf_ite ht.countUnits ht

theorem State.MemWf.unpoison {s : State} {i : Instr} {t : State} (ht : t.MemWf) : (s.unpoison i t).MemWf := memWf_ite ht.setCore ht

theorem State.MemWf.keep {s : State} {i : Instr} {t : State} (ht : t.MemWf) : (s.keep i t).MemWf := by
  unfold State.keep
  dsimp only
  split
  · exact memWf_ite ht.setCtx ht
  · exact ht

theorem State.MemWf.fetchTrap {s : State} {c : Cause} {detail va ipa : Nat} (hwf : s.MemWf) : Out.MemWf (s.fetchTrap c detail va ipa) := hwf.trapOut

theorem State.MemWf.fetch {s : State} (hwf : s.MemWf) {v' : BitVec 96} {t' : State} (hr : s.fetch = .ok (v', t')) : t'.MemWf := by
  unfold State.fetch at hr
  dsimp only at hr
  split at hr
  · cases hr
  · split at hr
    · split at hr
      · cases hr
      · cases hr
    · cases hr
    · split at hr
      · cases hr
      · cases hr
      · cases hr
      · split at hr
        · cases hr
        · split at hr
          · cases hr
          · cases hr
            exact hwf.chargePieces

theorem State.MemWf.fetch_error {s : State} (hwf : s.MemWf) {o : Out} (hr : s.fetch = .error o) : Out.MemWf o := by
  unfold State.fetch at hr
  dsimp only at hr
  split at hr
  · cases hr
    exact hwf.fetchTrap
  · split at hr
    · split at hr
      · cases hr
        exact hwf.dropWalks.fetchTrap
      · cases hr
        exact Out.MemWf.next hwf.startWalk.setMe
    · cases hr
      exact hwf.fetchTrap
    · split at hr
      · cases hr
        exact hwf.fetchTrap
      · cases hr
        exact Out.MemWf.fault _
      · cases hr
        exact hwf.fetchTrap
      · split at hr
        · cases hr
          exact Out.MemWf.next hwf.held
        · split at hr
          · cases hr
            exact hwf.fetchTrap
          · cases hr

theorem State.MemWf.run {s : State} (hwf : s.MemWf) {i : Instr} : Out.MemWf (s.run i) := by
  have he := hwf.exec (i := i)
  unfold State.run
  split
  · next hr => exact Out.MemWf.next (he _ hr).counted.unpoison.keep
  · exact he

theorem State.MemWf.turn {s : State} (hwf : s.MemWf) : Out.MemWf s.turn := by
  unfold State.turn
  split
  · exact hwf.run
  · split
    · next hr => exact hwf.fetch_error hr
    · next hr =>
      have ht := hwf.fetch hr
      split
      · exact ht.execIllegalWord
      · split
        · exact Out.MemWf.next ht.held
        · split
          · exact ht.fetchTrap
          · exact ht.run

theorem State.MemWf.clearYield {s : State} {c : Nat} (hwf : s.MemWf) : (s.clearYield c).MemWf := hwf.setCore

theorem State.MemWf.tryEach {s : State} (hwf : s.MemWf) {c : Nat} {yields : Bool} {xs : List Nat} {o : Out} (ho : s.tryEach c yields xs = some o) :
    Out.MemWf o := by
  induction xs with
  | nil => cases ho
  | cons x xs ih =>
    unfold State.tryEach at ho
    split at ho
    · have hturn : Out.MemWf (State.turn { (s.clearYield c).setCore c { (s.clearYield c).core c with last := x } with cur := c, curCtx := x }) :=
        hwf.clearYield.setCore.upd.turn
      dsimp only at ho
      split at ho
      · next hu =>
        split at ho
        · exact ih ho
        · cases ho
          rw [← hu]
          exact hturn
      · cases ho
        exact hturn
    · exact ih ho

theorem State.MemWf.cycle {s : State} {c : Nat} (hwf : s.MemWf) : Out.MemWf (s.cycle c) := by
  unfold State.cycle
  dsimp only
  split
  · next hr => exact hwf.setCore.returnDue.tryEach hr
  · split
    · next hs => exact hwf.setCore.returnDue.tryEach hs
    · exact Out.MemWf.next hwf.setCore.returnDue.clearYield

theorem State.MemWf.act {s : State} (hwf : s.MemWf) {a : Action} : Out.MemWf (s.act a) := by
  cases a with
  | cycle c => exact hwf.cycle
  | event i => exact hwf.exec
  | save c b => exact hwf.execPreemptRequest
  | thermal n => exact hwf.execThermalStep
  | point n => exact hwf.execPointChangeDone
  | remap m => exact hwf.execVdiemapWrite
  | stop a => exact hwf.execMigrationStop
  | cut j => exact hwf.execJobCut

theorem State.MemWf.tick {s : State} (hwf : s.MemWf) : (s.tick).MemWf := hwf.upd

theorem State.MemWf.freezeDrained {s : State} (hwf : s.MemWf) : (s.freezeDrained).MemWf := hwf.each (fun _ _ ht => ht.freezeNow)

theorem Out.MemWf.ticked {o : Out} (ho : Out.MemWf o) : Out.MemWf (ticked o) := by
  cases o with
  | next t => exact Out.MemWf.next (ho t rfl).freezeDrained.stampHeads.tick
  | fault f => exact Out.MemWf.fault f
  | refused r => exact ho

theorem State.MemWf.inner {s : State} (hwf : s.MemWf) : Out.MemWf (s.inner) := by
  unfold State.inner
  split
  · exact hwf.act
  · exact Out.MemWf.next hwf

theorem State.MemWf.outer {s : State} {i : Instr} (hwf : s.MemWf) : Out.MemWf (s.outer i) := outWf_ite hwf.exec (Out.MemWf.next hwf)

/-! ### The step -/

theorem State.MemWf.step {s : State} (hwf : s.MemWf) : Out.MemWf (step s) := by
  unfold Machine.step
  split
  · exact Out.MemWf.ticked hwf.upd.outer
  · exact Out.MemWf.ticked hwf.inner

/-- Settles O8: every operation that a step is made of keeps the form, and only a write, a wipe or a new map touches a memory. -/
theorem stepKeepsMemoryForm : Obligations.StepKeepsMemoryForm := fun _ t hwf hs => State.MemWf.step hwf t hs

end Sys2Proof.Machine
end
